-- ==== Sys2Proof/Word.lean ====
section
/-! DEFINITION. The word types of the ZD-4864 model. All multi-byte fields are little-endian (R8). -/
namespace Sys2Proof

/-- A register or memory word of the triad address space: 32 bits. -/
abbrev Word := BitVec 32

/-- One byte. -/
abbrev Byte := BitVec 8

/-- One 64-bit data word of a code word (R194). -/
abbrev DWord := BitVec 64

end Sys2Proof
end

