-- ==== Sys2Proof/Machine/Fp32.lean ====
section
/-! DEFINITION. IEEE 754 binary32 arithmetic on exact numbers, rounded once to nearest with ties to even (R148 to R152).
A finite value is (-1)^neg * man * 2^exp with unbounded exponent, so every operation is computed exactly first. -/
namespace Sys2Proof.Machine

/-- A binary32 datum taken apart. -/
inductive Fp where
  /-- A NaN; `signalling` where bit 22 is clear (R149). -/
  | nan (signalling : Bool)
  | inf (neg : Bool)
  /-- `(-1)^neg * man * 2^exp`; `man = 0` is a signed zero. -/
  | fin (neg : Bool) (man : Nat) (exp : Int)
  deriving DecidableEq, Repr

/-- The canonical NaN, the only one the module produces (R149). -/
def canonicalNaN : Word := 0x7FC00000

/-- Take a binary32 word apart. -/
def fpDecode (w : Word) : Fp :=
  let e : Nat := (w.toNat / 2 ^ 23) % 256
  let m : Nat := w.toNat % 2 ^ 23
  let n := w.getLsbD 31
  if e = 255 then (if m = 0 then .inf n else .nan (m < 2 ^ 22))
  else if e = 0 then .fin n m (-149)
  else .fin n (m + 2 ^ 23) (e - 150)

/-- The sign bit of a result. -/
def fpSign (neg : Bool) : Nat := if neg then 2 ^ 31 else 0

/-- Divide by `2^k` rounding to nearest, ties to even; `sticky` says that the exact value lies strictly above `m`. -/
def shiftRound (m k : Nat) (sticky : Bool) : Nat :=
  let q := m / 2 ^ k
  let r := m % 2 ^ k
  let half := 2 ^ k / 2
  if k = 0 then q
  else if r > half ∨ (r = half ∧ (sticky ∨ q % 2 = 1)) then q + 1 else q

/-- Round `(-1)^neg * (man + something below one unit if sticky) * 2^exp` to binary32; the flag is set where the rounded
result lies beyond the largest finite magnitude (R148, R149). `sticky` is used only with `man >= 2^26`. -/
def fpRound (neg : Bool) (man : Nat) (exp : Int) (sticky : Bool) : Word × Bool :=
  if man = 0 then (BitVec.ofNat 32 (fpSign neg), false)
  else
    let len : Int := (Nat.log2 man : Int) + 1
    -- the exponent of the last place kept: 24 significant bits, or the subnormal place
    let q : Int := max (exp + len - 24) (-149)
    let kept : Nat := if q ≤ exp then man * 2 ^ (exp - q).toNat else shiftRound man (q - exp).toNat sticky
    -- kept * 2^q with kept at most 2^24
    let kq : Nat × Int := if kept = 2 ^ 24 then (2 ^ 23, q + 1) else (kept, q)
    if kq.1 < 2 ^ 23 then (BitVec.ofNat 32 (fpSign neg + kq.1), false)
    else
      let e := (kq.2 + 150).toNat
      if e ≥ 255 then (BitVec.ofNat 32 (fpSign neg + 255 * 2 ^ 23), true)
      else (BitVec.ofNat 32 (fpSign neg + e * 2 ^ 23 + (kq.1 - 2 ^ 23)), false)

/-- A result word with whether it sets FE (R149). -/
abbrev FpRes := Word × Bool

/-- The NaN rule for two operands: some NaN gives the canonical NaN, and FE where one is signalling (R149). -/
def fpNaN2 : Fp → Fp → Option FpRes
  | .nan s, .nan t => some (canonicalNaN, s || t)
  | .nan s, _ => some (canonicalNaN, s)
  | _, .nan t => some (canonicalNaN, t)
  | _, _ => none

/-- An infinity. -/
def fpInf (neg : Bool) : Word := BitVec.ofNat 32 (fpSign neg + 255 * 2 ^ 23)

/-- The signed exact sum of two finite values on the common exponent. -/
def fpSumExact (n1 : Bool) (m1 : Nat) (e1 : Int) (n2 : Bool) (m2 : Nat) (e2 : Int) : Int × Int :=
  let e := min e1 e2
  let a : Int := (m1 * 2 ^ (e1 - e).toNat : Nat)
  let b : Int := (m2 * 2 ^ (e2 - e).toNat : Nat)
  ((if n1 then -a else a) + (if n2 then -b else b), e)

/-- FADD (R147, R148): addition; the zero sign follows IEEE 754 for round to nearest. -/
def fpAdd (x y : Word) : FpRes :=
  let a := fpDecode x
  let b := fpDecode y
  match fpNaN2 a b with
  | some r => r
  | none =>
    match a, b with
    | .inf m, .inf n => if m = n then (fpInf m, false) else (canonicalNaN, true)
    | .inf m, _ => (fpInf m, false)
    | _, .inf n => (fpInf n, false)
    | .fin n1 m1 e1, .fin n2 m2 e2 =>
      let s := fpSumExact n1 m1 e1 n2 m2 e2
      if s.1 = 0 then (BitVec.ofNat 32 (fpSign (n1 && n2)), false)
      else fpRound (decide (s.1 < 0)) s.1.natAbs s.2 false
    | _, _ => (canonicalNaN, false)

/-- Negate: invert the sign bit. -/
def fpNeg (y : Word) : Word := y ^^^ 0x80000000

/-- FSUB (R147): a NaN operand keeps its kind, otherwise addition of the negated operand. -/
def fpSub (x y : Word) : FpRes := fpAdd x (fpNeg y)

/-- FMUL (R147, R149). -/
def fpMul (x y : Word) : FpRes :=
  let a := fpDecode x
  let b := fpDecode y
  match fpNaN2 a b with
  | some r => r
  | none =>
    match a, b with
    | .inf m, .inf n => (fpInf (m != n), false)
    | .inf m, .fin n k _ => if k = 0 then (canonicalNaN, true) else (fpInf (m != n), false)
    | .fin n k _, .inf m => if k = 0 then (canonicalNaN, true) else (fpInf (m != n), false)
    | .fin n1 m1 e1, .fin n2 m2 e2 => fpRound (n1 != n2) (m1 * m2) (e1 + e2) false
    | _, _ => (canonicalNaN, false)

/-- FDIV (R147, R149): a finite non-zero value over zero gives a signed infinity and sets FE. -/
def fpDiv (x y : Word) : FpRes :=
  let a := fpDecode x
  let b := fpDecode y
  match fpNaN2 a b with
  | some r => r
  | none =>
    match a, b with
    | .inf _, .inf _ => (canonicalNaN, true)
    | .inf m, .fin n _ _ => (fpInf (m != n), false)
    | .fin m _ _, .inf n => (BitVec.ofNat 32 (fpSign (m != n)), false)
    | .fin n1 m1 e1, .fin n2 m2 e2 =>
      if m2 = 0 then (if m1 = 0 then (canonicalNaN, true) else (fpInf (n1 != n2), true))
      else
        let num := m1 * 2 ^ 60
        fpRound (n1 != n2) (num / m2) (e1 - e2 - 60) (decide (num % m2 ≠ 0))
    | _, _ => (canonicalNaN, false)

/-- The integer square root of `n`, found bit by bit from bit `b - 1` down onto `r`. -/
def isqrt : Nat → Nat → Nat → Nat
  | 0, _, r => r
  | b + 1, n, r => isqrt b n (if (r + 2 ^ b) * (r + 2 ^ b) ≤ n then r + 2 ^ b else r)

/-- FSQRT (R147, R149): the square root of a negative value other than -0 is invalid. -/
def fpSqrt (x : Word) : FpRes :=
  match fpDecode x with
  | .nan s => (canonicalNaN, s)
  | .inf false => (x, false)
  | .inf true => (canonicalNaN, true)
  | .fin n m e =>
    if m = 0 then (x, false)
    else if n then (canonicalNaN, true)
    else
      -- scale by an even power of two so that the integer root has more than 26 bits
      let odd := decide (e % 2 ≠ 0)
      let m' := (if odd then m * 2 else m) * 2 ^ 60
      let e' := (if odd then e - 1 else e) - 60
      let r := isqrt 44 m' 0
      fpRound false r (e' / 2) (decide (r * r ≠ m'))

/-- An integer as binary32 (R150). -/
def fpOfInt (i : Int) : Word := (fpRound (decide (i < 0)) i.natAbs 0 false).1

/-- The integer nearest to a finite value: towards zero, or to nearest with ties to even (R147). -/
def fpInteger (nearest neg : Bool) (m : Nat) (e : Int) : Int :=
  let mag : Nat :=
    if 0 ≤ e then m * 2 ^ e.toNat
    else if nearest then shiftRound m (-e).toNat false else m / 2 ^ (-e).toNat
  if neg then -(mag : Int) else mag

/-- FFTOI and FFTOIR (R147, R149): the signed integer, and whether FE is set. -/
def fpToInt (nearest : Bool) (x : Word) : FpRes :=
  match fpDecode x with
  | .nan _ => (0, true)
  | .inf false => (0x7FFFFFFF, true)
  | .inf true => (0x80000000, true)
  | .fin n m e =>
    let i := fpInteger nearest n m e
    if i > 2147483647 then (0x7FFFFFFF, true)
    else if i < -2147483648 then (0x80000000, true)
    else (BitVec.ofInt 32 i, false)

/-- The relation FCMP finds (R152); the unordered case says whether an operand is a signalling NaN. -/
inductive FpRel where
  | eq | lt | gt
  | unordered (signalling : Bool)
  deriving DecidableEq, Repr

/-- The order of two signed exact values. -/
def fpOrder (a b : Int) : FpRel := if a = b then .eq else if a < b then .lt else .gt

/-- FCMP (R152): +0 equals -0. -/
def fpCompare (x y : Word) : FpRel :=
  match fpDecode x, fpDecode y with
  | .nan s, .nan t => .unordered (s || t)
  | .nan s, _ => .unordered s
  | _, .nan t => .unordered t
  | .inf m, .inf n => if m = n then .eq else if m then .lt else .gt
  | .inf m, .fin _ _ _ => if m then .lt else .gt
  | .fin _ _ _, .inf n => if n then .gt else .lt
  | .fin n1 m1 e1, .fin n2 m2 e2 => fpOrder (fpSumExact n1 m1 e1 (!n2) m2 e2).1 0

/-- Whether a word is a NaN. -/
def fpIsNaN (w : Word) : Bool :=
  match fpDecode w with
  | .nan _ => true
  | _ => false

end Sys2Proof.Machine
end

