-- ==== Sys2Proof/Config.lean ====
section
/-! DEFINITION. What the spec leaves open: constants without a body. Nothing can prove a value of one of them, so a
statement that holds, holds whatever they are. Those that give a fresh value each time are applied to the counter
`State.free`, which the step advances. -/
namespace Sys2Proof.Config

/-- The event number [7:0] of a Cairn record code that the manual does not name (R431), by rule number and by the place
of the event within that rule (notes/assumptions/6.md). -/
opaque eventNo : Nat → Nat → BitVec 8

/-- What a Protected Store word that nothing has written since power-up holds: data and check bits in any combination
(R201), by the number of the power-up and the word address. -/
opaque psArbitrary : Nat → Nat → BitVec 72

/-- The clocks a store waits for a full store buffer; at most 2 are used (R112). -/
opaque storeWait : Nat → Nat

/-- The clocks that END spends beyond one for each entry of the store buffer; at most 11 are used in all (R115, R116). -/
opaque endDrain : Nat → Nat

/-- The clocks a repeated fetch costs; at most 8 are used (R169). -/
opaque fetchRepeat : Nat → Nat

/-- The store-buffer wait that two-lane operation without lane A adds; at most 2 are used (R173). -/
opaque voteWait : Nat → Nat

/-- The clocks that the steps of a program switch take; at most the carry cost of R65 is used (CE_SWSTAT.CARRY_CLK). -/
opaque carryClocks : Nat → Nat

/-- The progress of a pending operation in per cent; at most 100 is used (R257). -/
opaque progress : Nat → Nat

/-- A 256-bit random number of the module: session nonces and dangerous-command tokens (R242, R248). -/
opaque random : Nat → BitVec 256

/-- The headerFcs of a PD telegram over its header (R296): the manual names the field and not its polynomial. -/
opaque headerFcs : List Byte → BitVec 32

/-- The MAC address of a station by its IPv4 address: the manual names no address resolution (R290). -/
opaque arp : Nat → BitVec 48

/-- The device status that the MVB device answers with (R308), which the manual leaves to IEC 61375-3-1. -/
opaque mvbStatus : Nat → BitVec 16

/-- The check of a configuration (CFG_CHECK): the manual names the value and not how it is computed. -/
opaque cfgCheck : List (Nat × Byte) → BitVec 32

/-- Whether a figure that the manual reports in whole units is rounded up: by its place in the model, numerator and
denominator (notes/assumptions/20.md). -/
opaque roundsUp : Nat → Nat → Nat → Bool

/-- The rated P/E cycles of the flash, which AGE_REPORT returns (R473). -/
opaque ratedCycles : BitVec 32

/-- The range, within its bin, that stands for the half-cycles of a rainflow bin in the damage sum (R466), in mK above the
bin's lower edge; at most 5,000 is used. -/
opaque binPoint : Nat → Nat

/-- Records the Trig log holds beyond the 400,000 that it holds at least (R420). -/
opaque trigLogSpare : Nat

/-- The authentication code of a reply to a request with AUTH that no key is known for, by the bytes it covers: the manual
asks for the code (R234) and names no key. -/
opaque unkeyed : List Byte → BitVec 128

/-- SWID of Trig's firmware as delivered (R428), by its version. -/
opaque deliveredSwid : Word → Word

end Sys2Proof.Config
end

