-- ==== Sys2Proof/Machine/Ecc.lean ====
section
/-! DEFINITION. The address-folded SEC-DED code of every stored 64-bit word, and the classes of a read (R194 to R196). -/
namespace Sys2Proof.Machine

/-- A stored word: 64 data bits and 8 check bits (R194). -/
structure Code where
  data : DWord
  chk : Byte
  deriving DecidableEq, Repr

/-- The class of a read (R195). -/
inductive Cls where
  | clean | ce | address | poison | ue
  deriving DecidableEq, Repr

/-- The 56 byte values of weight 3, ascending (R194). -/
def weight3 : List Byte :=
  [0x07, 0x0b, 0x0d, 0x0e, 0x13, 0x15, 0x16, 0x19, 0x1a, 0x1c, 0x23, 0x25, 0x26, 0x29,
   0x2a, 0x2c, 0x31, 0x32, 0x34, 0x38, 0x43, 0x45, 0x46, 0x49, 0x4a, 0x4c, 0x51, 0x52,
   0x54, 0x58, 0x61, 0x62, 0x64, 0x68, 0x70, 0x83, 0x85, 0x86, 0x89, 0x8a, 0x8c, 0x91,
   0x92, 0x94, 0x98, 0xa1, 0xa2, 0xa4, 0xa8, 0xb0, 0xc1, 0xc2, 0xc4, 0xc8, 0xd0, 0xe0]

/-- The 56 byte values of weight 5, ascending (R194). -/
def weight5 : List Byte :=
  [0x1f, 0x2f, 0x37, 0x3b, 0x3d, 0x3e, 0x4f, 0x57, 0x5b, 0x5d, 0x5e, 0x67, 0x6b, 0x6d,
   0x6e, 0x73, 0x75, 0x76, 0x79, 0x7a, 0x7c, 0x8f, 0x97, 0x9b, 0x9d, 0x9e, 0xa7, 0xab,
   0xad, 0xae, 0xb3, 0xb5, 0xb6, 0xb9, 0xba, 0xbc, 0xc7, 0xcb, 0xcd, 0xce, 0xd3, 0xd5,
   0xd6, 0xd9, 0xda, 0xdc, 0xe3, 0xe5, 0xe6, 0xe9, 0xea, 0xec, 0xf1, 0xf2, 0xf4, 0xf8]

/-- The columns of data bits 0 to 63 (R194). -/
def dataCols : List Byte := weight3 ++ weight5.take 8

/-- The columns of address bits W[0] to W[22] (R194). -/
def addrCols : List Byte := (weight5.drop 8).take 23

/-- The exclusive OR of the columns of the set bits of `n`, lowest bit first. -/
def xorCols : List Byte → Nat → Byte
  | [], _ => 0
  | c :: cs, n => (if n % 2 = 1 then c else 0) ^^^ xorCols cs (n / 2)

/-- The check bits of `data` stored at word address `w` (R194). -/
def checkBits (data : DWord) (w : Nat) : Byte := xorCols dataCols data.toNat ^^^ xorCols addrCols w

/-- The code word the module stores for `data` at word address `w`. -/
def encodeWord (w : Nat) (data : DWord) : Code := ⟨data, checkBits data w⟩

/-- A poisoned word at word address `w` (R196). -/
def poisonWord (w : Nat) : Code := ⟨0, checkBits 0 w ^^^ 0xFF⟩

/-- The syndrome of reading `c` at word address `w` (R194). -/
def syndrome (w : Nat) (c : Code) : Byte := checkBits c.data w ^^^ c.chk

/-- The eight weight-1 values. -/
def weight1 : List Byte := [0x01, 0x02, 0x04, 0x08, 0x10, 0x20, 0x40, 0x80]

/-- The class a syndrome gives (R195). -/
def classOf (syn : Byte) : Cls :=
  if syn = 0 then .clean
  else if syn ∈ weight1 then .ce
  else if syn ∈ dataCols then .ce
  else if syn ∈ addrCols then .address
  else if syn = 0xFF then .poison
  else .ue

/-- The position of a column in a list of columns. -/
def colIndex : List Byte → Byte → Option Nat
  | [], _ => none
  | c :: cs, x => if c = x then some 0 else (colIndex cs x).map (· + 1)

/-- The data a read delivers: a wrong data bit is inverted (R195). -/
def corrected (w : Nat) (c : Code) : DWord :=
  match colIndex dataCols (syndrome w c) with
  | some i => c.data ^^^ BitVec.ofNat 64 (2 ^ i)
  | none => c.data

/-- The class of reading `c` at word address `w`. -/
def Code.cls (w : Nat) (c : Code) : Cls := classOf (syndrome w c)

/-- A read of this class delivers data (R195). -/
def Cls.ok : Cls → Bool
  | .clean | .ce => true
  | _ => false

end Sys2Proof.Machine
end

