-- ==== Sys2Proof/Machine/Sparse.lean ====
section
/-! DEFINITION. Sparse data by key: a list of (key, value) pairs with strictly rising keys. What an unlisted key
reads as is named by the user of the list; `ssetD` removes an entry that equals it, so that equal contents are
equal lists. -/
namespace Sys2Proof.Machine

/-- Plain data by numeric key. -/
abbrev Sparse (α : Type) := List (Nat × α)

/-- The value listed under key `k`, if any. -/
def sget {α : Type} : Sparse α → Nat → Option α
  | [], _ => none
  | (j, v) :: t, k => if j = k then some v else sget t k

/-- List `v` under key `k`, replacing what was there. -/
def sput {α : Type} : Sparse α → Nat → α → Sparse α
  | [], k, v => [(k, v)]
  | (j, w) :: t, k, v =>
    if k < j then (k, v) :: (j, w) :: t else if k = j then (k, v) :: t else (j, w) :: sput t k v

/-- Remove key `k`. -/
def serase {α : Type} (m : Sparse α) (k : Nat) : Sparse α := m.filter (fun p => p.1 != k)

/-- The value under key `k`, where an unlisted key reads as `d`. -/
def sgetD {α : Type} (d : α) (m : Sparse α) (k : Nat) : α := (sget m k).getD d

/-- Write `v` under key `k`, where an unlisted key reads as `d`: writing `d` removes the entry. -/
def ssetD {α : Type} [DecidableEq α] (d : α) (m : Sparse α) (k : Nat) (v : α) : Sparse α :=
  if v = d then serase m k else sput m k v

/-- The keys rise strictly. -/
def sorted {α : Type} : Sparse α → Bool
  | [] => true
  | [_] => true
  | (i, _) :: (j, w) :: t => decide (i < j) && sorted ((j, w) :: t)

/-- The canonical form: keys rise strictly and no entry equals what an unlisted key reads as. -/
def canonical {α : Type} [DecidableEq α] (d : Nat → α) (m : Sparse α) : Bool :=
  sorted m && m.all (fun p => decide (p.2 ≠ d p.1))

end Sys2Proof.Machine
end

