-- ==== Sys2Proof/Syntax.lean ====
section
/-! DEFINITION. The commands of the ZD-4864: one constructor per row of spec/opcode_table.json, with the operand types
they carry. -/
namespace Sys2Proof.Machine

/-! ### Cycle Code operands (spec/04_cycle_code_model.md R100, spec/06_triad_and_voting.md R174, R176) -/

/-- The three lanes of the triad (R164). -/
inductive Lane where
  | a | b | c
  deriving DecidableEq, Repr

/-- The record kinds the Saddle compares (R174). -/
inductive RecKind where
  | reg | flags | load | store | regpage | commit | fetch | dlypar | reload
  deriving DecidableEq, Repr

/-- What the Saddle found over the records of one instruction (R176, R178, R180, R181): the model holds the voted
value of every register once, so a fault of one lane reaches it as this operand. -/
inductive Vote where
  /-- Every record of every voting lane is equal. -/
  | agree
  /-- Lane `l` differs in a record of kind `k`; the others agree (R177). -/
  | minority (l : Lane) (k : RecKind)
  /-- No two lanes agree on a record of kind `k` (R172). -/
  | noMajority (k : RecKind)
  /-- CV0 and CV1 reach different verdicts (R178). -/
  | split (k : RecKind)
  /-- Lanes that find a parity error at their delay-register input (R180, R181). -/
  | parity (a b c : Bool)
  deriving DecidableEq, Repr

/-- What one comparator instance returns for a probe (R176, R179): a verdict of the three-lane rows, or none in time. -/
inductive Verdict where
  | none | agree | minority (l : Lane) | noMajority
  deriving DecidableEq, Repr

/-- What the Saddle finds on the RELOAD records of a lane's reload (R178, R183): the copies of the two good lanes agree, they
differ, or CV0 and CV1 reach different verdicts. -/
inductive Copies where
  | agree | differ | split
  deriving DecidableEq, Repr

/-- The operand fields of an SB-format instruction (R100): SL, NEG, SUB, IX and SID. -/
structure SbOp where
  sl : Bool
  neg : Bool
  sub : BitVec 2
  ix : BitVec 4
  sid : BitVec 18
  deriving DecidableEq, Repr

/-- The operand fields of an SW-format instruction (R100): RT, IX and SID. -/
structure SwOp where
  rt : BitVec 4
  ix : BitVec 4
  sid : BitVec 18
  deriving DecidableEq, Repr

/-- The operand fields of an M-format instruction (R100): RT, base register RB and OFF18. -/
structure MemOp where
  rt : BitVec 4
  rb : BitVec 4
  off : BitVec 18
  deriving DecidableEq, Repr

/-- The operand fields of an I-format instruction (R100): RD, RA and IMM18. -/
structure ImmOp where
  rd : BitVec 4
  ra : BitVec 4
  imm : BitVec 18
  deriving DecidableEq, Repr

/-- The operand fields of an R-format instruction with two sources (R100): RD, RA and RB. -/
structure RegOp where
  rd : BitVec 4
  ra : BitVec 4
  rb : BitVec 4
  deriving DecidableEq, Repr

/-! ### What the supervisor reads out of a program image (R36, R58, R62, R91)

The manual gives the signal table and the carry map byte by byte, but not the section table or the task table of an
image. The command that verifies an image therefore carries what the supervisor reads there (notes/assumptions/8.md). -/

/-- A declared range of signal IDs, BOOL or word (R46). -/
structure Range where
  first : Nat
  last : Nat
  word : Bool
  deriving DecidableEq, Repr

/-- A task of the task table (R36). T7 uses `entry` and `policy` only. -/
structure TaskDef where
  enable : Bool
  period : Nat
  phase : Nat
  wcet : Nat
  policy : Nat
  boundary : Bool
  limit : Nat
  entry : Nat
  inputs : List Range
  outputs : List Range
  latchCost : Nat
  commitCost : Nat
  deriving DecidableEq, Repr

/-- A signal table entry as decoded (R91): policy 0 HOLD, 1 DEFAULT, 2 ZERO. -/
structure SigEntry where
  id : Nat
  word : Bool
  policy : Nat
  default : Word
  stale : Nat
  deriving DecidableEq, Repr

/-- A program image as the supervisor reads it: the task table, the bytes of the signal table (R91), the code sections as
instruction indices, the initialisation entry point with RETAIN_INIT and the entry point of its second part (R123, R124),
and the bytes of the carry map section (R62). -/
structure Image where
  id : Word
  tasks : List TaskDef
  table : List Byte
  code : List (Nat × Nat)
  initEntry : Nat
  retain : Bool
  retainEntry : Nat
  carry : Option (List Byte)
  deriving DecidableEq, Repr

/-! ### Sources of register writes (R266) -/

/-- A source of register writes: a task of the triad or the initialisation routine (0 to 8), one REG_WRITE packet, one
Summit's bridge context, the supervisor. -/
inductive WSrc where
  | triad (w : Fin 9)
  | packet
  | bridge
  | supervisor
  deriving DecidableEq, Repr

/-! ### Command packets (R232, R236) -/

/-- A request packet that passed the framing, length and CRC checks of R238, for the opcode of its row: transport and
source (address and port, or position; its low byte is the number of the link it came in on), whether it arrived already
forwarded (R237), and the header fields and payload of R232. The CRC is computed from these. -/
structure Req where
  transport : Nat
  source : Nat
  forwarded : Bool
  tag : BitVec 16
  target : Byte
  session : Byte
  auth : Bool
  payload : List Byte
  mac : List Byte
  deriving DecidableEq, Repr

/-! ### Frames and messages from outside (R276, R294 to R325, R475) -/

/-- A frame of a link as the Link Fault Injector sees it (R475): its bytes, and whether its link check is right. -/
structure LinkFrame where
  bytes : List Byte
  ok : Bool
  deriving DecidableEq, Repr

/-- A frame an agent gives to a ring, with the descriptor fields PORT, META and META2 (R276). -/
structure AgentFrame where
  data : List Byte
  port : Nat
  meta1 : Word
  meta2 : Word
  deriving DecidableEq, Repr

/-- An instance with an ENABLE and a shutdown (R271). -/
inductive Inst where
  | ring (n : Nat) | port (n : Nat) | mvb | wtb | can (c : Nat) | ser (c : Nat) | enc (e : Nat)
  | ridge | brg (n : Nat) | fch (n : Nat) | tli (g : Nat) | pd
  deriving DecidableEq, Repr

/-- A CAN frame (R318). -/
structure CanFrame where
  id : BitVec 29
  ide : Bool
  fdf : Bool
  brs : Bool
  dlc : BitVec 4
  rtr : Bool
  esi : Bool
  data : List Byte
  deriving DecidableEq, Repr

/-- What a WTB inauguration finds and assigns (R312, R314): own address, the addresses present, whether the node becomes master
if it may, whether another node is a strong master, whether it is an end node, and the topography counter. -/
structure WtbTopo where
  own : Nat
  nodes : List Nat
  master : Bool
  strong : Bool
  endNode : Bool
  topo : Nat
  deriving DecidableEq, Repr

/-! ### Ridge and Col frames (R332, R355) -/

/-- A Ridge frame header with its payload (R332). `unit` is SRC bit 6; `sync` and `ackv` are FLAGS. -/
structure RidgeFrame where
  type : Nat
  hops : Nat
  src : Nat
  unit : Nat
  dst : Nat
  bcast : Bool
  seq : Nat
  ack : Nat
  sync : Bool
  ackv : Bool
  payload : List Byte
  deriving DecidableEq, Repr

/-- A PD telegram as received (R296, R297): whether its header check is right, its header fields and its dataset. -/
structure PdTelegram where
  fcsOk : Bool
  msgType : Nat
  version : Nat
  seq : Nat
  comId : Nat
  topo : Word
  length : Nat
  src : Nat
  dst : Nat
  data : List Byte
  deriving DecidableEq, Repr

/-- An MD message as the firmware reads it (R299): ingress link, ComId, peer address, whether it is a reply, its
session, whether it asks for a confirmation, and the PDU. -/
structure MdMessage where
  link : Nat
  comId : Nat
  peer : Nat
  reply : Bool
  session : Nat
  confirm : Bool
  pdu : List Byte
  deriving DecidableEq, Repr

/-- The grandmaster data set that the best master clock algorithm compares (R305), most significant field first. -/
structure ClockData where
  prio1 : Nat
  class_ : Nat
  accuracy : Nat
  variance : Nat
  prio2 : Nat
  identity : Nat
  deriving DecidableEq, Repr

/-- A PTP message (R305, R306): a Sync with the TAI of the master at this moment in ns, or an Announce with
currentUtcOffset and the data set of its grandmaster. -/
inductive PtpMsg where
  | sync (tai : Nat)
  | announce (utcOffset : Nat) (clock : ClockData)
  deriving DecidableEq, Repr

/-- A received Ridge frame: the port (`true` RIDGE-E), the frame, and whether its CRC is right, wrong, or the correct
CRC inverted (R334). -/
structure RidgeRx where
  east : Bool
  frame : RidgeFrame
  ok : Bool
  deriving DecidableEq, Repr

/-- A received COMPLETION, with the statuses of the words of a line (R348, notes/assumptions/14.md). -/
structure CompletionRx where
  rx : RidgeRx
  words : List Nat
  deriving DecidableEq, Repr

/-- A Col frame header with its payload (R355), received on lane 1 or 2. -/
structure ColFrame where
  type : Nat
  active : Bool
  seq : Nat
  epoch : Nat
  tick : Nat
  payload : List Byte
  deriving DecidableEq, Repr

/-- A received Col frame: its lane (`false` COL-1, `true` COL-2), the frame and whether its CRC is right (R357). -/
structure ColRx where
  lane2 : Bool
  frame : ColFrame
  ok : Bool
  deriving DecidableEq, Repr

/-- A MSG frame, received on the Ridge or on the Col link (R333, R356). -/
inductive MsgRx where
  | ridge (rx : RidgeRx)
  | col (rx : ColRx)
  deriving DecidableEq, Repr

/-! ### What a field scan reads at the pins (R324, R378 to R390) -/

/-- A field channel at a scan: pin voltage in mV against its return, load current in units of 0.1 mA, and whether the
current limit acts (R382). -/
structure Pin where
  mv : Int
  load : Nat
  limiting : Bool
  deriving DecidableEq, Repr

/-- A field group at a scan: L+ in mV and the current drawn from it in mA (R382, R386). -/
structure Supply where
  mv : Nat
  ma : Nat
  deriving DecidableEq, Repr

/-- An encoder since the last scan (R323, R325): edges counted, the edges counted up to a Z edge in between, and whether
a differential pair was weak or both tracks changed at once; or an SSI read with its raw word. -/
inductive EncRead where
  | none
  | incr (delta : Int) (z : Option Int) (wire quad : Bool)
  | ssi (raw : Word) (wire lineError : Bool)
  deriving DecidableEq, Repr

/-- What one field scan reads: its instant in ns since the last tick boundary, 64 channels, 8 group supplies, 16 train-line
inputs in mV, 6 encoders, and whether the two evaluators of the Safety Function Unit differ (R392). -/
structure Scan where
  into : Nat
  pins : List Pin
  groups : List Supply
  lines : List Int
  encoders : List EncRead
  evalMis : Bool
  deriving DecidableEq, Repr

/-! ### Start and power (R190, R202, R219, R413, R466) -/

/-- What the tests of SELFTEST find (R190, R202, R443, R450, R464): the lanes whose own tests fail, a failure of CV0 or CV1,
the number of an array whose test fails, and the failures of the loader and of the clocks. `read` is set where the firmware
as read from flash fails a test of R443 that the written image passes: the number of the test, and the block. -/
structure SelfTest where
  laneA : Bool
  laneB : Bool
  laneC : Bool
  comparators : Bool
  array : Option Nat
  loader : Bool
  clock : Bool
  read : Option (Nat × Nat)
  deriving DecidableEq, Repr

/-- What the straps read at a start (R27, R230). -/
structure Straps where
  slot : BitVec 6
  bootsel : Bool
  deriving DecidableEq, Repr

/-- What the unit measures at a 1 s sample (R455, R457, R466): temperatures in 0.1 °C, feed voltages in 10 mV, feed currents
in mA, and the store voltage in 10 mV. -/
structure Health where
  edge : Int
  hotspot : Int
  volt1 : Nat
  amps1 : Nat
  volt2 : Nat
  amps2 : Nat
  store : Nat
  deriving DecidableEq, Repr

end Sys2Proof.Machine

namespace Sys2Proof

open Machine

/-- The commands: the instructions, command packets, register accesses and events of spec/opcode_table.json. -/
inductive Instr where
  /-- BLD (R132). -/
  | bld (v : Vote) (o : SbOp)
  /-- BAND (R132). -/
  | band (v : Vote) (o : SbOp)
  /-- BOR (R132). -/
  | bor (v : Vote) (o : SbOp)
  /-- BXOR (R132). -/
  | bxor (v : Vote) (o : SbOp)
  /-- BST (R133). -/
  | bst (v : Vote) (o : SbOp)
  /-- BSR (R134). -/
  | bsr (v : Vote) (o : SbOp)
  /-- BEDGE (R135). -/
  | bedge (v : Vote) (o : SbOp)
  /-- PUSH (R136). -/
  | push (v : Vote) (code : BitVec 4)
  /-- POP (R137). -/
  | pop (v : Vote)
  /-- POPS (R137). -/
  | pops (v : Vote)
  /-- BNOT (R136). -/
  | bnot (v : Vote)
  /-- BNOTS (R136). -/
  | bnots (v : Vote)
  /-- BONE (R136). -/
  | bone (v : Vote)
  /-- BZERO (R136). -/
  | bzero (v : Vote)
  /-- BANY (R138). -/
  | bany (v : Vote)
  /-- BALL (R138). -/
  | ball (v : Vote)
  /-- MFBA (R136). -/
  | mfba (v : Vote) (rd : BitVec 4)
  /-- MTBA (R136). -/
  | mtba (v : Vote) (ra : BitVec 4)
  /-- MFSM (R136). -/
  | mfsm (v : Vote) (rd : BitVec 4)
  /-- MTSM (R138). -/
  | mtsm (v : Vote) (ra : BitVec 4)
  /-- BCNT (R136). -/
  | bcnt (v : Vote) (rd : BitVec 4)
  /-- BSPLAT (R138). -/
  | bsplat (v : Vote)
  /-- WLD (R139). -/
  | wld (v : Vote) (o : SwOp)
  /-- WST (R139). -/
  | wst (v : Vote) (o : SwOp)
  /-- SLDS (R139). -/
  | slds (v : Vote) (o : SwOp)
  /-- SSTS (R140). -/
  | ssts (v : Vote) (o : SwOp)
  /-- SAGE (R105). -/
  | sage (v : Vote) (o : SwOp)
  /-- WALD (R139). -/
  | wald (v : Vote) (ix : BitVec 4) (sid : BitVec 18)
  /-- WAST (R139). -/
  | wast (v : Vote) (ix : BitVec 4) (sid : BitVec 18)
  /-- ADD (R145). -/
  | add (v : Vote) (o : RegOp)
  /-- SUB (R145). -/
  | sub (v : Vote) (o : RegOp)
  /-- AND (R145). -/
  | and (v : Vote) (o : RegOp)
  /-- OR (R145). -/
  | or (v : Vote) (o : RegOp)
  /-- XOR (R145). -/
  | xor (v : Vote) (o : RegOp)
  /-- SHL (R145). -/
  | shl (v : Vote) (o : RegOp)
  /-- SHR (R145). -/
  | shr (v : Vote) (o : RegOp)
  /-- SAR (R145). -/
  | sar (v : Vote) (o : RegOp)
  /-- MUL (R145). -/
  | mul (v : Vote) (o : RegOp)
  /-- DIV (R145). -/
  | div (v : Vote) (o : RegOp)
  /-- DIVU (R145). -/
  | divu (v : Vote) (o : RegOp)
  /-- REM (R145). -/
  | rem (v : Vote) (o : RegOp)
  /-- REMU (R145). -/
  | remu (v : Vote) (o : RegOp)
  /-- CMP (R145). -/
  | cmp (v : Vote) (ra rb : BitVec 4)
  /-- MOV (R145). -/
  | mov (v : Vote) (rd ra : BitVec 4)
  /-- MTWA (R145). -/
  | mtwa (v : Vote) (ra : BitVec 4)
  /-- MFWA (R145). -/
  | mfwa (v : Vote) (rd : BitVec 4)
  /-- ADDI (R146). -/
  | addi (v : Vote) (o : ImmOp)
  /-- ANDI (R146). -/
  | andi (v : Vote) (o : ImmOp)
  /-- ORI (R146). -/
  | ori (v : Vote) (o : ImmOp)
  /-- XORI (R146). -/
  | xori (v : Vote) (o : ImmOp)
  /-- CMPI (R146). -/
  | cmpi (v : Vote) (ra : BitVec 4) (imm : BitVec 18)
  /-- SHI (R146). -/
  | shi (v : Vote) (o : ImmOp)
  /-- LUI (R146). -/
  | lui (v : Vote) (rd : BitVec 4) (imm : BitVec 22)
  /-- FADD (R147). -/
  | fadd (v : Vote) (ra : BitVec 4)
  /-- FSUB (R147). -/
  | fsub (v : Vote) (ra : BitVec 4)
  /-- FMUL (R147). -/
  | fmul (v : Vote) (ra : BitVec 4)
  /-- FDIV (R147). -/
  | fdiv (v : Vote) (ra : BitVec 4)
  /-- FSQRT (R147). -/
  | fsqrt (v : Vote)
  /-- FCMP (R152). -/
  | fcmp (v : Vote) (ra : BitVec 4)
  /-- FITOF (R147). -/
  | fitof (v : Vote)
  /-- FUTOF (R147). -/
  | futof (v : Vote)
  /-- FFTOI (R147). -/
  | fftoi (v : Vote)
  /-- FFTOIR (R147). -/
  | fftoir (v : Vote)
  /-- LDW (R153). -/
  | ldw (v : Vote) (o : MemOp)
  /-- LDH (R153). -/
  | ldh (v : Vote) (o : MemOp)
  /-- LDBY (R153). -/
  | ldby (v : Vote) (o : MemOp)
  /-- LDP (R156). -/
  | ldp (v : Vote) (o : MemOp)
  /-- STW (R153). -/
  | stw (v : Vote) (o : MemOp)
  /-- STH (R153). -/
  | sth (v : Vote) (o : MemOp)
  /-- STBY (R153). -/
  | stby (v : Vote) (o : MemOp)
  /-- STP (R110). -/
  | stp (v : Vote) (o : MemOp)
  /-- BR (R157). -/
  | br (v : Vote) (cond : BitVec 4) (off : BitVec 22)
  /-- CALL (R158). -/
  | call (v : Vote) (off : BitVec 26)
  /-- RET (R158). -/
  | ret (v : Vote)
  /-- LOOP (R159). -/
  | loop (v : Vote) (rc : BitVec 4) (bound : BitVec 16)
  /-- ENDL (R159). -/
  | endl (v : Vote)
  /-- NOP (R160). -/
  | nop (v : Vote)
  /-- END (R115). -/
  | endRelease (v : Vote)
  /-- CLRF (R161). -/
  | clrf (v : Vote)
  /-- MFF (R160). -/
  | mff (v : Vote) (rd : BitVec 4)
  /-- MTF (R161). -/
  | mtf (v : Vote) (ra : BitVec 4)
  /-- ILLEGAL (R101). -/
  | illegal (v : Vote)
  /-- STORE_BUFFER_WRITE (R112). -/
  | storeBufferWrite
  /-- BRIDGE_COMPLETION (R346). -/
  | bridgeCompletion
  /-- BRIDGE_FAR_ERROR (R346). -/
  | bridgeFarError
  /-- BUDGET_ABORT (R53). -/
  | budgetAbort
  /-- TICK_BOUNDARY (R41). -/
  | tickBoundary (cv0 cv1 : Verdict)
  /-- OVERRUN_LIMIT (R55). -/
  | overrunLimit (n : Fin 7)
  /-- PROGRAM_SWITCH (R61). -/
  | programSwitch
  /-- SWITCH_TIMEOUT (R60). -/
  | switchTimeout
  /-- T7_START (R115). -/
  | t7Start
  /-- INIT_ROUTINE_TIMEOUT (R126). -/
  | initRoutineTimeout
  /-- LANE_READMISSION (R183): at the end of the reload, what the copies are and whether the lane reads back as they do. -/
  | laneReadmission (l : Lane) (copies : Copies) (readback : Bool)
  /-- FORCED_READMISSION (R182): as LANE_READMISSION. -/
  | forcedReadmission (l : Lane) (copies : Copies) (readback : Bool)
  /-- DEGLEFT_COUNTDOWN (R187). -/
  | degleftCountdown
  /-- CE_WRITE_BACK (R198). -/
  | ceWriteBack
  /-- TRAVERSE_SCRUB_READ (R205). -/
  | traverseScrubRead
  /-- PROGRAM_RAM_SCRUB (R207). -/
  | programRamScrub
  /-- NOP_CMD (R249). -/
  | nopCmd (r : Req)
  /-- IDENT (R256). -/
  | ident (r : Req)
  /-- RESYNC (R257). -/
  | resync (r : Req)
  /-- SNAP (R272). -/
  | snap (r : Req)
  /-- TIME_SET (R251). -/
  | timeSet (r : Req)
  /-- REG_READ (R250). -/
  | regRead (r : Req)
  /-- REG_WRITE (R250). -/
  | regWrite (r : Req)
  /-- SESS_OPEN (R242). -/
  | sessOpen (r : Req)
  /-- SESS_CLOSE (R241). -/
  | sessClose (r : Req)
  /-- MODE_REQ (R215). -/
  | modeReq (r : Req)
  /-- CFG_OPEN (R252). -/
  | cfgOpen (r : Req)
  /-- CFG_WRITE (R252). -/
  | cfgWrite (r : Req)
  /-- CFG_READ (R252). -/
  | cfgRead (r : Req)
  /-- CFG_COMMIT (R252). -/
  | cfgCommit (r : Req) (flash : Bool)
  /-- PRG_BEGIN (R58). -/
  | prgBegin (r : Req) (flash : Bool)
  /-- PRG_BLOCK (R249). -/
  | prgBlock (r : Req) (flash : Bool)
  /-- PRG_VERIFY (R58). -/
  | prgVerify (r : Req) (img : Image)
  /-- PRG_SWITCH (R59). -/
  | prgSwitch (r : Req) (standby : Option Word)
  /-- SIG_READ (R251). -/
  | sigRead (r : Req)
  /-- SIG_FORCE (R83). -/
  | sigForce (r : Req)
  /-- SIG_UNFORCE (R84). -/
  | sigUnforce (r : Req)
  /-- FORCE_LIST (R249). -/
  | forceList (r : Req)
  /-- SF_CHECK_READ (R404). -/
  | sfCheckRead (r : Req)
  /-- SF_CONFIRM (R403). -/
  | sfConfirm (r : Req)
  /-- SF_RESET (R406). -/
  | sfReset (r : Req)
  /-- LOG_INFO (R438). -/
  | logInfo (r : Req)
  /-- LOG_READ (R437). -/
  | logRead (r : Req)
  /-- UPD_BEGIN (R445). -/
  | updBegin (r : Req)
  /-- UPD_BLOCK (R446). -/
  | updBlock (r : Req) (flash : Bool)
  /-- UPD_ACTIVATE (R447). -/
  | updActivate (r : Req) (flash : Bool)
  /-- PAIR_ROLE (R360). -/
  | pairRole (r : Req)
  /-- PAIR_SWAP (R373). -/
  | pairSwap (r : Req)
  /-- LANE_RESTORE (R189). -/
  | laneRestore (r : Req)
  /-- AGE_REPORT (R473). -/
  | ageReport (r : Req)
  /-- MARGIN_PLAN (R472). -/
  | marginPlan (r : Req)
  /-- MARGIN_STEP (R471). -/
  | marginStep (r : Req)
  /-- FI_SET (R477). -/
  | fiSet (r : Req)
  /-- FI_CLEAR (R477). -/
  | fiClear (r : Req)
  /-- FI_PERMIT (R478). -/
  | fiPermit (r : Req)
  /-- EMP_STATUS (R426). -/
  | empStatus (r : Req)
  /-- EMP_READ (R426). -/
  | empRead (r : Req)
  /-- EMP_ACK (R426). -/
  | empAck (r : Req)
  /-- EMP_PARAM (R427). -/
  | empParam (r : Req)
  /-- EMP_SWID (R428). -/
  | empSwid (r : Req)
  /-- EMP_UPD_BEGIN (R452). -/
  | empUpdBegin (r : Req)
  /-- EMP_UPD_BLOCK (R452). -/
  | empUpdBlock (r : Req)
  /-- EMP_UPD_ACTIVATE (R452). -/
  | empUpdActivate (r : Req)
  /-- RDG_INFO (R353). -/
  | rdgInfo (r : Req)
  /-- PACKET_REJECT (R238). -/
  | packetReject (transport source : Nat) (forwarded : Bool) (bytes : List Byte)
  /-- PACKET_FORWARD (R237). -/
  | packetForward (op : Nat) (r : Req)
  /-- DANGEROUS_ARM_TIMEOUT (R248). -/
  | dangerousArmTimeout (trig : Bool) (num : Nat)
  /-- SESSION_IDLE_TIMEOUT (R241). -/
  | sessionIdleTimeout (trig : Bool) (num : Nat)
  /-- AUTH_LOCK_EXPIRY (R244). -/
  | authLockExpiry (trig : Bool) (transport : Fin 8)
  /-- CMD_DOORBELL (R236). -/
  | cmdDoorbell (src : WSrc) (v : Word)
  /-- SYS_SNAP (R272). -/
  | sysSnap (src : WSrc) (v : Word)
  /-- SYS_SAFEREQ (R266). -/
  | sysSafereq (src : WSrc) (compl : Bool) (v : Word)
  /-- SF_STOPREQ (R402). -/
  | sfStopreq (src : WSrc) (compl : Bool) (v : Word)
  /-- RNG_POST (R279). -/
  | rngPost (src : WSrc) (n : Nat) (v : Word)
  /-- RESUME (R285). -/
  | resume (src : WSrc) (n : Nat)
  /-- SKIP (R285). -/
  | skip (src : WSrc) (n : Nat)
  /-- RDG_IRQ (R349). -/
  | rdgIrq (src : WSrc) (v : Word)
  /-- CAN_RECOVER (R319). -/
  | canRecover (src : WSrc) (c : Nat)
  /-- CE_TICKLO_READ (R33). -/
  | ceTickloRead
  /-- ENC_PPSINLO_READ (R348). -/
  | encPpsinloRead
  /-- RING_ENABLE_WRITE (R286). -/
  | ringEnableWrite (src : WSrc) (n : Nat) (v : Word)
  /-- BRG_ENABLE_WRITE (R347). -/
  | brgEnableWrite (src : WSrc) (n : Nat) (v : Word)
  /-- FCH_ENABLE_WRITE (R388). -/
  | fchEnableWrite (src : WSrc) (n : Nat) (v : Word)
  /-- RDG_ENABLE_WRITE (R327). -/
  | rdgEnableWrite (src : WSrc) (v : Word)
  /-- COMPAT_WRITE (R265). -/
  | compatWrite (src : WSrc) (page : Nat) (v : Word)
  /-- REGISTER_WRITE (R263). -/
  | registerWrite (src : WSrc) (page off : Nat) (v : Word)
  /-- SHUTDOWN_COMPLETE (R271). -/
  | shutdownComplete (inst : Inst)
  /-- POWER_UP (R219). -/
  | powerUp (feed2 : Bool) (straps : Straps)
  /-- SELFTEST_END (R218). -/
  | selftestEnd (tests : SelfTest)
  /-- AUTOSTART (R221). -/
  | autostart (img : Image)
  /-- START_LOOP_GUARD_CLEAR (R222). -/
  | startLoopGuardClear
  /-- RESET_PRESS (R228). -/
  | resetPress (ms : Nat) (straps : Straps)
  /-- RESET_STUCK (R228). -/
  | resetStuck
  /-- RESET_ARM (R228). -/
  | resetArm
  /-- UPD_RESTART (R447). -/
  | updRestart (straps : Straps)
  /-- SUPERVISOR_LOCKSTEP_MISMATCH (R18). -/
  | supervisorLockstepMismatch
  /-- FEED_GOOD (R455). -/
  | feedGood (feed2 : Bool)
  /-- FEED_LOST (R456). -/
  | feedLost (feed2 : Bool)
  /-- FEED_DIP (R455). -/
  | feedDip (feed2 : Bool)
  /-- FEED_STRESS (R455). -/
  | feedStress (feed2 : Bool)
  /-- FEED_SURGE (R455). -/
  | feedSurge (feed2 : Bool)
  /-- FEED_OVERVOLTAGE (R455). -/
  | feedOvervoltage (feed2 : Bool)
  /-- FEED_RECONNECT (R455). -/
  | feedReconnect (feed2 : Bool)
  /-- STOP_LEVEL (R461). -/
  | stopLevel
  /-- CONVERTER_STOP (R461). -/
  | converterStop
  /-- HOLDUP_CHARGED (R457). -/
  | holdupCharged
  /-- HOLDUP_TEST (R459). -/
  | holdupTest (cap : Option Nat)
  /-- CLOCK_FAULT (R464). -/
  | clockFault (straps : Straps)
  /-- AGEING_SAMPLE (R466). -/
  | ageingSample (canary : Vector Nat 12) (drift : Vector Int 3)
  /-- THERMAL_SAMPLE (R466). -/
  | thermalSample (h : Health)
  /-- MARGIN_PLAN_UPDATE (R467). -/
  | marginPlanUpdate
  /-- FIELD_SCAN (R379). -/
  | fieldScan (scan : Scan)
  /-- OUTPUT_OVERLOAD (R382). -/
  | outputOverload (ch : Nat)
  /-- OUTPUT_THERMAL (R382). -/
  | outputThermal (ch : Nat)
  /-- GROUP_OVERLOAD (R382). -/
  | groupOverload (g : Nat) (fast : Bool)
  /-- CHANNEL_DIAGNOSTIC (R383). -/
  | channelDiagnostic (ch : Nat)
  /-- LP_LOW (R386). -/
  | lpLow (g : Nat)
  /-- FIELD_GROUP_MISSING (R386). -/
  | fieldGroupMissing (g : Nat)
  /-- FIELD_GROUP_PRESENT (R386). -/
  | fieldGroupPresent (g : Nat)
  /-- SS1_TIME_MAX (R401). -/
  | ss1TimeMax (i : Nat)
  /-- SI_DISCREPANCY_FAULT (R397). -/
  | siDiscrepancyFault (i : Nat)
  /-- SPEED_DISCREPANCY_FAULT (R400). -/
  | speedDiscrepancyFault (i : Nat)
  /-- SO_FAULT (R399). -/
  | soFault (k : Nat)
  /-- SO_OFF_PULSE_TEST (R399). -/
  | soOffPulseTest (k : Nat) (chB : Bool)
  /-- RESET_PAIR_STUCK (R406). -/
  | resetPairStuck (i : Nat)
  /-- SF_CHECK_RECOMPUTE (R404). -/
  | sfCheckRecompute
  /-- CFG_RELOAD (R273). -/
  | cfgReload
  /-- RING_DESCRIPTOR_PROCESS (R279): ring `n`, the descriptor that HEAD = `k` names. -/
  | ringDescriptorProcess (n k : Nat)
  /-- RING_IN_FRAME (R278). -/
  | ringInFrame (n : Nat) (f : AgentFrame)
  /-- RING_OVERLOAD (R283). -/
  | ringOverload (n : Nat)
  /-- ETH_FRAME_RECEIVE (R289): `full` are the egress queues, port and number, that are full from now on. -/
  | ethFrameReceive (port : Nat) (frame : LinkFrame) (full : List (Nat × Nat))
  /-- NODE_TABLE_EXPIRY (R293). -/
  | nodeTableExpiry
  /-- SUPERVISION_FRAME (R291). -/
  | supervisionFrame
  /-- PD_RECEIVE (R297): the telegram that the internal port delivers. -/
  | pdReceive (t : PdTelegram)
  /-- PD_TIMEOUT (R298). -/
  | pdTimeout
  /-- MD_RECEIVE (R299): the message that the internal port delivers. -/
  | mdReceive (m : MdMessage)
  /-- MD_REPLY_TIMEOUT (R299). -/
  | mdReplyTimeout (session : Nat)
  /-- RAW_ETHERNET_RECEIVE (R300): the frame that the internal port delivers, and the link it came on. -/
  | rawEthernetReceive (link : Nat) (bytes : List Byte)
  /-- TTDP_HELLO (R301): one that has been received, or the 15 ms at which one is sent. -/
  | ttdpHello (rx : Bool)
  /-- TTDP_NEIGHBOUR_LOST (R301). -/
  | ttdpNeighbourLost
  /-- ETB_INAUGURATION (R302, R303): the ETBNs of the train, the own position that the ETBNs have agreed on, and the CRC over the
  train directory. -/
  | etbInauguration (count pos : Nat) (topo : Word)
  /-- PTP_MESSAGE (R306): the message that the internal port delivers. -/
  | ptpMessage (m : PtpMsg)
  /-- PTP_LOCK_LOST (R306). -/
  | ptpLockLost
  /-- PPS_IN_EDGE (R307), `into` ns after the last tick boundary. -/
  | ppsInEdge (into : Nat)
  /-- WHOLE_SECOND (R307). -/
  | wholeSecond
  /-- MVB_MASTER_FRAME (R310): the master frame on lines A and B, the slave frame that answers it on them, and whether a basic
  period begins. -/
  | mvbMasterFrame (ma mb : Option LinkFrame) (slave : Option LinkFrame × Option LinkFrame) (first : Bool)
  /-- MVB_SINK_TIMEOUT (R310). -/
  | mvbSinkTimeout
  /-- WTB_PERIOD (R313). -/
  | wtbPeriod
  /-- WTB_NODE_FRAME (R314). -/
  | wtbNodeFrame (a b : Option LinkFrame)
  /-- WTB_INAUGURATION (R312). -/
  | wtbInauguration (t : WtbTopo)
  /-- WTB_SINK_TIMEOUT (R314). -/
  | wtbSinkTimeout
  /-- CAN_FRAME_RECEIVE (R318). -/
  | canFrameReceive (c : Nat) (f : CanFrame) (ok : Bool)
  /-- CAN_FRAME_SENT (R318). -/
  | canFrameSent (c : Nat)
  /-- CAN_BUS_OFF (R319). -/
  | canBusOff (c : Nat)
  /-- CAN_AUTO_RECOVER (R319). -/
  | canAutoRecover (c : Nat)
  /-- SERIAL_FRAME_RECEIVE (R322). -/
  | serialFrameReceive (c : Nat) (f : LinkFrame)
  /-- SERIAL_FRAME_SENT (R322). -/
  | serialFrameSent (c : Nat)
  /-- CYCLE (R336). -/
  | cycle (rx : Option RidgeRx)
  /-- SLOT (R337). -/
  | slot (rx : RidgeRx) (late : Bool)
  /-- DISCOVER (R330). -/
  | discover (rx : Option RidgeRx)
  /-- RIDGE_LINK_CHANGE (R330). -/
  | ridgeLinkChange (east up : Bool)
  /-- NO_MANAGER (R331). -/
  | noManager
  /-- STATION_LOST (R338). -/
  | stationLost
  /-- RIDGE_CRC_ERROR (R334). -/
  | ridgeCrcError (rx : RidgeRx) (stomped : Bool)
  /-- POSTED (R345). -/
  | posted (rx : RidgeRx)
  /-- REQUEST (R343). -/
  | request (rx : RidgeRx)
  /-- REQUEST_SERVICE (R345). -/
  | requestService
  /-- COMPLETION (R345). -/
  | completion (c : CompletionRx)
  /-- RETRY_BACKOFF (R343). -/
  | retryBackoff (n : Nat)
  /-- CPL_TIMEOUT (R346). -/
  | cplTimeout
  /-- TUNNEL (R350). -/
  | tunnel (rx : RidgeRx)
  /-- IRQ (R349). -/
  | irq (rx : RidgeRx)
  /-- MSG (R237). -/
  | msg (rx : MsgRx)
  /-- ACK (R341). -/
  | ack (rx : RidgeRx)
  /-- ACK_DELAY (R341). -/
  | ackDelay (n : Nat)
  /-- STREAM_RETRANSMIT (R341). -/
  | streamRetransmit (n : Nat)
  /-- HELLO (R358). -/
  | hello (rx : Option ColRx)
  /-- PARTNER_SEEK_TIMEOUT (R358). -/
  | partnerSeekTimeout
  /-- JOIN_REQ (R365). -/
  | joinReq (rx : ColRx) (delay : Nat)
  /-- JOIN_ACK (R356). -/
  | joinAck (rx : ColRx) (delay : Nat)
  /-- PAGE (R365). -/
  | page (rx : ColRx)
  /-- JOIN_COPY_ROUND (R365). -/
  | joinCopyRound
  /-- FINAL_DELTA (R366). -/
  | finalDelta
  /-- CUT (R366). -/
  | cut (rx : ColRx)
  /-- JOIN_TIMEOUT (R367). -/
  | joinTimeout
  /-- ABORT (R367). -/
  | abort (rx : ColRx)
  /-- GROUP (R361). -/
  | group (rx : ColRx)
  /-- MARK (R362). -/
  | mark (rx : ColRx)
  /-- STREAM_GAP (R357). -/
  | streamGap
  /-- BEAT (R356). -/
  | beat (rx : Option ColRx)
  /-- LEAVE (R369). -/
  | leave (rx : ColRx)
  /-- COL_SIGNAL_LOSS (R369). -/
  | colSignalLoss
  /-- COL_LANE_DOWN (R354). -/
  | colLaneDown (lane2 : Bool)
  /-- PARTNER_SILENCE_TIMEOUT (R369). -/
  | partnerSilenceTimeout
  /-- SWAP_TICK (R373). -/
  | swapTick
  /-- CAIRN_RECORD_INTAKE (R432). -/
  | cairnRecordIntake
  /-- LOG_SOURCE_DROP (R435). -/
  | logSourceDrop
  /-- FLASH_REFRESH (R441). -/
  | flashRefresh (part : Nat) (ok : Bool)
  /-- METROLOGY_SAMPLE (R413). -/
  | metrologySample (em1 em2 em3 em4 em5 em6 : Int)
  /-- ENERGY_WINDOW_END (R415). -/
  | energyWindowEnd
  /-- SUPPLY_SYSTEM_CLASSIFY (R414). -/
  | supplySystemClassify
  /-- PERIOD_END (R418). -/
  | periodEnd
  /-- SEAL_OPENED (R425). -/
  | sealOpened
  /-- SEAL_CLOSED (R425). -/
  | sealClosed
  /-- TIME (R421). -/
  | time (message : List Byte)
  /-- POSITION (R422). -/
  | position (message : List Byte)
  /-- PACKET (R423). -/
  | packet (message : List Byte)
  /-- MAILBOX_SEND (R421). -/
  | mailboxSend
  /-- TRIG_RESTART (R411). -/
  | trigRestart
  /-- FI_DELAY_EXPIRY (R476). -/
  | fiDelayExpiry (l : Fin 48)
  /-- FI_PERMIT_ENDED (R478). -/
  | fiPermitEnded
  /-- LONG_OPERATION_COMPLETE (R239). -/
  | longOperationComplete
  /-- ETH_LINK_CHANGE (R289). -/
  | ethLinkChange (port : Nat) (up : Bool) (speed : Nat)
  /-- COL_LANE_UP (R354). -/
  | colLaneUp (lane2 : Bool)
  /-- MVB_LINE_TIMEOUT (R308). -/
  | mvbLineTimeout (lineB : Bool)
  /-- PPS_IN_TIMEOUT (R307). -/
  | ppsInTimeout
  /-- FLASH_RETENTION_SCAN (R441). -/
  | flashRetentionScan (part bits : Nat) (near : Bool)
  /-- TRIG_RESTART_DONE (R411). -/
  | trigRestartDone
  deriving DecidableEq, Repr

end Sys2Proof
end

