-- ==== Sys2Proof/Machine/CoreState.lean ====
section
/-! DEFINITION. The state of the core units: mode, time, stores, images, Cycle Engine, Saddle and Cairn recorder. -/
namespace Sys2Proof.Machine

/-- The twelve modes (R212). -/
inductive Mode where
  | selftest | recovery | config | stopped | run | degraded | joining | standby | test | update | ridethru | safe
  deriving DecidableEq, Repr

/-- The mode code (R212). -/
def Mode.code : Mode → Nat
  | .selftest => 0x0 | .recovery => 0x1 | .config => 0x2 | .stopped => 0x3 | .run => 0x4 | .degraded => 0x5
  | .joining => 0x6 | .standby => 0x7 | .test => 0x8 | .update => 0x9 | .ridethru => 0xA | .safe => 0xB

/-! ### Stores and images (spec/07_protected_store.md, spec/03_process_image.md) -/

/-- The coded arrays (R194): Protected Store, Retentive Store, Program RAM, Image RAM, live and committed image. -/
inductive Arr where
  | ps | rs | prg | img | live | com
  deriving DecidableEq, Repr

/-- A correction or poisoning that waits for a free other-master clock (R198, R205). -/
structure WriteBack where
  arr : Arr
  word : Nat
  /-- `true`: Traverse poisons the word; `false`: the corrected data are written back. -/
  poison : Bool
  data : DWord
  deriving DecidableEq, Repr

/-- The coded arrays, each a list of the words that differ from what an unlisted word holds. -/
structure Mem where
  /-- Protected Store: an unlisted word has not been written since power-up `era` and holds arbitrary bits (R201). -/
  ps : Sparse Code
  /-- The number of the power-up, which selects the arbitrary contents. -/
  era : Nat
  rs : Sparse Code
  prg : Sparse Code
  img : Sparse Code
  live : Sparse Code
  com : Sparse Code
  /-- The test rows outside every address map (R202): 64 words for each array. -/
  test : Sparse Code
  /-- Corrections and poisonings that wait. -/
  wb : List WriteBack
  /-- Traverse: the range being scrubbed and the word to read next (R204); the tick at which the lap began. -/
  travRange : Nat
  travWord : Nat
  travStart : Nat
  deriving DecidableEq, Repr

/-! ### Sources of signals (R77, R78, R88) -/

/-- A unit of loss declaration, or a source that is never declared lost (PI_STAT.LOST_SRC, R88). -/
inductive Src where
  | station (n : Nat) | pdSub (n : Nat) | mvbSink (n : Nat) | wtbNode (n : Nat)
  | fieldGroup (g : Nat) | channel (n : Nat) | tlGroup (g : Nat)
  | encoder (e : Nat) | safety | trig | status
  deriving DecidableEq, Repr

/-- A force-table entry (R83). -/
structure Force where
  id : Nat
  word : Bool
  value : Word
  scope : Nat
  role : Nat
  tick : Nat
  deriving DecidableEq, Repr

/-- A change of the force table that waits for the next tick boundary (R84). -/
inductive ForceChange where
  | set (f : Force)
  | remove (id : Nat)
  | removeAll
  deriving DecidableEq, Repr

/-- What the images hold beside their code words: ages, source-invalid flags, lost sources, forces. -/
structure Images where
  /-- Tick boundaries counted since the start, for ages (R75). -/
  ageClock : Nat
  /-- For each ID, 65,536 and `ageClock` at its last valid delivery; none listed means age 0xFFFF (R75, R92). A join
  gives signals ages that reach back before this unit's start. -/
  delivered : Sparse Nat
  /-- IDs whose source-invalid flag is clear (R76). -/
  valid : Sparse Bool
  /-- The age each ID had at its task's latch, where that is not 0xFFFF (R75, R105). -/
  latchAge : Sparse Nat
  /-- The source of each ID under the committed configuration (R77). -/
  srcOf : Sparse Src
  /-- Output IDs addressed to Ridge stations under the committed configuration, with the station (R88). -/
  dstOf : List (Nat × Nat)
  /-- The sources declared lost (R88). -/
  lost : List Src
  forces : List Force
  forceWait : List ForceChange
  deriving DecidableEq, Repr

/-! ### The Cycle Engine and the triad (spec/02_cycle_model.md, spec/04_cycle_code_model.md) -/

/-- The FLAGS register (R94); bits [31:6] read as zero. -/
structure Flags where
  z : Bool
  n : Bool
  c : Bool
  v : Bool
  ov : Bool
  fe : Bool
  deriving DecidableEq, Repr

/-- The pending combine operation of an NS entry (R98, R136). -/
inductive Combine where
  | and | or | xor | andn | orn
  deriving DecidableEq, Repr

/-- A CS entry (R99). -/
inductive Frame where
  | call (ret : Nat)
  | loop (start count : Nat)
  deriving DecidableEq, Repr

/-- The architectural registers of Cycle Code (R94). -/
structure Ctx where
  g : Vector Word 16
  wa : Word
  ba : Word
  sm : Word
  ns : List (Word × Combine)
  cs : List Frame
  pc : Nat
  flags : Flags
  deriving DecidableEq, Repr

/-- What the triad sets at the start of a release (R95). -/
def Ctx.start (entry : Nat) : Ctx :=
  ⟨Vector.replicate 16 0, 0, 0, 0xFFFFFFFF, [], [], entry, ⟨false, false, false, false, false, false⟩⟩

/-- Who executes: T0 to T7 are 0 to 7, and 8 is the initialisation routine. -/
abbrev Who := Fin 9

/-- What T7 waits for at the bridge (R45, R344): the completion of a load of context `ctx`, with the registers it writes
and its size code, or a posted credit for a store. -/
inductive BridgeWait where
  | load (ctx tag : Nat) (rt : BitVec 4) (size : Nat)
  | store (ctx : Nat)
  deriving DecidableEq, Repr

/-- Run-time state of a task or of the initialisation routine. -/
structure TaskRt where
  ctx : Ctx
  /-- Latched or started, and not yet ended (R42). -/
  ready : Bool
  /-- T7 waits for the bridge. -/
  waiting : Option BridgeWait
  /-- Measured clocks of the current release (R52). -/
  clocks : Nat
  /-- Consecutive overruns (R55). -/
  overruns : Nat
  /-- The outputs of a finished release are held for the next release point (R44). -/
  held : Bool
  /-- T7: the tick after which it may start again (R57, R115). -/
  resumeAfter : Nat
  deriving DecidableEq, Repr

/-- One entry of the store buffer (R111). -/
structure StoreEntry where
  addr : Nat
  size : Nat
  data : DWord
  /-- The release that issued it; none once that release has been aborted (R506). -/
  who : Option Who
  deriving DecidableEq, Repr

/-- The result of the last PRG_VERIFY of a slot (R58, R65). -/
inductive Verified where
  | no
  /-- For every mode that allows PRG_SWITCH. -/
  | all
  /-- In STOPPED only, with the carry-map detail (0x0001 or 0x0003). -/
  | stoppedOnly (detail : Nat)
  deriving DecidableEq, Repr

/-- A program slot: the image begun by PRG_BEGIN and its verification (R58). -/
structure Slot where
  /-- Program ID and length named by PRG_BEGIN, and the bytes received so far. -/
  begun : Option (Word × Nat)
  received : List (Nat × Nat)
  verified : Verified
  /-- What the supervisor read out of a verified image. -/
  image : Option Image
  deriving DecidableEq, Repr

/-- The Cycle Engine and the triad beside their registers. -/
structure Ce where
  tasks : Vector TaskRt 9
  /-- Who executes now. -/
  cur : Option Who
  store : List StoreEntry
  slots : Vector Slot 2
  /-- The active program, with RETAIN_INIT (R124), and whether the initialisation routine is in its second part. -/
  active : Option Image
  retainInit : Bool
  secondPart : Bool
  /-- Groups that hold a WORD signal (R90). -/
  sliceMap : List Nat
  /-- The ticks spent by the initialisation routine (R126). -/
  initTicks : Nat
  /-- The tick at which an accepted PRG_SWITCH began to wait (R60). -/
  switchSince : Option Nat
  /-- The tick of a program switch: no re-admission in it (R182). -/
  switchTick : Option Nat
  /-- At this tick boundary the steps of R41 wait for the program switch (R61). -/
  switchNow : Bool
  deriving DecidableEq, Repr

/-- The place of a lane's minority event (R185). -/
structure Place where
  index : Nat
  slot : Nat
  kind : RecKind
  second : Nat
  deriving DecidableEq, Repr

/-- What the supervisor keeps about a lane in its MRAM area (R185, R187, R189). -/
structure LaneLog where
  retired : Bool
  /-- Power-cycle count at the retirement (R189). -/
  retiredAt : Nat
  /-- Operating seconds of the last three failed re-admissions, latest first. -/
  fails : List Nat
  last : Option Place
  deriving DecidableEq, Repr

/-- The Saddle beside its registers. -/
structure Saddle where
  laneA : LaneLog
  laneB : LaneLog
  laneC : LaneLog
  /-- The tick at which each lane was halted, and of its last re-admission. -/
  haltedAt : Vector Nat 3
  readmitted : Vector (Option Nat) 3
  /-- CV_DEGLEFT as kept across power cycles (R187). -/
  degLeft : Nat
  /-- DEGRADED is due at the next tick boundary (R186). -/
  degradeDue : Bool
  deriving DecidableEq, Repr

/-! ### Time (R33, R306, R431) -/

/-- Calendar and operating time. -/
structure Time where
  /-- The tick counter (R33). -/
  tick : Nat
  /-- CE_TICKHI as latched by a read of CE_TICKLO (R33). -/
  tickHi : Option Word
  /-- Nanoseconds elapsed in the current powered second. -/
  subNs : Nat
  /-- UTC in ns, meaningful while `utcValid` (R306). -/
  utc : Nat
  utcValid : Bool
  deriving DecidableEq, Repr

/-! ### Cairn (spec/18_event_recorder.md) -/

/-- The two record classes (R429). -/
inductive RecClass where
  | d | o
  deriving DecidableEq, Repr

/-- The severities (R429). -/
inductive Severity where
  | info | warn | fault | critical
  deriving DecidableEq, Repr

/-- A report in an intake queue (R430 to R432): a record without SEQ. -/
structure Report where
  cls : RecClass
  sev : Severity
  code : Nat
  source : Nat
  unset : Bool
  standby : Bool
  mode : Nat
  /-- The eight time bytes as one number (R431). -/
  time : Nat
  payload : List Byte
  deriving DecidableEq, Repr

/-- A stored record (R430). -/
structure Record where
  seq : Nat
  first : Report
  rep : Nat
  sat : Bool
  timeLast : Nat
  payload : List Byte
  deriving DecidableEq, Repr

/-- One class of Cairn: its stored records in ascending order of SEQ as numbered since manufacture, the open one last. -/
structure CairnClass where
  /-- New records numbered since manufacture; SEQ is this modulo 2^32 (R434). -/
  next : Nat
  stored : List Record
  /-- The last stored record is open (R433). -/
  isOpen : Bool
  overwritten : Nat
  deriving DecidableEq, Repr

/-- The recorder and the Flash Store's management. -/
structure Cairn where
  /-- Intake queues by subsystem number, 256 records each (R432). -/
  intake : Sparse (List Report)
  d : CairnClass
  o : CairnClass
  /-- Records dropped at intake since the last LOG_SOURCE_DROP, by subsystem (R435). -/
  dropped : Sparse Nat
  /-- By partition in the row order of R440: operating second and UTC of the last refresh, partitions due at once, P/E
  cycles, and corrected bits per 1 KiB of the last scan (R440, R441, R473). -/
  refreshed : Sparse Nat
  refreshedUtc : Sparse Nat
  dueNow : List Nat
  erases : Sparse Nat
  corrected : Sparse Nat
  /-- Operating second of the last completed refresh (R438). -/
  lastRefresh : Nat
  deriving DecidableEq, Repr

end Sys2Proof.Machine
end

