-- ==== Sys2Proof/Machine/CmdState.lean ====
section
/-! DEFINITION. The state of the supervisor: command interface, mode control and start-up
(spec/09_command_interface.md, spec/08_modes_and_startup.md). -/
namespace Sys2Proof.Machine

/-- The session roles (R241). -/
inductive Role where
  | operator | maintainer | integrator | metrologist
  deriving DecidableEq, Repr

/-- A reply packet as it leaves (R234). -/
structure Reply where
  transport : Nat
  source : Nat
  opcode : Nat
  tag : BitVec 16
  target : Byte
  session : Byte
  auth : Bool
  more : Bool
  payload : List Byte
  mac : List Byte
  deriving DecidableEq, Repr

/-- What is kept of the last completed request of a session, or of SESSION 0 on a transport (R246). -/
structure Kept where
  tag : BitVec 16
  opcode : Nat
  crc : Word
  reply : Reply
  deriving DecidableEq, Repr

/-- A dangerous command armed in a session (R248): opcode, parameters, nonce and the time. -/
structure Armed where
  opcode : Nat
  params : List Byte
  nonce : Nat
  at_ : Nat
  deriving DecidableEq, Repr

/-- An open session (R241, R242). Times are operating time in ns. -/
structure Session where
  num : Nat
  role : Role
  transport : Nat
  key : List Byte
  lastTag : BitVec 16
  lastUsed : Nat
  kept : Option Kept
  armed : Option Armed
  deriving DecidableEq, Repr

/-- What the module keeps for a transport (R244, R246, R257). -/
structure Transport where
  kept : Option Kept
  /-- Times of the latest AUTH_FAIL replies. -/
  fails : List Nat
  lockedAt : Option Nat
  /-- Last completed request: tag, status, opcode, session (RESYNC). -/
  last : Option (BitVec 16 × Nat × Nat × Byte)
  deriving DecidableEq, Repr

/-- A long operation that runs in the background (R239): its request, what it will answer, and whether it waits for a
tick boundary. -/
structure LongOp where
  opcode : Nat
  req : Req
  status : Nat
  detail : Nat
  ext : Nat
  payload : List Byte
  /-- The operation ends by LONG_OPERATION_COMPLETE and not by an event of its own. -/
  background : Bool
  deriving DecidableEq, Repr

/-- The configuration edit buffer and the session that owns it (R252). -/
structure Edit where
  owner : Byte
  transport : Nat
  bytes : Sparse Byte
  deriving DecidableEq, Repr

/-- Sessions and what is kept by transport, of the supervisor or of Trig (R241 to R247, R426). -/
structure Desk where
  sessions : List Session
  /-- The last session number issued (R241). -/
  lastNum : Nat
  transports : Vector Transport 8
  deriving DecidableEq, Repr

/-- Nothing open, nothing kept. -/
def Desk.zero : Desk := ⟨[], 0, Vector.replicate 8 ⟨none, [], none, none⟩⟩

/-- A command packet that has come in and is not yet served: transport, source (`Req.source`), its bytes, and whether 16 requests
of its transport were waiting already (R239). -/
structure Waiting where
  transport : Nat
  source : Nat
  bytes : List Byte
  late : Bool
  deriving DecidableEq, Repr

/-- The command interface. -/
structure Cmd where
  desk : Desk
  longOp : Option LongOp
  /-- Requests a forwarded packet has left unanswered: opcode and request (R237). -/
  forwarded : List (Nat × Req)
  edit : Option Edit
  /-- Committed configuration by block * 2^20 + offset (R252). -/
  config : Sparse Byte
  /-- Replies sent, oldest first. -/
  outbox : List Reply
  /-- Command packets that wait to be served, oldest first (R239). -/
  arrived : List Waiting
  /-- The RESYNC summary of the latest tick boundary, none before the first of the start (R257). -/
  summary : Option (List Byte)
  deriving DecidableEq, Repr

/-- What a MODE_CHANGE record names as the trigger: the row of R218, from its numbering here (notes/assumptions/9.md). -/
inductive Trigger where
  | command | autostart | selftest | lane | feeds | pair | config | update | safe | restart
  deriving DecidableEq, Repr

/-- The number of a trigger. -/
def Trigger.code : Trigger → Nat
  | .command => 0 | .autostart => 1 | .selftest => 2 | .lane => 3 | .feeds => 4 | .pair => 5 | .config => 6
  | .update => 7 | .safe => 8 | .restart => 9

/-- A mode change that waits for a tick boundary, or for the initialisation routine before it (R216): the request it
answers, none for the auto-start. -/
structure ModeWait where
  target : Mode
  req : Option Req
  /-- The initialisation routine has still to end (R123). -/
  init : Bool
  why : Trigger
  deriving DecidableEq, Repr

/-- A firmware download in progress (R445, R446): its session, the header, and the body bytes received. -/
structure Update where
  owner : Byte
  transport : Nat
  header : List Byte
  body : List Byte
  deriving DecidableEq, Repr

/-- What a firmware partition or bank holds (R442, R446): the image as delivered, of which only version and SVN are
known; a written header and body; or no valid image. -/
inductive FwStore where
  | delivered (version : Word) (svn : Nat)
  | image (header body : List Byte)
  | erased
  deriving DecidableEq, Repr

/-- The supervisor beside the command interface. -/
structure Sup where
  modeWait : Option ModeWait
  /-- The mode RIDETHRU was entered from (R223). -/
  rideFrom : Mode
  /-- Last change to SAFE: cause and tick (R227). -/
  lastSafe : Option (Nat × Nat)
  /-- The mode SAFE was entered from, until the next tick boundary: network process data follows it until then (R225). -/
  safeFrom : Option Mode
  /-- Starts in a row that reached SAFE within 60 s of RUN; in MRAM (R222). -/
  startLoop : Nat
  /-- Operating time at which this start entered RUN (R222). -/
  runSince : Option Nat
  /-- First failed auto-start condition of this start (R221), 0 none. -/
  autoReason : Nat
  /-- The auto-start of this start is still to run or running (R221, R505). -/
  autoOpen : Bool
  /-- The start image that the auto-start has read and that is not active yet (R505). -/
  autoImage : Option Image
  /-- The program-margin flag of R51. -/
  programMargin : Bool
  /-- Programs whose initialisation routine has completed once: RETAIN_INIT is never set again for them (R124). -/
  retained : List Word
  /-- The RESET input is armed; it has been held for 5 s and not re-armed since (R228). -/
  resetArmed : Bool
  resetStuck : Bool
  /-- Power is on and the start-up sequence runs or has run (R219). -/
  powered : Bool
  /-- The start follows a supervisor restart: no auto-start (R227). -/
  noAuto : Bool
  bootsel : Bool
  slot : Nat
  update : Option Update
  /-- UPD_ACTIVATE has scheduled a restart (R447). -/
  restartDue : Bool
  /-- Firmware partition, and version, SVN and version counter of the firmware that runs (R443, R444). -/
  fwStore : FwStore
  fwVersion : Word
  fwSvn : Nat
  fwCounter : Nat
  /-- UPD_ACTIVATE has written a header: version and SVN before (R447). -/
  fwOld : Option (Word × Nat)
  /-- FW_INVALID of the RESYNC summary (R448). -/
  fwInvalid : Bool
  /-- The RECOVERY_ENTRY record due at the next start: cause, test, block (R449). -/
  recovery : Option (Nat × Nat × Nat)
  /-- The Dalsaed firmware public key in ROM (R443). -/
  romKey : List Byte
  /-- Flash Store program slots 1 to 4: program ID and bytes (R440). -/
  flashSlots : Vector (Option (Word × List Byte)) 4
  /-- A PRG_BEGIN to a Flash Store slot in progress: slot, program ID, length and bytes received. -/
  flashLoad : Option (Nat × Word × Nat × Sparse Byte)
  deriving DecidableEq, Repr

end Sys2Proof.Machine
end

