-- ==== Sys2Proof/Machine/LinkState.lean ====
section
/-! DEFINITION. The state of the rings, the links and the Link Fault Injector beside their registers
(spec/11_rings.md, spec/12_train_network.md, spec/21_link_fault_injection.md). -/
namespace Sys2Proof.Machine

/-! ### What leaves the module -/

/-- Something the module puts out: a frame on a link by its link index (R255), the level of a pin, or a restart of the
whole module seen from outside. -/
inductive Emit where
  | frame (link : Nat) (f : LinkFrame)
  /-- Messages between the supervisor and Trig through the mailbox (R421 to R423): TYPE and the whole message. -/
  | mailbox (kind : Nat) (bytes : List Byte)
  /-- The statuses of the words of a line that a Spur returns, with the TAG of its COMPLETION (R348): no frame has a place
  for them (notes/assumptions/14.md). -/
  | lineStatus (tag : Nat) (words : List Nat)
  deriving DecidableEq, Repr

/-! ### Rings (R274 to R287) -/

/-- A write that acts for its unit only after stores issued before it have left the store buffer (R281, R349). -/
inductive Deferred where
  | post (ring count : Nat)
  | irq (value : Word)
  deriving DecidableEq, Repr

/-- A descriptor as read (R276). -/
structure Desc where
  buf : Nat
  bufLen : Nat
  dataLen : Nat
  own : Bool
  port : Nat
  meta1 : Word
  meta2 : Word
  deriving DecidableEq, Repr

/-- A frame at an IN ring: whether its agent found an error in it, or it is a run of characters that ends at a full buffer
(R322), its reception time (R276), and its number in the order of arrival at all rings (R282). -/
structure Arrival where
  frame : AgentFrame
  err : Bool
  chars : Bool
  time : Nat
  no : Nat
  deriving DecidableEq, Repr

/-- An OUT frame handed to its agent and not yet sent, with its descriptor as read (R277). -/
structure Started where
  frame : AgentFrame
  desc : Desc
  deriving DecidableEq, Repr

/-- The rings beside their registers. -/
structure Rings where
  /-- Holding queues, at most 4 frames each (R283). -/
  hold : Sparse (List Arrival)
  /-- The frame that was being written when an IN ring halted (R284, R285). -/
  inHand : Sparse Arrival
  /-- The OUT frame of a ring that is with its agent (R318, R322, R350). -/
  started : Sparse Started
  /-- Frames that have arrived at IN rings since the start (R282). -/
  arrivals : Nat
  /-- Deferred writes with the number of buffered stores that must leave first, oldest first (R281). -/
  deferred : List (Nat × Deferred)
  /-- Drops since the last RING_OVERLOAD of each ring (R283). -/
  minute : Sparse Nat
  deriving DecidableEq, Repr

/-! ### Link Fault Injector (R474 to R481) -/

/-- A frame that an injection holds: its direction; for REORDER the frames still to pass; whether it was selected by
DELAY or only queues behind one that was. -/
structure Held where
  rx : Bool
  frame : LinkFrame
  left : Nat
  selected : Bool
  deriving DecidableEq, Repr

/-- The injector beside its registers. -/
structure Fi where
  /-- LFSR and frames counted since arming, by link (R474). -/
  lfsr : Sparse Word
  seen : Sparse Nat
  held : Sparse (List Held)
  /-- A mode change other than into TEST has come: the injections go at its tick boundary (R479). -/
  clearDue : Bool
  /-- End of the permit in operating time, ns (R478). -/
  permitEnd : Option Nat
  /-- Received frames released by the removal of an injection, on their way to their subsystem. -/
  released : List (Nat × LinkFrame)
  deriving DecidableEq, Repr

/-! ### Train network (R288 to R307) -/

/-- What a frame at the internal port of the switch carries for the module: a PD telegram, an MD message, a raw frame, a TTDP
HELLO (`true` of direction 2) or TOPOLOGY with the sender and its neighbours, a PTP message. -/
inductive NetMsg where
  | pd (t : PdTelegram)
  | md (m : MdMessage)
  | raw (link : Nat) (bytes : List Byte)
  | hello (two : Bool) (mac : Nat)
  | topology (mac n1 n2 : Nat)
  | ptp (m : PtpMsg)
  deriving DecidableEq, Repr

/-- The user that a message is for: PD, MD, raw Ethernet, TTDP, PTP. -/
def NetMsg.user : NetMsg → Nat
  | .pd _ => 0
  | .md _ => 1
  | .raw _ _ => 2
  | .hello _ _ | .topology _ _ _ => 3
  | .ptp _ => 4

/-- A source in the node table (R292, R293): pair, MAC address, highest accepted sequence number, accepted numbers of
the window, and operating time of its last frame. -/
structure NodeEntry where
  pair : Nat
  mac : Nat
  h : Nat
  seen : List Nat
  used : Nat
  deriving DecidableEq, Repr

/-- The train network beside its registers (R288 to R307). -/
structure Net where
  /-- Learned MAC addresses with their ports, the latest used first (R289). -/
  macs : List (Nat × Nat)
  /-- Multicast addresses joined by snooped IGMPv2 reports, with the port. -/
  groups : List (Nat × Nat)
  /-- Egress queues that are full, by port and queue (R289), and frames discarded because they need a function that the module
  has not (R288). -/
  full : List (Nat × Nat)
  unknown : Nat
  /-- What the internal port has delivered and its user has not yet taken, oldest first. -/
  inbox : List NetMsg
  nodes : List NodeEntry
  /-- Subscriptions: sequence counter of the last accepted telegram and `ageClock` at it (R297, R298). -/
  subs : Sparse (Nat × Nat)
  /-- `ageClock` when the PD tables became active. -/
  pdSince : Nat
  /-- PD telegrams left over from an earlier tick: entry and due tick (R296). -/
  late : List (Nat × Nat)
  /-- The publication count (R296), and the frames sent from the unit address by pair. -/
  pubCount : Nat
  unitSeq : Vector Nat 4
  /-- MD sessions that wait for a reply or a confirmation, with the ring of the message (R299), and messages answered with Me. -/
  md : Sparse Nat
  meCount : Nat
  /-- TTDP neighbours in direction 1 and 2, by MAC address, with the HELLOs missed (R301). -/
  neigh1 : Option (Nat × Nat)
  neigh2 : Option (Nat × Nat)
  /-- The latest TOPOLOGY of every other ETBN: its neighbours, zero for none (R301). -/
  topology : List (Nat × Nat × Nat)
  /-- The train directory in force: the ETBNs from position 1 on, by MAC address (R301, R303). -/
  trainDir : List Nat
  /-- The train network directory in force: the number of each consist network with the ETBN that leads to it (R301). -/
  networkDir : List (Nat × Nat)
  /-- The PTP clock in TAI ns once a Sync has set it, the UTC offset, and Syncs in a row within 1 µs (R305, R306). -/
  tai : Option Nat
  utcOffset : Nat
  inRange : Nat
  /-- The grandmaster that the latest Announce named, if better than the own clock (R305). -/
  best : Option ClockData
  /-- Last used PPS-IN edge in ns of the NET clock since the start of operation, and edges ignored (R307). -/
  ppsAt : Option Nat
  ppsIgnored : Nat
  /-- TIME_SET has set calendar time since the start (R306). -/
  timeSet : Bool
  /-- ENC_PPSINHI as latched by a read of ENC_PPSINLO. -/
  ppsHi : Option Word
  deriving DecidableEq, Repr

/-! ### MVB, WTB, encoders (R308 to R326) -/

/-- An encoder beside its registers. -/
structure EncRt where
  /-- The count as the hardware keeps it. -/
  count : Word
  /-- Count at the previous Z edge, once there was one (R325). -/
  prevZ : Option Word
  /-- Position at the previous SSI read. -/
  prevPos : Option Nat
  /-- Scans since the last SSI read (R324). -/
  scans : Nat
  deriving DecidableEq, Repr

/-- Before the first sample. -/
def EncRt.zero : EncRt := ⟨0, none, none, 0⟩

/-- MVB, WTB and encoder state beside the registers. -/
structure Bus where
  /-- MVB: rebuilt source-port buffers and `ageClock` at the last valid frame of each sink, by port entry (R310). -/
  mvbSrc : Sparse (List Byte)
  mvbAt : Sparse Nat
  mvbSince : Nat
  /-- `ageClock` at the last master frame. -/
  mvbSeen : Nat
  /-- WTB: periods counted, the period of the last valid frame of each sink, and the nodes present (R313, R314). -/
  wtbPeriod : Nat
  wtbAt : Sparse Nat
  wtbNodes : List Nat
  enc : Sparse EncRt
  /-- Instances whose shutdown is in progress (R271). -/
  shutting : List Inst
  deriving DecidableEq, Repr

end Sys2Proof.Machine
end

