-- ==== Sys2Proof/Machine/FieldState.lean ====
section
/-! DEFINITION. The state of the Field Channel Unit and of the Safety Function Unit beside their registers
(spec/15_field_channels.md, spec/16_safety_functions.md). -/
namespace Sys2Proof.Machine

/-- A field channel (R378 to R388). Counts are in scans. -/
structure ChanRt where
  /-- Last classified sample, the filtered value, and how many samples in a row were as the last one (R379). -/
  raw : Bool
  filt : Bool
  run : Nat
  /-- Pin voltage at the last scan, mV. -/
  mv : Int
  /-- Readback with the DI3 thresholds (R391). -/
  back : Bool
  /-- Scans in a row with and without each condition (R382, R383). -/
  limit : Nat
  noLimit : Nat
  opens : Nat
  noOpen : Nat
  ext : Nat
  noExt : Nat
  /-- Scans since the output last switched. -/
  since : Nat
  /-- The output waits for the first commit after its group was present again (R387). -/
  waits : Bool
  /-- The channel has delivered its filter's first sample since it was enabled. -/
  live : Bool
  deriving DecidableEq, Repr

/-- A channel at the start: groups are missing, so outputs wait for a commit. -/
def ChanRt.start : ChanRt := ⟨false, false, 0, 0, false, 0, 0, 0, 0, 0, 0, 0, true, false⟩

/-- A train-line input (R389, R390). -/
structure LineRt where
  raw : Bool
  filt : Bool
  run : Nat
  deriving DecidableEq, Repr

/-- A field group (R382, R386). -/
structure SupplyRt where
  mv : Nat
  low : Nat
  notLow : Nat
  high : Nat
  excess : Nat
  deriving DecidableEq, Repr

/-- Before the first scan. -/
def LineRt.zero : LineRt := ⟨false, false, 0⟩
def SupplyRt.zero : SupplyRt := ⟨0, 0, 0, 0, 0⟩

/-- The Field Channel Unit. -/
structure FieldUnit where
  chan : Sparse ChanRt
  lines : Sparse LineRt
  supply : Sparse SupplyRt
  deriving DecidableEq, Repr

/-- A safe input (R396 to R398): the count of a running disagreement, and the faults. -/
structure SiRt where
  differ : Option Nat
  disc : Bool
  fault : Bool
  deriving DecidableEq, Repr

/-- A safe output (R399). -/
structure SoRt where
  /-- The pair is commanded on, and scans in a row with a low readback while a channel is commanded on. -/
  on : Bool
  lowA : Nat
  lowB : Nat
  /-- Scans since each channel was switched off. -/
  offA : Nat
  offB : Nat
  /-- A fault persists (R405), and a fault condition has been acted on. -/
  fault : Bool
  /-- The channel under off-pulse test (`true` B) and the scans it has been off. -/
  test : Option (Bool × Nat)
  /-- The readback has been below 2 V in this test; a test has ended without. -/
  testLow : Bool
  testFailed : Bool
  deriving DecidableEq, Repr

/-- Before the first scan. -/
def SiRt.zero : SiRt := ⟨none, false, false⟩
def SoRt.zero : SoRt := ⟨false, 0, 0, 0, 0, false, none, false, false⟩

/-- An SS1 instance beside its registers (R400 to R406). -/
structure InstRt where
  v0 : Nat
  /-- Scans of a running speed discrepancy, and the fault it has led to. -/
  differ : Option Nat
  disc : Bool
  /-- A speed fault is present at this scan. -/
  speedFault : Bool
  /-- Scans for which the reset pair has been pressed, and whether RESET_PAIR_STUCK has been written for this press. -/
  pressed : Nat
  stuck : Bool
  deriving DecidableEq, Repr

/-- Before the first scan. -/
def InstRt.zero : InstRt := ⟨0, none, false, false, 0, false⟩

/-- The Safety Function Unit. -/
structure SafetyUnit where
  si : Sparse SiRt
  so : Sparse SoRt
  inst : Sparse InstRt
  /-- The last positions of each encoder, latest first, at most 101 (R400). -/
  hist : Sparse (List Word)
  /-- Confirmed check value and the operating second of its confirmation, in MRAM (R403). -/
  confirmed : Option (Word × Nat)
  /-- SF_LOCKSEQ of the instances, in MRAM (R406). -/
  lockSeq : Vector Nat 4
  /-- The block as the unit uses it: 488 bytes (R404). -/
  block : Sparse Byte
  deriving DecidableEq, Repr

end Sys2Proof.Machine
end

