-- ==== Sys2Proof/Machine/PowerState.lean ====
section
/-! DEFINITION. The state of the Power, Clock and Health Unit beside its registers (spec/20_power_clock_ageing.md), most
of it in the supervisor's MRAM area. -/
namespace Sys2Proof.Machine

/-- Feed stress of one feed (R466): counts since manufacture. -/
structure FeedStress where
  losses : Nat
  dips : Nat
  longDips : Nat
  surges : Nat
  ovv : Nat
  deriving DecidableEq, Repr

/-- The Power, Clock and Health Unit. -/
structure Pwr where
  /-- Core operating point in force and guaranteed operating point (R465, R467). -/
  op : Nat
  gop : Nat
  /-- Canary D85 in ps, four per lane (lanes A, B, C), and ring-oscillator drift in ppm by lane (R466). -/
  canary : List Nat
  drift : List Int
  /-- Lanes whose D85 was more than 60 ps above the module's at the last sample. -/
  ahead : List Nat
  /-- Daily maxima of D85 by operating day, oldest first (R467). -/
  daily : List (Nat × Nat)
  /-- Slope as fitted, in ps per 1,000 operating hours, as numerator and denominator. -/
  slope : Int × Nat
  /-- No point was usable at the projected delay of the last plan. -/
  planLow : Bool
  /-- MARGIN_LOW of R470 holds. -/
  guardLow : Bool
  /-- Operating second of the last plan. -/
  planAt : Nat
  /-- Capacitances measured at power-up, newest first: operating second and µF; how many, and the first one (R459). -/
  caps : List (Nat × Nat)
  capCount : Nat
  capMade : Nat
  /-- Slope of the capacitance in µF per operating second (numerator and denominator), and the class last planned. -/
  capSlope : Int × Nat
  planned : Nat
  /-- Since the start: the store has been at 50 V; the test of R459 has ended; the class it gave; the recharge has
  completed. -/
  charged : Bool
  tested : Bool
  testClass : Nat
  /-- Rainflow: reversals of the frame-edge temperature not yet counted, in 0.1 K, and half-cycles by bin (R466). -/
  turns : List Int
  half : List Nat
  /-- Powered seconds by temperature bin. -/
  hist : List Nat
  feed1 : FeedStress
  feed2 : FeedStress
  bothLost : Nat
  returns : Nat
  downs : Nat
  dipSec : Nat
  /-- A feed of a start with SELFTEST still to come has become good before it; feeds in a dip. -/
  dip1 : Bool
  dip2 : Bool
  /-- Records due at the next start (R461, R464). -/
  downDue : Bool
  clockDue : Bool
  /-- Calendar samples, oldest first, at least a day apart: UTC in ns and operating second (R472). -/
  calendar : List (Nat × Nat)
  deriving DecidableEq, Repr

end Sys2Proof.Machine
end

