-- ==== Sys2Proof/Machine/RegMap.lean ====
section
/-! DEFINITION. The register map: every field of every register page under the manual's own names, and the table of
registers with access codes and reset values, from the register tables of spec/ (R258 to R262). -/
namespace Sys2Proof.Machine

/-- The access codes of R260 (RH is the snapshot area of R259, which has no field of its own). -/
inductive Access where
  | rw | rws | ro | w1c | wo | wd | rwc
  deriving DecidableEq, Repr

/-- One field of a register: its lowest bit, its width, its access code and its reset value (R261). -/
structure Field where
  lo : Nat
  width : Nat
  acc : Access
  reset : Nat
  deriving DecidableEq, Repr

/-- One register, or `count` registers of one form at `base`, `base + stride`, ... (R259). `counting` marks the
registers a snapshot copies (R272). -/
structure RegRow where
  base : Nat
  stride : Nat
  count : Nat
  counting : Bool
  fields : List Field
  deriving DecidableEq, Repr

/-- The key under which `State.regs` holds the field at bit `lo` of the register at `off` of page `page`. -/
def fk (page off lo : Nat) : Nat := (page * 0x1000 + off) * 32 + lo

namespace Reg

/-! Page 0x00, SYS (spec/10_register_conventions.md). -/

def SYS_SERIAL_SERIAL : Nat := fk 0x00 0x000 0
def SYS_HWINFO_HW_ISSUE : Nat := fk 0x00 0x004 0
def SYS_HWINFO_SLOT : Nat := fk 0x00 0x004 8
def SYS_HWINFO_SLOT_MISMATCH : Nat := fk 0x00 0x004 14
def SYS_HWINFO_BOOTSEL : Nat := fk 0x00 0x004 15
def SYS_FWVER_VERSION : Nat := fk 0x00 0x008 0
def SYS_TRIGVER_VERSION : Nat := fk 0x00 0x00c 0
def SYS_MODE_MODE : Nat := fk 0x00 0x010 0
def SYS_MODE_ROLE : Nat := fk 0x00 0x010 4
def SYS_MODE_PAIR : Nat := fk 0x00 0x010 6
def SYS_MODE_STATION : Nat := fk 0x00 0x010 8
def SYS_SAFE_CAUSE : Nat := fk 0x00 0x014 0
def SYS_EVT_WD_ABORT : Nat := fk 0x00 0x018 0
def SYS_EVT_CFG_RELOAD : Nat := fk 0x00 0x018 1
def SYS_SNAP_SNAP : Nat := fk 0x00 0x020 0
def SYS_SNAPTICKLO_TICK : Nat := fk 0x00 0x024 0
def SYS_SNAPTICKHI_TICK : Nat := fk 0x00 0x028 0
def SYS_SAFEREQ_KEY : Nat := fk 0x00 0x040 0
def SYS_WDABORT_CNT : Nat := fk 0x00 0x080 0
def SYS_CFGRELOAD_CNT : Nat := fk 0x00 0x084 0
def SYS_OPSEC : Nat := fk 0x00 0x088 0
def SYS_PWRCYC : Nat := fk 0x00 0x08c 0

/-! Page 0x01, CV (spec/06_triad_and_voting.md). -/

def CV_STAT_LANE_A : Nat := fk 0x01 0x004 0
def CV_STAT_LANE_B : Nat := fk 0x01 0x004 4
def CV_STAT_LANE_C : Nat := fk 0x01 0x004 8
def CV_STAT_TWO_LANE : Nat := fk 0x01 0x004 12
def CV_STAT_FETCH_LANE : Nat := fk 0x01 0x004 13
def CV_STAT_LAST_MIN : Nat := fk 0x01 0x004 16
def CV_LASTMIS_KIND : Nat := fk 0x01 0x008 0
def CV_LASTMIS_LANE : Nat := fk 0x01 0x008 4
def CV_LASTMIS_INDEX : Nat := fk 0x01 0x008 8
def CV_LASTMIS_SLOT : Nat := fk 0x01 0x008 29
def CV_LASTMIS_RETIRED : Nat := fk 0x01 0x008 30
def CV_LASTTICK_TICK : Nat := fk 0x01 0x00c 0
def CV_DEGCFG_DEG_LIMIT : Nat := fk 0x01 0x010 0
def CV_DEGLEFT_SECONDS : Nat := fk 0x01 0x014 0
def CV_FAILWIN_FAIL_A : Nat := fk 0x01 0x018 0
def CV_FAILWIN_FAIL_B : Nat := fk 0x01 0x018 4
def CV_FAILWIN_FAIL_C : Nat := fk 0x01 0x018 8
def CV_PROBE_PATTERN_BIT : Nat := fk 0x01 0x020 0
def CV_PROBE_TARGET : Nat := fk 0x01 0x020 6
def CV_PROBE_CV0_OK : Nat := fk 0x01 0x020 8
def CV_PROBE_CV1_OK : Nat := fk 0x01 0x020 9
def CV_MISMATCH_CNT : Nat := fk 0x01 0x040 0
def CV_MISA_CNT : Nat := fk 0x01 0x044 0
def CV_MISB_CNT : Nat := fk 0x01 0x048 0
def CV_MISC_CNT : Nat := fk 0x01 0x04c 0
def CV_READMIT_CNT : Nat := fk 0x01 0x050 0
def CV_READMIT_FAIL_CNT : Nat := fk 0x01 0x054 0
def CV_DLYPAR_CNT : Nat := fk 0x01 0x058 0
def CV_FORCED_CNT : Nat := fk 0x01 0x05c 0
def CV_PROBE_CNT : Nat := fk 0x01 0x060 0

/-! Page 0x02, CE (spec/02_cycle_model.md). -/

def CE_STAT_RUNNING : Nat := fk 0x02 0x004 0
def CE_STAT_IDLE : Nat := fk 0x02 0x004 3
def CE_STAT_SW_PENDING : Nat := fk 0x02 0x004 4
def CE_STAT_SLOT : Nat := fk 0x02 0x004 5
def CE_STAT_STOPPED : Nat := fk 0x02 0x004 8
def CE_STAT_OP : Nat := fk 0x02 0x004 16
def CE_TICKLO_TICK : Nat := fk 0x02 0x008 0
def CE_TICKHI_TICK : Nat := fk 0x02 0x00c 0
def CE_SLACK_SLACK : Nat := fk 0x02 0x010 0
def CE_SLACK_SWTIMEOUT : Nat := fk 0x02 0x010 16
def CE_SWSTAT_STATE : Nat := fk 0x02 0x014 0
def CE_SWSTAT_CARRY_CLK : Nat := fk 0x02 0x014 16
def CE_EVT_OVR : Nat := fk 0x02 0x018 0
def CE_EVT_BUDGET : Nat := fk 0x02 0x018 8
def CE_EVT_TRAP : Nat := fk 0x02 0x018 16
def CE_EVT_SW_DONE : Nat := fk 0x02 0x018 24
def CE_EVT_SW_TIMEOUT : Nat := fk 0x02 0x018 25
def CE_EVT_FORCE_DROPPED : Nat := fk 0x02 0x018 26
def CE_TASKCFG_PERIOD (n : Nat) : Nat := fk 0x02 (0x040 + 0x4 * n) 0
def CE_TASKCFG_PHASE (n : Nat) : Nat := fk 0x02 (0x040 + 0x4 * n) 12
def CE_TASKCFG_POLICY (n : Nat) : Nat := fk 0x02 (0x040 + 0x4 * n) 24
def CE_TASKCFG_COMMIT_AT (n : Nat) : Nat := fk 0x02 (0x040 + 0x4 * n) 26
def CE_TASKCFG_ENABLE (n : Nat) : Nat := fk 0x02 (0x040 + 0x4 * n) 27
def CE_TASKCFG_OVR_LIMIT (n : Nat) : Nat := fk 0x02 (0x040 + 0x4 * n) 28
def CE_WCET_WCET (n : Nat) : Nat := fk 0x02 (0x060 + 0x4 * n) 0
def CE_RELCNT (n : Nat) : Nat := fk 0x02 (0x080 + 0x4 * n) 0
def CE_OVRCNT (n : Nat) : Nat := fk 0x02 (0x0a0 + 0x4 * n) 0
def CE_SKIPCNT (n : Nat) : Nat := fk 0x02 (0x0c0 + 0x4 * n) 0
def CE_MAXCLK (n : Nat) : Nat := fk 0x02 (0x0e0 + 0x4 * n) 0
def CE_LASTCLK (n : Nat) : Nat := fk 0x02 (0x100 + 0x4 * n) 0
def CE_BUDCNT (n : Nat) : Nat := fk 0x02 (0x140 + 0x4 * n) 0
def CE_VSTALLCNT : Nat := fk 0x02 0x15c 0
def CE_TRAPINFO_CAUSE (n : Nat) : Nat := fk 0x02 (0x120 + 0x4 * n) 0
def CE_TRAPINFO_INDEX (n : Nat) : Nat := fk 0x02 (0x120 + 0x4 * n) 8
def CE_TRAPINFO_SLOT (n : Nat) : Nat := fk 0x02 (0x120 + 0x4 * n) 29

/-! Page 0x03, PI (spec/03_process_image.md). -/

def PI_STAT_FORCES : Nat := fk 0x03 0x004 0
def PI_STAT_FORCE_ACTIVE : Nat := fk 0x03 0x004 13
def PI_STAT_FORCE_PENDING : Nat := fk 0x03 0x004 14
def PI_STAT_LOST_SRC : Nat := fk 0x03 0x004 16
def PI_SUBSTCNT : Nat := fk 0x03 0x010 0
def PI_STALECNT : Nat := fk 0x03 0x014 0
def PI_LOSTDISCCNT : Nat := fk 0x03 0x018 0
def PI_FORCEDROPCNT : Nat := fk 0x03 0x01c 0
def PI_LATCHSERCNT : Nat := fk 0x03 0x020 0
def PI_CFG_DEF_STALE : Nat := fk 0x03 0x030 0

/-! Page 0x04, PS (spec/07_protected_store.md). -/

def PS_STAT_TRAV_RUN : Nat := fk 0x04 0x004 0
def PS_STAT_TRAV_RANGE : Nat := fk 0x04 0x004 1
def PS_STAT_TRAV_STAGED : Nat := fk 0x04 0x004 4
def PS_CE_ADDR_ADDR : Nat := fk 0x04 0x008 0
def PS_UE_ADDR_ADDR : Nat := fk 0x04 0x00c 0
def PS_UE_INFO_KIND : Nat := fk 0x04 0x010 0
def PS_UE_INFO_MASTER : Nat := fk 0x04 0x010 4
def PS_UE_INFO_SYNDROME : Nat := fk 0x04 0x010 8
def PS_UE_INFO_ARRAY : Nat := fk 0x04 0x010 16
def PS_EVT_CE : Nat := fk 0x04 0x014 0
def PS_EVT_UE : Nat := fk 0x04 0x014 1
def PS_EVT_POISON : Nat := fk 0x04 0x014 2
def PS_EVT_LAP_SLOW : Nat := fk 0x04 0x014 3
def PS_EVT_RANGE_ERR : Nat := fk 0x04 0x014 4
def PS_TRAV_CTRL_ENABLE : Nat := fk 0x04 0x020 0
def PS_TRAV_CTRL_PACE : Nat := fk 0x04 0x020 16
def PS_TRAV_LAPMAX_LAPMAX : Nat := fk 0x04 0x024 0
def PS_TRAV_LAP_LAP : Nat := fk 0x04 0x028 0
def PS_TRAV_POS_ADDR : Nat := fk 0x04 0x02c 0
def PS_TRAV_BASE_VALID (n : Nat) : Nat := fk 0x04 (0x040 + 0x8 * n) 0
def PS_TRAV_BASE_BASE (n : Nat) : Nat := fk 0x04 (0x040 + 0x8 * n) 12
def PS_TRAV_LIM_LIMIT (n : Nat) : Nat := fk 0x04 (0x044 + 0x8 * n) 12
def PS_CE_CNT : Nat := fk 0x04 0x080 0
def PS_UE_CNT : Nat := fk 0x04 0x084 0
def PS_ADDRERR_CNT : Nat := fk 0x04 0x088 0
def PS_POISON_CNT : Nat := fk 0x04 0x08c 0
def PS_POISONRD_CNT : Nat := fk 0x04 0x090 0
def PS_STOREERR_CNT : Nat := fk 0x04 0x094 0
def PS_WBCANCEL_CNT : Nat := fk 0x04 0x098 0
def PS_LAP_CNT : Nat := fk 0x04 0x09c 0
def PS_PRG_CE_CNT : Nat := fk 0x04 0x0a0 0
def PS_PRG_UE_CNT : Nat := fk 0x04 0x0a4 0
def PS_IMG_CE_CNT : Nat := fk 0x04 0x0a8 0
def PS_IMG_UE_CNT : Nat := fk 0x04 0x0ac 0

/-! Page 0x05, MS (spec/07_protected_store.md). -/

def MS_STAT_SCAN_DONE : Nat := fk 0x05 0x004 0
def MS_STAT_SCAN_UE : Nat := fk 0x05 0x004 1
def MS_CE_ADDR_ADDR : Nat := fk 0x05 0x008 0
def MS_UE_ADDR_ADDR : Nat := fk 0x05 0x00c 0
def MS_UE_INFO_KIND : Nat := fk 0x05 0x010 0
def MS_UE_INFO_MASTER : Nat := fk 0x05 0x010 4
def MS_UE_INFO_SYNDROME : Nat := fk 0x05 0x010 8
def MS_EVT_CE : Nat := fk 0x05 0x014 0
def MS_EVT_UE : Nat := fk 0x05 0x014 1
def MS_EVT_POISON : Nat := fk 0x05 0x014 2
def MS_CE_CNT : Nat := fk 0x05 0x080 0
def MS_UE_CNT : Nat := fk 0x05 0x084 0
def MS_ADDRERR_CNT : Nat := fk 0x05 0x088 0
def MS_POISON_CNT : Nat := fk 0x05 0x08c 0
def MS_POISONRD_CNT : Nat := fk 0x05 0x090 0
def MS_STOREERR_CNT : Nat := fk 0x05 0x094 0
def MS_WBCANCEL_CNT : Nat := fk 0x05 0x098 0
def MS_SCANCE_CNT : Nat := fk 0x05 0x09c 0
def MS_SCANUE_CNT : Nat := fk 0x05 0x0a0 0

/-! Page 0x06, RNG (spec/11_rings.md). -/

def RNG_CTRL_COMPAT (h : Nat) : Nat := fk (0x06 + h) 0x000 31
def RNG_STAT_HALTED (h : Nat) : Nat := fk (0x06 + h) 0x004 0
def RNG_STAT_WIGN (h : Nat) : Nat := fk (0x06 + h) 0x004 31
def RNG_EVT_DONE (h : Nat) : Nat := fk (0x06 + h) 0x008 0
def RNG_EVT_HALT (h : Nat) : Nat := fk (0x06 + h) 0x008 16
def RNG_EVT2_POSTERR (h : Nat) : Nat := fk (0x06 + h) 0x00c 0
def RNG_EVT2_DROP (h : Nat) : Nat := fk (0x06 + h) 0x00c 16
def RNG_CFG_ENABLE (n : Nat) : Nat := fk (0x06 + n / 16) (0x040 + 0x30 * (n % 16)) 0
def RNG_CFG_DIR (n : Nat) : Nat := fk (0x06 + n / 16) (0x040 + 0x30 * (n % 16)) 1
def RNG_CFG_POLICY (n : Nat) : Nat := fk (0x06 + n / 16) (0x040 + 0x30 * (n % 16)) 2
def RNG_CFG_SIZE (n : Nat) : Nat := fk (0x06 + n / 16) (0x040 + 0x30 * (n % 16)) 3
def RNG_CFG_AGENT (n : Nat) : Nat := fk (0x06 + n / 16) (0x040 + 0x30 * (n % 16)) 8
def RNG_BASE_BASE (n : Nat) : Nat := fk (0x06 + n / 16) (0x044 + 0x30 * (n % 16)) 5
def RNG_PTR_HEAD (n : Nat) : Nat := fk (0x06 + n / 16) (0x048 + 0x30 * (n % 16)) 0
def RNG_PTR_TAIL (n : Nat) : Nat := fk (0x06 + n / 16) (0x048 + 0x30 * (n % 16)) 16
def RNG_POST (n : Nat) : Nat := fk (0x06 + n / 16) (0x04c + 0x30 * (n % 16)) 0
def RNG_RSTAT_HALTED (n : Nat) : Nat := fk (0x06 + n / 16) (0x050 + 0x30 * (n % 16)) 0
def RNG_RSTAT_SHUTTING (n : Nat) : Nat := fk (0x06 + n / 16) (0x050 + 0x30 * (n % 16)) 1
def RNG_RSTAT_IDLE (n : Nat) : Nat := fk (0x06 + n / 16) (0x050 + 0x30 * (n % 16)) 2
def RNG_RSTAT_CAUSE (n : Nat) : Nat := fk (0x06 + n / 16) (0x050 + 0x30 * (n % 16)) 4
def RNG_RSTAT_HOLD (n : Nat) : Nat := fk (0x06 + n / 16) (0x050 + 0x30 * (n % 16)) 8
def RNG_HALTADDR_ADDR (n : Nat) : Nat := fk (0x06 + n / 16) (0x054 + 0x30 * (n % 16)) 0
def RNG_CMD_RESUME (n : Nat) : Nat := fk (0x06 + n / 16) (0x058 + 0x30 * (n % 16)) 0
def RNG_CMD_SKIP (n : Nat) : Nat := fk (0x06 + n / 16) (0x058 + 0x30 * (n % 16)) 1
def RNG_SEQ (n : Nat) : Nat := fk (0x06 + n / 16) (0x05c + 0x30 * (n % 16)) 0
def RNG_DROPCNT (n : Nat) : Nat := fk (0x06 + n / 16) (0x060 + 0x30 * (n % 16)) 0
def RNG_TRUNCCNT (n : Nat) : Nat := fk (0x06 + n / 16) (0x064 + 0x30 * (n % 16)) 0
def RNG_DONECNT (n : Nat) : Nat := fk (0x06 + n / 16) (0x068 + 0x30 * (n % 16)) 0

/-! Page 0x08, ESW (spec/12_train_network.md). -/

def ESW_CTRL_COMPAT : Nat := fk 0x08 0x000 31
def ESW_STAT_LINK : Nat := fk 0x08 0x004 0
def ESW_STAT_WIGN : Nat := fk 0x08 0x004 31
def ESW_REDCFG_RED : Nat := fk 0x08 0x008 0
def ESW_PTPSTAT_SOURCE : Nat := fk 0x08 0x010 0
def ESW_PTPSTAT_LOCKED : Nat := fk 0x08 0x010 2
def ESW_PTPSTAT_GM : Nat := fk 0x08 0x010 3
def ESW_PTPSTAT_TIME_VALID : Nat := fk 0x08 0x010 4
def ESW_PTPOFS_OFFSET : Nat := fk 0x08 0x014 0
def ESW_ETBSTAT_ETBN : Nat := fk 0x08 0x018 0
def ESW_ETBSTAT_INAUG : Nat := fk 0x08 0x018 1
def ESW_ETBSTAT_POS : Nat := fk 0x08 0x018 2
def ESW_ETBSTAT_COUNT : Nat := fk 0x08 0x018 8
def ESW_ETBSTAT_BACKUP : Nat := fk 0x08 0x018 14
def ESW_ETBSTAT_OVERSIZE : Nat := fk 0x08 0x018 15
def ESW_ETBTOPO_TOPO : Nat := fk 0x08 0x01c 0
def ESW_EVT_INAUG : Nat := fk 0x08 0x020 0
def ESW_EVT_PTP_LOCK_LOST : Nat := fk 0x08 0x020 1
def ESW_EVT_DDT_FULL : Nat := fk 0x08 0x020 2
def ESW_PORTCFG_ENABLE (n : Nat) : Nat := fk 0x08 (0x040 + 0x20 * (n - 1)) 0
def ESW_PORTCFG_SPEED (n : Nat) : Nat := fk 0x08 (0x040 + 0x20 * (n - 1)) 1
def ESW_PORTCFG_PVID (n : Nat) : Nat := fk 0x08 (0x040 + 0x20 * (n - 1)) 3
def ESW_PORTCFG_PRIO (n : Nat) : Nat := fk 0x08 (0x040 + 0x20 * (n - 1)) 15
def ESW_PORTSTAT_LINK (n : Nat) : Nat := fk 0x08 (0x044 + 0x20 * (n - 1)) 0
def ESW_PORTSTAT_SPEED (n : Nat) : Nat := fk 0x08 (0x044 + 0x20 * (n - 1)) 1
def ESW_PORTSTAT_SHUTTING (n : Nat) : Nat := fk 0x08 (0x044 + 0x20 * (n - 1)) 3
def ESW_RXCNT (n : Nat) : Nat := fk 0x08 (0x048 + 0x20 * (n - 1)) 0
def ESW_TXCNT (n : Nat) : Nat := fk 0x08 (0x04c + 0x20 * (n - 1)) 0
def ESW_RXERRCNT (n : Nat) : Nat := fk 0x08 (0x050 + 0x20 * (n - 1)) 0
def ESW_DROPCNT (n : Nat) : Nat := fk 0x08 (0x054 + 0x20 * (n - 1)) 0
def ESW_DUPCNT (n : Nat) : Nat := fk 0x08 (0x1c0 + 0x10 * n) 0
def ESW_OOWCNT (n : Nat) : Nat := fk 0x08 (0x1c4 + 0x10 * n) 0
def ESW_WRONGLAN (n : Nat) : Nat := fk 0x08 (0x1c8 + 0x10 * n) 0
def ESW_NTEVICTCNT : Nat := fk 0x08 0x200 0

/-! Page 0x09, TPD (spec/12_train_network.md). -/

def TPD_CTRL_ENABLE : Nat := fk 0x09 0x000 0
def TPD_STAT_PUBS : Nat := fk 0x09 0x004 0
def TPD_STAT_SUBS : Nat := fk 0x09 0x004 16
def TPD_EVT_TIMEOUT : Nat := fk 0x09 0x008 0
def TPD_EVT_LATE : Nat := fk 0x09 0x008 1
def TPD_EVT_TOPO_DISC : Nat := fk 0x09 0x008 2
def TPD_TXCNT : Nat := fk 0x09 0x040 0
def TPD_RXCNT : Nat := fk 0x09 0x044 0
def TPD_RXERRCNT : Nat := fk 0x09 0x048 0
def TPD_UNKCNT : Nat := fk 0x09 0x04c 0
def TPD_DUPCNT : Nat := fk 0x09 0x050 0
def TPD_TOPODISCCNT : Nat := fk 0x09 0x054 0
def TPD_LENERRCNT : Nat := fk 0x09 0x058 0
def TPD_TIMEOUTCNT : Nat := fk 0x09 0x05c 0
def TPD_LATECNT : Nat := fk 0x09 0x060 0
def TPD_SUBLOST (n : Nat) : Nat := fk 0x09 (0x200 + 0x4 * n) 0

/-! Page 0x0A, MVB (spec/12_train_network.md). -/

def MVB_CTRL_ENABLE : Nat := fk 0x0A 0x000 0
def MVB_CTRL_MEDIUM : Nat := fk 0x0A 0x000 1
def MVB_CTRL_DEVADDR : Nat := fk 0x0A 0x000 2
def MVB_CTRL_COMPAT : Nat := fk 0x0A 0x000 31
def MVB_STAT_LINE_A : Nat := fk 0x0A 0x004 0
def MVB_STAT_LINE_B : Nat := fk 0x0A 0x004 1
def MVB_STAT_MASTER_SEEN : Nat := fk 0x0A 0x004 2
def MVB_STAT_SHUTTING : Nat := fk 0x0A 0x004 3
def MVB_STAT_WIGN : Nat := fk 0x0A 0x004 31
def MVB_EVT_SINK_TIMEOUT : Nat := fk 0x0A 0x008 0
def MVB_EVT_LINE_FAULT : Nat := fk 0x0A 0x008 1
def MVB_MFCNT : Nat := fk 0x0A 0x040 0
def MVB_SFCNT : Nat := fk 0x0A 0x044 0
def MVB_ERRACNT : Nat := fk 0x0A 0x048 0
def MVB_ERRBCNT : Nat := fk 0x0A 0x04c 0
def MVB_TIMEOUTCNT : Nat := fk 0x0A 0x050 0
def MVB_SINKLOST (n : Nat) : Nat := fk 0x0A (0x100 + 0x4 * n) 0

/-! Page 0x0B, WTB (spec/12_train_network.md). -/

def WTB_CTRL_ENABLE : Nat := fk 0x0B 0x000 0
def WTB_CTRL_MASTER_OK : Nat := fk 0x0B 0x000 1
def WTB_CTRL_STRONG : Nat := fk 0x0B 0x000 2
def WTB_CTRL_COMPAT : Nat := fk 0x0B 0x000 31
def WTB_STAT_INAUG_DONE : Nat := fk 0x0B 0x004 0
def WTB_STAT_MASTER : Nat := fk 0x0B 0x004 1
def WTB_STAT_NODE : Nat := fk 0x0B 0x004 2
def WTB_STAT_NODES : Nat := fk 0x0B 0x004 8
def WTB_STAT_END_NODE : Nat := fk 0x0B 0x004 14
def WTB_STAT_SHUTTING : Nat := fk 0x0B 0x004 15
def WTB_STAT_TOPO : Nat := fk 0x0B 0x004 16
def WTB_STAT_WIGN : Nat := fk 0x0B 0x004 31
def WTB_EVT_INAUG : Nat := fk 0x0B 0x008 0
def WTB_EVT_NODE_LOST : Nat := fk 0x0B 0x008 1
def WTB_NODELOSTLO : Nat := fk 0x0B 0x00c 0
def WTB_NODELOSTHI : Nat := fk 0x0B 0x010 0
def WTB_INAUGCNT : Nat := fk 0x0B 0x040 0
def WTB_PDTXCNT : Nat := fk 0x0B 0x044 0
def WTB_PDRXCNT : Nat := fk 0x0B 0x048 0
def WTB_ERRACNT : Nat := fk 0x0B 0x04c 0
def WTB_ERRBCNT : Nat := fk 0x0B 0x050 0
def WTB_TIMEOUTCNT : Nat := fk 0x0B 0x054 0

/-! Page 0x0C, CAN (spec/12_train_network.md). -/

def CAN_CTRL_COMPAT : Nat := fk 0x0C 0x000 31
def CAN_STAT_BUSOFF : Nat := fk 0x0C 0x004 0
def CAN_STAT_WIGN : Nat := fk 0x0C 0x004 31
def CAN_CFG_ENABLE (n : Nat) : Nat := fk 0x0C (0x040 + 0x40 * (n - 1)) 0
def CAN_CFG_FD (n : Nat) : Nat := fk 0x0C (0x040 + 0x40 * (n - 1)) 1
def CAN_CFG_TERM (n : Nat) : Nat := fk 0x0C (0x040 + 0x40 * (n - 1)) 2
def CAN_CFG_AUTO_RECOVER (n : Nat) : Nat := fk 0x0C (0x040 + 0x40 * (n - 1)) 3
def CAN_CFG_LISTEN (n : Nat) : Nat := fk 0x0C (0x040 + 0x40 * (n - 1)) 4
def CAN_CFG_TXRING (n : Nat) : Nat := fk 0x0C (0x040 + 0x40 * (n - 1)) 5
def CAN_CFG_RXRING (n : Nat) : Nat := fk 0x0C (0x040 + 0x40 * (n - 1)) 6
def CAN_NBT_NBRP (n : Nat) : Nat := fk 0x0C (0x044 + 0x40 * (n - 1)) 0
def CAN_NBT_NTSEG1 (n : Nat) : Nat := fk 0x0C (0x044 + 0x40 * (n - 1)) 8
def CAN_NBT_NTSEG2 (n : Nat) : Nat := fk 0x0C (0x044 + 0x40 * (n - 1)) 16
def CAN_NBT_NSJW (n : Nat) : Nat := fk 0x0C (0x044 + 0x40 * (n - 1)) 23
def CAN_DBT_DBRP (n : Nat) : Nat := fk 0x0C (0x048 + 0x40 * (n - 1)) 0
def CAN_DBT_DTSEG1 (n : Nat) : Nat := fk 0x0C (0x048 + 0x40 * (n - 1)) 8
def CAN_DBT_DTSEG2 (n : Nat) : Nat := fk 0x0C (0x048 + 0x40 * (n - 1)) 16
def CAN_DBT_DSJW (n : Nat) : Nat := fk 0x0C (0x048 + 0x40 * (n - 1)) 24
def CAN_DBT_TDC_EN (n : Nat) : Nat := fk 0x0C (0x048 + 0x40 * (n - 1)) 28
def CAN_ECR_TEC (n : Nat) : Nat := fk 0x0C (0x04c + 0x40 * (n - 1)) 0
def CAN_ECR_REC (n : Nat) : Nat := fk 0x0C (0x04c + 0x40 * (n - 1)) 8
def CAN_ECR_STATE (n : Nat) : Nat := fk 0x0C (0x04c + 0x40 * (n - 1)) 16
def CAN_ECR_CFGERR (n : Nat) : Nat := fk 0x0C (0x04c + 0x40 * (n - 1)) 18
def CAN_RECOVER_RECOVER (n : Nat) : Nat := fk 0x0C (0x050 + 0x40 * (n - 1)) 0
def CAN_TXCNT (n : Nat) : Nat := fk 0x0C (0x054 + 0x40 * (n - 1)) 0
def CAN_RXCNT (n : Nat) : Nat := fk 0x0C (0x058 + 0x40 * (n - 1)) 0
def CAN_ERRCNT (n : Nat) : Nat := fk 0x0C (0x05c + 0x40 * (n - 1)) 0
def CAN_BUSOFFCNT (n : Nat) : Nat := fk 0x0C (0x060 + 0x40 * (n - 1)) 0

/-! Page 0x0D, SER (spec/12_train_network.md). -/

def SER_CTRL_COMPAT : Nat := fk 0x0D 0x000 31
def SER_STAT_SHUTTING : Nat := fk 0x0D 0x004 0
def SER_STAT_WIGN : Nat := fk 0x0D 0x004 31
def SER_CFG_ENABLE (n : Nat) : Nat := fk 0x0D (0x040 + 0x30 * (n - 1)) 0
def SER_CFG_DUPLEX (n : Nat) : Nat := fk 0x0D (0x040 + 0x30 * (n - 1)) 1
def SER_CFG_PROTO (n : Nat) : Nat := fk 0x0D (0x040 + 0x30 * (n - 1)) 2
def SER_CFG_PARITY (n : Nat) : Nat := fk 0x0D (0x040 + 0x30 * (n - 1)) 3
def SER_CFG_STOP2 (n : Nat) : Nat := fk 0x0D (0x040 + 0x30 * (n - 1)) 5
def SER_CFG_DATA7 (n : Nat) : Nat := fk 0x0D (0x040 + 0x30 * (n - 1)) 6
def SER_CFG_TERM (n : Nat) : Nat := fk 0x0D (0x040 + 0x30 * (n - 1)) 7
def SER_CFG_FCS32 (n : Nat) : Nat := fk 0x0D (0x040 + 0x30 * (n - 1)) 8
def SER_CFG_RINGS (n : Nat) : Nat := fk 0x0D (0x040 + 0x30 * (n - 1)) 9
def SER_RATE_DIV (n : Nat) : Nat := fk 0x0D (0x044 + 0x30 * (n - 1)) 0
def SER_RATE_OVS (n : Nat) : Nat := fk 0x0D (0x044 + 0x30 * (n - 1)) 16
def SER_GAP_GAP (n : Nat) : Nat := fk 0x0D (0x048 + 0x30 * (n - 1)) 0
def SER_GAP_TURN (n : Nat) : Nat := fk 0x0D (0x048 + 0x30 * (n - 1)) 16
def SER_TXCNT (n : Nat) : Nat := fk 0x0D (0x050 + 0x30 * (n - 1)) 0
def SER_RXCNT (n : Nat) : Nat := fk 0x0D (0x054 + 0x30 * (n - 1)) 0
def SER_ERRCNT (n : Nat) : Nat := fk 0x0D (0x058 + 0x30 * (n - 1)) 0
def SER_OVRCNT (n : Nat) : Nat := fk 0x0D (0x05c + 0x30 * (n - 1)) 0

/-! Page 0x0E, ENC (spec/12_train_network.md). -/

def ENC_CTRL_PPS_OUT_SEL : Nat := fk 0x0E 0x000 0
def ENC_CTRL_PPS_IN_EN : Nat := fk 0x0E 0x000 1
def ENC_CTRL_COMPAT : Nat := fk 0x0E 0x000 31
def ENC_STAT_FAULT : Nat := fk 0x0E 0x004 0
def ENC_STAT_PPS_IN_OK : Nat := fk 0x0E 0x004 6
def ENC_STAT_WIGN : Nat := fk 0x0E 0x004 31
def ENC_PPSINLO_TIME : Nat := fk 0x0E 0x008 0
def ENC_PPSINHI_TIME : Nat := fk 0x0E 0x00c 0
def ENC_CFG_ENABLE (n : Nat) : Nat := fk 0x0E (0x040 + 0x30 * (n - 1)) 0
def ENC_CFG_MODE (n : Nat) : Nat := fk 0x0E (0x040 + 0x30 * (n - 1)) 1
def ENC_CFG_ZEN (n : Nat) : Nat := fk 0x0E (0x040 + 0x30 * (n - 1)) 2
def ENC_CFG_DIR (n : Nat) : Nat := fk 0x0E (0x040 + 0x30 * (n - 1)) 3
def ENC_CFG_GRAY (n : Nat) : Nat := fk 0x0E (0x040 + 0x30 * (n - 1)) 4
def ENC_CFG_SSIBITS (n : Nat) : Nat := fk 0x0E (0x040 + 0x30 * (n - 1)) 5
def ENC_CFG_SSICLK (n : Nat) : Nat := fk 0x0E (0x040 + 0x30 * (n - 1)) 10
def ENC_CFG_FILTER (n : Nat) : Nat := fk 0x0E (0x040 + 0x30 * (n - 1)) 13
def ENC_COUNT (n : Nat) : Nat := fk 0x0E (0x044 + 0x30 * (n - 1)) 0
def ENC_ZCOUNT (n : Nat) : Nat := fk 0x0E (0x048 + 0x30 * (n - 1)) 0
def ENC_ESTAT_WIRE (n : Nat) : Nat := fk 0x0E (0x04c + 0x30 * (n - 1)) 0
def ENC_ESTAT_QUAD (n : Nat) : Nat := fk 0x0E (0x04c + 0x30 * (n - 1)) 1
def ENC_ESTAT_ZERR (n : Nat) : Nat := fk 0x0E (0x04c + 0x30 * (n - 1)) 2
def ENC_ESTAT_SSI_ERR (n : Nat) : Nat := fk 0x0E (0x04c + 0x30 * (n - 1)) 3
def ENC_ESTAT_SF_CLAIMED (n : Nat) : Nat := fk 0x0E (0x04c + 0x30 * (n - 1)) 4
def ENC_ESTAT_SHUTTING (n : Nat) : Nat := fk 0x0E (0x04c + 0x30 * (n - 1)) 5
def ENC_WIRECNT (n : Nat) : Nat := fk 0x0E (0x050 + 0x30 * (n - 1)) 0
def ENC_QERRCNT (n : Nat) : Nat := fk 0x0E (0x054 + 0x30 * (n - 1)) 0
def ENC_ZERRCNT (n : Nat) : Nat := fk 0x0E (0x058 + 0x30 * (n - 1)) 0
def ENC_SSIERRCNT (n : Nat) : Nat := fk 0x0E (0x05c + 0x30 * (n - 1)) 0
def ENC_ZCFG (n : Nat) : Nat := fk 0x0E (0x060 + 0x30 * (n - 1)) 0
def ENC_SSIJUMP (n : Nat) : Nat := fk 0x0E (0x064 + 0x30 * (n - 1)) 0

/-! Page 0x10, RDG (spec/13_ridge_link.md). -/

def RDG_CTRL_ENABLE : Nat := fk 0x10 0x000 0
def RDG_CTRL_SLOT_DEADLINE : Nat := fk 0x10 0x000 8
def RDG_CTRL_LOSS_TICKS : Nat := fk 0x10 0x000 16
def RDG_CTRL_RETRY_LIMIT : Nat := fk 0x10 0x000 19
def RDG_CTRL_CPL_TIMEOUT : Nat := fk 0x10 0x000 24
def RDG_STAT_STATE : Nat := fk 0x10 0x004 0
def RDG_STAT_LINK_E : Nat := fk 0x10 0x004 3
def RDG_STAT_LINK_W : Nat := fk 0x10 0x004 4
def RDG_STAT_RING_CLOSED : Nat := fk 0x10 0x004 5
def RDG_STAT_UNIT : Nat := fk 0x10 0x004 6
def RDG_STAT_SHUTTING : Nat := fk 0x10 0x004 7
def RDG_STAT_POSITIONS : Nat := fk 0x10 0x004 8
def RDG_EVT_STATION_LOST : Nat := fk 0x10 0x008 0
def RDG_EVT_STATION_REGAINED : Nat := fk 0x10 0x008 1
def RDG_EVT_RING_OPEN : Nat := fk 0x10 0x008 2
def RDG_EVT_DUP_STATION : Nat := fk 0x10 0x008 3
def RDG_EVT_LAYOUT_ERR : Nat := fk 0x10 0x008 4
def RDG_EVT_MANAGER_LOST : Nat := fk 0x10 0x008 5
def RDG_ONLINELO_MAP : Nat := fk 0x10 0x00c 0
def RDG_ONLINEHI_MAP : Nat := fk 0x10 0x010 0
def RDG_REFUSEDLO_MAP : Nat := fk 0x10 0x014 0
def RDG_REFUSEDHI_MAP : Nat := fk 0x10 0x018 0
def RDG_IRQ_CODE : Nat := fk 0x10 0x020 0
def RDG_IRQ_RING : Nat := fk 0x10 0x020 31
def RDG_RXCNT : Nat := fk 0x10 0x040 0
def RDG_CRCERRECNT : Nat := fk 0x10 0x044 0
def RDG_CRCERRWCNT : Nat := fk 0x10 0x048 0
def RDG_STOMPCNT : Nat := fk 0x10 0x04c 0
def RDG_DUPCNT : Nat := fk 0x10 0x050 0
def RDG_RTXCNT : Nat := fk 0x10 0x054 0
def RDG_LAYOUTERRCNT : Nat := fk 0x10 0x058 0
def RDG_SLOTLATECNT : Nat := fk 0x10 0x05c 0
def RDG_LOSTCNT : Nat := fk 0x10 0x060 0
def RDG_TUNDROPCNT : Nat := fk 0x10 0x064 0
def RDG_IRQDROPCNT : Nat := fk 0x10 0x068 0
def RDG_LATECPLCNT : Nat := fk 0x10 0x06c 0

/-! Page 0x11, BRG (spec/13_ridge_link.md). -/

def BRG_CFG_ENABLE (n : Nat) : Nat := fk 0x11 (0x000 + 0x10 * (n - 1)) 0
def BRG_CFG_PREFETCH (n : Nat) : Nat := fk 0x11 (0x000 + 0x10 * (n - 1)) 1
def BRG_CFG_BASE (n : Nat) : Nat := fk 0x11 (0x000 + 0x10 * (n - 1)) 20
def BRG_STAT_STATE (n : Nat) : Nat := fk 0x11 (0x004 + 0x10 * (n - 1)) 0
def BRG_STAT_SHUTTING (n : Nat) : Nat := fk 0x11 (0x004 + 0x10 * (n - 1)) 2
def BRG_STAT_NP_OUT (n : Nat) : Nat := fk 0x11 (0x004 + 0x10 * (n - 1)) 3
def BRG_STAT_POSTED_OUT (n : Nat) : Nat := fk 0x11 (0x004 + 0x10 * (n - 1)) 7
def BRG_STAT_LINE_VALID (n : Nat) : Nat := fk 0x11 (0x004 + 0x10 * (n - 1)) 13
def BRG_FAR_OFFSET (n : Nat) : Nat := fk 0x11 (0x008 + 0x10 * (n - 1)) 0
def BRG_FAR_CODE (n : Nat) : Nat := fk 0x11 (0x008 + 0x10 * (n - 1)) 24
def BRG_FAR_WRITE (n : Nat) : Nat := fk 0x11 (0x008 + 0x10 * (n - 1)) 28
def BRG_FARCNT (n : Nat) : Nat := fk 0x11 (0x00c + 0x10 * (n - 1)) 0
def BRG_EVT_FAR : Nat := fk 0x11 0x3f0 0
def BRG_RETRYCNT : Nat := fk 0x11 0x3f4 0
def BRG_PREFHITCNT : Nat := fk 0x11 0x3f8 0
def BRG_PREFDISCCNT : Nat := fk 0x11 0x3fc 0

/-! Page 0x12, COL (spec/14_pair_redundancy.md). -/

def COL_CTRL_ENABLE : Nat := fk 0x12 0x000 0
def COL_CTRL_DELTA_PAGES : Nat := fk 0x12 0x000 8
def COL_CTRL_JOIN_TIMEOUT : Nat := fk 0x12 0x000 16
def COL_STAT_STATE : Nat := fk 0x12 0x004 0
def COL_STAT_LANE1_UP : Nat := fk 0x12 0x004 3
def COL_STAT_LANE2_UP : Nat := fk 0x12 0x004 4
def COL_STAT_SWAP_PENDING : Nat := fk 0x12 0x004 5
def COL_STAT_ROUND : Nat := fk 0x12 0x004 8
def COL_STAT_EPOCH : Nat := fk 0x12 0x004 16
def COL_PARTNER_SERIAL : Nat := fk 0x12 0x008 0
def COL_DIRTY_PAGES : Nat := fk 0x12 0x00c 0
def COL_DELAY_DELAY : Nat := fk 0x12 0x010 0
def COL_LASTTO_TICK : Nat := fk 0x12 0x014 0
def COL_EVT_TAKEOVER : Nat := fk 0x12 0x018 0
def COL_EVT_DIGEST_MIS : Nat := fk 0x12 0x018 1
def COL_EVT_STREAM_GAP : Nat := fk 0x12 0x018 2
def COL_EVT_JOIN_DONE : Nat := fk 0x12 0x018 3
def COL_EVT_JOIN_ABORT : Nat := fk 0x12 0x018 4
def COL_EVT_LANE_DOWN : Nat := fk 0x12 0x018 5
def COL_EVT_DUAL_ACTIVE : Nat := fk 0x12 0x018 6
def COL_EVT_DEFER : Nat := fk 0x12 0x018 7
def COL_EVT_PARTNER_LOST : Nat := fk 0x12 0x018 8
def COL_TAKEOVERCNT : Nat := fk 0x12 0x040 0
def COL_DIGESTMISCNT : Nat := fk 0x12 0x044 0
def COL_GAPCNT : Nat := fk 0x12 0x048 0
def COL_CRCERRCNT : Nat := fk 0x12 0x04c 0
def COL_JOINCNT : Nat := fk 0x12 0x050 0
def COL_JOINFAILCNT : Nat := fk 0x12 0x054 0
def COL_DEFERCNT : Nat := fk 0x12 0x058 0
def COL_LANEDOWNCNT : Nat := fk 0x12 0x05c 0
def COL_STREAMMAX : Nat := fk 0x12 0x060 0

/-! Page 0x13, FCH (spec/15_field_channels.md). -/

def FCH_CFG_ENABLE (n : Nat) : Nat := fk 0x13 (0x000 + 0x10 * (n - 1)) 0
def FCH_CFG_MODE (n : Nat) : Nat := fk 0x13 (0x000 + 0x10 * (n - 1)) 1
def FCH_CFG_FILTER (n : Nat) : Nat := fk 0x13 (0x000 + 0x10 * (n - 1)) 4
def FCH_CFG_DIAG (n : Nat) : Nat := fk 0x13 (0x000 + 0x10 * (n - 1)) 12
def FCH_CFG_PARTNER (n : Nat) : Nat := fk 0x13 (0x000 + 0x10 * (n - 1)) 14
def FCH_CTRL_COMPAT : Nat := fk 0x13 0x000 31
def FCH_STAT_LEVEL (n : Nat) : Nat := fk 0x13 (0x004 + 0x10 * (n - 1)) 0
def FCH_STAT_DRIVE (n : Nat) : Nat := fk 0x13 (0x004 + 0x10 * (n - 1)) 1
def FCH_STAT_SHUTTING (n : Nat) : Nat := fk 0x13 (0x004 + 0x10 * (n - 1)) 2
def FCH_STAT_GROUP_LOW (n : Nat) : Nat := fk 0x13 (0x004 + 0x10 * (n - 1)) 3
def FCH_STAT_GROUP_MISSING (n : Nat) : Nat := fk 0x13 (0x004 + 0x10 * (n - 1)) 4
def FCH_STAT_OPEN (n : Nat) : Nat := fk 0x13 (0x004 + 0x10 * (n - 1)) 5
def FCH_STAT_EXT_VOLTAGE (n : Nat) : Nat := fk 0x13 (0x004 + 0x10 * (n - 1)) 6
def FCH_STAT_OVERLOAD (n : Nat) : Nat := fk 0x13 (0x004 + 0x10 * (n - 1)) 7
def FCH_STAT_THERMAL (n : Nat) : Nat := fk 0x13 (0x004 + 0x10 * (n - 1)) 8
def FCH_STAT_GROUP_OVERLOAD (n : Nat) : Nat := fk 0x13 (0x004 + 0x10 * (n - 1)) 9
def FCH_STAT_SF_CLAIMED (n : Nat) : Nat := fk 0x13 (0x004 + 0x10 * (n - 1)) 10
def FCH_STAT_INVALID_CMD (n : Nat) : Nat := fk 0x13 (0x004 + 0x10 * (n - 1)) 11
def FCH_STAT_WIGN : Nat := fk 0x13 0x004 31
def FCH_DIAG_OPEN (n : Nat) : Nat := fk 0x13 (0x008 + 0x10 * (n - 1)) 0
def FCH_DIAG_EXT_VOLTAGE (n : Nat) : Nat := fk 0x13 (0x008 + 0x10 * (n - 1)) 1
def FCH_DIAG_OVERLOAD (n : Nat) : Nat := fk 0x13 (0x008 + 0x10 * (n - 1)) 2
def FCH_DIAG_THERMAL (n : Nat) : Nat := fk 0x13 (0x008 + 0x10 * (n - 1)) 3
def FCH_DIAG_GROUP_OVERLOAD (n : Nat) : Nat := fk 0x13 (0x008 + 0x10 * (n - 1)) 4
def FCH_FLTCNT (n : Nat) : Nat := fk 0x13 (0x00c + 0x10 * (n - 1)) 0

/-! Page 0x14, TLI (spec/15_field_channels.md). -/

def TLI_CTRL_COMPAT : Nat := fk 0x14 0x000 31
def TLI_STAT_LEVEL : Nat := fk 0x14 0x004 0
def TLI_STAT_SHUTTING : Nat := fk 0x14 0x004 16
def TLI_STAT_WIGN : Nat := fk 0x14 0x004 31
def TLI_GCFG_ENABLE (n : Nat) : Nat := fk 0x14 (0x040 + 0x4 * (n - 1)) 0
def TLI_GCFG_RANGE (n : Nat) : Nat := fk 0x14 (0x040 + 0x4 * (n - 1)) 1
def TLI_GCFG_FILTER (n : Nat) : Nat := fk 0x14 (0x040 + 0x4 * (n - 1)) 3
def TLI_FGVOLT_VOLT (n : Nat) : Nat := fk 0x14 (0x100 + 0x4 * (n - 1)) 0
def TLI_FGVOLT_CURRENT (n : Nat) : Nat := fk 0x14 (0x100 + 0x4 * (n - 1)) 16
def TLI_FGSTAT_LP_LOW : Nat := fk 0x14 0x120 0
def TLI_FGSTAT_MISSING : Nat := fk 0x14 0x120 8
def TLI_FGSTAT_OVERLOAD : Nat := fk 0x14 0x120 16
def TLI_FGEVT_LOW_SEEN : Nat := fk 0x14 0x124 0
def TLI_FGEVT_MISSING_SEEN : Nat := fk 0x14 0x124 8
def TLI_FGEVT_OVERLOAD_SEEN : Nat := fk 0x14 0x124 16
def TLI_EDGECNT (n : Nat) : Nat := fk 0x14 (0x060 + 0x4 * (n - 1)) 0
def TLI_FGMISSCNT (n : Nat) : Nat := fk 0x14 (0x140 + 0x4 * (n - 1)) 0

/-! Page 0x15, SF (spec/16_safety_functions.md). -/

def SF_STAT_CONFIRMED : Nat := fk 0x15 0x004 0
def SF_STAT_EVAL_MIS : Nat := fk 0x15 0x004 1
def SF_STAT_LOCKED : Nat := fk 0x15 0x004 4
def SF_STAT_STOPPING : Nat := fk 0x15 0x004 8
def SF_STAT_SI_FAULT : Nat := fk 0x15 0x004 16
def SF_CHECK_CHECK : Nat := fk 0x15 0x008 0
def SF_CONFIRMED_CHECK : Nat := fk 0x15 0x00c 0
def SF_EVT_DISC_FAULT : Nat := fk 0x15 0x010 0
def SF_EVT_SPEED_FAULT : Nat := fk 0x15 0x010 1
def SF_EVT_RAMP : Nat := fk 0x15 0x010 2
def SF_EVT_SO_FAULT : Nat := fk 0x15 0x010 3
def SF_EVT_EVAL_MIS : Nat := fk 0x15 0x010 4
def SF_EVT_STOP_STARTED : Nat := fk 0x15 0x010 5
def SF_EVT_RESET_REFUSED : Nat := fk 0x15 0x010 6
def SF_SIVAL_VALUE : Nat := fk 0x15 0x014 0
def SF_SIVAL_DISAGREE : Nat := fk 0x15 0x014 16
def SF_STOPREQ_REQ : Nat := fk 0x15 0x040 0
def SF_STATE_STATE (n : Nat) : Nat := fk 0x15 (0x080 + 0x10 * (n - 1)) 0
def SF_STATE_CAUSE (n : Nat) : Nat := fk 0x15 (0x080 + 0x10 * (n - 1)) 4
def SF_STATE_DEMAND (n : Nat) : Nat := fk 0x15 (0x080 + 0x10 * (n - 1)) 8
def SF_STATE_FAULT (n : Nat) : Nat := fk 0x15 (0x080 + 0x10 * (n - 1)) 9
def SF_STATE_STO (n : Nat) : Nat := fk 0x15 (0x080 + 0x10 * (n - 1)) 10
def SF_SPEED (n : Nat) : Nat := fk 0x15 (0x084 + 0x10 * (n - 1)) 0
def SF_NSTOP (n : Nat) : Nat := fk 0x15 (0x088 + 0x10 * (n - 1)) 0
def SF_LOCKSEQ (n : Nat) : Nat := fk 0x15 (0x08c + 0x10 * (n - 1)) 0
def SF_DISC_OK_CNT : Nat := fk 0x15 0x100 0
def SF_DISCFLT_CNT : Nat := fk 0x15 0x104 0
def SF_STOPCNT : Nat := fk 0x15 0x108 0
def SF_LOCKCNT : Nat := fk 0x15 0x10c 0
def SF_RESETREF_CNT : Nat := fk 0x15 0x110 0
def SF_SOTEST_CNT : Nat := fk 0x15 0x114 0

/-! Page 0x16, EMP (spec/17_energy_measurement.md). -/

def EMP_STAT_RUNNING : Nat := fk 0x16 0x004 0
def EMP_STAT_FAULT : Nat := fk 0x16 0x004 1
def EMP_STAT_SEAL_OPEN : Nat := fk 0x16 0x004 2
def EMP_STAT_TIME_VALID : Nat := fk 0x16 0x004 3
def EMP_STAT_POS_VALID : Nat := fk 0x16 0x004 4
def EMP_STAT_LOG_NEAR_FULL : Nat := fk 0x16 0x004 5
def EMP_STAT_LOG_FULL : Nat := fk 0x16 0x004 6
def EMP_STAT_OVERRANGE : Nat := fk 0x16 0x004 7
def EMP_STAT_SYSTEM : Nat := fk 0x16 0x004 8
def EMP_STAT_MBOX_ERR : Nat := fk 0x16 0x004 16
def EMP_SEALCNT : Nat := fk 0x16 0x008 0
def EMP_FWVER : Nat := fk 0x16 0x00c 0
def EMP_FWCTR : Nat := fk 0x16 0x010 0
def EMP_SWID : Nat := fk 0x16 0x014 0
def EMP_PARCHK : Nat := fk 0x16 0x018 0
def EMP_LOGHEAD : Nat := fk 0x16 0x01c 0
def EMP_LOGACK : Nat := fk 0x16 0x020 0
def EMP_LOGFREE : Nat := fk 0x16 0x024 0
def EMP_P1 : Nat := fk 0x16 0x040 0
def EMP_P2 : Nat := fk 0x16 0x044 0
def EMP_U1 : Nat := fk 0x16 0x048 0
def EMP_U2 : Nat := fk 0x16 0x04c 0
def EMP_I1 : Nat := fk 0x16 0x050 0
def EMP_I2 : Nat := fk 0x16 0x054 0
def EMP_CUMCONS : Nat := fk 0x16 0x058 0
def EMP_CUMREGEN : Nat := fk 0x16 0x05c 0

/-! Page 0x17, LOG (spec/18_event_recorder.md). -/

def LOG_CTRL_STREAM_D : Nat := fk 0x17 0x000 0
def LOG_CTRL_STREAM_O : Nat := fk 0x17 0x000 1
def LOG_CTRL_MINSEV_D : Nat := fk 0x17 0x000 4
def LOG_CTRL_MINSEV_O : Nat := fk 0x17 0x000 6
def LOG_STAT_TIME_UNSET : Nat := fk 0x17 0x004 0
def LOG_STAT_REFRESH_RUN : Nat := fk 0x17 0x004 1
def LOG_STAT_REFRESH_PART : Nat := fk 0x17 0x004 2
def LOG_STAT_FULL_D : Nat := fk 0x17 0x004 5
def LOG_STAT_FULL_O : Nat := fk 0x17 0x004 6
def LOG_EVT_DROP_D : Nat := fk 0x17 0x008 0
def LOG_EVT_DROP_O : Nat := fk 0x17 0x008 1
def LOG_EVT_SRC_DROP : Nat := fk 0x17 0x008 2
def LOG_EVT_REFRESH_DONE : Nat := fk 0x17 0x008 3
def LOG_EVT_REFRESH_ERR : Nat := fk 0x17 0x008 4
def LOG_SEQD : Nat := fk 0x17 0x010 0
def LOG_SEQO : Nat := fk 0x17 0x014 0
def LOG_OLDD : Nat := fk 0x17 0x018 0
def LOG_OLDO : Nat := fk 0x17 0x01c 0
def LOG_DROPCNT_D : Nat := fk 0x17 0x040 0
def LOG_DROPCNT_O : Nat := fk 0x17 0x044 0
def LOG_REPCNT : Nat := fk 0x17 0x048 0
def LOG_REFRESHCNT : Nat := fk 0x17 0x04c 0
def LOG_SRCDROP (n : Nat) : Nat := fk 0x17 (0x080 + 0x4 * (n - 1)) 0

/-! Page 0x18, PWR (spec/20_power_clock_ageing.md). -/

def PWR_STAT_FEED1_GOOD : Nat := fk 0x18 0x004 0
def PWR_STAT_FEED2_GOOD : Nat := fk 0x18 0x004 1
def PWR_STAT_HOLDUP_READY : Nat := fk 0x18 0x004 2
def PWR_STAT_STOPPING : Nat := fk 0x18 0x004 3
def PWR_STAT_OP : Nat := fk 0x18 0x004 4
def PWR_STAT_GOP : Nat := fk 0x18 0x004 6
def PWR_STAT_HOLDUP_NOW : Nat := fk 0x18 0x004 8
def PWR_STAT_HOLDUP_PLAN : Nat := fk 0x18 0x004 10
def PWR_STAT_STEP_DUE : Nat := fk 0x18 0x004 12
def PWR_STAT_MARGIN_LOW : Nat := fk 0x18 0x004 13
def PWR_STAT_HOLDUP_SHORT : Nat := fk 0x18 0x004 14
def PWR_STAT_FEED1_OVV : Nat := fk 0x18 0x004 15
def PWR_STAT_FEED2_OVV : Nat := fk 0x18 0x004 16
def PWR_FEED1_VOLT : Nat := fk 0x18 0x008 0
def PWR_FEED1_CURRENT : Nat := fk 0x18 0x008 16
def PWR_FEED2_VOLT : Nat := fk 0x18 0x00c 0
def PWR_FEED2_CURRENT : Nat := fk 0x18 0x00c 16
def PWR_HOLDUP_VOLT : Nat := fk 0x18 0x010 0
def PWR_HOLDUP_CAP : Nat := fk 0x18 0x010 16
def PWR_TEMP_EDGE : Nat := fk 0x18 0x014 0
def PWR_TEMP_HOTSPOT : Nat := fk 0x18 0x014 16
def PWR_MARGIN_D85 : Nat := fk 0x18 0x018 0
def PWR_MARGIN_D_PROJ : Nat := fk 0x18 0x018 16
def PWR_PLANCFG_HORIZON : Nat := fk 0x18 0x01c 0
def PWR_PLANCFG_HOLDUP_REQ : Nat := fk 0x18 0x01c 16
def PWR_EVT_FEED1_LOST : Nat := fk 0x18 0x020 0
def PWR_EVT_FEED2_LOST : Nat := fk 0x18 0x020 1
def PWR_EVT_BOTH_LOST : Nat := fk 0x18 0x020 2
def PWR_EVT_RIDETHRU_RETURN : Nat := fk 0x18 0x020 3
def PWR_EVT_DIP : Nat := fk 0x18 0x020 4
def PWR_EVT_SURGE : Nat := fk 0x18 0x020 5
def PWR_EVT_OVV_DISC : Nat := fk 0x18 0x020 6
def PWR_EVT_STEP_DUE : Nat := fk 0x18 0x020 7
def PWR_EVT_GOP_LOWERED : Nat := fk 0x18 0x020 8
def PWR_EVT_HOLDUP_REPLAN : Nat := fk 0x18 0x020 9
def PWR_EVT_MARGIN_LOW : Nat := fk 0x18 0x020 10
def PWR_EVT_HOLDUP_TEST_FAIL : Nat := fk 0x18 0x020 11
def PWR_LOSSCNT1 : Nat := fk 0x18 0x040 0
def PWR_LOSSCNT2 : Nat := fk 0x18 0x044 0
def PWR_DIPCNT : Nat := fk 0x18 0x048 0
def PWR_SURGECNT : Nat := fk 0x18 0x04c 0
def PWR_OVVCNT : Nat := fk 0x18 0x050 0
def PWR_INTCNT : Nat := fk 0x18 0x054 0
def PWR_RETURNCNT : Nat := fk 0x18 0x058 0
def PWR_STEPCNT : Nat := fk 0x18 0x05c 0

/-! Page 0x19, FI (spec/21_link_fault_injection.md). -/

def FI_STAT_PERMIT : Nat := fk 0x19 0x004 0
def FI_STAT_ANY_ARMED : Nat := fk 0x19 0x004 1
def FI_STAT_PERMIT_LEFT : Nat := fk 0x19 0x004 16
def FI_ARMLO_ARMED : Nat := fk 0x19 0x008 0
def FI_ARMHI_ARMED : Nat := fk 0x19 0x00c 0
def FI_EVT_PERMIT_ENDED : Nat := fk 0x19 0x010 0
def FI_EVT_CLEARED_BY_MODE : Nat := fk 0x19 0x010 1
def FI_EVT_HELD_LOST : Nat := fk 0x19 0x010 2
def FI_CFG_ARMED (n : Nat) : Nat := fk 0x19 (0x100 + 0x10 * n) 0
def FI_CFG_KIND (n : Nat) : Nat := fk 0x19 (0x100 + 0x10 * n) 1
def FI_CFG_DIR (n : Nat) : Nat := fk 0x19 (0x100 + 0x10 * n) 4
def FI_CFG_SELECT (n : Nat) : Nat := fk 0x19 (0x100 + 0x10 * n) 6
def FI_CFG_HOLDING (n : Nat) : Nat := fk 0x19 (0x100 + 0x10 * n) 7
def FI_CFG_HELD (n : Nat) : Nat := fk 0x19 (0x100 + 0x10 * n) 8
def FI_NPAR (n : Nat) : Nat := fk 0x19 (0x104 + 0x10 * n) 0
def FI_APAR (n : Nat) : Nat := fk 0x19 (0x108 + 0x10 * n) 0
def FI_INJCNT (n : Nat) : Nat := fk 0x19 (0x10c + 0x10 * n) 0
def FI_HELDLOSTCNT : Nat := fk 0x19 0x014 0

/-! Page 0x1A, CMD (spec/09_command_interface.md). -/

def CMD_STAT_SESSIONS : Nat := fk 0x1A 0x004 0
def CMD_STAT_LONG_OP : Nat := fk 0x1A 0x004 4
def CMD_STAT_CFG_EDIT : Nat := fk 0x1A 0x004 5
def CMD_STAT_ARMED : Nat := fk 0x1A 0x004 6
def CMD_STAT_LOCKED : Nat := fk 0x1A 0x004 8
def CMD_DOORBELL_RING0 : Nat := fk 0x1A 0x008 0
def CMD_RXCNT : Nat := fk 0x1A 0x040 0
def CMD_FRAMEERR_CNT : Nat := fk 0x1A 0x044 0
def CMD_CRCERR_CNT : Nat := fk 0x1A 0x048 0
def CMD_AUTHFAIL_CNT : Nat := fk 0x1A 0x04c 0
def CMD_DUP_CNT : Nat := fk 0x1A 0x050 0
def CMD_BUSY_CNT : Nat := fk 0x1A 0x054 0

end Reg

/-- Registers of page 0x00 (spec/10_register_conventions.md). -/
def rowsSYS : List RegRow := [
  ⟨0x000, 0x0, 1, false, [⟨0, 32, .ro, 0⟩]⟩,
  ⟨0x004, 0x0, 1, false, [⟨0, 8, .ro, 0⟩, ⟨8, 6, .ro, 0⟩, ⟨14, 1, .ro, 0⟩, ⟨15, 1, .ro, 0⟩]⟩,
  ⟨0x008, 0x0, 1, false, [⟨0, 32, .ro, 0⟩]⟩,
  ⟨0x00c, 0x0, 1, false, [⟨0, 32, .ro, 0⟩]⟩,
  ⟨0x010, 0x0, 1, false, [⟨0, 4, .ro, 0⟩, ⟨4, 2, .ro, 0⟩, ⟨6, 2, .ro, 0⟩, ⟨8, 6, .ro, 0⟩]⟩,
  ⟨0x014, 0x0, 1, false, [⟨0, 8, .ro, 0⟩]⟩,
  ⟨0x018, 0x0, 1, false, [⟨0, 1, .w1c, 0⟩, ⟨1, 1, .w1c, 0⟩]⟩,
  ⟨0x020, 0x0, 1, false, [⟨0, 1, .wo, 0⟩]⟩,
  ⟨0x024, 0x0, 1, false, [⟨0, 32, .ro, 0⟩]⟩,
  ⟨0x028, 0x0, 1, false, [⟨0, 32, .ro, 0⟩]⟩,
  ⟨0x040, 0x0, 1, false, [⟨0, 32, .wd, 0⟩]⟩,
  ⟨0x080, 0x0, 1, true, [⟨0, 32, .rwc, 0⟩]⟩,
  ⟨0x084, 0x0, 1, true, [⟨0, 32, .rwc, 0⟩]⟩,
  ⟨0x088, 0x0, 1, true, [⟨0, 32, .ro, 0⟩]⟩,
  ⟨0x08c, 0x0, 1, true, [⟨0, 32, .ro, 0⟩]⟩]

/-- Registers of page 0x01 (spec/06_triad_and_voting.md). -/
def rowsCV : List RegRow := [
  ⟨0x004, 0x0, 1, false, [⟨0, 3, .ro, 0⟩, ⟨4, 3, .ro, 0⟩, ⟨8, 3, .ro, 0⟩, ⟨12, 1, .ro, 0⟩, ⟨13, 1, .ro, 0⟩, ⟨16, 2, .ro, 3⟩]⟩,
  ⟨0x008, 0x0, 1, false, [⟨0, 4, .ro, 0⟩, ⟨4, 2, .ro, 0⟩, ⟨8, 21, .ro, 0⟩, ⟨29, 1, .ro, 0⟩, ⟨30, 1, .ro, 0⟩]⟩,
  ⟨0x00c, 0x0, 1, false, [⟨0, 32, .ro, 0⟩]⟩,
  ⟨0x010, 0x0, 1, false, [⟨0, 8, .ro, 24⟩]⟩,
  -- CV_DEGLEFT starts at DEG_LIMIT, 24 hours by default (R187)
  ⟨0x014, 0x0, 1, false, [⟨0, 20, .ro, 86400⟩]⟩,
  ⟨0x018, 0x0, 1, false, [⟨0, 2, .ro, 0⟩, ⟨4, 2, .ro, 0⟩, ⟨8, 2, .ro, 0⟩]⟩,
  ⟨0x020, 0x0, 1, false, [⟨0, 5, .ro, 0⟩, ⟨6, 2, .ro, 0⟩, ⟨8, 1, .ro, 0⟩, ⟨9, 1, .ro, 0⟩]⟩,
  ⟨0x040, 0x0, 1, true, [⟨0, 32, .rwc, 0⟩]⟩,
  ⟨0x044, 0x0, 1, true, [⟨0, 32, .rwc, 0⟩]⟩,
  ⟨0x048, 0x0, 1, true, [⟨0, 32, .rwc, 0⟩]⟩,
  ⟨0x04c, 0x0, 1, true, [⟨0, 32, .rwc, 0⟩]⟩,
  ⟨0x050, 0x0, 1, true, [⟨0, 32, .rwc, 0⟩]⟩,
  ⟨0x054, 0x0, 1, true, [⟨0, 32, .rwc, 0⟩]⟩,
  ⟨0x058, 0x0, 1, true, [⟨0, 32, .rwc, 0⟩]⟩,
  ⟨0x05c, 0x0, 1, true, [⟨0, 32, .rwc, 0⟩]⟩,
  ⟨0x060, 0x0, 1, true, [⟨0, 32, .rwc, 0⟩]⟩]

/-- Registers of page 0x02 (spec/02_cycle_model.md). -/
def rowsCE : List RegRow := [
  ⟨0x004, 0x0, 1, false, [⟨0, 3, .ro, 0⟩, ⟨3, 1, .ro, 1⟩, ⟨4, 1, .ro, 0⟩, ⟨5, 1, .ro, 0⟩, ⟨8, 8, .ro, 0⟩, ⟨16, 2, .ro, 0⟩]⟩,
  ⟨0x008, 0x0, 1, true, [⟨0, 32, .ro, 0⟩]⟩,
  ⟨0x00c, 0x0, 1, true, [⟨0, 32, .ro, 0⟩]⟩,
  ⟨0x010, 0x0, 1, false, [⟨0, 16, .ro, 6000⟩, ⟨16, 16, .ro, 8192⟩]⟩,
  ⟨0x014, 0x0, 1, false, [⟨0, 4, .ro, 0⟩, ⟨16, 16, .ro, 0⟩]⟩,
  ⟨0x018, 0x0, 1, false, [⟨0, 7, .w1c, 0⟩, ⟨8, 7, .w1c, 0⟩, ⟨16, 8, .w1c, 0⟩, ⟨24, 1, .w1c, 0⟩, ⟨25, 1, .w1c, 0⟩, ⟨26, 1, .w1c, 0⟩]⟩,
  ⟨0x040, 0x4, 8, false, [⟨0, 12, .ro, 0⟩, ⟨12, 12, .ro, 0⟩, ⟨24, 2, .ro, 0⟩, ⟨26, 1, .ro, 0⟩, ⟨27, 1, .ro, 0⟩, ⟨28, 4, .ro, 0⟩]⟩,
  ⟨0x060, 0x4, 7, false, [⟨0, 32, .ro, 0⟩]⟩,
  ⟨0x080, 0x4, 7, true, [⟨0, 32, .rwc, 0⟩]⟩,
  ⟨0x0a0, 0x4, 7, true, [⟨0, 32, .rwc, 0⟩]⟩,
  ⟨0x0c0, 0x4, 7, true, [⟨0, 32, .rwc, 0⟩]⟩,
  ⟨0x0e0, 0x4, 7, true, [⟨0, 32, .rwc, 0⟩]⟩,
  ⟨0x100, 0x4, 7, true, [⟨0, 32, .ro, 0⟩]⟩,
  ⟨0x140, 0x4, 7, true, [⟨0, 32, .rwc, 0⟩]⟩,
  ⟨0x15c, 0x0, 1, true, [⟨0, 32, .rwc, 0⟩]⟩,
  ⟨0x120, 0x4, 8, false, [⟨0, 8, .ro, 0⟩, ⟨8, 21, .ro, 0⟩, ⟨29, 1, .ro, 0⟩]⟩]

/-- Registers of page 0x03 (spec/03_process_image.md). -/
def rowsPI : List RegRow := [
  ⟨0x004, 0x0, 1, false, [⟨0, 13, .ro, 0⟩, ⟨13, 1, .ro, 0⟩, ⟨14, 1, .ro, 0⟩, ⟨16, 16, .ro, 0⟩]⟩,
  ⟨0x010, 0x0, 1, true, [⟨0, 32, .rwc, 0⟩]⟩,
  ⟨0x014, 0x0, 1, true, [⟨0, 32, .rwc, 0⟩]⟩,
  ⟨0x018, 0x0, 1, true, [⟨0, 32, .rwc, 0⟩]⟩,
  ⟨0x01c, 0x0, 1, true, [⟨0, 32, .rwc, 0⟩]⟩,
  ⟨0x020, 0x0, 1, true, [⟨0, 32, .rwc, 0⟩]⟩,
  ⟨0x030, 0x0, 1, false, [⟨0, 16, .rws, 0⟩]⟩]

/-- Registers of page 0x04, part 1 (spec/07_protected_store.md). -/
def rowsPS1 : List RegRow := [
  ⟨0x004, 0x0, 1, false, [⟨0, 1, .ro, 0⟩, ⟨1, 3, .ro, 0⟩, ⟨4, 1, .ro, 0⟩]⟩,
  ⟨0x008, 0x0, 1, false, [⟨0, 32, .ro, 0⟩]⟩,
  ⟨0x00c, 0x0, 1, false, [⟨0, 32, .ro, 0⟩]⟩,
  ⟨0x010, 0x0, 1, false, [⟨0, 2, .ro, 0⟩, ⟨4, 4, .ro, 0⟩, ⟨8, 8, .ro, 0⟩, ⟨16, 3, .ro, 0⟩]⟩,
  ⟨0x014, 0x0, 1, false, [⟨0, 1, .w1c, 0⟩, ⟨1, 1, .w1c, 0⟩, ⟨2, 1, .w1c, 0⟩, ⟨3, 1, .w1c, 0⟩, ⟨4, 1, .w1c, 0⟩]⟩,
  ⟨0x020, 0x0, 1, false, [⟨0, 1, .rw, 0⟩, ⟨16, 16, .rws, 256⟩]⟩,
  ⟨0x024, 0x0, 1, false, [⟨0, 24, .rws, 0⟩]⟩,
  ⟨0x028, 0x0, 1, false, [⟨0, 32, .ro, 0⟩]⟩,
  ⟨0x02c, 0x0, 1, false, [⟨0, 32, .ro, 0⟩]⟩,
  ⟨0x040, 0x8, 8, false, [⟨0, 1, .rws, 0⟩, ⟨12, 20, .rws, 0⟩]⟩,
  ⟨0x044, 0x8, 8, false, [⟨12, 20, .rws, 0⟩]⟩,
  ⟨0x080, 0x0, 1, true, [⟨0, 32, .rwc, 0⟩]⟩,
  ⟨0x084, 0x0, 1, true, [⟨0, 32, .rwc, 0⟩]⟩,
  ⟨0x088, 0x0, 1, true, [⟨0, 32, .rwc, 0⟩]⟩,
  ⟨0x08c, 0x0, 1, true, [⟨0, 32, .rwc, 0⟩]⟩,
  ⟨0x090, 0x0, 1, true, [⟨0, 32, .rwc, 0⟩]⟩]

/-- Registers of page 0x04, part 2 (spec/07_protected_store.md). -/
def rowsPS2 : List RegRow := [
  ⟨0x094, 0x0, 1, true, [⟨0, 32, .rwc, 0⟩]⟩,
  ⟨0x098, 0x0, 1, true, [⟨0, 32, .rwc, 0⟩]⟩,
  ⟨0x09c, 0x0, 1, true, [⟨0, 32, .rwc, 0⟩]⟩,
  ⟨0x0a0, 0x0, 1, true, [⟨0, 32, .rwc, 0⟩]⟩,
  ⟨0x0a4, 0x0, 1, true, [⟨0, 32, .rwc, 0⟩]⟩,
  ⟨0x0a8, 0x0, 1, true, [⟨0, 32, .rwc, 0⟩]⟩,
  ⟨0x0ac, 0x0, 1, true, [⟨0, 32, .rwc, 0⟩]⟩]

/-- Registers of page 0x04 (spec/07_protected_store.md). -/
def rowsPS : List RegRow := rowsPS1 ++ rowsPS2

/-- Registers of page 0x05 (spec/07_protected_store.md). -/
def rowsMS : List RegRow := [
  ⟨0x004, 0x0, 1, false, [⟨0, 1, .ro, 0⟩, ⟨1, 1, .ro, 0⟩]⟩,
  ⟨0x008, 0x0, 1, false, [⟨0, 32, .ro, 0⟩]⟩,
  ⟨0x00c, 0x0, 1, false, [⟨0, 32, .ro, 0⟩]⟩,
  ⟨0x010, 0x0, 1, false, [⟨0, 2, .ro, 0⟩, ⟨4, 4, .ro, 0⟩, ⟨8, 8, .ro, 0⟩]⟩,
  ⟨0x014, 0x0, 1, false, [⟨0, 1, .w1c, 0⟩, ⟨1, 1, .w1c, 0⟩, ⟨2, 1, .w1c, 0⟩]⟩,
  ⟨0x080, 0x0, 1, true, [⟨0, 32, .rwc, 0⟩]⟩,
  ⟨0x084, 0x0, 1, true, [⟨0, 32, .rwc, 0⟩]⟩,
  ⟨0x088, 0x0, 1, true, [⟨0, 32, .rwc, 0⟩]⟩,
  ⟨0x08c, 0x0, 1, true, [⟨0, 32, .rwc, 0⟩]⟩,
  ⟨0x090, 0x0, 1, true, [⟨0, 32, .rwc, 0⟩]⟩,
  ⟨0x094, 0x0, 1, true, [⟨0, 32, .rwc, 0⟩]⟩,
  ⟨0x098, 0x0, 1, true, [⟨0, 32, .rwc, 0⟩]⟩,
  ⟨0x09c, 0x0, 1, true, [⟨0, 32, .rwc, 0⟩]⟩,
  ⟨0x0a0, 0x0, 1, true, [⟨0, 32, .rwc, 0⟩]⟩]

/-- Registers of page 0x06 (spec/11_rings.md). -/
def rowsRNG : List RegRow := [
  ⟨0x000, 0x0, 1, false, [⟨31, 1, .rw, 0⟩]⟩,
  ⟨0x004, 0x0, 1, false, [⟨0, 16, .ro, 0⟩, ⟨31, 1, .w1c, 0⟩]⟩,
  ⟨0x008, 0x0, 1, false, [⟨0, 16, .w1c, 0⟩, ⟨16, 16, .w1c, 0⟩]⟩,
  ⟨0x00c, 0x0, 1, false, [⟨0, 16, .w1c, 0⟩, ⟨16, 16, .w1c, 0⟩]⟩,
  ⟨0x040, 0x30, 16, false, [⟨0, 1, .rw, 0⟩, ⟨1, 1, .rws, 0⟩, ⟨2, 1, .rws, 0⟩, ⟨3, 4, .rws, 4⟩, ⟨8, 8, .ro, 0⟩]⟩,
  ⟨0x044, 0x30, 16, false, [⟨5, 27, .rws, 0⟩]⟩,
  ⟨0x048, 0x30, 16, false, [⟨0, 16, .ro, 0⟩, ⟨16, 16, .ro, 0⟩]⟩,
  ⟨0x04c, 0x30, 16, false, [⟨0, 13, .wo, 0⟩]⟩,
  ⟨0x050, 0x30, 16, false, [⟨0, 1, .ro, 0⟩, ⟨1, 1, .ro, 0⟩, ⟨2, 1, .ro, 1⟩, ⟨4, 4, .ro, 0⟩, ⟨8, 3, .ro, 0⟩]⟩,
  ⟨0x054, 0x30, 16, false, [⟨0, 32, .ro, 0⟩]⟩,
  ⟨0x058, 0x30, 16, false, [⟨0, 1, .wo, 0⟩, ⟨1, 1, .wo, 0⟩]⟩,
  ⟨0x05c, 0x30, 16, true, [⟨0, 32, .ro, 0⟩]⟩,
  ⟨0x060, 0x30, 16, true, [⟨0, 32, .rwc, 0⟩]⟩,
  ⟨0x064, 0x30, 16, true, [⟨0, 32, .rwc, 0⟩]⟩,
  ⟨0x068, 0x30, 16, true, [⟨0, 32, .rwc, 0⟩]⟩]

/-- Registers of page 0x08, part 1 (spec/12_train_network.md). -/
def rowsESW1 : List RegRow := [
  ⟨0x000, 0x0, 1, false, [⟨31, 1, .rw, 0⟩]⟩,
  ⟨0x004, 0x0, 1, false, [⟨0, 11, .ro, 0⟩, ⟨31, 1, .w1c, 0⟩]⟩,
  ⟨0x008, 0x0, 1, false, [⟨0, 8, .ro, 0⟩]⟩,
  ⟨0x010, 0x0, 1, false, [⟨0, 2, .ro, 0⟩, ⟨2, 1, .ro, 0⟩, ⟨3, 1, .ro, 0⟩, ⟨4, 1, .ro, 0⟩]⟩,
  ⟨0x014, 0x0, 1, false, [⟨0, 32, .ro, 0⟩]⟩,
  ⟨0x018, 0x0, 1, false, [⟨0, 1, .ro, 0⟩, ⟨1, 1, .ro, 0⟩, ⟨2, 6, .ro, 0⟩, ⟨8, 6, .ro, 0⟩, ⟨14, 1, .ro, 0⟩, ⟨15, 1, .ro, 0⟩]⟩,
  ⟨0x01c, 0x0, 1, false, [⟨0, 32, .ro, 0⟩]⟩,
  ⟨0x020, 0x0, 1, false, [⟨0, 1, .w1c, 0⟩, ⟨1, 1, .w1c, 0⟩, ⟨2, 1, .w1c, 0⟩]⟩,
  ⟨0x040, 0x20, 11, false, [⟨0, 1, .rw, 0⟩, ⟨1, 2, .rws, 0⟩, ⟨3, 12, .rws, 1⟩, ⟨15, 3, .rws, 0⟩]⟩,
  ⟨0x044, 0x20, 11, false, [⟨0, 1, .ro, 0⟩, ⟨1, 2, .ro, 0⟩, ⟨3, 1, .ro, 0⟩]⟩,
  ⟨0x048, 0x20, 11, true, [⟨0, 32, .rwc, 0⟩]⟩,
  ⟨0x04c, 0x20, 11, true, [⟨0, 32, .rwc, 0⟩]⟩,
  ⟨0x050, 0x20, 11, true, [⟨0, 32, .rwc, 0⟩]⟩,
  ⟨0x054, 0x20, 11, true, [⟨0, 32, .rwc, 0⟩]⟩,
  ⟨0x1c0, 0x10, 4, true, [⟨0, 32, .rwc, 0⟩]⟩,
  ⟨0x1c4, 0x10, 4, true, [⟨0, 32, .rwc, 0⟩]⟩]

/-- Registers of page 0x08, part 2 (spec/12_train_network.md). -/
def rowsESW2 : List RegRow := [
  ⟨0x1c8, 0x10, 4, true, [⟨0, 32, .rwc, 0⟩]⟩,
  ⟨0x200, 0x0, 1, true, [⟨0, 32, .rwc, 0⟩]⟩]

/-- Registers of page 0x08 (spec/12_train_network.md). -/
def rowsESW : List RegRow := rowsESW1 ++ rowsESW2

/-- Registers of page 0x09 (spec/12_train_network.md). -/
def rowsTPD : List RegRow := [
  ⟨0x000, 0x0, 1, false, [⟨0, 1, .rw, 0⟩]⟩,
  ⟨0x004, 0x0, 1, false, [⟨0, 12, .ro, 0⟩, ⟨16, 13, .ro, 0⟩]⟩,
  ⟨0x008, 0x0, 1, false, [⟨0, 1, .w1c, 0⟩, ⟨1, 1, .w1c, 0⟩, ⟨2, 1, .w1c, 0⟩]⟩,
  ⟨0x040, 0x0, 1, true, [⟨0, 32, .rwc, 0⟩]⟩,
  ⟨0x044, 0x0, 1, true, [⟨0, 32, .rwc, 0⟩]⟩,
  ⟨0x048, 0x0, 1, true, [⟨0, 32, .rwc, 0⟩]⟩,
  ⟨0x04c, 0x0, 1, true, [⟨0, 32, .rwc, 0⟩]⟩,
  ⟨0x050, 0x0, 1, true, [⟨0, 32, .rwc, 0⟩]⟩,
  ⟨0x054, 0x0, 1, true, [⟨0, 32, .rwc, 0⟩]⟩,
  ⟨0x058, 0x0, 1, true, [⟨0, 32, .rwc, 0⟩]⟩,
  ⟨0x05c, 0x0, 1, true, [⟨0, 32, .rwc, 0⟩]⟩,
  ⟨0x060, 0x0, 1, true, [⟨0, 32, .rwc, 0⟩]⟩,
  ⟨0x200, 0x4, 128, false, [⟨0, 32, .ro, 0⟩]⟩]

/-- Registers of page 0x0A (spec/12_train_network.md). -/
def rowsMVB : List RegRow := [
  ⟨0x000, 0x0, 1, false, [⟨0, 1, .rw, 0⟩, ⟨1, 1, .rws, 0⟩, ⟨2, 12, .rws, 0⟩, ⟨31, 1, .rw, 0⟩]⟩,
  ⟨0x004, 0x0, 1, false, [⟨0, 1, .ro, 0⟩, ⟨1, 1, .ro, 0⟩, ⟨2, 1, .ro, 0⟩, ⟨3, 1, .ro, 0⟩, ⟨31, 1, .w1c, 0⟩]⟩,
  ⟨0x008, 0x0, 1, false, [⟨0, 1, .w1c, 0⟩, ⟨1, 1, .w1c, 0⟩]⟩,
  ⟨0x040, 0x0, 1, true, [⟨0, 32, .rwc, 0⟩]⟩,
  ⟨0x044, 0x0, 1, true, [⟨0, 32, .rwc, 0⟩]⟩,
  ⟨0x048, 0x0, 1, true, [⟨0, 32, .rwc, 0⟩]⟩,
  ⟨0x04c, 0x0, 1, true, [⟨0, 32, .rwc, 0⟩]⟩,
  ⟨0x050, 0x0, 1, true, [⟨0, 32, .rwc, 0⟩]⟩,
  ⟨0x100, 0x4, 32, false, [⟨0, 32, .ro, 0⟩]⟩]

/-- Registers of page 0x0B (spec/12_train_network.md). -/
def rowsWTB : List RegRow := [
  ⟨0x000, 0x0, 1, false, [⟨0, 1, .rw, 0⟩, ⟨1, 1, .rws, 0⟩, ⟨2, 1, .rws, 0⟩, ⟨31, 1, .rw, 0⟩]⟩,
  ⟨0x004, 0x0, 1, false, [⟨0, 1, .ro, 0⟩, ⟨1, 1, .ro, 0⟩, ⟨2, 6, .ro, 0⟩, ⟨8, 6, .ro, 0⟩, ⟨14, 1, .ro, 0⟩, ⟨15, 1, .ro, 0⟩, ⟨16, 6, .ro, 0⟩, ⟨31, 1, .w1c, 0⟩]⟩,
  ⟨0x008, 0x0, 1, false, [⟨0, 1, .w1c, 0⟩, ⟨1, 1, .w1c, 0⟩]⟩,
  ⟨0x00c, 0x0, 1, false, [⟨0, 32, .ro, 0⟩]⟩,
  ⟨0x010, 0x0, 1, false, [⟨0, 32, .ro, 0⟩]⟩,
  ⟨0x040, 0x0, 1, true, [⟨0, 32, .rwc, 0⟩]⟩,
  ⟨0x044, 0x0, 1, true, [⟨0, 32, .rwc, 0⟩]⟩,
  ⟨0x048, 0x0, 1, true, [⟨0, 32, .rwc, 0⟩]⟩,
  ⟨0x04c, 0x0, 1, true, [⟨0, 32, .rwc, 0⟩]⟩,
  ⟨0x050, 0x0, 1, true, [⟨0, 32, .rwc, 0⟩]⟩,
  ⟨0x054, 0x0, 1, true, [⟨0, 32, .rwc, 0⟩]⟩]

/-- Registers of page 0x0C (spec/12_train_network.md). -/
def rowsCAN : List RegRow := [
  ⟨0x000, 0x0, 1, false, [⟨31, 1, .rw, 0⟩]⟩,
  ⟨0x004, 0x0, 1, false, [⟨0, 8, .ro, 0⟩, ⟨31, 1, .w1c, 0⟩]⟩,
  ⟨0x040, 0x40, 8, false, [⟨0, 1, .rw, 0⟩, ⟨1, 1, .rws, 0⟩, ⟨2, 1, .rws, 0⟩, ⟨3, 1, .rws, 1⟩, ⟨4, 1, .rws, 0⟩, ⟨5, 1, .rws, 0⟩, ⟨6, 1, .rws, 0⟩]⟩,
  ⟨0x044, 0x40, 8, false, [⟨0, 8, .rws, 0⟩, ⟨8, 8, .rws, 0⟩, ⟨16, 7, .rws, 0⟩, ⟨23, 7, .rws, 0⟩]⟩,
  ⟨0x048, 0x40, 8, false, [⟨0, 5, .rws, 0⟩, ⟨8, 5, .rws, 0⟩, ⟨16, 4, .rws, 0⟩, ⟨24, 4, .rws, 0⟩, ⟨28, 1, .rws, 0⟩]⟩,
  ⟨0x04c, 0x40, 8, false, [⟨0, 8, .ro, 0⟩, ⟨8, 8, .ro, 0⟩, ⟨16, 2, .ro, 0⟩, ⟨18, 1, .ro, 0⟩]⟩,
  ⟨0x050, 0x40, 8, false, [⟨0, 1, .wo, 0⟩]⟩,
  ⟨0x054, 0x40, 8, true, [⟨0, 32, .rwc, 0⟩]⟩,
  ⟨0x058, 0x40, 8, true, [⟨0, 32, .rwc, 0⟩]⟩,
  ⟨0x05c, 0x40, 8, true, [⟨0, 32, .rwc, 0⟩]⟩,
  ⟨0x060, 0x40, 8, true, [⟨0, 32, .rwc, 0⟩]⟩]

/-- Registers of page 0x0D (spec/12_train_network.md). -/
def rowsSER : List RegRow := [
  ⟨0x000, 0x0, 1, false, [⟨31, 1, .rw, 0⟩]⟩,
  ⟨0x004, 0x0, 1, false, [⟨0, 12, .ro, 0⟩, ⟨31, 1, .w1c, 0⟩]⟩,
  ⟨0x040, 0x30, 12, false, [⟨0, 1, .rw, 0⟩, ⟨1, 1, .rws, 0⟩, ⟨2, 1, .rws, 0⟩, ⟨3, 2, .rws, 0⟩, ⟨5, 1, .rws, 0⟩, ⟨6, 1, .rws, 0⟩, ⟨7, 1, .rws, 0⟩, ⟨8, 1, .rws, 0⟩, ⟨9, 1, .rws, 0⟩]⟩,
  ⟨0x044, 0x30, 12, false, [⟨0, 16, .rws, 22⟩, ⟨16, 4, .rws, 0⟩]⟩,
  ⟨0x048, 0x30, 12, false, [⟨0, 16, .rws, 3⟩, ⟨16, 8, .rws, 1⟩]⟩,
  ⟨0x050, 0x30, 12, true, [⟨0, 32, .rwc, 0⟩]⟩,
  ⟨0x054, 0x30, 12, true, [⟨0, 32, .rwc, 0⟩]⟩,
  ⟨0x058, 0x30, 12, true, [⟨0, 32, .rwc, 0⟩]⟩,
  ⟨0x05c, 0x30, 12, true, [⟨0, 32, .rwc, 0⟩]⟩]

/-- Registers of page 0x0E (spec/12_train_network.md). -/
def rowsENC : List RegRow := [
  ⟨0x000, 0x0, 1, false, [⟨0, 1, .rws, 0⟩, ⟨1, 1, .rw, 0⟩, ⟨31, 1, .rw, 0⟩]⟩,
  ⟨0x004, 0x0, 1, false, [⟨0, 6, .ro, 0⟩, ⟨6, 1, .ro, 0⟩, ⟨31, 1, .w1c, 0⟩]⟩,
  ⟨0x008, 0x0, 1, false, [⟨0, 32, .ro, 0⟩]⟩,
  ⟨0x00c, 0x0, 1, false, [⟨0, 32, .ro, 0⟩]⟩,
  ⟨0x040, 0x30, 6, false, [⟨0, 1, .rw, 0⟩, ⟨1, 1, .rws, 0⟩, ⟨2, 1, .rws, 0⟩, ⟨3, 1, .rws, 0⟩, ⟨4, 1, .rws, 0⟩, ⟨5, 5, .rws, 12⟩, ⟨10, 3, .rws, 0⟩, ⟨13, 2, .rws, 1⟩]⟩,
  ⟨0x044, 0x30, 6, true, [⟨0, 32, .ro, 0⟩]⟩,
  ⟨0x048, 0x30, 6, true, [⟨0, 32, .ro, 0⟩]⟩,
  ⟨0x04c, 0x30, 6, false, [⟨0, 1, .ro, 0⟩, ⟨1, 1, .ro, 0⟩, ⟨2, 1, .ro, 0⟩, ⟨3, 1, .ro, 0⟩, ⟨4, 1, .ro, 0⟩, ⟨5, 1, .ro, 0⟩]⟩,
  ⟨0x050, 0x30, 6, true, [⟨0, 32, .rwc, 0⟩]⟩,
  ⟨0x054, 0x30, 6, true, [⟨0, 32, .rwc, 0⟩]⟩,
  ⟨0x058, 0x30, 6, true, [⟨0, 32, .rwc, 0⟩]⟩,
  ⟨0x05c, 0x30, 6, true, [⟨0, 32, .rwc, 0⟩]⟩,
  ⟨0x060, 0x30, 6, false, [⟨0, 32, .rws, 0⟩]⟩,
  ⟨0x064, 0x30, 6, false, [⟨0, 32, .rws, 0⟩]⟩]

/-- Registers of page 0x10, part 1 (spec/13_ridge_link.md). -/
def rowsRDG1 : List RegRow := [
  ⟨0x000, 0x0, 1, false, [⟨0, 1, .rw, 0⟩, ⟨8, 8, .ro, 200⟩, ⟨16, 3, .ro, 0⟩, ⟨19, 5, .ro, 8⟩, ⟨24, 8, .ro, 4⟩]⟩,
  ⟨0x004, 0x0, 1, false, [⟨0, 3, .ro, 0⟩, ⟨3, 1, .ro, 0⟩, ⟨4, 1, .ro, 0⟩, ⟨5, 1, .ro, 0⟩, ⟨6, 1, .ro, 0⟩, ⟨7, 1, .ro, 0⟩, ⟨8, 7, .ro, 0⟩]⟩,
  ⟨0x008, 0x0, 1, false, [⟨0, 1, .w1c, 0⟩, ⟨1, 1, .w1c, 0⟩, ⟨2, 1, .w1c, 0⟩, ⟨3, 1, .w1c, 0⟩, ⟨4, 1, .w1c, 0⟩, ⟨5, 1, .w1c, 0⟩]⟩,
  ⟨0x00c, 0x0, 1, false, [⟨0, 32, .ro, 0⟩]⟩,
  ⟨0x010, 0x0, 1, false, [⟨0, 32, .ro, 0⟩]⟩,
  ⟨0x014, 0x0, 1, false, [⟨0, 32, .ro, 0⟩]⟩,
  ⟨0x018, 0x0, 1, false, [⟨0, 32, .ro, 0⟩]⟩,
  ⟨0x020, 0x0, 1, false, [⟨0, 31, .wo, 0⟩, ⟨31, 1, .wo, 0⟩]⟩,
  ⟨0x040, 0x0, 1, true, [⟨0, 32, .rwc, 0⟩]⟩,
  ⟨0x044, 0x0, 1, true, [⟨0, 32, .rwc, 0⟩]⟩,
  ⟨0x048, 0x0, 1, true, [⟨0, 32, .rwc, 0⟩]⟩,
  ⟨0x04c, 0x0, 1, true, [⟨0, 32, .rwc, 0⟩]⟩,
  ⟨0x050, 0x0, 1, true, [⟨0, 32, .rwc, 0⟩]⟩,
  ⟨0x054, 0x0, 1, true, [⟨0, 32, .rwc, 0⟩]⟩,
  ⟨0x058, 0x0, 1, true, [⟨0, 32, .rwc, 0⟩]⟩,
  ⟨0x05c, 0x0, 1, true, [⟨0, 32, .rwc, 0⟩]⟩]

/-- Registers of page 0x10, part 2 (spec/13_ridge_link.md). -/
def rowsRDG2 : List RegRow := [
  ⟨0x060, 0x0, 1, true, [⟨0, 32, .rwc, 0⟩]⟩,
  ⟨0x064, 0x0, 1, true, [⟨0, 32, .rwc, 0⟩]⟩,
  ⟨0x068, 0x0, 1, true, [⟨0, 32, .rwc, 0⟩]⟩,
  ⟨0x06c, 0x0, 1, true, [⟨0, 32, .rwc, 0⟩]⟩]

/-- Registers of page 0x10 (spec/13_ridge_link.md). -/
def rowsRDG : List RegRow := rowsRDG1 ++ rowsRDG2

/-- Registers of page 0x11 (spec/13_ridge_link.md). -/
def rowsBRG : List RegRow := [
  ⟨0x000, 0x10, 63, false, [⟨0, 1, .rw, 0⟩, ⟨1, 1, .rws, 0⟩, ⟨20, 12, .rws, 0⟩]⟩,
  ⟨0x004, 0x10, 63, false, [⟨0, 2, .ro, 0⟩, ⟨2, 1, .ro, 0⟩, ⟨3, 4, .ro, 0⟩, ⟨7, 6, .ro, 0⟩, ⟨13, 1, .ro, 0⟩]⟩,
  ⟨0x008, 0x10, 63, false, [⟨0, 24, .ro, 0⟩, ⟨24, 4, .ro, 0⟩, ⟨28, 1, .ro, 0⟩]⟩,
  ⟨0x00c, 0x10, 63, true, [⟨0, 32, .rwc, 0⟩]⟩,
  ⟨0x3f0, 0x0, 1, false, [⟨0, 1, .w1c, 0⟩]⟩,
  ⟨0x3f4, 0x0, 1, true, [⟨0, 32, .rwc, 0⟩]⟩,
  ⟨0x3f8, 0x0, 1, true, [⟨0, 32, .rwc, 0⟩]⟩,
  ⟨0x3fc, 0x0, 1, true, [⟨0, 32, .rwc, 0⟩]⟩]

/-- Registers of page 0x12 (spec/14_pair_redundancy.md). -/
def rowsCOL : List RegRow := [
  ⟨0x000, 0x0, 1, false, [⟨0, 1, .ro, 0⟩, ⟨8, 6, .ro, 16⟩, ⟨16, 6, .ro, 10⟩]⟩,
  ⟨0x004, 0x0, 1, false, [⟨0, 3, .ro, 0⟩, ⟨3, 1, .ro, 0⟩, ⟨4, 1, .ro, 0⟩, ⟨5, 1, .ro, 0⟩, ⟨8, 8, .ro, 0⟩, ⟨16, 16, .ro, 0⟩]⟩,
  ⟨0x008, 0x0, 1, false, [⟨0, 32, .ro, 0⟩]⟩,
  ⟨0x00c, 0x0, 1, false, [⟨0, 15, .ro, 0⟩]⟩,
  ⟨0x010, 0x0, 1, false, [⟨0, 16, .ro, 0⟩]⟩,
  ⟨0x014, 0x0, 1, false, [⟨0, 32, .ro, 0⟩]⟩,
  ⟨0x018, 0x0, 1, false, [⟨0, 1, .w1c, 0⟩, ⟨1, 1, .w1c, 0⟩, ⟨2, 1, .w1c, 0⟩, ⟨3, 1, .w1c, 0⟩, ⟨4, 1, .w1c, 0⟩, ⟨5, 1, .w1c, 0⟩, ⟨6, 1, .w1c, 0⟩, ⟨7, 1, .w1c, 0⟩, ⟨8, 1, .w1c, 0⟩]⟩,
  ⟨0x040, 0x0, 1, true, [⟨0, 32, .rwc, 0⟩]⟩,
  ⟨0x044, 0x0, 1, true, [⟨0, 32, .rwc, 0⟩]⟩,
  ⟨0x048, 0x0, 1, true, [⟨0, 32, .rwc, 0⟩]⟩,
  ⟨0x04c, 0x0, 1, true, [⟨0, 32, .rwc, 0⟩]⟩,
  ⟨0x050, 0x0, 1, true, [⟨0, 32, .rwc, 0⟩]⟩,
  ⟨0x054, 0x0, 1, true, [⟨0, 32, .rwc, 0⟩]⟩,
  ⟨0x058, 0x0, 1, true, [⟨0, 32, .rwc, 0⟩]⟩,
  ⟨0x05c, 0x0, 1, true, [⟨0, 32, .rwc, 0⟩]⟩,
  ⟨0x060, 0x0, 1, true, [⟨0, 32, .rwc, 0⟩]⟩]

/-- Registers of page 0x13 (spec/15_field_channels.md). -/
def rowsFCH : List RegRow := [
  ⟨0x000, 0x10, 1, false, [⟨0, 1, .rw, 0⟩, ⟨1, 3, .ro, 0⟩, ⟨4, 8, .rws, 30⟩, ⟨12, 2, .rws, 1⟩, ⟨14, 6, .ro, 0⟩, ⟨31, 1, .rw, 0⟩]⟩,
  ⟨0x010, 0x10, 63, false, [⟨0, 1, .rw, 0⟩, ⟨1, 3, .ro, 0⟩, ⟨4, 8, .rws, 30⟩, ⟨12, 2, .rws, 1⟩, ⟨14, 6, .ro, 0⟩]⟩,
  ⟨0x004, 0x10, 1, false, [⟨0, 1, .ro, 0⟩, ⟨1, 1, .ro, 0⟩, ⟨2, 1, .ro, 0⟩, ⟨3, 1, .ro, 0⟩, ⟨4, 1, .ro, 0⟩, ⟨5, 1, .ro, 0⟩, ⟨6, 1, .ro, 0⟩, ⟨7, 1, .ro, 0⟩, ⟨8, 1, .ro, 0⟩, ⟨9, 1, .ro, 0⟩, ⟨10, 1, .ro, 0⟩, ⟨11, 1, .ro, 0⟩, ⟨31, 1, .w1c, 0⟩]⟩,
  ⟨0x014, 0x10, 63, false, [⟨0, 1, .ro, 0⟩, ⟨1, 1, .ro, 0⟩, ⟨2, 1, .ro, 0⟩, ⟨3, 1, .ro, 0⟩, ⟨4, 1, .ro, 0⟩, ⟨5, 1, .ro, 0⟩, ⟨6, 1, .ro, 0⟩, ⟨7, 1, .ro, 0⟩, ⟨8, 1, .ro, 0⟩, ⟨9, 1, .ro, 0⟩, ⟨10, 1, .ro, 0⟩, ⟨11, 1, .ro, 0⟩]⟩,
  ⟨0x008, 0x10, 64, false, [⟨0, 1, .w1c, 0⟩, ⟨1, 1, .w1c, 0⟩, ⟨2, 1, .w1c, 0⟩, ⟨3, 1, .w1c, 0⟩, ⟨4, 1, .w1c, 0⟩]⟩,
  ⟨0x00c, 0x10, 64, true, [⟨0, 32, .rwc, 0⟩]⟩]

/-- Registers of page 0x14 (spec/15_field_channels.md). -/
def rowsTLI : List RegRow := [
  ⟨0x000, 0x0, 1, false, [⟨31, 1, .rw, 0⟩]⟩,
  ⟨0x004, 0x0, 1, false, [⟨0, 16, .ro, 0⟩, ⟨16, 4, .ro, 0⟩, ⟨31, 1, .w1c, 0⟩]⟩,
  ⟨0x040, 0x4, 4, false, [⟨0, 1, .rw, 0⟩, ⟨1, 2, .rws, 2⟩, ⟨3, 8, .rws, 50⟩]⟩,
  ⟨0x100, 0x4, 8, false, [⟨0, 16, .ro, 0⟩, ⟨16, 16, .ro, 0⟩]⟩,
  ⟨0x120, 0x0, 1, false, [⟨0, 8, .ro, 0⟩, ⟨8, 8, .ro, 255⟩, ⟨16, 8, .ro, 0⟩]⟩,
  ⟨0x124, 0x0, 1, false, [⟨0, 8, .w1c, 0⟩, ⟨8, 8, .w1c, 0⟩, ⟨16, 8, .w1c, 0⟩]⟩,
  ⟨0x060, 0x4, 4, true, [⟨0, 32, .rwc, 0⟩]⟩,
  ⟨0x140, 0x4, 8, true, [⟨0, 32, .rwc, 0⟩]⟩]

/-- Registers of page 0x15 (spec/16_safety_functions.md). -/
def rowsSF : List RegRow := [
  ⟨0x004, 0x0, 1, false, [⟨0, 1, .ro, 0⟩, ⟨1, 1, .ro, 0⟩, ⟨4, 4, .ro, 0⟩, ⟨8, 4, .ro, 0⟩, ⟨16, 16, .ro, 0⟩]⟩,
  ⟨0x008, 0x0, 1, false, [⟨0, 32, .ro, 0⟩]⟩,
  ⟨0x00c, 0x0, 1, false, [⟨0, 32, .ro, 0⟩]⟩,
  ⟨0x010, 0x0, 1, false, [⟨0, 1, .w1c, 0⟩, ⟨1, 1, .w1c, 0⟩, ⟨2, 1, .w1c, 0⟩, ⟨3, 1, .w1c, 0⟩, ⟨4, 1, .w1c, 0⟩, ⟨5, 1, .w1c, 0⟩, ⟨6, 1, .w1c, 0⟩]⟩,
  ⟨0x014, 0x0, 1, false, [⟨0, 16, .ro, 0⟩, ⟨16, 16, .ro, 0⟩]⟩,
  ⟨0x040, 0x0, 1, false, [⟨0, 4, .wd, 0⟩]⟩,
  ⟨0x080, 0x10, 4, false, [⟨0, 3, .ro, 0⟩, ⟨4, 4, .ro, 0⟩, ⟨8, 1, .ro, 0⟩, ⟨9, 1, .ro, 0⟩, ⟨10, 1, .ro, 1⟩]⟩,
  ⟨0x084, 0x10, 4, false, [⟨0, 32, .ro, 0⟩]⟩,
  ⟨0x088, 0x10, 4, false, [⟨0, 32, .ro, 0⟩]⟩,
  ⟨0x08c, 0x10, 4, true, [⟨0, 32, .ro, 0⟩]⟩,
  ⟨0x100, 0x0, 1, true, [⟨0, 32, .rwc, 0⟩]⟩,
  ⟨0x104, 0x0, 1, true, [⟨0, 32, .rwc, 0⟩]⟩,
  ⟨0x108, 0x0, 1, true, [⟨0, 32, .rwc, 0⟩]⟩,
  ⟨0x10c, 0x0, 1, true, [⟨0, 32, .rwc, 0⟩]⟩,
  ⟨0x110, 0x0, 1, true, [⟨0, 32, .rwc, 0⟩]⟩,
  ⟨0x114, 0x0, 1, true, [⟨0, 32, .rwc, 0⟩]⟩]

/-- Registers of page 0x16, part 1 (spec/17_energy_measurement.md). -/
def rowsEMP1 : List RegRow := [
  ⟨0x004, 0x0, 1, false, [⟨0, 1, .ro, 0⟩, ⟨1, 1, .ro, 0⟩, ⟨2, 1, .ro, 0⟩, ⟨3, 1, .ro, 0⟩, ⟨4, 1, .ro, 0⟩, ⟨5, 1, .ro, 0⟩, ⟨6, 1, .ro, 0⟩, ⟨7, 1, .ro, 0⟩, ⟨8, 3, .ro, 0⟩, ⟨16, 16, .ro, 0⟩]⟩,
  ⟨0x008, 0x0, 1, false, [⟨0, 32, .ro, 0⟩]⟩,
  ⟨0x00c, 0x0, 1, false, [⟨0, 32, .ro, 0⟩]⟩,
  ⟨0x010, 0x0, 1, false, [⟨0, 32, .ro, 0⟩]⟩,
  ⟨0x014, 0x0, 1, false, [⟨0, 32, .ro, 0⟩]⟩,
  ⟨0x018, 0x0, 1, false, [⟨0, 32, .ro, 0⟩]⟩,
  ⟨0x01c, 0x0, 1, false, [⟨0, 32, .ro, 0⟩]⟩,
  ⟨0x020, 0x0, 1, false, [⟨0, 32, .ro, 0⟩]⟩,
  ⟨0x024, 0x0, 1, false, [⟨0, 32, .ro, 0⟩]⟩,
  ⟨0x040, 0x0, 1, false, [⟨0, 32, .ro, 0⟩]⟩,
  ⟨0x044, 0x0, 1, false, [⟨0, 32, .ro, 0⟩]⟩,
  ⟨0x048, 0x0, 1, false, [⟨0, 32, .ro, 0⟩]⟩,
  ⟨0x04c, 0x0, 1, false, [⟨0, 32, .ro, 0⟩]⟩,
  ⟨0x050, 0x0, 1, false, [⟨0, 32, .ro, 0⟩]⟩,
  ⟨0x054, 0x0, 1, false, [⟨0, 32, .ro, 0⟩]⟩,
  ⟨0x058, 0x0, 1, false, [⟨0, 32, .ro, 0⟩]⟩]

/-- Registers of page 0x16, part 2 (spec/17_energy_measurement.md). -/
def rowsEMP2 : List RegRow := [
  ⟨0x05c, 0x0, 1, false, [⟨0, 32, .ro, 0⟩]⟩]

/-- Registers of page 0x16 (spec/17_energy_measurement.md). -/
def rowsEMP : List RegRow := rowsEMP1 ++ rowsEMP2

/-- Registers of page 0x17 (spec/18_event_recorder.md). -/
def rowsLOG : List RegRow := [
  ⟨0x000, 0x0, 1, false, [⟨0, 1, .rw, 0⟩, ⟨1, 1, .rw, 0⟩, ⟨4, 2, .rws, 0⟩, ⟨6, 2, .rws, 0⟩]⟩,
  ⟨0x004, 0x0, 1, false, [⟨0, 1, .ro, 1⟩, ⟨1, 1, .ro, 0⟩, ⟨2, 3, .ro, 0⟩, ⟨5, 1, .ro, 0⟩, ⟨6, 1, .ro, 0⟩]⟩,
  ⟨0x008, 0x0, 1, false, [⟨0, 1, .w1c, 0⟩, ⟨1, 1, .w1c, 0⟩, ⟨2, 1, .w1c, 0⟩, ⟨3, 1, .w1c, 0⟩, ⟨4, 1, .w1c, 0⟩]⟩,
  ⟨0x010, 0x0, 1, true, [⟨0, 32, .ro, 0⟩]⟩,
  ⟨0x014, 0x0, 1, true, [⟨0, 32, .ro, 0⟩]⟩,
  ⟨0x018, 0x0, 1, false, [⟨0, 32, .ro, 0⟩]⟩,
  ⟨0x01c, 0x0, 1, false, [⟨0, 32, .ro, 0⟩]⟩,
  ⟨0x040, 0x0, 1, true, [⟨0, 32, .rwc, 0⟩]⟩,
  ⟨0x044, 0x0, 1, true, [⟨0, 32, .rwc, 0⟩]⟩,
  ⟨0x048, 0x0, 1, true, [⟨0, 32, .rwc, 0⟩]⟩,
  ⟨0x04c, 0x0, 1, true, [⟨0, 32, .rwc, 0⟩]⟩,
  ⟨0x080, 0x4, 16, true, [⟨0, 32, .rwc, 0⟩]⟩]

/-- Registers of page 0x18 (spec/20_power_clock_ageing.md). -/
def rowsPWR : List RegRow := [
  ⟨0x004, 0x0, 1, false, [⟨0, 1, .ro, 0⟩, ⟨1, 1, .ro, 0⟩, ⟨2, 1, .ro, 0⟩, ⟨3, 1, .ro, 0⟩, ⟨4, 2, .ro, 0⟩, ⟨6, 2, .ro, 0⟩, ⟨8, 2, .ro, 1⟩, ⟨10, 2, .ro, 1⟩, ⟨12, 1, .ro, 0⟩, ⟨13, 1, .ro, 0⟩, ⟨14, 1, .ro, 0⟩, ⟨15, 1, .ro, 0⟩, ⟨16, 1, .ro, 0⟩]⟩,
  ⟨0x008, 0x0, 1, false, [⟨0, 16, .ro, 0⟩, ⟨16, 16, .ro, 0⟩]⟩,
  ⟨0x00c, 0x0, 1, false, [⟨0, 16, .ro, 0⟩, ⟨16, 16, .ro, 0⟩]⟩,
  ⟨0x010, 0x0, 1, false, [⟨0, 16, .ro, 0⟩, ⟨16, 16, .ro, 0⟩]⟩,
  ⟨0x014, 0x0, 1, false, [⟨0, 16, .ro, 0⟩, ⟨16, 16, .ro, 0⟩]⟩,
  ⟨0x018, 0x0, 1, false, [⟨0, 16, .ro, 0⟩, ⟨16, 16, .ro, 0⟩]⟩,
  ⟨0x01c, 0x0, 1, false, [⟨0, 16, .ro, 438⟩, ⟨16, 2, .ro, 0⟩]⟩,
  ⟨0x020, 0x0, 1, false, [⟨0, 1, .w1c, 0⟩, ⟨1, 1, .w1c, 0⟩, ⟨2, 1, .w1c, 0⟩, ⟨3, 1, .w1c, 0⟩, ⟨4, 1, .w1c, 0⟩, ⟨5, 1, .w1c, 0⟩, ⟨6, 1, .w1c, 0⟩, ⟨7, 1, .w1c, 0⟩, ⟨8, 1, .w1c, 0⟩, ⟨9, 1, .w1c, 0⟩, ⟨10, 1, .w1c, 0⟩, ⟨11, 1, .w1c, 0⟩]⟩,
  ⟨0x040, 0x0, 1, true, [⟨0, 32, .rwc, 0⟩]⟩,
  ⟨0x044, 0x0, 1, true, [⟨0, 32, .rwc, 0⟩]⟩,
  ⟨0x048, 0x0, 1, true, [⟨0, 32, .rwc, 0⟩]⟩,
  ⟨0x04c, 0x0, 1, true, [⟨0, 32, .rwc, 0⟩]⟩,
  ⟨0x050, 0x0, 1, true, [⟨0, 32, .rwc, 0⟩]⟩,
  ⟨0x054, 0x0, 1, true, [⟨0, 32, .rwc, 0⟩]⟩,
  ⟨0x058, 0x0, 1, true, [⟨0, 32, .rwc, 0⟩]⟩,
  ⟨0x05c, 0x0, 1, true, [⟨0, 32, .ro, 0⟩]⟩]

/-- Registers of page 0x19 (spec/21_link_fault_injection.md). -/
def rowsFI : List RegRow := [
  ⟨0x004, 0x0, 1, false, [⟨0, 1, .ro, 0⟩, ⟨1, 1, .ro, 0⟩, ⟨16, 16, .ro, 0⟩]⟩,
  ⟨0x008, 0x0, 1, false, [⟨0, 32, .ro, 0⟩]⟩,
  ⟨0x00c, 0x0, 1, false, [⟨0, 32, .ro, 0⟩]⟩,
  ⟨0x010, 0x0, 1, false, [⟨0, 1, .w1c, 0⟩, ⟨1, 1, .w1c, 0⟩, ⟨2, 1, .w1c, 0⟩]⟩,
  ⟨0x100, 0x10, 48, false, [⟨0, 1, .ro, 0⟩, ⟨1, 3, .ro, 0⟩, ⟨4, 2, .ro, 0⟩, ⟨6, 1, .ro, 0⟩, ⟨7, 1, .ro, 0⟩, ⟨8, 5, .ro, 0⟩]⟩,
  ⟨0x104, 0x10, 48, false, [⟨0, 32, .ro, 0⟩]⟩,
  ⟨0x108, 0x10, 48, false, [⟨0, 32, .ro, 0⟩]⟩,
  ⟨0x10c, 0x10, 48, true, [⟨0, 32, .rwc, 0⟩]⟩,
  ⟨0x014, 0x0, 1, true, [⟨0, 32, .rwc, 0⟩]⟩]

/-- Registers of page 0x1A (spec/09_command_interface.md). -/
def rowsCMD : List RegRow := [
  ⟨0x004, 0x0, 1, false, [⟨0, 4, .ro, 0⟩, ⟨4, 1, .ro, 0⟩, ⟨5, 1, .ro, 0⟩, ⟨6, 1, .ro, 0⟩, ⟨8, 8, .ro, 0⟩]⟩,
  ⟨0x008, 0x0, 1, false, [⟨0, 1, .wo, 0⟩]⟩,
  ⟨0x040, 0x0, 1, true, [⟨0, 32, .rwc, 0⟩]⟩,
  ⟨0x044, 0x0, 1, true, [⟨0, 32, .rwc, 0⟩]⟩,
  ⟨0x048, 0x0, 1, true, [⟨0, 32, .rwc, 0⟩]⟩,
  ⟨0x04c, 0x0, 1, true, [⟨0, 32, .rwc, 0⟩]⟩,
  ⟨0x050, 0x0, 1, true, [⟨0, 32, .rwc, 0⟩]⟩,
  ⟨0x054, 0x0, 1, true, [⟨0, 32, .rwc, 0⟩]⟩]

/-- The page map of R258: the registers of each assigned page, none for an unassigned one. -/
def pageRows : Nat → Option (List RegRow)
  | 0x00 => some rowsSYS
  | 0x01 => some rowsCV
  | 0x02 => some rowsCE
  | 0x03 => some rowsPI
  | 0x04 => some rowsPS
  | 0x05 => some rowsMS
  | 0x06 => some rowsRNG
  | 0x07 => some rowsRNG
  | 0x08 => some rowsESW
  | 0x09 => some rowsTPD
  | 0x0A => some rowsMVB
  | 0x0B => some rowsWTB
  | 0x0C => some rowsCAN
  | 0x0D => some rowsSER
  | 0x0E => some rowsENC
  | 0x10 => some rowsRDG
  | 0x11 => some rowsBRG
  | 0x12 => some rowsCOL
  | 0x13 => some rowsFCH
  | 0x14 => some rowsTLI
  | 0x15 => some rowsSF
  | 0x16 => some rowsEMP
  | 0x17 => some rowsLOG
  | 0x18 => some rowsPWR
  | 0x19 => some rowsFI
  | 0x1A => some rowsCMD
  | _ => none

/-- The row that lists primary offset `off`, and the instance of it. -/
def findRow : List RegRow → Nat → Option (RegRow × Nat)
  | [], _ => none
  | r :: t, off =>
    if off = r.base then some (r, 0)
    else if r.count > 1 ∧ r.base ≤ off ∧ (off - r.base) % r.stride = 0 ∧ (off - r.base) / r.stride < r.count then
      some (r, (off - r.base) / r.stride)
    else findRow t off

/-- The fields of the register at primary offset `off` of page `page`; an offset not listed has none (R259). -/
def fieldsAt (page off : Nat) : List Field :=
  match pageRows page with
  | none => []
  | some rows => match findRow rows off with
    | none => []
    | some (r, _) => r.fields

/-- Whether a snapshot copies the register at primary offset `off` of page `page` (R259, R272). -/
def countingAt (page off : Nat) : Bool :=
  match pageRows page with
  | none => false
  | some rows => match findRow rows off with
    | none => false
    | some (r, _) => r.counting

/-- The field a key names. -/
def fieldOf (k : Nat) : Option Field :=
  (fieldsAt (k / 32 / 0x1000) (k / 32 % 0x1000)).find? (fun f => f.lo == k % 32)

/-- The reset value of the field under key `k` (R261). A field the tables mark with a dash has no reset value in the
spec; the model starts it at zero (DESIGN CHOICE, notes/assumptions/3.md). -/
def resetOf (k : Nat) : Word :=
  match fieldOf k with
  | some f => BitVec.ofNat 32 f.reset
  | none => 0

end Sys2Proof.Machine
end

