-- ==== Sys2Proof/Machine/StationState.lean ====
section
/-! DEFINITION. The state of the Ridge link, the bridge and the pair beside their registers
(spec/13_ridge_link.md, spec/14_pair_redundancy.md). -/
namespace Sys2Proof.Machine

/-! ### Ridge (R327 to R353) -/

/-- A position of the ring: one DISCOVER entry (R330). -/
structure Position where
  station : Nat
  unit : Nat
  role : Nat
  serial : Nat
  partner : Nat
  deriving DecidableEq, Repr

/-- A stream frame that is not yet acknowledged: its header values, and the ring whose descriptor it completes or the
write it performs for the bridge (R341, R342). -/
structure SentFrame where
  seq : Nat
  type : Nat
  sync : Bool
  payload : List Byte
  ring : Option Nat
  /-- For a POSTED frame: the window offset it came from. -/
  offset : Nat
  deriving DecidableEq, Repr

/-- The streams to and from one station (R341). -/
structure Stream where
  next : Nat
  /-- The next frame sent carries SYNC. -/
  opening : Bool
  unacked : List SentFrame
  /-- The expected SEQ of the next frame received; none before a SYNC. -/
  expect : Option Nat
  /-- SEQ of the last in-order frame received, and whether its acknowledgement is owed (R341). -/
  last : Option Nat
  ackDue : Bool
  /-- SEQ of the SYNC frame that opened the stream as received: its copies open it no second time. -/
  opened : Option Nat
  deriving DecidableEq, Repr

/-- A stream before its first frame. -/
def Stream.zero : Stream := ⟨0, true, [], none, none, false, none⟩

/-- An outstanding bridge load (R343, R346): TAG, window offset, worker address, size code, whether it asks for a line,
RETRY answers received, and the tick it was sent. -/
structure BridgeLoad where
  tag : Nat
  offset : Nat
  addr : Nat
  size : Nat
  line : Bool
  retries : Nat
  since : Nat
  /-- A RETRY has been received and the resend waits (R343). -/
  backoff : Bool
  /-- How it has ended: its status and its data, held until T7 takes them (R45). -/
  done : Option (Nat × DWord)
  deriving DecidableEq, Repr

/-- A prefetch line (R348): its worker address, and status and data of each 8-byte word, with the words used. -/
structure Line where
  addr : Nat
  words : List (Nat × DWord)
  used : List Nat
  deriving DecidableEq, Repr

/-- A bridge context beside its registers. -/
structure BridgeCtx where
  load : Option BridgeLoad
  /-- Stores that wait for a posted credit: window offset, worker address, size code and data (R344). -/
  stores : List (Nat × Nat × Nat × DWord)
  line : Option Line
  nextTag : Nat
  deriving DecidableEq, Repr

/-- A context at the start. -/
def BridgeCtx.zero : BridgeCtx := ⟨none, [], none, 0⟩

/-- A request a Spur holds (R343): worker address, size code, TAG and LINE. -/
structure QueuedRequest where
  addr : Nat
  size : Nat
  tag : Nat
  line : Bool
  deriving DecidableEq, Repr

/-- The Ridge link and the bridge. -/
structure Ridge where
  /-- Positions in ring order, as merged at the last DISCOVER (R330). -/
  positions : List Position
  /-- Own DISCOVER frames that have come back: by the east port, by the west port. -/
  backE : Option (List Position)
  backW : Option (List Position)
  /-- Highest accepted SEQ by source station and tick class, CYCLE or SLOT (R335). -/
  cycleSeen : Sparse Nat
  slotSeen : Sparse Nat
  /-- Ticks or cycles in a row without a SLOT in time, by station (R338), and stations whose SLOT of this tick came. -/
  missed : Sparse Nat
  slotGot : List Nat
  /-- Streams by the other station (R341). -/
  streams : Sparse Stream
  requests : List QueuedRequest
  ctx : Sparse BridgeCtx
  /-- A far error of a posted store waits for T7's next instruction boundary (R346). -/
  farPending : Bool
  /-- Frames that wait for a tunnelled link of this Spur, at most 16 each (R352). -/
  tunnel : Sparse (List AgentFrame)
  /-- Own ticks since the last CYCLE frame (R331). -/
  quiet : Nat
  /-- The payload of the last CYCLE frame sent, which tells the own frame come round from another Summit's (R331). -/
  cycleSent : List Byte
  /-- Stations declared lost and not yet regained (R338). -/
  lost : List Nat
  /-- The statuses of the words of the last line a station returned (R348, notes/assumptions/14.md). -/
  words : Sparse (List Nat)
  deriving DecidableEq, Repr

/-! ### Pair (R354 to R374) -/

/-- What a HELLO tells (R356). -/
structure Hello where
  serial : Nat
  mode : Nat
  state : Nat
  program : Nat
  check : Nat
  firmware : Nat
  active : Bool
  deriving DecidableEq, Repr

/-- What a MARK frame tells (R356): its tick, the mode of the active, the digest of the tick before, whether a program
switch takes place at its boundary, the swap tick, and the force changes of its boundary. -/
structure Mark where
  tick : Nat
  mode : Nat
  digest : Word
  switch : Bool
  swap : Option Nat
  forces : List ForceChange
  deriving DecidableEq, Repr

/-- The Col link and the pair. -/
structure Col where
  /-- SEQ of the next frame sent and of the next frame expected (R355). -/
  txSeq : Nat
  rxSeq : Option Nat
  /-- The lane the next frame leaves on. -/
  lane : Bool
  /-- Frames received ahead of a gap that is not yet filled (R357). -/
  ahead : List ColFrame
  partner : Option Hello
  /-- Groups received and not yet closed by a MARK, and those counted since the last (R361). -/
  groups : List (List Byte)
  groupsSince : Nat
  /-- Groups deferred because the tick's stream is full, and stream bytes of this tick (R361). -/
  deferred : List (List Byte)
  streamBytes : Nat
  /-- Latest own group by source, kept while the standby does not write its live image (R362). -/
  own : Sparse (List Byte)
  /-- Running CRC register of D(k), and D(k) of the finished tick (R363); none for a tick that began out of step. -/
  digest : Option Word
  digestPrev : Option Word
  /-- Mode of the active in the last MARK (R362). -/
  markMode : Nat
  /-- MARK k in hand, until its boundary is taken. -/
  mark : Option Mark
  /-- Operating seconds of the returns to JOINING (R363). -/
  rejoins : List Nat
  /-- The swap tick (R373). -/
  swapAt : Option Nat
  /-- The active side of a join: dirty pages as region * 65536 + index, and operating time of the JOIN_ACK (R365). -/
  dirty : List Nat
  joinSince : Nat
  /-- A CUT has been taken: STANDBY begins at the next boundary (R366). -/
  cutTaken : Bool
  /-- The unit has fallen out of step and is to return to JOINING at the next tick boundary (R214, R361, R363). -/
  rejoinDue : Bool
  deriving DecidableEq, Repr

end Sys2Proof.Machine
end

