-- ==== Sys2Proof/Machine/TrigState.lean ====
section
/-! DEFINITION. The state of the Trig energy measurement partition (spec/17_energy_measurement.md). -/
namespace Sys2Proof.Machine

/-- Sums over samples of one measurement system: u × i, u², i² in squared units of a fifth of a code. -/
structure MsWin where
  ui : Int
  uu : Nat
  ii : Nat
  deriving DecidableEq, Repr

/-- No sample. -/
def MsWin.zero : MsWin := ⟨0, 0, 0⟩

/-- Consumed and regenerated energy in mJ not yet in a period record (R416). -/
structure MsAcc where
  cons : Nat
  regen : Nat
  deriving DecidableEq, Repr

/-- The voltage of the running second (R414): samples, Σu, Σu², positive-going zero crossings. -/
structure VoltSec where
  n : Nat
  u : Int
  uu : Nat
  cross : Nat
  deriving DecidableEq, Repr

/-- The period in progress (R417): start and planned end, whether they are operating time, the operating time at the
start, and the flags collected so far. -/
structure Period where
  start : Nat
  planned : Nat
  unset : Bool
  opStart : Nat
  flags : Nat
  deriving DecidableEq, Repr

/-- Trig. -/
structure Trig where
  /-- Trig measures; it does not during a restart. -/
  running : Bool
  fault : Bool
  /-- Device key (seed), the Dalsaed metrology key in ROM (R428), METROLOGIST and OPERATOR role keys. -/
  secret : List Byte
  romKey : List Byte
  metroKey : List Byte
  operKey : List Byte
  /-- Parameter block in force, and the one an accepted write puts in its place at the period end it causes (R427). -/
  params : List Byte
  nextParams : Option (List Byte)
  /-- The log: next SEQ, records retained in ascending SEQ, first unacknowledged SEQ; unrecorded periods with the start
  of the first, whether it is operating time, and the operating time at it; event records dropped since the log was full (R419, R420). -/
  nextSeq : Nat
  log : List (Nat × List Byte)
  acked : Nat
  deferred : Nat
  aggStart : Option (Nat × Bool × Nat)
  dropped : Nat
  wasFull : Bool
  /-- The seal (R425). -/
  sealCnt : Nat
  sealOpen : Bool
  /-- Firmware: version and SWID that run, version counter, the two banks, the active one, a download in progress. -/
  fwVersion : Word
  swid : Word
  fwCounter : Nat
  bank0 : FwStore
  bank1 : FwStore
  active1 : Bool
  update : Option Update
  /-- Energy (R415, R416). -/
  ms1 : MsAcc
  ms2 : MsAcc
  cumCons : Nat
  cumRegen : Nat
  /-- The running window: samples, sums, the last voltage, and whether a zero crossing has ended it. -/
  winN : Nat
  win1 : MsWin
  win2 : MsWin
  prevU : Int
  crossed : Bool
  sec : VoltSec
  /-- Input beyond ±10.5 V within the running second. -/
  overSec : Bool
  /-- The system classified last, and for how many seconds in a row (R414). -/
  system : Nat
  sysNew : Nat
  sysCount : Nat
  period : Period
  /-- Events that end the period at this sample (R417), as flag bits, none where nothing ends it. -/
  ending : Option Nat
  opNs : Nat
  utc : Nat
  utcValid : Bool
  /-- Last position and the operating time it came (R422). -/
  pos : Option (Word × Word × Nat)
  mboxErr : Nat
  /-- Own sessions (R426). -/
  desk : Desk
  /-- Requests that wait while Trig restarts. -/
  inbox : List (Nat × Req)
  deriving DecidableEq, Repr

end Sys2Proof.Machine
end

