-- ==== Sys2Proof/Machine/State.lean ====
section
/-! DEFINITION. The state of the ZD-4864, plain data, and the state right after reset. -/
namespace Sys2Proof.Machine

/-- Reasons the block stops. It has none: every command is answered with a next state. -/
inductive Fault where
  /-- Raised by nothing (safe: no behaviour of the spec ends the block). -/
  | none
  deriving DecidableEq, Repr

/-- Reasons a command is refused by the model. -/
inductive Refusal where
  /-- Raised by the dispatcher for a command without a meaning; safe. -/
  | notModelled (mnemonic : String)
  deriving DecidableEq, Repr

/-- A pending WD write (R266): its source, page, primary offset and value. -/
structure WdWrite where
  src : WSrc
  page : Nat
  off : Nat
  value : Word
  deriving DecidableEq, Repr

/-- The state of the module. -/
structure State where
  /-- Commands that wait, first in, first out. -/
  pending : List Instr
  mode : Mode
  /-- Register fields by key (`Reg`); a key not listed holds its reset value. -/
  regs : Sparse Word
  /-- Pending values of RWS fields (R263). -/
  staged : Sparse Word
  /-- Snapshot holding registers by page * 0x1000 + offset (R272). -/
  holding : Sparse Word
  wd : List WdWrite
  /-- MODEL FIELD: how many free values have been used. -/
  free : Nat
  time : Time
  mem : Mem
  img : Images
  ce : Ce
  cv : Saddle
  cairn : Cairn
  cmd : Cmd
  sup : Sup
  ring : Rings
  fi : Fi
  net : Net
  bus : Bus
  rdg : Ridge
  col : Col
  field : FieldUnit
  sf : SafetyUnit
  pwr : Pwr
  trig : Trig
  /-- What the module has put out on its links, oldest first. -/
  out : List Emit
  deriving DecidableEq, Repr

/-! ### The module as delivered -/

/-- A task with nothing released. -/
def TaskRt.idle : TaskRt := ⟨Ctx.start 0, false, none, 0, 0, false, 0⟩

/-- A lane without a history. -/
def LaneLog.zero : LaneLog := ⟨false, 0, [], none⟩

/-- A class of Cairn without records: SEQ counts from 0 at manufacture (R434). -/
def CairnClass.zero : CairnClass := ⟨0, [], false, 0⟩

/-- A feed without stress. -/
def FeedStress.zero : FeedStress := ⟨0, 0, 0, 0, 0⟩

/-- The stores as delivered (R209, R201): nothing listed. -/
def Mem.reset : Mem :=
  { ps := [], era := 0, rs := [], prg := [], img := [], live := [], com := [], test := [], wb := []
    travRange := 0, travWord := 0, travStart := 0 }

/-- The images at a start (R92). -/
def Images.reset : Images :=
  { ageClock := 0, delivered := [], valid := [], latchAge := [], srcOf := [], dstOf := [], lost := [], forces := []
    forceWait := [] }

/-- The Cycle Engine at a start: no program, no release. -/
def Ce.reset : Ce :=
  { tasks := Vector.replicate 9 TaskRt.idle, cur := none, store := [], slots := Vector.replicate 2 ⟨none, [], .no, none⟩
    active := none, retainInit := false, secondPart := false, sliceMap := [], initTicks := 0, switchSince := none, switchTick := none
    switchNow := false }

/-- The Saddle of a new module. -/
def Saddle.reset : Saddle :=
  { laneA := .zero, laneB := .zero, laneC := .zero, haltedAt := Vector.replicate 3 0, readmitted := Vector.replicate 3 none
    degLeft := 86400, degradeDue := false }

/-- Cairn of a new module. -/
def Cairn.reset : Cairn :=
  { intake := [], d := .zero, o := .zero, dropped := [], refreshed := [], refreshedUtc := [], dueNow := [], erases := []
    corrected := [], lastRefresh := 0 }

/-- The command interface at a start; nothing has been written to the configuration (R503). -/
def Cmd.reset : Cmd :=
  { desk := Desk.zero, longOp := none, forwarded := [], edit := none, config := [], outbox := [], arrived := [],
    summary := none }

/-- The supervisor of a new module. -/
def Sup.reset : Sup :=
  { modeWait := none, rideFrom := .run, lastSafe := none, safeFrom := none, startLoop := 0, runSince := none, autoReason := 0, autoOpen := false
    autoImage := none, programMargin := false, retained := [], resetArmed := false, resetStuck := false, powered := false, noAuto := false, bootsel := false
    slot := 0, update := none, restartDue := false, fwStore := .delivered 0 0, fwVersion := 0, fwSvn := 0, fwCounter := 0
    fwOld := none, fwInvalid := false, recovery := none, romKey := List.replicate 32 0
    flashSlots := Vector.replicate 4 none, flashLoad := none }

/-- The rings at a start. -/
def Rings.reset : Rings := { hold := [], inHand := [], started := [], arrivals := 0, deferred := [], minute := [] }

/-- The injector at a start. -/
def Fi.reset : Fi := { lfsr := [], seen := [], held := [], clearDue := false, permitEnd := none, released := [] }

/-- The train network at a start; the UTC offset is the default of R306. -/
def Net.reset : Net :=
  { macs := [], groups := [], full := [], unknown := 0, inbox := [], nodes := [], subs := [], pdSince := 0, late := []
    pubCount := 0, unitSeq := Vector.replicate 4 0, md := [], meCount := 0, neigh1 := none, neigh2 := none, topology := []
    trainDir := [], networkDir := [], tai := none, utcOffset := 37, inRange := 0, best := none, ppsAt := none, ppsIgnored := 0
    timeSet := false, ppsHi := none }

/-- Buses and encoders at a start. -/
def Bus.reset : Bus :=
  { mvbSrc := [], mvbAt := [], mvbSince := 0, mvbSeen := 0, wtbPeriod := 0, wtbAt := [], wtbNodes := [], enc := []
    shutting := [] }

/-- The Ridge at a start. -/
def Ridge.reset : Ridge :=
  { positions := [], backE := none, backW := none, cycleSeen := [], slotSeen := [], missed := [], slotGot := [], streams := []
    requests := [], ctx := [], farPending := false, tunnel := [], quiet := 0, cycleSent := [], lost := [], words := [] }

/-- The Col link at a start. -/
def Col.reset : Col :=
  { txSeq := 0, rxSeq := none, lane := false, ahead := [], partner := none, groups := [], groupsSince := 0, deferred := []
    streamBytes := 0, own := [], digest := none, digestPrev := none, markMode := 0, mark := none, rejoins := []
    swapAt := none, dirty := [], joinSince := 0, cutTaken := false, rejoinDue := false }

/-- The Safety Function Unit of a new module: unconfirmed. -/
def SafetyUnit.reset : SafetyUnit :=
  { si := [], so := [], inst := [], hist := [], confirmed := none, lockSeq := Vector.replicate 4 0, block := [] }

/-- The ageing records of a new module, which starts at P0 (R465). -/
def Pwr.reset : Pwr :=
  { op := 0, gop := 0, canary := List.replicate 12 0, drift := List.replicate 3 0, ahead := [], daily := [], slope := (0, 1)
    planLow := false, guardLow := false, planAt := 0, caps := [], capCount := 0, capMade := 0, capSlope := (0, 1)
    planned := 1, charged := false, tested := false, testClass := 1, turns := [], half := List.replicate 32 0
    hist := List.replicate 28 0, feed1 := .zero, feed2 := .zero, bothLost := 0, returns := 0, downs := 0, dipSec := 0
    dip1 := false, dip2 := false, downDue := false, clockDue := false, calendar := [] }

/-- The parameter block of a new Trig (R427): MAGIC, nothing in use, and its check. -/
def Trig.params0 : List Byte :=
  [0x01, 0x00, 0x16, 0x7E] ++ List.replicate 56 0 ++ [0x74, 0x4C, 0x9F, 0x83]

/-- Trig of a new module, not yet powered. -/
def Trig.reset : Trig :=
  { running := false, fault := false, secret := List.replicate 32 0, romKey := List.replicate 32 0
    metroKey := List.replicate 32 1, operKey := List.replicate 32 0, params := Trig.params0, nextParams := none, nextSeq := 0
    log := [], acked := 0, deferred := 0, aggStart := none, dropped := 0, wasFull := false, sealCnt := 0, sealOpen := false
    fwVersion := 0, swid := 0, fwCounter := 0, bank0 := .delivered 0 0, bank1 := .erased, active1 := false, update := none
    ms1 := ⟨0, 0⟩, ms2 := ⟨0, 0⟩, cumCons := 0, cumRegen := 0, winN := 0, win1 := .zero, win2 := .zero, prevU := 0
    crossed := false, sec := ⟨0, 0, 0, 0⟩, overSec := false, system := 0, sysNew := 0, sysCount := 0
    period := ⟨0, 300000000000, true, 0, 0⟩, ending := none, opNs := 0, utc := 0, utcValid := false, pos := none
    mboxErr := 0, desk := Desk.zero, inbox := [] }

/-- The module right after reset: SELFTEST, every register at its reset value, nothing waiting (R218, R219). No feed has
become good yet: POWER_UP is what begins the start-up sequence. -/
def State.reset : State :=
  { pending := [], mode := .selftest, regs := [], staged := [], holding := [], wd := [], free := 0
    time := ⟨0, none, 0, 0, false⟩, mem := .reset, img := .reset, ce := .reset, cv := .reset, cairn := .reset, cmd := .reset
    sup := .reset, ring := .reset, fi := .reset, net := .reset, bus := .reset, rdg := .reset, col := .reset
    field := ⟨[], [], []⟩, sf := .reset, pwr := .reset, trig := .reset, out := [] }

end Sys2Proof.Machine
end

