-- ==== Sys2Proof/Machine/Ops.lean ====
section
/-! DEFINITION. The named operations over registers, Cairn reports and coded memory that every meaning uses. -/
namespace Sys2Proof.Machine

/-- The answer of every meaning: the block goes on. -/
abbrev Out := Host.Outcome State Fault Refusal

/-! ### Numbers and bytes -/

/-- `n` bytes of `v`, least significant first (R8). -/
def leBytes : Nat → Nat → List Byte
  | 0, _ => []
  | n + 1, v => BitVec.ofNat 8 v :: leBytes n (v / 256)

/-- The number a byte list spells, least significant first (R8). -/
def leNat : List Byte → Nat
  | [] => 0
  | b :: t => b.toNat + 256 * leNat t

/-- Bit `i` of `n` as 0 or 1. -/
def bitAt (n i : Nat) : Nat := n / 2 ^ i % 2

/-- The field of `n` of width `w` at bit `lo`. -/
def bitsAt (n lo w : Nat) : Nat := n / 2 ^ lo % 2 ^ w

/-- 1 for true. -/
def b2n (b : Bool) : Nat := if b then 1 else 0

/-- 1 for true, as a register field. -/
def b2w (b : Bool) : Word := if b then 1 else 0

/-- Sign extension to 32 bits (sx of R127's pseudocode). -/
def sx {w : Nat} (x : BitVec w) : Word := x.signExtend 32

/-- Zero extension to 32 bits (zx). -/
def zx {w : Nat} (x : BitVec w) : Word := x.zeroExtend 32

/-! ### Register fields -/

/-- The value of the register field under key `k`. -/
def State.fld (s : State) (k : Nat) : Word := sgetD (resetOf k) s.regs k

/-- Set the register field under key `k`. -/
def State.setFld (s : State) (k : Nat) (v : Word) : State := { s with regs := ssetD (resetOf k) s.regs k v }

/-- Set a one-bit field. -/
def State.flag (s : State) (k : Nat) (b : Bool) : State := s.setFld k (b2w b)

/-- Set bit `i` of a field, as a sticky event does. -/
def State.setBit (s : State) (k i : Nat) : State := s.setFld k (s.fld k ||| BitVec.ofNat 32 (2 ^ i))

/-- Clear bit `i` of a field. -/
def State.clrBit (s : State) (k i : Nat) : State := s.setFld k (s.fld k &&& ~~~ BitVec.ofNat 32 (2 ^ i))

/-- Set or clear bit `i` of a field. -/
def State.putBit (s : State) (k i : Nat) (b : Bool) : State := if b then s.setBit k i else s.clrBit k i

/-- Whether bit `i` of a field is set. -/
def State.bit (s : State) (k i : Nat) : Bool := (s.fld k).getLsbD i

/-- A saturating 32-bit sum (every counter table: counters saturate at 0xFFFF_FFFF). -/
def satAdd (v : Word) (n : Nat) : Word :=
  if v.toNat + n < 2 ^ 32 then BitVec.ofNat 32 (v.toNat + n) else 0xFFFFFFFF

/-- Add `n` events to a counter. -/
def State.bumpBy (s : State) (k n : Nat) : State := s.setFld k (satAdd (s.fld k) n)

/-- Count one event. -/
def State.bump (s : State) (k : Nat) : State := s.bumpBy k 1

/-- Pending RWS fields of the keys that `p` picks apply together (R263). -/
def State.applyStaged (s : State) (p : Nat → Bool) : State :=
  let hit := s.staged.filter (fun e => p e.1)
  hit.foldl (fun s e => s.setFld e.1 e.2) { s with staged := s.staged.filter (fun e => !p e.1) }

/-- The page of a field key. -/
def keyPage (k : Nat) : Nat := k / 32 / 0x1000

/-- The offset of a field key within its page. -/
def keyOff (k : Nat) : Nat := k / 32 % 0x1000

/-- The applied value of the whole register at primary offset `off` of `page`. -/
def regWord (get : Nat → Word) (page off : Nat) : List Field → Word
  | [] => 0
  | f :: t =>
    (if f.acc = .wo then 0 else (get (fk page off f.lo) &&& BitVec.ofNat 32 (2 ^ f.width - 1)) <<< f.lo)
      ||| regWord get page off t

/-! ### Reports to Cairn (R430, R431, R435) -/

/-- The record code of an event the manual gives no number for (R431, notes/assumptions/6.md): subsystem `sub`, rule
`r`, event `i` of that rule. -/
def evCode (sub r i : Nat) : Nat := sub * 256 + (Config.eventNo r i).toNat

/-- The record code and SOURCE of an event: subsystem in [15:8]. -/
def srcNo (sub inst : Nat) : Nat := sub * 256 + inst % 256

/-- Operating time in ns: operating seconds and the ns elapsed in the current second (R431). -/
def State.opNs (s : State) : Nat := (s.fld Reg.SYS_OPSEC).toNat * 1000000000 + s.time.subNs

/-- The time bytes of a report taken now (R431). -/
def State.stamp (s : State) : RecClass → Nat
  | .d => (s.fld Reg.SYS_OPSEC).toNat + (s.fld Reg.SYS_PWRCYC).toNat * 2 ^ 32
  | .o => if s.time.utcValid then s.time.utc else s.opNs

/-- The report a rule writes now. -/
def State.mkReport (s : State) (cls : RecClass) (sev : Severity) (code source : Nat) (payload : List Byte) : Report :=
  { cls := cls, sev := sev, code := code, source := source
    unset := decide (cls = .o) && !s.time.utcValid
    standby := decide (s.mode = .standby) || decide (s.mode = .joining)
    mode := s.mode.code, time := s.stamp cls, payload := payload.take 28 }

/-- LOG_DROPCNT of a class counts a dropped record, and its sticky bit is set (R435). -/
def State.dropRecord (s : State) : RecClass → State
  | .d => (s.bump Reg.LOG_DROPCNT_D).flag Reg.LOG_EVT_DROP_D true
  | .o => (s.bump Reg.LOG_DROPCNT_O).flag Reg.LOG_EVT_DROP_O true

/-- Put a report into its subsystem's intake queue; a full queue drops it (R432, R435). -/
def State.enqueue (s : State) (r : Report) : State :=
  let sub := r.source / 256
  let q := sgetD [] s.cairn.intake sub
  if q.length < 256 then { s with cairn.intake := ssetD [] s.cairn.intake sub (q ++ [r]) }
  else
    let s := ((s.dropRecord r.cls).bump (Reg.LOG_SRCDROP sub)).flag Reg.LOG_EVT_SRC_DROP true
    { s with cairn.dropped := ssetD 0 s.cairn.dropped sub (sgetD 0 s.cairn.dropped sub + 1) }

/-- Write a record: the report goes to Cairn's intake (R17). -/
def State.report (s : State) (cls : RecClass) (sev : Severity) (code source : Nat) (payload : List Byte) : State :=
  s.enqueue (s.mkReport cls sev code source payload)

/-! ### Coded memory (spec/07_protected_store.md) -/

/-- Words of one program slot: 8 MiB of 64-bit words (R19). -/
def slotWords : Nat := 0x100000

/-- The first word of the word plane, the status plane, the edge memory and the Reserve region (R71). -/
def wordPlane : Nat := 0x1000
def statusPlane : Nat := 0x21000
def edgePlane : Nat := 0x29000
def reservePlane : Nat := 0x2A000

/-- What an unlisted word of an array holds: written with zero data (R92, R101, R209), status bytes 0x10 in the live
image (R92); for the Protected Store arbitrary bits (R201). -/
def Mem.unlisted (m : Mem) (a : Arr) (w : Nat) : Code :=
  match a with
  | .ps =>
    let x := (Config.psArbitrary m.era w).toNat
    ⟨BitVec.ofNat 64 x, BitVec.ofNat 8 (x / 2 ^ 64)⟩
  | .live => encodeWord w (if statusPlane ≤ w ∧ w < edgePlane then 0x1010101010101010 else 0)
  | _ => encodeWord w 0

/-- The list of an array. -/
def Mem.list (m : Mem) : Arr → Sparse Code
  | .ps => m.ps | .rs => m.rs | .prg => m.prg | .img => m.img | .live => m.live | .com => m.com

/-- Replace the list of an array. -/
def Mem.setList (m : Mem) (a : Arr) (l : Sparse Code) : Mem :=
  match a with
  | .ps => { m with ps := l } | .rs => { m with rs := l } | .prg => { m with prg := l }
  | .img => { m with img := l } | .live => { m with live := l } | .com => { m with com := l }

/-- The code word at word address `w` of array `a`. -/
def Mem.code (m : Mem) (a : Arr) (w : Nat) : Code := (sget (m.list a) w).getD (m.unlisted a w)

/-- Replace a code word. A Protected Store word stays listed once written, since what it held before is not known. -/
def Mem.put (m : Mem) (a : Arr) (w : Nat) (c : Code) : Mem :=
  match a with
  | .ps => { m with ps := sput m.ps w c }
  | _ => m.setList a (ssetD (m.unlisted a w) (m.list a) w c)

/-- The triad address of a word; for the live and committed images the Image RAM address of the same location
(PS_CE_ADDR, PS_UE_ADDR). -/
def Arr.addr (a : Arr) (w : Nat) : Nat :=
  match a with
  | .ps => 8 * w
  | .rs => 0x04000000 + 8 * w
  | .prg => 0x20000000 + 8 * w
  | _ => 0x10000000 + 8 * w

/-- PS_UE_INFO.ARRAY. -/
def Arr.code : Arr → Nat
  | .ps => 0 | .rs => 0 | .prg => 1 | .img => 2 | .live => 3 | .com => 4

/-- PS_UE_INFO.KIND. -/
def Cls.kind : Cls → Nat
  | .ue => 1 | .address => 2 | .poison => 3 | _ => 0

/-- The masters of PS_UE_INFO.MASTER. -/
inductive Master where
  | fetch | load | store | cycleEngine | ring | bridge | col | supervisor | traverse
  deriving DecidableEq, Repr

def Master.code : Master → Nat
  | .fetch => 0 | .load => 1 | .store => 2 | .cycleEngine => 3 | .ring => 4 | .bridge => 5 | .col => 6
  | .supervisor => 7 | .traverse => 8

/-- The bank of a word (R191). -/
def Arr.bank (a : Arr) (w : Nat) : Nat :=
  match a with
  | .rs => w % 4
  | _ => w % 8

/-- Count a correctable read (R197, R198). -/
def State.countCe (s : State) (a : Arr) (w : Nat) : State :=
  let addr := BitVec.ofNat 32 (a.addr w)
  match a with
  | .ps => (((s.bump Reg.PS_CE_CNT).setFld Reg.PS_CE_ADDR_ADDR addr).flag Reg.PS_EVT_CE true).report .d .info 0x0401
      (srcNo 4 (a.bank w)) (leBytes 4 (a.addr w))
  | .rs => (((s.bump Reg.MS_CE_CNT).setFld Reg.MS_CE_ADDR_ADDR addr).flag Reg.MS_EVT_CE true).report .d .info 0x0402
      (srcNo 4 (a.bank w)) (leBytes 4 (a.addr w))
  | .prg => ((s.bump Reg.PS_PRG_CE_CNT).setFld Reg.PS_CE_ADDR_ADDR addr).flag Reg.PS_EVT_CE true
  | _ => ((s.bump Reg.PS_IMG_CE_CNT).setFld Reg.PS_CE_ADDR_ADDR addr).flag Reg.PS_EVT_CE true

/-- The counter of an uncorrectable read (the counter tables of the PS and MS pages). -/
def ueCounter (a : Arr) (c : Cls) : Nat :=
  match a, c with
  | .rs, .address => Reg.MS_ADDRERR_CNT
  | .rs, .poison => Reg.MS_POISONRD_CNT
  | .rs, _ => Reg.MS_UE_CNT
  | .ps, .address => Reg.PS_ADDRERR_CNT
  | .ps, .poison => Reg.PS_POISONRD_CNT
  | .ps, _ => Reg.PS_UE_CNT
  | .prg, _ => Reg.PS_PRG_UE_CNT
  | _, _ => Reg.PS_IMG_UE_CNT

/-- Report an uncorrectable read in the UE registers, and write its record (R197, R199). -/
def State.countUe (s : State) (a : Arr) (w : Nat) (c : Cls) (syn : Byte) (m : Master) : State :=
  let addr := BitVec.ofNat 32 (a.addr w)
  let s := s.bump (ueCounter a c)
  let info := c.kind + m.code * 16 + syn.toNat * 256 + a.code * 65536
  let s :=
    if a = .rs then
      let s := ((((s.setFld Reg.MS_UE_ADDR_ADDR addr).setFld Reg.MS_UE_INFO_KIND (BitVec.ofNat 32 c.kind)).setFld
        Reg.MS_UE_INFO_MASTER (BitVec.ofNat 32 m.code)).setFld Reg.MS_UE_INFO_SYNDROME (syn.zeroExtend 32))
      if c = .poison then s else s.flag Reg.MS_EVT_UE true
    else
      let s := (((((s.setFld Reg.PS_UE_ADDR_ADDR addr).setFld Reg.PS_UE_INFO_KIND (BitVec.ofNat 32 c.kind)).setFld
        Reg.PS_UE_INFO_MASTER (BitVec.ofNat 32 m.code)).setFld Reg.PS_UE_INFO_SYNDROME (syn.zeroExtend 32)).setFld
        Reg.PS_UE_INFO_ARRAY (BitVec.ofNat 32 a.code))
      if c = .poison then s else s.flag Reg.PS_EVT_UE true
  s.report .d .fault (evCode 4 199 0) (srcNo 4 (a.bank w)) (leBytes 4 (a.addr w) ++ leBytes 4 info)

/-- Count the result of one read of a word under its class (R197). -/
def State.account (s : State) (a : Arr) (w : Nat) (m : Master) : State :=
  let c := s.mem.code a w
  match c.cls w with
  | .clean => s
  | .ce => s.countCe a w
  | k => s.countUe a w k (syndrome w c) m

/-- The counter of cancelled write-backs of an array. -/
def wbCancelCounter (a : Arr) : Nat := if a = .rs then Reg.MS_WBCANCEL_CNT else Reg.PS_WBCANCEL_CNT

/-- A write reaches a word: waiting corrections and poisonings of it are cancelled and counted (R198, R205). -/
def State.cancelWb (s : State) (a : Arr) (w : Nat) : State :=
  let hit := fun (b : WriteBack) => decide (b.arr = a) && b.word == w
  if s.mem.wb.any hit then
    { s with mem.wb := s.mem.wb.filter (fun b => !hit b) }.bumpBy (wbCancelCounter a) (s.mem.wb.countP hit)
  else s

/-! ### Pages that a join copies (R365) -/

/-- The region of a join that holds an array; Program RAM is in none. -/
def Arr.region : Arr → Option Nat
  | .ps => some 0 | .rs => some 1 | .img => some 2 | .live => some 3 | .com => some 4 | .prg => none

/-- The key of a page of a region. -/
def pageKey (region index : Nat) : Nat := region * 65536 + index

/-- COL_DIRTY follows the dirty pages. -/
def State.setDirty (s : State) (ps : List Nat) : State :=
  { s with col.dirty := ps }.setFld Reg.COL_DIRTY_PAGES (BitVec.ofNat 32 ps.length)

/-- A page is written while the active serves a join (COL_STAT.STATE 3). -/
def State.dirtyPage (s : State) (key : Nat) : State :=
  if s.fld Reg.COL_STAT_STATE = 3 ∧ !s.col.dirty.contains key then s.setDirty (s.col.dirty ++ [key]) else s

/-- A word of an array is written. -/
def State.dirtyWord (s : State) (a : Arr) (w : Nat) : State :=
  match a.region with
  | some r => s.dirtyPage (pageKey r (w / 512))
  | none => s

/-- Store a code word at `w`. -/
def State.putCode (s : State) (a : Arr) (w : Nat) (c : Code) : State :=
  let s := (s.cancelWb a w).dirtyWord a w
  { s with mem := s.mem.put a w c }

/-- A full 64-bit write: data and check bits are replaced, and poison is cleared (R110, R196). -/
def State.fullWrite (s : State) (a : Arr) (w : Nat) (data : DWord) : State := s.putCode a w (encodeWord w data)

/-- Poison a word (R196) and count it. -/
def State.poison (s : State) (a : Arr) (w : Nat) : State :=
  let s := s.putCode a w (poisonWord w)
  if a = .rs then (s.bump Reg.MS_POISON_CNT).flag Reg.MS_EVT_POISON true
  else (s.bump Reg.PS_POISON_CNT).flag Reg.PS_EVT_POISON true

/-- A read of one word by a port: what it counts, its class and its data (R195, R197); a correctable word is queued for
its write-back (R198, R504). -/
def State.readWord (s : State) (a : Arr) (w : Nat) (m : Master) : State × Cls × DWord :=
  let c := s.mem.code a w
  let k := c.cls w
  let d := corrected w c
  let s := s.account a w m
  if k = .ce ∧ a ≠ .prg then ({ s with mem.wb := s.mem.wb ++ [⟨a, w, false, d⟩] }, k, d) else (s, k, d)

/-- Merge `data` into `old` under the bit mask. -/
def mergeBits (old data mask : DWord) : DWord := (old &&& ~~~ mask) ||| (data &&& mask)

/-- The counter of refused partial writes of an array (R200). -/
def storeErrCounter (a : Arr) : Nat := if a = .rs then Reg.MS_STOREERR_CNT else Reg.PS_STOREERR_CNT

/-- A partial write under R200; `true` where it was refused. -/
def State.partialWrite (s : State) (a : Arr) (w : Nat) (data mask : DWord) (m : Master) : State × Bool :=
  let c := s.mem.code a w
  let k := c.cls w
  let s1 := s.account a w m
  match k with
  | .clean | .ce => (s1.fullWrite a w (mergeBits (corrected w c) data mask), false)
  | .ue => ((s1.poison a w).bump (storeErrCounter a), true)
  | .poison | .address => (s1.bump (storeErrCounter a), true)

/-- A write that covers the whole word is a full write, any other a partial write (R110, R200). -/
def State.writeWord (s : State) (a : Arr) (w : Nat) (data mask : DWord) (m : Master) : State × Bool :=
  if mask = BitVec.allOnes 64 then (s.fullWrite a w data, false) else s.partialWrite a w data mask m

/-- Read several words, in order. -/
def State.readMany (s : State) (a : Arr) (m : Master) : List Nat → State × Sparse (Cls × DWord)
  | [] => (s, [])
  | w :: t =>
    let r := s.readWord a w m
    let q := State.readMany r.1 a m t
    (q.1, sput q.2 w r.2)

/-! ### Free values -/

/-- The next free value drawn from `f`, at most `n`, and the state with the draw counted. -/
def State.draw (s : State) (f : Nat → Nat) (n : Nat) : Nat × State := (f s.free % (n + 1), { s with free := s.free + 1 })

end Sys2Proof.Machine
end

