-- ==== Sys2Proof/Machine/Conf.lean ====
section
/-! DEFINITION. The committed configuration: bytes of its blocks, and the settings of block 0x80 (R252). -/
namespace Sys2Proof.Machine

/-- The key of a configuration byte. -/
def cfgKey (block off : Nat) : Nat := block * 0x100000 + off

/-- The reset value of a whole register. -/
def resetWord (page off : Nat) : Nat := (regWord resetOf page off (fieldsAt page off)).toNat

/-- What a configuration byte holds where nothing has been written (R503): a register's place holds the register's reset
value, SESSION_IDLE its default (R252); the other module settings as notes/assumptions/16.md says; any other byte is zero. -/
def confDefault (block off : Nat) : Byte :=
  let byteOf := fun (v : Nat) => BitVec.ofNat 8 (v / 256 ^ (off % 4))
  let at_ := off / 4 * 4
  match block with
  | 0x80 => if off = 3 then 1 else if off = 8 then 0x2C else if off = 9 then 1 else if off = 0x0C then 7 else 0
  | 0x09 | 0x0A | 0x0B | 0x10 | 0x12 => if off < 4 then byteOf (resetWord block 0) else 0
  | 0x13 =>
    if off < 0x400 ∧ off % 16 < 4 then byteOf (resetWord 0x13 at_)
    else if 0x460 ≤ off ∧ off < 0x470 then byteOf (resetWord 0x14 (at_ - 0x460 + 0x40))
    else 0
  | 0x14 | 0x15 | 0x16 => 0
  | p => if p ≤ 0x1A ∧ off < 0x400 then byteOf (resetWord p at_) else 0

/-- A byte of a configuration. -/
def confByte (c : Sparse Byte) (block off : Nat) : Byte := sgetD (confDefault block off) c (cfgKey block off)

/-- `n` bytes of a configuration block as a number (R8). -/
def confNat (c : Sparse Byte) (block off n : Nat) : Nat :=
  leNat ((List.range n).map (fun i => confByte c block (off + i)))

/-- `n` bytes of a block of the committed configuration as a number. -/
def State.cfg (s : State) (block off n : Nat) : Nat := confNat s.cmd.config block off n

/-- The block of module settings, and of keys (R252). -/
def blkModule : Nat := 0x80
def blkKeys : Nat := 0x81

/-- The committed configuration check. -/
def State.cfgCheck (s : State) : Word := Config.cfgCheck s.cmd.config

/-- A transport is served (R236, R449): each UDP and TRDP transport as TRANSPORTS says; in SELFTEST and RECOVERY only E11
and CONSOLE. -/
def State.served (s : State) (t : Nat) : Bool :=
  if !s.sup.powered then false
  else if s.mode = .selftest ∨ s.mode = .recovery then t == 1 || t == 6
  else match t with
    | 1 => s.cfg blkModule 0x0C 4 % 2 == 1
    | 2 => bitAt (s.cfg blkModule 0x0C 4) 1 == 1
    | 3 => bitAt (s.cfg blkModule 0x0C 4) 2 == 1
    | _ => decide (t < 7)

/-- PAIR_MEMBER (R252). -/
def State.pairMember (s : State) : Bool := s.cfg blkModule 0x06 1 == 1

/-- ROLE and STATION of SYS_MODE (R25). -/
def State.role (s : State) : Nat := (s.fld Reg.SYS_MODE_ROLE).toNat
def State.station (s : State) : Nat := (s.fld Reg.SYS_MODE_STATION).toNat
def State.isManager (s : State) : Bool := s.role == 1
def State.isWorker (s : State) : Bool := s.role == 2

/-- The pair role: 0 unpaired, 1 ACTIVE, 2 STANDBY. -/
def State.pairRole (s : State) : Nat := (s.fld Reg.SYS_MODE_PAIR).toNat

/-- Process data of a unit in one of these modes is off (R212, R213). -/
def Mode.outputsOff : Mode → Bool
  | .run | .degraded | .test | .ridethru => false
  | _ => true

/-- Acquisition runs in every mode but SELFTEST, RECOVERY and SAFE (R212). -/
def Mode.acquires : Mode → Bool
  | .selftest | .recovery | .safe => false
  | _ => true

/-- In this mode the unit takes its inputs from the active (R362): STANDBY, a join in progress, or RIDETHRU entered from
STANDBY. -/
def State.followsIn (s : State) (m : Mode) : Bool :=
  decide (m = .standby) || decide (m = .joining) ||
    (decide (m = .ridethru) && decide (s.sup.rideFrom = .standby))
def State.follows (s : State) : Bool := s.followsIn s.mode

/-- The mode that network process data follows: SAFE only from the tick boundary after its entry on (R225). -/
def State.dataMode (s : State) : Mode := s.sup.safeFrom.getD s.mode

/-- The cycle runs in RUN, DEGRADED, STANDBY, TEST and RIDETHRU (R40). -/
def Mode.cycles : Mode → Bool
  | .run | .degraded | .standby | .test | .ridethru => true
  | _ => false

/-- The cycle runs (R40): not in a unit that fell out of step during RIDETHRU, from the boundary after that on. -/
def State.cycleRuns (s : State) : Bool :=
  s.mode.cycles && !(decide (s.mode = .ridethru) && s.col.rejoinDue)

/-- Traverse runs (R206): enabled, while the cycle runs and the masters have not stopped (R210). -/
def State.travRuns (s : State) : Bool :=
  s.fld Reg.PS_TRAV_CTRL_ENABLE == 1 && s.cycleRuns && s.fld Reg.PWR_STAT_STOPPING == 0

/-- The unit may send process data on TRDP PD: a mode with outputs, or STANDBY as a duplicate (R212, R223). -/
def State.publishes (s : State) : Bool :=
  if s.dataMode = .standby then decide (s.col.markMode ≠ 0xA)
  else !s.dataMode.outputsOff && !(decide (s.dataMode = .ridethru) && decide (s.sup.rideFrom = .standby))

/-- The unit drives outputs, and the links that only an active drives (R213, R315): not once the store has reached the stop
level (R461). -/
def State.drives (s : State) : Bool := !s.mode.outputsOff && !s.follows && s.fld Reg.PWR_STAT_STOPPING == 0

/-- The unit sends process data on the buses that only an active drives (R213, R225, R315, R461). -/
def State.sendsData (s : State) : Bool :=
  !s.dataMode.outputsOff && !s.followsIn s.dataMode && s.fld Reg.PWR_STAT_STOPPING == 0

end Sys2Proof.Machine
end

