-- ==== Sys2Proof/Machine/Crypto.lean ====
section
/-! DEFINITION. The standard functions the manual names: CRC-32C (R232, R430), HMAC-SHA-256 (R233, R242) and the
Ed25519 signature check of RFC 8032 (R451). -/
namespace Sys2Proof.Machine

/-! ### CRC-32C -/

/-- One bit step of CRC-32C, reflected polynomial 0x82F63B78. -/
def crcBits : Nat → Word → Word
  | 0, c => c
  | n + 1, c => crcBits n (if c.getLsbD 0 then (c >>> 1) ^^^ 0x82F63B78 else c >>> 1)

/-- CRC-32C over bytes, from a running value. -/
def crcRun : Word → List Byte → Word
  | c, [] => c
  | c, b :: t => crcRun (crcBits 8 (c ^^^ b.zeroExtend 32)) t

/-- CRC-32C (Castagnoli) of a byte list. -/
def crc32c (bs : List Byte) : Word := ~~~ crcRun 0xFFFFFFFF bs

/-! ### SHA-2 -/

/-- The 64-bit words of a number, most significant first: `n` of them. -/
def words64 (n v : Nat) : List (BitVec 64) := (List.range n).map (fun i => BitVec.ofNat 64 (v / 2 ^ (64 * (n - 1 - i))))

/-- The fractional parts of the cube roots of the first eighty primes, 64 bits each, five to a row: the round constants of
SHA-512. -/
def cubeRoots : List Nat :=
  [0x428A2F98D728AE227137449123EF65CDB5C0FBCFEC4D3B2FE9B5DBA58189DBBC3956C25BF348B538,
   0x59F111F1B605D019923F82A4AF194F9BAB1C5ED5DA6D8118D807AA98A303024212835B0145706FBE,
   0x243185BE4EE4B28C550C7DC3D5FFB4E272BE5D74F27B896F80DEB1FE3B1696B19BDC06A725C71235,
   0xC19BF174CF692694E49B69C19EF14AD2EFBE4786384F25E30FC19DC68B8CD5B5240CA1CC77AC9C65,
   0x2DE92C6F592B02754A7484AA6EA6E4835CB0A9DCBD41FBD476F988DA831153B5983E5152EE66DFAB,
   0xA831C66D2DB43210B00327C898FB213FBF597FC7BEEF0EE4C6E00BF33DA88FC2D5A79147930AA725,
   0x06CA6351E003826F142929670A0E6E7027B70A8546D22FFC2E1B21385C26C9264D2C6DFC5AC42AED,
   0x53380D139D95B3DF650A73548BAF63DE766A0ABB3C77B2A881C2C92E47EDAEE692722C851482353B] ++
  [0xA2BFE8A14CF10364A81A664BBC423001C24B8B70D0F89791C76C51A30654BE30D192E819D6EF5218,
   0xD69906245565A910F40E35855771202A106AA07032BBD1B819A4C116B8D2D0C81E376C085141AB53,
   0x2748774CDF8EEB9934B0BCB5E19B48A8391C0CB3C5C95A634ED8AA4AE3418ACB5B9CCA4F7763E373,
   0x682E6FF3D6B2B8A3748F82EE5DEFB2FC78A5636F43172F6084C87814A1F0AB728CC702081A6439EC,
   0x90BEFFFA23631E28A4506CEBDE82BDE9BEF9A3F7B2C67915C67178F2E372532BCA273ECEEA26619C,
   0xD186B8C721C0C207EADA7DD6CDE0EB1EF57D4F7FEE6ED17806F067AA72176FBA0A637DC5A2C898A6,
   0x113F9804BEF90DAE1B710B35131C471B28DB77F523047D8432CAAB7B40C724933C9EBE0A15C9BEBC,
   0x431D67C49C100D4C4CC5D4BECB3E42B6597F299CFC657E2A5FCB6FAB3AD6FAEC6C44198C4A475817]

/-- The fractional parts of the square roots of the first eight primes: the initial hash value of SHA-512. -/
def squareRoots : Nat :=
  0x6A09E667F3BCC908BB67AE8584CAA73B3C6EF372FE94F82BA54FF53A5F1D36F1510E527FADE682D19B05688C2B3E6C1F1F83D9ABFB41BD6B5BE0CD19137E2179

/-- The upper half of a word: SHA-256 takes the first 32 bits of each root. -/
def upperHalf (x : BitVec 64) : BitVec 32 := (x >>> 32).truncate 32

/-- Round constants and initial hash value of SHA-512. -/
def sha512K : List (BitVec 64) := cubeRoots.flatMap (words64 5)
def sha512H : List (BitVec 64) := words64 8 squareRoots

/-- Round constants and initial hash value of SHA-256. -/
def sha256K : List (BitVec 32) := (sha512K.take 64).map upperHalf
def sha256H : List (BitVec 32) := sha512H.map upperHalf

/-- A number of `n` bytes, most significant first. -/
def beBytes (n v : Nat) : List Byte := (leBytes n v).reverse

/-- The number a byte list spells, most significant first. -/
def beNat (bs : List Byte) : Nat := leNat bs.reverse

/-- Cut a list into pieces of `n`, at most `fuel` of them. -/
def chunks {α : Type} (n : Nat) : Nat → List α → List (List α)
  | 0, _ => []
  | fuel + 1, l => if l.isEmpty then [] else l.take n :: chunks n fuel (l.drop n)

/-- The eight working variables of SHA-2. -/
structure ShaVars (w : Nat) where
  a : BitVec w
  b : BitVec w
  c : BitVec w
  d : BitVec w
  e : BitVec w
  f : BitVec w
  g : BitVec w
  h : BitVec w
  deriving DecidableEq, Repr

/-- Working variables from a list of eight words. -/
def shaVars {w : Nat} (l : List (BitVec w)) : ShaVars w :=
  ⟨l.getD 0 0, l.getD 1 0, l.getD 2 0, l.getD 3 0, l.getD 4 0, l.getD 5 0, l.getD 6 0, l.getD 7 0⟩

/-- The rotation amounts that tell SHA-256 from SHA-512. -/
structure ShaRot where
  e1 : Nat
  e2 : Nat
  e3 : Nat
  a1 : Nat
  a2 : Nat
  a3 : Nat
  s1 : Nat
  s2 : Nat
  s3 : Nat
  t1 : Nat
  t2 : Nat
  t3 : Nat
  deriving DecidableEq, Repr

def rot256 : ShaRot := ⟨6, 11, 25, 2, 13, 22, 7, 18, 3, 17, 19, 10⟩
def rot512 : ShaRot := ⟨14, 18, 41, 28, 34, 39, 1, 8, 7, 19, 61, 6⟩

/-- The message schedule, newest word first, extended by `n` words. -/
def shaSchedule {w : Nat} (r : ShaRot) : Nat → List (BitVec w) → List (BitVec w)
  | 0, l => l
  | n + 1, l =>
    let x := l.getD 14 0
    let y := l.getD 1 0
    let s0 := x.rotateRight r.s1 ^^^ x.rotateRight r.s2 ^^^ (x >>> r.s3)
    let s1 := y.rotateRight r.t1 ^^^ y.rotateRight r.t2 ^^^ (y >>> r.t3)
    shaSchedule r n ((l.getD 15 0 + s0 + l.getD 6 0 + s1) :: l)

/-- The rounds of one block over constants and schedule. -/
def shaRounds {w : Nat} (r : ShaRot) : List (BitVec w) → List (BitVec w) → ShaVars w → ShaVars w
  | k :: ks, m :: ms, v =>
    let s1 := v.e.rotateRight r.e1 ^^^ v.e.rotateRight r.e2 ^^^ v.e.rotateRight r.e3
    let ch := (v.e &&& v.f) ^^^ (~~~ v.e &&& v.g)
    let t1 := v.h + s1 + ch + k + m
    let s0 := v.a.rotateRight r.a1 ^^^ v.a.rotateRight r.a2 ^^^ v.a.rotateRight r.a3
    let mj := (v.a &&& v.b) ^^^ (v.a &&& v.c) ^^^ (v.b &&& v.c)
    shaRounds r ks ms ⟨t1 + s0 + mj, v.a, v.b, v.c, v.d + t1, v.e, v.f, v.g⟩
  | _, _, v => v

/-- Add working variables onto a hash value. -/
def shaAdd {w : Nat} (x y : ShaVars w) : ShaVars w :=
  ⟨x.a + y.a, x.b + y.b, x.c + y.c, x.d + y.d, x.e + y.e, x.f + y.f, x.g + y.g, x.h + y.h⟩

/-- One block of SHA-2 of word width `w` (`wb` bytes). -/
def shaBlock {w : Nat} (r : ShaRot) (ks : List (BitVec w)) (wb : Nat) (h : ShaVars w) (blk : List Byte) : ShaVars w :=
  let m := (chunks wb 16 blk).map (fun c => BitVec.ofNat w (beNat c))
  shaAdd h (shaRounds r ks (shaSchedule r (ks.length - 16) m.reverse).reverse h)

/-- SHA-2 padding to blocks of `blk` bytes with a length field of `len` bytes. -/
def shaPad (blk len : Nat) (bs : List Byte) : List Byte :=
  let z := (2 * blk - (bs.length + 1 + len) % blk) % blk
  bs ++ [0x80] ++ List.replicate z 0 ++ beBytes len (8 * bs.length)

/-- The hash value as bytes. -/
def shaOut {w : Nat} (wb : Nat) (v : ShaVars w) : List Byte :=
  [v.a, v.b, v.c, v.d, v.e, v.f, v.g, v.h].flatMap (fun x => beBytes wb x.toNat)

/-- SHA-256. -/
def sha256 (bs : List Byte) : List Byte :=
  let p := shaPad 64 8 bs
  shaOut 4 ((chunks 64 (p.length / 64) p).foldl (shaBlock rot256 sha256K 4) (shaVars sha256H))

/-- SHA-512. -/
def sha512 (bs : List Byte) : List Byte :=
  let p := shaPad 128 16 bs
  shaOut 8 ((chunks 128 (p.length / 128) p).foldl (shaBlock rot512 sha512K 8) (shaVars sha512H))

/-- HMAC-SHA-256 (R233, R242). -/
def hmacSha256 (key msg : List Byte) : List Byte :=
  let k0 := if key.length > 64 then sha256 key else key
  let k := k0 ++ List.replicate (64 - k0.length) 0
  sha256 (k.map (· ^^^ 0x5C) ++ sha256 (k.map (· ^^^ 0x36) ++ msg))

/-! ### Ed25519 (RFC 8032) -/

/-- The field prime 2^255 - 19. -/
def edP : Nat := 2 ^ 255 - 19

/-- The group order. -/
def edL : Nat := 2 ^ 252 + 27742317777372353535851937790883648493

/-- `x ^ n` mod `m`, over `fuel` bits of the exponent. -/
def powMod (m : Nat) : Nat → Nat → Nat → Nat
  | 0, _, _ => 1 % m
  | fuel + 1, x, n =>
    let h := powMod m fuel (x * x % m) (n / 2)
    if n % 2 = 1 then x * h % m else h

/-- The curve constant d = -121665 / 121666. -/
def edD : Nat := (edP - 121665) * powMod edP 256 121666 (edP - 2) % edP

/-- A point in extended coordinates. -/
structure EdPoint where
  x : Nat
  y : Nat
  z : Nat
  t : Nat
  deriving DecidableEq, Repr

/-- Point addition. -/
def edAdd (p q : EdPoint) : EdPoint :=
  let a := (p.y + edP - p.x) * (q.y + edP - q.x) % edP
  let b := (p.y + p.x) * (q.y + q.x) % edP
  let c := 2 * p.t * q.t % edP * edD % edP
  let d := 2 * p.z * q.z % edP
  let e := b + edP - a
  let f := d + edP - c
  let g := d + c
  let h := b + a
  ⟨e * f % edP, g * h % edP, f * g % edP, e * h % edP⟩

/-- Scalar multiplication over `fuel` bits. -/
def edMul : Nat → Nat → EdPoint → EdPoint
  | 0, _, _ => ⟨0, 1, 1, 0⟩
  | fuel + 1, n, p =>
    let r := edMul fuel (n / 2) (edAdd p p)
    if n % 2 = 1 then edAdd p r else r

/-- Recover x from y and the sign bit. -/
def edRecoverX (y sign : Nat) : Option Nat :=
  if y ≥ edP then none
  else
    let u := (y * y + edP - 1) % edP
    let v := (edD * (y * y % edP) + 1) % edP
    let x2 := u * powMod edP 256 v (edP - 2) % edP
    if x2 = 0 then (if sign = 1 then none else some 0)
    else
      let x := powMod edP 256 x2 ((edP + 3) / 8)
      let x := if (x * x + edP - x2) % edP = 0 then x else x * powMod edP 256 2 ((edP - 1) / 4) % edP
      if (x * x + edP - x2) % edP ≠ 0 then none
      else some (if x % 2 = sign then x else edP - x)

/-- Decode a 32-byte point. -/
def edDecode (bs : List Byte) : Option EdPoint :=
  let n := leNat (bs.take 32)
  let y := n % 2 ^ 255
  match edRecoverX y (n / 2 ^ 255) with
  | some x => some ⟨x, y, 1, x * y % edP⟩
  | none => none

/-- The base point: y = 4 / 5. -/
def edBase : EdPoint :=
  let y := 4 * powMod edP 256 5 (edP - 2) % edP
  match edRecoverX y 0 with
  | some x => ⟨x, y, 1, x * y % edP⟩
  | none => ⟨0, 1, 1, 0⟩

/-- Two points in extended coordinates are the same point. -/
def edEq (p q : EdPoint) : Bool :=
  (p.x * q.z) % edP == (q.x * p.z) % edP && (p.y * q.z) % edP == (q.y * p.z) % edP

/-- The signature check of RFC 8032: `sig` is a signature of `msg` under the public key `pub`. -/
def edVerify (pub msg sig : List Byte) : Bool :=
  let s := leNat (sig.drop 32)
  match edDecode pub, edDecode (sig.take 32) with
  | some a, some r =>
    let h := leNat (sha512 (sig.take 32 ++ pub ++ msg)) % edL
    sig.length == 64 && pub.length == 32 && decide (s < edL) &&
      edEq (edMul 256 s edBase) (edAdd r (edMul 256 h a))
  | _, _ => false

/-- The inverse in the field. -/
def edInv (x : Nat) : Nat := powMod edP 256 x (edP - 2)

/-- Encode a point in 32 bytes. -/
def edEncode (p : EdPoint) : List Byte :=
  let zi := edInv p.z
  let x := p.x * zi % edP
  let y := p.y * zi % edP
  leBytes 32 (y + x % 2 * 2 ^ 255)

/-- The clamped scalar of a 32-byte secret. -/
def edScalar (h : List Byte) : Nat :=
  let a := leNat (h.take 32) % 2 ^ 254
  a - a % 8 + (if a / 2 ^ 254 % 2 = 1 then 0 else 2 ^ 254)

/-- The public key of a 32-byte secret (RFC 8032). -/
def edPublic (secret : List Byte) : List Byte := edEncode (edMul 256 (edScalar (sha512 secret)) edBase)

/-- Sign a message with a 32-byte secret (RFC 8032). -/
def edSign (secret msg : List Byte) : List Byte :=
  let h := sha512 secret
  let a := edScalar h
  let pub := edEncode (edMul 256 a edBase)
  let r := leNat (sha512 (h.drop 32 ++ msg)) % edL
  let rs := edEncode (edMul 256 r edBase)
  let k := leNat (sha512 (rs ++ pub ++ msg)) % edL
  rs ++ leBytes 32 ((r + k * a) % edL)

end Sys2Proof.Machine
end

