-- ==== Sys2Proof/Machine/Frames.lean ====
section
/-! DEFINITION. The bytes of the frames whose layout the manual leaves to the standards it names: Ethernet with VLAN tag, PRP
trailer and HSR tag, IPv4 and UDP, TRDP, TTDP, PTP, COBS, and the HDLC check (R236, R288 to R307, R320). The layouts are those of
IEEE 802.1Q, IEC 62439-3, RFC 791 and 768, IEC 61375-2-3, IEEE 1588 and ISO/IEC 13239 (PRESUMED, notes/assumptions/46.md). -/
namespace Sys2Proof.Machine

/-! ### Checks -/

/-- One byte of a reflected CRC with polynomial `p`. -/
def crcByte (p c : Word) (b : Byte) : Word :=
  (List.range 8).foldl (fun c _ => if c.getLsbD 0 then (c >>> 1) ^^^ p else c >>> 1) (c ^^^ b.zeroExtend 32)

/-- The HDLC frame check sequence of ISO/IEC 13239, 16 or 32 bits (R320). -/
def hdlcFcs (wide : Bool) (bs : List Byte) : List Byte :=
  if wide then leBytes 4 (~~~ bs.foldl (crcByte 0xEDB88320) 0xFFFFFFFF).toNat
  else leBytes 2 ((bs.foldl (crcByte 0x8408) 0xFFFF) ^^^ 0xFFFF).toNat

/-! ### Ethernet -/

/-- A big-endian field of a frame. -/
def beAt (bs : List Byte) (off n : Nat) : Nat := beNat ((bs.drop off).take n)

/-- Put bytes into a frame. -/
def putBytes (bs : List Byte) (o : Nat) (v : List Byte) : List Byte := bs.take o ++ v ++ bs.drop (o + v.length)

/-- Insert bytes into a frame, and take `n` out. -/
def insertBytes (bs : List Byte) (o : Nat) (v : List Byte) : List Byte := bs.take o ++ v ++ bs.drop o
def cutBytes (bs : List Byte) (o n : Nat) : List Byte := bs.take o ++ bs.drop (o + n)

/-- A frame without FCS: destination, source, EtherType, payload. -/
def ethFrame (dst src type : Nat) (payload : List Byte) : List Byte := beBytes 6 dst ++ beBytes 6 src ++ beBytes 2 type ++ payload

/-- A group address; an address that no bridge forwards. -/
def isGroup (mac : Nat) : Bool := bitAt (mac / 2 ^ 40) 0 == 1
def isReserved (mac : Nat) : Bool := mac / 16 == 0x0180C200000

/-- The priority and the VLAN of a frame's IEEE 802.1Q tag. -/
def vlanTag (bs : List Byte) : Option (Nat × Nat) :=
  if beAt bs 12 2 = 0x8100 then some (beAt bs 14 2 / 2 ^ 13, beAt bs 14 2 % 4096) else none

/-- A frame with the tag of a priority and a VLAN, and without its tag. -/
def setTag (prio vid : Nat) (bs : List Byte) : List Byte := insertBytes bs 12 (beBytes 2 0x8100 ++ beBytes 2 (prio % 8 * 2 ^ 13 + vid % 4096))
def dropTag (bs : List Byte) : List Byte := if (vlanTag bs).isSome then cutBytes bs 12 4 else bs

/-- Offset of the EtherType behind an IEEE 802.1Q tag. -/
def typeOff (bs : List Byte) : Nat := if beAt bs 12 2 = 0x8100 then 16 else 12

/-- The HSR tag of a frame: its sequence number. -/
def hsrSeq (bs : List Byte) : Option Nat :=
  if beAt bs (typeOff bs) 2 = 0x892F then some (beAt bs (typeOff bs + 4) 2) else none

/-- The PRP trailer of a frame: LAN identifier and sequence number. -/
def prpTrailer (bs : List Byte) : Option (Nat × Nat) :=
  let n := bs.length
  if 20 ≤ n ∧ beAt bs (n - 2) 2 = 0x88FB then some (beAt bs (n - 4) 2 / 2 ^ 12, beAt bs (n - 6) 2) else none

/-- The size field of a trailer or tag: the bytes behind the EtherType, and the 6 that are added. -/
def redSize (bs : List Byte) : Nat := (bs.length - typeOff bs - 2 + 6) % 4096

/-- A frame with the PRP trailer of LAN A or B (R291). -/
def addTrailer (lanB : Bool) (seq : Nat) (bs : List Byte) : List Byte :=
  bs ++ beBytes 2 (seq % 65536) ++ beBytes 2 ((if lanB then 0xB else 0xA) * 4096 + redSize bs) ++ beBytes 2 0x88FB

/-- A frame with the HSR tag of the first or the second port of its pair (R291). -/
def addHsr (second : Bool) (seq : Nat) (bs : List Byte) : List Byte :=
  insertBytes bs (typeOff bs) (beBytes 2 0x892F ++ beBytes 2 (b2n second * 4096 + redSize bs) ++ beBytes 2 (seq % 65536))

/-- A frame without what its redundancy added. -/
def dropRed (red : Nat) (bs : List Byte) : List Byte :=
  if red = 1 ∧ (prpTrailer bs).isSome then bs.take (bs.length - 6)
  else if red = 2 ∧ (hsrSeq bs).isSome then cutBytes bs (typeOff bs) 6
  else bs

/-- Offset of the EtherType behind every tag. -/
def payloadType (bs : List Byte) : Nat :=
  match hsrSeq bs with
  | some _ => typeOff bs + 6
  | none => typeOff bs

/-! ### IPv4 and UDP: an address is the number that DEST_IP holds -/

/-- The IPv4 header checksum of `n` bytes at `o`, as if its own field were zero. -/
def ipSum (bs : List Byte) (o n : Nat) : Nat :=
  let t := ((List.range (n / 2)).map (fun i => if i = 5 then 0 else beAt bs (o + 2 * i) 2)).foldl (· + ·) 0
  let t := t % 65536 + t / 65536
  65535 - (t % 65536 + t / 65536)

/-- Replace the IPv4 address at offset `f` of a frame's IP header, with the header checksum. -/
def setIp (bs : List Byte) (f : Nat) (ip : Nat) : List Byte :=
  let o := payloadType bs + 2
  let bs := putBytes bs (o + f) (beBytes 4 ip)
  putBytes bs (o + 10) (beBytes 2 (ipSum bs o (4 * (beAt bs o 1 % 16))))

/-- The MAC address of an IPv4 address: the group address of a multicast; for a station what the address resolution, which
the manual does not describe, has found. -/
def macOf (ip : Nat) : Nat :=
  if ip / 2 ^ 28 = 0xE then 0x01005E000000 + ip % 2 ^ 23 else (Config.arp ip).toNat

/-- A UDP datagram in its Ethernet frame, untagged. -/
def udpFrame (srcMac srcIp dstIp ttl srcPort dstPort : Nat) (payload : List Byte) : List Byte :=
  let n := payload.length
  let h := [0x45, 0] ++ beBytes 2 (n + 28) ++ [0, 0, 0, 0, BitVec.ofNat 8 ttl, 17, 0, 0] ++ beBytes 4 srcIp ++ beBytes 4 dstIp
  ethFrame (macOf dstIp) srcMac 0x0800 (putBytes h 10 (beBytes 2 (ipSum h 0 20)) ++ beBytes 2 srcPort ++ beBytes 2 dstPort ++
    beBytes 2 (n + 8) ++ [0, 0] ++ payload)

/-- A UDP datagram as received. -/
structure Datagram where
  src : Nat
  dst : Nat
  srcPort : Nat
  dstPort : Nat
  data : List Byte
  deriving DecidableEq, Repr

/-- Protocol and, for UDP, datagram of an IPv4 frame without tags; a fragment or a wrong header check is no datagram. -/
def ipProtocol (bs : List Byte) : Option Nat := if beAt bs 12 2 = 0x0800 then some (beAt bs 23 1) else none
def udpOf (bs : List Byte) : Option Datagram :=
  let h := 4 * (beAt bs 14 1 % 16)
  let u := 14 + h
  if ipProtocol bs = some 17 ∧ beAt bs 14 1 / 16 = 4 ∧ 20 ≤ h ∧ beAt bs 20 2 % 2 ^ 14 = 0 ∧ beAt bs 24 2 = ipSum bs 14 h ∧
      8 ≤ beAt bs (u + 4) 2 then
    some ⟨beAt bs 26 4, beAt bs 30 4, beAt bs u 2, beAt bs (u + 2) 2, (bs.drop (u + 8)).take (beAt bs (u + 4) 2 - 8)⟩
  else none

/-! ### TRDP (R296 to R299) -/

/-- UDP ports: PD, MD (R299), command packets (R236). -/
def pdPort : Nat := 17224
def mdPort : Nat := 17225
def cmdPort : Nat := 20548

/-- A PD telegram: header of 40 bytes, dataset. -/
def pdOf (d : Datagram) : PdTelegram :=
  let b := d.data
  { fcsOk := 40 ≤ b.length && decide ((b.drop 36).take 4 = leBytes 4 (Config.headerFcs (b.take 36)).toNat)
    msgType := beAt b 6 2, version := beAt b 4 2, seq := beAt b 0 4, comId := beAt b 8 4
    topo := BitVec.ofNat 32 (beAt b 12 4), length := beAt b 20 4, src := d.src, dst := d.dst, data := b.drop 40 }

/-- An MD PDU of no dataset or some (R299): header of 116 bytes with its check. -/
def mdPdu (kind comId session : Nat) (data : List Byte) : List Byte :=
  let h := beBytes 4 0 ++ [0x01, 0x00] ++ beBytes 2 kind ++ beBytes 4 comId ++ beBytes 4 0 ++ beBytes 4 0 ++
    beBytes 4 data.length ++ beBytes 4 0 ++ beBytes 16 session ++ beBytes 4 0 ++ List.replicate 64 0
  h ++ leBytes 4 (Config.headerFcs h).toNat ++ data

/-- Message type, ComId, session and dataset of an MD PDU. -/
def mdKind (b : List Byte) : Nat := beAt b 6 2
def mdComId (b : List Byte) : Nat := beAt b 8 4
def mdSession (b : List Byte) : Nat := beAt b 28 16
def mdData (b : List Byte) : List Byte := b.drop 116

/-- The MD message of a datagram, where its header check is right: 'Mp', 'Mq', 'Mc' and 'Me' answer a
session, and 'Mq' asks for a confirmation. -/
def mdOf (link : Nat) (d : Datagram) : Option MdMessage :=
  let b := d.data
  if 116 ≤ b.length ∧ (b.drop 112).take 4 = leBytes 4 (Config.headerFcs (b.take 112)).toNat then
    some ⟨link, mdComId b, d.src, decide (mdKind b ∈ [0x4D70, 0x4D71, 0x4D63, 0x4D65]), mdSession b, mdKind b == 0x4D71, b⟩
  else none

/-! ### TTDP (R301) -/

/-- A HELLO: an LLDP frame of the unit. A TOPOLOGY frame: the sender and its neighbours in direction 1 and 2, zero for none. -/
def helloFrame (mac : Nat) : List Byte := ethFrame 0x0180C200000E mac 0x88CC []
def topologyFrame (mac n1 n2 : Nat) : List Byte :=
  ethFrame 0x0180C2000010 mac 0x894C (beBytes 6 mac ++ beBytes 6 n1 ++ beBytes 6 n2)

/-- The ETBNs that the TOPOLOGY frames join to a neighbour `cur` of `prev`, from it outwards, at most `fuel`. -/
def etbWalk (t : List (Nat × Nat × Nat)) : Nat → Nat → Nat → List Nat
  | 0, _, _ => []
  | fuel + 1, prev, cur =>
    cur :: match t.find? (fun e => e.1 == cur) with
      | some e =>
        let next := if e.2.1 = prev then e.2.2 else e.2.1
        if next = 0 then [] else etbWalk t fuel cur next
      | none => []

/-! ### PTP (R305, R306): IEEE 1588 over Ethernet -/

/-- The fields of a grandmaster data set in the order of comparison (R305). -/
def ClockData.key (c : ClockData) : List Nat := [c.prio1, c.class_, c.accuracy, c.variance, c.prio2, c.identity]

/-- Clock `a` is better than `b`: at the first field that differs it is lower. -/
def ClockData.better (a b : ClockData) : Bool :=
  match (a.key.zip b.key).find? (fun p => p.1 != p.2) with
  | some p => decide (p.1 < p.2)
  | none => false

/-- The 34-byte header of a PTP message, and a timestamp of TAI ns. -/
def ptpHeader (kind domain mac len : Nat) : List Byte :=
  [BitVec.ofNat 8 kind, 2] ++ beBytes 2 len ++ [BitVec.ofNat 8 domain, 0] ++ List.replicate 14 0 ++ beBytes 8 (mac * 65536) ++
    beBytes 2 1 ++ beBytes 2 0 ++ [0, 0]
def ptpTime (tai : Nat) : List Byte := beBytes 6 (tai / 1000000000) ++ beBytes 4 (tai % 1000000000)

/-- Sync and Announce of a grandmaster. -/
def syncFrame (mac domain tai : Nat) : List Byte :=
  ethFrame 0x011B19000000 mac 0x88F7 (ptpHeader 0 domain mac 44 ++ ptpTime tai)
def announceFrame (mac domain offset : Nat) (c : ClockData) : List Byte :=
  ethFrame 0x011B19000000 mac 0x88F7 (ptpHeader 0xB domain mac 64 ++ ptpTime 0 ++ beBytes 2 offset ++ [0] ++
    [BitVec.ofNat 8 c.prio1, BitVec.ofNat 8 c.class_, BitVec.ofNat 8 c.accuracy] ++ beBytes 2 c.variance ++
    [BitVec.ofNat 8 c.prio2] ++ beBytes 8 c.identity ++ beBytes 2 0 ++ [0])

/-- The message of the payload of a PTP frame: its domain, and what it tells; other types are the standard's own matter. -/
def ptpDomain (b : List Byte) : Nat := beAt b 4 1
def ptpKind (b : List Byte) : Nat := beAt b 0 1 % 16
def ptpOf (b : List Byte) : Option PtpMsg :=
  match ptpKind b with
  | 0x0 => some (.sync (beAt b 34 6 * 1000000000 + beAt b 40 4 + beAt b 8 8 / 65536))
  | 0xB => some (.announce (beAt b 44 2) ⟨beAt b 47 1, beAt b 48 1, beAt b 49 1, beAt b 50 2, beAt b 52 1, beAt b 53 8⟩)
  | _ => none

/-! ### The source of a command packet (R236) -/

/-- The source of a packet: link, port, address and TRDP session of its sender (notes/assumptions/46.md). -/
def sourceOf (link port ip session : Nat) : Nat := link + 256 * (port + 65536 * (ip + 2 ^ 32 * session))

/-- The parts of a source. -/
def sourceLink (x : Nat) : Nat := x % 256
def sourcePort (x : Nat) : Nat := x / 256 % 65536
def sourceIp (x : Nat) : Nat := x / 2 ^ 24 % 2 ^ 32
def sourceSession (x : Nat) : Nat := x / 2 ^ 56

/-! ### COBS (R236) -/

/-- COBS behind a run of bytes without zero, latest first. -/
def cobsFrom : List Byte → List Byte → List Byte
  | run, [] => BitVec.ofNat 8 (run.length + 1) :: run.reverse
  | run, b :: t =>
    if run.length = 254 then 0xFF :: run.reverse ++ (if b = 0 then 1 :: cobsFrom [] t else cobsFrom [b] t)
    else if b = 0 then BitVec.ofNat 8 (run.length + 1) :: run.reverse ++ cobsFrom [] t
    else cobsFrom (b :: run) t

/-- A packet as CONSOLE carries it: its COBS code and the 0x00 that ends the frame. -/
def cobs (b : List Byte) : List Byte := cobsFrom [] b ++ [0]

/-- The packet of a COBS code, none where the code is broken. -/
def uncobsFrom : Nat → List Byte → Option (List Byte)
  | _, [] => some []
  | 0, _ => none
  | n + 1, c :: t =>
    let k := c.toNat - 1
    let rest := t.drop k
    if c = 0 ∨ t.length < k ∨ (t.take k).any (· == 0) then none
    else (uncobsFrom n rest).map (fun r => t.take k ++ (if c = 0xFF ∨ rest.isEmpty then r else 0 :: r))

/-- The packet of a frame on CONSOLE. -/
def uncobs (b : List Byte) : Option (List Byte) :=
  if b.getLast? = some 0 then uncobsFrom b.length b.dropLast else none

/-- A packet with its CRC-32C recomputed (R232, R475). -/
def packetRecheck (b : List Byte) : List Byte :=
  let n := 12 + leNat ((b.drop 10).take 2)
  putBytes b n (leBytes 4 (crc32c (b.take n)).toNat)

end Sys2Proof.Machine
end

