-- ==== Sys2Proof/Machine/Inject.lean ====
section
/-! DEFINITION. The Link Fault Injector: how a frame passes it, and what leaves the module (spec/21_link_fault_injection.md,
R255, R31). -/
namespace Sys2Proof.Machine

/-! ### Link indices (R255) -/

/-- The link index of En (n = 1 to 11), CANc, SERs and ENCe. -/
def ethLink (n : Nat) : Nat := n - 1
def canLink (c : Nat) : Nat := 14 + c
def serLink (c : Nat) : Nat := 22 + c
def encLink (e : Nat) : Nat := 34 + e

/-- The other link indices. -/
def linkMvbA : Nat := 11
def linkMvbB : Nat := 12
def linkWtbA : Nat := 13
def linkWtbB : Nat := 14
def linkRidgeE : Nat := 41
def linkRidgeW : Nat := 42
def linkCol1 : Nat := 43
def linkCol2 : Nat := 44
def linkPpsIn : Nat := 45
def linkPpsOut : Nat := 46
def linkConsole : Nat := 47

/-- The number of links (R28). -/
def linkCount : Nat := 48

/-- Put something out. -/
def State.emit (s : State) (e : Emit) : State := { s with out := s.out ++ [e] }

/-! ### Selection and actions (R474 to R476) -/

/-- One step of the LFSR (R474). -/
def lfsrStep (x : Word) : Word := if x.getLsbD 0 then (x >>> 1) ^^^ 0xA3000000 else x >>> 1

/-- The low `k` bits of the LFSR are zero. -/
def lfsrHit (x : Word) (k : Nat) : Bool := x.toNat % 2 ^ k == 0

/-- An injection is in force on a link. -/
def State.fiArmed (s : State) (l : Nat) : Bool := s.fld (Reg.FI_CFG_ARMED l) == 1

/-- The injection of a link acts on this direction: DIR 1 RX, 2 TX, 3 both. -/
def State.fiActs (s : State) (l : Nat) (rx : Bool) : Bool :=
  s.fiArmed l && (s.fld (Reg.FI_CFG_DIR l)).getLsbD (if rx then 0 else 1)

/-- Count a frame and say whether it is selected (R474). -/
def State.fiSelect (s : State) (l : Nat) : State × Bool :=
  let n := sgetD 0 s.fi.seen l + 1
  let x := lfsrStep (sgetD 0 s.fi.lfsr l)
  let np := (s.fld (Reg.FI_NPAR l)).toNat
  let s' := { s with fi.seen := ssetD 0 s.fi.seen l n, fi.lfsr := ssetD 0 s.fi.lfsr l x }
  (s', if s.fld (Reg.FI_CFG_SELECT l) = 0 then n % np == 0 else lfsrHit x np)

/-- Frames of this link carry a check that CORRUPT can break (R475): not encoders, and not a UART. -/
def State.linkChecked (s : State) (l : Nat) : Bool :=
  if 35 ≤ l ∧ l ≤ 40 then false
  else if 23 ≤ l ∧ l ≤ 34 then s.fld (Reg.SER_CFG_PROTO (l - 22)) == 1
  else true

/-- The width of the HDLC check of a serial link (R320). -/
def State.wideFcs (s : State) (c : Nat) : Bool := s.fld (Reg.SER_CFG_FCS32 c) == 1

/-- The check that stands in the bytes of a frame recomputed (R475): the CRC-32C of a Ridge or Col frame, on the Ridge with HOPS
as zero (R332, R355); the FCS of an HDLC frame; the CRC-32C of a packet on CONSOLE. -/
def State.recheck (s : State) (l : Nat) (b : List Byte) : List Byte :=
  let body := b.take (b.length - 4)
  if l = linkRidgeE ∨ l = linkRidgeW then body ++ leBytes 4 (crc32c (body.set 1 0)).toNat
  else if l = linkCol1 ∨ l = linkCol2 then body ++ leBytes 4 (crc32c body).toNat
  else if 23 ≤ l ∧ l ≤ 34 then
    let wide := s.wideFcs (l - 22)
    let data := b.take (b.length - (if wide then 4 else 2))
    data ++ hdlcFcs wide data
  else if l = linkConsole then
    match uncobs b with
    | some p => cobs (packetRecheck p)
    | none => b
  else b

/-- CORRUPT on link `l` (R476): bit b of byte j inverted; none for a frame of j bytes or fewer. -/
def State.corruptFrame (s : State) (l : Nat) (f : LinkFrame) (apar : Nat) (checked : Bool) : Option LinkFrame :=
  let j := bitsAt apar 0 12
  if f.bytes.length ≤ j then none
  else
    let bs := f.bytes.set j (f.bytes.getD j 0 ^^^ BitVec.ofNat 8 (2 ^ bitsAt apar 12 3))
    let fix := bitAt apar 15 == 1
    some ⟨if fix ∧ checked then s.recheck l bs else bs, if checked then fix else f.ok⟩

/-- A selected frame is counted and recorded (R476, R481). -/
def State.fiInjected (s : State) (l : Nat) : State :=
  let s := s.bump (Reg.FI_INJCNT l)
  s.report .d .info 0x1003 (srcNo 0x10 l)
    (leBytes 1 (s.fld (Reg.FI_CFG_KIND l)).toNat ++ leBytes 4 (s.fld (Reg.FI_INJCNT l)).toNat)

/-- Held frames are discarded (R476). -/
def State.fiLost (s : State) (n : Nat) : State :=
  if n = 0 then s else (s.bumpBy Reg.FI_HELDLOSTCNT n).flag Reg.FI_EVT_HELD_LOST true

/-- The frames a link holds, and FI_CFG.HOLDING and HELD with them. -/
def State.setHeld (s : State) (l : Nat) (q : List Held) : State :=
  ({ s with fi.held := ssetD [] s.fi.held l q }.flag (Reg.FI_CFG_HOLDING l) (!q.isEmpty)).setFld (Reg.FI_CFG_HELD l)
    (BitVec.ofNat 32 q.length)

/-- A frame meets a REORDER injection (R476): one frame is held at a time, until m further frames have passed. -/
def State.fiReorder (s : State) (l m : Nat) (rx sel : Bool) (f : LinkFrame) : State × List LinkFrame :=
  let s := if sel then s.fiInjected l else s
  match sgetD [] s.fi.held l with
  | [] => if sel then (s.setHeld l [⟨rx, f, m, true⟩], []) else (s, [f])
  | h :: _ =>
    if h.rx ≠ rx then (s, [f])
    else if h.left ≤ 1 then (s.setHeld l [], [f, h.frame])
    else (s.setHeld l [{ h with left := h.left - 1 }], [f])

/-- A frame meets a DELAY injection (R476): at most 16 frames are held, and later frames queue behind. -/
def State.fiDelay (s : State) (l d : Nat) (rx sel : Bool) (f : LinkFrame) : State × List LinkFrame :=
  let s := if sel then s.fiInjected l else s
  let q := sgetD [] s.fi.held l
  if sel ∨ q.any (fun h => h.rx == rx) then
    if 16 ≤ q.length then (s.fiLost 1, []) else (s.setHeld l (q ++ [⟨rx, f, if sel then d else 0, sel⟩]), [])
  else (s, [f])

/-- A frame passes the injector of its link: the frames that go on now, in order (R474 to R476). -/
def State.fiPass (s : State) (l : Nat) (rx : Bool) (f : LinkFrame) : State × List LinkFrame :=
  if !s.fiActs l rx then (s, [f])
  else
    let q := s.fiSelect l
    let s := q.1
    let sel := q.2
    let apar := (s.fld (Reg.FI_APAR l)).toNat
    match (s.fld (Reg.FI_CFG_KIND l)).toNat with
    | 1 => if sel then (s.fiInjected l, []) else (s, [f])
    | 2 =>
      if sel then
        match s.corruptFrame l f apar (s.linkChecked l) with
        | some g => (s.fiInjected l, [g])
        | none => (s, [f])
      else (s, [f])
    | 3 => s.fiReorder l (bitsAt apar 0 4) rx sel f
    | 4 => s.fiDelay l (bitsAt apar 0 17) rx sel f
    | _ => (s, [f])

/-- A frame comes in on a link: RX injections act on it before its subsystem, `h`, sees it (R474). -/
def State.receive (s : State) (l : Nat) (f : LinkFrame) (h : State → LinkFrame → State) : State :=
  let r := s.fiPass l true f
  r.2.foldl h r.1

/-- Send frames on a link behind the injector. -/
def State.putOut (s : State) (l : Nat) (fs : List LinkFrame) : State :=
  { s with out := s.out ++ fs.map (fun f => Emit.frame l f) }

/-- Send a frame on a link: TX injections act on it before it reaches the line (R474). -/
def State.transmit (s : State) (l : Nat) (f : LinkFrame) : State :=
  let r := s.fiPass l false f
  r.1.putOut l r.2

/-! ### Release and removal (R476 to R479) -/

/-- Held frames leave in order: sent, or on their way to the subsystem that receives. -/
def State.fiRelease (s : State) (l : Nat) (hs : List Held) : State :=
  let s := s.putOut l ((hs.filter (fun h => !h.rx)).map (·.frame))
  { s with fi.released := s.fi.released ++ (hs.filter (·.rx)).map (fun h => (l, h.frame)) }

/-- FI_STAT.ANY_ARMED follows the armed links. -/
def State.fiAny (s : State) : State :=
  s.flag Reg.FI_STAT_ANY_ARMED (decide (s.fld Reg.FI_ARMLO_ARMED ≠ 0) || decide (s.fld Reg.FI_ARMHI_ARMED ≠ 0))

/-- The armed bit of a link in FI_ARMLO and FI_ARMHI. -/
def State.fiArmBit (s : State) (l : Nat) (b : Bool) : State :=
  (if l < 32 then s.putBit Reg.FI_ARMLO_ARMED l b else s.putBit Reg.FI_ARMHI_ARMED (l - 32) b).fiAny

/-- The configuration fields of a link's injection. -/
def State.fiConfig (s : State) (l kind dir select npar apar : Nat) : State :=
  let w := fun (n : Nat) => BitVec.ofNat 32 n
  ((((s.setFld (Reg.FI_CFG_KIND l) (w kind)).setFld (Reg.FI_CFG_DIR l) (w dir)).setFld (Reg.FI_CFG_SELECT l)
    (w select)).setFld (Reg.FI_NPAR l) (w npar)).setFld (Reg.FI_APAR l) (w apar)

/-- Remove the injection of a link, if it has one (R477, R481): what it holds is sent at once. -/
def State.fiRemove (s : State) (l cause : Nat) : State :=
  if !s.fiArmed l then s
  else
    let hs := sgetD [] s.fi.held l
    let s := (s.setHeld l []).fiRelease l hs
    let s := ((s.flag (Reg.FI_CFG_ARMED l) false).fiConfig l 0 0 0 0 0).fiArmBit l false
    let s := { s with fi.lfsr := serase s.fi.lfsr l, fi.seen := serase s.fi.seen l }
    s.report .o .info 0x1002 (srcNo 0x10 l) [BitVec.ofNat 8 cause]

/-- Remove the injection of every link. -/
def State.fiRemoveAll (s : State) (cause : Nat) : State :=
  (List.range linkCount).foldl (fun s l => s.fiRemove l cause) s

/-- A link goes down: what its injection holds is discarded (R476). -/
def State.fiLinkDown (s : State) (l : Nat) : State :=
  let q := sgetD [] s.fi.held l
  if q.isEmpty then s else (s.setHeld l []).fiLost q.length

/-- The permit ends (R478, R481). -/
def State.fiPermitEnd (s : State) : State :=
  if s.fi.permitEnd = none then s
  else (((State.flag { s with fi.permitEnd := none } Reg.FI_STAT_PERMIT false).setFld Reg.FI_STAT_PERMIT_LEFT 0).flag
    Reg.FI_EVT_PERMIT_ENDED true).report .o .info 0x1005 (srcNo 0x10 0) []

end Sys2Proof.Machine
end

