-- ==== Sys2Proof/Machine/RingOps.lean ====
section
/-! DEFINITION. The Ring Engine's operations: descriptors, completions, holding queues, halts (spec/11_rings.md). -/
namespace Sys2Proof.Machine

/-! ### Registers of ring n, on page 0x06 + n / 16 (R274) -/

/-- The local index of a ring in its page. -/
def ringBit (n : Nat) : Nat := n % 16

/-- The ring is enabled and no shutdown is in progress (R286, R271). -/
def State.ringOn (s : State) (n : Nat) : Bool :=
  s.fld (Reg.RNG_CFG_ENABLE n) == 1 && !decide (Inst.ring n ∈ s.bus.shutting)

/-- An IN ring; rings 0 and 1 are fixed (R275). -/
def State.ringIsIn (s : State) (n : Nat) : Bool := if n ≤ 1 then n == 1 else s.fld (Reg.RNG_CFG_DIR n) == 1

/-- RNG_CFGn.AGENT (R275). -/
def State.agent (s : State) (n : Nat) : Nat := (s.fld (Reg.RNG_CFG_AGENT n)).toNat

/-- N of a ring: SIZE outside 4 to 12 acts as 4. -/
def State.ringLen (s : State) (n : Nat) : Nat :=
  let z := (s.fld (Reg.RNG_CFG_SIZE n)).toNat
  2 ^ (if 4 ≤ z ∧ z ≤ 12 then z else 4)

/-- HEAD and TAIL. -/
def State.ringHead (s : State) (n : Nat) : Nat := (s.fld (Reg.RNG_PTR_HEAD n)).toNat
def State.ringTail (s : State) (n : Nat) : Nat := (s.fld (Reg.RNG_PTR_TAIL n)).toNat

/-- The number of descriptors the engine owns (R279). -/
def State.ringOwned (s : State) (n : Nat) : Nat := (s.ringTail n + 65536 - s.ringHead n) % 65536

/-- The triad address of the descriptor at a count `i` of a ring, and of the one at HEAD (R276). -/
def State.descAt (s : State) (n i : Nat) : Nat := (s.fld (Reg.RNG_BASE_BASE n)).toNat * 32 + i % s.ringLen n * 32
def State.descAddr (s : State) (n : Nat) : Nat := s.descAt n (s.ringHead n)

/-- A halted ring. -/
def State.ringHalted (s : State) (n : Nat) : Bool := s.fld (Reg.RNG_RSTAT_HALTED n) == 1

/-- The size of the Protected Store in bytes (R19). -/
def psBytes : Nat := 0x04000000

/-! ### Descriptors (R276, R280) -/

/-- The descriptor in four words. -/
def descOf (w0 w1 w3 : DWord) : Desc :=
  { buf := bitsAt w0.toNat 0 32, bufLen := bitsAt w0.toNat 32 16, dataLen := bitsAt w0.toNat 48 16, own := w1.getLsbD 0,
    port := bitsAt w1.toNat 16 16, meta1 := BitVec.ofNat 32 (bitsAt w1.toNat 32 32),
    meta2 := BitVec.ofNat 32 (bitsAt w3.toNat 32 32) }

/-- The halt causes (R284). -/
inductive HaltCause where
  | descUe | dataUe | storeRefused | ownErr | badDesc
  deriving DecidableEq, Repr

def HaltCause.code : HaltCause → Nat
  | .descUe => 1 | .dataUe => 2 | .storeRefused => 3 | .ownErr => 4 | .badDesc => 5

/-- A ring halts at its HEAD descriptor (R284). -/
def State.ringHalt (s : State) (n : Nat) (c : HaltCause) (addr : Nat) : State :=
  let b := ringBit n
  let s := ((s.flag (Reg.RNG_RSTAT_HALTED n) true).setFld (Reg.RNG_RSTAT_CAUSE n) (BitVec.ofNat 32 c.code)).setFld
    (Reg.RNG_HALTADDR_ADDR n) (BitVec.ofNat 32 addr)
  let s := (s.setBit (Reg.RNG_STAT_HALTED (n / 16)) b).setBit (Reg.RNG_EVT_HALT (n / 16)) b
  s.report .d .fault (evCode 6 284 0) (srcNo 6 n) ([BitVec.ofNat 8 c.code] ++ leBytes 4 addr)

/-- The first of some words that reads as ADDRESS, UE or POISON. -/
def firstBad (ws : Sparse (Cls × DWord)) : Option Nat :=
  match ws.find? (fun e => !e.2.1.ok) with
  | some e => some e.1
  | none => none

/-- Read the descriptor at HEAD: the descriptor, or a halt (R280, R284). A base outside the Protected Store halts as a
bad descriptor. -/
def State.readDesc (s : State) (n : Nat) : State × Option Desc :=
  let a := s.descAddr n
  if psBytes < a + 32 then (s.ringHalt n .badDesc a, none)
  else
    let r := s.readMany .ps .ring [a / 8, a / 8 + 1, a / 8 + 3]
    let r2 := r.1.readMany .ps .ring [a / 8 + 2]
    let s := r2.1
    match firstBad r.2, firstBad r2.2 with
    | some w, _ => (s.ringHalt n .descUe (8 * w), none)
    | none, some w => (s.ringHalt n .descUe (8 * w), none)
    | none, none =>
      let g := fun w => ((sget r.2 w).map (·.2)).getD 0
      let d := descOf (g (a / 8)) (g (a / 8 + 1)) (g (a / 8 + 3))
      if !d.own then (s.ringHalt n .ownErr a, none)
      else if d.buf % 8 ≠ 0 ∨ psBytes < d.buf + d.bufLen ∨ d.bufLen = 0 then (s.ringHalt n .badDesc a, none)
      else (s, some d)

/-- The TIME of a descriptor (R276): calendar time, or ns since the start with bit 63 set. -/
def State.descTime (s : State) : Nat :=
  if s.time.utcValid then s.time.utc % 2 ^ 64 else 2 ^ 63 + s.img.ageClock * 250000 % 2 ^ 63

/-- The completion states of a descriptor (R276). -/
inductive DescStatus where
  | ok | truncated | notSent | abandoned
  deriving DecidableEq, Repr

def DescStatus.code : DescStatus → Nat
  | .ok => 0x00 | .truncated => 0x01 | .notSent => 0x02 | .abandoned => 0x80

/-- Write the descriptor at HEAD in four full words (R277). -/
def State.writeDesc (s : State) (n : Nat) (d : Desc) (st : DescStatus) (time : Nat) : State :=
  let a := s.descAddr n / 8
  let w := fun (v : Nat) => BitVec.ofNat 64 v
  let s := s.fullWrite .ps a (w (d.buf + d.bufLen * 2 ^ 32 + d.dataLen * 2 ^ 48))
  let s := s.fullWrite .ps (a + 1) (w ((if st = .ok then 0 else 2) + st.code * 2 ^ 8 + d.port % 2 ^ 16 * 2 ^ 16 +
    d.meta1.toNat * 2 ^ 32))
  let s := s.fullWrite .ps (a + 2) (w time)
  s.fullWrite .ps (a + 3) (w ((s.fld (Reg.RNG_SEQ n)).toNat + d.meta2.toNat * 2 ^ 32))

/-- Complete the descriptor at HEAD, which the engine owns: the descriptor, then HEAD, SEQ and counters, then the event
(R277, R280, R282). A descriptor outside the Protected Store, which a SKIP passes over, is not written. -/
def State.complete (s : State) (n : Nat) (d : Desc) (st : DescStatus) (time : Nat) : State :=
  if s.ringOwned n = 0 then s else
  let seq := (s.fld (Reg.RNG_SEQ n)).toNat
  let s := if psBytes < s.descAddr n + 32 then s else s.writeDesc n d st time
  let s := s.setFld (Reg.RNG_PTR_HEAD n) (BitVec.ofNat 32 ((s.ringHead n + 1) % 65536))
  let s := (s.setFld (Reg.RNG_SEQ n) (BitVec.ofNat 32 (seq + 1))).bump (Reg.RNG_DONECNT n)
  s.setBit (Reg.RNG_EVT_DONE (n / 16)) (ringBit n)

/-! ### Holding queues and drops (R283) -/

/-- The holding queue of a ring. -/
def State.holdOf (s : State) (n : Nat) : List Arrival := sgetD [] s.ring.hold n

/-- Replace the holding queue. -/
def State.setHold (s : State) (n : Nat) (q : List Arrival) : State :=
  { s with ring.hold := ssetD [] s.ring.hold n q }.setFld (Reg.RNG_RSTAT_HOLD n) (BitVec.ofNat 32 q.length)

/-- `k` frames of a ring are dropped (R283). -/
def State.ringDrop (s : State) (n k : Nat) : State :=
  if k = 0 then s
  else
    let s := (s.bumpBy (Reg.RNG_DROPCNT n) k).setBit (Reg.RNG_EVT2_DROP (n / 16)) (ringBit n)
    { s with ring.minute := ssetD 0 s.ring.minute n (sgetD 0 s.ring.minute n + k) }

/-- A frame waits for a descriptor (R283). -/
def State.holdFrame (s : State) (n : Nat) (f : Arrival) : State :=
  let q := s.holdOf n
  if q.length < 4 then s.setHold n (q ++ [f])
  else
    let s := s.ringDrop n 1
    if s.fld (Reg.RNG_CFG_POLICY n) = 1 then s.setHold n (q.drop 1 ++ [f]) else s

/-! ### IN rings (R278) -/

/-- One word of frame data: 8 bytes from offset `8 * i`, zero beyond the data. -/
def frameWord (data : List Byte) (i : Nat) : DWord := BitVec.ofNat 64 (leNat ((data.drop (8 * i)).take 8))

/-- Write the words of a frame into its buffer; the word that was refused, if any (R278, R284). -/
def State.writeFrame (s : State) (d : Desc) (data : List Byte) : Nat → State × Option Nat
  | 0 => (s, none)
  | k + 1 =>
    let r := State.writeFrame s d data k
    match r.2 with
    | some w => (r.1, some w)
    | none =>
      let w := d.buf / 8 + k
      if 8 * k + 8 ≤ d.bufLen then (r.1.fullWrite .ps w (frameWord data k), none)
      else
        let q := r.1.writeWord .ps w (frameWord data k) (BitVec.ofNat 64 (2 ^ (8 * (d.bufLen - 8 * k)) - 1)) .ring
        (q.1, if q.2 then some w else none)

/-- The part of a run of characters that a full buffer leaves for the next descriptor waits before every other frame of the
ring (R322); where the holding queue is full it is handled by the ring's policy, as the frame that came last. -/
def State.holdRest (s : State) (n : Nat) (f : Arrival) : State :=
  let q := s.holdOf n
  if q.length < 4 then s.setHold n (f :: q) else s.holdFrame n f

/-- Place a frame in the descriptor at HEAD of an IN ring; a halt keeps it in hand. An agent's own error completes as
TRUNCATED, and a run of characters ends at a full buffer, its rest in the next (R278, R322). -/
def State.placeFrame (s : State) (n : Nat) (x : Arrival) : State :=
  let r := s.readDesc n
  let f := x.frame
  match r.2 with
  | none => { r.1 with ring.inHand := sput r.1.ring.inHand n x }
  | some d =>
    let cut := decide (d.bufLen < f.data.length)
    let data := f.data.take d.bufLen
    let q := r.1.writeFrame d data ((data.length + 7) / 8)
    match q.2 with
    | some w =>
      let s := q.1.ringHalt n .storeRefused (8 * w)
      { s with ring.inHand := sput s.ring.inHand n x }
    | none =>
      let s := if cut && !x.chars then q.1.bump (Reg.RNG_TRUNCCNT n) else q.1
      let d := { d with dataLen := data.length, port := f.port, meta1 := f.meta1, meta2 := f.meta2 }
      let s := { s with ring.inHand := serase s.ring.inHand n }
      if cut && x.chars then
        (s.complete n d .ok x.time).holdRest n { x with frame := { f with data := f.data.drop d.bufLen } }
      else s.complete n d (if cut || x.err then .truncated else .ok) x.time

/-- An interrupt message waits until every earlier tunnel frame of its station has been completed or dropped (R282, R349). -/
def State.fenced (s : State) (n : Nat) (x : Arrival) : Bool :=
  s.agent n == 8 && (List.range 32).any (fun m => s.agent m == 7 && (s.holdOf m ++ (sget s.ring.inHand m).toList).any (fun y =>
    decide (y.no < x.no) && bitsAt y.frame.port 8 6 == x.frame.port))

/-- The ring can take a frame: not while the masters are stopped (R210). -/
def State.ringTakes (s : State) (n : Nat) : Bool :=
  s.fld Reg.PWR_STAT_STOPPING == 0 && s.ringOn n && s.ringIsIn n && !s.ringHalted n && decide (0 < s.ringOwned n)

/-- Place waiting frames while the ring owns descriptors (R283); each takes one. -/
def State.pump (s : State) (n : Nat) : Nat → State
  | 0 => s
  | k + 1 =>
    match s.holdOf n with
    | [] => s
    | f :: t => if s.ringTakes n && !s.fenced n f then State.pump ((s.setHold n t).placeFrame n f) n k else s

/-! ### Idle points (R287) -/

/-- The holding queue is discarded and counted (R286, R287). -/
def State.dropHold (s : State) (n : Nat) : State := (s.ringDrop n (s.holdOf n).length).setHold n []

/-- The frame in hand is discarded and counted (R285). -/
def State.dropHand (s : State) (n : Nat) : State :=
  match sget s.ring.inHand n with
  | some _ => State.ringDrop { s with ring.inHand := serase s.ring.inHand n } n 1
  | none => s

/-- DIR, SIZE or BASE of a ring has been applied (R287): it begins again with no descriptor, and with no frame. -/
def State.ringRestart (s : State) (n : Nat) : State :=
  (((s.setFld (Reg.RNG_PTR_HEAD n) 0).setFld (Reg.RNG_PTR_TAIL n) 0).dropHold n).dropHand n

/-- DIR, SIZE or BASE of a ring (R287). -/
def ringShape (k : Nat) : Bool :=
  (keyPage k == 6 || keyPage k == 7) &&
    ((keyOff k - 0x40) % 0x30 == 4 || ((keyOff k - 0x40) % 0x30 == 0 && (k % 32 == 1 || k % 32 == 3)))

/-- Keys of ring `n`'s registers. -/
def ringKey (n k : Nat) : Bool :=
  keyPage k == 6 + n / 16 && decide (0x40 + 0x30 * (n % 16) ≤ keyOff k ∧ keyOff k < 0x70 + 0x30 * (n % 16))

/-- The idle point of a ring (R258, R287): POLICY applies between two descriptors; DIR, SIZE and BASE while the engine
owns none, or at once while ENABLE is 0, in both cases with no frame at the agent. -/
def State.ringIdle (s : State) (n : Nat) : State :=
  if (sget s.ring.started n).isSome then s
  else
    let s := if (sget s.ring.inHand n).isSome then s else s.applyStaged (fun k => ringKey n k && !ringShape k)
    let shape := fun k => ringKey n k && ringShape k
    if (s.ringOwned n = 0 ∨ s.fld (Reg.RNG_CFG_ENABLE n) = 0) ∧ s.staged.any (fun e => shape e.1) then
      (s.applyStaged shape).ringRestart n
    else s

/-- What follows on a ring after anything happened to it: waiting frames are placed, its idle point comes, and interrupt
messages that waited for its frames are placed. -/
def State.ringGo (s : State) (n : Nat) : State :=
  let s := (s.pump n (s.ringOwned n)).ringIdle n
  if s.agent n = 7 then
    ((List.range 32).filter (fun m => s.agent m == 8)).foldl (fun (s : State) m => (s.pump m (s.ringOwned m)).ringIdle m) s
  else s

/-- A frame reaches an IN ring at time `time` (R278, R283): written at once, held, or handled by the ring's policy. A ring
that is not enabled, or is no IN ring, takes nothing. -/
def State.arrive (s : State) (n : Nat) (f : AgentFrame) (err chars : Bool) (time : Nat) : State :=
  if !s.ringOn n || !s.ringIsIn n then s
  else
    let x : Arrival := ⟨f, err, chars, time, s.ring.arrivals⟩
    let s := { s with ring.arrivals := s.ring.arrivals + 1 }
    if s.ringTakes n && (s.holdOf n).isEmpty && !s.fenced n x then (s.placeFrame n x).ringGo n else (s.holdFrame n x).ringGo n

/-- A frame of agent `agent` for ring `n`: a ring of another agent takes nothing from it (R275). -/
def State.ringIn (s : State) (n agent : Nat) (f : AgentFrame) : State :=
  if s.agent n = agent then s.arrive n f false false s.descTime else s

/-! ### OUT rings (R279, R280, R284) -/

/-- Read the frame at HEAD of an OUT ring: the descriptor and its data, or a halt. The engine reads nothing beyond the
buffer (R280). -/
def State.takeOut (s : State) (n : Nat) : State × Option (Desc × List Byte) :=
  let r := s.readDesc n
  match r.2 with
  | none => (r.1, none)
  | some d =>
    let len := min d.dataLen d.bufLen
    let q := r.1.readMany .ps .ring ((List.range ((len + 7) / 8)).map (fun i => d.buf / 8 + i))
    match firstBad q.2 with
    | some w => (q.1.ringHalt n .dataUe (8 * w), none)
    | none => (q.1, some (d, (q.2.flatMap (fun e => leBytes 8 e.2.2.toNat)).take len))

/-- The descriptor at a count `i` as its words read, for a completion that repeats its fields after a halt (R277, R285): of a
word that cannot be corrected, its bits as they stand (notes/assumptions/45.md). -/
def State.rawDescAt (s : State) (n i : Nat) : Desc :=
  let a := s.descAt n i / 8
  let g := fun w => let c := s.mem.code .ps w; if (c.cls w).ok then corrected w c else c.data
  descOf (g a) (g (a + 1)) (g (a + 3))
def State.rawDesc (s : State) (n : Nat) : Desc := s.rawDescAt n (s.ringHead n)

/-- The agent takes the frame: its descriptor, as read, completes when it has been sent (R277). -/
def State.startOut (s : State) (n : Nat) (f : AgentFrame) (d : Desc) : State :=
  { s with ring.started := sput s.ring.started n ⟨f, d⟩ }

/-- The frame of an OUT ring that is with its agent ends (R277). -/
def State.completeOut (s : State) (n : Nat) (st : DescStatus) : State :=
  match sget s.ring.started n with
  | some x => (State.complete { s with ring.started := serase s.ring.started n } n x.desc st s.descTime).ringGo n
  | none => s

/-! ### Posts and resets of a ring -/

/-- A post takes effect (R279): a count that would own more than N descriptors is ignored whole. -/
def State.post (s : State) (n count : Nat) : State :=
  if s.ringLen n < s.ringOwned n + count then s.setBit (Reg.RNG_EVT2_POSTERR (n / 16)) (ringBit n)
  else (s.setFld (Reg.RNG_PTR_TAIL n) (BitVec.ofNat 32 ((s.ringTail n + count) % 65536))).ringGo n

/-- The halt of a ring is lifted (R285). -/
def State.ringResume (s : State) (n : Nat) : State :=
  ((s.flag (Reg.RNG_RSTAT_HALTED n) false).setFld (Reg.RNG_RSTAT_CAUSE n) 0).clrBit (Reg.RNG_STAT_HALTED (n / 16))
    (ringBit n)

/-- RESUME (R285): the halting descriptor is processed again from its beginning, where the engine still owns it; else the
frame that was being written is discarded. -/
def State.resume (s : State) (n : Nat) : State :=
  if !s.ringHalted n then s
  else
    let s := s.ringResume n
    match sget s.ring.inHand n with
    | some x => (if s.ringTakes n then s.placeFrame n x else s.dropHand n).ringGo n
    | none => s.ringGo n

/-- SKIP (R285): the halting descriptor, where the engine still owns it, completes as ABANDONED and the ring goes on. -/
def State.skip (s : State) (n : Nat) : State :=
  if !s.ringHalted n then s
  else
    let s := s.ringResume n
    let time := match sget s.ring.inHand n with
      | some x => x.time
      | none => s.descTime
    ((s.complete n (s.rawDesc n) .abandoned time).dropHand n).ringGo n

/-! ### The mailbox (R16, R423) -/

/-- A mailbox message (R423): TYPE, LEN and the payload. -/
def mailMessage (type : Nat) (p : List Byte) : List Byte := [BitVec.ofNat 8 type, 0] ++ leBytes 2 p.length ++ p

/-- The supervisor can post to a mailbox ring: it works in its direction, is not halted, and has a descriptor left whose buffer
takes `len` bytes. Its buffers stand in its descriptors (notes/assumptions/45.md). -/
def State.mailReady (s : State) (n len : Nat) : Bool :=
  let d := s.rawDescAt n (s.ringTail n)
  s.ringOn n && s.ringIsIn n == (n == 29) && s.agent n == 0x0A && !s.ringHalted n && decide (s.ringOwned n < s.ringLen n) &&
    decide (s.descAt n (s.ringTail n) + 32 ≤ psBytes ∧ d.buf % 8 = 0 ∧ d.buf + d.bufLen ≤ psBytes ∧ len ≤ d.bufLen)

/-- The supervisor posts one descriptor of a mailbox ring with `len` bytes of data. -/
def State.mailPost (s : State) (n len : Nat) : State :=
  let a := s.descAt n (s.ringTail n) / 8
  let d := s.rawDescAt n (s.ringTail n)
  let s := s.fullWrite .ps a (BitVec.ofNat 64 (d.buf + d.bufLen * 2 ^ 32 + len * 2 ^ 48))
  (s.fullWrite .ps (a + 1) 1).post n 1

/-- A message of the supervisor for Trig passes ring 28: written into the buffer, posted, read by the engine, and completed. -/
def State.toTrig (s : State) (type : Nat) (payload : List Byte) : State :=
  let m := mailMessage type payload
  if s.mailReady 28 m.length then
    let r := State.takeOut ((s.writeFrame (s.rawDescAt 28 (s.ringTail 28)) m ((m.length + 7) / 8)).1.mailPost 28 m.length) 28
    match r.2 with
    | none => r.1
    | some (d, b) => ((r.1.startOut 28 ⟨b, 0, 0, 0⟩ d).emit (.mailbox type b)).completeOut 28 .ok
  else s.emit (.mailbox type m)

/-- A message of Trig for the supervisor passes ring 29 (R423). -/
def State.fromTrig (s : State) (type : Nat) (payload : List Byte) : State :=
  let m := mailMessage type payload
  (if s.mailReady 29 m.length then (s.mailPost 29 0).ringIn 29 0x0A ⟨m, 0, 0, 0⟩ else s).emit (.mailbox type m)

end Sys2Proof.Machine
end

