-- ==== Sys2Proof/Machine/Images.lean ====
section
/-! DEFINITION. The three images: group writes, latch, commit, forces and lost sources (spec/03_process_image.md, R504). -/
namespace Sys2Proof.Machine

/-! ### Where a signal lies (R71) -/

/-- The code word and the bit of a signal's bit-plane bit. -/
def bitLoc (id : Nat) : Nat × Nat := (id / 64, id % 64)

/-- The code word and the lowest bit of a signal's word-plane word. -/
def wordLoc (id : Nat) : Nat × Nat := (wordPlane + id / 2, 32 * (id % 2))

/-- The code word and the lowest bit of a signal's status byte. -/
def statLoc (id : Nat) : Nat × Nat := (statusPlane + id / 8, 8 * (id % 8))

/-- The code word and the bit of a signal's edge bit (R72). -/
def edgeLoc (id : Nat) : Nat × Nat := (edgePlane + id / 64, id % 64)

/-- `v` placed at bit `lo` of a 64-bit word. -/
def at64 (v lo : Nat) : DWord := BitVec.ofNat 64 (v * 2 ^ lo)

/-- The `n` bits at `lo` of a 64-bit word. -/
def get64 (d : DWord) (lo n : Nat) : Nat := bitsAt d.toNat lo n

/-! ### Writes that may cover part of a code word (R504) -/

/-- What a write puts where: data and mask by word address. -/
abbrev Patch := Sparse (DWord × DWord)

/-- Add `n` bits of `v` at `loc` to a patch. -/
def Patch.add (p : Patch) (loc : Nat × Nat) (n v : Nat) : Patch :=
  let m := at64 (2 ^ n - 1) loc.2
  let old := sgetD (0, 0) p loc.1
  sput p loc.1 (mergeBits old.1 (at64 v loc.2) m, old.2 ||| m)

/-- The IDs whose data or status lies in the part of word `w` that `mask` does not cover. -/
def restIds (w : Nat) (mask : DWord) : List Nat :=
  if w < wordPlane then (List.range 64).filterMap (fun i => if mask.getLsbD i then none else some (64 * w + i))
  else if w < statusPlane then
    (List.range 2).filterMap (fun j => if get64 mask (32 * j) 32 = 0 then some (2 * (w - wordPlane) + j) else none)
  else if w < edgePlane then
    (List.range 8).filterMap (fun j => if get64 mask (8 * j) 8 = 0 then some (8 * (w - statusPlane) + j) else none)
  else []

/-- The pages of region 3 that hold what goes with a live signal beside its code words: its source-invalid and its
source-lost flag and its age (R365, notes/assumptions/15.md). -/
def flagPage (id : Nat) : Nat := (edgePlane + id / 64) / 512
def lostPage (id : Nat) : Nat := (reservePlane + id / 64) / 512
def agePage (id : Nat) : Nat := 384 + id / 2048

/-- The flags and the age of a live signal change. -/
def State.dirtyId (s : State) (id : Nat) : State :=
  ((s.dirtyPage (pageKey 3 (flagPage id))).dirtyPage (pageKey 3 (lostPage id))).dirtyPage (pageKey 3 (agePage id))

/-- The source-invalid flag of a live signal is set (R76). -/
def State.sourceInvalid (s : State) (a : Arr) (id : Nat) : State :=
  if a = .live then State.dirtyId { s with img.valid := serase s.img.valid id } id else s

/-- The IDs whose status bytes a word of the status plane holds. -/
def statusIds (w : Nat) : List Nat := (List.range 8).map (fun j => 8 * (w - statusPlane) + j)

/-- Mark a signal not valid in an image (R504): its status byte is set to 0x00 by a partial write of its own, which clears the
seven beside it where their word does not read, and does nothing where the word came from a wrong address; in the live image
the source-invalid flag is set. -/
def State.markInvalid (s : State) (a : Arr) (m : Master) (id : Nat) : State :=
  let loc := statLoc id
  let c := s.mem.code a loc.1
  let s := s.account a loc.1 m
  match c.cls loc.1 with
  | .clean | .ce =>
    (s.fullWrite a loc.1 (mergeBits (corrected loc.1 c) 0 (at64 0xFF loc.2))).sourceInvalid a id
  | .ue | .poison => (statusIds loc.1).foldl (fun s i => s.sourceInvalid a i) (s.fullWrite a loc.1 0)
  | .address => s.sourceInvalid a id

/-- One write of part or all of a code word of an image (R504). -/
def State.patchWord (s : State) (a : Arr) (w : Nat) (data mask : DWord) (m : Master) : State :=
  if mask = BitVec.allOnes 64 then s.fullWrite a w data
  else
    let c := s.mem.code a w
    match c.cls w with
    | .clean | .ce => (s.account a w m).fullWrite a w (mergeBits (corrected w c) data mask)
    | .ue | .poison =>
      (restIds w mask).foldl (fun s id => s.markInvalid a m id) ((s.account a w m).fullWrite a w (data &&& mask))
    | .address => s.account a w m

/-- Write a patch into an image, word by word. -/
def State.applyPatch (s : State) (a : Arr) (p : Patch) (m : Master) : State :=
  p.foldl (fun s e => s.patchWord a e.1 e.2.1 e.2.2 m) s

/-! ### Acquisition into the live image (R68, R75, R76, R78) -/

/-- One value of an acquisition group: `data` is what is written to the location of its type, none for a status only. -/
structure Sample where
  id : Nat
  data : Option (Bool × Word)
  valid : Bool
  quality : Nat
  deriving DecidableEq, Repr

/-- The patch of a data location: (WORD?, value). -/
def Patch.data (p : Patch) (id : Nat) (d : Bool × Word) : Patch :=
  if d.1 then p.add (wordLoc id) 32 d.2.toNat else p.add (bitLoc id) 1 (b2n (d.2.getLsbD 0))

/-- The live status byte after a valid delivery: QUALITY and VALID; SRC_LOST is cleared. -/
def liveStatus (quality : Nat) : Nat := quality % 8 * 32 + 1

/-- What one sample writes: a value marked invalid updates only QUALITY (R76). -/
def Sample.patch (x : Sample) (p : Patch) : Patch :=
  if x.valid then
    let p := p.add (statLoc x.id) 8 (liveStatus x.quality)
    match x.data with
    | some d => p.data x.id d
    | none => p
  else p.add ((statLoc x.id).1, (statLoc x.id).2 + 5) 3 (x.quality % 8)

/-- Age and source-invalid flag after a sample (R75, R76). -/
def Images.mark (m : Images) (x : Sample) : Images :=
  if x.valid then
    { m with delivered := sput m.delivered x.id (m.ageClock + 65536), valid := sput m.valid x.id true }
  else { m with valid := serase m.valid x.id }

/-- Write one group into the live image (R78). -/
def State.applyGroup (s : State) (xs : List Sample) : State :=
  let s := s.applyPatch .live (xs.foldl (fun p x => x.patch p) []) .cycleEngine
  xs.foldl (fun (s : State) x => s.dirtyId x.id) { s with img := xs.foldl Images.mark s.img }

/-- The age of a signal now (R75): 0xFFFF for one without a source. -/
def State.age (s : State) (id : Nat) : Nat :=
  match sget s.img.srcOf id, sget s.img.delivered id with
  | some _, some t => min 0xFFFF (s.img.ageClock + 65536 - t)
  | _, _ => 0xFFFF

/-- The unit of loss declaration that a lost source belongs to: the enabled channels of a missing group are one. -/
def State.lostUnit (s : State) (x : Src) : Src :=
  match x with
  | .channel n =>
    if s.bit Reg.TLI_FGSTAT_MISSING ((n - 1) / 8) ∧ s.fld (Reg.FCH_CFG_ENABLE n) = 1 then .fieldGroup ((n - 1) / 8 + 1) else x
  | _ => x

/-- PI_STAT.LOST_SRC follows the lost sources. -/
def State.countLost (s : State) : State :=
  s.setFld Reg.PI_STAT_LOST_SRC (BitVec.ofNat 32 (min 0xFFFF (s.img.lost.map s.lostUnit).eraseDups.length))

/-- The IDs a source feeds. -/
def Images.idsOf (m : Images) (x : Src) : List Nat := (m.srcOf.filter (fun p => decide (p.2 = x))).map (·.1)

/-- Declare a source lost: one group that sets SRC_LOST of its signals (R78, R88). -/
def State.loseSource (s : State) (x : Src) : State :=
  if x ∈ s.img.lost then s.countLost
  else
    let p := (s.img.idsOf x).foldl (fun p id => Patch.add p ((statLoc id).1, (statLoc id).2 + 4) 1 1) []
    let s := { s.applyPatch .live p .cycleEngine with img.lost := s.img.lost ++ [x] }.countLost
    (s.img.idsOf x).foldl (fun (s : State) id => s.dirtyId id) s

/-- A lost source is regained (R88, R89). -/
def State.regainSource (s : State) (x : Src) : State :=
  if x ∈ s.img.lost then
    let p := (s.img.idsOf x).foldl (fun p id => Patch.add p ((statLoc id).1, (statLoc id).2 + 4) 1 0) []
    let s := { s.applyPatch .live p .cycleEngine with img.lost := s.img.lost.filter (fun y => decide (y ≠ x)) }.countLost
    (s.img.idsOf x).foldl (fun (s : State) id => s.dirtyId id) s
  else s

/-! ### The active program's tables -/

/-- A signal table entry from its 12 bytes (R91); reserved bits and the binary32 hint are ignored (R9). -/
def sigEntryOf (b : List Byte) : SigEntry :=
  let x := leNat (b.take 4)
  ⟨bitsAt x 0 18, bitAt x 18 == 1, bitsAt x 20 2, BitVec.ofNat 32 (leNat ((b.drop 4).take 4)), leNat ((b.drop 8).take 2)⟩

/-- The entries of the signal table (R91). -/
def Image.signals (p : Image) : List SigEntry :=
  (List.range (p.table.length / 12)).map (fun i => sigEntryOf ((p.table.drop (12 * i)).take 12))

/-- The signal table entry of an ID. -/
def Image.sig (p : Image) (id : Nat) : Option SigEntry := p.signals.find? (fun e => e.id == id)

/-- Whether an ID lies in a range. -/
def Range.has (r : Range) (id : Nat) : Bool := r.first ≤ id && id ≤ r.last

/-- Whether an ID lies in one of the ranges. -/
def inRanges (rs : List Range) (id : Nat) : Bool := rs.any (fun r => r.has id)

/-- The task table entry of Tn; a missing one is a task not in use. -/
def Image.task (p : Image) (n : Nat) : TaskDef :=
  p.tasks.getD n ⟨false, 1, 0, 0, 0, false, 8, 0, [], [], 0, 0⟩

/-- A signal is a WORD in the signal table; one that it does not list is a BOOL (R90). -/
def Image.isWord (p : Image) (id : Nat) : Bool := (p.sig id).any (·.word)

/-- Where the data of a signal lie: at the location of its type (R68). -/
def Image.dataLoc (p : Image) (id : Nat) : Nat × Nat := if p.isWord id then wordLoc id else bitLoc id

/-- Whether an ID lies in a declared output range of a task other than `n`. DESIGN CHOICE: the ranges of a task that is not
enabled in the table count for the tests of PRG_VERIFY only, and not here (notes/assumptions/43.md). -/
def Image.otherOutput (p : Image) (n id : Nat) : Bool :=
  (List.range 7).any (fun j => j != n && (p.task j).enable && inRanges (p.task j).outputs id)

/-- Whether an ID lies in a declared input or output range of a task other than `n` (R107). -/
def Image.otherRange (p : Image) (n id : Nat) : Bool :=
  (List.range 7).any (fun j => j != n && (p.task j).enable &&
    (inRanges (p.task j).inputs id || inRanges (p.task j).outputs id))

/-- The IDs of a range. -/
def Range.ids (r : Range) : List Nat := (List.range (r.last + 1 - r.first)).map (fun i => r.first + i)

/-- The code words that hold the data and the status of the signals of a range, each once. -/
def Image.rangeWords (p : Image) (r : Range) : List Nat :=
  (r.ids.map (fun i => (p.dataLoc i).1)).eraseDups ++ (r.ids.map (fun i => (statLoc i).1)).eraseDups

/-- A signal as read out of an image: its data and status, none where a code word of it is uncorrectable (R199). -/
def readSig (ws : Sparse (Cls × DWord)) (word : Bool) (id : Nat) : Option (Word × Nat) :=
  let dl := if word then wordLoc id else bitLoc id
  match sget ws dl.1, sget ws (statLoc id).1 with
  | some (k, d), some (k', st) =>
    if k.ok && k'.ok then some (BitVec.ofNat 32 (get64 d dl.2 (if word then 32 else 1)), get64 st (statLoc id).2 8)
    else none
  | _, _ => none

/-! ### Latch (R79 to R81) -/

/-- The force in effect for an ID and a scope bit (0 latch, 1 commit). -/
def Images.forced (m : Images) (id bit : Nat) : Option Word :=
  match m.forces.find? (fun f => f.id == id && bitAt f.scope bit == 1) with
  | some f => some f.value
  | none => none

/-- What a latch delivers for one signal: value, status, and the age recorded. -/
structure Latched where
  value : Word
  status : Nat
  deriving DecidableEq, Repr

/-- The substitute value of a signal (R80); `hold` is the last valid value. DESIGN CHOICE: the reserved policy 3, which no
rule refuses or defines, acts as HOLD (notes/assumptions/43.md). -/
def substitute (e : Option SigEntry) (hold : Word) : Word :=
  match e with
  | some x => if x.policy = 1 then x.default else if x.policy = 2 then 0 else hold
  | none => hold

/-- The stale limit of a signal: its table entry, or PI_CFG.DEF_STALE for a signal with a source and no limit. -/
def State.staleLimit (s : State) (e : Option SigEntry) (id : Nat) : Nat :=
  match e with
  | some x => if x.stale ≠ 0 then x.stale
    else if (sget s.img.srcOf id).isSome then (s.fld Reg.PI_CFG_DEF_STALE).toNat else 0
  | none => if (sget s.img.srcOf id).isSome then (s.fld Reg.PI_CFG_DEF_STALE).toNat else 0

/-- A signal latched from its source (R79, the live branch). `got` is none where the live word is uncorrectable: the
signal is delivered as if its source were lost, and HOLD delivers zero (R199). -/
def State.latchLive (s : State) (e : Option SigEntry) (id : Nat) (got : Option (Word × Nat)) : Latched :=
  let v := match got with | some x => x.1 | none => 0
  let q := match got with | some x => x.2 / 32 | none => 0
  let lost := got.isNone || (match sget s.img.srcOf id with | some x => decide (x ∈ s.img.lost) | none => true)
  let lim := s.staleLimit e id
  let stl := decide (0 < lim ∧ lim < s.age id)
  let st := q * 32 + (if lost then 0x10 else 0) + (if stl then 0x02 else 0)
  match s.img.forced id 0 with
  | some f => ⟨f, st + 0x05⟩
  | none =>
    if !lost && !stl && sgetD false s.img.valid id then ⟨v, st + 0x01⟩
    else ⟨substitute e v, st + 0x08⟩

/-- A signal latched from another task's committed outputs (R79, R38). -/
def State.latchCommitted (s : State) (e : Option SigEntry) (id : Nat) (got : Option (Word × Nat)) : Latched :=
  let base : Latched := match got with
    | some x => ⟨x.1, x.2⟩
    | none => ⟨substitute e 0, 0x18⟩
  match s.img.forced id 0 with
  | some f => ⟨f, base.status ||| 0x05⟩
  | none => base

/-- Latch one declared input range of task `n` (R41 step 3, R79): each signal at the data location of its type (R68). -/
def State.latchRange (s : State) (p : Image) (n : Nat) (r : Range) : State :=
  let ids := r.ids
  let com := ids.any (p.otherOutput n)
  let live := ids.any (fun i => !p.otherOutput n i)
  let ws := p.rangeWords r
  let rl := if live then s.readMany .live .cycleEngine ws else (s, [])
  let rc := if com then rl.1.readMany .com .cycleEngine ws else (rl.1, [])
  let s := rc.1
  let out := ids.map (fun id =>
    (id, if p.otherOutput n id then s.latchCommitted (p.sig id) id (readSig rc.2 (p.isWord id) id)
         else s.latchLive (p.sig id) id (readSig rl.2 (p.isWord id) id)))
  let patch := out.foldl (fun (q : Patch) x => (q.data x.1 (p.isWord x.1, x.2.value)).add (statLoc x.1) 8 x.2.status) []
  let s := s.applyPatch .img patch .cycleEngine
  let s := s.bumpBy Reg.PI_SUBSTCNT (out.countP (fun x => bitAt x.2.status 3 == 1))
  let s := s.bumpBy Reg.PI_STALECNT (out.countP (fun x => bitAt x.2.status 1 == 1))
  { s with img.latchAge := ids.foldl (fun a id => ssetD 0xFFFF a id (s.age id)) s.img.latchAge }

/-- Latch the declared input ranges of task `n`. -/
def State.latch (s : State) (p : Image) (n : Nat) : State :=
  (p.task n).inputs.foldl (fun s r => s.latchRange p n r) s

/-! ### Commit (R82, R88) -/

/-- The committed data and status of one output (R82): STALE, SUBST and SRC_LOST are cleared; a force replaces the data
and sets VALID and FORCED; an uncorrectable word is committed as zero with status 0x00 (R199). -/
def State.commitSig (s : State) (id : Nat) (got : Option (Word × Nat)) : Latched :=
  let base : Latched := match got with
    | some x => ⟨x.1, x.2 &&& 0xE5⟩
    | none => ⟨0, 0⟩
  match s.img.forced id 1 with
  | some f => ⟨f, base.status ||| 0x05⟩
  | none => base

/-- Commit one declared output range: each signal at the data location of its type (R68). -/
def State.commitRange (s : State) (p : Image) (r : Range) : State :=
  let rd := s.readMany .img .cycleEngine (p.rangeWords r)
  let s := rd.1
  let patch := r.ids.foldl (fun (q : Patch) id =>
    let x := s.commitSig id (readSig rd.2 (p.isWord id) id)
    (q.data id (p.isWord id, x.value)).add (statLoc id) 8 x.status) []
  s.applyPatch .com patch .cycleEngine

/-- The number of output signals of task `n` that are addressed to a station declared lost (R88). -/
def State.lostOutputs (s : State) (p : Image) (n : Nat) : Nat :=
  ((s.img.dstOf.filter (fun d => inRanges (p.task n).outputs d.1 && decide (Src.station d.2 ∈ s.img.lost))).map
    (·.1)).eraseDups.length

/-- Commit the declared output ranges of task `n` (R44, R82). -/
def State.commit (s : State) (p : Image) (n : Nat) : State :=
  let s := (p.task n).outputs.foldl (fun s r => s.commitRange p r) s
  s.bumpBy Reg.PI_LOSTDISCCNT (s.lostOutputs p n)

/-! ### Forces (R83 to R85) -/

/-- Insert a force in ascending ID order; an entry of the same ID keeps its SCOPE (R83). -/
def insertForce (f : Force) : List Force → List Force
  | [] => [f]
  | g :: t => if f.id < g.id then f :: g :: t else if f.id = g.id then { f with scope := g.scope } :: t
    else g :: insertForce f t

/-- One change of the force table, taking effect at tick `k` (R84). -/
def applyForce (k : Nat) (fs : List Force) : ForceChange → List Force
  | .set f => insertForce { f with tick := k % 2 ^ 32 } fs
  | .remove id => fs.filter (fun g => g.id != id)
  | .removeAll => []

/-- PI_STAT follows the force table. -/
def State.forceStat (s : State) : State :=
  ((s.setFld Reg.PI_STAT_FORCES (BitVec.ofNat 32 s.img.forces.length)).flag Reg.PI_STAT_FORCE_ACTIVE
    (!s.img.forces.isEmpty)).flag Reg.PI_STAT_FORCE_PENDING (!s.img.forceWait.isEmpty)

/-- The waiting changes of the force table take effect (R84). -/
def State.applyForces (s : State) : State :=
  let s := if s.img.forceWait.isEmpty then s else (List.range 16).foldl (fun (s : State) i => s.dirtyPage (pageKey 5 i)) s
  { s with img.forces := s.img.forceWait.foldl (applyForce s.time.tick) s.img.forces, img.forceWait := [] }.forceStat

/-- Every force is removed when the module leaves TEST, with a record of their number (R85). -/
def State.removeForces (s : State) : State :=
  { s with img.forces := [], img.forceWait := [] }.forceStat.report .o .info (evCode 3 85 0) (srcNo 3 0)
    (leBytes 4 s.img.forces.length)

/-! ### Clearing (R92, R93) -/

/-- Write-backs of some arrays that wait are cancelled by writes of every word, and counted (R504). -/
def State.cancelAll (s : State) (p : Arr → Bool) : State :=
  { s with mem.wb := s.mem.wb.filter (fun (b : WriteBack) => !p b.arr) }.bumpBy Reg.PS_WBCANCEL_CNT (s.mem.wb.countP (fun (b : WriteBack) => p b.arr))

/-- Clear every image at a start: zero data, status 0x10 in the live image, ages 0xFFFF, sources invalid (R76, R92). -/
def State.clearImages (s : State) : State :=
  let s := s.cancelAll (fun a => decide (a = .img ∨ a = .live ∨ a = .com))
  { s with mem.img := [], mem.live := [], mem.com := [],
           img := { s.img with ageClock := 0, delivered := [], valid := [], latchAge := [], lost := [], forces := [],
                               forceWait := [] } }

/-- Clear Image RAM, edge memory and the committed image on entry into RUN or TEST from STOPPED (R93); the MVB source ports
hold no committed value yet. -/
def State.clearForRun (s : State) : State :=
  let s := s.cancelAll (fun a => decide (a = .img ∨ a = .com))
  { s with mem.img := [], mem.com := [], img.latchAge := [], bus.mvbSrc := [] }

end Sys2Proof.Machine
end

