-- ==== Sys2Proof/Machine/Acquire.lean ====
section
/-! DEFINITION. Datasets and their field tables (R294, R295), the Col link's sending side (R355, R361), and how a group
reaches the live image of an active, a standby or an unpaired unit (R78, R361, R362). -/
namespace Sys2Proof.Machine

/-! ### Field entries (R294, R295) -/

/-- A field entry: KIND 0 BOOL, 1 U8, 2 S8, 3 U16, 4 S16, 5 WORD32, 6 STATUS. -/
structure FieldEntry where
  id : Nat
  kind : Nat
  off : Nat
  bit : Nat
  deriving DecidableEq, Repr

/-- The field entry at offset `off` of a block. -/
def confField (c : Sparse Byte) (block off : Nat) : FieldEntry :=
  let x := confNat c block off 4
  ⟨bitsAt x 0 18, bitsAt x 18 3, confNat c block (off + 4) 2, confNat c block (off + 6) 1⟩

/-- `count` field entries from index `first` of the table at `base`. -/
def confFields (c : Sparse Byte) (block base first count : Nat) : List FieldEntry :=
  (List.range count).map (fun i => confField c block (base + 8 * (first + i)))

/-- The bytes a field takes. -/
def FieldEntry.size (f : FieldEntry) : Nat :=
  match f.kind with
  | 3 | 4 => 2
  | 5 => 4
  | _ => 1

/-- The field carries the word of its signal (and not its bit or its status). -/
def FieldEntry.word (f : FieldEntry) : Bool := decide (1 ≤ f.kind ∧ f.kind ≤ 5)

/-- The most significant byte first, or the least. -/
def orderBytes (big : Bool) (bs : List Byte) : List Byte := if big then bs.reverse else bs

/-- The code words a field reads. -/
def FieldEntry.words (f : FieldEntry) : List Nat :=
  if f.kind = 6 then [(statLoc f.id).1]
  else if f.word then [(wordLoc f.id).1, (statLoc f.id).1] else [(bitLoc f.id).1, (statLoc f.id).1]

/-- Put a field's value into a dataset; `data` is none where the committed word is uncorrectable, which gives zero. -/
def FieldEntry.put (f : FieldEntry) (big : Bool) (data : Option Word) (status : Nat) (ds : List Byte) : List Byte :=
  let v := (data.getD 0).toNat
  let put := fun (ds : List Byte) (e : Nat × Byte) => ds.set (f.off + e.1) e.2
  match f.kind with
  | 0 => if v % 2 = 1 then ds.set f.off (ds.getD f.off 0 ||| BitVec.ofNat 8 (2 ^ f.bit)) else ds
  | 6 => ds.set f.off (BitVec.ofNat 8 (status &&& 0xE1))
  | _ => ((List.range f.size).zip (orderBytes big (leBytes f.size v))).foldl put ds

/-- Build a dataset of `len` bytes from the committed image (R295, R336); `off` sends zero data with VALID clear. -/
def State.buildData (s : State) (fs : List FieldEntry) (len : Nat) (big off : Bool) : State × List Byte :=
  let zero := List.replicate len (0 : Byte)
  if off then (s, zero)
  else
    let r := s.readMany .com .cycleEngine ((fs.flatMap (·.words)).eraseDups)
    (r.1, fs.foldl (fun ds f =>
      match readSig r.2 f.word f.id with
      | some x => f.put big (some x.1) x.2 ds
      | none => match sget r.2 (statLoc f.id).1, f.kind with
        | some (k, d), 6 => f.put big none (if k.ok then get64 d (statLoc f.id).2 8 else 0) ds
        | _, _ => f.put big none 0 ds) zero)

/-- The value of a data field in a received dataset (R295). -/
def FieldEntry.get (f : FieldEntry) (big : Bool) (ds : List Byte) : Word :=
  let v := leNat (orderBytes big ((ds.drop f.off).take f.size))
  match f.kind with
  | 0 => b2w ((ds.getD f.off 0).getLsbD f.bit)
  | 2 => sx (BitVec.ofNat 8 v)
  | 4 => sx (BitVec.ofNat 16 v)
  | _ => BitVec.ofNat 32 v

/-- The samples of a received dataset: QUALITY 1 and VALID unless the entry carries a STATUS field for the signal
(R297, R337). -/
def parseData (fs : List FieldEntry) (big : Bool) (ds : List Byte) : List Sample :=
  (fs.filter (fun f => f.kind ≠ 6)).map (fun f =>
    let st := match fs.find? (fun g => g.kind == 6 && g.id == f.id) with
      | some g => (ds.getD g.off 0).toNat
      | none => 0x21
    ⟨f.id, some (f.word, f.get big ds), bitAt st 0 == 1, st / 32⟩)

/-! ### Col frames sent (R355, R354) -/

/-- The bytes of a Col frame. -/
def ColFrame.bytes (f : ColFrame) : List Byte :=
  [BitVec.ofNat 8 f.type, BitVec.ofNat 8 (b2n f.active)] ++ leBytes 2 f.seq ++ leBytes 2 f.payload.length ++
    leBytes 2 f.epoch ++ leBytes 4 f.tick ++ f.payload

/-- A Col frame on its lane: its CRC-32C follows (R355); `ok` is false for one whose CRC is wrong. -/
def ColFrame.wire (f : ColFrame) (ok : Bool) : LinkFrame :=
  ⟨f.bytes ++ leBytes 4 (crc32c f.bytes ^^^ (if ok then 0 else 1)).toNat, ok⟩

/-- The CRC-32C at the end of a Col frame is right. -/
def colChecks (b : List Byte) : Bool :=
  let body := b.take (b.length - 4)
  decide (16 ≤ b.length) && b.drop (b.length - 4) == leBytes 4 (crc32c body).toNat

/-- The Col link can carry frames: enabled, with at least one lane. -/
def State.colUp (s : State) : Bool :=
  s.fld Reg.COL_CTRL_ENABLE == 1 && (s.fld Reg.COL_STAT_LANE1_UP == 1 || s.fld Reg.COL_STAT_LANE2_UP == 1)

/-- The lane the next frame leaves on: alternating, or the one that is up. -/
def State.colLane (s : State) : Bool :=
  if s.fld Reg.COL_STAT_LANE1_UP = 0 then true else if s.fld Reg.COL_STAT_LANE2_UP = 0 then false else s.col.lane

/-- Send a Col frame. -/
def State.colSend (s : State) (type : Nat) (payload : List Byte) : State :=
  if !s.colUp then s
  else
    let st := (s.fld Reg.COL_STAT_STATE).toNat
    let epoch := if 3 ≤ st then (s.fld Reg.COL_STAT_EPOCH).toNat else 0
    let f : ColFrame := ⟨type, s.pairRole == 1, s.col.txSeq, epoch, s.time.tick % 2 ^ 32, payload⟩
    let l := s.colLane
    let s := { s with col.txSeq := (s.col.txSeq + 1) % 65536, col.lane := !l }
    s.transmit (if l then linkCol2 else linkCol1) (f.wire true)

/-- COL_STAT.STATE. -/
def State.colState (s : State) : Nat := (s.fld Reg.COL_STAT_STATE).toNat

/-- Put COL_STAT.STATE. -/
def State.setColState (s : State) (n : Nat) : State := s.setFld Reg.COL_STAT_STATE (BitVec.ofNat 32 n)

/-! ### Groups (R78, R361, R362) -/

/-- The number of a source, as GROUP carries it (R356). -/
def Src.code : Src → Nat
  | .station n => 0x10000 + n | .pdSub n => 0x20000 + n | .mvbSink n => 0x30000 + n | .wtbNode n => 0x40000 + n
  | .fieldGroup g => 0x50000 + g | .channel n => 0x60000 + n | .tlGroup g => 0x70000 + g | .encoder e => 0x80000 + e
  | .safety => 0x90000 | .trig => 0xA0000 | .status => 0xB0000

/-- The source of a number. -/
def srcOfCode (c : Nat) : Option Src :=
  let n := c % 0x10000
  match c / 0x10000 with
  | 1 => some (.station n) | 2 => some (.pdSub n) | 3 => some (.mvbSink n) | 4 => some (.wtbNode n)
  | 5 => some (.fieldGroup n) | 6 => some (.channel n) | 7 => some (.tlGroup n) | 8 => some (.encoder n)
  | 9 => some .safety | 10 => some .trig | 11 => some .status
  | _ => none

/-- A group: samples of a source, or the declaration that it is lost or regained (R78, R88). -/
inductive Group where
  | data (xs : List Sample)
  | lost
  | regained (xs : List Sample)
  deriving DecidableEq, Repr

/-- The bytes of a sample in a GROUP frame. -/
def Sample.bytes (x : Sample) : List Byte :=
  leBytes 4 x.id ++
    [BitVec.ofNat 8 (b2n x.valid + (match x.data with | some d => 2 + 4 * b2n d.1 | none => 0) + x.quality % 8 * 32)] ++
    leBytes 4 (match x.data with | some d => d.2.toNat | none => 0)

/-- The bytes of a group behind its source code. -/
def Group.bytes : Group → List Byte
  | .data xs => 0 :: xs.flatMap Sample.bytes
  | .lost => [1]
  | .regained xs => 2 :: xs.flatMap Sample.bytes

/-- Read samples of 9 bytes each. -/
def samplesOf : Nat → List Byte → List Sample
  | 0, _ => []
  | n + 1, bs =>
    let fl := (bs.getD 4 0).toNat
    ⟨leNat (bs.take 4), if bitAt fl 1 = 1 then some (bitAt fl 2 == 1, BitVec.ofNat 32 (leNat ((bs.drop 5).take 4))) else none,
      bitAt fl 0 == 1, fl / 32⟩ :: samplesOf n (bs.drop 9)

/-- Read a group. -/
def groupOf : List Byte → Group
  | [] => .data []
  | b :: t =>
    let xs := samplesOf (t.length / 9) t
    if b = 1 then .lost else if b = 2 then .regained xs else .data xs

/-- Write a group into the live image. -/
def State.putGroup (s : State) (x : Src) : Group → State
  | .data xs => s.applyGroup xs
  | .lost => s.loseSource x
  | .regained xs => (s.regainSource x).applyGroup xs

/-- The GROUP payload of a group. -/
def groupPayload (x : Src) (g : Group) : List Byte := leBytes 4 x.code ++ g.bytes

/-- Write a received or deferred GROUP payload into the live image. -/
def State.putGroupBytes (s : State) (p : List Byte) : State :=
  match srcOfCode (leNat (p.take 4)) with
  | some x => s.putGroup x (groupOf (p.drop 4))
  | none => s

/-- The stream cap of a tick in bytes (R361). -/
def streamCap : Nat := 131072

/-- The active writes a group and streams it to its standby, or keeps it for the next tick (R361). -/
def State.streamGroup (s : State) (x : Src) (g : Group) : State :=
  let p := groupPayload x g
  let n := s.col.streamBytes + p.length + 12
  if !s.col.deferred.isEmpty ∨ streamCap < n then
    ((State.flag { s with col.deferred := s.col.deferred ++ [p] } Reg.COL_EVT_DEFER true).bump Reg.COL_DEFERCNT)
  else
    let s := { s with col.streamBytes := n, col.groupsSince := s.col.groupsSince + 1 }
    let s := if (s.fld Reg.COL_STREAMMAX).toNat < n then s.setFld Reg.COL_STREAMMAX (BitVec.ofNat 32 n) else s
    (s.colSend 0x06 p).putGroup x g

/-- A group of a source arrives from this unit's own acquisition (R78, R362). -/
def State.acquire (s : State) (x : Src) (g : Group) : State :=
  if !s.mode.acquires then s
  else if s.follows then { s with col.own := sput s.col.own x.code (groupPayload x g) }
  else if s.colState = 5 then s.streamGroup x g
  else s.putGroup x g

/-- The source is lost as this unit's own supervision sees it. -/
def State.ownLost (s : State) (x : Src) : Bool :=
  if s.follows then
    match sget s.col.own x.code with
    | some p => decide (groupOf (p.drop 4) = .lost)
    | none => false
  else decide (x ∈ s.img.lost)

/-- A group of a source that its supervision had declared lost regains it (R89). -/
def State.deliver (s : State) (x : Src) (xs : List Sample) : State :=
  s.acquire x (if s.ownLost x then .regained xs else .data xs)

/-! ### The digest of a pair (R363) -/

/-- The bytes of one committed range as the digest takes them: data, then status. -/
def State.rangeBytes (s : State) (r : Range) : List Byte :=
  let d := fun w => let c := s.mem.code .com w; if (c.cls w).ok then corrected w c else 0
  let ids := r.ids
  (if r.word then ids.flatMap (fun i => leBytes 4 (get64 (d (wordLoc i).1) (wordLoc i).2 32))
   else (List.range (r.last / 8 + 1 - r.first / 8)).flatMap (fun i =>
     let b := r.first / 8 + i
     leBytes 1 (get64 (d (b / 8)) (8 * (b % 8)) 8))) ++
  ids.flatMap (fun i => leBytes 1 (get64 (d (statLoc i).1) (statLoc i).2 8))

/-- A commit of task `n` feeds the digest of a synchronised pair. -/
def State.feedDigest (s : State) (n : Nat) (rs : List Range) : State :=
  { s with col.digest := s.col.digest.map (fun c => crcRun c (BitVec.ofNat 8 n :: rs.flatMap s.rangeBytes)) }

/-- D(k) closes and D(k + 1) begins at the boundary of tick `k + 1`. -/
def State.turnDigest (s : State) (next : Nat) : State :=
  let on := s.colState == 5 || s.colState == 6
  { s with col.digestPrev := s.col.digest.map (fun c => ~~~ c),
           col.digest := if on then some (crcRun 0xFFFFFFFF (leBytes 8 next)) else none }

end Sys2Proof.Machine
end

