-- ==== Sys2Proof/Machine/Field.lean ====
section
/-! DEFINITION. The Field Channel Unit's operations: classification, filters, outputs, protections, diagnostics and group
states (spec/15_field_channels.md). -/
namespace Sys2Proof.Machine

/-! ### Channels and groups (R375, R376) -/

/-- The group of a channel, 1 to 8, and the channels of a group. -/
def groupOfChan (n : Nat) : Nat := (n - 1) / 8 + 1
def chansOf (g : Nat) : List Nat := (List.range 8).map (fun i => 8 * (g - 1) + 1 + i)

/-- The mode of a channel; 7 acts as OFF. -/
def State.chanMode (s : State) (n : Nat) : Nat :=
  let m := (s.fld (Reg.FCH_CFG_MODE n)).toNat
  if m = 7 then 0 else m

/-- A safety function owns the channel. -/
def State.claimed (s : State) (n : Nat) : Bool := s.fld (Reg.FCH_STAT_SF_CLAIMED n) == 1

/-- The channel works: enabled and not shutting down, or owned by the Safety Function Unit (R388). -/
def State.chanOn (s : State) (n : Nat) : Bool :=
  s.chanMode n != 0 && (s.claimed n ||
    (s.fld (Reg.FCH_CFG_ENABLE n) == 1 && !decide (Inst.fch n ∈ s.bus.shutting)))

/-- Input and output modes. -/
def modeIsInput (m : Nat) : Bool := m == 1 || m == 2 || m == 5
def modeIsOutput (m : Nat) : Bool := m == 3 || m == 4 || m == 6

/-- DIAG in force: 2 for a safety channel, 3 acts as 2 (R376, R383). -/
def State.chanDiag (s : State) (n : Nat) : Nat :=
  let d := (s.fld (Reg.FCH_CFG_DIAG n)).toNat
  if s.claimed n ∨ d = 3 then 2 else d

/-- The state of a channel. -/
def State.chan (s : State) (n : Nat) : ChanRt := sgetD ChanRt.start s.field.chan n

/-- Replace the state of a channel. -/
def State.setChan (s : State) (n : Nat) (c : ChanRt) : State :=
  { s with field.chan := ssetD ChanRt.start s.field.chan n c }

/-- MISSING and LP_LOW of a group (R386). -/
def State.missing (s : State) (g : Nat) : Bool := s.bit Reg.TLI_FGSTAT_MISSING (g - 1)
def State.lpLow (s : State) (g : Nat) : Bool := s.bit Reg.TLI_FGSTAT_LP_LOW (g - 1)

/-- The signal named by a signal word of configuration block 0x13 at `off` (R391). -/
def State.cfgSignal (s : State) (block off : Nat) : Option Nat :=
  let x := s.cfg block off 4
  if bitAt x 31 = 1 then some (bitsAt x 0 18) else none

/-- The signals of a channel (R391). -/
def State.chanValue (s : State) (n : Nat) : Option Nat := s.cfgSignal 0x13 (16 * (n - 1) + 4)
def State.chanReadback (s : State) (n : Nat) : Option Nat := s.cfgSignal 0x13 (16 * (n - 1) + 8)
def State.chanDiagSig (s : State) (n : Nat) : Option Nat := s.cfgSignal 0x13 (16 * (n - 1) + 12)

/-! ### Classification and filters (R378, R379, R389) -/

/-- A sample between the limits counts as the previous one. -/
def classify (on off v : Int) (prev : Bool) : Bool := if on ≤ v then true else if v ≤ off then false else prev

/-- FILTER: 0 acts as 1, above 200 as 200. -/
def filterLen (n : Nat) : Nat := if n = 0 then 1 else min n 200

/-- One sample through a filter: last sample, filtered value and run (R379). -/
def filterStep (len : Nat) (x raw filt : Bool) (run : Nat) : Bool × Bool × Nat :=
  let run := if x = raw then min 255 (run + 1) else 1
  (x, if filterLen len ≤ run then x else filt, run)

/-- The ON threshold of a channel mode in mV. -/
def onLevel (m : Nat) : Int := if m = 1 then 15000 else 11000

/-- The ON and OFF thresholds of a train-line RANGE; 3 acts as 2 (R389, R390). -/
def lineLevels (r : Nat) : Int × Int :=
  match r with
  | 0 => (14400, 7200) | 1 => (43200, 21600) | _ => (66000, 33000)

/-! ### Reports (R382, R384) -/

/-- The conditions of a channel. -/
inductive Cond where
  | opens | ext | overload | thermal | groupOverload
  deriving DecidableEq, Repr

/-- The status bit and the sticky bit of a condition. -/
def Cond.stat (c : Cond) (n : Nat) : Nat :=
  match c with
  | .opens => Reg.FCH_STAT_OPEN n | .ext => Reg.FCH_STAT_EXT_VOLTAGE n | .overload => Reg.FCH_STAT_OVERLOAD n
  | .thermal => Reg.FCH_STAT_THERMAL n | .groupOverload => Reg.FCH_STAT_GROUP_OVERLOAD n

def Cond.sticky (c : Cond) (n : Nat) : Nat :=
  match c with
  | .opens => Reg.FCH_DIAG_OPEN n | .ext => Reg.FCH_DIAG_EXT_VOLTAGE n | .overload => Reg.FCH_DIAG_OVERLOAD n
  | .thermal => Reg.FCH_DIAG_THERMAL n | .groupOverload => Reg.FCH_DIAG_GROUP_OVERLOAD n

/-- A condition is reported now. -/
def State.has (s : State) (n : Nat) (c : Cond) : Bool := s.fld (c.stat n) == 1

/-- The onset of a condition or latch: bits, count and record; WARN for a condition (R384), FAULT for a latch (R382). -/
def State.onset (s : State) (n : Nat) (c : Cond) : State :=
  let sev := match c with | .thermal | .groupOverload => Severity.fault | _ => Severity.warn
  let i := match c with | .opens => 0 | .ext => 1 | .overload => 2 | .thermal => 3 | .groupOverload => 4
  (((s.flag (c.stat n) true).flag (c.sticky n) true).bump (Reg.FCH_FLTCNT n)).report .d sev (evCode 11 384 i)
    (srcNo 11 n) []

/-- A channel with a fault under R383. -/
def State.chanFault (s : State) (n : Nat) : Bool :=
  s.has n .opens || s.has n .ext || s.has n .overload || s.has n .thermal || s.has n .groupOverload

/-- A latched protection holds (R382). -/
def State.latched (s : State) (n : Nat) : Bool := s.has n .thermal || s.has n .groupOverload

/-- TLI_FGSTAT.OVERLOAD follows the latches of a group. -/
def State.groupLatch (s : State) (g : Nat) : State :=
  s.putBit Reg.TLI_FGSTAT_OVERLOAD (g - 1) ((chansOf g).any (fun n => s.has n .groupOverload))

/-- Switch an output: a change restarts the waits of R383. -/
def State.drive (s : State) (n : Nat) (on : Bool) : State :=
  if s.fld (Reg.FCH_STAT_DRIVE n) = b2w on then s
  else
    let c := s.chan n
    (s.setChan n { c with since := 0, opens := 0, noOpen := 0, ext := 0, noExt := 0 }).flag (Reg.FCH_STAT_DRIVE n) on

/-- Every output of the module goes off by hardware (R225). -/
def State.outputsOff (s : State) : State :=
  (List.range 64).foldl (fun s i => s.drive (i + 1) false) s

/-! ### One scan of one channel -/

/-- Count a condition and its absence. -/
def tally (x : Bool) (yes no : Nat) : Nat × Nat := if x then (min 255 (yes + 1), 0) else (0, min 255 (no + 1))

/-- What a scan samples at a channel: levels, filter, readback, and the conditions' counts (R378, R379, R382, R383). A
channel that is not diagnosed is without the condition; while a switched output settles, nothing is counted. -/
def State.sampleChan (s : State) (n : Nat) (p : Pin) : State :=
  let m := s.chanMode n
  let c := s.chan n
  let driven := s.fld (Reg.FCH_STAT_DRIVE n) == 1
  let x := classify (onLevel m) 5000 p.mv c.raw
  let on := s.chanOn n && !s.missing (groupOfChan n)
  let f := if on ∧ modeIsInput m then
      if c.live then filterStep (s.fld (Reg.FCH_CFG_FILTER n)).toNat x c.raw c.filt c.run else (x, x, 1)
    else (x, c.filt, c.run)
  let tested := (m == 4 || m == 6) && on && s.chanDiag n == 2
  let wait := tested && decide (c.since < 200)
  let o := tally (tested && (if driven then decide (p.load < 50) else decide (2000 ≤ p.mv ∧ p.mv ≤ 12000))) c.opens c.noOpen
  let e := tally (tested && !driven && decide (12000 < p.mv)) c.ext c.noExt
  let l := tally (p.limiting && driven) c.limit c.noLimit
  let c := { c with
    raw := f.1, filt := f.2.1, run := f.2.2, mv := p.mv, back := classify 11000 5000 p.mv c.back
    live := on && (c.live || modeIsInput m)
    opens := if wait then 0 else o.1, noOpen := if wait then 0 else o.2
    ext := if wait then 0 else e.1, noExt := if wait then 0 else e.2
    limit := l.1, noLimit := l.2, since := min 100000 (c.since + 1) }
  let s := s.setChan n c
  let s := if s.has n .overload ∧ 10 ≤ c.noLimit then s.flag (Reg.FCH_STAT_OVERLOAD n) false else s
  s.flag (Reg.FCH_STAT_LEVEL n) (s.chanOn n && (if modeIsInput m then c.filt else c.back))

/-- The committed command of an output: its value and its VALID (R381). An output without a value signal is commanded
off; it has no committed value that could be invalid. -/
def State.outputCmd (s : State) (n : Nat) : State × Bool × Bool :=
  match s.chanValue n with
  | none => (s, false, true)
  | some id =>
    let r := s.readMany .com .cycleEngine [(bitLoc id).1, (statLoc id).1]
    match readSig r.2 false id with
    | some x => (r.1, x.1.getLsbD 0, bitAt x.2 0 == 1)
    | none => (r.1, false, false)

/-- A field scan at which a channel is commanded off: its latches end (R382). -/
def State.unlatch (s : State) (n : Nat) : State :=
  if s.latched n then
    ((s.flag (Reg.FCH_STAT_THERMAL n) false).flag (Reg.FCH_STAT_GROUP_OVERLOAD n) false).groupLatch (groupOfChan n)
  else s

/-- Drive one DO or DO_DIAG channel (R381, R382, R387, R388). The Safety Function Unit drives the outputs it owns;
every other channel is off. -/
def State.driveChan (s : State) (n : Nat) : State :=
  let m := s.chanMode n
  if m = 6 ∧ s.claimed n then s
  else if (m ≠ 3 ∧ m ≠ 4) ∨ !s.chanOn n then
    (((s.drive n false).unlatch n).flag (Reg.FCH_STAT_INVALID_CMD n) false)
  else
    let r := s.outputCmd n
    let s := r.1.flag (Reg.FCH_STAT_INVALID_CMD n) (!r.2.2)
    let cmd := s.drives && r.2.1 && r.2.2 && !s.missing (groupOfChan n) && !(s.chan n).waits
    if s.latched n then
      if cmd then s.drive n false else (s.drive n false).unlatch n
    else s.drive n cmd

/-- A commit of the value signal of an output that waits for one (R387), its group present: it waits no more. -/
def State.commitSeen (s : State) (rs : List Range) : State :=
  s.field.chan.foldl (fun s e =>
    if e.2.waits ∧ !s.missing (groupOfChan e.1) then
      match s.chanValue e.1 with
      | some id => if inRanges rs id then s.setChan e.1 { s.chan e.1 with waits := false } else s
      | none => s
    else s) s

/-! ### Group writes (R379, R386, R391) -/

/-- The low 12 bits of FCH_STATn, as the diagnostic signal carries them. -/
def State.chanStatus (s : State) (n : Nat) : Word :=
  regWord (fun k => s.fld k) 0x13 (0x10 * (n - 1) + 4) (fieldsAt 0x13 (0x10 * (n - 1) + 4)) &&& 0xFFF

/-- The QUALITY of a channel's readback and diagnostic signals: BAD while a condition is reported (R384), but always GOOD
with DIAG NONE (R383). -/
def State.chanQuality (s : State) (n : Nat) : Nat := if s.chanFault n ∧ s.chanDiag n ≠ 0 then 3 else 1

/-- A channel that is not OFF delivers its signals: enabled or owned, or an output that is shutting down (R376, R388). -/
def State.chanDelivers (s : State) (n : Nat) : Bool :=
  s.chanOn n || (modeIsOutput (s.chanMode n) && decide (Inst.fch n ∈ s.bus.shutting))

/-- What a channel delivers that its group's supply carries: an input's filtered value, and the readback. -/
def State.chanSamples (s : State) (n : Nat) : List Sample :=
  let c := s.chan n
  let bad := s.chanFault n && decide (1 < s.chanDiag n)
  let q := if bad then 3 else 1
  (match s.chanValue n with
   | some id => if modeIsInput (s.chanMode n) ∧ !s.claimed n then [⟨id, some (false, b2w c.filt), !bad, q⟩] else []
   | none => []) ++
  (match s.chanReadback n with
   | some id => [⟨id, some (false, b2w c.back), true, s.chanQuality n⟩]
   | none => [])

/-- The diagnostic signal of a channel; an OFF channel delivers none (R376). -/
def State.diagSamples (s : State) (n : Nat) : List Sample :=
  match s.chanDiagSig n with
  | some id => if s.chanDelivers n then [⟨id, some (true, s.chanStatus n), true, s.chanQuality n⟩] else []
  | none => []

/-- The supply signal of a group. -/
def State.supplySamples (s : State) (g : Nat) : List Sample :=
  match s.cfgSignal 0x13 (0x400 + 4 * (g - 1)) with
  | some id => [⟨id, some (true, BitVec.ofNat 32 (sgetD SupplyRt.zero s.field.supply g).mv), true, 1⟩]
  | none => []

/-- The group write of a scan: the channels of the group that work and are supplied, and the supply signal; a channel
that comes back is regained with it. -/
def State.writeGroup (s : State) (g : Nat) : State :=
  let on := (chansOf g).filter (fun n => s.chanDelivers n && !s.missing g)
  let back := on.filter (fun n => s.ownLost (.channel n))
  let s := back.foldl (fun s n => s.acquire (.channel n) (.regained (s.chanSamples n))) s
  let rest := on.filter (fun n => !decide (n ∈ back))
  s.acquire (.fieldGroup g)
    (.data (rest.flatMap s.chanSamples ++ (chansOf g).flatMap s.diagSamples ++ s.supplySamples g))

/-- A channel's input and readback are lost (R386, R388). -/
def State.loseChan (s : State) (n : Nat) : State :=
  if (s.chanValue n).isSome ∨ (s.chanReadback n).isSome then s.acquire (.channel n) .lost else s

/-! ### Supplies (R382, R386) -/

/-- Measure a group's supply. -/
def State.sampleSupply (s : State) (g : Nat) (p : Supply) : State :=
  let c := sgetD SupplyRt.zero s.field.supply g
  let t := tally (decide (p.mv < 19200)) c.low c.notLow
  let c : SupplyRt := ⟨p.mv, t.1, t.2, if 20000 < p.mv then min 255 (c.high + 1) else 0,
    if 2000 < p.ma then min 255 (c.excess + 1) else 0⟩
  let s : State := { s with field.supply := ssetD SupplyRt.zero s.field.supply g c }
  let s := (s.setFld (Reg.TLI_FGVOLT_VOLT g) (BitVec.ofNat 32 (p.mv / 10))).setFld (Reg.TLI_FGVOLT_CURRENT g)
    (BitVec.ofNat 32 p.ma)
  if s.lpLow g ∧ 10 ≤ c.notLow then s.clrBit Reg.TLI_FGSTAT_LP_LOW (g - 1) else s

/-- GROUP_LOW and GROUP_MISSING of a group's channels, shown from DIAG GROUP on (R383). -/
def State.groupBits (s : State) (g : Nat) : State :=
  (chansOf g).foldl (fun s n =>
    let show' := decide (1 ≤ s.chanDiag n)
    (s.flag (Reg.FCH_STAT_GROUP_LOW n) (show' && s.lpLow g)).flag (Reg.FCH_STAT_GROUP_MISSING n) (show' && s.missing g)) s

/-! ### Train lines (R389, R390) -/

/-- A train-line group works. -/
def State.lineOn (s : State) (t : Nat) : Bool :=
  s.fld (Reg.TLI_GCFG_ENABLE t) == 1 && !decide (Inst.tli t ∈ s.bus.shutting)

/-- Sample one train-line input `i` (1 to 16) of an enabled group. -/
def State.sampleLine (s : State) (i : Nat) (mv : Int) : State :=
  let t := (i - 1) / 4 + 1
  let c := sgetD LineRt.zero s.field.lines i
  let lv := lineLevels (s.fld (Reg.TLI_GCFG_RANGE t)).toNat
  let f := filterStep (s.fld (Reg.TLI_GCFG_FILTER t)).toNat (classify lv.1 lv.2 mv c.raw) c.raw c.filt c.run
  let s := if f.2.1 ≠ c.filt then s.bump (Reg.TLI_EDGECNT t) else s
  ({ s with field.lines := ssetD LineRt.zero s.field.lines i ⟨f.1, f.2.1, f.2.2⟩ }).putBit Reg.TLI_STAT_LEVEL (i - 1)
    f.2.1

/-- The scan of a train-line group: one group write, or the declaration that its inputs are lost. -/
def State.scanLines (s : State) (t : Nat) (mvs : List Int) : State :=
  let ids := (List.range 4).map (fun j => 4 * (t - 1) + j + 1)
  if s.lineOn t then
    let s := ids.foldl (fun s i => s.sampleLine i (mvs.getD (i - 1) 0)) s
    s.deliver (.tlGroup t) (ids.filterMap (fun i =>
      match s.cfgSignal 0x13 (0x420 + 4 * (i - 1)) with
      | some id => some ⟨id, some (false, b2w (s.bit Reg.TLI_STAT_LEVEL (i - 1))), true, 1⟩
      | none => none))
  else if s.ownLost (.tlGroup t) then s
  else s.acquire (.tlGroup t) .lost

end Sys2Proof.Machine
end

