-- ==== Sys2Proof/Machine/Ports.lean ====
section
/-! DEFINITION. The egress side of the Ethernet switch: ports, VLANs, queues, redundancy, and the frames of the internal port
(spec/12_train_network.md R288 to R291). Where block 0x08 holds what the manual gives no layout for is said in
notes/assumptions/13.md. -/
namespace Sys2Proof.Machine

/-! ### Settings of block 0x08 without a layout in the manual -/

/-- Unit and publication MAC address (R290). -/
def State.unitMac (s : State) : Nat := beNat ((List.range 6).map (fun i => confByte s.cmd.config 0x08 (0x1000 + i)))
def State.pubMac (s : State) : Nat := beNat ((List.range 6).map (fun i => confByte s.cmd.config 0x08 (0x1010 + i)))

/-- Unit and publication IP address, as DEST_IP holds an address. -/
def State.unitIp (s : State) : Nat := s.cfg 0x08 0x1008 4
def State.pubIp (s : State) : Nat := s.cfg 0x08 0x1018 4

/-- The 8 EtherTypes of ring 31 (R300); zero is none. -/
def State.rawTypes (s : State) : List Nat :=
  ((List.range 8).map (fun i => s.cfg 0x08 (0x1020 + 2 * i) 2)).filter (· != 0)

/-- The two lists of ComIds of R299. -/
def State.mdList (s : State) (k : Nat) : List Nat :=
  (List.range (min 64 (s.cfg 0x08 (0x1030 + 2 * k) 2))).map (fun i => s.cfg 0x08 (0x1034 + 0x100 * k + 4 * i) 4)

/-- The static multicast table: address and port mask, bit `n - 1` for port En. -/
def State.staticGroups (s : State) : List (Nat × Nat) :=
  (List.range (min 512 (s.cfg 0x08 0x1300 2))).map (fun i =>
    (beNat ((List.range 6).map (fun j => confByte s.cmd.config 0x08 (0x1308 + 8 * i + j))), s.cfg 0x08 (0x130E + 8 * i) 2))

/-- The R-NAT mappings: address on the ETB, address in the consist (R301). -/
def State.natMap (s : State) : List (Nat × Nat) :=
  (List.range (min 256 (s.cfg 0x08 0x2308 2))).map (fun i =>
    (s.cfg 0x08 (0x2310 + 8 * i) 4, s.cfg 0x08 (0x2314 + 8 * i) 4))

/-- The data set of the own clock with the configured clockClass and priorities, and the PTP domain (R288, R305). -/
def State.ownClock (s : State) : ClockData :=
  ⟨s.cfg 0x08 0x2B10 1, s.cfg 0x08 0x2B11 1, 0xFE, 0xFFFF, s.cfg 0x08 0x2B12 1, s.unitMac * 65536⟩
def State.ptpOwn (s : State) : Nat := s.cfg 0x08 0x2B13 1 % 128

/-- The VLANs that ports belong to beside their PVID (R288): VLAN and port mask. -/
def State.vlanTable (s : State) : List (Nat × Nat) :=
  (List.range (min 256 (s.cfg 0x08 0x2B18 2))).map (fun i => (s.cfg 0x08 (0x2B20 + 4 * i) 2, s.cfg 0x08 (0x2B22 + 4 * i) 2))

/-- The ETBN role is configured. -/
def State.etbn (s : State) : Bool := s.fld Reg.ESW_ETBSTAT_ETBN == 1

/-! ### Ports -/

/-- A port is enabled, has link, and is not shutting down; E9 and E10 work only with the ETBN role (R301). -/
def State.portUp (s : State) (n : Nat) : Bool :=
  s.fld (Reg.ESW_PORTCFG_ENABLE n) == 1 && s.fld (Reg.ESW_PORTSTAT_LINK n) == 1 &&
    !decide (Inst.port n ∈ s.bus.shutting) && ((n != 9 && n != 10) || s.etbn)

/-- The redundancy of pair k (0 to 3): 0 none, 1 PRP, 2 HSR. -/
def State.pairRed (s : State) (k : Nat) : Nat := bitsAt (s.fld Reg.ESW_REDCFG_RED).toNat (2 * k) 2

/-- The redundant pair of port n, if any. -/
def State.redOf (s : State) (n : Nat) : Option Nat :=
  if 1 ≤ n ∧ n ≤ 8 ∧ (s.pairRed ((n - 1) / 2) = 1 ∨ s.pairRed ((n - 1) / 2) = 2) then some ((n - 1) / 2) else none

/-- The staged fields of a port apply at the end of a frame on it (R258, R263). -/
def State.portBoundary (s : State) (n : Nat) : State :=
  s.applyStaged (fun k => keyPage k == 0x08 && decide (0x40 + 0x20 * (n - 1) ≤ keyOff k ∧ keyOff k < 0x40 + 0x20 * n))

/-- A port belongs to a VLAN: it is the port's PVID, or the table lists it (R288). -/
def State.inVlan (s : State) (n v : Nat) : Bool :=
  (s.fld (Reg.ESW_PORTCFG_PVID n)).toNat == v || s.vlanTable.any (fun e => e.1 == v && bitAt e.2 (n - 1) == 1)

/-! ### Queues (R289) -/

/-- A frame for an egress queue of a port. -/
structure Queued where
  port : Nat
  queue : Nat
  bytes : List Byte
  deriving DecidableEq, Repr

/-- The queue of an IEEE 802.1Q priority: 0 and 1 in queue 0, up to 6 and 7 in queue 3. -/
def queueOf (prio : Nat) : Nat := prio % 8 / 2

/-- The queue of a frame by its own tag, the lowest where it has none. -/
def tagQueue (bs : List Byte) : Nat := match vlanTag bs with
  | some t => queueOf t.1
  | none => 0

/-- A frame leaves through its port; one that finds its queue full is discarded. -/
def State.sendOne (s : State) (e : Queued) : State :=
  if !s.portUp e.port then s
  else if decide ((e.port, e.queue) ∈ s.net.full) then s.bump (Reg.ESW_DROPCNT e.port)
  else ((s.transmit (ethLink e.port) ⟨e.bytes, true⟩).bump (Reg.ESW_TXCNT e.port)).portBoundary e.port

/-- Frames handed to the ports together leave in strict priority: queue 3 first, each queue in order. -/
def State.sendAll (s : State) (l : List Queued) : State :=
  [3, 2, 1, 0].foldl (fun s q => (l.filter (fun e => e.queue == q)).foldl (fun s e => s.sendOne e) s) s

/-! ### The internal port (R289 to R291) -/

/-- A frame of the module for a port, on a redundant pair for both ports: with the trailer of its LAN under PRP, with a tag under
HSR, numbered by `seq` (R291). -/
def State.copies (s : State) (n q : Nat) (bytes : List Byte) (seq : Nat → Nat) : List Queued :=
  match s.redOf n with
  | none => [⟨n, q, bytes⟩]
  | some k =>
    let of := fun (second : Bool) => if s.pairRed k = 1 then addTrailer second (seq k) bytes else addHsr second (seq k) bytes
    [⟨2 * k + 1, q, of false⟩, ⟨2 * k + 2, q, of true⟩]

/-- The port that stands for its redundant pair. -/
def State.headPort (s : State) (n : Nat) : Nat := match s.redOf n with
  | some k => 2 * k + 1
  | none => n

/-- The ports among `ps` that a destination address leads to: group tables, learned addresses, else all (R289). -/
def State.portsFor (s : State) (ps : List Nat) (dst : Nat) : List Nat :=
  if isGroup dst then
    let st := s.staticGroups.filter (fun e => e.1 == dst)
    let dy := s.net.groups.filter (fun e => e.1 == dst)
    if st.isEmpty ∧ dy.isEmpty then ps
    else ps.filter (fun n => st.any (fun e => bitAt e.2 (n - 1) == 1) || dy.any (fun e => s.headPort e.2 == n))
  else
    match s.net.macs.find? (fun e => e.1 == dst) with
    | some e => ps.filter (· == s.headPort e.2)
    | none => ps

/-- The ports that the internal port reaches: E1 to E8, each pair once, and E11 (R289). -/
def State.innerPorts (s : State) : List Nat :=
  ((List.range 8).map (· + 1)).filter (fun n => s.headPort n == n) ++ [11]

/-- Where a frame of the module goes: by its destination, and by the VLAN of its tag. -/
def State.routes (s : State) (bytes : List Byte) : List Nat :=
  (s.portsFor s.innerPorts (beAt bytes 0 6)).filter (fun n => match vlanTag bytes with
    | some t => t.2 == 0 || s.inVlan n t.2
    | none => true)

/-- A frame of the module in the queues of the ports it goes to. -/
def State.queued (s : State) (q : Nat) (bytes : List Byte) (seq : Nat → Nat) : List Queued :=
  (s.routes bytes).flatMap (fun n => s.copies n q bytes seq)

/-- Some port can take a frame of the module. -/
def State.reachable (s : State) (bytes : List Byte) : Bool :=
  (s.queued 0 bytes (fun _ => 0)).any (fun e => s.portUp e.port)

/-- The sequence numbers of the unit address, one per redundant pair, counted per frame (R296). -/
def State.unitSeqs (s : State) : Nat → Nat := fun k => s.net.unitSeq.toList.getD k 0

/-- One more frame from the unit address. -/
def State.countUnit (s : State) : State :=
  { s with net.unitSeq := s.net.unitSeq.map (fun n => (n + 1) % 65536) }

/-- A frame from the unit address leaves the internal port (R290, R296). -/
def State.unitSend (s : State) (bytes : List Byte) : State :=
  (s.sendAll (s.queued (tagQueue bytes) bytes s.unitSeqs)).countUnit

/-- A datagram from the unit address (R290). -/
def State.unitUdp (s : State) (dst srcPort dstPort : Nat) (data : List Byte) : State :=
  s.unitSend (udpFrame s.unitMac s.unitIp dst 64 srcPort dstPort data)

end Sys2Proof.Machine
end

