-- ==== Sys2Proof/Machine/Train.lean ====
section
/-! DEFINITION. Process data of the train network: PD publication, MVB source buffers, what a commit sets off
(R291, R294 to R296, R310). -/
namespace Sys2Proof.Machine

/-! ### PD publication (R294, R296) -/

/-- Offsets of block 0x09. -/
def pdPublishOff (i : Nat) : Nat := 0x10 + 24 * i
def pdSubscribeOff (i : Nat) : Nat := 0xC010 + 24 * i
def pdFieldsOff : Nat := 0x24010

/-- Publish entry `i` is due at tick `k`. -/
def State.pdDue (s : State) (i k : Nat) : Bool :=
  let c := s.cfg 0x09 (pdPublishOff i + 0x08) 2
  let p := s.cfg 0x09 (pdPublishOff i + 0x0A) 2
  decide (k % c = p % c) && c != 0

/-- The PD header of a telegram, without its check (R296). -/
def pdHeader (seq comId topo len : Nat) : List Byte :=
  beBytes 4 seq ++ [0x01, 0x00, 0x50, 0x64] ++ beBytes 4 comId ++ beBytes 4 topo ++ beBytes 4 0 ++ beBytes 4 len ++ beBytes 4 0 ++
    beBytes 4 0 ++ beBytes 4 0

/-- The current etbTopoCnt, 0 without the ETBN role. -/
def State.topoCnt (s : State) : Nat :=
  if s.fld Reg.ESW_ETBSTAT_ETBN = 1 then (s.fld Reg.ESW_ETBTOPO_TOPO).toNat else 0

/-- The frame of a telegram of entry `i` (R290, R294): from the publication address of a paired unit, else from the unit
address. -/
def State.pdFrame (s : State) (i : Nat) (pdu : List Byte) : List Byte :=
  let o := pdPublishOff i
  let mac := if s.pairMember then s.pubMac else s.unitMac
  let ip := if s.pairMember then s.pubIp else s.unitIp
  let f := udpFrame mac ip (s.cfg 0x09 (o + 4) 4) (s.cfg 0x09 (o + 0x13) 1) pdPort pdPort pdu
  let vlan := s.cfg 0x09 (o + 0x14) 2
  if vlan = 0 then f else setTag (s.cfg 0x09 (o + 0x12) 1 % 8) vlan f

/-- The queue of a telegram (R289): 3, unless QOS is not zero and says otherwise (notes/assumptions/46.md). -/
def State.pdQueue (s : State) (i : Nat) : Nat :=
  let q := s.cfg 0x09 (pdPublishOff i + 0x12) 1 % 8
  if q = 0 then 3 else queueOf q

/-- One PD telegram of entry `i` that was due at tick `k` is handed to the switch. -/
def State.pdSend (s : State) (i k : Nat) : State × List Queued :=
  let o := pdPublishOff i
  let len := s.cfg 0x09 (o + 0x0C) 2
  let fs := confFields s.cmd.config 0x09 pdFieldsOff (s.cfg 0x09 (o + 0x0E) 2) (s.cfg 0x09 (o + 0x10) 2)
  let r := s.buildData fs len true false
  let s := r.1
  let h := pdHeader (k % 2 ^ 32) (s.cfg 0x09 o 4) s.topoCnt len
  let f := s.pdFrame i (h ++ leBytes 4 (Config.headerFcs h).toNat ++ r.2)
  let s := s.bump Reg.TPD_TXCNT
  if s.pairMember then
    let n := s.net.pubCount
    ({ s with net.pubCount := (n + 1) % 2 ^ 32 }, s.queued (s.pdQueue i) f (fun _ => n % 65536))
  else (s.countUnit, s.queued (s.pdQueue i) f s.unitSeqs)

/-- Telegrams are handed over in order, and leave by the priority of their queues. -/
def State.pdSendAll (s : State) (l : List (Nat × Nat)) : State :=
  let r := l.foldl (fun (r : State × List Queued) e =>
    let q := r.1.pdSend e.1 e.2
    (q.1, r.2 ++ q.2)) (s, [])
  r.1.sendAll r.2

/-- The telegrams of a tick: those left over, then those due, at most 128 (R296). -/
def State.pdPublish (s : State) (k : Nat) : State :=
  if s.fld Reg.TPD_CTRL_ENABLE = 1 ∧ s.publishes then
    let now := (List.range (min 2048 (s.cfg 0x09 0x04 2))).filter (fun i => s.pdDue i k)
    let all := s.net.late ++ now.map (fun i => (i, k))
    let rest := all.drop 128
    let s := State.pdSendAll { s with net.late := rest } (all.take 128)
    let fresh := rest.countP (fun e => e.2 == k)
    if fresh = 0 then s else (s.bumpBy Reg.TPD_LATECNT fresh).flag Reg.TPD_EVT_LATE true
  else { s with net.late := [] }

/-- A supervision frame of IEC 62439-3 for an address, numbered as its frame is. -/
def superviseFrame (red mac seq : Nat) : List Byte :=
  ethFrame 0x01154E000100 mac 0x88FB ([0, 0] ++ beBytes 2 seq ++ [if red = 1 then 20 else 23, 6] ++ beBytes 6 mac ++ [0, 0])

/-- A supervision frame of pair `k` from the unit or the publication address (R291). -/
def State.supervise (s : State) (k : Nat) (pub : Bool) : State :=
  if s.pairRed k = 1 ∨ s.pairRed k = 2 then
    let seq := if pub then s.net.pubCount % 65536 else s.unitSeqs k
    let b := superviseFrame (s.pairRed k) (if pub then s.pubMac else s.unitMac) seq
    let s := s.sendAll (s.copies (2 * k + 1) 0 b (fun _ => seq))
    if pub then s
    else { s with net.unitSeq := s.net.unitSeq.setIfInBounds k ((s.unitSeqs k + 1) % 65536) }
  else s

/-- The supervision frames of the publication address, every 8,000 ticks after the telegrams (R291, R296). -/
def State.supervisePub (s : State) (k : Nat) : State :=
  if s.pairMember ∧ k % 8000 = 0 ∧ s.publishes then
    let s := (List.range 4).foldl (fun s i => s.supervise i true) s
    { s with net.pubCount := (s.net.pubCount + 1) % 2 ^ 32 }
  else s

/-! ### MVB source ports (R309, R310) -/

/-- Offset of MVB port entry `i`, and its parts. -/
def mvbPortOff (i : Nat) : Nat := 0x10 + 8 * i
def State.mvbPorts (s : State) : Nat := min 1024 (s.cfg 0x0A 0x04 2)
def State.mvbAddr (s : State) (i : Nat) : Nat := bitsAt (s.cfg 0x0A (mvbPortOff i) 2) 0 12
def State.mvbIsSink (s : State) (i : Nat) : Bool := bitAt (s.cfg 0x0A (mvbPortOff i) 2) 12 == 1
def State.mvbCode (s : State) (i : Nat) : Nat := bitsAt (s.cfg 0x0A (mvbPortOff i) 2) 13 3
def State.mvbSize (s : State) (i : Nat) : Nat := 2 ^ (s.mvbCode i + 1)
def State.mvbFields (s : State) (i : Nat) : List FieldEntry :=
  confFields s.cmd.config 0x0A 0x2010 (s.cfg 0x0A (mvbPortOff i + 4) 2) (s.cfg 0x0A (mvbPortOff i + 6) 2)

/-- After a commit each source port with a committed signal is rebuilt and exchanged whole. -/
def State.mvbRebuild (s : State) (rs : List Range) : State :=
  (List.range s.mvbPorts).foldl (fun s i =>
    if !s.mvbIsSink i ∧ (s.mvbFields i).any (fun f => inRanges rs f.id) then
      let r := s.buildData (s.mvbFields i) (s.mvbSize i) true false
      { r.1 with bus.mvbSrc := sput r.1.bus.mvbSrc i r.2 }
    else s) s

/-! ### A commit and what follows it -/

/-- Task `n` commits (R82): the image, then the digest (R363), the outputs that waited (R387) and the MVB ports (R310). -/
def State.commitOut (s : State) (p : Image) (n : Nat) : State :=
  let rs := (p.task n).outputs
  (((s.commit p n).feedDigest n rs).commitSeen rs).mvbRebuild rs

end Sys2Proof.Machine
end

