-- ==== Sys2Proof/Machine/Switch.lean ====
section
/-! DEFINITION. The ingress side of the Ethernet switch: duplicate discard, learning, forwarding, R-NAT, and what the internal
port delivers to the module (R288 to R293, R300, R301, R304). -/
namespace Sys2Proof.Machine

/-! ### Duplicate discard (R292, R293) -/

/-- A new source enters the node table; a full table gives up the entry unused longest. -/
def State.nodeAdd (s : State) (e : NodeEntry) : State :=
  if s.net.nodes.length < 1024 then { s with net.nodes := s.net.nodes ++ [e] }
  else
    let old := s.net.nodes.foldl (fun m x => min m x.used) e.used
    let rest := match s.net.nodes.findIdx? (fun x => x.used == old) with
      | some i => s.net.nodes.eraseIdx i
      | none => s.net.nodes.drop 1
    (State.bump { s with net.nodes := rest ++ [e] } Reg.ESW_NTEVICTCNT).flag Reg.ESW_EVT_DDT_FULL true

/-- Whether a frame of a redundant pair is accepted (R292). -/
def State.redAccept (s : State) (k mac seq : Nat) : State × Bool :=
  let now := s.opNs
  match s.net.nodes.find? (fun e => e.pair == k && e.mac == mac) with
  | none => (s.nodeAdd ⟨k, mac, seq, [seq], now⟩, true)
  | some e =>
    let same := fun (y : NodeEntry) => y.pair == k && y.mac == mac
    let put := fun (x : NodeEntry) => { s with net.nodes := s.net.nodes.map (fun y => if same y then x else y) }
    let d := (seq + 65536 - e.h) % 65536
    if 1 ≤ d ∧ d ≤ 32767 then
      let seen := seq :: e.seen.filter (fun n => decide ((seq + 65536 - n) % 65536 ≤ 127))
      (put { e with h := seq, used := now, seen := seen }, true)
    else if d = 0 ∨ (65409 ≤ d ∧ seq ∈ e.seen) then ((put { e with used := now }).bump (Reg.ESW_DUPCNT k), false)
    else if 65409 ≤ d then (put { e with used := now, seen := seq :: e.seen }, true)
    else ((put { e with used := now }).bump (Reg.ESW_OOWCNT k), true)

/-- A frame that arrives on a port passes the redundancy of its pair: `true` where it is accepted. -/
def State.redCheck (s : State) (n : Nat) (bs : List Byte) : State × Bool :=
  match s.redOf n with
  | none => (s, true)
  | some k =>
    let src := beAt bs 6 6
    if s.pairRed k = 1 then
      match prpTrailer bs with
      | some (lan, seq) =>
        let s := if lan = (if n % 2 = 1 then 0xA else 0xB) then s else s.bump (Reg.ESW_WRONGLAN k)
        s.redAccept k src seq
      | none => (s, true)
    else if src = s.unitMac ∨ (s.pairMember ∧ src = s.pubMac) then (s, false)
    else match hsrSeq bs with
      | some seq => s.redAccept k src seq
      | none => (s, true)

/-! ### Learning and snooping (R289) -/

/-- Learn a source address: 4,096 entries, the one unused longest goes. -/
def State.learn (s : State) (mac port : Nat) : State :=
  if isGroup mac then s
  else { s with net.macs := ((mac, port) :: s.net.macs.filter (fun e => e.1 != mac)).take 4096 }

/-- IGMPv2 snooping: a membership report joins its port to the group, a leave removes it. -/
def State.snoop (s : State) (port : Nat) (bs : List Byte) : State :=
  let o := payloadType bs + 2
  if beAt bs (payloadType bs) 2 ≠ 0x0800 ∨ beAt bs (o + 9) 1 ≠ 2 then s
  else
    let g := o + 4 * (beAt bs o 1 % 16)
    let mac := 0x01005E000000 + beAt bs (g + 4) 4 % 2 ^ 23
    let rest := s.net.groups.filter (fun e => e != (mac, port))
    if beAt bs g 1 = 0x16 then { s with net.groups := (mac, port) :: rest }
    else if beAt bs g 1 = 0x17 then { s with net.groups := rest }
    else s

/-! ### What the internal port delivers -/

/-- Something for a user of the internal port. -/
def State.toInbox (s : State) (m : NetMsg) : State := { s with net.inbox := s.net.inbox ++ [m] }

/-- A frame that needs a function the module has not is discarded and counted (R288). -/
def State.unsupported (s : State) : State := { s with net.unknown := s.net.unknown + 1 }

/-- A command packet has come in (R236, R239): it waits to be served, where its transport is. -/
def State.packetWaits (s : State) (transport source : Nat) (b : List Byte) : State :=
  if !s.served transport then s else
  let late := decide (16 ≤ s.cmd.arrived.countP (fun w => w.transport == transport))
  { s with cmd.arrived := s.cmd.arrived ++ [⟨transport, source, b, late⟩] }

/-- A datagram for the module that came in on port `n`: PD, MD (a request of ComId 20548 is a command packet), a command
packet. PTP over UDP is not supported (R288). -/
def State.datagram (s : State) (n : Nat) (d : Datagram) : State :=
  if d.dstPort = pdPort then s.toInbox (.pd (pdOf d))
  else if d.dstPort = mdPort then
    match mdOf (ethLink n) d with
    | some m =>
      if m.comId = 20548 then
        (if mdKind d.data = 0x4D72 then
          s.packetWaits 3 (sourceOf (ethLink n) d.srcPort d.src m.session) (mdData d.data) else s)
      else s.toInbox (.md m)
    | none => s
  else if d.dstPort = cmdPort then
    (if n = 11 then s.packetWaits 1 (sourceOf (ethLink n) d.srcPort d.src 0) d.data
     else if n ≤ 8 then s.packetWaits 2 (sourceOf (ethLink n) d.srcPort d.src 0) d.data
     else s)
  else if d.dstPort = 319 ∨ d.dstPort = 320 then s.unsupported
  else s

/-- A frame for the module itself, without tags (R288, R290, R299 to R301, R305): MD over TCP, another PTP domain and the
end-to-end delay mechanism are not supported. -/
def State.toModule (s : State) (n : Nat) (bs : List Byte) : State :=
  let dst := beAt bs 0 6
  let type := beAt bs 12 2
  let own := dst == s.unitMac || (s.pairMember && dst == s.pubMac)
  let b := bs.drop 14
  if type = 0x88F7 then
    (if ptpDomain b ≠ s.ptpOwn ∨ ptpKind b = 1 ∨ ptpKind b = 9 then s.unsupported
     else match ptpOf b with
      | some m => s.toInbox (.ptp m)
      | none => s)
  else if type = 0x88CC ∧ (n = 9 ∨ n = 10) then s.toInbox (.hello (n == 10) (beAt bs 6 6))
  else if type = 0x894C ∧ (n = 9 ∨ n = 10) then s.toInbox (.topology (beAt b 0 6) (beAt b 6 6) (beAt b 12 6))
  else if !own ∧ !isGroup dst then s
  else if dst = s.unitMac ∧ type ∈ s.rawTypes then s.toInbox (.raw (ethLink n) bs)
  else match ipProtocol bs with
    | some 6 => if own ∧ beAt bs (16 + 4 * (beAt bs 14 1 % 16)) 2 = mdPort then s.unsupported else s
    | _ => match udpOf bs with
      | some d => s.datagram n d
      | none => s

/-! ### Forwarding -/

/-- The ports of the consist network that are no part of a redundant pair. -/
def State.ecnPorts (s : State) : List Nat := ((List.range 8).map (· + 1)).filter (fun n => (s.redOf n).isNone)

/-- Priority and VLAN of a frame that enters port `n` (R288): of its tag, else of the port. -/
def State.classOf (s : State) (n : Nat) (bs : List Byte) : Nat × Nat :=
  let pvid := (s.fld (Reg.ESW_PORTCFG_PVID n)).toNat
  match vlanTag bs with
  | some t => (t.1, if t.2 = 0 then pvid else t.2)
  | none => ((s.fld (Reg.ESW_PORTCFG_PRIO n)).toNat, pvid)

/-- A frame of a class leaves the ports of its VLAN, without tag where that is the port's own. -/
def State.relay (s : State) (c : Nat × Nat) (ps : List Nat) (bs : List Byte) : State :=
  let out := fun (p : Nat) => (⟨p, queueOf c.1, if (s.fld (Reg.ESW_PORTCFG_PVID p)).toNat = c.2 then dropTag bs
    else setTag c.1 c.2 (dropTag bs)⟩ : Queued)
  s.sendAll ((ps.filter (fun p => s.inVlan p c.2)).map out)

/-- A routed frame takes new addresses: from the unit, to the station of its destination. -/
def State.routed (s : State) (bs : List Byte) : List Byte :=
  let ip := beAt bs (payloadType bs + 18) 4
  beBytes 6 (macOf ip) ++ beBytes 6 s.unitMac ++ bs.drop 12

/-- A frame from the ETB that R-NAT takes into the consist: its destination mapped. -/
def State.natIn (s : State) (bs : List Byte) : Option (List Byte) :=
  if beAt bs (payloadType bs) 2 ≠ 0x0800 then none
  else (s.natMap.find? (fun e => e.1 == beAt bs (payloadType bs + 18) 4)).map (fun e => s.routed (setIp bs 16 e.2))

/-- A frame from the consist that R-NAT takes to the ETB: its source mapped. -/
def State.natOut (s : State) (bs : List Byte) : Option (List Byte) :=
  if beAt bs (payloadType bs) 2 ≠ 0x0800 then none
  else (s.natMap.find? (fun e => e.2 == beAt bs (payloadType bs + 14) 4)).map (fun e => s.routed (setIp bs 12 e.1))

/-- The backup ETBN of a pair (R304). -/
def State.etbBackup (s : State) : Bool := s.pairRole == 2

/-- A frame on the ETB, ports E9 and E10 (R301, R304): the backup passes it on; the routing ETBN takes what R-NAT maps into the
consist, and passes the rest on but what is addressed to itself (DEDUCED, notes/assumptions/46.md). -/
def State.etbFrame (s : State) (n : Nat) (bs : List Byte) : State :=
  let on := fun (s : State) => s.sendAll [⟨19 - n, tagQueue bs, bs⟩]
  if s.etbBackup then on s
  else match s.natIn bs with
    | some b => (s.relay (s.classOf n b) (s.portsFor s.ecnPorts (beAt b 0 6)) b).toModule n (dropTag b)
    | none => if beAt bs 0 6 = s.unitMac then s else on s

/-- Forward an accepted frame from port `n` (R289, R291, R304): an address of IEEE 802.1Q that no bridge forwards stays here,
and E11 reaches the internal port alone. -/
def State.forward (s : State) (n : Nat) (bs : List Byte) : State :=
  let dst := beAt bs 0 6
  if n = 11 ∨ isReserved dst then s
  else if n = 9 ∨ n = 10 then (if s.etbn then s.etbFrame n bs else s)
  else match s.redOf n with
    | some k =>
      if s.pairRed k = 2 ∧ dst ≠ s.unitMac then s.sendAll [⟨if n % 2 = 1 then n + 1 else n - 1, tagQueue bs, bs⟩] else s
    | none =>
      if dst = s.unitMac then
        match s.etbn && !s.etbBackup, s.natOut bs with
        | true, some b => s.sendAll ([9, 10].map (fun p => ⟨p, tagQueue bs, dropTag b⟩))
        | _, _ => s
      else s.relay (s.classOf n bs) (s.portsFor (s.ecnPorts.filter (· != n)) dst) bs

/-- A frame of a protocol that the switch has not: a spanning-tree or a link-aggregation frame (R288). -/
def foreign (bs : List Byte) : Bool := beAt bs 0 6 == 0x0180C2000000 || beAt bs (typeOff bs) 2 == 0x8809

/-- A frame at port `n` behind the injector (R288, R289). -/
def State.ethIn (s : State) (n : Nat) (f : LinkFrame) : State :=
  let bs := f.bytes
  if !s.portUp n then s
  else if !f.ok ∨ bs.length < 14 ∨ 1522 < bs.length then s.bump (Reg.ESW_RXERRCNT n)
  else if foreign bs then (s.bump (Reg.ESW_RXCNT n)).unsupported
  else
    let r := (s.bump (Reg.ESW_RXCNT n)).redCheck n bs
    if r.2 then
      let red := match r.1.redOf n with
        | some k => r.1.pairRed k
        | none => 0
      (((r.1.learn (beAt bs 6 6) n).snoop n bs).forward n bs).toModule n (dropTag (dropRed red bs))
    else r.1

end Sys2Proof.Machine
end

