-- ==== Sys2Proof/Machine/RidgeLink.lean ====
section
/-! DEFINITION. The Ridge link: frames, forwarding, streams and the bridge's frames
(spec/13_ridge_link.md). -/
namespace Sys2Proof.Machine

/-! ### Frames (R328, R332) -/

/-- The bytes of a Ridge frame from its header. -/
def RidgeFrame.bytes (f : RidgeFrame) : List Byte :=
  [BitVec.ofNat 8 f.type, BitVec.ofNat 8 f.hops, BitVec.ofNat 8 (f.src % 64 + 64 * f.unit),
    BitVec.ofNat 8 (f.dst % 64 + 128 * b2n f.bcast)] ++ leBytes 2 f.seq ++ leBytes 2 f.payload.length ++ leBytes 2 f.ack ++
    leBytes 2 (b2n f.sync + 2 * b2n f.ackv) ++ f.payload

/-- The CRC-32C of a Ridge frame: over the header with HOPS as zero, and the payload (R332). -/
def RidgeFrame.crc (f : RidgeFrame) : Word := crc32c { f with hops := 0 }.bytes

/-- How a frame ends (R334): its CRC right, the right CRC inverted, or wrong. -/
inductive FrameEnd where
  | right | stomped | wrong
  deriving DecidableEq, Repr

/-- A frame on its port: header, payload and CRC (R332, R334). -/
def RidgeFrame.wire (f : RidgeFrame) (e : FrameEnd) : LinkFrame :=
  let c := match e with
    | .right => f.crc
    | .stomped => ~~~f.crc
    | .wrong => f.crc ^^^ 1
  ⟨f.bytes ++ leBytes 4 c.toNat, decide (e = .right)⟩

/-- How the bytes of a frame end: LEN, at most 4,096, says where its CRC stands. -/
def frameEnd (b : List Byte) : FrameEnd :=
  let body := b.take (b.length - 4)
  let c := crc32c (body.set 1 0)
  let len := leNat ((b.drop 6).take 2)
  if b.length ≠ len + 16 ∨ 4096 < len then .wrong
  else if b.drop (b.length - 4) = leBytes 4 c.toNat then .right
  else if b.drop (b.length - 4) = leBytes 4 (~~~c).toNat then .stomped
  else .wrong

/-- The Ridge frame that bytes spell. -/
def ridgeOf (b : List Byte) : RidgeFrame :=
  let at_ := fun i n => leNat ((b.drop i).take n)
  { type := at_ 0 1, hops := at_ 1 1, src := at_ 2 1 % 64, unit := at_ 2 1 / 64 % 2, dst := at_ 3 1 % 64,
    bcast := 128 ≤ at_ 3 1, seq := at_ 4 2, ack := at_ 8 2, sync := bitAt (at_ 10 2) 0 == 1,
    ackv := bitAt (at_ 10 2) 1 == 1, payload := (b.drop 12).take (at_ 6 2) }

/-- The ports run: enabled, with a role, in every mode but SELFTEST and RECOVERY (R327). -/
def State.rdgOn (s : State) : Bool :=
  s.fld Reg.RDG_CTRL_ENABLE == 1 && (s.isManager || s.isWorker) && decide (s.mode ≠ .selftest ∧ s.mode ≠ .recovery)

/-- A port (`true` east) can carry frames. -/
def State.rdgPort (s : State) (east : Bool) : Bool :=
  s.rdgOn && s.fld (if east then Reg.RDG_STAT_LINK_E else Reg.RDG_STAT_LINK_W) == 1

/-- A frame leaves a port, with its CRC right or, in a copy of a wrong one, inverted (R334). -/
def State.rdgEmit (s : State) (east ok : Bool) (f : RidgeFrame) : State :=
  if s.rdgPort east then s.transmit (if east then linkRidgeE else linkRidgeW) (f.wire (if ok then .right else .stomped)) else s

/-- A frame that the station originates leaves both ports (R328). -/
def State.rdgBoth (s : State) (f : RidgeFrame) : State := (s.rdgEmit true true f).rdgEmit false true f

/-- Own UNIT (R329) and RDG_STAT.STATE. -/
def State.unitNo (s : State) : Nat := (s.fld Reg.RDG_STAT_UNIT).toNat
def State.rdgState (s : State) : Nat := (s.fld Reg.RDG_STAT_STATE).toNat
def State.setRdg (s : State) (n : Nat) : State := s.setFld Reg.RDG_STAT_STATE (BitVec.ofNat 32 n)

/-- POSITIONS of the last cycle frame. -/
def State.positions (s : State) : Nat := (s.fld Reg.RDG_STAT_POSITIONS).toNat

/-- The station and UNIT of a frame are this position's own. -/
def State.rdgOwn (s : State) (f : RidgeFrame) : Bool := f.src == s.station && f.unit == s.unitNo

/-- Forward a frame that came in on a port out of the other (R328, R334): `ok` false stomps the copy. -/
def State.rdgForward (s : State) (east ok : Bool) (f : RidgeFrame) : State :=
  let limit := if f.type = 3 then 63 else s.positions
  if s.rdgOwn f ∨ f.hops + 1 = limit then s
  else s.rdgEmit (!east) ok { f with hops := f.hops + 1 }

/-! ### Station bitmaps -/

/-- Bit `n` of a pair of map registers. -/
def State.mapBit (s : State) (lo hi n : Nat) : Bool := if n < 32 then s.bit lo n else s.bit hi (n - 32)
def State.putMapBit (s : State) (lo hi n : Nat) (b : Bool) : State :=
  if n < 32 then s.putBit lo n b else s.putBit hi (n - 32) b

/-- A station is online, or refused. -/
def State.online (s : State) (n : Nat) : Bool := s.mapBit Reg.RDG_ONLINELO_MAP Reg.RDG_ONLINEHI_MAP n
def State.refused (s : State) (n : Nat) : Bool := s.mapBit Reg.RDG_REFUSEDLO_MAP Reg.RDG_REFUSEDHI_MAP n
def State.setOnline (s : State) (n : Nat) (b : Bool) : State := s.putMapBit Reg.RDG_ONLINELO_MAP Reg.RDG_ONLINEHI_MAP n b

/-- The whole of a pair of map registers. -/
def State.mapNat (s : State) (lo hi : Nat) : Nat := (s.fld lo).toNat + (s.fld hi).toNat * 2 ^ 32
def State.setMap (s : State) (lo hi v : Nat) : State := (s.setFld lo (BitVec.ofNat 32 v)).setFld hi (BitVec.ofNat 32 (v / 2 ^ 32))

/-- The Ridge runs: RUNNING, or a Summit whose ring is open since the enable, so that no DISCOVER has come back to it; it
sends CYCLE frames and has its stations online all the same (R336, notes/assumptions/37.md). -/
def State.rdgRuns (s : State) : Bool := s.rdgOn && (s.rdgState == 2 || (s.isManager && s.rdgState == 1))

/-- Stream frames can go to a station. -/
def State.reach (s : State) (n : Nat) : Bool :=
  s.rdgRuns && (if s.isManager then s.online n && !s.refused n else n == 0 && !s.rdg.lost.contains 0)

/-! ### Streams (R341, R342) -/

/-- The stream with a station. -/
def State.stream (s : State) (n : Nat) : Stream := sgetD Stream.zero s.rdg.streams n
def State.setStream (s : State) (n : Nat) (x : Stream) : State :=
  { s with rdg.streams := ssetD Stream.zero s.rdg.streams n x }

/-- A frame to a station carries the acknowledgement owed to it. -/
def State.rdgFrame (s : State) (type n seq : Nat) (sync : Bool) (payload : List Byte) : RidgeFrame :=
  { type := type, hops := 0, src := s.station, unit := s.unitNo, dst := n, bcast := false, seq := seq,
    ack := (s.stream n).last.getD 0, sync := sync, ackv := (s.stream n).last.isSome, payload := payload }

/-- Send a frame to a station. -/
def State.rdgTo (s : State) (type n seq : Nat) (sync : Bool) (payload : List Byte) : State :=
  let s := s.rdgBoth (s.rdgFrame type n seq sync payload)
  s.setStream n { s.stream n with ackDue := false }

/-- Queue and send a stream frame. -/
def State.streamSend (s : State) (n type : Nat) (payload : List Byte) (ring : Option Nat) (offset : Nat) : State :=
  let x := s.stream n
  let f : SentFrame := ⟨x.next, type, x.opening, payload, ring, offset⟩
  let s := s.setStream n { x with next := (x.next + 1) % 65536, opening := false, unacked := x.unacked ++ [f] }
  s.rdgTo type n f.seq f.sync payload

/-- Unacknowledged POSTED and TUNNEL frames to a station; at most 32 (R342). -/
def State.postedOut (s : State) (n : Nat) : Nat := (s.stream n).unacked.countP (fun f => f.type == 4 || f.type == 7)

/-! ### Bridge contexts (R344 to R348) -/

/-- A bridge context. -/
def State.bctx (s : State) (n : Nat) : BridgeCtx := sgetD BridgeCtx.zero s.rdg.ctx n

/-- BRG_STATn follows a context. -/
def State.ctxStat (s : State) (n : Nat) : State :=
  if 1 ≤ n ∧ n ≤ 63 then
    let x := s.bctx n
    let np := match x.load with
      | some l => b2n l.done.isNone
      | none => 0
    ((s.setFld (Reg.BRG_STAT_NP_OUT n) (BitVec.ofNat 32 np)).setFld (Reg.BRG_STAT_POSTED_OUT n)
      (BitVec.ofNat 32 (s.postedOut n))).flag (Reg.BRG_STAT_LINE_VALID n) x.line.isSome
  else s

/-- Replace a context. -/
def State.setBctx (s : State) (n : Nat) (x : BridgeCtx) : State :=
  { s with rdg.ctx := ssetD BridgeCtx.zero s.rdg.ctx n x }.ctxStat n

/-- A far error at the Summit (R346): status `code` of an access at window offset `off`. A posted store's raises
STORE_ERROR in T7 at its next boundary. -/
def State.farError (s : State) (n off code : Nat) (write : Bool) : State :=
  let s := ((s.setFld (Reg.BRG_FAR_OFFSET n) (BitVec.ofNat 32 (off % 2 ^ 24))).setFld (Reg.BRG_FAR_CODE n)
    (BitVec.ofNat 32 code)).flag (Reg.BRG_FAR_WRITE n) write
  let s := ((s.bump (Reg.BRG_FARCNT n)).flag Reg.BRG_EVT_FAR true).report .d .warn (evCode 9 346 0) (srcNo 9 n)
    (leBytes 4 off ++ [BitVec.ofNat 8 code, BitVec.ofNat 8 (b2n write)])
  if write then { s with rdg.farPending := true } else s

/-- An outstanding load ends with a status and data; T7 takes them at BRIDGE_COMPLETION. -/
def State.endLoad (s : State) (n st : Nat) (d : DWord) : State :=
  match (s.bctx n).load with
  | some l =>
    if l.done.isSome then s
    else
      let s := s.setBctx n { s.bctx n with load := some { l with done := some (st, d), backoff := false } }
      if st = 0 then s else s.farError n l.offset st false
  | none => s

/-- A context's line is discarded (R348). -/
def State.dropLine (s : State) (n : Nat) : State :=
  match (s.bctx n).line with
  | some l =>
    let s := s.setBctx n { s.bctx n with line := none }
    if l.used.length < l.words.length then s.bump Reg.BRG_PREFDISCCNT else s
  | none => s

/-- The waiting stores of a context go out while there is credit (R342, R344): there are at most as many as T7 has
issued, one. -/
def State.sendStores (s : State) (n : Nat) : State :=
  match (s.bctx n).stores with
  | [] => s
  | (off, addr, size, d) :: t =>
    if s.postedOut n < 32 ∧ s.reach n then
      let s := (s.dropLine n).streamSend n 4
        (leBytes 4 addr ++ [BitVec.ofNat 8 size, 0, 0, 0] ++ leBytes 8 d.toNat) none off
      s.setBctx n { s.bctx n with stores := t }
    else s

/-- An acknowledgement arrives (R341): a TUNNEL descriptor completes, posted credit returns. -/
def State.streamAck (s : State) (n : Nat) (f : RidgeFrame) : State :=
  if !f.ackv then s
  else
    let x := s.stream n
    let hit := fun (g : SentFrame) => decide ((f.ack + 65536 - g.seq) % 65536 < 32768)
    let s := s.setStream n { x with unacked := x.unacked.filter (fun g => !hit g) }
    let s := (x.unacked.filter hit).foldl (fun s g => match g.ring with
      | some r => s.completeOut r .ok
      | none => s) s
    (s.sendStores n).ctxStat n

/-- A stream frame is accepted in order (R341): a copy of an opening frame, or that frame sent again, opens the stream no
second time. -/
def State.streamTake (s : State) (n : Nat) (f : RidgeFrame) : State × Bool :=
  let x := s.stream n
  if x.expect = some f.seq ∨ (f.sync ∧ x.opened ≠ some f.seq) then
    ((s.setStream n { x with expect := some ((f.seq + 1) % 65536), last := some f.seq, ackDue := true,
                             opened := if f.sync then some f.seq else x.opened }).bump Reg.RDG_RXCNT, true)
  else (s.bump Reg.RDG_DUPCNT, false)

/-- A tick-class frame is accepted by its SEQ (R335). -/
def seqFresh (seen : Sparse Nat) (n seq : Nat) : Bool :=
  match sget seen n with
  | none => true
  | some h => decide (1 ≤ (seq + 65536 - h) % 65536 ∧ (seq + 65536 - h) % 65536 ≤ 32767)

/-- Forward a packet over the Ridge as a MSG frame (R237). -/
def State.sendMsg (s : State) (n : Nat) (packet : List Byte) : State := s.streamSend n 9 packet none 0

end Sys2Proof.Machine
end

