-- ==== Sys2Proof/Machine/Reply.lean ====
section
/-! DEFINITION. Packets and replies: the bytes of a packet, the status codes, and the completion of a request
(R232 to R236, R246, R253, R254). -/
namespace Sys2Proof.Machine

/-- The status codes (R253). -/
inductive Status where
  | ok | busy | badOpcode | badLength | badCrc | notInMode | authFail | resourceConflict | versionDown | signatureBad
  | changeTooLarge | wcetExceeds | sealed | lockedOut | busyStopping | unconfirmed | storeError | targetLost
  deriving DecidableEq, Repr

/-- The number of a status (R253). -/
def Status.code : Status → Nat
  | .ok => 0x0 | .busy => 0x1 | .badOpcode => 0x2 | .badLength => 0x3 | .badCrc => 0x4 | .notInMode => 0x5
  | .authFail => 0x6 | .resourceConflict => 0x7 | .versionDown => 0x8 | .signatureBad => 0x9 | .changeTooLarge => 0xA
  | .wcetExceeds => 0xB | .sealed => 0xC | .lockedOut => 0xD | .busyStopping => 0xE | .unconfirmed => 0xF
  | .storeError => 0x10 | .targetLost => 0x11

/-- The outcome of a command: a refusal with DETAIL and EXT, or OK with what follows DETAIL (R234). -/
structure Answer where
  status : Status
  detail : Nat
  ext : Nat
  data : List Byte
  deriving DecidableEq, Repr

/-- OK with DETAIL 0. -/
def Answer.okWith (data : List Byte) : Answer := ⟨.ok, 0, 0, data⟩

/-- OK with nothing after DETAIL. -/
def Answer.done : Answer := .okWith []

/-- A refusal with EXT zero. -/
def Answer.no (st : Status) (detail : Nat) : Answer := ⟨st, detail, 0, []⟩

/-- A RESOURCE_CONFLICT refusal of a class (R254). -/
def Answer.conflict (cls detail : Nat) : Answer := ⟨.resourceConflict, detail, cls, []⟩

/-- The payload of a reply (R234): STATUS, DETAIL and what follows; a refusal is exactly 8 bytes. -/
def Answer.payload (a : Answer) : List Byte :=
  leBytes 2 a.status.code ++ leBytes 2 a.detail ++ (if a.status = .ok then a.data else leBytes 4 a.ext)

/-- The header of a packet (R232). -/
def headerBytes (flags opcode : Nat) (tag : BitVec 16) (target session : Byte) (len : Nat) : List Byte :=
  leBytes 2 0xDA5E ++ [0x01, BitVec.ofNat 8 flags] ++ leBytes 2 opcode ++ leBytes 2 tag.toNat ++ [target, session] ++
    leBytes 2 len

/-- Header and payload of a request of opcode `op`, without MORE (R232). -/
def Req.body (r : Req) (op : Nat) : List Byte :=
  headerBytes (2 * b2n r.auth) op r.tag r.target r.session r.payload.length ++ r.payload

/-- The CRC of a request. -/
def Req.crc (r : Req) (op : Nat) : Word := crc32c (r.body op)

/-- The bytes an authentication code covers: header, payload and CRC (R233). -/
def Req.signed (r : Req) (op : Nat) : List Byte := r.body op ++ leBytes 4 (r.crc op).toNat

/-- The authentication code of a message under a key: the first 16 bytes of HMAC-SHA-256 (R233). -/
def authCode (key msg : List Byte) : List Byte := (hmacSha256 key msg).take 16

/-- A reply packet to a request (R234), keyed with `key` where the request had AUTH; with no key known its code is left
open. -/
def mkReply (r : Req) (op : Nat) (session : Byte) (key : List Byte) (more : Bool) (payload : List Byte) : Reply :=
  let hdr := headerBytes (1 + 2 * b2n r.auth + 4 * b2n more) op r.tag r.target session payload.length ++ payload
  { transport := r.transport, source := r.source, opcode := op, tag := r.tag, target := r.target, session := session,
    auth := r.auth, more := more, payload := payload,
    mac :=
      let m := hdr ++ leBytes 4 (crc32c hdr).toNat
      if !r.auth then [] else if key.isEmpty then leBytes 16 (Config.unkeyed m).toNat else authCode key m }

/-- A request that acts at Trig (R232, R237): a packet that has been forwarded names another target. -/
def Req.atTrig (r : Req) : Bool := r.target == 1

/-- The sessions a request belongs to: Trig's or the supervisor's. -/
def State.desk (s : State) (r : Req) : Desk := if r.atTrig then s.trig.desk else s.cmd.desk

/-- Replace them. -/
def State.setDesk (s : State) (r : Req) (d : Desk) : State :=
  if r.atTrig then { s with trig.desk := d } else { s with cmd.desk := d }

/-- The session a request names. -/
def Desk.session (d : Desk) (num : Byte) : Option Session := d.sessions.find? (fun x => x.num == num.toNat)

/-- A little-endian field of a request payload. -/
def Req.nat (r : Req) (off n : Nat) : Nat := leNat ((r.payload.drop off).take n)

/-- `n` bytes of the committed configuration. -/
def State.cfgBytes (s : State) (block off n : Nat) : List Byte := (List.range n).map (fun i => confByte s.cmd.config block (off + i))

/-- All bytes are zero. -/
def allZero (b : List Byte) : Bool := b.all (· == 0)

/-- The role key of a desk, none where it is unset (R243): the supervisor's from block 0x81, Trig's own (R426). -/
def State.roleKey (s : State) (trig : Bool) (role : Role) : Option (List Byte) :=
  let k := if trig then (match role with
      | .operator => s.trig.operKey
      | .metrologist => s.trig.metroKey
      | _ => [])
    else (match role with
      | .operator => s.cfgBytes blkKeys 0x20 32
      | .maintainer => s.cfgBytes blkKeys 0x40 32
      | .integrator => s.cfgBytes blkKeys 0x60 32
      | .metrologist => [])
  if allZero k then none else some k

/-- A role by its number. -/
def roleOf : Nat → Option Role
  | 0 => some .operator | 1 => some .maintainer | 2 => some .integrator | 3 => some .metrologist | _ => none

/-- The key of a SESS_OPEN, where it is known (R233, R243): that of the role it asks for; on CONSOLE, 32 zero bytes for
INTEGRATOR while its key is unset. -/
def State.openKey (s : State) (r : Req) : Option (List Byte) :=
  (roleOf (r.nat 0 1)).bind (fun role => match s.roleKey r.atTrig role with
    | some k => some k
    | none => if role = .integrator ∧ r.transport = 6 ∧ !r.atTrig then some (List.replicate 32 0) else none)

/-- The key the replies of a request carry (R233): the role's for a SESS_OPEN, else its session's; none where it is not known. -/
def State.keyOf (s : State) (op : Nat) (r : Req) : List Byte :=
  if op = 0x0020 then (s.openKey r).getD []
  else match (s.desk r).session r.session with
    | some x => x.key
    | none => []

/-- The record of a transport; there are eight, 0 to 7 (R257). -/
def Desk.transport (d : Desk) (t : Nat) : Transport := d.transports.toList.getD t ⟨none, [], none, none⟩

/-- Replace the record of a transport. -/
def Desk.setTransport (d : Desk) (t : Nat) (x : Transport) : Desk := { d with transports := d.transports.setIfInBounds t x }

/-- Change the session of a number. -/
def Desk.modSession (d : Desk) (num : Nat) (f : Session → Session) : Desk :=
  { d with sessions := d.sessions.map (fun x => if x.num = num then f x else x) }

/-- Reply bytes as they leave (R232, R233). -/
def Reply.bytes (r : Reply) : List Byte :=
  let b := headerBytes (1 + 2 * b2n r.auth + 4 * b2n r.more) r.opcode r.tag r.target r.session r.payload.length ++ r.payload
  b ++ leBytes 4 (crc32c b).toNat ++ r.mac

/-- Send a reply on the transport and to the source of its request (R236): into ring 1, as a datagram to the sender's address and
port, as a TRDP Mp in the sender's session, or in a COBS frame on CONSOLE; on transports 4 and 5 as MSG. Trig's replies pass the
mailbox first (R423). -/
def State.send (s : State) (r : Reply) : State :=
  let s := if r.target = 1 then s.fromTrig 0x81 r.bytes else s
  let s := { s with cmd.outbox := s.cmd.outbox ++ [r] }
  match r.transport with
  | 0 => s.ringIn 1 1 ⟨r.bytes, 0, 0, 0⟩
  | 1 =>
    let f := udpFrame s.unitMac s.unitIp (sourceIp r.source) 64 cmdPort (sourcePort r.source) r.bytes
    s.sendOne ⟨11, tagQueue f, f⟩
  | 2 => s.unitUdp (sourceIp r.source) cmdPort (sourcePort r.source) r.bytes
  | 3 => s.unitUdp (sourceIp r.source) mdPort (sourcePort r.source) (mdPdu 0x4D70 20548 (sourceSession r.source) r.bytes)
  | 4 => s.sendMsg (r.source % 64) r.bytes
  | 5 => s.colSend 0x09 r.bytes
  | 6 => s.transmit linkConsole ⟨cobs r.bytes, true⟩
  | _ => s

/-- An AUTH_FAIL reply on a transport (R244): the supervisor counts it, and the fifth within 60 s locks SESS_OPEN there. -/
def State.authFailed (s : State) (r : Req) : State :=
  let s := if r.atTrig then s else s.bump Reg.CMD_AUTHFAIL_CNT
  let x := (s.desk r).transport r.transport
  let now := s.opNs
  let fails := (now :: x.fails).filter (fun f => now - f ≤ 60000000000)
  if 5 ≤ fails.length ∧ x.lockedAt = none then
    let s := s.setDesk r ((s.desk r).setTransport r.transport { x with fails := [], lockedAt := some now })
    if r.atTrig then s
    else (s.setBit Reg.CMD_STAT_LOCKED r.transport).report .o .warn (evCode 5 244 0) (srcNo 5 r.transport)
      [BitVec.ofNat 8 r.transport]
  else s.setDesk r ((s.desk r).setTransport r.transport { x with fails := fails.take 5 })

/-- What every reply counts (the CMD counter table). -/
def State.countStatus (s : State) (r : Req) : Status → State
  | .authFail => s.authFailed r
  | .busy => if r.atTrig then s else s.bump Reg.CMD_BUSY_CNT
  | .badCrc => if r.atTrig then s else s.bump Reg.CMD_CRCERR_CNT
  | _ => s

/-- A packet that went to another target has been answered (R237). -/
def State.answered (s : State) (op : Nat) (r : Req) : State :=
  if r.atTrig then
    { s with cmd.forwarded := s.cmd.forwarded.filter (fun e => !(e.1 == op && e.2.tag == r.tag && e.2.target == 1 && e.2.transport == r.transport)) }
  else s

/-- Answer a request without completing it: a refusal at step 7 or before leaves TAG and kept reply as they are. -/
def State.refuse (s : State) (op : Nat) (r : Req) (a : Answer) : State :=
  ((s.countStatus r a.status).send (mkReply r op r.session (s.keyOf op r) false a.payload)).answered op r

/-- Keep the last completed request of its session or transport (R246, R257). -/
def State.keep (s : State) (op : Nat) (r : Req) (st : Status) (last : Reply) : State :=
  let k : Kept := ⟨r.tag, op, r.crc op, last⟩
  let x := (s.desk r).transport r.transport
  let d := (s.desk r).setTransport r.transport
    { x with last := some (r.tag, st.code, op, r.session), kept := if r.session = 0 then some k else x.kept }
  s.setDesk r (if r.session = 0 then d
    else d.modSession r.session.toNat (fun y => { y with kept := some k, lastTag := r.tag }))

/-- Complete a request with one reply, keyed with `key`. -/
def State.finishWith (s : State) (op : Nat) (r : Req) (session : Byte) (key : List Byte) (a : Answer) : State :=
  let rep := mkReply r op session key false a.payload
  (((s.countStatus r a.status).send rep).answered op r).keep op r a.status rep

/-- Complete a request with one reply. -/
def State.finish (s : State) (op : Nat) (r : Req) (a : Answer) : State :=
  s.finishWith op r r.session (s.keyOf op r) a

/-- Complete a request with a MORE chain (R235): every reply carries STATUS and DETAIL; only the last is kept. -/
def State.finishChain (s : State) (op : Nat) (r : Req) : List (List Byte) → State
  | [] => s.finish op r .done
  | [d] => s.finish op r (.okWith d)
  | d :: t => State.finishChain
      (s.send (mkReply r op r.session (s.keyOf op r) true (Answer.okWith d).payload)) op r t

/-- A reply packet that bytes spell (R232, R234), on its way back to the source of the request. -/
def replyOf (b : List Byte) (r : Req) : Reply :=
  let at_ := fun (i n : Nat) => leNat ((b.drop i).take n)
  { transport := r.transport, source := r.source, opcode := at_ 4 2, tag := BitVec.ofNat 16 (at_ 6 2)
    target := BitVec.ofNat 8 (at_ 8 1), session := BitVec.ofNat 8 (at_ 9 1), auth := bitAt (at_ 3 1) 1 == 1
    more := bitAt (at_ 3 1) 2 == 1, payload := (b.drop 12).take (at_ 10 2), mac := b.drop (16 + at_ 10 2) }

/-- A reply that a station or the partner sent to a forwarded request goes back to its source, unchanged (R237). Other
packets of a MSG frame act by the commands of their opcodes. -/
def State.relayReply (s : State) (b : List Byte) : State :=
  let hit := fun (e : Nat × Req) => e.1 == leNat ((b.drop 4).take 2) && e.2.tag.toNat == leNat ((b.drop 6).take 2) &&
    e.2.target.toNat == leNat ((b.drop 8).take 1) && e.2.session.toNat == leNat ((b.drop 9).take 1)
  if bitAt (leNat ((b.drop 3).take 1)) 0 = 0 then s
  else match s.cmd.forwarded.find? hit with
    | none => s
    | some e =>
      let p := replyOf b e.2
      let s := if p.more then s else { s with cmd.forwarded := s.cmd.forwarded.erase e }
      s.send p

end Sys2Proof.Machine
end

