-- ==== Sys2Proof/Machine/Ridge.lean ====
section
/-! DEFINITION. The Ridge link: loss of stations, process data, DISCOVER and tunnels (spec/13_ridge_link.md). -/
namespace Sys2Proof.Machine

/-! ### Loss (R338, R346) -/

/-- Forwarded requests to a target end with TARGET_LOST (R237). -/
def State.targetLost (s : State) (target : Byte) (detail : Nat) : State :=
  let hit := s.cmd.forwarded.filter (fun e => e.2.target == target)
  let s := { s with cmd.forwarded := s.cmd.forwarded.filter (fun e => e.2.target != target) }
  hit.foldl (fun s e => s.send (mkReply e.2 e.1 e.2.session [] false (Answer.no .targetLost detail).payload)) s

/-- The TARGET byte of a station (R232). -/
def targetOf (n : Nat) : Byte := BitVec.ofNat 8 (0x40 + n)

/-- The stream frames that wait for a lost station end (R346). The sender opens the stream anew (R341); what this station
expects of the other end stays, which may never have lost it. -/
def State.endStream (s : State) (n : Nat) : State :=
  let x := s.stream n
  let s := s.setStream n { Stream.zero with next := x.next, expect := x.expect, last := x.last }
  x.unacked.foldl (fun s f =>
    match f.ring with
    | some r => s.completeOut r .notSent
    | none => if f.type = 4 ∧ s.isManager then s.farError n f.offset 1 true else s) s

/-- A station is declared lost: by the Summit, or the Summit by a Spur. -/
def State.loseStation (s : State) (n : Nat) : State :=
  let s := { s with rdg.cycleSeen := serase s.rdg.cycleSeen n, rdg.slotSeen := serase s.rdg.slotSeen n,
                    rdg.missed := serase s.rdg.missed n, rdg.lost := n :: s.rdg.lost.filter (· != n) }
  let s := ((s.setOnline n false).bump Reg.RDG_LOSTCNT).flag Reg.RDG_EVT_STATION_LOST true
  let s := s.report .o .warn (evCode 9 338 0) (srcNo 9 n) [BitVec.ofNat 8 n]
  let s := (s.acquire (.station n) .lost).endStream n
  let s := s.targetLost (targetOf n) n
  if s.isManager then
    let s := (s.dropLine n).endLoad n 1 0
    let s := (s.bctx n).stores.foldl (fun s e => s.farError n e.1 1 true) s
    let s := s.setBctx n { s.bctx n with stores := [] }
    if s.fld (Reg.BRG_CFG_ENABLE n) = 1 then s.setFld (Reg.BRG_STAT_STATE n) 2 else s
  else s

/-- LOSS_TICKS. -/
def State.lossTicks (s : State) : Nat := (s.fld Reg.RDG_CTRL_LOSS_TICKS).toNat + 1

/-- The ticks in a row without a slot in time grow for the stations of `ns` (R338). -/
def State.countMissed (s : State) (ns : List Nat) : State :=
  let s := ns.foldl (fun (s : State) n =>
    if s.rdg.slotGot.contains n then { s with rdg.missed := serase s.rdg.missed n }
    else { s with rdg.missed := sput s.rdg.missed n (sgetD 0 s.rdg.missed n + 1) }) s
  { s with rdg.slotGot := [] }

/-! ### Process data (R336 to R340) -/

/-- The slot entry of a station in block 0x10: lengths, first field and count, out (Summit to Spur) or in. -/
def slotOff (n : Nat) (inward : Bool) : Nat := 0x10 + 16 * (n - 1) + (if inward then 6 else 0)
def State.slotLen (s : State) (n : Nat) (inward : Bool) : Nat := min 512 (s.cfg 0x10 (slotOff n inward) 2)
def State.slotFields (s : State) (n : Nat) (inward : Bool) : List FieldEntry :=
  confFields s.cmd.config 0x10 0x430 (s.cfg 0x10 (slotOff n inward + 2) 2) (s.cfg 0x10 (slotOff n inward + 4) 2)

/-- The station has a slot entry. -/
def State.hasSlot (s : State) (n : Nat) : Bool := s.slotLen n false != 0 || s.slotLen n true != 0

/-- LAYOUT of a slot (R340). -/
def State.layout (s : State) (n : Nat) (inward : Bool) : Word :=
  crc32c (leBytes 2 (s.slotLen n inward) ++ (s.slotFields n inward).flatMap (fun f =>
    [BitVec.ofNat 8 f.kind] ++ leBytes 2 f.off ++ [BitVec.ofNat 8 f.bit]))

/-- Slots carry zero data (R213, R336). -/
def State.slotsOff (s : State) : Bool := s.dataMode.outputsOff && decide (s.dataMode ≠ .standby)

/-- Send the slot for station `n`, or the own slot of a Spur to station 0. -/
def State.sendSlot (s : State) (n : Nat) (inward : Bool) (dst seq : Nat) : State :=
  let r := s.buildData (s.slotFields n inward) (s.slotLen n inward) false s.slotsOff
  r.1.rdgTo 2 dst seq false (leBytes 4 (s.layout n inward).toNat ++ r.2)

/-- The unit sends no Ridge process data: it entered RIDETHRU from STANDBY (R223). -/
def State.slotsMute (s : State) : Bool := decide (s.dataMode = .ridethru) && decide (s.sup.rideFrom = .standby)

/-- The Summit's CYCLE frame and slots of a tick (R336). -/
def State.sendCycle (s : State) : State :=
  if !s.isManager ∨ !s.rdgRuns then s
  else
    let on := (List.range 63).map (· + 1) |>.filter (fun n => s.online n && !s.refused n)
    let s := s.countMissed on
    let p := leBytes 8 s.time.tick ++ [BitVec.ofNat 8 s.mode.code, BitVec.ofNat 8 s.positions] ++ leBytes 6 0 ++
      leBytes 8 (s.mapNat Reg.RDG_ONLINELO_MAP Reg.RDG_ONLINEHI_MAP) ++
      leBytes 8 (s.mapNat Reg.RDG_REFUSEDLO_MAP Reg.RDG_REFUSEDHI_MAP)
    let seq := s.time.tick % 65536
    let f : RidgeFrame := { s.rdgFrame 1 0 seq false p with bcast := true, ackv := false, ack := 0 }
    let s := State.rdgBoth { s with rdg.cycleSent := p } f
    if s.slotsMute then s
    else (on.filter s.hasSlot).foldl (fun s n => s.sendSlot n false n seq) s

/-- A MANAGER finds a second one on the ring (R331). -/
def State.dupManager (s : State) : State :=
  if s.rdgState = 4 then s else (s.setRdg 4).report .o .fault (evCode 9 331 0) (srcNo 9 0) []

/-- A paired unit: the other unit of its station is its Col partner. -/
def State.paired (s : State) : Bool := s.pairRole != 0

/-- Refusal of this station (R330). -/
def State.noteRefused (s : State) : State :=
  if s.rdgState = 3 then s
  else ((s.setRdg 3).flag Reg.RDG_EVT_DUP_STATION true).report .o .fault (evCode 9 330 0) (srcNo 9 s.station) []

/-- A CYCLE frame is received (R331, R335, R336). At a Summit it is the partner's, the own one come round, or another
Summit's: one with the own UNIT is the own frame where it carries what this unit sent last. A Spur counts a cycle without a
slot in time at the next CYCLE (R338). -/
def State.cycleIn (s : State) (f : RidgeFrame) : State :=
  if s.isManager then
    if f.src = 0 ∧ !(s.paired ∧ f.unit ≠ s.unitNo) ∧ !(f.unit = s.unitNo ∧ f.payload = s.rdg.cycleSent) then
      s.dupManager
    else s
  else if !seqFresh s.rdg.cycleSeen f.src f.seq then s.bump Reg.RDG_DUPCNT
  else
    let at_ := fun i n => leNat ((f.payload.drop i).take n)
    let before := (sget s.rdg.cycleSeen f.src).isSome
    let s := State.bump { s with rdg.cycleSeen := sput s.rdg.cycleSeen f.src f.seq, rdg.quiet := 0 } Reg.RDG_RXCNT
    let s := s.setFld Reg.RDG_STAT_POSITIONS (BitVec.ofNat 32 (at_ 9 1 % 128))
    let s := (s.setMap Reg.RDG_ONLINELO_MAP Reg.RDG_ONLINEHI_MAP (at_ 16 8)).setMap Reg.RDG_REFUSEDLO_MAP
      Reg.RDG_REFUSEDHI_MAP (at_ 24 8)
    if s.refused s.station then s.noteRefused
    else
      let s := (s.setRdg 2).countMissed (if before then [0] else [])
      if s.slotsMute then s else s.sendSlot s.station true 0 f.seq

/-- A SLOT is received (R335, R337, R338, R340): `late` beyond SLOT_DEADLINE. -/
def State.slotIn (s : State) (late : Bool) (f : RidgeFrame) : State :=
  let n := f.src
  let k := if s.isManager then n else s.station
  let inward := s.isManager
  if f.bcast ∨ f.dst ≠ s.station ∨ (s.isManager ∧ (n = 0 ∨ s.refused n)) ∨ (!s.isManager ∧ n ≠ 0) then s
  else if !seqFresh s.rdg.slotSeen n f.seq then s.bump Reg.RDG_DUPCNT
  else
    let s := { s with rdg.slotSeen := sput s.rdg.slotSeen n f.seq }
    let data := f.payload.drop 4
    if leNat (f.payload.take 4) ≠ (s.layout k inward).toNat ∨ data.length ≠ s.slotLen k inward then
      (s.bump Reg.RDG_LAYOUTERRCNT).flag Reg.RDG_EVT_LAYOUT_ERR true
    else if late then s.bump Reg.RDG_SLOTLATECNT
    else
      let back := s.rdg.lost.contains n
      let s := State.bump { s with rdg.slotGot := n :: s.rdg.slotGot, rdg.lost := s.rdg.lost.filter (· != n) } Reg.RDG_RXCNT
      let s := if back then
          (s.flag Reg.RDG_EVT_STATION_REGAINED true).report .o .info (evCode 9 338 1) (srcNo 9 n) [BitVec.ofNat 8 n]
        else s
      let s := if s.isManager ∧ !s.online n then
          let s := (s.setOnline n true).setStream n { s.stream n with opening := true }
          if s.fld (Reg.BRG_CFG_ENABLE n) = 1 then s.setFld (Reg.BRG_STAT_STATE n) 1 else s
        else s
      s.deliver (.station n) (parseData (s.slotFields k inward) false data)

/-! ### DISCOVER (R330) -/

/-- The bytes of an entry. -/
def Position.bytes (p : Position) : List Byte :=
  [BitVec.ofNat 8 p.station, BitVec.ofNat 8 p.unit, BitVec.ofNat 8 p.role, 0] ++ leBytes 4 p.serial ++
    leBytes 4 p.partner ++ leBytes 4 0

/-- The entries of a DISCOVER payload. -/
def positionsOf : Nat → List Byte → List Position
  | 0, _ => []
  | n + 1, b =>
    let at_ := fun i k => leNat ((b.drop i).take k)
    ⟨at_ 0 1, at_ 1 1, at_ 2 1, at_ 4 4, at_ 8 4⟩ :: positionsOf n (b.drop 16)

/-- This position's own entry. -/
def State.ownPosition (s : State) : Position :=
  ⟨s.station, s.unitNo, s.role, (s.fld Reg.SYS_SERIAL_SERIAL).toNat, (s.col.partner.map (·.serial)).getD 0⟩

/-- The Summit sends DISCOVER both ways (R330): the two that it sent before have come back or the ring is open. -/
def State.sendDiscover (s : State) : State :=
  if !s.isManager ∨ !s.rdgOn ∨ s.rdgState = 4 then s
  else
    let open_ := s.rdg.backE.isNone || s.rdg.backW.isNone
    let s := if open_ ∧ s.fld Reg.RDG_STAT_RING_CLOSED = 1 then
        (s.flag Reg.RDG_STAT_RING_CLOSED false).flag Reg.RDG_EVT_RING_OPEN true else s
    let s := if s.rdgState = 0 then s.setRdg 1 else s
    let f : RidgeFrame := { s.rdgFrame 3 0 0 false s.ownPosition.bytes with bcast := true, ackv := false, ack := 0 }
    State.rdgBoth { s with rdg.backE := none, rdg.backW := none } f

/-- A station number is accepted on the ring (R330). -/
def numberOk (ps : List Position) (n : Nat) : Bool :=
  match ps.filter (fun p => p.station == n) with
  | [_] => true
  | [p, q] => p.partner == q.serial && q.partner == p.serial
  | [] => true
  | _ => false

/-- The Summit merges the entries it has (R330): those seen eastward, then those seen westward only. -/
def State.mergeRing (s : State) : State :=
  if s.rdgState = 4 then s else
  let e := s.rdg.backW.getD []
  let w := (s.rdg.backE.getD []).reverse
  let ps := e ++ w.filter (fun p => !e.any (fun q => q.serial == p.serial))
  let bad := (List.range 64).filter (fun n => !numberOk ps n)
  let old := s.mapNat Reg.RDG_REFUSEDLO_MAP Reg.RDG_REFUSEDHI_MAP
  let v := (bad.map (fun n => 2 ^ n)).foldl (· + ·) 0
  let s := State.setMap { s with rdg.positions := ps } Reg.RDG_REFUSEDLO_MAP Reg.RDG_REFUSEDHI_MAP v
  let s := (s.setFld Reg.RDG_STAT_POSITIONS (BitVec.ofNat 32 (min 64 ps.length))).setRdg 2
  let s := if s.rdg.backE.isSome ∧ s.rdg.backW.isSome then s.flag Reg.RDG_STAT_RING_CLOSED true else s
  if v ≠ old ∧ !bad.isEmpty then
    (s.flag Reg.RDG_EVT_DUP_STATION true).report .o .fault (evCode 9 330 0) (srcNo 9 0) (leBytes 8 v)
  else s

/-- A DISCOVER frame is received on a port (R328, R330, R331): the own one is back, or the frame is appended to and
forwarded, unless it names this position as its originator. -/
def State.discoverIn (s : State) (east : Bool) (f : RidgeFrame) : State :=
  let ps := positionsOf (f.payload.length / 16) f.payload
  let first := ps.head?
  if s.rdgOwn f ∧ first.map (·.serial) = some (s.fld Reg.SYS_SERIAL_SERIAL).toNat then
    if !s.isManager then s
    else State.mergeRing (if east then { s with rdg.backE := some ps } else { s with rdg.backW := some ps })
  else
    let partner := (s.col.partner.map (·.serial)).isSome && first.map (·.serial) == s.col.partner.map (·.serial)
    let s := if s.isManager ∧ f.src = 0 ∧ !partner then s.dupManager else s
    if s.rdgOwn f ∨ f.hops + 1 = 63 ∨ 4096 < f.payload.length + 16 then s
    else s.rdgEmit (!east) true { f with hops := f.hops + 1, payload := f.payload ++ s.ownPosition.bytes }

/-! ### Tunnels (R350 to R352) -/

/-- A link is tunnelled on this Spur. -/
def State.tunnelled (s : State) (l : Nat) : Bool :=
  s.isWorker && s.cfg 0x10 (0x400 + l) 1 % 2 == 1 && (decide (l ≤ 10) || (decide (15 ≤ l) && decide (l ≤ 34)))

/-- A TUNNEL payload. -/
def tunnelBytes (l : Nat) (m1 m2 : Word) (t : Nat) (data : List Byte) : List Byte :=
  leBytes 2 l ++ leBytes 2 0 ++ leBytes 4 m1.toNat ++ leBytes 4 m2.toNat ++ leBytes 4 0 ++ leBytes 8 t ++ data

/-- A frame that a link of this module received goes to its ring, whose agent is `agent`, or as a TUNNEL frame to the Summit
(R350); `err` and `chars` as in an `Arrival`. -/
def State.linkIn (s : State) (ring agent l : Nat) (f : AgentFrame) (err chars : Bool) : State :=
  if s.tunnelled l then
    if s.reach 0 ∧ f.data.length ≤ 4072 then s.streamSend 0 7 (tunnelBytes l f.meta1 f.meta2 s.descTime f.data) none 0
    else s.bump Reg.RDG_TUNDROPCNT
  else if s.agent ring = agent then s.arrive ring f err chars s.descTime
  else s

/-- The frames that wait for a tunnelled link. -/
def State.tunnelQ (s : State) (l : Nat) : List AgentFrame := sgetD [] s.rdg.tunnel l
def State.setTunnelQ (s : State) (l : Nat) (q : List AgentFrame) : State :=
  { s with rdg.tunnel := ssetD [] s.rdg.tunnel l q }

end Sys2Proof.Machine
end

