-- ==== Sys2Proof/Machine/StoreBuffer.lean ====
section
/-! DEFINITION. The store buffer and the writes that wait for it (R111, R112, R281, R349). -/
namespace Sys2Proof.Machine

/-- The coded word a store address lies in: Protected Store, Retentive Store or Image RAM (R19); none elsewhere. -/
def storeTarget (addr : Nat) : Option (Arr × Nat) :=
  if addr < 0x04000000 then some (.ps, addr / 8)
  else if addr < 0x04400000 then some (.rs, (addr - 0x04000000) / 8)
  else if 0x10000000 ≤ addr ∧ addr < 0x10180000 then some (.img, (addr - 0x10000000) / 8)
  else none

/-- The bit mask of `size` bytes at `addr` within their 64-bit word. -/
def byteMask (addr size : Nat) : DWord := at64 (2 ^ (8 * size) - 1) (8 * (addr % 8))

/-- Write one entry to its target; `true` where the partial write is refused (R112, R200). The Reserve region discards
stores (R71). -/
def State.writeEntry (s : State) (e : StoreEntry) : State × Bool :=
  match storeTarget e.addr with
  | none => (s, false)
  | some (a, w) =>
    if a = .img ∧ reservePlane ≤ w then (s, false)
    else s.writeWord a w (BitVec.ofNat 64 (e.data.toNat * 2 ^ (8 * (e.addr % 8)))) (byteMask e.addr e.size) .store

/-! ### Writes that wait for earlier stores -/

/-- RDG_IRQ acts (R349): a WORKER whose Summit is there sends the message on its stream, behind every TUNNEL frame that
it has handed to the stream. -/
def State.sendIrq (s : State) (v : Word) : State :=
  if s.isWorker ∧ s.reach 0 then s.streamSend 0 8 (leBytes 4 v.toNat ++ leBytes 4 (s.time.tick % 2 ^ 32)) none 0
  else s.bump Reg.RDG_IRQDROPCNT

/-- A waiting write acts. -/
def State.runDeferred (s : State) : Deferred → State
  | .post n c => s.post n c
  | .irq v => s.sendIrq v

/-- One store fewer is before the waiting writes; those that have none left act in order. -/
def State.afterStore (s : State) : State :=
  let ds := s.ring.deferred.map (fun (e : Nat × Deferred) => (e.1 - 1, e.2))
  let rest := ds.dropWhile (fun e => e.1 == 0)
  (ds.takeWhile (fun e => e.1 == 0)).foldl (fun s e => s.runDeferred e.2) { s with ring.deferred := rest }

/-- A write that acts after every store that `who` has in the buffer (R281); at once where there is none. -/
def State.deferWrite (s : State) (who : Option Who) (d : Deferred) : State :=
  let hit := fun (e : StoreEntry) => who.isSome && e.who == who
  let n := s.ce.store.length - (s.ce.store.reverse.takeWhile (fun e => !hit e)).length
  if n = 0 then s.runDeferred d else { s with ring.deferred := s.ring.deferred ++ [(n, d)] }

/-- The oldest entry is written: who is charged with its refusal, if anyone. -/
def State.writeOldest (s : State) : State × Option Who :=
  match s.ce.store with
  | [] => (s, none)
  | e :: t =>
    let r := { s with ce.store := t }.writeEntry e
    (r.1.afterStore, if r.2 then e.who else none)

/-- The buffer of an abandoned release is written as usual, and nobody is charged (R506). -/
def State.flush : Nat → State → State
  | 0, s => s
  | n + 1, s => State.flush n s.writeOldest.1

end Sys2Proof.Machine
end

