-- ==== Sys2Proof/Machine/Pair.lean ====
section
/-! DEFINITION. The pair's roles and states, and how a unit leaves them (spec/14_pair_redundancy.md R358, R367 to R369). -/
namespace Sys2Proof.Machine

/-- The states of COL_STAT. -/
def colUnpaired : Nat := 0
def colSeeking : Nat := 1
def colAlone : Nat := 2
def colServing : Nat := 3
def colJoining : Nat := 4
def colSyncActive : Nat := 5
def colSyncStandby : Nat := 6

/-- Put the pair role of SYS_MODE: 0 unpaired, 1 ACTIVE, 2 STANDBY; the standby's ETBN is the backup (R304). -/
def State.setPair (s : State) (n : Nat) : State :=
  (s.setFld Reg.SYS_MODE_PAIR (BitVec.ofNat 32 n)).flag Reg.ESW_ETBSTAT_BACKUP (s.etbn && n == 2)

/-- The current epoch. -/
def State.epoch (s : State) : Nat := (s.fld Reg.COL_STAT_EPOCH).toNat

/-- Long operation `op` ends with an answer. -/
def State.answerLong (s : State) (op : Nat) (a : Answer) : State :=
  match s.cmd.longOp with
  | some l => if l.opcode = op then
      (State.flag { s with cmd.longOp := none } Reg.CMD_STAT_LONG_OP false).finish op l.req a else s
  | none => s

/-- A swap that waits is cancelled (R240, R373). -/
def State.cancelSwap (s : State) : State :=
  { s with col.swapAt := none }.flag Reg.COL_STAT_SWAP_PENDING false

/-- What a unit in step holds of the stream ends. -/
def State.dropStream (s : State) : State :=
  { s.cancelSwap with col.groups := [], col.groupsSince := 0, col.deferred := [], col.streamBytes := 0, col.mark := none,
                      col.digest := none, col.digestPrev := none, col.cutTaken := false, col.rejoinDue := false }

/-- An epoch ends without a join (R367, R368): counted, and on the active recorded as PAIR_JOIN_ABORTED. -/
def State.epochOver (s : State) (record : Bool) : State :=
  let s := (s.bump Reg.COL_JOINFAILCNT).flag Reg.COL_EVT_JOIN_ABORT true
  let s := s.setDirty []
  if record then s.report .o .warn 0x0A04 (srcNo 10 0) (leBytes 2 s.epoch) else s

/-- The active ends the epoch it serves and continues alone. -/
def State.abortJoin (s : State) (reason : Nat) : State :=
  ((s.colSend 0x0B (leBytes 2 reason)).epochOver true).setColState colAlone

/-- Each subsystem's latest own group goes to the live image (R370). -/
def State.putOwn (s : State) : State :=
  s.col.own.foldl (fun (s : State) e => s.putGroupBytes e.2) { s with col.own := [] }

/-- A unit that begins to follow keeps, as its own view, the sources it has declared lost so far. -/
def State.keepLost (s : State) : State :=
  if s.col.own.isEmpty then
    { s with col.own := s.img.lost.foldl (fun m x => sput m x.code (groupPayload x .lost)) [] }
  else s

/-- A unit leaves the pair for a mode without a cycle, with a LEAVE frame (R369). -/
def State.leavePair (s : State) (reason : Nat) : State :=
  let st := s.colState
  let s := if st = colServing then s.epochOver true else s
  let s := if colAlone ≤ st then s.colSend 0x0A [BitVec.ofNat 8 reason, 0, 0, 0] else s
  ((s.dropStream.setPair 0).setColState (if s.fld Reg.COL_CTRL_ENABLE = 1 then colSeeking else colUnpaired)).putOwn

/-- The pair follows a change of mode; a swap lives in RUN and STANDBY only (R240, R373). -/
def State.pairFollows (s : State) : State :=
  let member := s.fld Reg.COL_CTRL_ENABLE == 1
  let s := if s.mode = .run ∨ s.mode = .standby then s else s.cancelSwap
  match s.mode with
  | .safe => s.leavePair 1
  | .stopped => s.leavePair 2
  | .update => s.leavePair 5
  | .run | .test | .degraded =>
    if member && s.pairRole == 0 then (s.setPair 1).setColState colAlone else s
  | .joining => (s.dropStream.keepLost.setPair 0).setColState colJoining
  | .standby => (s.setPair 2).setColState colSyncStandby
  | .ridethru => if s.colState = colServing then s.abortJoin 0x0A else s
  | _ => s

/-- The injections follow a change of mode (R478, R479): a permit ends, and they go at the tick boundary but for a
change into TEST. -/
def State.injectionsFollow (s : State) : State :=
  let s := s.fiPermitEnd
  if s.mode = .test then s else { s with fi.clearDue := true }

end Sys2Proof.Machine
end

