-- ==== Sys2Proof/Machine/Response.lean ====
section
/-! DEFINITION. The response-time check (spec/02_cycle_model.md R46, R48 to R50). -/
namespace Sys2Proof.Machine

/-- The cost of latching or committing one range (R46). -/
def Range.cost (r : Range) : Nat :=
  (if r.word then (4 * r.last + 3) / 64 - (4 * r.first) / 64 + 1 else r.last / 8 / 64 - r.first / 8 / 64 + 1) +
    (r.last / 64 - r.first / 64 + 1)

/-- The cost of a list of ranges (R46). -/
def rangesCost (rs : List Range) : Nat := (rs.map Range.cost).foldl (· + ·) 0

/-- Usable clocks per tick at an operating point (R34). -/
def usableClocks : Nat → Nat
  | 0 => 150000 | 1 => 136363 | 2 => 125000 | _ => 115384

/-- The rounding up of an exact quotient. -/
def ceilDiv (a b : Nat) : Nat := (a + b - 1) / b

/-- The whole cost of one release (R50). -/
def TaskDef.cost (t : TaskDef) : Nat := t.wcet + t.latchCost + t.commitCost + 32

/-- The blocking of task `i` by lower tasks (R50). -/
def Image.blocking (p : Image) (i : Nat) : Nat :=
  let low := ((List.range 7).filter (fun j => i < j)).map p.task |>.filter (·.enable)
  let sum := fun (l : List Nat) => l.foldl (· + ·) 0
  sum (low.map (·.latchCost)) + sum ((low.filter (·.boundary)).map (·.commitCost)) +
    ((low.filter (fun t => !t.boundary)).map (·.commitCost)).foldl max 20

/-- One step of the response-time iteration (R50). -/
def Image.nextResp (p : Image) (q slack i resp : Nat) : Nat :=
  p.blocking i + (p.task i).cost + ceilDiv resp q * slack +
    (((List.range i).map p.task |>.filter (·.enable)).map (fun t => ceilDiv resp (t.period * q) * t.cost)).foldl (· + ·) 0

/-- The response time of task `i`, none where it exceeds its period; every step either ends the loop or raises `resp`,
so the period in clocks bounds the steps (R50). -/
def Image.response (p : Image) (q slack i : Nat) : Nat → Nat → Option Nat
  | 0, _ => none
  | fuel + 1, resp =>
    let nx := p.nextResp q slack i resp
    if nx > (p.task i).period * q then none
    else if nx = resp then some resp
    else Image.response p q slack i fuel nx

/-- The response time of an enabled task (R50). -/
def Image.responseOf (p : Image) (q slack i : Nat) : Option Nat :=
  p.response q slack i ((p.task i).period * q + 1) (p.blocking i + (p.task i).cost)

/-- The first task that fails the check, none where the program passes (R50). -/
def Image.failing (p : Image) (q slack : Nat) : Option Nat :=
  (List.range 7).find? (fun i => (p.task i).enable && (p.responseOf q slack i).isNone)

end Sys2Proof.Machine
end

