-- ==== Sys2Proof/Machine/Plan.lean ====
section
/-! DEFINITION. Operating points and the margin plan (spec/20_power_clock_ageing.md R465 to R472). Delays are exact
fractions of a ps. -/
namespace Sys2Proof.Machine

/-- The period of a core operating point in thirds of a ps (R462). -/
def periodThirds : Nat → Nat
  | 0 => 5000 | 1 => 5500 | 2 => 6000 | _ => 6500

/-- Pn is usable at delay num/den ps: D + G + S within its period (R467). -/
def usable (n num den : Nat) : Bool := decide (3 * (num + 190 * den) ≤ periodThirds n * den)

/-- The fastest usable point. -/
def fastest (num den : Nat) : Option Nat := [0, 1, 2, 3].find? (fun n => usable n num den)

/-- A lane, 0 to 2, is retired. -/
def State.retiredNo (s : State) : Nat → Bool
  | 0 => s.cv.laneA.retired | 1 => s.cv.laneB.retired | _ => s.cv.laneC.retired

/-- D85 of a lane, and of the module: the largest of all lanes that are not retired (R466). -/
def State.laneD85 (s : State) (l : Nat) : Nat := ((s.pwr.canary.drop (4 * l)).take 4).foldl max 0
def State.d85 (s : State) : Nat :=
  ([0, 1, 2].filter (fun l => !s.retiredNo l)).foldl (fun m l => max m (s.laneD85 l)) 0

/-- SLACK and SWTIMEOUT in force. -/
def State.slack (s : State) : Nat := (s.fld Reg.CE_SLACK_SLACK).toNat
def State.swTimeout (s : State) : Nat := (s.fld Reg.CE_SLACK_SWTIMEOUT).toNat

/-- Put the operating point in force (R465). -/
def State.setOp (s : State) (n : Nat) : State :=
  let w := BitVec.ofNat 32 n
  ({ s with pwr.op := n }.setFld Reg.CE_STAT_OP w).setFld Reg.PWR_STAT_OP w

/-- The GOP is made slower (R467), and the loaded program checked at it (R49, R51). -/
def State.lowerGop (s : State) (n : Nat) : State :=
  if n ≤ s.pwr.gop then s
  else
    let old := s.pwr.gop
    let s := State.setFld { s with pwr.gop := n } Reg.PWR_STAT_GOP (BitVec.ofNat 32 n)
    let s := (s.flag Reg.PWR_EVT_GOP_LOWERED true).report .o .warn 0x0F04 (srcNo 15 0) [BitVec.ofNat 8 old, BitVec.ofNat 8 n]
    match s.ce.active with
    | none => s
    | some p => match p.failing (usableClocks n) s.slack with
      | some i => State.report { s with sup.programMargin := true } .o .warn (evCode 3 51 0) (srcNo 3 0) [BitVec.ofNat 8 i]
      | none => s

/-- STEP_DUE and MARGIN_LOW follow the present D85 (R469, R470): `cycles` where the cycle runs. -/
def State.marginFlags (s : State) (cycles : Bool) : State :=
  let d := s.d85
  let due := !usable s.pwr.op d 1
  let s := if due ∧ s.fld Reg.PWR_STAT_STEP_DUE = 0 then s.flag Reg.PWR_EVT_STEP_DUE true else s
  let s := s.flag Reg.PWR_STAT_STEP_DUE due
  let tight := decide (periodThirds s.pwr.op < 3 * (d + 150))
  let low := tight && (cycles || s.pwr.guardLow)
  let s := if low ∧ !s.pwr.guardLow then
      (s.flag Reg.PWR_EVT_MARGIN_LOW true).report .o .critical 0x0F08 (srcNo 15 0) (leBytes 2 d)
    else s
  State.flag { s with pwr.guardLow := low } Reg.PWR_STAT_MARGIN_LOW (s.pwr.planLow || low)

/-- A step to a slower point (R469, R471). -/
def State.stepTo (s : State) (n : Nat) : State :=
  let old := s.pwr.op
  let s := (s.setOp n).report .o .info 0x0F03 (srcNo 15 0) [BitVec.ofNat 8 old, BitVec.ofNat 8 n]
  ((s.bump Reg.PWR_STEPCNT).lowerGop n).marginFlags false

/-- A due step is taken (R469): to the fastest point usable at the present D85, P3 where none is. -/
def State.takeStep (s : State) : State :=
  if s.fld Reg.PWR_STAT_STEP_DUE = 1 then
    let n := (fastest s.d85 1).getD 3
    if s.pwr.op < n then s.stepTo n else s
  else s

/-! ### Fits and projections (R467, R468, R472) -/

/-- The least-squares slope of points (x, y) as a numerator and a positive denominator; zero where there is none. -/
def slopeOf (ps : List (Nat × Nat)) : Int × Nat :=
  let n : Int := ps.length
  let sum := fun (f : Nat × Nat → Int) => (ps.map f).foldl (· + ·) 0
  let sx := sum (fun p => p.1)
  let sy := sum (fun p => p.2)
  let d := n * sum (fun p => (p.1 : Int) * p.1) - sx * sx
  if d ≤ 0 then (0, 1) else (n * sum (fun p => (p.1 : Int) * p.2) - sx * sy, d.toNat)

/-- HORIZON in operating hours: other values act as 438 hundred hours. -/
def State.horizon (s : State) : Nat :=
  let h := (s.fld Reg.PWR_PLANCFG_HORIZON).toNat
  (if 10 ≤ h ∧ h ≤ 1752 then h else 438) * 100

/-- The projected delay as a fraction: D85 + m × H / 1,000, a negative slope counting as zero. -/
def State.dProj (s : State) : Nat × Nat :=
  let m := s.pwr.slope
  (s.d85 * (1000 * m.2) + m.1.toNat * s.horizon, 1000 * m.2)

/-- The hold-up class of a capacitance in µF (R458). -/
def holdupClass (c : Nat) : Nat := if 680 ≤ c then 3 else if 340 ≤ c then 2 else 1

/-- The capacitance projected `h` hours ahead, rises counting as zero; rounded down. -/
def State.capProj (s : State) (h : Nat) : Nat :=
  let c := match s.pwr.caps with
    | e :: _ => e.2
    | [] => 0
  c - ceilDiv ((-s.pwr.capSlope.1).toNat * (h * 3600)) s.pwr.capSlope.2

/-- HOLDUP_SHORT (R460): the class in force and the planned class against the requirement; the S1 taken until the test
completes is not compared. One record is written where either falls short, or where the planned class has dropped (R468). -/
def State.compareHoldup (s : State) (drop : Bool) : State :=
  let req := (s.fld Reg.PWR_PLANCFG_HOLDUP_REQ).toNat
  let now := if s.pwr.tested then s.pwr.testClass else (s.fld Reg.PWR_STAT_HOLDUP_NOW).toNat
  let plan := (s.fld Reg.PWR_STAT_HOLDUP_PLAN).toNat
  let short := decide ((s.pwr.tested ∧ now < req) ∨ plan < req)
  let s := s.flag Reg.PWR_STAT_HOLDUP_SHORT short
  if short ∨ drop then s.report .o .warn 0x0F05 (srcNo 15 0) [BitVec.ofNat 8 now, BitVec.ofNat 8 plan] else s

/-- The hold-up plan (R468). -/
def State.planHoldup (s : State) : State :=
  if s.pwr.caps.isEmpty then s
  else
    let f := slopeOf (s.pwr.caps.map (fun e => (e.1, e.2)))
    let s := { s with pwr.capSlope := f }
    let c := holdupClass (s.capProj s.horizon)
    let drop := decide (c < s.pwr.planned)
    let s := State.setFld { s with pwr.planned := c } Reg.PWR_STAT_HOLDUP_PLAN (BitVec.ofNat 32 c)
    (if drop then s.flag Reg.PWR_EVT_HOLDUP_REPLAN true else s).compareHoldup drop

/-- A figure in whole units, rounded down or up (notes/assumptions/20.md): `k` is its place in the model. -/
def rounded (k n d : Nat) : Nat := n / d + (if n % d = 0 then 0 else b2n (Config.roundsUp k n d))

/-- D_PROJ as a register holds it. -/
def State.dProjPs (s : State) : Nat := min 0xFFFF (rounded 1 s.dProj.1 s.dProj.2)

/-- The margin plan of the core (R467): the line through the daily maxima of the last 8,760 operating hours. -/
def State.planCore (s : State) : State :=
  let day := (s.fld Reg.SYS_OPSEC).toNat / 86400
  let ps := s.pwr.daily.filter (fun e => day ≤ e.1 + 365)
  let f := slopeOf ps
  -- ps per operating day, over 24 hours, times 1,000 hours
  let s := { s with pwr.slope := (f.1 * 1000, f.2 * 24), pwr.daily := ps, pwr.planAt := (s.fld Reg.SYS_OPSEC).toNat }
  let g := fastest s.dProj.1 s.dProj.2
  let s := (s.setFld Reg.PWR_MARGIN_D85 (BitVec.ofNat 32 s.d85)).setFld Reg.PWR_MARGIN_D_PROJ (BitVec.ofNat 32 s.dProjPs)
  State.lowerGop { s with pwr.planLow := g.isNone } (g.getD 3)

/-- The whole plan. -/
def State.plan (s : State) (cycles : Bool) : State := (s.planCore.planHoldup).marginFlags cycles

end Sys2Proof.Machine
end

