-- ==== Sys2Proof/Machine/Modes.lean ====
section
/-! DEFINITION. The change of mode and what it does in every unit (spec/08_modes_and_startup.md). -/
namespace Sys2Proof.Machine

/-- The number of a register-write source in a WD_ABORT record. -/
def WSrc.code : WSrc → Nat
  | .triad w => w.val
  | .packet => 9
  | .bridge => 10
  | .supervisor => 11

/-- A pending WD write is aborted, or a stray complement arrives (R267): event, counter and record. -/
def State.wdAbort (s : State) (addr : Nat) (src : WSrc) : State :=
  ((s.flag Reg.SYS_EVT_WD_ABORT true).bump Reg.SYS_WDABORT_CNT).report .d .warn (evCode 5 267 0) (srcNo 5 0)
    (leBytes 4 addr ++ leBytes 4 src.code)

/-- The address of a register. -/
def regAddr (page off : Nat) : Nat := 0xF0000000 + page * 0x1000 + off

/-- The pending WD writes of some sources end without being applied (R267). -/
def State.abortWd (s : State) (p : WSrc → Bool) : State :=
  let hit := s.wd.filter (fun x => p x.src)
  let s := { s with wd := s.wd.filter (fun x => !p x.src) }
  hit.foldl (fun s x => s.wdAbort (regAddr x.page x.off) x.src) s

/-- Put a code in force as the mode. -/
def State.putMode (s : State) (m : Mode) : State :=
  { s with mode := m, sup.safeFrom := none }.setFld Reg.SYS_MODE_MODE (BitVec.ofNat 32 m.code)

/-! ### The cycle stops or starts (R40, R214) -/

/-- CE_STAT.IDLE follows whether a cyclic task is ready. -/
def State.ceIdle (s : State) : State :=
  s.flag Reg.CE_STAT_IDLE ((List.range 7).all (fun n => !(s.ce.tasks.toList.getD n TaskRt.idle).ready))

/-- The release in progress is abandoned without a commit, and held commits are discarded (R214). What is in the store buffer
was voted before, so it is written as usual (R171, R172, R506). -/
def State.abandonCycle (s : State) : State :=
  let s := State.flush 8 s
  let ce := { s.ce with tasks := Vector.replicate 9 TaskRt.idle, cur := none, store := [], initTicks := 0, switchNow := false }
  State.ceIdle { s with ring.deferred := [], ce := ce }

/-- The fields of CE_TASKCFGn of a task table entry; `stopped` keeps ENABLE clear (R61). -/
def State.loadTask (s : State) (n : Nat) (d : TaskDef) (stopped : Bool) : State :=
  let w := fun (v : Nat) => BitVec.ofNat 32 v
  let s := s.setFld (Reg.CE_TASKCFG_POLICY n) (w d.policy)
  let s := s.flag (Reg.CE_TASKCFG_ENABLE n) (d.enable && !stopped)
  if n = 7 then s
  else
    let s := s.setFld (Reg.CE_TASKCFG_PERIOD n) (w (d.period - 1))
    let s := s.setFld (Reg.CE_TASKCFG_PHASE n) (w d.phase)
    let s := s.flag (Reg.CE_TASKCFG_COMMIT_AT n) d.boundary
    let s := s.setFld (Reg.CE_TASKCFG_OVR_LIMIT n) (w (d.limit - 1))
    s.setFld (Reg.CE_WCET_WCET n) (w d.wcet)

/-- Load the task table of the active program into the CE page (R61 step 5); stopped tasks keep ENABLE clear. -/
def State.loadTasks (s : State) (p : Image) : State :=
  (List.range 8).foldl (fun s n => s.loadTask n (p.task n) (s.bit Reg.CE_STAT_STOPPED n)) s

/-- Entry into STOPPED: stopped tasks may run again (R56), Traverse is disabled (R206), and a due step of the operating
point is taken (R469). -/
def State.enterStopped (s : State) : State :=
  let s := s.setFld Reg.CE_STAT_STOPPED 0
  let s := match s.ce.active with
    | some p => s.loadTasks p
    | none => s
  (s.flag Reg.PS_TRAV_CTRL_ENABLE false).takeStep

/-! ### Operations that a mode change ends -/

/-- The modes a long operation needs (R239, R240, R249). -/
def longOpRuns (op : Nat) (waitsForBoundary : Bool) (m : Mode) : Bool :=
  match op with
  | 0x0300 | 0x0302 => decide (m = .stopped ∨ m = .run ∨ m = .test)
  | 0x0303 => decide (m = .run ∨ m = .test) || (!waitsForBoundary && decide (m = .stopped))
  | 0x0203 => decide (m = .config)
  | 0x0702 => decide (m = .update ∨ m = .recovery)
  | 0x0800 => decide (m = .stopped ∨ m = .joining ∨ m = .standby)
  | 0x0801 => decide (m = .run ∨ m = .standby)
  | _ => decide (m = .stopped)

/-- A long operation whose mode has been left is abandoned and answered NOT_IN_MODE (R240). -/
def State.endLongOp (s : State) : State :=
  match s.cmd.longOp with
  | none => s
  | some l =>
    if longOpRuns l.opcode (s.ce.switchSince.isSome) s.mode then s
    else
      let s := State.flag { s with cmd.longOp := none, ce.switchSince := none } Reg.CMD_STAT_LONG_OP false
      let s := if l.opcode = 0x0303 then
          (s.flag Reg.CE_STAT_SW_PENDING false).setFld Reg.CE_SWSTAT_STATE 5
        else if l.opcode = 0x0801 then s.cancelSwap
        else s
      s.finish l.opcode l.req (.no .notInMode s.mode.code)

/-- A mode change clears every armed dangerous command (R248). -/
def State.disarm (s : State) : State :=
  { s with cmd.desk.sessions := s.cmd.desk.sessions.map (fun (x : Session) => { x with armed := none }) }.flag Reg.CMD_STAT_ARMED false

/-- Discard the edit buffer (R252). -/
def State.dropEdit (s : State) : State := { s with cmd.edit := none }.flag Reg.CMD_STAT_CFG_EDIT false

/-- The initialisation routine ends before its END; its stores are written as usual (R506). -/
def State.stopInit (s : State) : State :=
  let s := State.flush 8 s
  { s with ce.tasks := s.ce.tasks.set 8 { s.ce.tasks.get 8 with ready := false },
           ce.cur := if s.ce.cur = some 8 then none else s.ce.cur }

/-- The change of mode that waits is overtaken by another: its initialisation routine ends, and its request is answered with
the mode now in force (R217). -/
def State.endModeWait (s : State) : State :=
  match s.sup.modeWait with
  | none => s
  | some w =>
    let s := { s.stopInit with sup.modeWait := none }
    match w.req with
    | some r => s.finish 0x0100 r (.no .notInMode s.mode.code)
    | none => s

/-! ### Entering a mode -/

/-- What every change of mode does, once the mode is in force: pending WD writes are aborted (R267), dangerous commands
disarmed (R248), a request or an operation that needs the old mode ended with the code of the new one (R217, R240), forces
removed on leaving TEST (R85); the pair and the injections follow. -/
def State.afterMode (s : State) (old : Mode) : State :=
  let s := s.abortWd (fun _ => true)
  let s := s.disarm.endModeWait
  let s := if old = .test ∧ s.mode ≠ .test then s.removeForces else s
  let s := if old.cycles ∧ ¬ s.mode.cycles then s.abandonCycle else s
  let s := if s.mode = .stopped then s.enterStopped else s
  let s := if old = .config then s.dropEdit else s
  let s := s.pairFollows.injectionsFollow
  s.endLongOp

/-- A change of mode with its record (R214). -/
def State.changeMode (s : State) (m : Mode) (t : Trigger) : State :=
  let old := s.mode
  let s := (s.putMode m).report .o .info 0x0501 (srcNo 5 0)
    [BitVec.ofNat 8 old.code, BitVec.ofNat 8 m.code, BitVec.ofNat 8 t.code]
  let s := if m = .run then { s with sup.runSince := some s.opNs } else s
  s.afterMode old

/-- The start-loop guard counts a start that reaches SAFE within 60 s of entering RUN (R222). -/
def State.countStartLoop (s : State) : State :=
  match s.sup.runSince with
  | some t => if s.opNs - t ≤ 60000000000 then
      { s with sup.startLoop := s.sup.startLoop + 1, sup.runSince := none } else s
  | none => s

/-- Entry to SAFE (R225): at once, but for network process data, which is off from the next tick boundary on; the cause is in
SYS_SAFE and in the record. In SELFTEST only the power-up tests lead here (R218), in RECOVERY nothing does. -/
def State.enterSafe (s : State) (cause : Nat) : State :=
  if s.mode = .safe ∨ s.mode = .recovery then s
  else
    let old := s.mode
    let s := s.countStartLoop
    let s := ((s.putMode .safe).setFld Reg.SYS_SAFE_CAUSE (BitVec.ofNat 32 cause)).outputsOff
    let s := { s with sup.lastSafe := some (cause, s.time.tick), sup.safeFrom := some old, sup.autoOpen := false }
    let s := s.report .o .critical 0x0502 (srcNo 5 0) [BitVec.ofNat 8 cause]
    s.abandonCycle.afterMode old

end Sys2Proof.Machine
end

