-- ==== Sys2Proof/Machine/Cycle.lean ====
section
/-! DEFINITION. The Cycle Engine's shared operations: the store buffer, traps and policies, the end of a release, dispatch
(spec/02_cycle_model.md, spec/04_cycle_code_model.md). -/
namespace Sys2Proof.Machine

/-! ### Tasks -/

/-- The run-time record of a task. -/
def Ce.task (c : Ce) (w : Who) : TaskRt := c.tasks.get w

/-- Replace the run-time record of a task. -/
def State.setTask (s : State) (w : Who) (t : TaskRt) : State := { s with ce.tasks := s.ce.tasks.set w t }

/-- Change the run-time record of a task. -/
def State.modTask (s : State) (w : Who) (f : TaskRt → TaskRt) : State := s.setTask w (f (s.ce.task w))

/-- The active program, or one with no task and no signal. -/
def State.program (s : State) : Image := s.ce.active.getD ⟨0, [], [], [], 0, false, 0, none⟩

/-- The active program slot as a number. -/
def State.slotNo (s : State) : Nat := (s.fld Reg.CE_STAT_SLOT).toNat

/-! ### Traps (R56, R57, R119 to R122) -/

/-- The traps of Cycle Code (R119). -/
inductive TrapCode where
  | illegal | bus | fetchUe | loadUe | storeError | align | callOverflow | nestOverflow | bound | divZero | bridgeInCyclic
  deriving DecidableEq, Repr

/-- The code of a trap (R119). -/
def TrapCode.code : TrapCode → Nat
  | .illegal => 0x01 | .bus => 0x02 | .fetchUe => 0x03 | .loadUe => 0x04 | .storeError => 0x05 | .align => 0x06
  | .callOverflow => 0x07 | .nestOverflow => 0x08 | .bound => 0x09 | .divZero => 0x0A | .bridgeInCyclic => 0x0B

/-- CE_TRAPINFOn. -/
def State.trapInfo (s : State) (n cause index : Nat) : State :=
  ((s.setFld (Reg.CE_TRAPINFO_CAUSE n) (BitVec.ofNat 32 cause)).setFld (Reg.CE_TRAPINFO_INDEX n)
    (BitVec.ofNat 32 index)).setFld (Reg.CE_TRAPINFO_SLOT n) (BitVec.ofNat 32 s.slotNo)

/-- The stores of an aborted release stay in the buffer, but charge no task (R506). -/
def State.orphanStores (s : State) (w : Who) : State :=
  { s with ce.store := s.ce.store.map (fun e => if e.who = some w then { e with who := none } else e) }

/-- A release, T7's work or the initialisation routine ends without completing: nobody executes it any more. -/
def State.killRelease (s : State) (w : Who) : State :=
  let s := s.orphanStores w
  let s := s.modTask w (fun t => { t with ready := false, waiting := none })
  let s := s.abortWd (fun x => x = .triad w)
  { s with ce.cur := if s.ce.cur = some w then none else s.ce.cur }.ceIdle

/-- The trap policy of a task (R36): 0 CONTINUE, 1 STOP_TASK, 2 SAFE. -/
def State.policyOf (s : State) (n : Nat) : Nat := (s.fld (Reg.CE_TASKCFG_POLICY n)).toNat

/-- A task's policy applies after a trap, a budget abort or the overrun limit (R56, R57). -/
def State.applyPolicy (s : State) (n : Nat) : State :=
  if s.policyOf n = 1 then (s.flag (Reg.CE_TASKCFG_ENABLE n) false).setBit Reg.CE_STAT_STOPPED n
  else if s.policyOf n = 2 then s.enterSafe 0x07
  else s

/-- AUTOSTART_REFUSED with the reason of the first failing condition (R221). -/
def State.autoRefused (s : State) (reason : Nat) : State :=
  { s with sup.autoReason := reason, sup.autoOpen := false, sup.autoImage := none }.report .o .warn 0x0503 (srcNo 5 0) [BitVec.ofNat 8 reason]

/-- The initialisation routine has failed (R126): the module stays in STOPPED, and what started it is answered. -/
def State.initFailed (s : State) (code : Nat) : State :=
  let s := s.killRelease 8
  let s := s.report .o .fault (evCode 3 126 0) (srcNo 3 0) [BitVec.ofNat 8 code]
  match s.sup.modeWait with
  | none => s
  | some w =>
    let s := { s with sup.modeWait := none }
    match w.req with
    | some r => s.finish 0x0100 r (.no .notInMode (0x0200 + code))
    | none => s.autoRefused 0x08

/-- A trap (R56, R57, R126). -/
def State.trap (s : State) (w : Who) (t : TrapCode) (index : Nat) : State :=
  if w = 8 then s.initFailed t.code
  else
    let n := w.val
    let s := s.killRelease w
    let s := (s.trapInfo n t.code index).setBit Reg.CE_EVT_TRAP n
    let s := s.report .o .fault (evCode 3 56 0) (srcNo 3 n)
      ([BitVec.ofNat 8 n, BitVec.ofNat 8 t.code] ++ leBytes 4 index)
    let s := if n = 7 then s.modTask w (fun x => { x with resumeAfter := s.time.tick }) else s
    s.applyPolicy n

/-! ### The store buffer (R111, R112) -/

/-- The buffer writes its oldest entry; a refusal raises STORE_ERROR in the task that issued it, with the index of the
instruction that task is at (R112, R121, R506). -/
def State.storeFront (s : State) : State :=
  let r := s.writeOldest
  match r.2 with
  | some w => r.1.trap w .storeError (r.1.ce.task w).ctx.pc
  | none => r.1

/-- The buffer writes up to `n` entries. -/
def State.drain : Nat → State → State
  | 0, s => s
  | n + 1, s => State.drain n s.storeFront

/-- The buffer is emptied: it holds at most 8 entries (R111). -/
def State.drainAll (s : State) : State := State.drain 8 s

/-! ### Dispatch (R42, R43) -/

/-- The highest-priority ready cyclic task. -/
def State.bestCyclic (s : State) : Option Who :=
  (List.finRange 7).findSome? (fun n =>
    let w : Who := ⟨n.val, by omega⟩
    if (s.ce.task w).ready then some w else none)

/-- T7 waits for the bridge: for a load until BRIDGE_COMPLETION hands it over, for a store until it has credit (R45,
R344). -/
def State.bridgeWaits (s : State) : Bool :=
  match (s.ce.task 7).waiting with
  | none => false
  | some (.load _ _ _ _) => true
  | some (.store n) => !(s.bctx n).stores.isEmpty

/-- Who is to execute: a ready cyclic task, else T7 where it is in its pass and does not wait, else the initialisation
routine; nobody while a program switch is being made (R61). -/
def State.toRun (s : State) : Option Who :=
  match s.bestCyclic with
  | some w => if s.ce.switchNow then none else some w
  | none =>
    if s.ce.switchNow then none
    else if (s.ce.task 8).ready then some 8
    else if (s.ce.task 7).ready && !s.bridgeWaits then some 7 else none

/-- Dispatch, with the store buffer emptied within the context switch, and wherever no release runs (R43, R121, R506). -/
def State.dispatch (s : State) : State :=
  if s.toRun = s.ce.cur ∧ (s.ce.cur.isSome ∨ s.ce.store.isEmpty) then s.ceIdle
  else
    let s := s.drainAll
    let s := { s with ce.cur := s.toRun }
    let s := match s.ce.cur with
      | some w => if w.val < 8 then s.setFld Reg.CE_STAT_RUNNING (BitVec.ofNat 32 w.val) else s
      | none => s
    s.ceIdle

/-! ### The end of a release (R44, R52, R82, R115) -/

/-- Commits are performed now: not in RIDETHRU, or in a standby while its active's MARK names RIDETHRU (R223). -/
def State.commitsNow (s : State) : Bool :=
  if s.colState = colSyncStandby then decide (s.col.markMode ≠ 0xA) else decide (s.mode ≠ .ridethru)

/-- The measured count of a completed release (R52). -/
def State.measure (s : State) (n clocks : Nat) : State :=
  let c := satAdd 0 clocks
  let s := s.setFld (Reg.CE_LASTCLK n) c
  if (s.fld (Reg.CE_MAXCLK n)).toNat < c.toNat then s.setFld (Reg.CE_MAXCLK n) c else s

/-- A cyclic release completes: measured, committed or held (R44, R52). -/
def State.completeRelease (s : State) (w : Who) : State :=
  let n := w.val
  let s := s.measure n (s.ce.task w).clocks
  let s := s.killRelease w
  if !s.commitsNow then s
  else if (s.fld (Reg.CE_TASKCFG_COMMIT_AT n)) = 1 then s.modTask w (fun t => { t with held := true })
  else s.commitOut s.program n

/-- The initialisation routine ends, and RETAIN_INIT is clear for its program from now on (R115, R123, R124). -/
def State.completeInit (s : State) : State :=
  let s := s.killRelease 8
  let s := { s with ce.retainInit := false, ce.secondPart := false,
                    sup.retained := (s.program.id :: s.sup.retained).eraseDups }
  match s.sup.modeWait with
  | some w => { s with sup.modeWait := some { w with init := false } }
  | none => s

/-- The END of a part of the initialisation routine: while RETAIN_INIT is set, the second part runs as well (R124). DESIGN
CHOICE: it starts at an entry point of its own, with the registers as the first part leaves them (notes/assumptions/43.md). -/
def State.endInit (s : State) : State :=
  if s.ce.retainInit ∧ !s.ce.secondPart then
    State.modTask { s with ce.secondPart := true } 8 (fun t => { t with ctx := { t.ctx with pc := s.program.retainEntry } })
  else s.completeInit

/-- A pass of T7 ends: it may start again after the next tick boundary (R115). -/
def State.completeT7 (s : State) : State :=
  let s := s.killRelease 7
  s.modTask 7 (fun t => { t with resumeAfter := s.time.tick })

/-! ### Release points and the response-time check (R37, R46, R50) -/

/-- Task Tn has a release point at tick `k` (R37). -/
def State.releasePoint (s : State) (n k : Nat) : Bool :=
  let p := (s.fld (Reg.CE_TASKCFG_PERIOD n)).toNat + 1
  let ph := (s.fld (Reg.CE_TASKCFG_PHASE n)).toNat
  decide (k % p = ph % p)

/-- Whether Tn is enabled. -/
def State.taskOn (s : State) (n : Nat) : Bool := s.fld (Reg.CE_TASKCFG_ENABLE n) == 1

end Sys2Proof.Machine
end

