-- ==== Sys2Proof/Machine/Saddle.lean ====
section
/-! DEFINITION. Lanes and the Saddle: minority verdicts, NO_MAJORITY, failed re-admissions, retirement and re-admission
(spec/06_triad_and_voting.md). -/
namespace Sys2Proof.Machine

/-- The number of a lane in registers: 0 A, 1 B, 2 C. -/
def Lane.code : Lane → Nat
  | .a => 0 | .b => 1 | .c => 2

/-- The lane of a number. -/
def laneOf : Nat → Option Lane
  | 0 => some .a | 1 => some .b | 2 => some .c | _ => none

/-- CV_LASTMIS.KIND of a record kind (R174). -/
def RecKind.code : RecKind → Nat
  | .reg => 1 | .flags => 2 | .load => 3 | .store => 4 | .regpage => 5 | .commit => 6 | .fetch => 7 | .dlypar => 8
  | .reload => 9

/-- The CV_STAT field of a lane. -/
def Lane.stat : Lane → Nat
  | .a => Reg.CV_STAT_LANE_A | .b => Reg.CV_STAT_LANE_B | .c => Reg.CV_STAT_LANE_C

/-- The mismatch counter of a lane. -/
def Lane.misCnt : Lane → Nat
  | .a => Reg.CV_MISA_CNT | .b => Reg.CV_MISB_CNT | .c => Reg.CV_MISC_CNT

/-- The CV_FAILWIN field of a lane. -/
def Lane.failWin : Lane → Nat
  | .a => Reg.CV_FAILWIN_FAIL_A | .b => Reg.CV_FAILWIN_FAIL_B | .c => Reg.CV_FAILWIN_FAIL_C

/-- The state of a lane in CV_STAT: 0 VOTING, 1 HALTED, 2 RELOADING, 3 RETIRED, 4 RESTORABLE. -/
def State.laneState (s : State) (l : Lane) : Nat := (s.fld l.stat).toNat

/-- A lane is being reloaded (R183). -/
def State.reloading (s : State) : Bool := [Lane.a, .b, .c].any (fun l => s.laneState l == 2)

/-- A lane votes. -/
def State.votes (s : State) (l : Lane) : Bool := s.laneState l == 0

/-- The number of voting lanes. -/
def State.voters (s : State) : Nat := [Lane.a, .b, .c].countP s.votes

/-- The MRAM record of a lane (R185). -/
def Saddle.log (c : Saddle) : Lane → LaneLog
  | .a => c.laneA | .b => c.laneB | .c => c.laneC

/-- Replace the MRAM record of a lane. -/
def State.setLaneLog (s : State) (l : Lane) (x : LaneLog) : State :=
  match l with
  | .a => { s with cv.laneA := x }
  | .b => { s with cv.laneB := x }
  | .c => { s with cv.laneC := x }

/-- CV_STAT.TWO_LANE and FETCH_LANE follow the lane states (R169, R173). -/
def State.laneStat (s : State) : State :=
  (s.flag Reg.CV_STAT_TWO_LANE (decide (s.voters < 3))).flag Reg.CV_STAT_FETCH_LANE (!s.votes .a)

/-- Put a lane into a state. -/
def State.setLane (s : State) (l : Lane) (v : Nat) : State := (s.setFld l.stat (BitVec.ofNat 32 v)).laneStat

/-- Operating seconds. -/
def State.opSec (s : State) : Nat := (s.fld Reg.SYS_OPSEC).toNat

/-- The configured DEG_LIMIT in seconds: 1 to 168 hours, any other value acts as 24 (R187). -/
def State.degLimit (s : State) : Nat :=
  let h := (s.fld Reg.CV_DEGCFG_DEG_LIMIT).toNat
  (if 1 ≤ h ∧ h ≤ 168 then h else 24) * 3600

/-- CV_DEGLEFT as kept and as shown. -/
def State.setDegLeft (s : State) (n : Nat) : State :=
  { s with cv.degLeft := n }.setFld Reg.CV_DEGLEFT_SECONDS (BitVec.ofNat 32 n)

/-- A lane is retired. -/
def State.anyRetired (s : State) : Bool := s.cv.laneA.retired || s.cv.laneB.retired || s.cv.laneC.retired

/-- CV_FAILWIN of a lane: failed re-admissions within the last 3,600 s. -/
def State.failWindow (s : State) (l : Lane) : State :=
  s.setFld l.failWin (BitVec.ofNat 32 (min 3 ((s.cv.log l).fails.countP (fun t => s.opSec - t < 3600))))

/-- Retire a lane (R186, R224). DESIGN CHOICE: CV_LASTMIS.RETIRED is set too where no verdict led to it, at a retirement by
SELFTEST (notes/assumptions/44.md). -/
def State.retire (s : State) (l : Lane) : State :=
  let s := if s.anyRetired then s else s.setDegLeft s.degLimit
  let s := s.setLaneLog l { s.cv.log l with retired := true, retiredAt := (s.fld Reg.SYS_PWRCYC).toNat }
  let s := (s.setLane l 3).flag Reg.CV_LASTMIS_RETIRED true
  let s := s.report .o .critical (evCode 2 186 0) (srcNo 2 l.code) [BitVec.ofNat 8 l.code]
  match s.mode with
  | .run | .test | .standby | .joining => { s with cv.degradeDue := true }
  | .ridethru => if s.sup.rideFrom = .standby then { s with cv.degradeDue := true }
      else { s with sup.rideFrom := .degraded }
  | _ => s

/-- A failed re-admission of a lane (R185), which may retire it (R186). -/
def State.failedReadmission (s : State) (l : Lane) (index : Nat) : State :=
  let x := s.cv.log l
  let fails := (s.opSec :: x.fails).take 3
  let s := s.setLaneLog l { x with fails := fails }
  let s := (s.bump Reg.CV_READMIT_FAIL_CNT).report .d .fault (evCode 2 185 0) (srcNo 2 l.code)
    ([BitVec.ofNat 8 l.code] ++ leBytes 4 index)
  let s := s.failWindow l
  match fails with
  | [t, _, u] => if t - u < 3600 then s.retire l else s
  | _ => s

/-- CV_LASTMIS and CV_LASTTICK of a verdict; `lane` 3 is NO_MAJORITY. -/
def State.lastMis (s : State) (kind : RecKind) (lane index : Nat) : State :=
  let w := fun (n : Nat) => BitVec.ofNat 32 n
  (((((s.setFld Reg.CV_LASTMIS_KIND (w kind.code)).setFld Reg.CV_LASTMIS_LANE (w lane)).setFld
    Reg.CV_LASTMIS_INDEX (w index)).setFld Reg.CV_LASTMIS_SLOT (w s.slotNo)).flag Reg.CV_LASTMIS_RETIRED false).setFld
    Reg.CV_LASTTICK_TICK (w s.time.tick)

/-- NO_MAJORITY (R172, R173, R176): the module goes to SAFE, with cause 0x01 among three lanes and 0x05 among two. -/
def State.noMajority (s : State) (kind : RecKind) (index : Nat) : State :=
  let cause := if s.voters = 3 then 0x01 else 0x05
  ((s.bump Reg.CV_MISMATCH_CNT).lastMis kind 3 index).enterSafe cause

/-- Whether a minority event of a lane is a failed re-admission (R185). -/
def State.isFailed (s : State) (l : Lane) (kind : RecKind) (index : Nat) : Bool :=
  kind == .reload ||
  (match s.cv.readmitted.get ⟨l.code, by cases l <;> decide⟩ with
   | some t => decide (s.time.tick - t < 64)
   | none => false) ||
  (match (s.cv.log l).last with
   | some p => p.index == index && p.slot == s.slotNo && p.kind == kind && decide (s.opSec - p.second < 3600)
   | none => false)

/-- A minority verdict among three voting lanes halts the lane (R177, R180); a failed re-admission may retire it. -/
def State.haltLane (s : State) (l : Lane) (kind : RecKind) (index : Nat) : State :=
  let failed := s.isFailed l kind index
  let s := ((s.bump Reg.CV_MISMATCH_CNT).bump l.misCnt).lastMis kind l.code index
  let s := if kind = .dlypar then s.bump Reg.CV_DLYPAR_CNT else s
  let s := (s.setLane l 1).setFld Reg.CV_STAT_LAST_MIN (BitVec.ofNat 32 l.code)
  let s := { s with cv.haltedAt := s.cv.haltedAt.setIfInBounds l.code s.time.tick }
  let s := s.report .d .warn (evCode 2 177 0) (srcNo 2 l.code)
    ([BitVec.ofNat 8 l.code, BitVec.ofNat 8 kind.code] ++ leBytes 4 index)
  let s := s.setLaneLog l { s.cv.log l with last := some ⟨index, s.slotNo, kind, s.opSec⟩ }
  if failed then s.failedReadmission l index else s

/-- A lane differs from the others: a minority among three voting lanes, NO_MAJORITY among two (R176). A lane that does
not vote presents no record. -/
def State.minority (s : State) (l : Lane) (kind : RecKind) (index : Nat) : State :=
  if !s.votes l then s
  else if s.voters = 3 then s.haltLane l kind index
  else s.noMajority kind index

/-- CV0 and CV1 differ on a verdict (R178): SAFE with cause 0x02, and no lane is halted. -/
def State.verdictSplit (s : State) (kind : RecKind) (index : Nat) : State :=
  (s.report .o .critical (evCode 2 178 0) (srcNo 2 0) ([BitVec.ofNat 8 kind.code] ++ leBytes 4 index)).enterSafe 0x02

/-- A parity error in the common sample path, or in two lanes (R181): SAFE with cause 0x04. -/
def State.samplePathError (s : State) (index : Nat) : State :=
  (s.report .o .critical (evCode 2 181 0) (srcNo 2 0) (leBytes 4 index)).enterSafe 0x04

/-- A lane comes back to voting after a re-admission (R183, R184). -/
def State.readmit (s : State) (l : Lane) : State :=
  let s := { s with cv.readmitted := s.cv.readmitted.setIfInBounds l.code (some s.time.tick) }
  ((s.setLane l 0).bump Reg.CV_READMIT_CNT).report .d .info (evCode 2 184 0) (srcNo 2 l.code) [BitVec.ofNat 8 l.code]

/-- What the Saddle finds decides whether the instruction at `index` goes on (`true`), and what happens to the lanes. -/
def State.voteGate (s : State) (v : Vote) (index : Nat) : State × Bool :=
  match v with
  | .agree => (s, true)
  | .minority l k =>
    let s' := s.minority l k index
    (s', decide (s'.mode ≠ .safe) || decide (s.mode = .safe))
  | .noMajority k => (s.noMajority k index, false)
  | .split k => (s.verdictSplit k index, false)
  | .parity a b c =>
    let hit := [(Lane.a, a), (.b, b), (.c, c)].filter (fun p => p.2 && s.votes p.1)
    match hit with
    | [] => (s, true)
    | [p] =>
      let s := if s.voters = 3 then s else s.bump Reg.CV_DLYPAR_CNT
      let s' := s.minority p.1 .dlypar index
      (s', decide (s'.mode ≠ .safe) || decide (s.mode = .safe))
    | _ => (s.samplePathError index, false)

end Sys2Proof.Machine
end

