-- ==== Sys2Proof/Machine/CcBase.lean ====
section
/-! DEFINITION. How the triad executes one Cycle Code instruction (R94 to R130): when one issues, the vote over its
records, its clock count, precise traps, and the boundary after it. -/
namespace Sys2Proof.Machine

/-- What the operation of an instruction comes to: its registers with PC already at the next instruction, its clocks and
the rest of the machine; or a precise trap after its clocks (R120). -/
inductive CcRes where
  | done (c : Ctx) (clocks : Nat) (s : State)
  | trap (t : TrapCode) (clocks : Nat) (s : State)
  /-- The release has been aborted already, by a STORE_ERROR found meanwhile (R121), or it has ended. -/
  | gone (s : State)

/-- A cyclic release whose measured count exceeds its claim issues nothing more (R53). -/
def State.overBudget (s : State) (w : Who) : Bool :=
  decide (w.val < 7) && decide ((s.fld (Reg.CE_WCET_WCET w.val)).toNat < (s.ce.task w).clocks)

/-- The consecutive-overrun count of a task has reached its limit N (R55). -/
def State.overrunDue (s : State) (w : Who) : Bool :=
  decide (w.val < 7) && decide ((s.fld (Reg.CE_TASKCFG_OVR_LIMIT w.val)).toNat + 1 ≤ (s.ce.task w).overruns)

/-- Who issues the next instruction: the one that executes, within its claim and below its overrun limit; T7 neither while it waits for the bridge
nor while a far error is to be raised in it (R45, R346); nobody while a lane is being reloaded (R183), or once the masters
have stopped (R210). -/
def State.issuer (s : State) : Option Who :=
  match s.ce.cur with
  | none => none
  | some w => if s.reloading || s.fld Reg.PWR_STAT_STOPPING == 1 || s.overBudget w || s.overrunDue w ||
      (decide (w = 7) && (s.bridgeWaits || s.rdg.farPending)) then none else some w

/-- The word address in Program RAM of the code word that holds instruction `index` of a slot (R207). -/
def fetchWord (slot index : Nat) : Nat := slot * slotWords + index / 2

/-- The records that an instruction presents to the Saddle besides its fetch (R174), and whether its request is a load
(R170). -/
structure Recs where
  kinds : List RecKind
  load : Bool
  deriving DecidableEq, Repr

/-- The record sets of the instruction families: nothing, a register or stack entry, FLAGS, both, a store of a signal with or
without a register, the end of a release. -/
def recNone : Ctx → Recs := fun _ => ⟨[], false⟩
def recReg : Ctx → Recs := fun _ => ⟨[.reg], false⟩
def recFlags : Ctx → Recs := fun _ => ⟨[.flags], false⟩
def recRegFlags : Ctx → Recs := fun _ => ⟨[.reg, .flags], false⟩
def recStore : Ctx → Recs := fun _ => ⟨[.store], false⟩
def recRegStore : Ctx → Recs := fun _ => ⟨[.reg, .store], false⟩
def recCommit : Ctx → Recs := fun _ => ⟨[.commit], false⟩

/-- A finding about a record that the instruction does not present is no finding. -/
def Vote.on (v : Vote) (k : Recs) : Vote :=
  match v with
  | .minority _ r | .noMajority r | .split r => if r = .fetch ∨ r ∈ k.kinds then v else .agree
  | _ => v

/-- Vote stall clocks of an instruction (R169, R170), among three voting lanes: 2 where lanes A and B differ on a load
request, up to 8 for a repeated fetch. In two-lane operation nothing waits or is repeated (R173). They are counted for the
module and left out of the measured count. -/
def State.voteStall (s : State) (v : Vote) (load : Bool) : State :=
  if s.voters ≠ 3 then s
  else match v with
    | .minority l .load | .minority l .regpage => if load ∧ l ≠ .c then s.bumpBy Reg.CE_VSTALLCNT 2 else s
    | .minority _ .fetch =>
      let r := s.draw Config.fetchRepeat 8
      r.2.bumpBy Reg.CE_VSTALLCNT r.1
    | _ => s

/-- Add measured clocks (R52). -/
def State.addClocks (s : State) (w : Who) (n : Nat) : State := s.modTask w (fun t => { t with clocks := t.clocks + n })

/-- Retire the result of an instruction: registers written, clocks counted, and the trap at the end of a slot (R113). -/
def settle (w : Who) (index : Nat) (r : CcRes) : State :=
  match r with
  | .gone s' => s'.dispatch
  | .trap t n s' => ((s'.addClocks w n).trap w t index).dispatch
  | .done c n s' =>
    let s' := (s'.addClocks w n).modTask w (fun t => { t with ctx := c })
    if 0x200000 ≤ c.pc then (s'.trap w .bus index).dispatch else s'

/-- Execute one instruction (R118, R127, R129): fetch its word, vote on its records `k`, operate, retire. `op` is the
operation on the registers of the release that issues it. -/
def State.execCc (s : State) (v : Vote) (k : Ctx → Recs) (op : Who → Ctx → State → CcRes) : State :=
  match s.issuer with
  | none => s
  | some w =>
    let c := (s.ce.task w).ctx
    let f := s.readWord .prg (fetchWord s.slotNo c.pc) .fetch
    if !f.2.1.ok then ((f.1.addClocks w 1).trap w .fetchUe c.pc).dispatch
    else
      let v := v.on (k c)
      let g := (f.1.voteStall v (k c).load).voteGate v c.pc
      if g.2 then settle w c.pc (op w c g.1) else g.1

/-- The registers with PC at the next instruction (R94). -/
def Ctx.next (c : Ctx) : Ctx := { c with pc := c.pc + 1 }

/-- The value of Gn. -/
def Ctx.get (c : Ctx) (n : BitVec 4) : Word := c.g.get n.toFin

/-- Write Gn. -/
def Ctx.set (c : Ctx) (n : BitVec 4) (v : Word) : Ctx := { c with g := c.g.set n.toFin v }

/-- An instruction that only changes registers, with the records `k`. -/
def State.execReg (s : State) (v : Vote) (k : Ctx → Recs) (clocks : Nat) (f : Ctx → Ctx) : State :=
  s.execCc v k (fun _ c s => .done (f c).next clocks s)


end Sys2Proof.Machine
end

