-- ==== Sys2Proof/Decode.lean ====
section
/-! DEFINITION. The words of Cycle Code (spec/04_cycle_code_model.md R100 to R102, spec/05_cycle_code_reference.md R131 to
R160) and the command that each spells. spec/opcode_table.json gives its rows no bits: a command reaches the block with its
operands, and what the triad issues next is the command that the word at its PC spells. -/
namespace Sys2Proof

open Machine

/-! ### Fields (R100) -/

/-- The fields of a word: OP, the 4-bit fields at bits 22, 18 and 14, the reserved bits and FN of format R, and the
immediates. -/
def Word.op (w : Word) : BitVec 6 := w.extractLsb' 26 6
def Word.f22 (w : Word) : BitVec 4 := w.extractLsb' 22 4
def Word.f18 (w : Word) : BitVec 4 := w.extractLsb' 18 4
def Word.f14 (w : Word) : BitVec 4 := w.extractLsb' 14 4
def Word.spare (w : Word) : BitVec 8 := w.extractLsb' 6 8
def Word.fn (w : Word) : BitVec 6 := w.extractLsb' 0 6
def Word.lo16 (w : Word) : BitVec 16 := w.extractLsb' 0 16
def Word.lo18 (w : Word) : BitVec 18 := w.extractLsb' 0 18
def Word.lo22 (w : Word) : BitVec 22 := w.extractLsb' 0 22
def Word.lo26 (w : Word) : BitVec 26 := w.extractLsb' 0 26

/-- The operand fields of each format. -/
def Word.sb (w : Word) : SbOp := ⟨w.getLsbD 25, w.getLsbD 24, w.extractLsb' 22 2, w.f18, w.lo18⟩
def Word.sw (w : Word) : SwOp := ⟨w.f22, w.f18, w.lo18⟩
def Word.mem (w : Word) : MemOp := ⟨w.f22, w.f18, w.lo18⟩
def Word.imm (w : Word) : ImmOp := ⟨w.f22, w.f18, w.lo18⟩
def Word.reg (w : Word) : RegOp := ⟨w.f22, w.f18, w.f14⟩

/-! ### Decoding -/

/-- Accumulator and stack instructions (R136). -/
def decodeAcc (v : Vote) (w : Word) : Instr :=
  let d := w.f22
  let a := w.f18
  if w.spare ≠ 0 ∨ w.f14 ≠ 0 then .illegal v
  else match w.fn.toNat with
  | 0x00 => if a = 0 then .push v d else .illegal v
  | 0x01 => if d = 0 ∧ a = 0 then .pop v else .illegal v
  | 0x02 => if d = 0 ∧ a = 0 then .pops v else .illegal v
  | 0x04 => if d = 0 ∧ a = 0 then .bnot v else .illegal v
  | 0x05 => if d = 0 ∧ a = 0 then .bnots v else .illegal v
  | 0x06 => if d = 0 ∧ a = 0 then .bone v else .illegal v
  | 0x07 => if d = 0 ∧ a = 0 then .bzero v else .illegal v
  | 0x08 => if d = 0 ∧ a = 0 then .bany v else .illegal v
  | 0x09 => if d = 0 ∧ a = 0 then .ball v else .illegal v
  | 0x0a => if a = 0 then .mfba v d else .illegal v
  | 0x0b => if d = 0 then .mtba v a else .illegal v
  | 0x0c => if a = 0 then .mfsm v d else .illegal v
  | 0x0d => if d = 0 then .mtsm v a else .illegal v
  | 0x0e => if a = 0 then .bcnt v d else .illegal v
  | 0x0f => if d = 0 ∧ a = 0 then .bsplat v else .illegal v
  | _ => .illegal v

/-- Integer instructions (R144). -/
def decodeInt (v : Vote) (w : Word) : Instr :=
  let d := w.f22
  let a := w.f18
  let b := w.f14
  if w.spare ≠ 0 then .illegal v
  else match w.fn.toNat with
  | 0x00 => .add v w.reg
  | 0x01 => .sub v w.reg
  | 0x02 => .and v w.reg
  | 0x03 => .or v w.reg
  | 0x04 => .xor v w.reg
  | 0x08 => .shl v w.reg
  | 0x09 => .shr v w.reg
  | 0x0a => .sar v w.reg
  | 0x10 => .mul v w.reg
  | 0x14 => .div v w.reg
  | 0x15 => .divu v w.reg
  | 0x16 => .rem v w.reg
  | 0x17 => .remu v w.reg
  | 0x20 => if d = 0 then .cmp v a b else .illegal v
  | 0x28 => if b = 0 then .mov v d a else .illegal v
  | 0x30 => if d = 0 ∧ b = 0 then .mtwa v a else .illegal v
  | 0x31 => if a = 0 ∧ b = 0 then .mfwa v d else .illegal v
  | _ => .illegal v

/-- Binary32 instructions (R147). -/
def decodeFloat (v : Vote) (w : Word) : Instr :=
  let a := w.f18
  if w.spare ≠ 0 ∨ w.f14 ≠ 0 ∨ w.f22 ≠ 0 then .illegal v
  else match w.fn.toNat with
  | 0x00 => .fadd v a
  | 0x01 => .fsub v a
  | 0x02 => .fmul v a
  | 0x03 => .fdiv v a
  | 0x04 => if a = 0 then .fsqrt v else .illegal v
  | 0x05 => .fcmp v a
  | 0x08 => if a = 0 then .fitof v else .illegal v
  | 0x09 => if a = 0 then .futof v else .illegal v
  | 0x0a => if a = 0 then .fftoi v else .illegal v
  | 0x0b => if a = 0 then .fftoir v else .illegal v
  | _ => .illegal v

/-- System instructions (R158, R160). -/
def decodeSys (v : Vote) (w : Word) : Instr :=
  let d := w.f22
  let a := w.f18
  if w.spare ≠ 0 ∨ w.f14 ≠ 0 then .illegal v
  else match w.fn.toNat with
  | 0x00 => if d = 0 ∧ a = 0 then .nop v else .illegal v
  | 0x01 => if d = 0 ∧ a = 0 then .ret v else .illegal v
  | 0x02 => if d = 0 ∧ a = 0 then .endRelease v else .illegal v
  | 0x03 => if d = 0 ∧ a = 0 then .clrf v else .illegal v
  | 0x04 => if a = 0 then .mff v d else .illegal v
  | 0x05 => if d = 0 then .mtf v a else .illegal v
  | _ => .illegal v

/-- The command that a Cycle Code word spells, with what the Saddle finds over it; a reserved encoding is ILLEGAL (R101,
R102). SUB values, combine codes, odd register pairs and shift codes that are reserved are found by the instruction. -/
def decodeCc (v : Vote) (w : Word) : Instr :=
  match w.op.toNat with
  | 0x01 => .bld v w.sb
  | 0x02 => .band v w.sb
  | 0x03 => .bor v w.sb
  | 0x04 => .bxor v w.sb
  | 0x05 => .bst v w.sb
  | 0x06 => .bsr v w.sb
  | 0x07 => .bedge v w.sb
  | 0x08 => decodeAcc v w
  | 0x10 => .wld v w.sw
  | 0x11 => .wst v w.sw
  | 0x12 => .slds v w.sw
  | 0x13 => .ssts v w.sw
  | 0x14 => .sage v w.sw
  | 0x15 => if w.f22 = 0 then .wald v w.f18 w.lo18 else .illegal v
  | 0x16 => if w.f22 = 0 then .wast v w.f18 w.lo18 else .illegal v
  | 0x18 => decodeInt v w
  | 0x19 => .addi v w.imm
  | 0x1a => .andi v w.imm
  | 0x1b => .ori v w.imm
  | 0x1c => .xori v w.imm
  | 0x1d => if w.f22 = 0 then .cmpi v w.f18 w.lo18 else .illegal v
  | 0x1e => .shi v w.imm
  | 0x1f => .lui v w.f22 w.lo22
  | 0x20 => decodeFloat v w
  | 0x24 => .ldw v w.mem
  | 0x25 => .ldh v w.mem
  | 0x26 => .ldby v w.mem
  | 0x27 => .ldp v w.mem
  | 0x28 => .stw v w.mem
  | 0x29 => .sth v w.mem
  | 0x2a => .stby v w.mem
  | 0x2b => .stp v w.mem
  | 0x2c => .br v w.f22 w.lo22
  | 0x2d => .call v w.lo26
  | 0x2e => if w.extractLsb' 16 6 = 0 then .loop v w.f22 w.lo16 else .illegal v
  | 0x2f => if w.lo26 = 0 then .endl v else .illegal v
  | 0x30 => decodeSys v w
  | _ => .illegal v

/-! ### Encoding -/

/-- The formats of R100. -/
def packR (op : BitVec 6) (rd ra rb : BitVec 4) (fn : BitVec 6) : Word := op ++ rd ++ ra ++ rb ++ 0#8 ++ fn
def packI (op : BitVec 6) (a b : BitVec 4) (c : BitVec 18) : Word := op ++ a ++ b ++ c
def packU (op : BitVec 6) (a : BitVec 4) (c : BitVec 22) : Word := op ++ a ++ c
def packC (op : BitVec 6) (c : BitVec 26) : Word := op ++ c
def packL (op : BitVec 6) (a : BitVec 4) (c : BitVec 16) : Word := op ++ a ++ 0#6 ++ c
def packSb (op : BitVec 6) (o : SbOp) : Word := op ++ BitVec.ofBool o.sl ++ BitVec.ofBool o.neg ++ o.sub ++ o.ix ++ o.sid

/-- The word of a Cycle Code instruction; none for the commands that are no instruction, and for ILLEGAL, which many words
spell. -/
def encodeCc : Instr → Option Word
  | .bld _ o => some (packSb 0x01 o)
  | .band _ o => some (packSb 0x02 o)
  | .bor _ o => some (packSb 0x03 o)
  | .bxor _ o => some (packSb 0x04 o)
  | .bst _ o => some (packSb 0x05 o)
  | .bsr _ o => some (packSb 0x06 o)
  | .bedge _ o => some (packSb 0x07 o)
  | .push _ d => some (packR 0x08 d 0 0 0x00)
  | .pop _ => some (packR 0x08 0 0 0 0x01)
  | .pops _ => some (packR 0x08 0 0 0 0x02)
  | .bnot _ => some (packR 0x08 0 0 0 0x04)
  | .bnots _ => some (packR 0x08 0 0 0 0x05)
  | .bone _ => some (packR 0x08 0 0 0 0x06)
  | .bzero _ => some (packR 0x08 0 0 0 0x07)
  | .bany _ => some (packR 0x08 0 0 0 0x08)
  | .ball _ => some (packR 0x08 0 0 0 0x09)
  | .mfba _ d => some (packR 0x08 d 0 0 0x0a)
  | .mtba _ a => some (packR 0x08 0 a 0 0x0b)
  | .mfsm _ d => some (packR 0x08 d 0 0 0x0c)
  | .mtsm _ a => some (packR 0x08 0 a 0 0x0d)
  | .bcnt _ d => some (packR 0x08 d 0 0 0x0e)
  | .bsplat _ => some (packR 0x08 0 0 0 0x0f)
  | .wld _ o => some (packI 0x10 o.rt o.ix o.sid)
  | .wst _ o => some (packI 0x11 o.rt o.ix o.sid)
  | .slds _ o => some (packI 0x12 o.rt o.ix o.sid)
  | .ssts _ o => some (packI 0x13 o.rt o.ix o.sid)
  | .sage _ o => some (packI 0x14 o.rt o.ix o.sid)
  | .wald _ ix sid => some (packI 0x15 0 ix sid)
  | .wast _ ix sid => some (packI 0x16 0 ix sid)
  | .add _ o => some (packR 0x18 o.rd o.ra o.rb 0x00)
  | .sub _ o => some (packR 0x18 o.rd o.ra o.rb 0x01)
  | .and _ o => some (packR 0x18 o.rd o.ra o.rb 0x02)
  | .or _ o => some (packR 0x18 o.rd o.ra o.rb 0x03)
  | .xor _ o => some (packR 0x18 o.rd o.ra o.rb 0x04)
  | .shl _ o => some (packR 0x18 o.rd o.ra o.rb 0x08)
  | .shr _ o => some (packR 0x18 o.rd o.ra o.rb 0x09)
  | .sar _ o => some (packR 0x18 o.rd o.ra o.rb 0x0a)
  | .mul _ o => some (packR 0x18 o.rd o.ra o.rb 0x10)
  | .div _ o => some (packR 0x18 o.rd o.ra o.rb 0x14)
  | .divu _ o => some (packR 0x18 o.rd o.ra o.rb 0x15)
  | .rem _ o => some (packR 0x18 o.rd o.ra o.rb 0x16)
  | .remu _ o => some (packR 0x18 o.rd o.ra o.rb 0x17)
  | .cmp _ a b => some (packR 0x18 0 a b 0x20)
  | .mov _ d a => some (packR 0x18 d a 0 0x28)
  | .mtwa _ a => some (packR 0x18 0 a 0 0x30)
  | .mfwa _ d => some (packR 0x18 d 0 0 0x31)
  | .addi _ o => some (packI 0x19 o.rd o.ra o.imm)
  | .andi _ o => some (packI 0x1a o.rd o.ra o.imm)
  | .ori _ o => some (packI 0x1b o.rd o.ra o.imm)
  | .xori _ o => some (packI 0x1c o.rd o.ra o.imm)
  | .shi _ o => some (packI 0x1e o.rd o.ra o.imm)
  | .cmpi _ a i => some (packI 0x1d 0 a i)
  | .lui _ d i => some (packU 0x1f d i)
  | .fadd _ a => some (packR 0x20 0 a 0 0x00)
  | .fsub _ a => some (packR 0x20 0 a 0 0x01)
  | .fmul _ a => some (packR 0x20 0 a 0 0x02)
  | .fdiv _ a => some (packR 0x20 0 a 0 0x03)
  | .fsqrt _ => some (packR 0x20 0 0 0 0x04)
  | .fcmp _ a => some (packR 0x20 0 a 0 0x05)
  | .fitof _ => some (packR 0x20 0 0 0 0x08)
  | .futof _ => some (packR 0x20 0 0 0 0x09)
  | .fftoi _ => some (packR 0x20 0 0 0 0x0a)
  | .fftoir _ => some (packR 0x20 0 0 0 0x0b)
  | .ldw _ o => some (packI 0x24 o.rt o.rb o.off)
  | .ldh _ o => some (packI 0x25 o.rt o.rb o.off)
  | .ldby _ o => some (packI 0x26 o.rt o.rb o.off)
  | .ldp _ o => some (packI 0x27 o.rt o.rb o.off)
  | .stw _ o => some (packI 0x28 o.rt o.rb o.off)
  | .sth _ o => some (packI 0x29 o.rt o.rb o.off)
  | .stby _ o => some (packI 0x2a o.rt o.rb o.off)
  | .stp _ o => some (packI 0x2b o.rt o.rb o.off)
  | .br _ c i => some (packU 0x2c c i)
  | .call _ i => some (packC 0x2d i)
  | .loop _ c n => some (packL 0x2e c n)
  | .endl _ => some (packC 0x2f 0)
  | .nop _ => some (packR 0x30 0 0 0 0x00)
  | .ret _ => some (packR 0x30 0 0 0 0x01)
  | .endRelease _ => some (packR 0x30 0 0 0 0x02)
  | .clrf _ => some (packR 0x30 0 0 0 0x03)
  | .mff _ d => some (packR 0x30 d 0 0 0x04)
  | .mtf _ a => some (packR 0x30 0 a 0 0x05)
  | _ => none

/-! ### What the triad issues next (R118, R207) -/

/-- The command that the word at the PC of the issuing release spells; none while nothing issues, or where the word has an
uncorrectable error (FETCH_UE). -/
def Machine.State.nextCc (s : State) (v : Vote) : Option Instr :=
  match s.issuer with
  | none => none
  | some w =>
    let pc := (s.ce.task w).ctx.pc
    let f := s.readWord .prg (fetchWord s.slotNo pc) .fetch
    if f.2.1.ok then some (decodeCc v (f.2.2.extractLsb' (32 * (pc % 2)) 32)) else none

/-! ### The opcode table -/

/-- The command that a word spells by the table's bits: the table gives no row any bits. -/
def decodeTableWord (_nbits _w : Nat) : Option Instr := none

end Sys2Proof
end

