-- ==== Sys2Proof/Machine/NetRows.lean ====
section
/-! DEFINITION. Commands of the train network: switch, PRP and HSR, TRDP, raw Ethernet, TTDP, time
(spec/12_train_network.md R289 to R307). -/
namespace Sys2Proof.Machine

/-! ### Ethernet -/

/-- ETH_FRAME_RECEIVE (R289): a frame at a port, with the egress queues that are full from now on. What it carries for the module
waits at the internal port for the command of its kind, a command packet for the command of its opcode. -/
def execEthFrameReceive (port : Nat) (frame : LinkFrame) (full : List (Nat × Nat)) (s : State) : Out := .next <|
  let s := { s with net.full := full }
  if 1 ≤ port ∧ port ≤ 11 ∧ s.portUp port then
    (s.receive (ethLink port) frame (fun s f => s.ethIn port f)).portBoundary port
  else s

/-- The next message at the internal port for its user (R288). -/
def State.nextMsg (s : State) (m : NetMsg) : Bool := s.net.inbox.find? (fun x => x.user == m.user) == some m

/-- A message reaches its user, if it is the user's next one (notes/assumptions/5.md). -/
def State.takeMsg (s : State) (m : NetMsg) (h : State → State) : State :=
  if s.nextMsg m then h { s with net.inbox := s.net.inbox.erase m } else s

/-- ETH_LINK_CHANGE (R289): a port gains link at a speed (1 to 3), E9 to E11 at 100 Mbit/s, or loses it. What an injection holds
for a link that goes down is discarded (R476). -/
def execEthLinkChange (port : Nat) (up : Bool) (speed : Nat) (s : State) : Out := .next <|
  if 1 ≤ port ∧ port ≤ 11 then
    let s := (s.flag (Reg.ESW_PORTSTAT_LINK port) up).setFld (Reg.ESW_PORTSTAT_SPEED port)
      (if !up then 0 else if 9 ≤ port then 2 else BitVec.ofNat 32 (speed % 4))
    let s := s.putBit Reg.ESW_STAT_LINK (port - 1) up
    if up then s else s.fiLinkDown (ethLink port)
  else s

/-- NODE_TABLE_EXPIRY (R293): entries without a frame for 400 ms go. -/
def execNodeTableExpiry (s : State) : Out := .next <|
  { s with net.nodes := s.net.nodes.filter (fun e => decide (s.opNs - e.used < 400000000)) }

/-- SUPERVISION_FRAME (R291): the frames of the unit address on every redundant pair. -/
def execSupervisionFrame (s : State) : Out := .next ((List.range 4).foldl (fun s k => s.supervise k false) s)

/-! ### TRDP PD (R297, R298) -/

/-- Subscribe entry `i`: COMID, SRC_IP, DEST_IP. -/
def State.subMatches (s : State) (i : Nat) (t : PdTelegram) : Bool :=
  let o := pdSubscribeOff i
  let src := s.cfg 0x09 (o + 4) 4
  s.cfg 0x09 o 4 == t.comId && s.cfg 0x09 (o + 8) 4 == t.dst && (src == 0 || src == t.src)

/-- The number of subscribe entries in use. -/
def State.subCount (s : State) : Nat := min 4096 (s.cfg 0x09 0x06 2)

/-- A subscription is timed out (R298). -/
def State.subLost (s : State) (i : Nat) : Bool := s.bit (Reg.TPD_SUBLOST (i / 32)) (i % 32)

/-- The duplicate test of R297 step 3. -/
def State.pdDuplicate (s : State) (i : Nat) (t : PdTelegram) : Bool :=
  match sget s.net.subs i with
  | none => false
  | some (last, _) =>
    let d := (t.seq + 2 ^ 32 - last) % 2 ^ 32
    !s.subLost i && (d == 0 || decide (2 ^ 31 ≤ d))

/-- A received telegram (R297): the checks in order, then the dataset as one group. -/
def State.pdIn (s : State) (t : PdTelegram) : State :=
  if s.fld Reg.TPD_CTRL_ENABLE = 0 ∨ !s.mode.acquires then s
  else if !t.fcsOk ∨ t.msgType ≠ 0x5064 ∨ t.version / 256 ≠ 0x01 then s.bump Reg.TPD_RXERRCNT
  else match (List.range s.subCount).find? (fun i => s.subMatches i t) with
    | none => s.bump Reg.TPD_UNKCNT
    | some i =>
      let o := pdSubscribeOff i
      if s.pdDuplicate i t then s.bump Reg.TPD_DUPCNT
      else if t.topo ≠ 0 ∧ t.topo.toNat ≠ s.topoCnt then
        (s.bump Reg.TPD_TOPODISCCNT).flag Reg.TPD_EVT_TOPO_DISC true
      else if t.length ≠ s.cfg 0x09 (o + 0x12) 2 then s.bump Reg.TPD_LENERRCNT
      else
        let fs := confFields s.cmd.config 0x09 pdFieldsOff (s.cfg 0x09 (o + 0x0E) 2) (s.cfg 0x09 (o + 0x10) 2)
        let s := State.bump { s with net.subs := sput s.net.subs i (t.seq, s.img.ageClock) } Reg.TPD_RXCNT
        (s.clrBit (Reg.TPD_SUBLOST (i / 32)) (i % 32)).deliver (.pdSub i) (parseData fs true t.data)

/-- PD_RECEIVE (R297). -/
def execPdReceive (t : PdTelegram) (s : State) : Out := .next (s.takeMsg (.pd t) (·.pdIn t))

/-- Subscription `i` has received nothing for its time-out. -/
def State.subDue (s : State) (i : Nat) : Bool :=
  let at_ := match sget s.net.subs i with
    | some (_, t) => max t s.net.pdSince
    | none => s.net.pdSince
  let lim := s.cfg 0x09 (pdSubscribeOff i + 0x0C) 2
  !s.subLost i && decide (lim ≠ 0 ∧ lim ≤ s.img.ageClock - at_)

/-- PD_TIMEOUT (R298): every subscription that is due is declared lost. -/
def execPdTimeout (s : State) : Out := .next <|
  if s.fld Reg.TPD_CTRL_ENABLE = 0 ∨ !s.mode.acquires then s
  else (List.range s.subCount).foldl (fun s i =>
    if s.subDue i then
      (((s.setBit (Reg.TPD_SUBLOST (i / 32)) (i % 32)).flag Reg.TPD_EVT_TIMEOUT true).bump Reg.TPD_TIMEOUTCNT).acquire
        (.pdSub i) .lost
    else s) s

/-! ### TRDP MD and raw Ethernet (R299, R300) -/

/-- An answer of the firmware to an MD message, to its peer (R299). -/
def State.mdAnswer (s : State) (kind : Nat) (m : MdMessage) : State :=
  s.unitUdp m.peer mdPort mdPort (mdPdu kind m.comId m.session [])

/-- A received MD message (R299): of list 1 or 2 it goes to ring 5 or 7, of another ComId it is answered with Me ('Me' is
0x4D65). An answer to a session that no longer waits is discarded; one that asks for a confirmation is confirmed ('Mc' is
0x4D63). -/
def State.mdIn (s : State) (m : MdMessage) : State :=
  let ring := if m.comId ∈ s.mdList 0 then some 5 else if m.comId ∈ s.mdList 1 then some 7 else none
  match ring with
  | none => State.mdAnswer { s with net.meCount := s.net.meCount + 1 } 0x4D65 m
  | some n =>
    let f : AgentFrame := ⟨m.pdu, m.link, BitVec.ofNat 32 m.comId, BitVec.ofNat 32 m.peer⟩
    if m.reply then
      match sget s.net.md m.session with
      | none => s
      | some _ =>
        let s := { s with net.md := serase s.net.md m.session }
        let s := if m.confirm then s.mdAnswer 0x4D63 m else s
        s.ringIn n 3 f
    else s.ringIn n 3 f

/-- MD_RECEIVE (R299). -/
def execMdReceive (m : MdMessage) (s : State) : Out := .next (s.takeMsg (.md m) (·.mdIn m))

/-- MD_REPLY_TIMEOUT (R299): a session waits no longer. -/
def execMdReplyTimeout (session : Nat) (s : State) : Out :=
  .next { s with net.md := serase s.net.md session }

/-- RAW_ETHERNET_RECEIVE (R300): the frame goes to ring 31. -/
def execRawEthernetReceive (link : Nat) (bytes : List Byte) (s : State) : Out := .next <|
  s.takeMsg (.raw link bytes) (·.linkIn 31 11 link ⟨bytes, link, 0, 0⟩ false false)

/-! ### TTDP and ETB (R301 to R304) -/

/-- The MAC address of a neighbour, zero for none. -/
def neighbourMac (x : Option (Nat × Nat)) : Nat := (x.map (·.1)).getD 0

/-- What the unit sends to the ETB every 15 ms: HELLO and its own TOPOLOGY on both ports. -/
def State.ttdpSend (s : State) : State :=
  let fs := [helloFrame s.unitMac, topologyFrame s.unitMac (neighbourMac s.net.neigh1) (neighbourMac s.net.neigh2)]
  s.sendAll (fs.flatMap (fun b => [⟨9, 3, b⟩, ⟨10, 3, b⟩]))

/-- A received HELLO resets the count of its neighbour; a TOPOLOGY replaces the one of its sender. -/
def State.ttdpIn (s : State) (m : NetMsg) : State :=
  match m with
  | .hello false mac => { s with net.neigh1 := some (mac, 0) }
  | .hello true mac => { s with net.neigh2 := some (mac, 0) }
  | .topology mac a b => { s with net.topology := (mac, a, b) :: s.net.topology.filter (fun e => e.1 != mac) }
  | _ => s

/-- TTDP_HELLO (R301): the next HELLO or TOPOLOGY at the internal port; or the 15 ms are over, at which the unit sends, and one
more HELLO is awaited from each neighbour. -/
def execTtdpHello (rx : Bool) (s : State) : Out := .next <|
  if !s.etbn then s
  else if rx then
    match s.net.inbox.find? (fun m => m.user == 3) with
    | some m => s.takeMsg m (·.ttdpIn m)
    | none => s
  else
    let more := fun (x : Option (Nat × Nat)) => x.map (fun p => (p.1, p.2 + 1))
    let s := s.ttdpSend
    { s with net.neigh1 := more s.net.neigh1, net.neigh2 := more s.net.neigh2 }

/-- TTDP_NEIGHBOUR_LOST (R301): 3 missed HELLOs lose a neighbour; routing stays on the last directory (R303). -/
def execTtdpNeighbourLost (s : State) : Out := .next <|
  let keep := fun (x : Option (Nat × Nat)) => x.filter (fun p => decide (p.2 < 3))
  { s with net.neigh1 := keep s.net.neigh1, net.neigh2 := keep s.net.neigh2 }

/-- A topography counter goes to the signal of a TOPO_SIGNAL word as one group (R303, R313). -/
def State.topoSignal (s : State) (block : Nat) (x : Src) (v : Word) : State :=
  match s.cfgSignal block 0x0C with
  | some id => s.deliver x [⟨id, some (true, v), true, 1⟩]
  | none => s

/-- The ETBNs of the train in the order of the line (R301): from the end in direction 1 to the end in direction 2. -/
def State.etbLine (s : State) : List Nat :=
  let side := fun (x : Option (Nat × Nat)) => match x with
    | some p => etbWalk s.net.topology 64 s.unitMac p.1
    | none => []
  (side s.net.neigh1).reverse ++ [s.unitMac] ++ side s.net.neigh2

/-- The train directory (R301): the line from the end that gives the unit position `pos`, none where it has it from neither end
(notes/assumptions/46.md). -/
def State.directory (s : State) (pos : Nat) : Option (List Nat) :=
  [s.etbLine, s.etbLine.reverse].find? (fun l => pos != 0 && l[pos - 1]? == some s.unitMac)

/-- ETB_INAUGURATION (R302, R303): the train directory comes into force with a new etbTopoCnt, unless the train has more than 32
ETBNs. -/
def execEtbInauguration (count pos : Nat) (topo : Word) (s : State) : Out := .next <|
  let w := fun (n : Nat) => BitVec.ofNat 32 n
  if !s.etbn ∨ count ≠ s.etbLine.length then s
  else if 32 < count then
    (s.flag Reg.ESW_ETBSTAT_OVERSIZE true).report .o .fault (evCode 7 302 0) (srcNo 7 0) [BitVec.ofNat 8 count]
  else match s.directory pos with
  | none => s
  | some dir =>
    let s := { s with net.trainDir := dir, net.networkDir := dir.mapIdx (fun i m => (i + 1, m)) }
    let s := ((s.flag Reg.ESW_ETBSTAT_OVERSIZE false).flag Reg.ESW_ETBSTAT_INAUG true).setFld Reg.ESW_ETBSTAT_POS (w pos)
    let s := (s.setFld Reg.ESW_ETBSTAT_COUNT (w count)).setFld Reg.ESW_ETBTOPO_TOPO topo
    let s := (s.flag Reg.ESW_EVT_INAUG true).report .o .info (evCode 7 303 0) (srcNo 7 0)
      [BitVec.ofNat 8 count, BitVec.ofNat 8 pos]
    s.topoSignal 0x09 .status topo

/-! ### Time (R305 to R307) -/

/-- PPS-IN has been used within the last 1.1 s, and its second numbers are known. -/
def State.ppsOk (s : State) : Bool := s.fld Reg.ENC_STAT_PPS_IN_OK == 1 && s.time.utcValid

/-- The source of calendar time follows what is available (R306). -/
def State.timeSource (s : State) : State :=
  s.setFld Reg.ESW_PTPSTAT_SOURCE
    (if s.fld Reg.ESW_PTPSTAT_LOCKED = 1 then 3 else if s.ppsOk then 2 else if s.net.timeSet then 1 else 0)

/-- Calendar time is set. -/
def State.setUtc (s : State) (ns : Nat) : State :=
  { s with time.utc := ns % 2 ^ 64, time.utcValid := true }.flag Reg.ESW_PTPSTAT_TIME_VALID true |>.flag Reg.LOG_STAT_TIME_UNSET false

/-- A signed number of ns as a saturating 32-bit field. -/
def satInt (i : Int) : Word :=
  if i < -2147483648 then 0x80000000 else if 2147483647 < i then 0x7FFFFFFF else BitVec.ofInt 32 i

/-- The module may become grandmaster: clockClass 255 is that of a clock that only follows (R305). -/
def State.mayLead (s : State) : Bool := s.ownClock.class_ != 255

/-- An Announce (R305): a better clock than the own and than the best known becomes grandmaster and names the UTC offset; a worse
one leaves the module, where it may, grandmaster with 37 s. -/
def State.announceIn (s : State) (off : Nat) (c : ClockData) : State :=
  if s.net.best.any (fun b => b.better c) then s
  else if c.better s.ownClock ∨ !s.mayLead then
    { s with net.best := some c, net.utcOffset := off }.flag Reg.ESW_PTPSTAT_GM false
  else { s with net.best := none, net.utcOffset := 37 }.flag Reg.ESW_PTPSTAT_GM true

/-- A Sync (R306) corrects the clock; the eighth in a row within 1 µs locks it, and while locked it gives calendar time. A
grandmaster follows no Sync. -/
def State.syncIn (s : State) (tai : Nat) : State :=
  if s.fld Reg.ESW_PTPSTAT_GM = 1 then s
  else
    let ofs : Int := match s.net.tai with
      | some t => (t : Int) - tai
      | none => 0
    let n := if s.net.tai.isSome ∧ ofs.natAbs ≤ 1000 then min 8 (s.net.inRange + 1) else 0
    let s := State.setFld { s with net.tai := some tai, net.inRange := n } Reg.ESW_PTPOFS_OFFSET (satInt ofs)
    let s := if n = 8 then s.flag Reg.ESW_PTPSTAT_LOCKED true else s
    if s.fld Reg.ESW_PTPSTAT_LOCKED = 1 then (s.setUtc (tai - s.net.utcOffset * 1000000000)).timeSource else s

/-- PTP_MESSAGE (R305, R306). -/
def execPtpMessage (m : PtpMsg) (s : State) : Out := .next <|
  s.takeMsg (.ptp m) (fun s => match m with
    | .announce off c => s.announceIn off c
    | .sync tai => s.syncIn tai)

/-- PTP_LOCK_LOST (R305, R306): 3 Announce intervals without a Sync, or an offset beyond 10 µs; no grandmaster is known any
more. -/
def execPtpLockLost (s : State) : Out := .next <|
  if s.fld Reg.ESW_PTPSTAT_LOCKED = 0 then { s with net.best := none, net.utcOffset := 37 }
  else ((State.flag { s with net.inRange := 0, net.best := none, net.utcOffset := 37 } Reg.ESW_PTPSTAT_LOCKED false).flag
    Reg.ESW_EVT_PTP_LOCK_LOST true).timeSource

/-- The PTP clock: what Syncs have set, else calendar time, else the time since the start, in TAI ns (R305). -/
def State.taiNow (s : State) : Nat :=
  match s.net.tai with
  | some t => t
  | none => if s.time.utcValid then s.time.utc + 37000000000 else s.img.ageClock * 250000

/-- With no better clock known, a module that may lead is grandmaster and sends Announce and Sync, once a second, from a standby
as well: PTP runs from the unit address (R290, R305). -/
def State.lead (s : State) : State :=
  if s.net.best.isSome ∨ !s.mayLead then s
  else
    let s := s.flag Reg.ESW_PTPSTAT_GM true
    (s.unitSend (announceFrame s.unitMac s.ptpOwn 37 s.ownClock)).unitSend (syncFrame s.unitMac s.ptpOwn s.taiNow)

/-- A PPS-IN edge behind the injector, `into` ns after the last tick boundary, at the 8 ns of the NET clock (R306, R307). The
first edge after a time without one starts the sequence. -/
def State.ppsEdge (s : State) (into : Nat) : State :=
  let d := into / 8 * 8
  let t := s.img.ageClock * 250000 + d
  let used := match s.net.ppsAt with
    | none => true
    | some p => decide (p + 999000000 ≤ t ∧ t ≤ p + 1001000000)
  if !used then { s with net.ppsIgnored := s.net.ppsIgnored + 1 }
  else
    let s := State.flag { s with net.ppsAt := some t } Reg.ENC_STAT_PPS_IN_OK true
    if !s.time.utcValid then s
    else
      let s := if s.fld Reg.ESW_PTPSTAT_LOCKED = 1 then s
        else s.setUtc ((s.time.utc + d + 500000000) / 1000000000 * 1000000000 - d)
      let at_ := s.time.utc + d
      ((s.setFld Reg.ENC_PPSINLO_TIME (BitVec.ofNat 32 at_)).setFld Reg.ENC_PPSINHI_TIME
        (BitVec.ofNat 32 (at_ / 2 ^ 32))).timeSource

/-- PPS_IN_EDGE (R307): a rising edge. -/
def execPpsInEdge (into : Nat) (s : State) : Out := .next <|
  if s.fld Reg.ENC_CTRL_PPS_IN_EN = 0 then s
  else s.receive linkPpsIn ⟨[], true⟩ (fun s _ => s.ppsEdge into)

/-- PPS_IN_TIMEOUT (R307): no edge has been used for 1.1 s. -/
def execPpsInTimeout (s : State) : Out := .next <|
  (State.flag { s with net.ppsAt := none } Reg.ENC_STAT_PPS_IN_OK false).timeSource

/-- WHOLE_SECOND (R305, R307, R30): a staged PPS-OUT selection applies; then the IEEE 1588 pulse leaves where it is selected,
while calendar time is valid, not from a standby (R315); and a grandmaster sends. -/
def execWholeSecond (s : State) : Out := .next <|
  let s := s.applyStaged (fun k => k == Reg.ENC_CTRL_PPS_OUT_SEL)
  let s := if s.fld Reg.ENC_CTRL_PPS_OUT_SEL = 0 ∧ s.time.utcValid ∧ ¬ s.follows then s.transmit linkPpsOut ⟨[], true⟩ else s
  s.lead

end Sys2Proof.Machine
end

