-- ==== Sys2Proof/Machine/BusRows.lean ====
section
/-! DEFINITION. Commands of MVB, WTB, CAN and the serial links (spec/12_train_network.md R308 to R322). -/
namespace Sys2Proof.Machine

/-- A frame on one of two lines passes its injector: the frames that are valid, with errors counted (R308). -/
def State.rxLine (s : State) (l cnt : Nat) (valid : LinkFrame → Bool) : Option LinkFrame → State × List LinkFrame
  | none => (s, [])
  | some f =>
    let r := s.fiPass l true f
    (r.1.bumpBy cnt (r.2.countP (fun g => !valid g)), r.2.filter valid)

/-! ### MVB (R308 to R311) -/

/-- The MVB device is enabled. -/
def State.mvbOn (s : State) : Bool := s.fld Reg.MVB_CTRL_ENABLE == 1 && !decide (Inst.mvb ∈ s.bus.shutting)

/-- A pair of MVB frames: line health, errors, and the first valid frame. -/
def State.mvbPair (s : State) (valid : LinkFrame → Bool) (a b : Option LinkFrame) : State × Option LinkFrame :=
  let ra := s.rxLine linkMvbA Reg.MVB_ERRACNT valid a
  let rb := ra.1.rxLine linkMvbB Reg.MVB_ERRBCNT valid b
  let s := if ra.2.isEmpty then rb.1 else rb.1.flag Reg.MVB_STAT_LINE_A true
  let s := if rb.2.isEmpty then s else s.flag Reg.MVB_STAT_LINE_B true
  (s, (ra.2 ++ rb.2).head?)

/-- The first slave frame that follows a master frame and is valid. -/
def State.mvbSlave (s : State) (valid : LinkFrame → Bool) (sa sb : Option LinkFrame) (h : State → List Byte → State) : State :=
  let r := s.mvbPair valid sa sb
  match r.2 with
  | none => r.1
  | some d => h r.1 d.bytes

/-- The device answers a master frame: the slave frame goes out on both lines (R308). -/
def State.mvbAnswer (s : State) (b : List Byte) : State :=
  ((s.transmit linkMvbA ⟨b, true⟩).transmit linkMvbB ⟨b, true⟩).bump Reg.MVB_SFCNT

/-- A master frame that asks port `i` (R310, R311): a source port is answered from its rebuilt buffer, a sink port receives. -/
def State.mvbPort (s : State) (i : Nat) (sa sb : Option LinkFrame) : State :=
  if s.mvbIsSink i then
    s.mvbSlave (fun f => f.ok && f.bytes.length == s.mvbSize i) sa sb (fun s b =>
      let s := { s with bus.mvbAt := sput s.bus.mvbAt i s.img.ageClock }
      (s.clrBit (Reg.MVB_SINKLOST (i / 32)) (i % 32)).deliver (.mvbSink i) (parseData (s.mvbFields i) true b))
  else if s.mvbOn then
    let s := s.bump Reg.MVB_MFCNT
    if s.sendsData then s.mvbAnswer (sgetD (List.replicate (s.mvbSize i) 0) s.bus.mvbSrc i) else s
  else s

/-- A master frame that asks a device for its status or for a message (F-codes 15 and 12 of IEC 61375-3-1). A standby answers
nothing (R315); a message names the device it goes to in its first word (notes/assumptions/46.md). -/
def State.mvbDevice (s : State) (code addr : Nat) (sa sb : Option LinkFrame) : State :=
  let own := (s.fld Reg.MVB_CTRL_DEVADDR).toNat
  if addr = own then
    if !s.mvbOn then s
    else
      let s := s.bump Reg.MVB_MFCNT
      if s.follows then s
      else if code = 15 then State.mvbAnswer { s with free := s.free + 1 } (beBytes 2 (Config.mvbStatus s.free).toNat)
      else match sget s.ring.started 16 with
        | some x => (s.mvbAnswer (beBytes 2 x.frame.port ++ x.frame.data)).completeOut 16 .ok
        | none => s
  else if code = 12 then
    s.mvbSlave (fun f => f.ok && decide (2 ≤ f.bytes.length)) sa sb (fun s b =>
      if s.mvbOn ∧ beAt b 0 2 % 4096 = own then s.ringIn 17 6 ⟨b.drop 2, addr, 0, 0⟩ else s)
  else s

/-- MVB_MASTER_FRAME (R308, R310, R311): the master frames of lines A and B hold an F-code and an address, of a port or of a
device. F-codes 0 to 4 ask a port of that size. The first master frame of a basic period (`first`) applies the staged fields
(R258). -/
def execMvbMasterFrame (ma mb : Option LinkFrame) (slave : Option LinkFrame × Option LinkFrame) (first : Bool) (s : State) :
    Out := .next <|
  let s := if first then s.applyStaged (fun k => keyPage k == 0x0A) else s
  let m := s.mvbPair (fun f => f.ok && f.bytes.length == 2) ma mb
  match m.2 with
  | none => m.1
  | some f =>
    let s := State.flag { m.1 with bus.mvbSeen := m.1.img.ageClock } Reg.MVB_STAT_MASTER_SEEN true
    let code := beAt f.bytes 0 2 / 4096
    let addr := beAt f.bytes 0 2 % 4096
    if code = 15 ∨ code = 12 then s.mvbDevice code addr slave.1 slave.2
    else match (List.range s.mvbPorts).find? (fun i => s.mvbAddr i == addr && s.mvbCode i == code) with
      | none => s
      | some i => s.mvbPort i slave.1 slave.2

/-- Sink `i` has received nothing for SINK_TIME (R310). -/
def State.mvbDue (s : State) (i : Nat) : Bool :=
  let lim := s.cfg 0x0A (mvbPortOff i + 2) 2
  s.mvbIsSink i && !s.bit (Reg.MVB_SINKLOST (i / 32)) (i % 32) &&
    decide (lim ≠ 0 ∧ lim ≤ s.img.ageClock - max (sgetD 0 s.bus.mvbAt i) s.bus.mvbSince)

/-- MVB_SINK_TIMEOUT (R310): every sink that is due is declared lost. -/
def execMvbSinkTimeout (s : State) : Out := .next <|
  if !s.mode.acquires then s
  else (List.range s.mvbPorts).foldl (fun s i =>
    if s.mvbDue i then
      (((s.setBit (Reg.MVB_SINKLOST (i / 32)) (i % 32)).flag Reg.MVB_EVT_SINK_TIMEOUT true).bump Reg.MVB_TIMEOUTCNT).acquire
        (.mvbSink i) .lost
    else s) s

/-- MVB_LINE_TIMEOUT (R308): a line (`true` line B) has carried no valid frame for 1 s. -/
def execMvbLineTimeout (lineB : Bool) (s : State) : Out := .next <|
  let k := if lineB then Reg.MVB_STAT_LINE_B else Reg.MVB_STAT_LINE_A
  if s.fld k = 1 then (s.flag k false).flag Reg.MVB_EVT_LINE_FAULT true else s

/-! ### WTB (R312 to R314) -/

/-- The WTB node is enabled. -/
def State.wtbOn (s : State) : Bool := s.fld Reg.WTB_CTRL_ENABLE == 1 && !decide (Inst.wtb ∈ s.bus.shutting)

/-- The node is inserted: not in a standby (R315). -/
def State.wtbIn (s : State) : Bool := s.wtbOn && !s.follows

/-- The 64 lost bits of node addresses. -/
def wtbLostKey (a : Nat) : Nat := if a < 32 then Reg.WTB_NODELOSTLO else Reg.WTB_NODELOSTHI
def State.wtbLost (s : State) (a : Nat) : Bool := s.bit (wtbLostKey a) (a % 32)

/-- LENGTH of the sink of node address `a`, its TIMEOUT and its fields (R313). -/
def wtbSinkOff (a : Nat) : Nat := 0x10 + 8 * (a - 1)
def State.wtbSinkLen (s : State) (a : Nat) : Nat := s.cfg 0x0B (wtbSinkOff a) 2
def State.wtbFields (s : State) (first count : Nat) : List FieldEntry := confFields s.cmd.config 0x0B 0x0208 first count

/-- The sink of a node address is declared lost. -/
def State.wtbLose (s : State) (a : Nat) : State :=
  ((s.setBit (wtbLostKey a) (a % 32)).flag Reg.WTB_EVT_NODE_LOST true).acquire (.wtbNode a) .lost

/-- WTB_PERIOD (R313): the inaugurated node sends its process data from the committed image. -/
def execWtbPeriod (s : State) : Out := .next <|
  let s := s.applyStaged (fun k => keyPage k == 0x0B)
  let s := { s with bus.wtbPeriod := s.bus.wtbPeriod + 1 }
  if s.wtbIn ∧ s.sendsData ∧ s.fld Reg.WTB_STAT_INAUG_DONE = 1 then
    let r := s.buildData (s.wtbFields (s.cfg 0x0B 0x06 2) (s.cfg 0x0B 0x08 2)) (min 128 (s.cfg 0x0B 0x04 2)) true false
    let f : LinkFrame := ⟨BitVec.ofNat 8 (r.1.fld Reg.WTB_STAT_NODE).toNat :: r.2, true⟩
    ((r.1.transmit linkWtbA f).transmit linkWtbB f).bump Reg.WTB_PDTXCNT
  else s

/-- A node frame behind the injector: the node's address and its data, or a message of a node to this one (R314). A first
byte from 128 on marks a message, of which it is the receiver (notes/assumptions/46.md). -/
def State.wtbFrame (s : State) (f : LinkFrame) : State :=
  let a := leNat (f.bytes.take 1)
  let d := f.bytes.drop 1
  if 128 ≤ a then
    if a = 128 + (s.fld Reg.WTB_STAT_NODE).toNat ∧ d ≠ [] then
      s.ringIn 19 6 ⟨d.drop 1, leNat (d.take 1), 0, 0⟩
    else s
  else if 1 ≤ a ∧ a ≤ 63 ∧ a ∈ s.bus.wtbNodes ∧ d.length = s.wtbSinkLen a ∧ d.length ≠ 0 then
    let s := State.bump { s with bus.wtbAt := sput s.bus.wtbAt a s.bus.wtbPeriod } Reg.WTB_PDRXCNT
    let fs := s.wtbFields (s.cfg 0x0B (wtbSinkOff a + 4) 2) (s.cfg 0x0B (wtbSinkOff a + 6) 2)
    (s.clrBit (wtbLostKey a) (a % 32)).deliver (.wtbNode a) (parseData fs true d)
  else s

/-- WTB_NODE_FRAME (R314): the frame of a node on lines A and B. -/
def execWtbNodeFrame (a b : Option LinkFrame) (s : State) : Out := .next <|
  if !s.wtbIn ∨ s.fld Reg.WTB_STAT_INAUG_DONE = 0 then s
  else
    let ra := s.rxLine linkWtbA Reg.WTB_ERRACNT (·.ok) a
    let rb := ra.1.rxLine linkWtbB Reg.WTB_ERRBCNT (·.ok) b
    match (ra.2 ++ rb.2).head? with
    | some f => rb.1.wtbFrame f
    | none => rb.1

/-- WTB_INAUGURATION (R312, R314): a topography of at most 32 nodes comes into force; sinks of absent nodes are lost. The node
is master where it may be and the bus made it so, which a weak master gives up to a strong one. -/
def execWtbInauguration (t : WtbTopo) (s : State) : Out := .next <|
  if !s.wtbIn ∨ 32 < t.nodes.length then s
  else
    let w := fun (n : Nat) => BitVec.ofNat 32 n
    let master := t.master && s.fld Reg.WTB_CTRL_MASTER_OK == 1 && (s.fld Reg.WTB_CTRL_STRONG == 1 || !t.strong)
    let s := (((s.flag Reg.WTB_STAT_INAUG_DONE true).flag Reg.WTB_STAT_MASTER master).setFld Reg.WTB_STAT_NODE
      (w (t.own % 64))).setFld Reg.WTB_STAT_NODES (w (t.nodes.length % 64))
    let s := (s.flag Reg.WTB_STAT_END_NODE t.endNode).setFld Reg.WTB_STAT_TOPO (w (t.topo % 64))
    let s := (s.flag Reg.WTB_EVT_INAUG true).bump Reg.WTB_INAUGCNT
    let s := { s with bus.wtbNodes := t.nodes }
    let s := (List.range 63).foldl (fun s i =>
      let a := i + 1
      if s.wtbSinkLen a = 0 ∨ a = t.own then s
      else if a ∉ t.nodes then (if s.wtbLost a then s else s.wtbLose a)
      else match sget s.bus.wtbAt a with
        | some _ => s
        | none => { s with bus.wtbAt := sput s.bus.wtbAt a s.bus.wtbPeriod }) s
    s.topoSignal 0x0B .status (w (t.topo % 64))

/-- WTB_SINK_TIMEOUT (R314): every sink without a valid frame for TIMEOUT periods is declared lost. -/
def execWtbSinkTimeout (s : State) : Out := .next <|
  if !s.wtbIn ∨ s.fld Reg.WTB_STAT_INAUG_DONE = 0 then s
  else (List.range 63).foldl (fun s i =>
    let a := i + 1
    let lim := s.cfg 0x0B (wtbSinkOff a + 2) 2
    if s.wtbSinkLen a ≠ 0 ∧ a ∈ s.bus.wtbNodes ∧ !s.wtbLost a ∧ lim ≠ 0 ∧
        lim ≤ s.bus.wtbPeriod - sgetD 0 s.bus.wtbAt a then
      (s.bump Reg.WTB_TIMEOUTCNT).wtbLose a
    else s) s

/-! ### CAN FD (R316 to R319) -/

/-- Keys of channel `c`'s registers. -/
def canKey (c k : Nat) : Bool := keyPage k == 0x0C && decide (0x40 + 0x40 * (c - 1) ≤ keyOff k ∧ keyOff k < 0x40 + 0x40 * c)

/-- The time quanta per bit of segment fields (R317). -/
def quantaOk (seg1 seg2 : Nat) : Bool := decide (8 ≤ seg1 + seg2 + 3 ∧ seg1 + seg2 + 3 ≤ 385)

/-- The nominal and the data bit timing that the field values `get` describe give 8 to 385 quanta (R317). -/
def nominalOk (get : Nat → Word) (c : Nat) : Bool :=
  quantaOk (get (Reg.CAN_NBT_NTSEG1 c)).toNat (get (Reg.CAN_NBT_NTSEG2 c)).toNat
def dataOk (get : Nat → Word) (c : Nat) : Bool :=
  quantaOk (get (Reg.CAN_DBT_DTSEG1 c)).toNat (get (Reg.CAN_DBT_DTSEG2 c)).toNat

/-- The bit timing is usable (R317): the data phase counts where FD is allowed. -/
def canTiming (get : Nat → Word) (c : Nat) : Bool :=
  nominalOk get c && (get (Reg.CAN_CFG_FD c) == 0 || dataOk get c)

/-- The value a staged field would have. -/
def State.pend (s : State) (k : Nat) : Word := sgetD (s.fld k) s.staged k

/-- The staged fields of a channel apply; a nominal or a data setting with too few or too many quanta does not, and the
channel shows CFGERR until a setting that is usable applies (R317). -/
def State.canBoundary (s : State) (c : Nat) : State :=
  let nbt := fun k => canKey c k && keyOff k == 0x44 + 0x40 * (c - 1)
  let dbt := fun k => canKey c k && keyOff k == 0x48 + 0x40 * (c - 1)
  let has := fun (p : Nat → Bool) => s.staged.any (fun e => p e.1)
  let badN := has nbt && !nominalOk s.pend c
  let badD := has dbt && !dataOk s.pend c
  let rest := s.staged.filter (fun e => !(badN && nbt e.1) && !(badD && dbt e.1))
  let s' := State.applyStaged { s with staged := rest } (canKey c)
  if badN ∨ badD then s'.flag (Reg.CAN_ECR_CFGERR c) true
  else if (has nbt ∨ has dbt) ∧ canTiming s'.fld c then s'.flag (Reg.CAN_ECR_CFGERR c) false
  else s'

/-- A channel takes part on its bus. -/
def State.canOn (s : State) (c : Nat) : Bool :=
  s.fld (Reg.CAN_CFG_ENABLE c) == 1 && !decide (Inst.can c ∈ s.bus.shutting) && s.fld (Reg.CAN_ECR_CFGERR c) == 0 &&
    canTiming s.fld c

/-- A channel is bus-off. -/
def State.canOff (s : State) (c : Nat) : Bool := s.bit Reg.CAN_STAT_BUSOFF (c - 1)

/-- A channel only listens: configured so, or in a standby (R315). -/
def State.canListens (s : State) (c : Nat) : Bool := s.fld (Reg.CAN_CFG_LISTEN c) == 1 || s.follows

/-- The rings of a channel. -/
def State.canTx (s : State) (c : Nat) : Nat := if s.fld (Reg.CAN_CFG_TXRING c) = 1 then 10 else 8
def State.canRx (s : State) (c : Nat) : Nat := if s.fld (Reg.CAN_CFG_RXRING c) = 1 then 11 else 9

/-- META and META2 of a CAN frame (R318). -/
def CanFrame.meta1 (f : CanFrame) : Word :=
  BitVec.ofNat 32 (f.id.toNat + b2n f.ide * 2 ^ 29 + b2n f.fdf * 2 ^ 30 + b2n f.brs * 2 ^ 31)
def CanFrame.meta2 (f : CanFrame) : Word := BitVec.ofNat 32 (f.dlc.toNat + b2n f.rtr * 16 + b2n f.esi * 32)

/-- A CAN frame of META, META2 and data. -/
def canOf (m1 m2 : Word) (data : List Byte) : CanFrame :=
  ⟨BitVec.ofNat 29 m1.toNat, m1.getLsbD 29, m1.getLsbD 30, m1.getLsbD 31, BitVec.ofNat 4 m2.toNat, m2.getLsbD 4,
    m2.getLsbD 5, data⟩

/-- The data length that a DLC implies (R318). -/
def dlcLen (fd : Bool) (dlc : Nat) : Nat :=
  if dlc ≤ 8 then dlc else if !fd then 8 else [12, 16, 20, 24, 32, 48, 64].getD (dlc - 9) 64

/-- A CAN frame as the injector sees it: META, META2, data (notes/assumptions/13.md). -/
def CanFrame.link (f : CanFrame) (ok : Bool) : LinkFrame := ⟨leBytes 4 f.meta1.toNat ++ leBytes 4 f.meta2.toNat ++ f.data, ok⟩

/-- The frame the injector lets through. -/
def canOfLink (f : LinkFrame) : CanFrame :=
  canOf (BitVec.ofNat 32 (leNat (f.bytes.take 4))) (BitVec.ofNat 32 (leNat ((f.bytes.drop 4).take 4))) (f.bytes.drop 8)

/-- The filters of channel `c` in block 0x0C: identifier and mask (notes/assumptions/13.md). -/
def State.canFilters (s : State) (c : Nat) : List (Nat × Nat) :=
  let o := 0x1000 + 0x104 * (c - 1)
  (List.range (min 32 (s.cfg 0x0C o 4))).map (fun i => (s.cfg 0x0C (o + 4 + 8 * i) 4, s.cfg 0x0C (o + 8 + 8 * i) 4))

/-- A filter passes the frame. -/
def State.canPasses (s : State) (c : Nat) (f : CanFrame) : Bool :=
  (s.canFilters c).any (fun e => (f.id.toNat + b2n f.ide * 2 ^ 29) &&& e.2 == e.1 &&& e.2)

/-- The error counts of a channel and its state (ISO 11898-1). -/
def State.canErrors (s : State) (c tec rec_ : Nat) : State :=
  let s := (s.setFld (Reg.CAN_ECR_TEC c) (BitVec.ofNat 32 (min 255 tec))).setFld (Reg.CAN_ECR_REC c)
    (BitVec.ofNat 32 (min 255 rec_))
  if s.canOff c then s else s.setFld (Reg.CAN_ECR_STATE c) (if 127 < tec ∨ 127 < rec_ then 1 else 0)

/-- TEC and REC. -/
def State.tec (s : State) (c : Nat) : Nat := (s.fld (Reg.CAN_ECR_TEC c)).toNat
def State.recCount (s : State) (c : Nat) : Nat := (s.fld (Reg.CAN_ECR_REC c)).toNat

/-- A frame on a channel behind the injector (R318). -/
def State.canIn (s : State) (c : Nat) (g : LinkFrame) : State :=
  let f := canOfLink g
  if !s.canOn c ∨ s.canOff c then s
  else if !g.ok ∨ (f.fdf ∧ s.fld (Reg.CAN_CFG_FD c) = 0) then
    (s.bump (Reg.CAN_ERRCNT c)).canErrors c (s.tec c) (s.recCount c + 1)
  else
    let s := s.canErrors c (s.tec c) (s.recCount c - 1)
    if s.canPasses c f then
      (s.bump (Reg.CAN_RXCNT c)).linkIn (s.canRx c) 4 (canLink c)
        ⟨f.data.take (dlcLen f.fdf f.dlc.toNat), canLink c, f.meta1, f.meta2⟩ false false
    else s

/-- CAN_FRAME_RECEIVE (R318); `ok` is false for a frame that ends in an error frame. -/
def execCanFrameReceive (c : Nat) (f : CanFrame) (ok : Bool) (s : State) : Out := .next <|
  if 1 ≤ c ∧ c ≤ 8 then (s.receive (canLink c) (f.link ok) (fun s g => s.canIn c g)).canBoundary c else s

/-- The OUT frame that a link sends: the one in progress with its ring, or on a tunnelled link the first that waits
(R350, R352). -/
def State.sending (s : State) (l : Nat) (rings : List Nat) : Option (Option Nat × AgentFrame) :=
  match rings.findSome? (fun n => (sget s.ring.started n).bind (fun x => if x.frame.port = l then some (n, x.frame) else none)) with
  | some (n, f) => some (some n, f)
  | none => (s.tunnelQ l).head?.map (fun f => (none, f))

/-- A CAN or a serial channel has a frame in progress. -/
def State.canBusy (s : State) (c : Nat) : Bool := (s.sending (canLink c) [8, 10]).isSome
def State.serBusy (s : State) (c : Nat) : Bool := (s.sending (serLink c) [12, 14]).isSome

/-- The OUT frame in progress on link `l` ends: its descriptor completes, or it leaves the tunnel queue. -/
def State.endSend (s : State) (l : Nat) (n : Option Nat) (st : DescStatus) : State :=
  match n with
  | some n => s.completeOut n st
  | none => s.setTunnelQ l ((s.tunnelQ l).drop 1)

/-- CAN_FRAME_SENT (R318): the frame in progress has been sent; on a channel that only listens by now it has not (R315). -/
def execCanFrameSent (c : Nat) (s : State) : Out := .next <|
  match s.sending (canLink c) [8, 10] with
  | some (n, f) =>
    if 1 ≤ c ∧ c ≤ 8 ∧ s.canListens c then (s.endSend (canLink c) n .notSent).canBoundary c
    else if 1 ≤ c ∧ c ≤ 8 ∧ !s.canOff c then
      let s := s.transmit (canLink c) ((canOf f.meta1 f.meta2 f.data).link true)
      (((s.bump (Reg.CAN_TXCNT c)).canErrors c (s.tec c - 1) (s.recCount c)).endSend (canLink c) n .ok).canBoundary c
    else s
  | none => s

/-- CAN_BUS_OFF (R319): the pending frame completes NOT_SENT. -/
def execCanBusOff (c : Nat) (s : State) : Out := .next <|
  if 1 ≤ c ∧ c ≤ 8 ∧ s.canOn c ∧ !s.canOff c then
    let s := ((s.setBit Reg.CAN_STAT_BUSOFF (c - 1)).bump (Reg.CAN_BUSOFFCNT c)).setFld (Reg.CAN_ECR_TEC c) 255
    let s := s.setFld (Reg.CAN_ECR_STATE c) 2
    match s.sending (canLink c) [8, 10] with
    | some (n, _) => (s.endSend (canLink c) n .notSent).canBoundary c
    | none => s.canBoundary c
  else s

/-- A channel rejoins its bus (R319). -/
def State.canRejoin (s : State) (c : Nat) : State :=
  if s.canOff c then (s.clrBit Reg.CAN_STAT_BUSOFF (c - 1)).canErrors c 0 0 else s

/-- CAN_AUTO_RECOVER (R319): after 128 occurrences of 11 recessive bits. -/
def execCanAutoRecover (c : Nat) (s : State) : Out := .next <|
  if 1 ≤ c ∧ c ≤ 8 ∧ s.fld (Reg.CAN_CFG_AUTO_RECOVER c) = 1 then s.canRejoin c else s

/-! ### Serial (R320 to R322) -/

/-- Keys of channel `c`'s registers. -/
def serKey (c k : Nat) : Bool := keyPage k == 0x0D && decide (0x40 + 0x30 * (c - 1) ≤ keyOff k ∧ keyOff k < 0x40 + 0x30 * c)

/-- A serial channel works: enabled, and for SER11 and SER12 only while ENC5 and ENC6 are disabled (R29, R320). -/
def State.serOn (s : State) (c : Nat) : Bool :=
  s.fld (Reg.SER_CFG_ENABLE c) == 1 && !decide (Inst.ser c ∈ s.bus.shutting) &&
    (c != 11 || s.fld (Reg.ENC_CFG_ENABLE 5) == 0) && (c != 12 || s.fld (Reg.ENC_CFG_ENABLE 6) == 0)

/-- The rings of a channel. -/
def State.serTx (s : State) (c : Nat) : Nat := if s.fld (Reg.SER_CFG_RINGS c) = 1 then 14 else 12
def State.serRx (s : State) (c : Nat) : Nat := s.serTx c + 1

/-- HDLC. -/
def State.serHdlc (s : State) (c : Nat) : Bool := s.fld (Reg.SER_CFG_PROTO c) == 1

/-- Characters of 7 or 8 bits (R320). -/
def State.serChars (s : State) (c : Nat) (bs : List Byte) : List Byte :=
  if s.fld (Reg.SER_CFG_DATA7 c) = 1 then bs.map (· &&& 0x7F) else bs

/-- What a channel puts on the line for a frame: its characters, or the HDLC frame between its flags with its FCS (R320). -/
def State.serWire (s : State) (c : Nat) (bs : List Byte) : List Byte :=
  if s.serHdlc c then bs ++ hdlcFcs (s.wideFcs c) bs else s.serChars c bs

/-- The data of a received frame, and whether it has no error: an HDLC frame ends with its FCS (R320, R322). -/
def State.serData (s : State) (c : Nat) (g : LinkFrame) : List Byte × Bool :=
  if s.serHdlc c then
    let n := if s.wideFcs c then 4 else 2
    let d := g.bytes.take (g.bytes.length - n)
    (d, g.ok && decide (n ≤ g.bytes.length) && g.bytes.drop (g.bytes.length - n) == hdlcFcs (s.wideFcs c) d)
  else (s.serChars c g.bytes, g.ok)

/-- The characters that a frame for a ring loses, because no descriptor is owned and the holding queue is full. -/
def State.charsLost (s : State) (n : Nat) (f : AgentFrame) : Nat :=
  let q := s.holdOf n
  if s.ringOn n ∧ q.length = 4 then (if s.fld (Reg.RNG_CFG_POLICY n) = 1 then ((q.head?.map (·.frame)).getD f).data.length else f.data.length)
  else 0

/-- A frame on a channel behind the injector (R322); a half-duplex channel receives nothing while it drives the line
(notes/assumptions/46.md). -/
def State.serIn (s : State) (c : Nat) (g : LinkFrame) : State :=
  let d := s.serData c g
  if !s.serOn c ∨ (s.fld (Reg.SER_CFG_DUPLEX c) = 0 ∧ s.serBusy c) then s
  else if s.serHdlc c ∧ !d.2 then s.bump (Reg.SER_ERRCNT c)
  else
    let f : AgentFrame := ⟨d.1, serLink c, 0, 0⟩
    let n := s.serRx c
    let s := s.bump (Reg.SER_RXCNT c)
    let s := if s.tunnelled (serLink c) then s else s.bumpBy (Reg.SER_OVRCNT c) (s.charsLost n f)
    let s := if d.2 then s else s.bump (Reg.SER_ERRCNT c)
    s.linkIn n 5 (serLink c) f (!d.2) (!s.serHdlc c)

/-- SERIAL_FRAME_RECEIVE (R322): a frame as it ends; `ok` is false for a framing, parity or FCS error. -/
def execSerialFrameReceive (c : Nat) (f : LinkFrame) (s : State) : Out := .next <|
  if 1 ≤ c ∧ c ≤ 12 then (s.receive (serLink c) f (fun s g => s.serIn c g)).applyStaged (serKey c) else s

/-- SERIAL_FRAME_SENT (R322): the frame in progress has been sent; a standby, whose drivers are off, sends none (R315). -/
def execSerialFrameSent (c : Nat) (s : State) : Out := .next <|
  match s.sending (serLink c) [12, 14] with
  | some (n, f) =>
    if 1 ≤ c ∧ c ≤ 12 ∧ s.follows then (s.endSend (serLink c) n .notSent).applyStaged (serKey c)
    else if 1 ≤ c ∧ c ≤ 12 then
      (((s.transmit (serLink c) ⟨s.serWire c f.data, true⟩).bump (Reg.SER_TXCNT c)).endSend (serLink c) n .ok).applyStaged (serKey c)
    else s
  | none => s

end Sys2Proof.Machine
end

