-- ==== Sys2Proof/Machine/Agents.lean ====
section
/-! DEFINITION. What the agents of the OUT rings do with a frame, and how a descriptor of an OUT ring is processed
(spec/11_rings.md R275, R279 to R286). -/
namespace Sys2Proof.Machine

/-- A frame for a link of this module: with its agent until the link has sent it, while the link works, else NOT_SENT
(R286, R364). -/
def State.outLink (s : State) (n : Nat) (ok : Bool) : State := if ok then s else s.completeOut n .notSent

/-- A CAN frame of ring `n` (R318). -/
def State.outCan (s : State) (n : Nat) (f : AgentFrame) : State :=
  let c := f.port - 14
  s.outLink n (decide (15 ≤ f.port ∧ f.port ≤ 22) && s.canOn c && !s.canOff c && !s.canListens c && s.canTx c == n &&
    !s.tunnelled f.port)

/-- A serial frame of ring `n` (R320, R322): not from a standby (R315). -/
def State.outSer (s : State) (n : Nat) (f : AgentFrame) : State :=
  let c := f.port - 22
  s.outLink n (decide (23 ≤ f.port ∧ f.port ≤ 34) && s.serOn c && !s.follows && s.serTx c == n && !s.tunnelled f.port)

/-- A frame of rings 20 and 22 to a link of a Spur (R350 to R352): it completes when the Spur has acknowledged it. -/
def State.outTunnel (s : State) (n : Nat) (f : AgentFrame) : State :=
  let st := bitsAt f.port 8 6
  if s.isManager ∧ s.reach st ∧ f.data.length ≤ 4072 then
    s.streamSend st 7 (tunnelBytes (bitsAt f.port 0 8) f.meta1 f.meta2 0 f.data) (some n) 0
  else s.completeOut n .notSent

/-- A message of the MVB, which waits until the administrator polls the device, or of the WTB (R311, R314): PORT is the peer
device or node. -/
def State.outBus (s : State) (n : Nat) (f : AgentFrame) : State :=
  let g : LinkFrame := ⟨[BitVec.ofNat 8 (128 + f.port % 64), BitVec.ofNat 8 (s.fld Reg.WTB_STAT_NODE).toNat] ++ f.data, true⟩
  if n = 16 then s.outLink n (s.mvbOn && s.drives)
  else if n = 18 ∧ s.wtbIn ∧ s.drives ∧ s.fld Reg.WTB_STAT_INAUG_DONE = 1 then
    ((s.transmit linkWtbA g).transmit linkWtbB g).completeOut n .ok
  else s.completeOut n .notSent

/-- An MD message to the peer of META2 (R299): a request ('Mr', 0x4D72), or a reply that asks for a confirmation, opens a session.
A ComId that is not of the ring's list, or a peer that no port reaches, is not sent (notes/assumptions/46.md). -/
def State.outMd (s : State) (n : Nat) (f : AgentFrame) : State :=
  let frame := udpFrame s.unitMac s.unitIp f.meta2.toNat 64 mdPort mdPort f.data
  if f.meta1.toNat ∉ s.mdList (if n = 6 then 1 else 0) ∨ !s.reachable frame then s.completeOut n .notSent
  else
    let s := s.unitSend frame
    let s := if mdKind f.data = 0x4D72 ∨ mdKind f.data = 0x4D71 then
      { s with net.md := sput s.net.md (mdSession f.data) (n + 1) } else s
    s.completeOut n .ok

/-- A raw Ethernet frame (R300): its source must be the unit address, and a port must reach its destination. -/
def State.outRaw (s : State) (n : Nat) (f : AgentFrame) : State :=
  if beAt f.data 6 6 = s.unitMac ∧ s.reachable f.data then (s.unitSend f.data).completeOut n .ok else s.completeOut n .notSent

/-- A command packet of the triad (R236): it waits to be served. -/
def State.outPacket (s : State) (n : Nat) (f : AgentFrame) : State := (s.packetWaits 0 0 f.data).completeOut n .ok

/-- The agent of an OUT ring takes a frame (R275). -/
def State.toAgent (s : State) (n : Nat) (f : AgentFrame) : State :=
  match s.agent n with
  | 0x01 => s.outPacket n f
  | 0x02 => s.completeOut n .ok
  | 0x03 => s.outMd n f
  | 0x04 => s.outCan n f
  | 0x05 => s.outSer n f
  | 0x06 => s.outBus n f
  | 0x07 => s.outTunnel n f
  | 0x0A => (s.emit (.mailbox (leNat (f.data.take 1)) f.data)).completeOut n .ok
  | 0x0B => s.outRaw n f
  | _ => s

/-- The agents that send frames (R275). -/
def sendingAgents : List Nat := [0x01, 0x02, 0x03, 0x04, 0x05, 0x06, 0x07, 0x0A, 0x0B]

/-- The engine takes the next frame of an OUT ring; frames wait in the ring until the agent can send them (R283). Tunnel
frames wait for credit: at most 32 unacknowledged frames to a station (R342). -/
def State.outReady (s : State) (n : Nat) : Bool :=
  s.fld Reg.PWR_STAT_STOPPING == 0 && s.ringOn n && !s.ringIsIn n && !s.ringHalted n && decide (0 < s.ringOwned n) &&
    (sget s.ring.started n).isNone && sendingAgents.contains (s.agent n) &&
    !(s.agent n == 7 && decide (32 ≤ s.postedOut (bitsAt (s.rawDesc n).port 8 6)))

/-- The descriptor at HEAD of an OUT ring is processed (R279, R280, R284); none while the masters are stopped (R210). -/
def State.processOut (s : State) (n : Nat) : State :=
  if s.outReady n then
    let r := s.takeOut n
    match r.2 with
    | none => r.1
    | some (d, data) =>
      let f : AgentFrame := ⟨data, d.port, d.meta1, d.meta2⟩
      (r.1.startOut n f d).toAgent n f
  else s

/-- The descriptors that an OUT ring owns are processed, the next only after the one before. -/
def State.processAll (s : State) (n : Nat) : Nat → State
  | 0 => s
  | k + 1 => State.processAll (s.processOut n) n k

end Sys2Proof.Machine
end

