-- ==== Sys2Proof/Machine/RegAccess.lean ====
section
/-! DEFINITION. Register reads and writes: access codes, staging, COMPAT, dangerous registers, bit aliases, the snapshot
and what writing a register sets off (spec/10_register_conventions.md). -/
namespace Sys2Proof.Machine

/-! ### Instances with an ENABLE (R265, R271) -/

/-- The instance a register belongs to. -/
def instOf (page off : Nat) : Option Inst :=
  match page with
  | 0x06 | 0x07 => if 0x40 ≤ off ∧ off < 0x340 then some (.ring (16 * (page - 6) + (off - 0x40) / 0x30)) else none
  | 0x08 => if 0x40 ≤ off ∧ off < 0x1A0 then some (.port ((off - 0x40) / 0x20 + 1)) else none
  | 0x09 => if off = 0 then some .pd else none
  | 0x0A => if off = 0 then some .mvb else none
  | 0x0B => if off = 0 then some .wtb else none
  | 0x0C => if 0x40 ≤ off ∧ off < 0x240 then some (.can ((off - 0x40) / 0x40 + 1)) else none
  | 0x0D => if 0x40 ≤ off ∧ off < 0x280 then some (.ser ((off - 0x40) / 0x30 + 1)) else none
  | 0x0E => if 0x40 ≤ off ∧ off < 0x160 then some (.enc ((off - 0x40) / 0x30 + 1)) else none
  | 0x10 => if off = 0 then some .ridge else none
  | 0x11 => if off < 0x3F0 then some (.brg (off / 0x10 + 1)) else none
  | 0x13 => some (.fch (off / 0x10 + 1))
  | 0x14 => if 0x40 ≤ off ∧ off < 0x50 then some (.tli ((off - 0x40) / 4 + 1)) else none
  | _ => none

/-- The key of an instance's ENABLE. -/
def Inst.enable : Inst → Nat
  | .ring n => Reg.RNG_CFG_ENABLE n | .port n => Reg.ESW_PORTCFG_ENABLE n | .mvb => Reg.MVB_CTRL_ENABLE
  | .wtb => Reg.WTB_CTRL_ENABLE | .can c => Reg.CAN_CFG_ENABLE c | .ser c => Reg.SER_CFG_ENABLE c
  | .enc e => Reg.ENC_CFG_ENABLE e | .ridge => Reg.RDG_CTRL_ENABLE | .brg n => Reg.BRG_CFG_ENABLE n
  | .fch n => Reg.FCH_CFG_ENABLE n | .tli t => Reg.TLI_GCFG_ENABLE t | .pd => Reg.TPD_CTRL_ENABLE

/-- The instances of a page. -/
def instsOf (page : Nat) : List Inst :=
  let up := fun (n : Nat) (f : Nat → Inst) => (List.range n).map (fun i => f (i + 1))
  match page with
  | 0x06 => (List.range 16).map .ring
  | 0x07 => (List.range 16).map (fun i => .ring (i + 16))
  | 0x08 => up 11 .port
  | 0x0A => [.mvb]
  | 0x0B => [.wtb]
  | 0x0C => up 8 .can
  | 0x0D => up 12 .ser
  | 0x0E => up 6 .enc
  | 0x13 => up 64 .fch
  | 0x14 => up 4 .tli
  | _ => []

/-- ENABLE of an instance. -/
def State.enabled (s : State) (i : Inst) : Bool := s.fld i.enable == 1

/-- The pages with COMPAT (R258). -/
def compatPage (page : Nat) : Bool := page ∈ [0x06, 0x07, 0x08, 0x0A, 0x0B, 0x0C, 0x0D, 0x0E, 0x13, 0x14]

/-- COMPAT of a page, and its WIGN. -/
def State.compat (s : State) (page : Nat) : Bool := compatPage page && s.fld (fk page 0 31) == 1
def State.wign (s : State) (page : Nat) : State := s.flag (fk page 4 31) true

/-- The shutting-down bit of an instance. -/
def State.shuttingBit (s : State) (i : Inst) (b : Bool) : State :=
  match i with
  | .ring n => s.flag (Reg.RNG_RSTAT_SHUTTING n) b
  | .port n => s.flag (Reg.ESW_PORTSTAT_SHUTTING n) b
  | .mvb => s.flag Reg.MVB_STAT_SHUTTING b
  | .wtb => s.flag Reg.WTB_STAT_SHUTTING b
  | .ser c => s.putBit Reg.SER_STAT_SHUTTING (c - 1) b
  | .enc e => s.flag (Reg.ENC_ESTAT_SHUTTING e) b
  | .ridge => s.flag Reg.RDG_STAT_SHUTTING b
  | .brg n => s.flag (Reg.BRG_STAT_SHUTTING n) b
  | .fch n => s.flag (Reg.FCH_STAT_SHUTTING n) b
  | .tli t => s.putBit Reg.TLI_STAT_SHUTTING (t - 1) b
  | .can _ | .pd => s

/-- The role or an owner lets software write this ENABLE: Ridge outside STANDALONE (R327), contexts of a MANAGER (R344),
channels not owned by the Safety Function Unit (R388). -/
def State.mayEnable (s : State) : Inst → Bool
  | .ridge => s.isManager || s.isWorker
  | .brg _ => s.isManager
  | .fch n => !s.claimed n
  | _ => true

/-- An instance starts to work. -/
def State.startInst (s : State) (i : Inst) : State :=
  match i with
  | .ring n => (s.flag (Reg.RNG_RSTAT_IDLE n) false).ringGo n
  | .pd => { s with net.pdSince := s.img.ageClock }
  | .mvb => { s with bus.mvbSince := s.img.ageClock }
  | .can c => s.flag (Reg.CAN_ECR_CFGERR c) (s.fld (Reg.CAN_ECR_CFGERR c) == 1 || !canTiming s.fld c)
  | .ridge => let s := s.setRdg 1
    if s.isManager then s.sendDiscover else s
  | .brg n => s.setFld (Reg.BRG_STAT_STATE n) (if s.online n then 1 else 2)
  | _ => s

/-- An instance begins to shut down (R271, R286, R347). -/
def State.beginShutdown (s : State) (i : Inst) : State :=
  let s := { s with bus.shutting := s.bus.shutting ++ [i] }.shuttingBit i true
  match i with
  | .ring n => s.dropHold n
  | .brg n => s.dropLine n
  | _ => s

/-- A write of ENABLE (R271): a re-enable during a shutdown is held. -/
def State.setEnable (s : State) (i : Inst) (on : Bool) : State :=
  if !s.mayEnable i ∨ on = s.enabled i then s
  else
    let s := s.flag i.enable on
    if decide (i ∈ s.bus.shutting) then s
    else if on then s.startInst i
    else s.beginShutdown i

/-- A shutdown may complete: a ring with no frame started (R286), a context with no access outstanding (R347), an output
that is off with its pin below 2 V or for 200 scans (R388). -/
def State.mayEnd (s : State) : Inst → Bool
  | .ring n => (sget s.ring.started n).isNone
  | .brg n => (match (s.bctx n).load with
      | some l => l.done.isSome
      | none => true) && (s.bctx n).stores.isEmpty && (s.stream n).unacked.all (fun f => f.type != 4)
  | .fch n => !modeIsOutput (s.chanMode n) || (s.fld (Reg.FCH_STAT_DRIVE n) == 0 &&
      (decide ((s.chan n).mv < 2000) || decide (200 ≤ (s.chan n).since)))
  | _ => true

/-- What is left of an instance that has shut down (R286, R347, R388). -/
def State.stopInst (s : State) (i : Inst) : State :=
  match i with
  | .ring n => s.flag (Reg.RNG_RSTAT_IDLE n) true
  | .brg n => s.setFld (Reg.BRG_STAT_STATE n) 0
  | .ridge =>
    let s := (List.range 64).foldl (fun s n => if s.online n then s.loseStation n else s) s
    let s := if s.isWorker ∧ !s.rdg.lost.contains 0 then s.loseStation 0 else s
    s.setRdg 0
  | .fch n =>
    let s := if modeIsInput (s.chanMode n) ∧ !s.ownLost (.channel n) then s.loseChan n else s
    let c := s.chan n
    let s := s.setChan n { ChanRt.start with raw := c.raw, mv := c.mv, back := c.back, waits := c.waits }
    let s := s.unlatch n
    [Reg.FCH_STAT_OVERLOAD n, Reg.FCH_STAT_OPEN n, Reg.FCH_STAT_EXT_VOLTAGE n, Reg.FCH_STAT_INVALID_CMD n,
      Reg.FCH_STAT_DRIVE n, Reg.FCH_STAT_LEVEL n].foldl (fun s k => s.flag k false) s
  | .enc e => { s with sf.hist := serase s.sf.hist e }
  | _ => s

/-! ### Reads (R259, R260, R264, R267) -/

/-- The applied value of a field: the tick counter is read where it counts, and TRAV_RUN follows what Traverse needs (R206). -/
def State.get (s : State) (k : Nat) : Word :=
  if k = Reg.CE_TICKLO_TICK then BitVec.ofNat 32 s.time.tick
  else if k = Reg.CE_TICKHI_TICK then s.time.tickHi.getD (BitVec.ofNat 32 (s.time.tick / 2 ^ 32))
  else if k = Reg.ENC_PPSINHI_TIME then s.net.ppsHi.getD (s.fld k)
  else if k = Reg.PS_STAT_TRAV_RUN then b2w s.travRuns
  else s.fld k

/-- A register has a field of this access code. -/
def hasAcc (fs : List Field) (a : Access) : Bool := fs.any (fun f => decide (f.acc = a))

/-- The primary offset of an offset in any area of a page. -/
def primary (off : Nat) : Nat := off % 0x400

/-- The value of a register of a page, in each of the four areas. -/
def State.regValue (s : State) (page off : Nat) : Word :=
  let p := primary off
  let fs := fieldsAt page p
  match off / 0x400 with
  | 0 => regWord s.get page p fs
  | 1 => if hasAcc fs .wd then ~~~ regWord s.get page p fs else 0
  | 2 => if hasAcc fs .rws then regWord (fun k => sgetD (s.get k) s.staged k) page p fs else 0
  | _ => if countingAt page p then sgetD 0 s.holding (page * 0x1000 + p) else 0

/-- What a read of a register does besides (R33, ENC_PPSINLO): the low word latches the high word, and a read of the
high word uses the latch up. -/
def State.readEffect (s : State) (page off : Nat) : State :=
  if page = 0x02 ∧ off = 0x008 then { s with time.tickHi := some (BitVec.ofNat 32 (s.time.tick / 2 ^ 32)) }
  else if page = 0x02 ∧ off = 0x00C then { s with time.tickHi := none }
  else if page = 0x0E ∧ off = 0x008 then { s with net.ppsHi := some (s.fld Reg.ENC_PPSINHI_TIME) }
  else if page = 0x0E ∧ off = 0x00C then { s with net.ppsHi := none }
  else s

/-- Read a register. -/
def State.readReg (s : State) (page off : Nat) : State × Word := (s.readEffect page off, s.regValue page off)

/-! ### The snapshot (R272) -/

/-- The pages of the page map. -/
def assignedPages : List Nat := (List.range 0x1B).filter (· != 0x0F)

/-- The counting registers of a page: their offsets. -/
def countingOffs (page : Nat) : List Nat :=
  match pageRows page with
  | none => []
  | some rows => (rows.filter (·.counting)).flatMap (fun r => (List.range r.count).map (fun i => r.base + i * r.stride))

/-- Every counting register is copied into its holding register, the tick counter as it stands and not as latched. -/
def State.snapshot (s : State) : State :=
  let now : State := { s with time.tickHi := none }
  let h := assignedPages.flatMap (fun p => (countingOffs p).map (fun o => (p * 0x1000 + o, now.regValue p o)))
  let h := h.foldl (fun m e => ssetD 0 m e.1 e.2) ([] : Sparse Word)
  (State.setFld { s with holding := h } Reg.SYS_SNAPTICKLO_TICK (BitVec.ofNat 32 s.time.tick)).setFld
    Reg.SYS_SNAPTICKHI_TICK (BitVec.ofNat 32 (s.time.tick / 2 ^ 32))

/-! ### Writes (R260, R263, R265) -/

/-- The new value of a field of which the bits of `m` are written. -/
def bitMerge (f : Field) (old v m : Word) : Word :=
  let mask := (m >>> f.lo) &&& BitVec.ofNat 32 (2 ^ f.width - 1)
  (old &&& ~~~ mask) ||| ((v >>> f.lo) &&& mask)

/-- The written bits of a field. -/
def bitsOf (f : Field) (v m : Word) : Word := bitMerge f 0 v m

/-- The field has a written bit. -/
def touched (f : Field) (m : Word) : Bool := (m >>> f.lo) &&& BitVec.ofNat 32 (2 ^ f.width - 1) != 0

/-- A block that is disabled has no boundaries: what is pending applies in the clock after the write (R263), on a channel
with no frame in progress. -/
def State.settleInst (s : State) (i : Inst) : State :=
  match i with
  | .ring n => s.ringIdle n
  | .can c => if s.enabled i ∨ s.canBusy c then s else s.canBoundary c
  | .ser c => if s.enabled i ∨ s.serBusy c then s else s.applyStaged (serKey c)
  | i => if s.enabled i then s else s.applyStaged (fun k => instOf (keyPage k) (keyOff k) = some i)

/-- The same for Traverse, whose ENABLE is no instance's. -/
def State.settleTrav (s : State) : State :=
  if s.fld Reg.PS_TRAV_CTRL_ENABLE = 0 then (s.applyStaged (fun k => keyPage k == 4)).flag Reg.PS_STAT_TRAV_STAGED false else s

/-- A write of an RWS field (R263, R265); `on` is the ENABLE of its instance before the write, none without one. A shape of
a ring written as it is in force is no change that would begin the ring again (R286, R287, notes/assumptions/45.md). -/
def State.writeRws (s : State) (page k : Nat) (on : Option Bool) (v : Word) : State :=
  if s.compat page ∧ on = some true then s.wign page
  else if ringShape k ∧ v = s.fld k then { s with staged := serase s.staged k }
  else
    let s := { s with staged := sput s.staged k v }
    if page = 0x04 then s.flag Reg.PS_STAT_TRAV_STAGED true else s

/-- What writing a WO register does: `v` holds the written bits. -/
def State.actWo (s : State) (src : WSrc) (page off : Nat) (v : Word) : State :=
  let who := match src with
    | .triad w => some w
    | _ => none
  let n := 16 * (page - 6) + (off - 0x40) / 0x30
  match page with
  | 0x00 => if v.getLsbD 0 then s.snapshot else s
  | 0x06 | 0x07 =>
    if (off - 0x40) % 0x30 = 0x0C then
      -- the supervisor alone posts to the mailbox rings (R423)
      if (n = 28 ∨ n = 29) ∧ src ≠ .supervisor then s.setBit (Reg.RNG_EVT2_POSTERR (n / 16)) (ringBit n)
      else s.deferWrite who (.post n (v.toNat % 0x2000))
    else if v.getLsbD 0 ∧ ¬ v.getLsbD 1 then s.resume n
    else if v.getLsbD 1 ∧ ¬ v.getLsbD 0 then s.skip n
    else s
  | 0x1A => if v.getLsbD 0 then s.processAll 0 (s.ringOwned 0) else s
  | 0x0C => if v.getLsbD 0 then s.canRejoin ((off - 0x40) / 0x40 + 1) else s
  | 0x10 => s.deferWrite who (.irq v)
  | _ => s

/-- A dangerous value applies (R266): SYS_SAFEREQ sends the module to SAFE, SF_STOPREQ holds its demand. -/
def State.applyWd (s : State) (page off : Nat) (v : Word) : State :=
  let s := (fieldsAt page off).foldl (fun s f => s.setFld (fk page off f.lo) (bitsOf f v 0xFFFFFFFF)) s
  if page = 0x00 ∧ off = 0x040 ∧ v = 0x00005AFE then s.enterSafe 0x0A else s

/-- FILTER and DIAG of a channel that a safety function claims are read-only (spec/15_field_channels.md, FCH_CFG). -/
def State.safetyOwned (s : State) (page off : Nat) : Bool :=
  decide (page = 0x13 ∧ off % 0x10 = 0) && s.fld (Reg.FCH_STAT_SF_CLAIMED (off / 0x10 + 1)) == 1

/-- A write of one field: its bits in `m`; `on` as in `writeRws`. -/
def State.writeField (s : State) (page off : Nat) (on : Option Bool) (v m : Word) (f : Field) : State :=
  let k := fk page off f.lo
  if !touched f m then s
  else if f.acc = .rws ∧ s.safetyOwned page off then s
  else match f.acc with
    | .rws => s.writeRws page k on (bitMerge f (s.pend k) v m)
    | .w1c => s.setFld k (s.fld k &&& ~~~ bitsOf f v m)
    | .rwc => if m = 0xFFFFFFFF then s.setFld k (bitsOf f v m) else s
    | .rw =>
      match instOf page off with
      | some i => if k = i.enable then s.setEnable i (bitsOf f v m == 1) else s.setFld k (bitMerge f (s.fld k) v m)
      | none => s.setFld k (bitMerge f (s.fld k) v m)
    | _ => s

/-- A write changes COMPAT while an ENABLE of the page is 1 (R265). -/
def State.badCompat (s : State) (page off : Nat) (v m : Word) : Bool :=
  compatPage page && off == 0 && m.getLsbD 31 && (v.getLsbD 31 != s.compat page) && (instsOf page).any s.enabled

/-- A run-time claim of a ring that another agent holds (R274): the ring that a written CAN_CFG or SER_CFG names anew. -/
def State.ringClaim (s : State) (page off : Nat) (v m : Word) : Option Nat :=
  let held := fun (b k agent hi lo : Nat) =>
    let n := if v.getLsbD b then hi else lo
    if m.getLsbD b && b2w (v.getLsbD b) != s.pend k && s.agent n != 0 && s.agent n != agent then some n else none
  match instOf page off with
  | some (.can c) =>
    if off = 0x40 + 0x40 * (c - 1) then
      (held 5 (Reg.CAN_CFG_TXRING c) 4 10 8).or (held 6 (Reg.CAN_CFG_RXRING c) 4 11 9)
    else none
  | some (.ser c) =>
    if off = 0x40 + 0x30 * (c - 1) then
      (held 9 (Reg.SER_CFG_RINGS c) 5 14 12).or (held 9 (Reg.SER_CFG_RINGS c) 5 15 13)
    else none
  | _ => none

/-- A write to the primary area: the bits of `v` in `m`, staged fields first. A claim of a ring in use is refused (R274). -/
def State.writePrimary (s : State) (src : WSrc) (page off : Nat) (v m : Word) : State :=
  let fs := fieldsAt page off
  let on := (instOf page off).map s.enabled
  if s.badCompat page off v m then s.wign page
  else if (s.ringClaim page off v m).isSome then s
  else
    let s := (fs.filter (fun f => decide (f.acc = .rws))).foldl (fun s f => s.writeField page off on v m f) s
    let s := (fs.filter (fun f => decide (f.acc ≠ .rws))).foldl (fun s f => s.writeField page off on v m f) s
    let wo := (fs.filter (fun f => decide (f.acc = .wo))).foldl (fun x f => x ||| (bitsOf f v m <<< f.lo)) (0 : Word)
    let s := if hasAcc fs .wo then s.actWo src page off wo else s
    let s := if hasAcc fs .wd ∧ m = 0xFFFFFFFF then { s with wd := s.wd ++ [⟨src, page, off, v⟩] } else s
    match instOf page off with
    | some i => s.settleInst i
    | none => if page = 0x04 then s.settleTrav else s

/-- The pending WD write of a source is judged by the source's next register write (R266, R267): the state, and whether
the write has been used up. -/
def State.judgeWd (s : State) (src : WSrc) (page off : Nat) (alias_ : Bool) (v : Word) : State × Bool :=
  match s.wd.find? (fun x => decide (x.src = src)) with
  | none => (s, false)
  | some x =>
    let s' := { s with wd := s.wd.filter (fun y => decide (y.src ≠ src)) }
    let hit := !alias_ && page == x.page && off == x.off + 0x400
    if hit ∧ v = ~~~ x.value then (s'.applyWd x.page x.off x.value, true)
    else (s'.wdAbort (regAddr x.page x.off) x.src, !alias_ && decide (0x400 ≤ off ∧ off < 0x800))

/-- A register write by a source (R259 to R267). -/
def State.regWrite (s : State) (src : WSrc) (page off : Nat) (v : Word) : State :=
  let r := s.judgeWd src page off false v
  if r.2 then r.1
  else if 0x400 ≤ off ∧ off < 0x800 then r.1.wdAbort (regAddr page off) src
  else if 0x800 ≤ off then r.1
  else r.1.writePrimary src page off v 0xFFFFFFFF

/-- A store to a bit alias (R23, R268): bit `bit` takes bit 0 of `v`; WD and RWC bits ignore it. -/
def State.aliasWrite (s : State) (src : WSrc) (page off bit : Nat) (v : Word) : State :=
  let r := s.judgeWd src page off true v
  if 0x400 ≤ off then r.1
  else r.1.writePrimary src page off (if v.getLsbD 0 then BitVec.ofNat 32 (2 ^ bit) else 0) (BitVec.ofNat 32 (2 ^ bit))

/-- The pages that packets and bridges may not write (R250, R345). -/
def sealedPage (page : Nat) : Bool := page == 0x15 || page == 0x16 || page == 0x1A

/-- The source may write the page: sealed pages take writes of the triad and of the supervisor, and unassigned pages
none. A write to the EMP page is a register write that every field ignores (R16, R267). -/
def mayWrite (src : WSrc) (page : Nat) : Bool :=
  (pageRows page).isSome &&
    (match src with
     | .packet | .bridge => !sealedPage page
     | _ => true)

end Sys2Proof.Machine
end

