-- ==== Sys2Proof/Machine/Change.lean ====
section
/-! DEFINITION. The program switch: carry map, force check, and the new program's tables (spec/02_cycle_model.md R61 to
R66, spec/03_process_image.md R87, R90). -/
namespace Sys2Proof.Machine

/-! ### The carry map (R62 to R65) -/

/-- A carry map entry: COPY or ZERO, source, destination and length. -/
structure Carry where
  op : Nat
  src : Nat
  dst : Nat
  len : Nat
  deriving DecidableEq, Repr

/-- A field of a byte list, least significant byte first. -/
def fieldAt (b : List Byte) (off n : Nat) : Nat := leNat ((b.drop off).take n)

/-- The entries of a carry map section. -/
def carryEntries (b : List Byte) : List Carry :=
  (List.range (fieldAt b 6 2)).map (fun i =>
    let e := (b.drop (32 + 16 * i)).take 16
    ⟨fieldAt e 0 1, fieldAt e 4 4, fieldAt e 8 4, fieldAt e 12 4⟩)

/-- A range that lies wholly in one store: the array and the first word. -/
def storeRange (addr len : Nat) : Option (Arr × Nat) :=
  if addr % 8 ≠ 0 ∨ len % 8 ≠ 0 then none
  else if addr + len ≤ 0x04000000 then some (.ps, addr / 8)
  else if 0x04000000 ≤ addr ∧ addr + len ≤ 0x04400000 then some (.rs, (addr - 0x04000000) / 8)
  else none

/-- An entry keeps R62 and R63. DESIGN CHOICE: the table of R65 names no detail for LEN = 0, nor for a ZERO entry with a
source; both are answered 0x0004 (notes/assumptions/43.md). -/
def Carry.ok (c : Carry) : Bool :=
  decide (c.len ≠ 0) && (storeRange c.dst c.len).isSome &&
    ((c.op == 1 && (storeRange c.src c.len).isSome) || (c.op == 2 && c.src == 0))

/-- The carry cost of a map, and 0 for an image without one (R65). -/
def carryCost (b : Option (List Byte)) : Nat :=
  match b with
  | none => 0
  | some b => (carryEntries b).foldl (fun n c => n + (if c.op = 1 then (c.len + 31) / 32 else (c.len + 63) / 64)) 576

/-- The first refusal of a carry map in the order of R65; `from_` is the active program's ID, none where there is none. -/
def carryRefusal (b : List Byte) (from_ : Option Word) (next : Word) (slack : Nat) : Option Nat :=
  let n := fieldAt b 6 2
  if fieldAt b 0 4 ≠ 0xCA773A01 ∨ fieldAt b 4 2 ≠ 1 ∨ 1024 < n ∨ b.length ≠ 32 + 16 * n then some 0x0002
  else if fieldAt b 0x1C 4 ≠ (crc32c (b.take 28 ++ b.drop 32)).toNat ∨ !(carryEntries b).all Carry.ok then some 0x0004
  else if fieldAt b 0x0C 4 ≠ next.toNat then some 0x0006
  else if from_.isSome ∧ from_ ≠ some (BitVec.ofNat 32 (fieldAt b 8 4)) then some 0x0003
  else if slack < carryCost (some b) then some 0x0001
  else none

/-- One word of a COPY arrives: written, or poisoned where its source does not read (R64). -/
def State.carryWord (s : State) (a : Arr) (w : Nat) (e : Cls × DWord) : State :=
  if e.1.ok then s.fullWrite a w e.2 else s.poison a w

/-- One entry: the source is read in full before the destination is written (R63). -/
def State.carryEntry (s : State) (c : Carry) : State :=
  let n := c.len / 8
  match storeRange c.dst c.len with
  | none => s
  | some (a, w) =>
    if c.op = 1 then
      match storeRange c.src c.len with
      | none => s
      | some (b, v) =>
        let r := s.readMany b .cycleEngine ((List.range n).map (fun i => v + i))
        (List.range n).foldl (fun (s : State) i => s.carryWord a (w + i) (sgetD (.ue, 0) r.2 (v + i))) r.1
    else (List.range n).foldl (fun (s : State) i => s.fullWrite a (w + i) 0) s

/-- Apply a carry map, its entries in order. -/
def State.carryAll (s : State) (b : Option (List Byte)) : State :=
  match b with
  | some b => (carryEntries b).foldl (fun (s : State) c => s.carryEntry c) s
  | none => s

/-! ### The force table (R87) -/

/-- The ID lies in a declared input range, and in a declared output range, of an enabled task (notes/assumptions/43.md). -/
def Image.isInput (p : Image) (id : Nat) : Bool := (List.range 7).any (fun n => (p.task n).enable && inRanges (p.task n).inputs id)
def Image.isOutput (p : Image) (id : Nat) : Bool :=
  (List.range 7).any (fun n => (p.task n).enable && inRanges (p.task n).outputs id)

/-- SCOPE of an ID: bit 0 it is latched, bit 1 it is committed. -/
def Image.scope (p : Image) (id : Nat) : Nat := b2n (p.isInput id) + 2 * b2n (p.isOutput id)

/-- Why an entry is dropped, none where it stays. -/
def Image.dropForce (p : Image) (f : Force) : Option Nat :=
  match p.sig f.id with
  | none => some 1
  | some e => if e.word != f.word then some 2 else if p.scope f.id = 0 then some 3 else none

/-- Check the force table against a new program. -/
def State.checkForces (s : State) (p : Image) : State :=
  let out := s.img.forces.filter (fun f => (p.dropForce f).isSome)
  let keep := (s.img.forces.filter (fun f => (p.dropForce f).isNone)).map (fun f => { f with scope := p.scope f.id })
  let s := { s with img.forces := keep }.forceStat
  out.foldl (fun (s : State) f =>
    ((s.flag Reg.CE_EVT_FORCE_DROPPED true).bump Reg.PI_FORCEDROPCNT).report .o .warn (evCode 3 87 0) (srcNo 3 0)
      (leBytes 4 f.id ++ leBytes 4 f.value.toNat ++ [BitVec.ofNat 8 ((p.dropForce f).getD 0)])) s

/-! ### The new program (R61, R66, R90) -/

/-- The slice map: the groups that hold a WORD signal. -/
def Image.slices (p : Image) : List Nat := ((p.signals.filter (·.word)).map (fun e => e.id / 32)).eraseDups

/-- The slots of the active and of the inactive program. -/
def State.slot (s : State) (n : Nat) : Slot := s.ce.slots.toList.getD n ⟨none, [], .no, none⟩
def State.setSlot (s : State) (n : Nat) (x : Slot) : State := { s with ce.slots := s.ce.slots.setIfInBounds n x }
def State.otherSlot (s : State) : Nat := 1 - s.slotNo

/-- The program-margin flag once `p` is loaded: clear where it passes the check at the GOP, and as it was where the GOP has
fallen since `p` was verified (R51). -/
def State.marginAfter (s : State) (p : Image) : Bool :=
  s.sup.programMargin && (p.failing (usableClocks s.pwr.gop) s.slack).isSome

/-- Carry, force check, and the inactive slot made active: steps 2 to 5 of R61, and R66. -/
def State.makeActive (s : State) (p : Image) : State :=
  let s := (s.carryAll p.carry).checkForces p
  let s := s.flag Reg.CE_STAT_SLOT (s.slotNo == 0)
  let s := { s with ce.active := some p, ce.retainInit := p.retain && !s.sup.retained.contains p.id, ce.sliceMap := p.slices,
                    sup.programMargin := s.marginAfter p }
  (List.finRange 7).foldl (fun (s : State) n => s.modTask ⟨n.val, by omega⟩ (fun t => { t with overruns := 0 })) (s.loadTasks p)

end Sys2Proof.Machine
end

