-- ==== Sys2Proof/Machine/Join.lean ====
section
/-! DEFINITION. What a join copies: the pages of the six regions and the state record of CUT (R365, R366). The manual
gives neither a layout; this one is the model's (notes/assumptions/15.md). -/
namespace Sys2Proof.Machine

/-! ### Pages -/

/-- The pages of each region (R365). -/
def regionPages : List (Nat × Nat) := [(0, 16384), (1, 1024), (2, 384), (3, 512), (4, 384), (5, 16)]

/-- Every page. -/
def allPages : List Nat := regionPages.flatMap (fun e => (List.range e.2).map (pageKey e.1))

/-- The array of a region. -/
def regionArr : Nat → Arr
  | 0 => .ps | 1 => .rs | 2 => .img | 3 => .live | _ => .com

/-- The bytes that hold 64 flags. -/
def flagBytes (f : Nat → Bool) : List Byte :=
  leBytes 8 (((List.range 64).map (fun i => b2n (f i) * 2 ^ i)).foldl (· + ·) 0)

/-- A signal's source is declared lost. -/
def Images.idLost (m : Images) (id : Nat) : Bool :=
  match sget m.srcOf id with
  | some x => decide (x ∈ m.lost)
  | none => false

/-- Word `w` of region `r` as the Col Pair Controller reads it, counted like any read (R197 to R199, R504): its 8 bytes, or
none where it reads as uncorrectable or poisoned. In region 3 the words of the edge memory hold the source-invalid flags and
the first of the reserve the lost ones. -/
def State.joinWord (s : State) (r w : Nat) : State × Option (List Byte) :=
  if r = 3 ∧ edgePlane ≤ w ∧ w < reservePlane then
    (s, some (flagBytes (fun i => sgetD false s.img.valid (64 * (w - edgePlane) + i))))
  else if r = 3 ∧ reservePlane ≤ w then
    (s, some (flagBytes (fun i => w < reservePlane + 0x1000 && s.img.idLost (64 * (w - reservePlane) + i))))
  else
    let q := s.readWord (regionArr r) w .col
    (q.1, if q.2.1.ok then some (leBytes 8 q.2.2.toNat) else none)

/-- Words of a region from `w` on, in order. -/
def State.joinWords (s : State) (r : Nat) : List Nat → State × List (Option (List Byte))
  | [] => (s, [])
  | w :: t =>
    let q := s.joinWord r w
    let x := State.joinWords q.1 r t
    (x.1, q.2 :: x.2)

/-- The bytes of a force entry, as in FORCE_LIST. -/
def Force.bytes (f : Force) : List Byte :=
  leBytes 4 (f.id + 2 ^ 18 * b2n f.word) ++ leBytes 4 f.value.toNat ++
    [BitVec.ofNat 8 f.scope, BitVec.ofNat 8 f.role, 0, 0] ++ leBytes 4 f.tick

/-- The force entry that 16 bytes spell. -/
def forceOf (b : List Byte) : Force :=
  let at_ := fun i n => leNat ((b.drop i).take n)
  ⟨at_ 0 4 % 2 ^ 18, bitAt (at_ 0 4) 18 == 1, BitVec.ofNat 32 (at_ 4 4), at_ 8 1, at_ 9 1, at_ 12 4⟩

/-- An unused force entry. -/
def noForce : List Byte := List.replicate 16 0xFF

/-- A PAGE payload (R356), with what reading the page counts. -/
def State.pagePayload (s : State) (key : Nat) : State × List Byte :=
  let r := key / 65536
  let i := key % 65536
  let head := [BitVec.ofNat 8 r, 0, 0, 0] ++ leBytes 4 i
  let clean := List.replicate 64 (0 : Byte)
  if r = 5 then
    (s, head ++ clean ++ (List.range 256).flatMap (fun j =>
      match s.img.forces[256 * i + j]? with
      | some f => f.bytes
      | none => noForce))
  else if r = 3 ∧ 384 ≤ i then
    (s, head ++ clean ++ (List.range 2048).flatMap (fun j => leBytes 2 (s.age (2048 * (i - 384) + j))))
  else
    let q := s.joinWords r ((List.range 512).map (fun j => 512 * i + j))
    (q.1, head ++ (List.range 8).flatMap (fun k => flagBytes (fun j => (q.2.getD (64 * k + j) none).isNone)) ++
      q.2.flatMap (fun w => w.getD (List.replicate 8 0)))

/-- Ages of a join are kept relative to the active's tick until CUT: this bias, and the tick, less the age. -/
def ageBias : Nat := 2 ^ 33

/-- Write 64 flags of a flag page. -/
def setFlags (f : Images → Nat → Bool → Images) (m : Images) (first v : Nat) : Images :=
  (List.range 64).foldl (fun m i => f m (first + i) (bitAt v i == 1)) m

/-- The source of a signal is lost, or not, as a received page tells. -/
def Images.setLost (m : Images) (id : Nat) (b : Bool) : Images :=
  match sget m.srcOf id with
  | some x =>
    let rest := m.lost.filter (fun y => decide (y ≠ x))
    { m with lost := if !b then rest else if x ∈ m.lost then m.lost else m.lost ++ [x] }
  | none => m

/-- The source-invalid flag of a signal, as a received page tells. -/
def Images.setValid (m : Images) (id : Nat) (b : Bool) : Images :=
  { m with valid := if b then sput m.valid id true else serase m.valid id }

/-- One word of a received page: written in full, or poisoned where the bitmap marks it. -/
def State.putJoinWord (s : State) (r w : Nat) (bad : Bool) (v : Nat) : State :=
  if r = 3 ∧ edgePlane ≤ w ∧ w < reservePlane then
    { s with img := setFlags Images.setValid s.img (64 * (w - edgePlane)) v }
  else if r = 3 ∧ reservePlane ≤ w then
    let v := if w < reservePlane + 0x1000 then v else 0
    { s with img := setFlags Images.setLost s.img (64 * (w - reservePlane)) v }.countLost
  else if bad then s.poison (regionArr r) w
  else s.fullWrite (regionArr r) w (BitVec.ofNat 64 v)

/-- A received PAGE is written in full (R365); `tick` is the active's. -/
def State.putPage (s : State) (tick : Nat) (p : List Byte) : State :=
  let at_ := fun i n => leNat ((p.drop i).take n)
  let r := at_ 0 1
  let i := at_ 4 4
  let data := p.drop 72
  if r = 5 then
    let es := (List.range 256).map (fun j => (data.drop (16 * j)).take 16)
    let fs := (es.filter (fun b => b != noForce)).map forceOf
    { s with img.forces := s.img.forces.take (256 * i) ++ fs ++ s.img.forces.drop (256 * i + 256) }.forceStat
  else if r = 3 ∧ 384 ≤ i then
    { s with img.delivered := (List.range 2048).foldl (fun m j =>
        let id := 2048 * (i - 384) + j
        let a := leNat ((data.drop (2 * j)).take 2)
        if a = 0xFFFF then serase m id else sput m id (ageBias + tick - a)) s.img.delivered }
  else if r < 5 then
    (List.range 512).foldl (fun (s : State) j =>
      s.putJoinWord r (512 * i + j) (bitAt (at_ (8 + j / 8) 1) (j % 8) == 1) (leNat ((data.drop (8 * j)).take 8))) s
  else s

/-- At CUT the copied ages become this unit's (R366). -/
def State.rebaseAges (s : State) (tick : Nat) : State :=
  { s with img.delivered := s.img.delivered.map (fun e =>
      (e.1, s.img.ageClock + 65536 - min 0xFFFF ((ageBias + tick % 2 ^ 32 - e.2) % 2 ^ 32))) }

/-! ### The state record of CUT -/

/-- The bytes of a context. -/
def Ctx.record (c : Ctx) : List Byte :=
  let w := fun (v : Word) => leBytes 4 v.toNat
  let f := c.flags
  c.g.toList.flatMap w ++ w c.wa ++ w c.ba ++ w c.sm ++ leBytes 4 c.pc ++
    leBytes 4 (b2n f.z + 2 * b2n f.n + 4 * b2n f.c + 8 * b2n f.v + 16 * b2n f.ov + 32 * b2n f.fe) ++
    leBytes 1 c.ns.length ++ leBytes 1 c.cs.length ++
    c.ns.flatMap (fun e => w e.1 ++ leBytes 1 (match e.2 with | .and => 0 | .or => 1 | .xor => 2 | .andn => 3 | .orn => 4)) ++
    c.cs.flatMap (fun e => match e with
      | .call r => leBytes 1 0 ++ leBytes 4 r ++ leBytes 4 0
      | .loop st n => leBytes 1 1 ++ leBytes 4 st ++ leBytes 4 n)

/-- The context that bytes spell. -/
def ctxOf (b : List Byte) : Ctx :=
  let at_ := fun i n => leNat ((b.drop i).take n)
  let w := fun i => BitVec.ofNat 32 (at_ i 4)
  let fl := at_ 80 4
  let bit := fun i => bitAt fl i == 1
  let nn := at_ 84 1
  let nc := at_ 85 1
  { g := Vector.ofFn (fun i => w (4 * i.val)), wa := w 64, ba := w 68, sm := w 72, pc := at_ 76 4,
    flags := ⟨bit 0, bit 1, bit 2, bit 3, bit 4, bit 5⟩,
    ns := (List.range nn).map (fun i => (w (86 + 5 * i),
      match at_ (90 + 5 * i) 1 with | 0 => .and | 1 => .or | 2 => .xor | 3 => .andn | _ => .orn)),
    cs := (List.range nc).map (fun i =>
      let o := 86 + 5 * nn + 9 * i
      if at_ o 1 = 0 then .call (at_ (o + 1) 4) else .loop (at_ (o + 1) 4) (at_ (o + 5) 4)) }

/-- The Traverse registers that a join copies (R206): ENABLE, PACE, LAPMAX and the ranges. -/
def travKeys : List Nat :=
  [Reg.PS_TRAV_CTRL_ENABLE, Reg.PS_TRAV_CTRL_PACE, Reg.PS_TRAV_LAPMAX_LAPMAX] ++
    (List.range 8).flatMap (fun n => [Reg.PS_TRAV_BASE_VALID n, Reg.PS_TRAV_BASE_BASE n, Reg.PS_TRAV_LIM_LIMIT n])

/-- A CUT payload at tick `k` (R366): the tick, the publication count, the CE page state, Traverse, T7. -/
def State.cutPayload (s : State) : List Byte :=
  let bit := fun (f : Nat → Bool) => leBytes 1 (((List.range 8).map (fun n => b2n (f n) * 2 ^ n)).foldl (· + ·) 0)
  leBytes 8 s.time.tick ++ leBytes 4 s.net.pubCount ++ bit s.taskOn ++
    leBytes 1 (s.fld Reg.CE_STAT_STOPPED).toNat ++
    bit (fun n => (s.ce.tasks.toList.getD n TaskRt.idle).held) ++ bit (fun n => n == 7 && (s.ce.task 7).ready) ++
    (List.range 7).flatMap (fun n => leBytes 2 (s.ce.tasks.toList.getD n TaskRt.idle).overruns) ++
    leBytes 2 (s.time.tick - (s.ce.task 7).resumeAfter) ++
    travKeys.flatMap (fun k => leBytes 4 (s.fld k).toNat) ++ (s.ce.task 7).ctx.record

/-- The joining unit takes the state record (R366): from now on it counts the active's ticks. -/
def State.takeCut (s : State) (p : List Byte) : State :=
  let at_ := fun i n => leNat ((p.drop i).take n)
  let k := at_ 0 8
  let s := State.rebaseAges { s with time.tick := k, net.pubCount := at_ 8 4 } k
  let s := (List.range 8).foldl (fun (s : State) n => s.flag (Reg.CE_TASKCFG_ENABLE n) (bitAt (at_ 12 1) n == 1)) s
  let s := s.setFld Reg.CE_STAT_STOPPED (BitVec.ofNat 32 (at_ 13 1))
  let s := (List.finRange 7).foldl (fun (s : State) n =>
    s.modTask ⟨n.val, by omega⟩ (fun t => { t with held := bitAt (at_ 14 1) n.val == 1, overruns := at_ (16 + 2 * n.val) 2 })) s
  let s := (travKeys.zip (List.range travKeys.length)).foldl (fun (s : State) e =>
    s.setFld e.1 (BitVec.ofNat 32 (at_ (32 + 4 * e.2) 4))) s
  let t7 := ctxOf (p.drop (32 + 4 * travKeys.length))
  let s := s.modTask 7 (fun t => { t with ctx := t7, ready := bitAt (at_ 15 1) 7 == 1, resumeAfter := k - at_ 30 2 })
  { s with col.cutTaken := true }

end Sys2Proof.Machine
end

