-- ==== Sys2Proof/Machine/Flags.lean ====
section
/-! DEFINITION. Every flag computation of Cycle Code (R94, R130, R145, R149, R151, R152, R161). -/
namespace Sys2Proof.Machine

/-- setzn(r): Z and N from a 32-bit result. -/
def Flags.setZN (f : Flags) (r : Word) : Flags := { f with z := r == 0, n := r.getLsbD 31 }

/-- setv(b): V, and sticky OV where V is set. -/
def Flags.setV (f : Flags) (b : Bool) : Flags := { f with v := b, ov := f.ov || b }

/-- C. -/
def Flags.setC (f : Flags) (b : Bool) : Flags := { f with c := b }

/-- Sticky FE. -/
def Flags.orFe (f : Flags) (b : Bool) : Flags := { f with fe := f.fe || b }

/-- An exact signed value lies outside the 32-bit range. -/
def outside (i : Int) : Bool := decide (i < -2147483648) || decide (2147483647 < i)

/-- Flags of ADD (R145). -/
def Flags.add (f : Flags) (a b : Word) : Flags :=
  ((f.setC (decide (2 ^ 32 ≤ a.toNat + b.toNat))).setV (outside (a.toInt + b.toInt))).setZN (a + b)

/-- Flags of SUB and CMP (R145). -/
def Flags.sub (f : Flags) (a b : Word) : Flags :=
  ((f.setC (decide (b.toNat ≤ a.toNat))).setV (outside (a.toInt - b.toInt))).setZN (a - b)

/-- Flags of a shift: Z and N of the result, C from the last bit shifted out where the count is not zero (R130). -/
def Flags.shift (f : Flags) (n : Nat) (out : Bool) (r : Word) : Flags := (if n = 0 then f else f.setC out).setZN r

/-- Flags of MUL (R145). -/
def Flags.mul (f : Flags) (a b : Word) : Flags := (f.setV (outside (a.toInt * b.toInt))).setZN (a * b)

/-- Flags of a division: V as given, Z and N of the result (R145). -/
def Flags.div (f : Flags) (v : Bool) (r : Word) : Flags := (f.setV v).setZN r

/-- Flag code F: Z and N of a binary32 result, both 0 for a NaN; FE as the operation found (R151). -/
def Flags.float (f : Flags) (r : FpRes) : Flags :=
  let nan := fpIsNaN r.1
  ({ f with z := !nan && (r.1 &&& 0x7FFFFFFF) == 0, n := !nan && r.1.getLsbD 31 }).orFe r.2

/-- Flags of FFTOI and FFTOIR: Z and N of the integer, FE (R151). -/
def Flags.floatToInt (f : Flags) (r : FpRes) : Flags := (f.setZN r.1).orFe r.2

/-- Flags of FCMP (R152). -/
def Flags.fcmp (f : Flags) : FpRel → Flags
  | .eq => { f with z := true, n := false, c := true, v := false }
  | .lt => { f with z := false, n := true, c := false, v := false }
  | .gt => { f with z := false, n := false, c := true, v := false }
  | .unordered sn => ({ f with z := false, n := false, c := false }.setV true).orFe sn

/-- FLAGS[5:0] as a word; bits [31:6] read as zero (R94). -/
def Flags.word (f : Flags) : Word :=
  BitVec.ofNat 32 (b2n f.z + 2 * b2n f.n + 4 * b2n f.c + 8 * b2n f.v + 16 * b2n f.ov + 32 * b2n f.fe)

/-- MTF (R161): Z, N, C, V are written; OV and FE can be set but not cleared. -/
def Flags.mtf (f : Flags) (a : Word) : Flags :=
  { z := a.getLsbD 0, n := a.getLsbD 1, c := a.getLsbD 2, v := a.getLsbD 3,
    ov := f.ov || a.getLsbD 4 || a.getLsbD 3, fe := f.fe || a.getLsbD 5 }

/-- CLRF (R161): OV and FE are cleared. -/
def Flags.clrf (f : Flags) : Flags := { f with ov := false, fe := false }

/-- The branch conditions of R157; BT and BF test BA bit 0. -/
def condTaken (cond : BitVec 4) (f : Flags) (ba : Word) : Bool :=
  match cond.toNat with
  | 0x0 => true
  | 0x1 => f.z
  | 0x2 => !f.z
  | 0x3 => f.n != f.v
  | 0x4 => f.n == f.v
  | 0x5 => f.z || f.n != f.v
  | 0x6 => !f.z && f.n == f.v
  | 0x7 => !f.c
  | 0x8 => f.c
  | 0x9 => !f.c || f.z
  | 0xA => f.c && !f.z
  | 0xB => f.n
  | 0xC => !f.n
  | 0xD => f.v
  | 0xE => ba.getLsbD 0
  | _ => !ba.getLsbD 0

end Sys2Proof.Machine
end

