-- ==== Sys2Proof/Machine/Operands.lean ====
section
/-! DEFINITION. The operand forms of Cycle Code: effective signal IDs, slices, effective addresses, and the reads and
writes of Image RAM that signal instructions make (R103 to R108, R141, R199, R200). -/
namespace Sys2Proof.Machine

/-- The effective ID as an unsigned 32-bit sum (R103). -/
def effId (c : Ctx) (ix : BitVec 4) (sid : BitVec 18) : Nat :=
  if ix = 0 then sid.toNat else (zx sid + c.get ix).toNat

/-- The effective address of a load or store (R108). -/
def effAddr (c : Ctx) (o : MemOp) : Nat := (c.get o.rb + sx o.off).toNat

/-- The slice mask selects instance `i`. -/
def selected (c : Ctx) (i : Nat) : Bool := c.sm.getLsbD i

/-- A word built bit by bit from 32 instances. -/
def fromBits (f : Nat → Bool) : Word :=
  (List.range 32).foldl (fun x i => if f i then x ||| BitVec.ofNat 32 (2 ^ i) else x) 0

/-- BA with the SM-selected bits replaced (R97). -/
def sliceInto (c : Ctx) (x : Word) : Word := (c.ba &&& ~~~ c.sm) ||| (x &&& c.sm)

/-- Bit 0 of a word, the other bits zero (R97). -/
def bit0 (x : Word) : Word := x &&& 1

/-- The traps of a signal instruction before it reads anything, in the order of R129: ILLEGAL for a SUB value outside
the table or in T7 or the initialisation routine (R107, R131), BOUND (R103), ALIGN for a sliced form (R104), and for a
signal write BUS (R107), checked over every ID it may write. -/
def State.sigTrap (s : State) (w : Who) (c : Ctx) (subOk sliced write : Bool) (eid : Nat) : Option TrapCode :=
  if !subOk ∨ 7 ≤ w.val then some .illegal
  else if 0x3FFFF < eid then some .bound
  else if sliced ∧ (eid % 32 ≠ 0 ∨ (eid / 32) ∈ s.ce.sliceMap) then some .align
  else if write ∧ (if sliced then (List.range 32).any (fun i => selected c i && s.program.otherRange w.val (eid + i))
      else s.program.otherRange w.val eid) then some .bus
  else none

/-- A waiting store to one of these Image RAM words is in the buffer. -/
def State.bufferedImg (s : State) (ws : List Nat) : Bool :=
  s.ce.store.any (fun e => match storeTarget e.addr with
    | some (.img, x) => ws.contains x
    | _ => false)

/-- Signal accesses and stores act on Image RAM in program order (R141): buffered stores up to the last one to these
words are written first. -/
def State.syncImg : Nat → List Nat → State → State
  | 0, _, s => s
  | n + 1, ws, s => if s.bufferedImg ws then State.syncImg n ws s.storeFront else s

/-- The data of several Image RAM words, none where one is uncorrectable. -/
def allOk : Sparse (Cls × DWord) → Option (Sparse DWord)
  | [] => some []
  | (w, k, d) :: t => if k.ok then (allOk t).map (fun r => (w, d) :: r) else none

/-- Read Image RAM for a signal instruction, after the earlier stores of the task: the state and the words, or what ends
the instruction instead: LOAD_UE (R199), or a STORE_ERROR of an earlier store that aborted the release (R121). -/
def State.readImg (s : State) (w : Who) (ws : List Nat) (clocks : Nat) (k : Sparse DWord → State → CcRes) : CcRes :=
  let s := State.syncImg 8 ws s
  if s.ce.cur ≠ some w then .gone s
  else
    let r := s.readMany .img .load ws
    match allOk r.2 with
    | none => .trap .loadUe clocks r.1
    | some d => k d r.1

/-- Write a patch into Image RAM for a signal instruction (R106): partial writes under R200; `true` where one was
refused. -/
def State.writeImg (s : State) (p : Patch) : State × Bool :=
  p.foldl (fun (r : State × Bool) e =>
    let q := r.1.writeWord .img e.1 e.2.1 e.2.2 .store
    (q.1, r.2 || q.2)) (s, false)

/-- A signal write ends the instruction: registers `c`, or STORE_ERROR of the task where Image RAM refused it. -/
def State.storeSig (s : State) (w : Who) (c : Ctx) (p : Patch) : CcRes :=
  let s := State.syncImg 8 (p.map (·.1)) s
  if s.ce.cur ≠ some w then .gone s
  else
    let r := s.writeImg p
    if r.2 then .gone ((r.1.addClocks w 1).trap w .storeError c.pc) else .done c.next 1 r.1

/-- The data word of a code word read for a signal. -/
def wordOf (d : Sparse DWord) (w : Nat) : DWord := sgetD 0 d w

/-- The bit-plane bit of a signal among words read. -/
def bitp (d : Sparse DWord) (id : Nat) : Bool := (wordOf d (bitLoc id).1).getLsbD (bitLoc id).2

/-- The edge bit of a signal among words read. -/
def edgeBit (d : Sparse DWord) (id : Nat) : Bool := (wordOf d (edgeLoc id).1).getLsbD (edgeLoc id).2

/-- The status byte of a signal among words read. -/
def statByte (d : Sparse DWord) (id : Nat) : Nat := get64 (wordOf d (statLoc id).1) (statLoc id).2 8

/-- The word-plane word of a signal among words read. -/
def wordp (d : Sparse DWord) (id : Nat) : Word := BitVec.ofNat 32 (get64 (wordOf d (wordLoc id).1) (wordLoc id).2 32)

/-- The four status code words of a slice group. -/
def statWords (eid : Nat) : List Nat := (List.range 4).map (fun j => (statLoc eid).1 + j)

/-- Write one signal's bit and set its VALID. -/
def Patch.setSig (p : Patch) (id : Nat) (b : Bool) : Patch := (p.add (bitLoc id) 1 (b2n b)).add (statLoc id) 1 1

end Sys2Proof.Machine
end

