-- ==== Sys2Proof/Machine/CcMem.lean ====
section
/-! DEFINITION. Loads and stores (R108 to R112, R153 to R156) over the triad address map (R19 to R23), and the bridge
accesses of T7 (R344 to R348). -/
namespace Sys2Proof.Machine

/-- What a triad address leads to (R19, R20, R23). -/
inductive Place64 where
  | mem (a : Arr) (w : Nat)
  | reserve
  | bridge (n off : Nat)
  | alias_ (page off bit : Nat)
  | page (page off : Nat)
  | none
  deriving DecidableEq, Repr

/-- Decode a triad address; `store` since a program slot takes no stores, `slot` the active slot. -/
def decodeAddr (slot addr : Nat) (store : Bool) : Place64 :=
  if addr < 0x04000000 then .mem .ps (addr / 8)
  else if addr < 0x04400000 then .mem .rs ((addr - 0x04000000) / 8)
  else if 0x10000000 ≤ addr ∧ addr < 0x10180000 then
    (if reservePlane ≤ (addr - 0x10000000) / 8 then .reserve else .mem .img ((addr - 0x10000000) / 8))
  else if 0x20000000 ≤ addr ∧ addr < 0x21000000 then
    (if store ∨ (addr - 0x20000000) / 0x800000 ≠ slot then .none else .mem .prg ((addr - 0x20000000) / 8))
  else if 0x80000000 ≤ addr ∧ addr < 0xBF000000 then
    .bridge ((addr - 0x80000000) / 0x1000000 + 1) ((addr - 0x80000000) % 0x1000000)
  else if 0xE0000000 ≤ addr ∧ addr < 0xE2000000 then
    let r := (addr - 0xE0000000) / 32 / 4 * 4
    if (pageRows (r / 0x1000)).isSome then .alias_ (r / 0x1000) (r % 0x1000) ((addr - 0xE0000000) / 4 % 32) else .none
  else if 0xF0000000 ≤ addr ∧ addr < 0xF0100000 then
    (if (pageRows ((addr - 0xF0000000) / 0x1000)).isSome then
      .page ((addr - 0xF0000000) / 0x1000) ((addr - 0xF0000000) % 0x1000) else .none)
  else .none

/-- A place that a window offset names in the worker (R22); none for the unassigned part. -/
def windowAddr (base off : Nat) : Option Nat :=
  if off < 0xC00000 then some ((base * 0x100000 + off) % 2 ^ 32)
  else if off < 0xD80000 then some (0x10000000 + (off - 0xC00000))
  else if 0xF00000 ≤ off then some (0xF0000000 + (off - 0xF00000))
  else none

/-- Context `n` takes new accesses: enabled, and no shutdown in progress (R347). -/
def State.ctxOn (s : State) (n : Nat) : Bool :=
  s.fld (Reg.BRG_CFG_ENABLE n) == 1 && !decide (Inst.brg n ∈ s.bus.shutting)

/-- The worker address of a window access, none where it raises BUS (R22, R344). -/
def State.bridgeAddr (s : State) (n off : Nat) : Option Nat :=
  if s.ctxOn n then windowAddr (s.fld (Reg.BRG_CFG_BASE n)).toNat off else none

/-- The traps of a memory instruction before it acts, in the order of R129. -/
def State.memTrap (s : State) (w : Who) (o : MemOp) (size : Nat) (store : Bool) (addr : Nat) : Option TrapCode :=
  let p := decodeAddr s.slotNo addr store
  if size = 8 ∧ o.rt.toNat % 2 = 1 then some .illegal
  else match p with
    | .bridge n off =>
      if w ≠ 7 then some .bridgeInCyclic
      else if addr % size ≠ 0 then some .align
      else if (s.bridgeAddr n off).isNone then some .bus else none
    | _ =>
      if addr % size ≠ 0 then some .align
      else match p with
        | .none => some .bus
        | .alias_ _ _ _ => if size = 4 then none else some .bus
        | .page _ _ => if size = 4 then none else some .bus
        | _ => none

/-- The registers after a load of `size` bytes (R153, R156). -/
def Ctx.loaded (c : Ctx) (rt : BitVec 4) (size : Nat) (d : DWord) : Ctx :=
  if size = 8 then (c.set rt (BitVec.ofNat 32 d.toNat)).set (rt + 1) (BitVec.ofNat 32 (d.toNat / 2 ^ 32))
  else c.set rt (BitVec.ofNat 32 (d.toNat % 2 ^ (8 * size)))

/-- `size` bytes of a 64-bit word from the byte an address names. -/
def byteLane (d : DWord) (addr size : Nat) : DWord := BitVec.ofNat 64 (get64 d (8 * (addr % 8)) (8 * size))

/-- The bytes that stores of `w` in the buffer put into a word: data and mask, in program order (R111). -/
def State.forwarded (s : State) (a : Arr) (w : Nat) : DWord × DWord :=
  s.ce.store.foldl (fun (r : DWord × DWord) e =>
    if storeTarget e.addr = some (a, w) then
      let m := byteMask e.addr e.size
      (mergeBits r.1 (BitVec.ofNat 64 (e.data.toNat * 2 ^ (8 * (e.addr % 8)))) m, r.2 ||| m)
    else r) (0, 0)

/-- A store of a whole word waits in the buffer: whatever the array holds now, the word will be clean (R110, R196). -/
def State.fullyBuffered (s : State) (a : Arr) (w : Nat) : Bool :=
  s.ce.store.any (fun e => decide (storeTarget e.addr = some (a, w)) && e.size == 8)

/-- The size code of R333. -/
def sizeCode (size : Nat) : Nat := if size = 1 then 0 else if size = 2 then 1 else if size = 4 then 2 else 3

/-- A load from a window (R344 to R348): from the line, or as a REQUEST that T7 waits for; a station that is not there
ends it with NO_STATION. -/
def State.bridgeLoad (s : State) (c : Ctx) (n off addr size : Nat) (rt : BitVec 4) : CcRes :=
  let x := s.bctx n
  let hit := x.line.filter (fun l => decide (l.addr = addr / 64 * 64) && decide (off < 0xF00000))
  match hit with
  | some l =>
    let i := addr % 64 / 8
    let e := l.words.getD i (0, 0)
    let s := (s.setBctx n { x with line := some { l with used := (i :: l.used).eraseDups } }).bump Reg.BRG_PREFHITCNT
    if e.1 = 0 then .done (c.loaded rt size (byteLane e.2 addr size)).next 6 s
    else .trap .bus 6 (s.farError n off e.1 false)
  | none =>
    if !s.reach n then .trap .bus 6 (s.farError n off 1 false)
    else
      let s := s.dropLine n
      let x := s.bctx n
      let tag := x.nextTag % 8
      let line := s.fld (Reg.BRG_CFG_PREFETCH n) == 1 && decide (off < 0xF00000)
      let l : BridgeLoad := ⟨tag, off, addr, sizeCode size, line, 0, s.time.tick, false, none⟩
      let s := s.setBctx n { x with load := some l, nextTag := (tag + 1) % 8 }
      let s := s.streamSend n 5 (leBytes 4 addr ++ [BitVec.ofNat 8 (sizeCode size), BitVec.ofNat 8 tag,
        BitVec.ofNat 8 (b2n line), 0]) none off
      .gone (s.modTask 7 (fun t => { t with waiting := some (.load n tag rt size) }))

/-- A store to a window (R344): posted after T7's earlier stores have left the buffer; without credit T7 waits. -/
def State.bridgeStore (s : State) (c : Ctx) (n off addr size : Nat) (d : DWord) : CcRes :=
  let s := s.drainAll
  if s.ce.cur ≠ some 7 then .gone s
  else if !s.reach n then .done c.next 1 (s.farError n off 1 true)
  else
    let x := s.bctx n
    let s := (s.setBctx n { x with stores := x.stores ++ [(off, addr, sizeCode size, d)] }).sendStores n
    .done c.next 1 (s.modTask 7 (fun t => { t with waiting := some (.store n) }))

/-- The request record of an access: REGPAGE for register pages and bit aliases, else LOAD or STORE; a load writes registers
as well (R174). -/
def recMem (load : Bool) (o : MemOp) : Ctx → Recs := fun c =>
  let k : RecKind := if 0xE0000000 ≤ effAddr c o then .regpage else if load then .load else .store
  ⟨if load then [.reg, k] else [k], load⟩

/-- A load (R153 to R156): its word is read unless a full write of it waits in the buffer (R111, R199). -/
def State.load (s : State) (v : Vote) (size : Nat) (o : MemOp) : State :=
  s.execCc v (recMem true o) (fun w c s =>
    let addr := effAddr c o
    let ok := fun (d : DWord) (s : State) => CcRes.done (c.loaded o.rt size (byteLane d addr size)).next 6 s
    match s.memTrap w o size false addr with
    | some t => .trap t (if t = .illegal then 1 else 6) s
    | none =>
      match decodeAddr s.slotNo addr false with
      | .mem a x =>
        let f := s.forwarded a x
        if s.fullyBuffered a x then ok f.1 s
        else
          let r := s.readWord a x .load
          if r.2.1.ok then ok (mergeBits r.2.2 f.1 f.2) r.1 else .trap .loadUe 6 r.1
      | .reserve => ok 0 s
      | .page p off =>
        let r := s.readReg p off
        .done (c.loaded o.rt size (r.2.zeroExtend 64)).next 6 r.1
      | .alias_ p off b =>
        let r := s.readReg p off
        .done (c.loaded o.rt size (BitVec.ofNat 64 (b2n (r.2.getLsbD b)))).next 6 r.1
      | .bridge n off =>
        match s.bridgeAddr n off with
        | some a => s.bridgeLoad c n off a size o.rt
        | none => .trap .bus 6 s
      | .none => .trap .bus 6 s)

/-- A store enters the buffer; a full one writes an entry first, which takes at most 2 clocks (R112), and up to 2 vote
stall clocks more in two-lane operation without lane A (R173). -/
def State.bufferStore (s : State) (w : Who) (c : Ctx) (addr size : Nat) (d : DWord) : CcRes :=
  let full := decide (8 ≤ s.ce.store.length)
  let k := if full then s.draw Config.storeWait 2 else (0, s)
  let s := k.2
  let s := if full ∧ !s.votes .a then
      let q := s.draw Config.voteWait 2
      q.2.bumpBy Reg.CE_VSTALLCNT q.1
    else s
  let s := if full then (s.addClocks w k.1).storeFront else s
  if s.ce.cur ≠ some w then .gone s
  else .done c.next 1 { s with ce.store := s.ce.store ++ [⟨addr, size, d, some w⟩] }

/-- A store (R109 to R112, R153). -/
def State.store (s : State) (v : Vote) (size : Nat) (o : MemOp) : State :=
  s.execCc v (recMem false o) (fun w c s =>
    let addr := effAddr c o
    let lo := (c.get o.rt).toNat
    let d : DWord := BitVec.ofNat 64 (if size = 8 then lo + (c.get (o.rt + 1)).toNat * 2 ^ 32 else lo % 2 ^ (8 * size))
    let after := fun (s : State) => if s.ce.cur = some w then CcRes.done c.next 1 s else .gone s
    match s.memTrap w o size true addr with
    | some t => .trap t 1 s
    | none =>
      match decodeAddr s.slotNo addr true with
      | .mem _ _ => s.bufferStore w c addr size d
      | .reserve => s.bufferStore w c addr size d
      | .page p off => after (s.regWrite (.triad w) p off (BitVec.ofNat 32 lo))
      | .alias_ p off b => after (s.aliasWrite (.triad w) p off b (BitVec.ofNat 32 lo))
      | .bridge n off =>
        match s.bridgeAddr n off with
        | some a => s.bridgeStore c n off a size d
        | none => .trap .bus 1 s
      | .none => .trap .bus 1 s)

/-- LDW. -/
def execLdw (v : Vote) (o : MemOp) (s : State) : Out := .next (s.load v 4 o)

/-- LDH. -/
def execLdh (v : Vote) (o : MemOp) (s : State) : Out := .next (s.load v 2 o)

/-- LDBY. -/
def execLdby (v : Vote) (o : MemOp) (s : State) : Out := .next (s.load v 1 o)

/-- LDP. -/
def execLdp (v : Vote) (o : MemOp) (s : State) : Out := .next (s.load v 8 o)

/-- STW. -/
def execStw (v : Vote) (o : MemOp) (s : State) : Out := .next (s.store v 4 o)

/-- STH. -/
def execSth (v : Vote) (o : MemOp) (s : State) : Out := .next (s.store v 2 o)

/-- STBY. -/
def execStby (v : Vote) (o : MemOp) (s : State) : Out := .next (s.store v 1 o)

/-- STP. -/
def execStp (v : Vote) (o : MemOp) (s : State) : Out := .next (s.store v 8 o)

end Sys2Proof.Machine
end

