-- ==== Sys2Proof/Machine/RidgeIn.lean ====
section
/-! DEFINITION. What a station does with a received Ridge frame (spec/13_ridge_link.md). -/
namespace Sys2Proof.Machine

/-- A little-endian field of a payload. -/
def leAt (b : List Byte) (off n : Nat) : Nat := leNat ((b.drop off).take n)

/-- A stream frame for this station from a station it has a stream with: the Summit and a Spur, running and not
refused (R330, R341). -/
def State.streamPeer (s : State) (f : RidgeFrame) : Bool :=
  !f.bcast && f.dst == s.station && s.rdgRuns &&
    (if s.isManager then f.src != 0 && s.online f.src && !s.refused f.src else f.src == 0)

/-! ### Accesses at a Spur (R345) -/

/-- The bytes of a size code (R333). -/
def codeSize (c : Nat) : Nat := if c = 0 then 1 else if c = 1 then 2 else if c = 2 then 4 else 8

/-- A read at the Spur: state, STATUS and the data from the addressed byte. -/
def State.spurRead (s : State) (addr size : Nat) : State × Nat × DWord :=
  let one := fun (r : State × Word) (f : Word → DWord) => (r.1, 0, f r.2)
  match decodeAddr s.slotNo addr true with
  | .mem a w =>
    if addr % size ≠ 0 then (s, 4, 0)
    else
      let r := s.readWord a w .bridge
      (r.1, if r.2.1.ok then (0, byteLane r.2.2 addr size) else (2, 0))
  | .reserve => if addr % size ≠ 0 then (s, 4, 0) else (s, 0, 0)
  | .page p off => if size ≠ 4 ∨ addr % 4 ≠ 0 then (s, 4, 0) else one (s.readReg p off) (fun v => v.zeroExtend 64)
  | .alias_ p off b => if size ≠ 4 ∨ addr % 4 ≠ 0 then (s, 4, 0)
    else one (s.readReg p off) (fun v => BitVec.ofNat 64 (b2n (v.getLsbD b)))
  | .bridge _ _ => (s, 3, 0)
  | .none => (s, 3, 0)

/-- A write at the Spur: state and STATUS. -/
def State.spurWrite (s : State) (addr size : Nat) (d : DWord) : State × Nat :=
  match decodeAddr s.slotNo addr true with
  | .mem a w =>
    if addr % size ≠ 0 then (s, 4)
    else
      let r := s.writeWord a w (BitVec.ofNat 64 (d.toNat * 2 ^ (8 * (addr % 8)))) (byteMask addr size) .bridge
      (r.1, if r.2 then 2 else 0)
  | .reserve => (s, if addr % size ≠ 0 then 4 else 0)
  | .page p off =>
    if size ≠ 4 ∨ addr % 4 ≠ 0 then (s, 4)
    else if sealedPage p then (s, 5) else (s.regWrite .bridge p off (BitVec.ofNat 32 d.toNat), 0)
  | .alias_ p off b =>
    if size ≠ 4 ∨ addr % 4 ≠ 0 then (s, 4)
    else if sealedPage p then (s, 5) else (s.aliasWrite .bridge p off b (BitVec.ofNat 32 d.toNat), 0)
  | .bridge _ _ => (s, 3)
  | .none => (s, 3)

/-- A COMPLETION leaves for the Summit (R333). -/
def State.sendCompletion (s : State) (tag status addr : Nat) (data : List Byte) : State :=
  s.streamSend 0 6 ([BitVec.ofNat 8 tag, BitVec.ofNat 8 status, 0, 0] ++ leBytes 4 addr ++ data) none 0

/-- POSTED at the Spur (R345): only a failure is answered. -/
def State.postedIn (s : State) (p : List Byte) : State :=
  let addr := leAt p 0 4
  let r := s.spurWrite addr (codeSize (leAt p 4 1)) (BitVec.ofNat 64 (leAt p 8 8))
  if r.2 = 0 then r.1 else r.1.sendCompletion 0xFF r.2 addr []

/-- REQUEST at the Spur (R343): queued, or answered RETRY. -/
def State.requestIn (s : State) (p : List Byte) : State :=
  let q : QueuedRequest := ⟨leAt p 0 4, leAt p 4 1, leAt p 5 1, bitAt (leAt p 6 1) 0 == 1⟩
  if s.rdg.requests.length < 16 then { s with rdg.requests := s.rdg.requests ++ [q] }
  else s.sendCompletion q.tag 0x80 q.addr []

/-- Read the 8 words of a line (R348): their statuses and bytes. -/
def State.readLine (s : State) (base : Nat) : Nat → State × List Nat × List Byte
  | 0 => (s, [], [])
  | n + 1 =>
    let q := State.readLine s base n
    let r := q.1.spurRead (base + 8 * n) 8
    (r.1, q.2.1 ++ [r.2.1], q.2.2 ++ leBytes 8 r.2.2.toNat)

/-- A queued request is performed (R343, R345, R348). The manual gives each word of a line a status and the frame no place
for it: the statuses go out beside the frame (notes/assumptions/14.md). -/
def State.serveRequest (s : State) : State :=
  match s.rdg.requests with
  | [] => s
  | q :: t =>
    let s := { s with rdg.requests := t }
    if q.line then
      let r := s.readLine (q.addr / 64 * 64) 8
      (r.1.sendCompletion q.tag 0 q.addr r.2.2).emit (.lineStatus q.tag r.2.1)
    else
      let r := s.spurRead q.addr (codeSize q.size)
      r.1.sendCompletion q.tag r.2.1 q.addr (if r.2.1 = 0 then leBytes 8 r.2.2.toNat else [])

/-! ### At the Summit -/

/-- The window offset that leads to a worker address (R344). -/
def State.windowOff (s : State) (n addr : Nat) : Nat :=
  let o := (addr + 2 ^ 32 - (s.fld (Reg.BRG_CFG_BASE n)).toNat * 0x100000) % 2 ^ 32
  if o < 0xC00000 then o
  else if 0x10000000 ≤ addr ∧ addr < 0x10180000 then 0xC00000 + (addr - 0x10000000)
  else 0xF00000 + addr % 0x100000

/-- RETRY_LIMIT and CPL_TIMEOUT. -/
def State.retryLimit (s : State) : Nat := (s.fld Reg.RDG_CTRL_RETRY_LIMIT).toNat
def State.cplTimeout (s : State) : Nat :=
  let n := (s.fld Reg.RDG_CTRL_CPL_TIMEOUT).toNat
  if n = 0 then 4 else n

/-- COMPLETION at the Summit (R343, R346, R348). -/
def State.completionIn (s : State) (n : Nat) (p : List Byte) : State :=
  let tag := leAt p 0 1
  let st := leAt p 1 1
  if tag = 0xFF then s.farError n (s.windowOff n (leAt p 4 4)) st true
  else
    let x := s.bctx n
    match x.load.filter (fun l => decide (l.tag = tag) && l.done.isNone) with
    | none => s.bump Reg.RDG_LATECPLCNT
    | some l =>
      if st = 0x80 then
        let s := s.bump Reg.BRG_RETRYCNT
        if l.retries < s.retryLimit then
          s.setBctx n { s.bctx n with load := some { l with retries := l.retries + 1, backoff := true } }
        else s.endLoad n 6 0
      else if st ≠ 0 then s.endLoad n st 0
      else if l.line then
        let st := sgetD [] s.rdg.words n
        let ws := (List.range 8).map (fun i => (st.getD i 0, BitVec.ofNat 64 (leAt p (8 + 8 * i) 8)))
        let i := l.addr % 64 / 8
        let e := ws.getD i (0, 0)
        let s := s.setBctx n { s.bctx n with line := some ⟨l.addr / 64 * 64, ws, [i]⟩ }
        s.endLoad n e.1 (byteLane e.2 l.addr (codeSize l.size))
      else s.endLoad n 0 (BitVec.ofNat 64 (leAt p 8 8))

/-- A link of this Spur that a tunnelled frame is handed to works (R352). -/
def State.tunnelReady (s : State) (l : Nat) : Bool :=
  s.tunnelled l &&
    (if l ≤ 10 then s.portUp (l + 1)
     else if l ≤ 22 then s.canOn (l - 14) && !s.canOff (l - 14) && !s.canListens (l - 14)
     else s.serOn (l - 22) && !s.follows)

/-- TUNNEL (R350 to R352): into ring 21 or 23 of the Summit, or to the link of a Spur. -/
def State.tunnelIn (s : State) (n : Nat) (p : List Byte) : State :=
  let l := leAt p 0 2
  let f : AgentFrame := ⟨p.drop 0x18, l, BitVec.ofNat 32 (leAt p 4 4), BitVec.ofNat 32 (leAt p 8 4)⟩
  if s.isManager then
    let ring := if bitAt (s.cfg 0x10 (0x400 + l) 1) 1 = 1 then 23 else 21
    if s.agent ring = 7 then s.arrive ring { f with port := l % 256 + n * 256 } false false (leAt p 0x10 8) else s
  else if !s.tunnelReady l ∨ 16 ≤ (s.tunnelQ l).length then s.bump Reg.RDG_TUNDROPCNT
  else if l ≤ 10 then s.sendOne ⟨l + 1, tagQueue f.data, f.data⟩
  else s.setTunnelQ l (s.tunnelQ l ++ [f])

/-- IRQ (R348, R349): into ring 24 or 25, and the station's line is discarded. -/
def State.irqIn (s : State) (n : Nat) (p : List Byte) : State :=
  let c := leAt p 0 4
  (s.dropLine n).ringIn (24 + c / 2 ^ 31 % 2) 8 ⟨[], n, BitVec.ofNat 32 (c % 2 ^ 31), BitVec.ofNat 32 (leAt p 4 4)⟩

/-! ### Every frame -/

/-- A stream frame that is accepted acts; a MSG with a request acts by the command of its opcode. -/
def State.streamAct (s : State) (n : Nat) (f : RidgeFrame) : State :=
  if s.isManager then
    match f.type with
    | 6 => s.completionIn n f.payload
    | 7 => s.tunnelIn n f.payload
    | 8 => s.irqIn n f.payload
    | 9 => s.relayReply f.payload
    | _ => s
  else
    match f.type with
    | 4 => s.postedIn f.payload
    | 5 => s.requestIn f.payload
    | 7 => s.tunnelIn n f.payload
    | 9 => s.relayReply f.payload
    | _ => s

/-- A frame that is right: its acknowledgement first, then its type (R333). -/
def State.ridgeFrame (s : State) (east late : Bool) (f : RidgeFrame) : State :=
  if f.type = 3 then s.discoverIn east f
  else if f.type = 1 ∧ s.isManager then s.cycleIn f
  else if s.rdgOwn f then s
  else if f.type = 1 then s.cycleIn f
  else
    let s := if s.streamPeer f then s.streamAck f.src f else s
    if f.type = 2 then s.slotIn late f
    else if 4 ≤ f.type ∧ f.type ≤ 9 ∧ s.streamPeer f then
      let r := s.streamTake f.src f
      if r.2 then r.1.streamAct f.src f else r.1
    else s

/-- A frame at a port behind the injector (R328, R334): forwarded, and used where its CRC is right; a copy of any other is
forwarded with the CRC inverted, and counted by how it ended. -/
def State.ridgeAt (s : State) (east late : Bool) (g : LinkFrame) : State :=
  let f := ridgeOf g.bytes
  match frameEnd g.bytes with
  | .right =>
    let s := if f.type = 3 then s else s.rdgForward east true f
    s.ridgeFrame east late f
  | .stomped => (s.bump Reg.RDG_STOMPCNT).rdgForward east false f
  | .wrong => (s.bump (if east then Reg.RDG_CRCERRECNT else Reg.RDG_CRCERRWCNT)).rdgForward east false f

/-- How a received frame ends; `stomped` for one that is not right and ends with the right CRC inverted. -/
def RidgeRx.ending (rx : RidgeRx) (stomped : Bool) : FrameEnd :=
  if rx.ok then .right else if stomped then .stomped else .wrong

/-- A Ridge frame is received. -/
def State.ridgeRx (s : State) (rx : RidgeRx) (late stomped : Bool) : State :=
  if s.rdgPort rx.east then
    s.receive (if rx.east then linkRidgeE else linkRidgeW) (rx.frame.wire (rx.ending stomped))
      (fun s g => s.ridgeAt rx.east late g)
  else s

end Sys2Proof.Machine
end

