-- ==== Sys2Proof/Machine/Col.lean ====
section
/-! DEFINITION. The Col Pair Controller: frames received, joining, running in step, takeover, swap
(spec/14_pair_redundancy.md). -/
namespace Sys2Proof.Machine

/-- Own serial number, and active program ID, 0 where there is none. -/
def State.serial (s : State) : Nat := (s.fld Reg.SYS_SERIAL_SERIAL).toNat
def State.progId (s : State) : Word := s.program.id

/-- The Col frame that bytes spell. -/
def colOf (b : List Byte) : ColFrame :=
  ⟨leAt b 0 1, bitAt (leAt b 1 1) 0 == 1, leAt b 2 2, leAt b 6 2, leAt b 8 4, (b.drop 12).take (leAt b 4 2)⟩

/-- The payload of HELLO and JOIN_REQ (R356). -/
def State.helloBytes (s : State) : List Byte :=
  leBytes 4 s.serial ++ [BitVec.ofNat 8 s.mode.code, BitVec.ofNat 8 s.colState, 0, 0] ++ leBytes 4 s.progId.toNat ++
    leBytes 4 s.cfgCheck.toNat ++ leBytes 4 (s.fld Reg.SYS_FWVER_VERSION).toNat

/-- The partner as a HELLO tells it. -/
def helloOf (f : ColFrame) : Hello :=
  let p := f.payload
  ⟨leAt p 0 4, leAt p 4 1, leAt p 5 1, leAt p 8 4, leAt p 12 4, leAt p 16 4, f.active⟩

/-- An active runs in RUN, DEGRADED or TEST. -/
def Mode.serves : Mode → Bool
  | .run | .degraded | .test => true
  | _ => false

/-- The partner reports itself ACTIVE in RUN, DEGRADED or TEST (R358). -/
def Hello.serves (h : Hello) : Bool := h.active && (h.mode == 4 || h.mode == 5 || h.mode == 8)

/-! ### Joining, on the joining side -/

/-- The unit enters JOINING and asks for the join (R358, R365). -/
def State.beginJoin (s : State) (why : Trigger) : State :=
  let s := s.changeMode .joining why
  s.colSend 0x02 s.helloBytes

/-- The refusal of PAIR_ROLE that the partner's HELLO gives, if any (R360). -/
def State.joinRefusal (s : State) (h : Hello) : Option Answer :=
  if !h.serves then some (.no .notInMode 0x0805)
  else if h.program ≠ s.progId.toNat then some (.no .notInMode 0x0802)
  else if h.check ≠ s.cfgCheck.toNat then some (.no .notInMode 0x0803)
  else if h.firmware / 2 ^ 24 ≠ (s.fld Reg.SYS_FWVER_VERSION).toNat / 2 ^ 24 then some (.no .notInMode 0x0804)
  else none

/-- PAIR_ROLE goes on once there is a HELLO of the partner (R360). -/
def State.pairRoleGo (s : State) : State :=
  match s.cmd.longOp, s.col.partner with
  | some l, some h =>
    if l.opcode = 0x0800 ∧ s.mode = .stopped then
      match s.joinRefusal h with
      | some a => s.answerLong 0x0800 a
      | none => s.beginJoin .pair
    else s
  | _, _ => s

/-- A join that ends without success: PAIR_ROLE is answered, and the unit goes to STOPPED. -/
def State.joinFailed (s : State) (a : Answer) : State := (s.answerLong 0x0800 a).changeMode .stopped .pair

/-- A standby, or a joining unit after its CUT, is in step with the stream. -/
def State.inStream (s : State) : Bool := s.colState == colSyncStandby || s.col.cutTaken

/-- The unit returns to JOINING, or at the third time within 3,600 s of operating time to STOPPED (R363). -/
def State.backToJoining (s : State) : State :=
  let now := s.opSec
  let rs := (now :: s.col.rejoins).filter (fun t => decide (now - t < 3600))
  let s := { s with col.rejoins := rs, col.rejoinDue := false }
  if 3 ≤ rs.length then (s.report .o .fault 0x0A03 (srcNo 10 0) []).changeMode .stopped .pair
  else s.beginJoin .pair

/-- A unit that is out of step at a tick boundary (R214). In RIDETHRU it follows the active no longer, and returns to JOINING
once it is back in STANDBY (R218, R223). -/
def State.rejoin (s : State) : State :=
  match s.mode with
  | .standby => s.backToJoining
  | .ridethru => { s.abandonCycle.dropStream.setColState colJoining with col.rejoinDue := true }
  | _ => { s with col.rejoinDue := false }

/-- A GROUP or MARK is missing (R357, R361): a standby leaves its mode at the next tick boundary (R214), a joining unit starts
its join again. -/
def State.streamGap (s : State) : State :=
  if !s.inStream ∨ s.col.rejoinDue then s
  else
    let s := s.flag Reg.COL_EVT_STREAM_GAP true
    if s.mode = .joining then s.backToJoining else { s with col.rejoinDue := true }

/-! ### Takeover (R369, R370) -/

/-- The standby becomes active. -/
def State.takeOver (s : State) : State :=
  let m : Mode := if s.col.markMode = 0x8 then .test else .run
  let marked := s.col.mark
  let s := (State.dropStream { s with col.groups := [] }).setPair 1
  let s := State.setColState { s with col.mark := marked } colAlone
  let s := if s.mode = .ridethru then { s with sup.rideFrom := m }.endModeWait else s.changeMode m .pair
  -- the node is inserted, and sends again once the WTB has inaugurated (R315)
  let s := s.putOwn.flag Reg.WTB_STAT_INAUG_DONE false
  let s := ((s.bump Reg.COL_TAKEOVERCNT).setFld Reg.COL_LASTTO_TICK (BitVec.ofNat 32 s.time.tick)).flag
    Reg.COL_EVT_TAKEOVER true
  s.report .o .warn (evCode 10 370 0) (srcNo 10 0) (leBytes 8 s.time.tick)

/-- The partner is declared lost. -/
def State.partnerLost (s : State) : State :=
  let s := { s with col.partner := none, col.ahead := [], col.rxSeq := none }.setFld Reg.COL_PARTNER_SERIAL 0
  let s := s.targetLost 0xFF 0x00FF
  let st := s.colState
  -- the retirement of a lane ranks before a takeover (R217), and a unit out of step is no synchronised standby
  if st = colSyncStandby then
    (if s.cv.degradeDue then s.dropStream.setColState colAlone else if s.col.rejoinDue then s else s.takeOver)
  else if st = colJoining then
    let s := s.report .o .fault 0x0A02 (srcNo 10 0) (leBytes 2 s.epoch)
    s.joinFailed (.no .targetLost 0x00FF)
  else if st = colServing then ((s.epochOver true).flag Reg.COL_EVT_PARTNER_LOST true).setColState colAlone
  else if st = colSyncActive then (s.dropStream.flag Reg.COL_EVT_PARTNER_LOST true).setColState colAlone
  else s

/-! ### Frames received -/

/-- Own UNIT follows the partner's serial number (R329). -/
def State.setUnit (s : State) (h : Hello) : State := s.flag Reg.RDG_STAT_UNIT (decide (h.serial < s.serial))

/-- A change of mode waits for the next tick boundary. -/
def State.waitMode (s : State) (m : Mode) (why : Trigger) : State :=
  let s := s.endModeWait
  { s with sup.modeWait := some ⟨m, none, false, why⟩ }

/-- Two actives see each other: the one with the higher serial number stops (R359). -/
def State.dualActive (s : State) : State :=
  let s := (s.flag Reg.COL_EVT_DUAL_ACTIVE true).report .o .critical 0x0A01 (srcNo 10 0) []
  s.waitMode .stopped .pair

/-- HELLO (R356, R358, R359). -/
def State.helloIn (s : State) (f : ColFrame) : State :=
  let h := helloOf f
  let s := State.setUnit ({ s with col.partner := some h }.setFld Reg.COL_PARTNER_SERIAL (BitVec.ofNat 32 h.serial)) h
  if h.active ∧ s.pairRole = 1 ∧ s.mode.serves ∧ h.serial < s.serial ∧
      !s.sup.modeWait.any (fun w => decide (w.target = .stopped ∧ w.why = .pair)) then s.dualActive
  else s.pairRoleGo

/-- A Col lane holds an injection. -/
def State.colInjected (s : State) : Option Nat :=
  if s.fiArmed linkCol1 then some linkCol1 else if s.fiArmed linkCol2 then some linkCol2 else none

/-- JOIN_REQ at the active (R365, R480): a new epoch, and every page to copy. -/
def State.joinReqIn (s : State) (f : ColFrame) (delay : Nat) : State :=
  let s := State.setUnit { s with col.partner := some (helloOf f) } (helloOf f)
  if s.pairRole ≠ 1 ∨ !s.mode.serves then s.colSend 0x03 (leBytes 2 Status.notInMode.code ++ leBytes 2 0x0805)
  else match s.colInjected with
    | some l => s.colSend 0x03 (leBytes 2 Status.resourceConflict.code ++ leBytes 2 l)
    | none =>
      let s := if s.colState = colServing then s.epochOver true else s
      let s := s.dropStream.setFld Reg.COL_STAT_EPOCH (BitVec.ofNat 32 ((s.epoch + 1) % 65536))
      let s := (s.setFld Reg.COL_STAT_ROUND 0).setFld Reg.COL_DELAY_DELAY (BitVec.ofNat 32 (delay % 65536))
      let s := State.setDirty { s.setColState colServing with col.joinSince := s.opNs } allPages
      s.colSend 0x03 (leBytes 4 0)

/-- The answer that a refusal of the active gives PAIR_ROLE. -/
def joinAnswer (status detail : Nat) : Answer :=
  if status = Status.resourceConflict.code then .conflict 0x07 detail else .no .notInMode detail

/-- JOIN_ACK at the joining unit. -/
def State.joinAckIn (s : State) (f : ColFrame) (delay : Nat) : State :=
  if s.mode ≠ .joining then s
  else if leAt f.payload 0 2 = 0 then
    (s.setFld Reg.COL_STAT_EPOCH (BitVec.ofNat 32 (f.epoch % 65536))).setFld Reg.COL_DELAY_DELAY
      (BitVec.ofNat 32 (delay % 65536))
  else s.joinFailed (joinAnswer (leAt f.payload 0 2) (leAt f.payload 2 2))

/-- The MARK that a payload spells (R356). -/
def markOf (p : List Byte) : Mark :=
  let n := leAt p 10 2
  { tick := leAt p 0 8, mode := leAt p 8 1, digest := BitVec.ofNat 32 (leAt p 12 4), switch := bitAt (leAt p 9 1) 0 == 1
    swap := if bitAt (leAt p 9 1) 1 = 1 then some (leAt p 20 4) else none
    forces := (List.range n).map (fun i =>
      let f := forceOf ((p.drop (24 + 16 * i)).take 16)
      if f.scope = 0xFF then .removeAll else if f.scope = 0 then .remove f.id else .set f) }

/-- MARK k at the standby (R361, R362): the groups it closes go to the live image in order; one that is missing is a
gap. -/
def State.markIn (s : State) (f : ColFrame) : State :=
  if s.col.groups.length ≠ leAt f.payload 16 4 then s.streamGap
  else
    let m := markOf f.payload
    let s := s.col.groups.foldl (fun (s : State) p => s.putGroupBytes p) { s with col.groups := [] }
    let s := { s with col.mark := some m, col.markMode := m.mode, col.swapAt := m.swap }
    s.flag Reg.COL_STAT_SWAP_PENDING m.swap.isSome

/-- ABORT (R367, R368). -/
def State.abortIn (s : State) (f : ColFrame) : State :=
  if s.mode = .joining then
    (s.epochOver false).joinFailed (if leAt f.payload 0 2 = 0x0800 then .no .busy 0x0800 else .no .targetLost 0x00FF)
  else if s.colState = colServing then (s.epochOver true).setColState colAlone
  else s

/-- A frame in order acts (R356). `delay` is the link delay as measured at a join. -/
def State.colAct (s : State) (delay : Nat) (f : ColFrame) : State :=
  let mine := f.epoch == s.epoch
  match f.type with
  | 0x01 => s.helloIn f
  | 0x02 => s.joinReqIn f delay
  | 0x03 => s.joinAckIn f delay
  | 0x04 => if mine ∧ s.mode = .joining then s.putPage f.tick f.payload else s
  | 0x05 => if mine ∧ s.mode = .joining then s.takeCut f.payload else s
  | 0x06 => if mine ∧ s.inStream ∧ !s.col.rejoinDue then { s with col.groups := s.col.groups ++ [f.payload] } else s
  | 0x07 => if mine ∧ s.inStream ∧ !s.col.rejoinDue then s.markIn f else s
  | 0x09 => s.relayReply f.payload
  | 0x0A => s.partnerLost
  | 0x0B => s.abortIn f
  | _ => s

/-- Frames received ahead of a gap that has been filled act in order. -/
def State.runAhead : Nat → Nat → State → State
  | 0, _, s => s
  | n + 1, delay, s =>
    match s.col.ahead.find? (fun f => s.col.rxSeq == some f.seq) with
    | some f =>
      let s := { s with col.ahead := s.col.ahead.filter (fun g => g.seq != f.seq), col.rxSeq := some ((f.seq + 1) % 65536) }
      State.runAhead n delay (s.colAct delay f)
    | none => s

/-- A frame takes its place in the order of SEQ (R354, R355). -/
def State.colTake (s : State) (delay : Nat) (f : ColFrame) : State :=
  let e := s.col.rxSeq.getD f.seq
  let d := (f.seq + 65536 - e) % 65536
  if d = 0 then
    let s := { s with col.rxSeq := some ((f.seq + 1) % 65536) }.colAct delay f
    State.runAhead s.col.ahead.length delay s
  else if d < 32768 ∧ !s.col.ahead.any (fun g => g.seq == f.seq) then { s with col.ahead := s.col.ahead ++ [f] }
  else s

/-- A frame on a lane behind the injector (R357). -/
def State.colAt (s : State) (delay : Nat) (g : LinkFrame) : State :=
  if colChecks g.bytes then s.colTake delay (colOf g.bytes) else s.bump Reg.COL_CRCERRCNT

/-- The link of a lane, and its bit of COL_STAT. -/
def laneLink (lane2 : Bool) : Nat := if lane2 then linkCol2 else linkCol1
def laneBit (lane2 : Bool) : Nat := if lane2 then Reg.COL_STAT_LANE2_UP else Reg.COL_STAT_LANE1_UP

/-- A Col frame is received. -/
def State.colRx (s : State) (rx : ColRx) (delay : Nat) : State :=
  if s.fld Reg.COL_CTRL_ENABLE = 1 ∧ s.fld (laneBit rx.lane2) = 1 ∧ s.mode ≠ .selftest ∧ s.mode ≠ .recovery then
    s.receive (laneLink rx.lane2) (rx.frame.wire rx.ok) (fun s g => s.colAt delay g)
  else s

/-! ### On the active -/

/-- Send the dirty pages of a round: each mark is cleared just before its page is read (R365). -/
def State.sendPages (s : State) : State :=
  let ps := s.col.dirty
  ps.foldl (fun (s : State) k =>
    let s := s.setDirty (s.col.dirty.filter (· != k))
    let q := s.pagePayload k
    q.1.colSend 0x04 q.2) s

/-- DELTA_PAGES and JOIN_TIMEOUT. -/
def State.deltaPages (s : State) : Nat :=
  let n := (s.fld Reg.COL_CTRL_DELTA_PAGES).toNat
  if 4 ≤ n ∧ n ≤ 48 then n else 16
def State.joinTimeout (s : State) : Nat :=
  let n := (s.fld Reg.COL_CTRL_JOIN_TIMEOUT).toNat
  if 1 ≤ n ∧ n ≤ 60 then n else 10

/-- The round of the current join. -/
def State.round (s : State) : Nat := (s.fld Reg.COL_STAT_ROUND).toNat

/-- A force change as MARK carries it: SCOPE 0 removes an entry, 0xFF every entry (notes/assumptions/15.md). -/
def ForceChange.bytes (k : Nat) : ForceChange → List Byte
  | .set f => { f with tick := k % 2 ^ 32 }.bytes
  | .remove id => Force.bytes ⟨id, false, 0, 0, 0, 0⟩
  | .removeAll => Force.bytes ⟨0, false, 0, 0xFF, 0, 0⟩

/-- MARK k leaves before step 1 of boundary k (R361 to R363); `switch` where the program switches at it. -/
def State.sendMark (s : State) (k : Nat) (switch : Bool) : State :=
  if s.colState ≠ colSyncActive then s
  else
    let fs := s.img.forceWait
    let p := leBytes 8 k ++ [BitVec.ofNat 8 s.mode.code, BitVec.ofNat 8 (b2n switch + 2 * b2n s.col.swapAt.isSome)] ++
      leBytes 2 fs.length ++ leBytes 4 (s.col.digestPrev.getD 0).toNat ++ leBytes 4 s.col.groupsSince ++
      leBytes 4 (s.col.swapAt.getD 0) ++ fs.flatMap (ForceChange.bytes k)
    State.colSend { s with col.groupsSince := 0, col.streamBytes := 0 } 0x07 p

/-- The groups that were deferred follow the latches of a boundary (R361). -/
def State.sendDeferred (s : State) : State :=
  let ps := s.col.deferred
  ps.foldl (fun (s : State) p =>
    match srcOfCode (leNat (p.take 4)) with
    | some x => s.streamGroup x (groupOf (p.drop 4))
    | none => s) { s with col.deferred := [] }

end Sys2Proof.Machine
end

