-- ==== Sys2Proof/Machine/Encoder.lean ====
section
/-! DEFINITION. Encoders: one sample at a field scan, its faults and its group (R323 to R326). -/
namespace Sys2Proof.Machine

/-- The encoder works. -/
def State.encOn (s : State) (e : Nat) : Bool :=
  s.fld (Reg.ENC_CFG_ENABLE e) == 1 && !decide (Inst.enc e ∈ s.bus.shutting)

/-- SSI bits: SSIBITS plus 1, where values outside 12 to 31 act as 12. -/
def State.ssiBits (s : State) (e : Nat) : Nat :=
  let b := (s.fld (Reg.ENC_CFG_SSIBITS e)).toNat
  (if 12 ≤ b then b else 12) + 1

/-- The clock period of an SSI read in ns; 5 to 7 act as 0. -/
def ssiPeriod : Nat → Nat
  | 1 => 5000 | 2 => 2000 | 3 => 1000 | 4 => 500 | _ => 10000

/-- Scans between SSI reads (R324): the shortest of 1, 2 and 4 that holds (bits + 1) clocks and 20 µs. -/
def State.ssiScans (s : State) (e : Nat) : Nat :=
  let t := (s.ssiBits e + 1) * ssiPeriod (s.fld (Reg.ENC_CFG_SSICLK e)).toNat + 20000
  if t ≤ 100000 then 1 else if t ≤ 200000 then 2 else 4

/-- Gray code to binary: each bit is the exclusive or of the bits at and above it. -/
def grayToBin : Nat → Word → Word
  | 0, x => x
  | n + 1, x => grayToBin n x ^^^ (x >>> (n + 1))

/-- The state of an encoder. -/
def State.encRt (s : State) (e : Nat) : EncRt := sgetD EncRt.zero s.bus.enc e

/-- Replace it. -/
def State.setEnc (s : State) (e : Nat) (c : EncRt) : State := { s with bus.enc := ssetD EncRt.zero s.bus.enc e c }

/-- A fault of R325 holds. -/
def State.encFault (s : State) (e : Nat) : Bool :=
  s.fld (Reg.ENC_ESTAT_WIRE e) == 1 || s.fld (Reg.ENC_ESTAT_QUAD e) == 1 || s.fld (Reg.ENC_ESTAT_ZERR e) == 1 ||
    s.fld (Reg.ENC_ESTAT_SSI_ERR e) == 1

/-- ENC_STAT.FAULT follows the faults of an encoder. -/
def State.encStat (s : State) (e : Nat) : State := s.putBit Reg.ENC_STAT_FAULT (e - 1) (s.encFault e)

/-- The WIRE condition: counted at its onset. -/
def State.encWire (s : State) (e : Nat) (w : Bool) : State :=
  let s := if w ∧ s.fld (Reg.ENC_ESTAT_WIRE e) = 0 then s.bump (Reg.ENC_WIRECNT e) else s
  s.flag (Reg.ENC_ESTAT_WIRE e) w

/-- The distance of `d` from the nearest multiple of `n`. -/
def offMultiple (d n : Nat) : Nat := min (d % n) (n - d % n)

/-- A Z edge at count `z` (R324, R325). -/
def State.encZ (s : State) (e : Nat) (z : Word) : State :=
  let c := s.encRt e
  let n := (s.fld (Reg.ENC_ZCFG e)).toNat
  let bad := match c.prevZ with
    | some p => decide (n ≠ 0) && decide (4 < offMultiple (z - p).toInt.natAbs n)
    | none => false
  let s := (s.setEnc e { c with prevZ := some z }).setFld (Reg.ENC_ZCOUNT e) z
  let s := if bad then s.bump (Reg.ENC_ZERRCNT e) else s
  s.flag (Reg.ENC_ESTAT_ZERR e) bad

/-- The time a sample carries, `into` ns after the last tick boundary: calendar time in µs, or time since the start while it is
unset. -/
def State.sampleTime (s : State) (into : Nat) : Word :=
  BitVec.ofNat 32 (((if s.time.utcValid then s.time.utc else s.img.ageClock * 250000) + into) / 1000)

/-- Where block 0x0E names the signals of an encoder: count, count at the last Z edge, time (notes/assumptions/11.md). -/
def encSignalOff (e i : Nat) : Nat := 0x1000 + 12 * (e - 1) + 4 * i

/-- A sample is delivered as one group (R324, R475): count, count at the last Z edge, time. -/
def State.encIn (s : State) (e into : Nat) (f : LinkFrame) : State :=
  let v := BitVec.ofNat 32 (leNat f.bytes)
  let s := s.setFld (Reg.ENC_COUNT e) v
  let s := { s with sf.hist := sput s.sf.hist e ((v :: sgetD [] s.sf.hist e).take 101) }
  let bad := s.encFault e
  let sig := fun (i : Nat) (w : Word) => match s.cfgSignal 0x0E (encSignalOff e i) with
    | some id => [(⟨id, some (true, w), !bad, if bad then 3 else 1⟩ : Sample)]
    | none => []
  s.deliver (.encoder e) (sig 0 v ++ sig 1 (s.fld (Reg.ENC_ZCOUNT e)) ++ sig 2 (s.sampleTime into))

/-- A sample passes the injector (R475). -/
def State.encSample (s : State) (e into : Nat) (count : Word) : State :=
  s.receive (encLink e) ⟨leBytes 4 count.toNat, true⟩ (fun s f => s.encIn e into f)

/-- An incremental sample. -/
def State.encIncr (s : State) (e into : Nat) (delta : Int) (z : Option Int) (wire quad : Bool) : State :=
  let sign : Int := if s.fld (Reg.ENC_CFG_DIR e) = 1 then -1 else 1
  let c := s.encRt e
  let now := c.count + BitVec.ofInt 32 (sign * delta)
  let s := s.encWire e wire
  let s := (if quad then s.bump (Reg.ENC_QERRCNT e) else s).flag (Reg.ENC_ESTAT_QUAD e) quad
  let s := match z with
    | some d => if s.fld (Reg.ENC_CFG_ZEN e) = 1 then s.encZ e (c.count + BitVec.ofInt 32 (sign * d)) else s
    | none => s
  let s := s.setEnc e { s.encRt e with count := now }
  (s.encStat e).encSample e into now

/-- An SSI read, at the scans R324 gives it. -/
def State.encSsi (s : State) (e into : Nat) (raw : Word) (wire lineError : Bool) : State :=
  let c := s.encRt e
  if c.scans + 1 < s.ssiScans e then s.setEnc e { c with scans := c.scans + 1 }
  else
    let bits := s.ssiBits e
    let x := BitVec.ofNat 32 (raw.toNat % 2 ^ bits)
    let pos := if s.fld (Reg.ENC_CFG_GRAY e) = 1 then grayToBin (bits - 1) x else x
    let jump := (s.fld (Reg.ENC_SSIJUMP e)).toNat
    let far := match c.prevPos with
      | some p => decide (jump ≠ 0) && decide (jump < ((pos.toNat : Int) - p).natAbs)
      | none => false
    let bad := lineError || far
    let s := s.encWire e wire
    let s := (if bad then s.bump (Reg.ENC_SSIERRCNT e) else s).flag (Reg.ENC_ESTAT_SSI_ERR e) bad
    let s := s.setEnc e { c with count := pos, prevPos := some pos.toNat, scans := 0 }
    (s.encStat e).encSample e into pos

/-- The sample of encoder `e` at a field scan (R324): RWS fields of its page instance apply with it (R258). -/
def State.scanEncoder (s : State) (e into : Nat) (r : EncRead) : State :=
  let s := s.applyStaged (fun k => keyPage k == 0x0E && decide (0x40 + 0x30 * (e - 1) ≤ keyOff k ∧
    keyOff k < 0x70 + 0x30 * (e - 1)))
  if !s.encOn e then s
  else
    match r with
    | .none => s
    | .incr d z w q => if s.fld (Reg.ENC_CFG_MODE e) = 0 then s.encIncr e into d z w q else s
    | .ssi x w l => if s.fld (Reg.ENC_CFG_MODE e) = 1 then s.encSsi e into x w l else s

end Sys2Proof.Machine
end

