-- ==== Sys2Proof/Machine/Deliver.lean ====
section
/-! DEFINITION. Received frames that the removal or the expiry of an injection releases reach their subsystem
(spec/21_link_fault_injection.md R476). -/
namespace Sys2Proof.Machine

/-- One released frame at the subsystem of link `l`, which has had its injector behind it. A frame of an MVB line comes
too late for its master frame; a packet on CONSOLE waits to be served. -/
def State.deliverOne (s : State) (l : Nat) (f : LinkFrame) : State :=
  if l ≤ 10 then s.ethIn (l + 1) f
  else if l = linkWtbA ∨ l = linkWtbB then (if s.wtbIn ∧ f.ok then s.wtbFrame f else s)
  else if 15 ≤ l ∧ l ≤ 22 then s.canIn (l - 14) f
  else if 23 ≤ l ∧ l ≤ 34 then s.serIn (l - 22) f
  else if 35 ≤ l ∧ l ≤ 40 then s.encIn (l - 34) 0 f
  else if l = linkRidgeE then s.ridgeAt true false f
  else if l = linkRidgeW then s.ridgeAt false false f
  else if l = linkCol1 ∨ l = linkCol2 then s.colAt 0 f
  else if l = linkPpsIn then s.ppsEdge 0
  else if l = linkConsole then
    match uncobs f.bytes with
    | some b => s.packetWaits 6 linkConsole b
    | none => s.bump Reg.CMD_FRAMEERR_CNT
  else s

/-- Every released frame, in order. -/
def State.deliverReleased (s : State) : State :=
  let fs := s.fi.released
  fs.foldl (fun (s : State) e => s.deliverOne e.1 e.2) { s with fi.released := [] }

end Sys2Proof.Machine
end

