-- ==== Sys2Proof/Machine/Tick.lean ====
section
/-! DEFINITION. The tick boundary: time, the pair's boundary, changes of mode, MARK, forces, the probe, staged registers and
the four steps of the Cycle Engine (spec/02_cycle_model.md R41, spec/08_modes_and_startup.md R214, R217, R223). -/
namespace Sys2Proof.Machine

/-! ### Time -/

/-- The clocks move on by one tick of 250 µs (R32, R33, R306); what SAFE left to this boundary ends (R225). -/
def State.advance (s : State) : State :=
  let t := s.time
  { s with time := { t with tick := t.tick + 1, subNs := min (t.subNs + 250000) 999999999,
                            utc := if t.utcValid then (t.utc + 250000) % 2 ^ 64 else t.utc }
           sup.safeFrom := none, img.ageClock := s.img.ageClock + 1, net.tai := s.net.tai.map (· + 250000), rdg.quiet := s.rdg.quiet + 1 }

/-! ### The pair's boundary (R362, R363, R366) -/

/-- A unit in step with the stream takes boundary `k` at MARK k; any other at its own tick. -/
def State.boundaryReady (s : State) : Bool :=
  !s.inStream || s.col.rejoinDue || (match s.col.mark with
    | some m => m.tick == s.time.tick + 1
    | none => false)

/-- The MARK of this boundary, if the unit has it. -/
def State.markHere (s : State) : Option Mark := s.col.mark.filter (fun m => m.tick == s.time.tick)

/-- The join is complete: the unit is STANDBY from the first boundary after its CUT (R366). -/
def State.joinComplete (s : State) : State :=
  if s.mode = .joining ∧ s.col.cutTaken then
    let s := State.changeMode { s with col.cutTaken := false } .standby .pair
    ((s.bump Reg.COL_JOINCNT).flag Reg.COL_EVT_JOIN_DONE true).answerLong 0x0800 .done
  else s

/-- The standby compares the digest of the tick before with the active's (R363). -/
def State.digestDiffers (s : State) : Bool :=
  match s.markHere, s.col.digestPrev with
  | some m, some d => s.colState == colSyncStandby && m.digest != d
  | _, _ => false

/-- A digest mismatch: the unit is to return to JOINING. -/
def State.digestMismatch (s : State) : State :=
  let s := (s.bump Reg.COL_DIGESTMISCNT).flag Reg.COL_EVT_DIGEST_MIS true
  { s.report .o .fault (evCode 10 363 0) (srcNo 10 0) (leBytes 8 s.time.tick) with col.rejoinDue := true }

/-! ### Changes of mode at the boundary (R214, R217, R223, R224) -/

/-- Both feeds are lost, and the store has been charged since the start (R461). -/
def State.bothLost (s : State) : Bool :=
  s.fld Reg.PWR_STAT_FEED1_GOOD == 0 && s.fld Reg.PWR_STAT_FEED2_GOOD == 0 && s.pwr.charged

/-- Discard the BOUNDARY commits that are held. -/
def State.dropHeld (s : State) : State :=
  { s with ce.tasks := s.ce.tasks.map (fun (t : TaskRt) => { t with held := false }) }

/-- RIDETHRU is entered (R223): `from` as retirement makes it (R224). -/
def State.enterRide (s : State) : State :=
  let from_ := if s.cv.degradeDue ∧ s.mode ≠ .standby then .degraded else s.mode
  let s := if s.mode = .standby then s else { s with cv.degradeDue := false }.dropHeld
  State.changeMode { s with sup.rideFrom := from_ } .ridethru .feeds

/-- A retired lane ends STANDBY or JOINING (R224). -/
def State.laneStops (s : State) : State :=
  let s := State.changeMode { s with cv.degradeDue := false } .stopped .lane
  s.answerLong 0x0800 (.no .notInMode s.mode.code)

/-- The return from RIDETHRU: to the mode of entry, or what has come in its place (R223, R224, R188). -/
def State.leaveRide (s : State) : State :=
  match s.sup.rideFrom with
  | .standby => if s.cv.degradeDue then s.laneStops else s.changeMode .standby .feeds
  | .degraded => if s.cv.degLeft = 0 then s.enterSafe 0x06 else s.changeMode .degraded .feeds
  | m => s.changeMode m .feeds

/-- A retired lane leads to DEGRADED, or ends STANDBY and JOINING (R186, R224). -/
def State.degrade (s : State) : State :=
  match s.mode with
  | .run | .test => s.changeMode .degraded .lane
  | .standby | .joining => s.laneStops
  | _ => s

/-- A lane that was retired while the change of mode waited bars it: the auto-start always (R221), a request where CV_DEGLEFT
is zero (R188, R215). -/
def State.lateBar (s : State) (w : ModeWait) : Bool :=
  s.anyRetired && w.target.cycles && (decide (w.why = .autostart) || s.cv.degLeft == 0)

/-- The mode that a waiting change leads to: DEGRADED in place of RUN with a lane retired (R215). -/
def State.lateTarget (s : State) (w : ModeWait) : Mode := if w.target = .run ∧ s.anyRetired then .degraded else w.target

/-- The waiting change of mode takes effect, and its request is answered (R216). -/
def State.waitedMode (s : State) (w : ModeWait) : State :=
  let s := { s with sup.modeWait := none }
  if s.lateBar w then
    match w.req with
    | some r => s.finish 0x0100 r (.no .lockedOut 0x0001)
    | none => s.autoRefused 0x06
  else
    let s := s.changeMode (s.lateTarget w) w.why
    let s := if w.why = .autostart then { s with sup.autoOpen := false } else s
    match w.req with
    | some r => s.finish 0x0100 r .done
    | none => s

/-- The first change of mode of R217 that applies at this boundary. -/
def State.modeStep (s : State) : State :=
  if s.bothLost ∧ (s.mode = .run ∨ s.mode = .degraded ∨ s.mode = .standby ∨ s.mode = .test) then s.enterRide
  else if s.mode = .ridethru ∧ !s.bothLost then s.leaveRide
  else if s.cv.degradeDue ∧ s.mode ≠ .ridethru then State.degrade { s with cv.degradeDue := false }
  else match s.sup.modeWait with
    | some w => if w.init ∨ s.mode = .ridethru then s else s.waitedMode w
    | none => s

/-- A unit that has fallen out of step returns to JOINING, before step 1 of R41 (R214, R361, R363). -/
def State.rejoinStep (s : State) : State := if s.col.rejoinDue then s.rejoin else s

/-- The injections of the old mode go (R479). -/
def State.injectionStep (s : State) : State :=
  if s.fi.clearDue then
    let any := s.fld Reg.FI_STAT_ANY_ARMED == 1
    let s := State.fiRemoveAll { s with fi.clearDue := false } 3
    if any then s.flag Reg.FI_EVT_CLEARED_BY_MODE true else s
  else s

/-! ### MARK, forces, probe -/

/-- A cyclic release is unfinished or a BOUNDARY commit is held. -/
def State.cyclicBusy (s : State) : Bool := (s.ce.tasks.toList.take 7).any (fun t => t.ready || t.held)

/-- The program is switched at this boundary: a quiet one with a switch pending, or the one that MARK names (R60, R362). -/
def State.switchHere (s : State) : Bool :=
  if s.colState = colSyncStandby then
    (match s.markHere with
     | some m => m.switch
     | none => false)
  else decide (s.mode = .run ∨ s.mode = .test) && s.fld Reg.CE_STAT_SW_PENDING == 1 && !s.cyclicBusy

/-- The force changes of this boundary (R84, R85): a standby takes its active's; when that leaves TEST, they go. -/
def State.forceStep (s : State) : State :=
  match s.colState == colSyncStandby, s.markHere with
  | true, some m =>
    let s := if m.mode ≠ 8 then { s with img.forces := [] } else s
    State.applyForces { s with img.forceWait := m.forces }
  | _, _ => s.applyForces

/-- The target lane of the probe of tick `k` (R179). -/
def probeTarget (k : Nat) : Lane := if k % 3 = 0 then .a else if k % 3 = 1 then .b else .c

/-- The number of a verdict in the record of a failed probe. DESIGN CHOICE: the rule gives the payload no coding
(notes/assumptions/44.md). -/
def Verdict.code : Verdict → Nat
  | .none => 0 | .agree => 1 | .minority l => 2 + l.code | .noMajority => 5

/-- The comparator probe of a tick with the verdicts of CV0 and CV1 (R179). DESIGN CHOICE: the bit that the pattern has
walked to is the tick mod 32 (notes/assumptions/44.md). -/
def State.probe (s : State) (v0 v1 : Verdict) : State :=
  let k := s.time.tick
  let want := Verdict.minority (probeTarget k)
  let s := ((s.setFld Reg.CV_PROBE_PATTERN_BIT (BitVec.ofNat 32 (k % 32))).setFld Reg.CV_PROBE_TARGET
    (BitVec.ofNat 32 (k % 3))).flag Reg.CV_PROBE_CV0_OK (decide (v0 = want))
  let s := s.flag Reg.CV_PROBE_CV1_OK (decide (v1 = want))
  if v0 = want ∧ v1 = want then s.bump Reg.CV_PROBE_CNT
  else (s.report .o .critical (evCode 2 179 0) (srcNo 2 0) [BitVec.ofNat 8 v0.code, BitVec.ofNat 8 v1.code]).enterSafe 0x03

/-! ### Registers and links at the boundary -/

/-- The pages whose RWS fields apply at a tick boundary (R258). -/
def tickPages : List Nat := [0x00, 0x02, 0x03, 0x10, 0x11, 0x12, 0x17, 0x18]

/-- What else happens at a tick boundary: staged fields apply, those of a port, CAN or serial channel that is idle
(notes/assumptions/45.md), idle points come, lines are dropped (R348), PPS-OUT shows the tick when so selected (R307), and a
silent MVB master is no longer seen (R311). -/
def State.boundaryLinks (s : State) : State :=
  let s := s.applyStaged (fun k => tickPages.contains (keyPage k))
  let s := s.applyStaged (fun k => keyPage k == 0x08)
  let s := (List.range 8).foldl (fun (s : State) i => if s.canBusy (i + 1) then s else s.canBoundary (i + 1)) s
  let s := (List.range 12).foldl (fun (s : State) i => if s.serBusy (i + 1) then s else s.applyStaged (serKey (i + 1))) s
  let s := (List.range 32).foldl (fun s n => s.ringIdle n) s
  let s := (List.range 63).foldl (fun s n => s.dropLine (n + 1)) s
  let s := s.deliverReleased
  let s := if s.fld Reg.ENC_CTRL_PPS_OUT_SEL = 1 ∧ ¬ s.follows then s.transmit linkPpsOut ⟨[], true⟩ else s
  if 4000 < s.img.ageClock - s.bus.mvbSeen then s.flag Reg.MVB_STAT_MASTER_SEEN false else s

/-! ### The four steps of R41 -/

/-- Step 1: held BOUNDARY commits of tasks with a release point here (R44). -/
def State.commitHeld (s : State) : State :=
  (List.finRange 7).foldl (fun (s : State) n =>
    let w : Who := ⟨n.val, by omega⟩
    if (s.ce.task w).held ∧ s.releasePoint n.val s.time.tick ∧ s.commitsNow then
      (s.modTask w (fun t => { t with held := false })).commitOut s.program n.val
    else s) s

/-- Step 2: overruns (R54, R55). -/
def State.countOverrun (s : State) (w : Who) : State :=
  let n := w.val
  let s := ((s.bump (Reg.CE_OVRCNT n)).bump (Reg.CE_SKIPCNT n)).setBit Reg.CE_EVT_OVR n
  let s := s.report .d .warn (evCode 3 54 0) (srcNo 3 n) [BitVec.ofNat 8 n]
  s.modTask w (fun t => { t with overruns := t.overruns + 1 })

/-- The tasks with a release point at this tick. -/
def State.due (s : State) (w : Who) : Bool := s.taskOn w.val && s.releasePoint w.val s.time.tick

/-- Steps 2 and 3 (R41, R54, R55, R79): every due task is found late, or released and latched, in priority order. -/
def State.releaseTasks (s : State) : State :=
  let ws : List Who := (List.finRange 7).map (fun n => ⟨n.val, by omega⟩)
  let late := ws.filter (fun w => s.due w && (s.ce.task w).ready)
  let fresh := ws.filter (fun w => s.due w && !(s.ce.task w).ready)
  let s := late.foldl (fun (s : State) w => s.countOverrun w) s
  fresh.foldl (fun (s : State) w =>
    let s := (s.latch s.program w.val).bump (Reg.CE_RELCNT w.val)
    let e := (s.program.task w.val).entry
    s.modTask w (fun t => { t with ctx := Ctx.start e, ready := true, waiting := none, clocks := 0, overruns := 0 })) s

/-- Steps 1 to 4 of R41, or the start of a program switch in their place. -/
def State.cycleStep (s : State) (switch : Bool) : State :=
  if !s.cycleRuns then
    -- the initialisation routine counts its ticks (R126)
    if (s.ce.task 8).ready then { s with ce.initTicks := s.ce.initTicks + 1 } else s
  else
    let s := if s.colState = colSyncStandby ∧ s.col.markMode = 0xA then s.dropHeld else s
    if switch then
      let s := s.drainAll
      { s with ce.switchNow := true, ce.cur := none }.ceIdle
    else s.commitHeld.releaseTasks.dispatch

/-- A tick boundary with the verdicts of CV0 and CV1 on the probe. -/
def State.boundary (s : State) (cv0 cv1 : Verdict) : State :=
  let s := s.advance.joinComplete
  let s := s.turnDigest s.time.tick
  let s := if s.digestDiffers then s.digestMismatch else s
  let s := s.modeStep.rejoinStep.injectionStep
  let switch := s.switchHere
  let s := (s.sendMark s.time.tick switch).forceStep
  let s := State.probe { s with col.mark := none } cv0 cv1
  let s := s.boundaryLinks.cycleStep switch
  ((s.pdPublish s.time.tick).supervisePub s.time.tick).sendDeferred

end Sys2Proof.Machine
end

