-- ==== Sys2Proof/Machine/Cmd.lean ====
section
/-! DEFINITION. The acceptance of command packets: checks, sessions, duplicates, forwarding, dangerous commands
(spec/09_command_interface.md R236 to R248). -/
namespace Sys2Proof.Machine

/-! ### What the opcode table asks (R249) -/

/-- The roles of an opcode: no session needed, any session, or these. -/
inductive Roles where
  | none
  | any
  | of (rs : List Role)
  deriving DecidableEq, Repr

/-- One row of the opcode table. `len` gives the DETAIL of BAD_LENGTH for a payload length that is not right. -/
structure CmdSpec where
  op : Nat
  roles : Roles
  len : Nat → Option Nat
  modes : Mode → Bool
  long : Bool

/-- A payload of exactly `n` bytes; a payload of varying length between `a` and `b`. -/
def fixedLen (n : Nat) : Nat → Option Nat := fun k => if k = n then none else some n
def lenBetween (a b : Nat) : Nat → Option Nat := fun k => if a ≤ k ∧ k ≤ b then none else some 0xFFFE

/-- Roles O, M, I and combinations. -/
def rMI : Roles := .of [.maintainer, .integrator]
def rOMI : Roles := .of [.operator, .maintainer, .integrator]
def rI : Roles := .of [.integrator]

/-- Every mode but SELFTEST; RECOVERY serves only some opcodes (R249, R449). -/
def allModes : Mode → Bool := fun m => decide (m ≠ .selftest ∧ m ≠ .recovery)
def romModes : Mode → Bool := fun m => decide (m ≠ .selftest)
def modesOf (ms : List Mode) : Mode → Bool := fun m => decide (m ∈ ms)

/-! ### Keys and sessions (R241 to R245) -/

/-- The number of a role in SESS_OPEN and RESYNC. -/
def Role.code : Role → Nat
  | .operator => 0 | .maintainer => 1 | .integrator => 2 | .metrologist => 3

/-- The role of transport 0 (R252). -/
def State.programRole (s : State) : Role := if s.cfg blkModule 0x05 1 = 1 then .maintainer else .operator

/-- CMD_STAT follows the sessions. -/
def State.cmdStat (s : State) : State :=
  (s.setFld Reg.CMD_STAT_SESSIONS (BitVec.ofNat 32 s.cmd.desk.sessions.length)).flag Reg.CMD_STAT_ARMED
    (s.cmd.desk.sessions.any (fun x => x.armed.isSome))

/-- UPDATE is left without activating (R448). -/
def State.leaveUpdate (s : State) : State :=
  let s := { s with sup.update := none }
  let s := if s.sup.fwStore = .erased ∧ !s.sup.fwInvalid then
      State.report { s with sup.fwInvalid := true } .o .critical 0x0506 (srcNo 5 0) []
    else s
  if s.mode = .update then s.changeMode .stopped .update else s

/-- A session ends (R241): with it the edit or the update that it owns. -/
def State.endSession (s : State) (trig : Bool) (num : Nat) : State :=
  let drop := fun (d : Desk) => { d with sessions := d.sessions.filter (fun x => x.num != num) }
  if trig then
    let s := { s with trig.desk := drop s.trig.desk }
    if s.trig.update.any (fun u => u.owner.toNat == num) then { s with trig.update := none } else s
  else
    let s := State.cmdStat { s with cmd.desk := drop s.cmd.desk }
    let s := if s.cmd.edit.any (fun e => e.owner.toNat == num) then
        (if s.mode = .config then s.changeMode .stopped .config else s.dropEdit) else s
    if s.sup.update.any (fun u => u.owner.toNat == num) then s.leaveUpdate else s

/-! ### The gate: steps 6 and 7 of R238 -/

/-- What the gate says: the request has been dealt with, or it goes on with its role and with what was armed. -/
inductive Gate where
  | stop (s : State)
  | pass (s : State) (role : Option Role) (armed : Option Armed)

/-- A refusal at the gate. -/
def State.deny (s : State) (op : Nat) (r : Req) (detail : Nat) : Gate := .stop (s.refuse op r (.no .authFail detail))

/-- A pending operation of the same session or transport holds this TAG (R246). -/
def State.tagPending (s : State) (r : Req) : Bool :=
  let same := fun (q : Req) => q.tag == r.tag && q.session == r.session && q.transport == r.transport && q.target == r.target
  s.cmd.longOp.any (fun l => same l.req) || s.sup.modeWait.any (fun w => w.req.any same)

/-- The rules of tags (R246, R247). A duplicate gets the kept reply, on its own transport and to its own source; `other` is what
any other request does that goes no further. -/
def State.tagGate (s : State) (op : Nat) (r : Req) (kept : Option Kept) (last : Option (BitVec 16)) (other : State → State)
    (go : State → Gate) : Gate :=
  if s.tagPending r then .stop ((other s).refuse op r (.no .busy 0xFFFE))
  else
    let same := kept.filter (fun k => k.tag == r.tag)
    match same with
    | some k =>
      if k.opcode = op ∧ k.crc = r.crc op then
        let rep := { k.reply with transport := r.transport, source := r.source }
        .stop (((if r.atTrig then s else s.bump Reg.CMD_DUP_CNT).send rep).answered op r)
      else .stop ((other s).refuse op r (.no .badOpcode 0xFFFD))
    | none =>
      match last with
      | some l =>
        let d := (r.tag - l).toNat
        if 1 ≤ d ∧ d ≤ 32767 then go s else (other s).deny op r 0x0003
      | none => go s

/-- The opcodes that SESSION 0 may send (R245, R426). -/
def openOps (trig : Bool) : List Nat := if trig then [0x0020, 0x0B00, 0x0B04] else [0x0000, 0x0001, 0x0020]

/-- SESS_OPEN at the gate (R242 to R244): its code is under the key of the role it asks for; `go` is what comes after it. -/
def State.openGate (s : State) (r : Req) (go : Gate) : Gate :=
  let op := 0x0020
  let d := s.desk r
  let refuse := fun (n : Nat) => s.deny op r n
  if (d.transport r.transport).lockedAt.isSome then refuse 0x0006
  else match roleOf (r.nat 0 1) with
    | none => refuse 0x0004
    | some role =>
      if (r.atTrig ∧ (role = .maintainer ∨ role = .integrator)) ∨ (!r.atTrig ∧ role = .metrologist) then refuse 0x0004
      else match s.openKey r with
        | none => refuse 0x0005
        | some k =>
          if !r.auth then refuse 0x0005
          else if r.mac ≠ authCode k (r.signed op) then refuse 0x0002
          else go

/-- Step 7 (R238): session, code and tag. A SESS_OPEN is under the key of its role whatever session it names, and any other
request of a session clears what the session has armed, also where its TAG ends it (R248); a duplicate is no other request
(notes/assumptions/41.md). -/
def State.gate (s : State) (op : Nat) (r : Req) : Gate :=
  let d := s.desk r
  let count := fun (s : State) => if r.atTrig then s else s.bump Reg.CMD_RXCNT
  if r.session = 0 then
    let kept := (d.transport r.transport).kept
    if r.transport = 0 ∧ !r.atTrig then
      if r.auth ∨ op = 0x0020 then s.deny op r 0x0005
      else s.tagGate op r kept none id (fun s => .pass (count s) (some s.programRole) none)
    else if !(openOps r.atTrig).contains op then s.deny op r 0x0005
    else if op = 0x0020 then
      s.openGate r (s.tagGate op r kept none id (fun s => .pass (count s) none none))
    else if r.auth then s.deny op r 0x0002
    else s.tagGate op r kept none id (fun s => .pass (count s) none none)
  else match d.session r.session with
    | none => s.deny op r 0x0001
    | some x =>
      if x.transport ≠ r.transport then s.deny op r 0x0001
      else if !r.auth then s.deny op r 0x0005
      else
        let used := fun (t : Nat) (s : State) =>
          let s := s.setDesk r (d.modSession x.num (fun y => { y with lastUsed := t, armed := none }))
          if r.atTrig then s else s.cmdStat
        let tags := s.tagGate op r x.kept (some x.lastTag) (used x.lastUsed)
          (fun s => .pass (count (used s.opNs s)) (some x.role) x.armed)
        if op = 0x0020 then s.openGate r tags
        else if r.mac ≠ authCode x.key (r.signed op) then s.deny op r 0x0002
        else tags

/-! ### Forwarding (R237) -/

/-- The bytes of a request packet (R232). -/
def Req.packet (r : Req) (op : Nat) : List Byte := r.signed op ++ r.mac

/-- A target is forwarded to, local or reserved. -/
def targetKnown (t : Byte) : Bool := t == 0 || t == 1 || (0x40 ≤ t.toNat && t.toNat ≤ 0x7F) || t == 0xFF

/-- The bytes of a packet for another target go on unchanged, or TARGET_LOST is answered here. -/
def State.forwardBytes (s : State) (op : Nat) (r : Req) (b : List Byte) : State :=
  let t := r.target.toNat
  let lost := fun (d : Nat) => s.send (mkReply r op r.session [] false (Answer.no .targetLost d).payload)
  let kept : State := { s with cmd.forwarded := s.cmd.forwarded ++ [(op, r)] }
  if t = 1 then kept.toTrig 0x03 b
  else if 0x40 ≤ t ∧ t ≤ 0x7F then (if s.reach (t - 0x40) then kept.sendMsg (t - 0x40) b else lost (t - 0x40))
  else if s.col.partner.isSome ∧ s.colUp then kept.colSend 0x09 b
  else lost 0x00FF

/-- A request for another target goes on. -/
def State.forwardPacket (s : State) (op : Nat) (r : Req) : State := s.forwardBytes op r (r.packet op)

/-! ### The way of a packet to the supervisor (R31, R236, R239) -/

/-- A packet is not received: its transport is not served, or takes forwarded packets only (R236). -/
def State.deaf (s : State) (transport : Nat) (forwarded : Bool) : Bool :=
  !s.served transport || ((transport == 4 || transport == 5) && !forwarded)

/-- The link that carries a packet of a transport (R480). -/
def carrierOf (transport source : Nat) : Option Nat :=
  match transport with
  | 1 => some (ethLink 11)
  | 2 => some (sourceLink source % 8)
  | 3 => some (sourceLink source % 8)
  | 6 => some linkConsole
  | _ => none
def Req.carrier (r : Req) : Option Nat := carrierOf r.transport r.source

/-- The frame that carries a packet (R236): a COBS frame, or a datagram of its sender to the unit. -/
def State.carrying (s : State) (transport source : Nat) (b : List Byte) : LinkFrame :=
  let ip := sourceIp source
  let udp := fun (port : Nat) (data : List Byte) =>
    beBytes 6 s.unitMac ++ (udpFrame (macOf ip) ip s.unitIp 64 (sourcePort source) port data).drop 6
  ⟨match transport with
    | 6 => cobs b
    | 3 => udp mdPort (mdPdu 0x4D72 20548 (sourceSession source) b)
    | _ => udp cmdPort b, true⟩

/-- What becomes of a packet: it is here, it is not, or 16 requests of its transport were waiting before it (R239). -/
inductive Coming where
  | here | gone | full
  deriving DecidableEq, Repr

/-- A packet that waits is this one. -/
def Waiting.is (w : Waiting) (transport source : Nat) (b : List Byte) : Bool :=
  w.transport == transport && w.bytes == b && (w.source == source || transport == 0 || transport == 6)

/-- A packet comes in (R31, R239): one that waits is taken; else its frame passes the injector of its link, and is here where it
comes through as it was, at once. Other frames that come through reach their subsystem. -/
def State.arrival (s : State) (transport source : Nat) (forwarded : Bool) (b : List Byte) : State × Coming :=
  if forwarded then (s, .here)
  else match s.cmd.arrived.find? (fun w => w.is transport source b) with
    | some w => ({ s with cmd.arrived := s.cmd.arrived.erase w }, if w.late then .full else .here)
    | none =>
      let l := (carrierOf transport source).getD linkCount
      let room := if 16 ≤ s.cmd.arrived.countP (fun w => w.transport == transport) then Coming.full else .here
      if !s.fiActs l true then (s, room)
      else
        let f := s.carrying transport source b
        let q := s.fiPass l true f
        ((q.2.filter (fun g => g != f)).foldl (fun (s : State) g => s.deliverOne l g) q.1, if q.2.contains f then room else .gone)

/-- A request that comes in meets `h`; one too many of its transport is refused (R239). -/
def State.withPacket (s : State) (op : Nat) (r : Req) (h : State → State) : State :=
  if s.deaf r.transport r.forwarded then s
  else
    let a := s.arrival r.transport r.source r.forwarded (r.packet op)
    match a.2 with
    | .here => h a.1
    | .gone => a.1
    | .full => a.1.refuse op r (.no .busy 0xFFFC)

/-! ### Steps 8 to 12, and the command (R238) -/

/-- The role may send the command. -/
def Roles.allow (x : Roles) (role : Option Role) : Bool :=
  match x with
  | Roles.none => true
  | Roles.any => role.isSome
  | Roles.of rs => match role with
    | some r => rs.contains r
    | Option.none => false

/-- Steps 9 to 12 on a request that has passed the gate. -/
def State.checked (s : State) (c : CmdSpec) (r : Req) (role : Option Role) (act : State → State) : State :=
  if !c.roles.allow role then s.finish c.op r (.no .authFail 0x0004)
  else match c.len r.payload.length with
    | some d => s.finish c.op r (.no .badLength d)
    | none =>
      if !c.modes s.mode then s.finish c.op r (.no .notInMode s.mode.code)
      else match c.long, s.cmd.longOp with
        | true, some l => s.finish c.op r (.no .busy l.opcode)
        | _, _ => act s

/-- A request for another target leaves at step 6 (R237). -/
def State.sendAway (s : State) (op : Nat) (r : Req) : State :=
  if !targetKnown r.target then s.refuse op r (.no .badOpcode 0xFF03)
  else if s.mode = .selftest ∨ s.mode = .recovery then s.refuse op r (.no .notInMode s.mode.code)
  else s.forwardPacket op r

/-- A request for the supervisor: its LENGTH (step 3), and step 6 on. -/
def State.serveWith (s : State) (c : CmdSpec) (r : Req) (act : Option Role → Option Armed → State → State) : State :=
  s.withPacket c.op r (fun s =>
    if 4064 < r.payload.length then s.refuse c.op r (.no .badLength 0xFFFF)
    else if !r.forwarded ∧ r.target ≠ 0 then s.sendAway c.op r
    else match s.gate c.op r with
      | .stop s => s
      | .pass s role armed => s.checked c r role (act role armed))

/-- A command that answers by itself. -/
def State.serve (s : State) (c : CmdSpec) (r : Req) (act : State → State) : State :=
  s.serveWith c r (fun _ _ s => act s)

/-- A command that only computes an answer. -/
def State.serveAnswer (s : State) (c : CmdSpec) (r : Req) (act : State → State × Answer) : State :=
  s.serve c r (fun s => let q := act s; q.1.finish c.op r q.2)

/-! ### Dangerous commands (R248) -/

/-- What a session has armed. -/
def State.arm (s : State) (r : Req) (a : Armed) : State :=
  let s := s.setDesk r ((s.desk r).modSession r.session.toNat (fun y => { y with armed := some a }))
  if r.atTrig then s else s.cmdStat

/-- The two steps of a dangerous command: `chk` makes its own checks, `go` executes it. The one parameter of such a command is the
LANE of LANE_RESTORE; the bytes behind it are reserved, and their value is ignored (R9). -/
def State.twoSteps (s : State) (op : Nat) (r : Req) (armed : Option Armed) (chk : State → Option Answer × State)
    (go : State → State) : State :=
  let params := (r.payload.drop 4).take 1
  if r.session = 0 then s.finish op r (.no .authFail 0x0005)
  else if r.nat 0 2 = 0 ∧ r.nat 2 2 = 0 then
    let q := chk s
    match q.1 with
    | some a => q.2.finish op r a
    | none =>
      let n := (Config.random q.2.free).toNat % 0xFFFF + 1
      let s : State := { q.2 with free := q.2.free + 1 }
      (s.arm r ⟨op, params, n, s.opNs⟩).finish op r ⟨.ok, n, 0, []⟩
  else
    let hit := armed.any (fun a => a.opcode == op && a.params == params && decide (r.nat 0 2 = 1) &&
      decide (r.nat 2 2 = a.nonce ^^^ 0xFFFF) && decide (s.opNs ≤ a.at_ + 10000000000))
    if !hit then s.finish op r (.no .authFail 0x0007)
    else
      let q := chk s
      match q.1 with
      | some a => q.2.finish op r a
      | none => go q.2

/-! ### Long operations (R239) -/

/-- A long operation begins; it ends by an event of its own, or in the background with the answer it already has. -/
def State.beginLong (s : State) (op : Nat) (r : Req) (background : Bool) (a : Answer) : State :=
  { s with cmd.longOp := some ⟨op, r, a.status.code, a.detail, a.ext, a.data, background⟩ }.flag Reg.CMD_STAT_LONG_OP true

/-- A command supersedes the auto-start (R505). -/
def State.supersede (s : State) : State :=
  if s.sup.autoOpen then
    let s := match s.sup.modeWait with
      | some (w : ModeWait) => if w.why = Trigger.autostart then { s.stopInit with sup.modeWait := none } else s
      | none => s
    s.autoRefused 0x09
  else s

end Sys2Proof.Machine
end

