-- ==== Sys2Proof/Machine/Safe.lean ====
section
/-! DEFINITION. The Safety Function Unit's operations (spec/16_safety_functions.md). -/
namespace Sys2Proof.Machine

/-! ### The safety parameter block as the unit uses it (R394) -/

/-- `n` bytes of the block. -/
def State.sfp (s : State) (off n : Nat) : Nat := leNat ((List.range n).map (fun i => sgetD 0 s.sf.block (off + i)))

/-- Safe input entries, i = 1 to 16. -/
def State.siA (s : State) (i : Nat) : Nat := s.sfp (0x8 + 12 * (i - 1)) 1
def State.siB (s : State) (i : Nat) : Nat := s.sfp (0x8 + 12 * (i - 1) + 1) 1
def State.siKind (s : State) (i : Nat) : Nat := s.sfp (0x8 + 12 * (i - 1) + 2) 1
def State.siDisc (s : State) (i : Nat) : Nat := s.sfp (0x8 + 12 * (i - 1) + 4) 2
def State.siSignal (s : State) (i : Nat) : Nat := s.sfp (0x8 + 12 * (i - 1) + 8) 4

/-- Safe output entries, k = 1 to 8. -/
def State.soA (s : State) (k : Nat) : Nat := s.sfp (0xC8 + 4 * (k - 1)) 1
def State.soB (s : State) (k : Nat) : Nat := s.sfp (0xC8 + 4 * (k - 1) + 1) 1
def State.soTest (s : State) (k : Nat) : Nat := s.sfp (0xC8 + 4 * (k - 1) + 2) 1

/-- A field of an SS1 instance entry, i = 1 to 4. -/
def State.ss (s : State) (i off n : Nat) : Nat := s.sfp (0xE8 + 64 * (i - 1) + off) n

/-- The instance is used. -/
def State.ssUsed (s : State) (i : Nat) : Bool := s.ss i 0x00 1 != 0

/-- The output pair of an instance, and the instance that owns a pair. -/
def State.ssOut (s : State) (i : Nat) : Nat := s.ss i 0x04 1
def State.soOwner (s : State) (k : Nat) : Option Nat := [1, 2, 3, 4].find? (fun i => s.ssUsed i && s.ssOut i == k)

/-- The unit is confirmed (R403). -/
def State.confirmed (s : State) : Bool := s.sf.confirmed.isSome

/-- The runtime state of the objects. -/
def State.si (s : State) (i : Nat) : SiRt := sgetD SiRt.zero s.sf.si i
def State.so (s : State) (k : Nat) : SoRt := sgetD SoRt.zero s.sf.so k
def State.inst (s : State) (i : Nat) : InstRt := sgetD InstRt.zero s.sf.inst i
def State.setSi (s : State) (i : Nat) (x : SiRt) : State := { s with sf.si := ssetD SiRt.zero s.sf.si i x }
def State.setSo (s : State) (k : Nat) (x : SoRt) : State := { s with sf.so := ssetD SoRt.zero s.sf.so k x }
def State.setInst (s : State) (i : Nat) (x : InstRt) : State := { s with sf.inst := ssetD InstRt.zero s.sf.inst i x }

/-! ### Instance states (R401) -/

/-- SF_STATE.STATE. -/
def stUnconfigured : Nat := 0
def stUnconfirmed : Nat := 1
def stLocked : Nat := 2
def stRunning : Nat := 3
def stStopping : Nat := 4

def State.ssState (s : State) (i : Nat) : Nat := (s.fld (Reg.SF_STATE_STATE i)).toNat

/-- The pair of an instance is to be on: RUNNING, and STOPPING until the STO that ends it (R399, R401,
notes/assumptions/12.md). -/
def ssDrives (st : Nat) : Bool := st == stRunning || st == stStopping

/-- Put an instance into a state; SF_STAT follows. -/
def State.setSs (s : State) (i st : Nat) : State :=
  let s := s.setFld (Reg.SF_STATE_STATE i) (BitVec.ofNat 32 st)
  (s.putBit Reg.SF_STAT_LOCKED (i - 1) (st == stLocked)).putBit Reg.SF_STAT_STOPPING (i - 1) (st == stStopping)

/-- The causes of a lock-out (SF_STATE.CAUSE). -/
inductive LockCause where
  | stopDone | timeMax | ramp | speedFault | outputFault | evaluator | mode
  deriving DecidableEq, Repr

def LockCause.code : LockCause → Nat
  | .stopDone => 1 | .timeMax => 2 | .ramp => 3 | .speedFault => 4 | .outputFault => 5 | .evaluator => 6 | .mode => 7

/-- The order in which causes that hold at one scan are taken (R401), by their codes. -/
def causeRank : Nat → Nat
  | 6 => 0 | 5 => 1 | 4 => 2 | 3 => 3 | 1 => 4 | 2 => 5 | 7 => 6 | _ => 7

/-- Switch both channels of a pair off. -/
def State.soOff (s : State) (k : Nat) : State :=
  if k = 0 ∨ s.soA k = 0 then s
  else
    let x := s.so k
    let s := s.setSo k { x with on := false, test := none, lowA := 0, lowB := 0 }
    (s.drive (s.soA k) false).drive (s.soB k) false

/-- SF_STATE.STO: both channels of the pair are off. -/
def State.stoBit (s : State) (i : Nat) : State :=
  let k := s.ssOut i
  s.flag (Reg.SF_STATE_STO i)
    (k == 0 || (s.fld (Reg.FCH_STAT_DRIVE (s.soA k)) == 0 && s.fld (Reg.FCH_STAT_DRIVE (s.soB k)) == 0))

/-- STO of an instance that is not yet LOCKED (R401): pair off, LOCKED, number, count and record. -/
def State.lockOut (s : State) (i : Nat) (c : LockCause) : State :=
  let s := (s.soOff (s.ssOut i)).setSs i stLocked
  let s := s.setFld (Reg.SF_STATE_CAUSE i) (BitVec.ofNat 32 c.code)
  let n := BitVec.ofNat 32 ((s.fld (Reg.SF_LOCKSEQ i)).toNat + 1)
  let s := State.setFld { s with sf.lockSeq := s.sf.lockSeq.setIfInBounds (i - 1) n.toNat } (Reg.SF_LOCKSEQ i) n
  let s := s.bump Reg.SF_LOCKCNT
  let sev := match c with | .stopDone | .mode => Severity.warn | _ => Severity.fault
  (s.report .o sev (evCode 12 401 0) (srcNo 12 i) [BitVec.ofNat 8 i, BitVec.ofNat 8 c.code]).stoBit i

/-- An evaluator disagreement or an SO fault meets an instance: a lock-out, or an earlier cause for one that is LOCKED. -/
def State.faultLock (s : State) (i : Nat) (c : LockCause) : State :=
  if ssDrives (s.ssState i) then s.lockOut i c
  else if s.ssState i = stLocked then
    let s := s.soOff (s.ssOut i)
    if causeRank c.code < causeRank (s.fld (Reg.SF_STATE_CAUSE i)).toNat then
      s.setFld (Reg.SF_STATE_CAUSE i) (BitVec.ofNat 32 c.code)
    else s
  else s

/-! ### Safe inputs (R396 to R398) -/

/-- The two channels of a safe input after inversion. -/
def State.siLevels (s : State) (i : Nat) : Bool × Bool :=
  ((s.chan (s.siA i)).filt, (s.chan (s.siB i)).filt != (bitAt (s.siKind i) 0 == 1))

/-- A channel condition or a missing group under a safe input. -/
def State.siChanFault (s : State) (i : Nat) : Bool :=
  s.chanFault (s.siA i) || s.chanFault (s.siB i) || s.missing (groupOfChan (s.siA i)) ||
    s.missing (groupOfChan (s.siB i))

/-- A safe input gets a fault. -/
def State.siFault (s : State) (i : Nat) : State :=
  let s := (s.setSi i { s.si i with fault := true }).setBit Reg.SF_STAT_SI_FAULT (i - 1)
  (s.clrBit Reg.SF_SIVAL_VALUE (i - 1)).report .o .fault (evCode 12 398 0) (srcNo 12 i) [BitVec.ofNat 8 i]

/-- The safe value of an input. -/
def State.siValue (s : State) (i : Nat) : Bool := s.bit Reg.SF_SIVAL_VALUE (i - 1)

/-- One scan of a safe input. -/
def State.scanSi (s : State) (i : Nat) : State :=
  if s.siA i = 0 then s
  else
    let v := s.siLevels i
    let x := s.si i
    let differ := v.1 != v.2
    let count := if differ then some (match x.differ with | some n => n + 1 | none => 0) else none
    let s := if !differ ∧ x.differ.isSome ∧ !x.disc then s.bump Reg.SF_DISC_OK_CNT else s
    let s := s.setSi i { x with differ := count }
    let s := s.putBit Reg.SF_SIVAL_DISAGREE (i - 1) differ
    let bad := s.siChanFault i
    let s := if bad ∧ !x.fault then s.siFault i else s
    let s := if (s.si i).fault ∧ !bad ∧ !differ ∧ !v.1 ∧ !v.2 then
        (s.setSi i { s.si i with fault := false, disc := false }).clrBit Reg.SF_STAT_SI_FAULT (i - 1)
      else s
    s.putBit Reg.SF_SIVAL_VALUE (i - 1) (v.1 && v.2 && !(s.si i).fault)

/-! ### Speed (R400) -/

/-- The movement of an encoder over the window of an instance, none while it has too few samples. -/
def State.moved (s : State) (e w : Nat) : Option Nat :=
  let h := sgetD [] s.sf.hist e
  match h.head?, h[w]? with
  | some a, some b => some (a - b).toInt.natAbs
  | _, _ => none

/-- The two speeds of an instance. -/
def State.speeds (s : State) (i : Nat) : Option (Nat × Nat) :=
  let w := s.ss i 0x0C 2
  match s.moved (s.ss i 0x00 1) w, s.moved (s.ss i 0x01 1) w with
  | some a, some b => some (a * 10000 / w, b * 10000 * s.ss i 0x08 4 / (w * 65536))
  | _, _ => none

/-- One scan of an instance's speed: registers, the running discrepancy, and the speed fault. -/
def State.scanSpeed (s : State) (i : Nat) : State :=
  let sp := s.speeds i
  let v := match sp with | some p => max p.1 p.2 | none => 0
  let d := match sp with | some p => max p.1 p.2 - min p.1 p.2 | none => 0
  let x := s.inst i
  let apart := decide (s.ss i 0x10 4 < d)
  let differ := if apart then some (match x.differ with | some n => n + 1 | none => 0) else none
  let disc := x.disc && apart
  let fault := sp.isNone || s.encFault (s.ss i 0x00 1) || s.encFault (s.ss i 0x01 1) || disc
  let s := if fault ∧ !x.speedFault then s.flag Reg.SF_EVT_SPEED_FAULT true else s
  (s.setInst i { x with differ := differ, disc := disc, speedFault := fault }).setFld (Reg.SF_SPEED i)
    (BitVec.ofNat 32 (min v 0xFFFFFFFF))

/-! ### Safe outputs (R399, R405) -/

/-- A channel of a pair reads below 2 V. -/
def State.below2 (s : State) (n : Nat) : Bool := decide ((s.chan n).mv < 2000)

/-- A reported condition on either channel of a pair (R399). -/
def State.soCond (s : State) (k : Nat) : Bool :=
  [s.soA k, s.soB k].any (fun n => s.has n .overload || s.has n .thermal || s.has n .groupOverload || s.has n .ext)

/-- A group of either channel is missing. -/
def State.soMissing (s : State) (k : Nat) : Bool :=
  s.missing (groupOfChan (s.soA k)) || s.missing (groupOfChan (s.soB k))

/-- A condition of the table of R399 holds for a pair. -/
def State.soBad (s : State) (k : Nat) : Bool :=
  let x := s.so k
  s.soA k != 0 &&
  (decide (10 ≤ x.lowA) || decide (10 ≤ x.lowB) ||
   (decide (200 ≤ x.offA) && !s.below2 (s.soA k) && s.fld (Reg.FCH_STAT_DRIVE (s.soA k)) == 0 && x.test.isNone) ||
   (decide (200 ≤ x.offB) && !s.below2 (s.soB k) && s.fld (Reg.FCH_STAT_DRIVE (s.soB k)) == 0 && x.test.isNone) ||
   s.soCond k || s.soMissing k || x.testFailed)

/-- An SO fault (R399): both channels off, the owning instance into lock-out. -/
def State.soFail (s : State) (k : Nat) : State :=
  let s := (s.setSo k { s.so k with fault := true }).soOff k
  let s := (s.flag Reg.SF_EVT_SO_FAULT true).report .o .fault (evCode 12 399 0) (srcNo 12 k) [BitVec.ofNat 8 k]
  match s.soOwner k with
  | some i => (s.faultLock i .outputFault).flag (Reg.SF_STATE_FAULT i) true
  | none => s

/-- The report of a condition, or the switch-off of a missing group, at channel `n` of a pair (R399). -/
def State.soReport (s : State) (n : Nat) : State :=
  match [1, 2, 3, 4, 5, 6, 7, 8].find? (fun k => s.soA k != 0 && (s.soA k == n || s.soB k == n)) with
  | some k => if (s.soCond k || s.soMissing k) && !(s.so k).fault then s.soFail k else s
  | none => s

/-- A scan of a pair's readbacks, its running test, and the end of a persisting fault (R399, R405). -/
def State.scanSo (s : State) (k : Nat) : State :=
  if s.soA k = 0 then s
  else
    let a := s.soA k
    let b := s.soB k
    let x := s.so k
    let onA := s.fld (Reg.FCH_STAT_DRIVE a) == 1
    let onB := s.fld (Reg.FCH_STAT_DRIVE b) == 1
    let low := fun (on : Bool) (n c : Nat) => if on ∧ !(s.chan n).back then min 255 (c + 1) else 0
    let off := fun (on : Bool) (c : Nat) => if on then 0 else min 255 (c + 1)
    let x := { x with lowA := low onA a x.lowA, lowB := low onB b x.lowB, offA := off onA x.offA, offB := off onB x.offB }
    let r : SoRt × Bool := match x.test with
      | none => (x, false)
      | some (cb, n) =>
        let hit := x.testLow || s.below2 (if cb then b else a)
        if n < 4 then ({ x with test := some (cb, n + 1), testLow := hit }, false)
        else ({ x with test := none, testLow := false, testFailed := x.testFailed || !hit }, hit)
    let s := (if r.2 then s.bump Reg.SF_SOTEST_CNT else s).setSo k r.1
    let x := s.so k
    let gone := !x.on && !onA && !onB && s.below2 a && s.below2 b && !s.soCond k && !s.chanFault a && !s.chanFault b &&
      !s.soMissing k
    if x.fault ∧ gone then s.setSo k { x with fault := false, testFailed := false } else s

/-- Drive a pair: on where its instance drives it (R399); `before` is the instance's state at the start of the scan, since
a pair switches on at the scan after a reset (R405). -/
def State.driveSo (s : State) (k : Nat) (before : Nat → Nat) : State :=
  if s.soA k = 0 then s
  else
    let on := match s.soOwner k with
      | some i => ssDrives (s.ssState i) && ssDrives (before i) && !(s.so k).fault
      | none => false
    if !on then ((s.soOff k).unlatch (s.soA k)).unlatch (s.soB k)
    else
      let s := s.setSo k { s.so k with on := true }
      let t := (s.so k).test
      let offA := decide (t.map (·.1) = some false)
      let offB := decide (t.map (·.1) = some true)
      (s.drive (s.soA k) (!offA && !s.latched (s.soA k))).drive (s.soB k) (!offB && !s.latched (s.soB k))

/-! ### SS1 at a scan (R401, R405, R406) -/

/-- A demand is present. -/
def State.demand (s : State) (i : Nat) : Bool :=
  let m := s.ss i 0x02 2
  (List.range 16).any (fun j => bitAt m j == 1 && !s.siValue (j + 1)) || s.bit Reg.SF_STOPREQ_REQ (i - 1)

/-- The mode lets safe outputs be on (R213, R408). -/
def State.sdoMode (s : State) : Bool := s.drives

/-- A fault condition of R405 is present. -/
def State.ssFault (s : State) (i : Nat) : Bool :=
  let k := s.ssOut i
  (s.inst i).speedFault || (s.so k).fault || s.soMissing k || s.fld Reg.SF_STAT_EVAL_MIS == 1

/-- The conditions of R405. -/
def State.resetOk (s : State) (i : Nat) : Bool :=
  s.confirmed && s.sdoMode && !s.demand i && !s.ssFault i

/-- A refused reset (R406). -/
def State.resetRefused (s : State) : State := (s.bump Reg.SF_RESETREF_CNT).flag Reg.SF_EVT_RESET_REFUSED true

/-- The envelope is crossed at scan `n` (R401, check 2). -/
def State.overRamp (s : State) (i v n : Nat) : Bool :=
  decide (((s.inst i).v0 + s.ss i 0x18 4 : Int) * 10000 - (s.ss i 0x14 4 : Int) * n < (v : Int) * 10000)

/-- The first cause that a running stop meets at a scan (R401); TIME_MAX alone comes with SS1_TIME_MAX. -/
def State.stopCause (s : State) (i n : Nat) : Option LockCause :=
  let v := (s.fld (Reg.SF_SPEED i)).toNat
  if (s.inst i).speedFault then some .speedFault
  else if s.overRamp i v n then some .ramp
  else if v < s.ss i 0x1C 4 then some .stopDone
  else if !s.sdoMode then some (if 10 * s.ss i 0x20 4 < n then .timeMax else .mode)
  else none

/-- The reset pair of an instance at a scan (R406). -/
def State.scanReset (s : State) (i : Nat) : State :=
  let r := s.ss i 0x05 1
  let x := s.inst i
  let s :=
    if r = 0 then s
    else if s.siValue r then s.setInst i { x with pressed := x.pressed + 1 }
    else
      let s := s.setInst i { x with pressed := 0, stuck := false }
      if 5000 ≤ x.pressed ∧ x.pressed ≤ 30000 ∧ !x.stuck then
        if s.ssState i = stStopping ∨ (s.ssState i ≠ stRunning ∧ !s.resetOk i) then s.resetRefused
        else if s.ssState i = stLocked then s.setSs i stRunning
        else s
      else s
  if s.ssState i = stLocked ∧ bitAt (s.sfp 4 1) 0 = 1 ∧ s.fld (Reg.SF_STATE_CAUSE i) = 7 ∧ s.resetOk i then
    s.setSs i stRunning
  else s

/-- One scan of an instance (R401). -/
def State.scanInst (s : State) (i : Nat) : State :=
  if !s.ssUsed i then s.setSs i stUnconfigured
  else
    let s := s.scanSpeed i
    let dem := s.demand i
    let s :=
      if !s.confirmed then (s.soOff (s.ssOut i)).setSs i stUnconfirmed
      else if s.ssState i = stUnconfirmed ∨ s.ssState i = stUnconfigured then s.lockOut i .mode
      else if s.ssState i = stRunning then
        if (s.inst i).speedFault then s.lockOut i .speedFault
        else if dem then
          let v := (s.fld (Reg.SF_SPEED i)).toNat
          let s := (s.setInst i { s.inst i with v0 := v }).setFld (Reg.SF_NSTOP i) 0
          let s := ((s.setSs i stStopping).bump Reg.SF_STOPCNT).flag Reg.SF_EVT_STOP_STARTED true
          if v < s.ss i 0x1C 4 then s.lockOut i .stopDone
          else if !s.sdoMode then s.lockOut i .mode
          else s
        else if !s.sdoMode then s.lockOut i .mode
        else s
      else if s.ssState i = stStopping then
        let n := (s.fld (Reg.SF_NSTOP i)).toNat + 1
        let s := s.setFld (Reg.SF_NSTOP i) (BitVec.ofNat 32 n)
        match s.stopCause i n with
        | some c => (if c = .ramp then s.flag Reg.SF_EVT_RAMP true else s).lockOut i c
        | none => s
      else s
    let s := s.scanReset i
    (s.flag (Reg.SF_STATE_DEMAND i) dem).flag (Reg.SF_STATE_FAULT i) (s.ssFault i)

/-- The unit's signals, all in one group (R395). -/
def State.safetySamples (s : State) : List Sample :=
  (List.range 16).flatMap (fun j =>
    let w := s.siSignal (j + 1)
    if s.siA (j + 1) ≠ 0 ∧ bitAt w 31 = 1 then [⟨bitsAt w 0 18, some (false, b2w (s.siValue (j + 1))), true, 1⟩] else []) ++
  [1, 2, 3, 4].flatMap (fun i =>
    let st := s.ss i 0x24 4
    let sp := s.ss i 0x28 4
    let r := regWord (fun k => s.fld k) 0x15 (0x80 + 0x10 * (i - 1)) (fieldsAt 0x15 (0x80 + 0x10 * (i - 1)))
    if !s.ssUsed i then []
    else
      (if bitAt st 31 = 1 then [(⟨bitsAt st 0 18, some (true, r &&& 0x7FF), true, 1⟩ : Sample)] else []) ++
      (if bitAt sp 31 = 1 then
         [⟨bitsAt sp 0 18, some (true, s.fld (Reg.SF_SPEED i)), true, if (s.inst i).speedFault then 3 else 1⟩] else []))

/-- The evaluators at a scan (R392). -/
def State.scanEval (s : State) (mis : Bool) : State :=
  let s' := s.flag Reg.SF_STAT_EVAL_MIS mis
  if !mis then s'
  else
    let s' := s'.flag Reg.SF_EVT_EVAL_MIS true
    let s' := if s.fld Reg.SF_STAT_EVAL_MIS = 1 then s'
      else s'.report .o .critical (evCode 12 392 0) (srcNo 12 0) []
    let s' := (List.range 8).foldl (fun s k => s.soOff (k + 1)) s'
    [1, 2, 3, 4].foldl (fun s i => s.faultLock i .evaluator) s'

/-- The Safety Function Unit at a field scan. -/
def State.scanSafety (s : State) (mis : Bool) : State :=
  let before := s.ssState
  let s := (List.range 16).foldl (fun s i => s.scanSi (i + 1)) s
  let s := (List.range 8).foldl (fun s k => s.scanSo (k + 1)) s
  let s := s.scanEval mis
  let s := [1, 2, 3, 4].foldl (fun s i => s.scanInst i) s
  let s := (List.range 8).foldl (fun s k => s.driveSo (k + 1) before) s
  let s := [1, 2, 3, 4].foldl (fun s i => s.stoBit i) s
  s.acquire .safety (.data s.safetySamples)

/-! ### The check over the block (R403, R404) -/

/-- The bytes of the stored block. -/
def State.sfStored (s : State) : List Byte := (List.range 488).map (fun i => confByte s.cmd.config 0x15 i)

/-- SF_CHECK: the check of the committed block. -/
def State.sfCheck (s : State) : Word := crc32c s.sfStored

/-- A pair as the channels in use show it: each channel as its partner names it, zero where a mode is not the pair's. -/
def State.pairInUse (s : State) (mode a b : Nat) : Nat × Nat :=
  let okA := s.chanMode a == mode
  let okB := s.chanMode b == mode
  let pa := (s.fld (Reg.FCH_CFG_PARTNER a)).toNat + 1
  let pb := (s.fld (Reg.FCH_CFG_PARTNER b)).toNat + 1
  (if okA then (if okB then pb else a) else 0, if okB then (if okA then pa else b) else 0)

/-- The block rebuilt from the settings in use (R404). -/
def State.sfRebuilt (s : State) : List Byte :=
  let base := (List.range 488).map (fun i => sgetD 0 s.sf.block i)
  let w := fun (n : Nat) => BitVec.ofNat 8 n
  let bs := (List.range 16).foldl (fun (bs : List Byte) j =>
    let i := j + 1
    if s.siA i = 0 then bs
    else
      let p := s.pairInUse 5 (s.siA i) (s.siB i)
      let fa := (s.fld (Reg.FCH_CFG_FILTER (s.siA i))).toNat
      let fb := (s.fld (Reg.FCH_CFG_FILTER (s.siB i))).toNat
      let f := if fa = s.sfp (0x8 + 12 * j + 3) 1 then fb else fa
      ((bs.set (0x8 + 12 * j) (w p.1)).set (0x8 + 12 * j + 1) (w p.2)).set (0x8 + 12 * j + 3) (w f)) base
  (List.range 8).foldl (fun (bs : List Byte) j =>
    if s.soA (j + 1) = 0 then bs
    else
      let p := s.pairInUse 6 (s.soA (j + 1)) (s.soB (j + 1))
      (bs.set (0xC8 + 4 * j) (w p.1)).set (0xC8 + 4 * j + 1) (w p.2)) bs

/-- The recomputed check; channel settings that wait for the next field scan count as in use (R376). -/
def State.sfRecomputed (s : State) : Word := crc32c (s.applyStaged (fun k => keyPage k == 0x13)).sfRebuilt

end Sys2Proof.Machine
end

