-- ==== Sys2Proof/Machine/Summary.lean ====
section
/-! DEFINITION. The identity and the RESYNC summary (spec/09_command_interface.md R256, R257). -/
namespace Sys2Proof.Machine

/-- A register's applied value as a number. -/
def State.regNat (s : State) (page off : Nat) : Nat := (s.regValue page off).toNat

/-- PART: ASCII "ZD-4864", zero-filled to 16 bytes. -/
def partName : List Byte := [0x5A, 0x44, 0x2D, 0x34, 0x38, 0x36, 0x34] ++ List.replicate 9 0

/-- PART to PAIR of the identity, 36 bytes (R256). -/
def State.identity (s : State) : List Byte :=
  partName ++ leBytes 4 (s.fld Reg.SYS_SERIAL_SERIAL).toNat ++ leBytes 1 (s.fld Reg.SYS_HWINFO_HW_ISSUE).toNat ++
    leBytes 1 (s.fld Reg.SYS_HWINFO_SLOT).toNat ++ [0, 0] ++ leBytes 4 (s.fld Reg.SYS_FWVER_VERSION).toNat ++
    leBytes 4 (s.fld Reg.SYS_TRIGVER_VERSION).toNat ++
    [BitVec.ofNat 8 s.mode.code, BitVec.ofNat 8 s.role, BitVec.ofNat 8 s.station, BitVec.ofNat 8 s.pairRole]

/-- The start-loop guard is tripped (R222). -/
def State.guardTripped (s : State) : Bool := decide (2 ≤ s.sup.startLoop)

/-- FAULT_FLAGS, by bit (R257). -/
def State.faultFlags (s : State) : List Bool :=
  let lane := fun (k n : Nat) => (s.fld k).toNat == n
  let lanes := [Reg.CV_STAT_LANE_A, Reg.CV_STAT_LANE_B, Reg.CV_STAT_LANE_C]
  [s.sup.programMargin, s.guardTripped, lanes.any (fun k => lane k 1), lanes.any (fun k => lane k 3 || lane k 4),
    s.sup.lastSafe.isSome, s.sup.resetStuck, s.cmd.edit.isSome, s.fld Reg.SYS_HWINFO_SLOT_MISMATCH == 1,
    !s.time.utcValid, s.fld Reg.FI_STAT_ANY_ARMED == 1, s.fld Reg.FI_STAT_PERMIT == 1, s.fld Reg.SF_STAT_LOCKED != 0,
    s.trig.fault, s.sup.fwInvalid]

/-- A list of bits as a number, bit 0 first. -/
def bitsNat : List Bool → Nat
  | [] => 0
  | b :: t => b2n b + 2 * bitsNat t

/-- An entry of PENDING: what is pending, its state, and a progress that the manual leaves open (a free value). -/
def State.pendingEntry (s : State) (op : Nat) (r : Req) (state : Nat) : State × List Byte :=
  let p := s.draw Config.progress 100
  (p.2, leBytes 2 op ++ leBytes 2 r.tag.toNat ++ [BitVec.ofNat 8 r.transport, r.session, BitVec.ofNat 8 state, BitVec.ofNat 8 p.1])

/-- A long operation waits for a tick boundary: a program switch or a swap of the pair. -/
def State.opWaits (s : State) (op : Nat) : Bool :=
  (op == 0x0303 && s.ce.switchSince.isSome) || (op == 0x0801 && s.col.swapAt.isSome)

/-- PENDING: the long operation, the mode change that waits, and the first requests that are still to be served. -/
def State.pendingBytes (s : State) : State × List Byte :=
  let a := match s.cmd.longOp with
    | some l => s.pendingEntry l.opcode l.req (if s.opWaits l.opcode then 3 else 2)
    | none => (s, List.replicate 8 0)
  let b := match s.sup.modeWait.bind (fun (w : ModeWait) => w.req.map (fun r => (r, w.init))) with
    | some (r, init) => a.1.pendingEntry 0x0100 r (if init then 2 else 3)
    | none => (a.1, List.replicate 8 0)
  let queued := s.cmd.arrived.flatMap (fun w => (w.bytes.drop 4).take 4 ++ [BitVec.ofNat 8 w.transport, w.bytes.getD 9 0, 1, 0])
  (b.1, a.2 ++ b.2 ++ (queued ++ List.replicate 16 0).take 16)

/-- TRANSPORTS: for each transport its last completed request. -/
def State.transportBytes (s : State) : List Byte :=
  s.cmd.desk.transports.toList.flatMap (fun x => match x.last with
    | some (tag, st, op, ses) => leBytes 2 tag.toNat ++ leBytes 2 st ++ leBytes 2 op ++ [ses, 1]
    | none => List.replicate 8 0)

/-- SESSIONS: eight entries. -/
def State.sessionBytes (s : State) : List Byte :=
  let one := fun (x : Session) => [BitVec.ofNat 8 x.num, BitVec.ofNat 8 x.role.code, BitVec.ofNat 8 x.transport, (0 : Byte)]
  ((s.cmd.desk.sessions.flatMap one) ++ List.replicate 32 0).take 32

/-- The entry of the requesting session is marked by bit 7 of its role byte; SESSIONS lies at 0x1E0. -/
def markSession (r : Req) (b : List Byte) : List Byte :=
  match (List.range 8).find? (fun i => decide (r.session ≠ 0) && b.getD (0x1DC + 4 * i) 0 == r.session) with
  | some i => b.set (0x1DD + 4 * i) (b.getD (0x1DD + 4 * i) 0 ||| 0x80)
  | none => b

/-- Program IDs: of the active program, and of the program verified in the inactive slot; 0 none. -/
def State.activeId (s : State) : Nat := match s.ce.active with | some p => p.id.toNat | none => 0
def State.inactiveId (s : State) : Nat :=
  let x := s.slot s.otherSlot
  if x.verified = .no then 0 else match x.image with | some p => p.id.toNat | none => 0

/-- The summary from SUM_VERSION on, up to PENDING. -/
def State.summaryHead (s : State) : List Byte :=
  leBytes 2 1 ++ [0, 0] ++ s.identity ++ leBytes 2 (s.regNat 0x01 0x004 % 0x800) ++ [0, 0] ++
  leBytes 4 (s.fld Reg.CV_DEGLEFT_SECONDS).toNat ++
  [BitVec.ofNat 8 (if s.ce.active.isSome then s.slotNo else 0xFF), 0, 0, 0] ++ leBytes 4 s.activeId ++
  leBytes 4 s.inactiveId ++ leBytes 4 s.cfgCheck.toNat ++ leBytes 4 s.sfRecomputed.toNat ++
  leBytes 4 (b2n s.confirmed + (s.fld Reg.SF_STAT_LOCKED).toNat * 16) ++ List.replicate 4 0 ++ leBytes 8 s.time.tick ++
  (List.range 7).flatMap (fun n => leBytes 4 (s.fld (Reg.CE_RELCNT n)).toNat ++ leBytes 4 (s.fld (Reg.CE_OVRCNT n)).toNat ++
    leBytes 4 (s.fld (Reg.CE_SKIPCNT n)).toNat) ++
  leBytes 4 (bitsNat ((List.range 7).map s.taskOn) + (s.fld Reg.CE_STAT_STOPPED).toNat % 128 * 256) ++
  (List.range 32).flatMap (fun n => leBytes 2 (s.ringHead n) ++ leBytes 2 (s.ringTail n)) ++
  leBytes 4 (bitsNat ((List.range 32).map s.ringHalted)) ++ List.replicate 12 0 ++
  leBytes 4 (s.fld Reg.LOG_SEQD).toNat ++ leBytes 4 (s.fld Reg.LOG_SEQO).toNat ++
  leBytes 4 (s.fld Reg.LOG_DROPCNT_D).toNat ++ leBytes 4 (s.fld Reg.LOG_DROPCNT_O).toNat ++ s.transportBytes

/-- The summary from FAULT_FLAGS on. -/
def State.summaryTail (s : State) : List Byte :=
  let safe := s.sup.lastSafe.getD (0, 0)
  leBytes 4 (bitsNat s.faultFlags) ++ [BitVec.ofNat 8 safe.1, BitVec.ofNat 8 s.sup.autoReason, 0, 0] ++ leBytes 8 safe.2 ++
  leBytes 4 (s.regNat 0x02 0x018) ++ leBytes 4 (s.regNat 0x04 0x014) ++
  [BitVec.ofNat 8 s.pwr.op, BitVec.ofNat 8 s.pwr.gop, BitVec.ofNat 8 (s.fld Reg.PWR_STAT_HOLDUP_PLAN).toNat,
    BitVec.ofNat 8 (s.regNat 0x18 0x004 % 4)] ++
  leBytes 2 s.img.forces.length ++ [0, 0] ++ leBytes 8 (if s.time.utcValid then s.time.utc else 0) ++
  leBytes 4 (s.fld Reg.SYS_OPSEC).toNat ++ leBytes 4 (s.fld Reg.SYS_PWRCYC).toNat ++ s.sessionBytes ++
  List.replicate 512 0

/-- The summary behind STATUS and DETAIL, of this state. -/
def State.summaryNow (s : State) : State × List Byte :=
  let p := s.pendingBytes
  (p.1, s.summaryHead ++ p.2 ++ s.summaryTail)

/-- The summary is taken at a tick boundary (R257). -/
def State.takeSummary (s : State) : State :=
  let q := s.summaryNow
  { q.1 with cmd.summary := some q.2 }

/-- What RESYNC replies (R257): the summary of the latest tick boundary; before the first of the start, that of now
(notes/assumptions/41.md). -/
def State.summary (s : State) (r : Req) : State × List Byte :=
  match s.cmd.summary with
  | some b => (s, markSession r b)
  | none => let q := s.summaryNow; (q.1, markSession r q.2)

end Sys2Proof.Machine
end

