-- ==== Sys2Proof/Machine/CycleRows.lean ====
section
/-! DEFINITION. Commands of the Cycle Engine, of lane re-admission and of the scrubbers: one meaning per row
(spec/02_cycle_model.md, spec/06_triad_and_voting.md, spec/07_protected_store.md). -/
namespace Sys2Proof.Machine

/-- TICK_BOUNDARY (R41, R179): `cv0` and `cv1` are what each comparator instance returned for the probe. There is no tick before
STOPPED (R219), in RECOVERY, or once the masters have stopped (R461). The supervisor takes the RESYNC summary (R257). -/
def execTickBoundary (cv0 cv1 : Verdict) (s : State) : Out := .next <|
  if s.mode = .selftest ∨ s.mode = .recovery ∨ s.fld Reg.PWR_STAT_STOPPING = 1 ∨ !s.boundaryReady then s
  else (s.boundary cv0 cv1).takeSummary

/-- STORE_BUFFER_WRITE (R112, R121). -/
def execStoreBufferWrite (s : State) : Out := .next s.storeFront.dispatch

/-- BUDGET_ABORT (R53): at the instruction boundary after the one that exceeded the claim. -/
def execBudgetAbort (s : State) : Out := .next <|
  match s.ce.cur with
  | none => s
  | some w =>
    if !s.overBudget w then s
    else
      let n := w.val
      let i := (s.ce.task w).ctx.pc
      let s := (s.killRelease w).trapInfo n 0xFF i
      let s := (s.bump (Reg.CE_BUDCNT n)).setBit Reg.CE_EVT_BUDGET n
      let s := s.report .o .fault (evCode 3 53 0) (srcNo 3 n) ([BitVec.ofNat 8 n] ++ leBytes 4 i)
      (s.applyPolicy n).dispatch

/-- OVERRUN_LIMIT (R55): the consecutive-overrun count of task `n` has reached its limit. -/
def execOverrunLimit (n : Fin 7) (s : State) : Out := .next <|
  let w : Who := ⟨n.val, by omega⟩
  if !s.overrunDue w then s
  else
    let s := s.report .o .fault (evCode 3 55 0) (srcNo 3 n.val) [BitVec.ofNat 8 n.val]
    let s := s.modTask w (fun t => { t with overruns := 0 })
    if s.policyOf n.val = 1 ∨ s.policyOf n.val = 2 then ((s.killRelease w).applyPolicy n.val).dispatch else s

/-- T7 is abandoned and starts again from its entry point in this tick (R61 step 6); stopped, it stays stopped. -/
def State.restartT7 (s : State) : State :=
  (s.killRelease 7).modTask 7 (fun t => { t with resumeAfter := s.time.tick - 1 })

/-- PROGRAM_SWITCH (R61): what the quiet boundary does in place of steps 1 to 4. -/
def execProgramSwitch (s : State) : Out := .next <|
  if !s.ce.switchNow then s
  else
    match (s.slot s.otherSlot).image with
    | none => { s with ce.switchNow := false }.dispatch
    | some p =>
      let s := (s.killRelease 7).drainAll
      let r := s.draw Config.carryClocks (carryCost p.carry)
      let s := (r.2.makeActive p).restartT7
      let s := (s.setFld Reg.CE_SWSTAT_CARRY_CLK (BitVec.ofNat 32 (min r.1 0xFFFF))).setFld Reg.CE_SWSTAT_STATE 3
      let s := (s.flag Reg.CE_STAT_SW_PENDING false).flag Reg.CE_EVT_SW_DONE true
      let s := { s with ce.switchNow := false, ce.switchSince := none, ce.switchTick := some s.time.tick }
      (s.releaseTasks.dispatch).answerLong 0x0303 .done

/-- SWITCH_TIMEOUT (R60): no quiet boundary within CE_SWTIMEOUT ticks. -/
def execSwitchTimeout (s : State) : Out := .next <|
  match s.ce.switchSince with
  | none => s
  | some t =>
    if s.time.tick < t + s.swTimeout ∨ s.ce.switchNow then s
    else
      let s := State.flag { s with ce.switchSince := none } Reg.CE_STAT_SW_PENDING false
      ((s.setFld Reg.CE_SWSTAT_STATE 4).flag Reg.CE_EVT_SW_TIMEOUT true).answerLong 0x0303 (.no .busy 0)

/-- T7_START (R95, R115): at the first idle moment after a tick boundary. -/
def execT7Start (s : State) : Out := .next <|
  let t := s.ce.task 7
  if s.cycleRuns ∧ s.fld Reg.PWR_STAT_STOPPING = 0 ∧ s.toRun = none ∧ !t.ready ∧ s.taskOn 7 ∧ !s.ce.switchNow ∧ t.resumeAfter < s.time.tick then
    (s.modTask 7 (fun t => { t with ctx := Ctx.start (s.program.task 7).entry, ready := true, waiting := none, clocks := 0 })).dispatch
  else s

/-- INIT_ROUTINE_TIMEOUT (R126): 4,000 ticks without the END of the initialisation routine. -/
def execInitRoutineTimeout (s : State) : Out := .next <|
  if (s.ce.task 8).ready ∧ 4000 ≤ s.ce.initTicks then (s.initFailed 0xFE).dispatch else s

/-! ### Re-admission (R182 to R184) -/

/-- A re-admission starts: whoever executes is held at its instruction boundary, the store buffer drains, and the lane is
RELOADING (R183). -/
def State.beginReload (s : State) (l : Lane) : State := (s.drainAll).setLane l 2

/-- The instruction index of a RELOAD record. DESIGN CHOICE: the PC of the release that is held, else that of T7
(notes/assumptions/44.md). -/
def State.reloadIndex (s : State) : Nat :=
  match s.ce.cur with
  | some w => (s.ce.task w).ctx.pc
  | none => (s.ce.task 7).ctx.pc

/-- The reload of a lane comes out (R183). A LANE_RESTORE is answered once the lane votes (R189). -/
def State.endReload (s : State) (l : Lane) (copies : Copies) (readback : Bool) : State :=
  let i := s.reloadIndex
  match copies with
  | .agree => if readback then (s.readmit l).answerLong 0x0802 .done else s.haltLane l .reload i
  | .differ => (s.setLane l 1).noMajority .reload i
  | .split => (s.setLane l 1).verdictSplit .reload i

/-- A lane may be reloaded now: not while a program is being switched (R182), nor in a mode without a triad. -/
def State.mayReload (s : State) : Bool :=
  !s.ce.switchNow && decide (s.ce.switchTick ≠ some s.time.tick ∧ s.mode ≠ .selftest ∧ s.mode ≠ .recovery ∧ s.mode ≠ .safe)

/-- LANE_READMISSION (R182, R183): in an idle window a halted lane begins to reload; for a lane that is reloading, the
reload ends. -/
def execLaneReadmission (l : Lane) (copies : Copies) (readback : Bool) (s : State) : Out := .next <|
  if !s.mayReload then s
  else if s.laneState l = 2 then s.endReload l copies readback
  else if s.laneState l = 1 ∧ !s.reloading ∧ s.bestCyclic = none then s.beginReload l
  else s

/-- FORCED_READMISSION (R182): 4,000 ticks after the halt, from the slack; the reload itself is as above. -/
def execForcedReadmission (l : Lane) (copies : Copies) (readback : Bool) (s : State) : Out := .next <|
  if !s.mayReload then s
  else if s.laneState l = 2 then s.endReload l copies readback
  else if s.laneState l = 1 ∧ !s.reloading ∧ s.cv.haltedAt.toList.getD l.code 0 + 4000 ≤ s.time.tick then
    (s.bump Reg.CV_FORCED_CNT).beginReload l
  else s

/-- DEGLEFT_COUNTDOWN (R187, R188): a second of powered time with a lane retired. -/
def execDegleftCountdown (s : State) : Out := .next <|
  if !s.anyRetired ∨ !s.sup.powered then s
  else
    let s := s.setDegLeft (s.cv.degLeft - 1)
    if s.cv.degLeft = 0 ∧ s.mode = .degraded then
      (s.report .o .critical (evCode 2 188 0) (srcNo 2 0) []).enterSafe 0x06
    else s

/-! ### Write-backs and scrubbing (R198, R203 to R207) -/

/-- CE_WRITE_BACK (R198, R205): the oldest correction or poisoning that waits is written, while the masters run (R210). -/
def execCeWriteBack (s : State) : Out := .next <|
  match s.mem.wb with
  | [] => s
  | b :: t =>
    if s.fld Reg.PWR_STAT_STOPPING = 1 then s
    else
      let s := { s with mem.wb := t }
      if b.poison then s.poison b.arr b.word else s.fullWrite b.arr b.word b.data

/-- Scrub range `n`: its array, first word and number of words, none where it is skipped (R203). -/
def State.scrubRange (s : State) (n : Nat) : Option (Arr × Nat × Nat) :=
  let base := (s.fld (Reg.PS_TRAV_BASE_BASE n)).toNat * 0x1000
  let lim := (s.fld (Reg.PS_TRAV_LIM_LIMIT n)).toNat * 0x1000
  if s.fld (Reg.PS_TRAV_BASE_VALID n) = 0 ∨ lim < base then none
  else (storeRange base (lim + 0x1000 - base)).map (fun e => (e.1, e.2, (lim + 0x1000 - base) / 8))

/-- The position Traverse reads next, from range `n` on: the range, its array and the word. -/
def State.scrubNext (s : State) (n word : Nat) : Option (Nat × Arr × Nat) :=
  match s.scrubRange n with
  | some (a, first, count) =>
    if word < count then some (n, a, first + word)
    else (List.range (7 - n)).findSome? (fun i => (s.scrubRange (n + 1 + i)).map (fun r => (n + 1 + i, r.1, r.2.1)))
  | none => (List.range (7 - n)).findSome? (fun i => (s.scrubRange (n + 1 + i)).map (fun r => (n + 1 + i, r.1, r.2.1)))

/-- PS_STAT and PS_TRAV_POS show where Traverse is. -/
def State.scrubShow (s : State) : State :=
  match s.scrubNext s.mem.travRange s.mem.travWord with
  | some (n, a, w) => (s.setFld Reg.PS_TRAV_POS_ADDR (BitVec.ofNat 32 (a.addr w))).setFld Reg.PS_STAT_TRAV_RANGE (BitVec.ofNat 32 n)
  | none => s

/-- A lap begins: staged fields apply, and a range that is skipped, one that is not VALID among them, is reported (R203). -/
def State.lapBegin (s : State) : State :=
  let s := (s.applyStaged (fun k => keyPage k == 0x04)).flag Reg.PS_STAT_TRAV_STAGED false
  let s := if (List.range 8).any (fun n => (s.scrubRange n).isNone) then
      s.flag Reg.PS_EVT_RANGE_ERR true else s
  { s with mem.travRange := 0, mem.travWord := 0, mem.travStart := s.time.tick }

/-- A lap ends (R204). -/
def State.lapEnd (s : State) : State :=
  let n := s.time.tick - s.mem.travStart
  let s := (s.setFld Reg.PS_TRAV_LAP_LAP (BitVec.ofNat 32 n)).bump Reg.PS_LAP_CNT
  let lim := (s.fld Reg.PS_TRAV_LAPMAX_LAPMAX).toNat
  let s := if lim ≠ 0 ∧ lim < n then
      (s.flag Reg.PS_EVT_LAP_SLOW true).report .d .warn (evCode 4 204 0) (srcNo 4 0) (leBytes 4 n)
    else s
  s.lapBegin

/-- What Traverse does with the word it reads (R205): a poisoned one is only counted. -/
def State.scrubWord (s : State) (a : Arr) (w : Nat) : State :=
  let c := s.mem.code a w
  match c.cls w with
  | .clean => s
  | .ce => { s.countCe a w with mem.wb := s.mem.wb ++ [⟨a, w, false, corrected w c⟩] }
  | .ue => { s.countUe a w .ue (syndrome w c) .traverse with mem.wb := s.mem.wb ++ [⟨a, w, true, 0⟩] }
  | .address => s.countUe a w .address (syndrome w c) .traverse
  | .poison => s.bump (ueCounter a .poison)

/-- Traverse moves on from a word of range `n`. -/
def State.scrubStep (s : State) (n first w : Nat) : State :=
  let s := { s with mem.travRange := n, mem.travWord := w + 1 - first }
  if (s.scrubNext n s.mem.travWord).isSome then s else s.lapEnd

/-- TRAVERSE_SCRUB_READ (R204 to R206). -/
def execTraverseScrubRead (s : State) : Out := .next <|
  if !s.travRuns then s
  else
    let s := if s.mem.travRange = 0 ∧ s.mem.travWord = 0 then s.lapBegin else s
    match s.scrubNext s.mem.travRange s.mem.travWord with
    | none => s
    | some (n, a, w) =>
      let first := match s.scrubRange n with
        | some r => r.2.1
        | none => w
      ((s.scrubWord a w).scrubStep n first w).scrubShow

/-- PROGRAM_RAM_SCRUB (R207): every word of both slots; a word that is not listed is clean. DESIGN CHOICE: in SELFTEST, which
fills the slots, in RECOVERY, where only the ROM runs, and once the masters have stopped, there is no scrub
(notes/assumptions/44.md). -/
def execProgramRamScrub (s : State) : Out := .next <|
  if s.mode = .selftest ∨ s.mode = .recovery ∨ s.fld Reg.PWR_STAT_STOPPING = 1 then s
  else s.mem.prg.foldl (fun (s : State) e =>
    let c := s.mem.code .prg e.1
    let k := c.cls e.1
    let s := s.account .prg e.1 .supervisor
    match k with
    | .ce => s.fullWrite .prg e.1 (corrected e.1 c)
    | .ue => s.poison .prg e.1
    | _ => s) s

end Sys2Proof.Machine
end

