-- ==== Sys2Proof/Machine/Session.lean ====
section
/-! DEFINITION. Opening sessions and changing the mode by command (spec/09_command_interface.md R241, R242,
spec/08_modes_and_startup.md R215, R216). -/
namespace Sys2Proof.Machine

/-! ### SESS_OPEN (R241 to R243) -/

/-- SESSION_IDLE in seconds; Trig, which holds no configuration, takes the default (R241, R252). -/
def State.sessionIdle (s : State) (trig : Bool) : Nat :=
  let n := s.cfg blkModule 0x08 2
  if !trig ∧ 30 ≤ n ∧ n ≤ 3600 then n else 300

/-- The next session number in rotation that is not in use (R241). -/
def Desk.nextNum (d : Desk) : Nat :=
  ((List.range 254).map (fun i => (d.lastNum + i) % 254 + 1)).find? (fun n => !d.sessions.any (fun x => x.num == n)) |>.getD 1

/-- The session idle longest. -/
def idlest : List Session → Option Session
  | [] => none
  | x :: t => match idlest t with
    | some y => if y.lastUsed < x.lastUsed then some y else some x
    | none => some x

/-- A slot is freed for a new session, or none can be (R241). -/
def State.freeSlot (s : State) (r : Req) : Option State :=
  let d := s.desk r
  if d.sessions.length < (if r.atTrig then 4 else 8) then some s
  else match idlest d.sessions with
    | some x => if x.lastUsed + 10000000000 ≤ s.opNs then some (s.endSession r.atTrig x.num) else none
    | none => none

/-- SESS_OPEN on a request that has passed the gate. -/
def State.sessOpen (s : State) (r : Req) : State :=
  match s.freeSlot r, roleOf (r.nat 0 1) with
  | some s, some role =>
    let d := s.desk r
    let num := d.nextNum
    let nonce := leBytes 16 (Config.random s.free).toNat
    let key := hmacSha256 ((s.roleKey r.atTrig role).getD (List.replicate 32 0))
      ((r.payload.drop 4).take 16 ++ nonce ++ [BitVec.ofNat 8 num])
    let x : Session := ⟨num, role, r.transport, key, r.tag, s.opNs, none, none⟩
    let s := { s with free := s.free + 1 }.setDesk r { d with sessions := d.sessions ++ [x], lastNum := num }
    let s := if r.atTrig then s else s.cmdStat
    s.finishWith 0x0020 r r.session key
      (.okWith ([BitVec.ofNat 8 num, 0, 0, 0] ++ leBytes 2 (s.sessionIdle r.atTrig) ++ [0, 0] ++ nonce))
  | _, _ => s.finish 0x0020 r (.no .busy 0xFFFB)

/-- SESS_CLOSE on a request that has passed the gate. -/
def State.sessClose (s : State) (r : Req) : State := (s.finish 0x0021 r .done).endSession r.atTrig r.session.toNat

/-! ### MODE_REQ (R215, R216) -/

/-- The mode of a target code. -/
def targetMode : Nat → Option Mode
  | 0x3 => some .stopped | 0x4 => some .run | 0x8 => some .test | 0xB => some .safe | _ => none

/-- MAINTAINER or INTEGRATOR. -/
def highRole (role : Option Role) : Bool := role == some .maintainer || role == some .integrator

/-- An active partner is present (R358). -/
def State.partnerServes (s : State) : Bool := s.fld Reg.COL_CTRL_ENABLE == 1 && s.col.partner.any (·.serves)

/-- The answer that refuses a target in the current mode, none where it is accepted (R215); the cause of SAFE decides
whether a command clears it (R227). DESIGN CHOICE: the rule does not say what TEST from STOPPED, or RUN from TEST, does with
a lane retired: TEST is entered, RUN leads to DEGRADED, and either is refused where R188 allows no cycle
(notes/assumptions/44.md). -/
def State.modeRefusal (s : State) (t : Mode) (role : Option Role) : Option Answer :=
  let notHere := some (Answer.no .notInMode t.code)
  let needHigh := if highRole role then none else some (Answer.no .authFail 0x0004)
  let twoLanes := if !s.anyRetired then none
    else if !highRole role then some (Answer.no .authFail 0x0004)
    else if s.cv.degLeft = 0 then some (.no .lockedOut 0x0001)
    else none
  match t with
  | .run => match s.mode with
    | .test => twoLanes
    | .stopped =>
      if s.partnerServes then some (.no .notInMode 0x0807)
      else if s.ce.active.isNone then some (.no .notInMode 0x0100)
      else twoLanes
    | _ => notHere
  | .test =>
    if !highRole role then some (.no .authFail 0x0004)
    else match s.mode with
      | .run => none
      | .stopped =>
        if s.ce.active.isNone then some (.no .notInMode 0x0100)
        else if s.anyRetired ∧ s.cv.degLeft = 0 then some (.no .lockedOut 0x0001)
        else none
      | _ => notHere
  | .stopped => match s.mode with
    | .run | .degraded | .test | .joining | .standby | .config => none
    | .safe =>
      let c := (s.fld Reg.SYS_SAFE_CAUSE).toNat
      if c = 0x07 ∨ c = 0x0A then needHigh else notHere
    | _ => notHere
  | _ => none

/-- Start the initialisation routine of the active program (R93, R123). -/
def State.startInit (s : State) (w : ModeWait) : State :=
  let s := s.clearForRun
  let s := s.modTask 8 (fun t => { t with ctx := Ctx.start s.program.initEntry, ready := true, waiting := none, clocks := 0 })
  State.dispatch { s with ce.initTicks := 0, ce.secondPart := false, sup.modeWait := some w }

/-- Carry out an accepted target (R214, R216). -/
def State.modeGo (s : State) (t : Mode) (r : Req) : State :=
  let s := if t = .run then { s with sup.startLoop := 0 } else s
  let wait := fun (s : State) => { s with sup.modeWait := some ⟨t, some r, false, .command⟩ }
  match t, s.mode with
  | .safe, _ => (s.enterSafe 0x0A).finish 0x0100 r .done
  | .stopped, .safe => (s.changeMode .stopped .command).finish 0x0100 r .done
  | .stopped, .config => (s.changeMode .stopped .command).finish 0x0100 r .done
  | .stopped, .joining =>
    ((s.changeMode .stopped .command).answerLong 0x0800 (.no .notInMode Mode.stopped.code)).finish 0x0100 r .done
  | .run, .stopped => s.startInit ⟨.run, some r, true, .command⟩
  | .test, .stopped => s.startInit ⟨.test, some r, true, .command⟩
  | _, _ => wait s

/-- MODE_REQ on a request that has passed the gate. -/
def State.modeReq (s : State) (r : Req) (role : Option Role) : State :=
  let code := r.nat 0 1
  match targetMode code with
  | none => s.finish 0x0100 r (.no .notInMode code)
  | some t =>
    if t ≠ .safe ∧ s.sup.modeWait.any (fun w => decide (w.why ≠ .autostart)) then s.finish 0x0100 r (.no .busy 0x0100)
    else match s.modeRefusal t role with
      | some a => s.finish 0x0100 r a
      | none => s.supersede.modeGo t r

end Sys2Proof.Machine
end

