-- ==== Sys2Proof/Machine/Verify.lean ====
section
/-! DEFINITION. Program slots, the checks of PRG_VERIFY, and making a program active outside the cycle
(spec/02_cycle_model.md R58 to R66, spec/19_firmware_update.md R451). -/
namespace Sys2Proof.Machine

/-! ### The bytes of a slot (R19) -/

/-- The Program RAM word that holds byte `off` of a slot. -/
def slotWord (n off : Nat) : Nat := n * slotWords + off / 8

/-- The bytes of a data word. -/
def dwordBytes (d : DWord) : List Byte := leBytes 8 d.toNat

/-- The first `len` bytes of a slot, none where a word of them is uncorrectable. -/
def State.slotBytes (s : State) (n len : Nat) : State × Option (List Byte) :=
  let ws := (List.range ((len + 7) / 8)).map (fun i => slotWord n 0 + i)
  let q := s.readMany .prg .supervisor ws
  if q.2.all (fun e => e.2.1.ok) then (q.1, some ((q.2.flatMap (fun e => dwordBytes e.2.2)).take len)) else (q.1, none)

/-- Write one 4-byte piece into a slot; `true` where it was refused (R200). -/
def State.writePiece (s : State) (n off : Nat) (b : List Byte) : State × Bool :=
  let lo := 8 * (off % 8)
  s.writeWord .prg (slotWord n off) (at64 (leNat b) lo) (at64 0xFFFFFFFF lo) .supervisor

/-- Write bytes, a multiple of 4, into a slot: whole code words where they are covered. -/
def State.writeSlot (s : State) (n : Nat) : Nat → Nat → List Byte → State × Bool
  | 0, _, _ => (s, false)
  | fuel + 1, off, b =>
    if b.isEmpty then (s, false)
    else if off % 8 = 0 ∧ 8 ≤ b.length then
      State.writeSlot (s.fullWrite .prg (slotWord n off) (BitVec.ofNat 64 (leNat (b.take 8)))) n fuel (off + 8) (b.drop 8)
    else
      let q := s.writePiece n off (b.take 4)
      if q.2 then q else State.writeSlot q.1 n fuel (off + 4) (b.drop 4)

/-- Fill a slot with zero words (R101). -/
def State.zeroSlot (s : State) (n : Nat) : State :=
  let mine := fun (w : Nat) => decide (n * slotWords ≤ w ∧ w < (n + 1) * slotWords)
  { s with mem.prg := s.mem.prg.filter (fun e => !mine e.1), mem.wb := s.mem.wb.filter (fun b => !(decide (b.arr = .prg) && mine b.word)) }

/-- The received pieces cover the first `len` bytes. -/
def covered (got : List (Nat × Nat)) (len : Nat) : Bool :=
  let step := fun (reach : Nat) => got.foldl (fun m p => if p.1 ≤ m then max m (p.1 + p.2) else m) reach
  decide (len ≤ Nat.repeat step got.length 0)

/-! ### Checks 2 to 6 (R58) -/

/-- IDs in strictly ascending order (R91). -/
def ascending : List SigEntry → Bool
  | [] => true
  | [_] => true
  | a :: b :: t => decide (a.id < b.id) && ascending (b :: t)

/-- Two lists of ranges share an ID. -/
def overlap (a b : List Range) : Bool := a.any (fun x => b.any (fun y => decide (x.first ≤ y.last ∧ y.first ≤ x.last)))

/-- The pairs of tasks, the lower first, in the order of R38. -/
def taskPairs : List (Nat × Nat) :=
  (List.range 7).flatMap (fun a => ((List.range 7).filter (fun b => decide (a < b))).map (fun b => (a, b)))

/-- The first pair of tasks whose ranges overlap (R38). -/
def Image.overlapping (p : Image) : Option (Nat × Nat) :=
  taskPairs.find? (fun e => overlap (p.task e.1).inputs (p.task e.2).inputs || overlap (p.task e.1).outputs (p.task e.2).outputs)

/-- The group that a word of a code section names, if it may be a sliced instruction with IX = 0 (R90, R100, R102). DESIGN
CHOICE: a word whose SUB is reserved, which executes as ILLEGAL, counts as well (notes/assumptions/43.md). -/
def slicedGroup (w : Nat) : Option Nat :=
  let op := bitsAt w 26 6
  if 1 ≤ op ∧ op ≤ 7 ∧ bitAt w 25 = 1 ∧ bitsAt w 18 4 = 0 ∧ bitsAt w 0 18 % 32 = 0 then some (bitsAt w 0 18 / 32) else none

/-- The instruction word at an index of an image. -/
def wordAt (b : List Byte) (i : Nat) : Nat := leNat ((b.drop (4 * i)).take 4)

/-- The lowest group with a WORD signal that a sliced instruction of the code sections names (R90). -/
def Image.slicedWord (p : Image) (b : List Byte) : Option Nat :=
  let gs := p.code.flatMap (fun c => (List.range c.2).filterMap (fun i => slicedGroup (wordAt b (c.1 + i))))
  (gs.filter (fun g => decide (g ∈ p.slices))).foldl (fun m g => some (match m with | some x => min x g | none => g)) none

/-- The first task whose latch or commit cost in the table differs from R46. -/
def Image.badCost (p : Image) : Option Nat :=
  (List.range 7).find? (fun n =>
    (p.task n).latchCost != rangesCost (p.task n).inputs || (p.task n).commitCost != rangesCost (p.task n).outputs)

/-- Every ID of every declared range is listed (R91). -/
def Image.allListed (p : Image) : Bool :=
  (List.range 7).all (fun n => ((p.task n).inputs ++ (p.task n).outputs).all (fun r => r.ids.all (fun i => (p.sig i).isSome)))

/-- Checks 2 to 7; `b` are the bytes of the image. -/
def Image.refusal (p : Image) (b : List Byte) (q slack : Nat) : Option Answer :=
  if !ascending p.signals then some (.conflict 0x06 0xF100)
  else if !p.allListed then some (.conflict 0x06 0xF101)
  else match p.overlapping with
    | some e => some (.conflict 0x05 (e.1 * 256 + e.2))
    | none => match p.slicedWord b with
      | some g => some (.conflict 0x06 (0xC000 + g))
      | none => match p.badCost with
        | some n => some (.conflict 0x06 (0xFF00 + n))
        | none => match p.failing q slack with
          | some n => some (.no .wcetExceeds n)
          | none => none

/-! ### The program key (R451) -/

/-- PROG_KEY of block 0x82. -/
def State.progKey (s : State) : List Byte := s.cfgBytes 0x82 0 32

/-- Check 1. -/
def State.signatureRefusal (s : State) (b : List Byte) : Option Answer :=
  if allZero s.progKey then some (.no .signatureBad 0x0002)
  else if b.length < 64 ∨ !edVerify s.progKey (b.take (b.length - 64)) (b.drop (b.length - 64)) then
    some (.no .signatureBad 0x0001)
  else none

/-- Checks 1 to 8 of an image given as bytes: its verification, and the refusal (R58, R65). -/
def State.checkImage (s : State) (p : Image) (b : List Byte) : Verified × Option Answer :=
  match s.signatureRefusal b with
  | some a => (.no, some a)
  | none => match p.refusal b (usableClocks s.pwr.gop) s.slack with
    | some a => (.no, some a)
    | none => match p.carry.bind (fun c => carryRefusal c (s.ce.active.map (·.id)) p.id s.slack) with
      | none => (.all, none)
      | some d => (if d = 0x0001 ∨ d = 0x0003 then .stoppedOnly d else .no, some (.no .changeTooLarge d))

/-- What PRG_VERIFY replies: the carry cost, 0 without a map, and the response times at the GOP (R249). -/
def State.verifyData (s : State) (p : Image) : List Byte :=
  leBytes 4 (carryCost p.carry) ++ (List.range 7).flatMap (fun n =>
    leBytes 4 (if (p.task n).enable then (p.responseOf (usableClocks s.pwr.gop) s.slack n).getD 0 else 0))

/-- The result of a PRG_VERIFY of slot `n` replaces that of the one before, whichever slot that was of (R58). -/
def State.setResult (s : State) (n : Nat) (x : Slot) : State :=
  let s := s.setSlot n x
  s.setSlot (1 - n) { s.slot (1 - n) with verified := .no }

/-- PRG_VERIFY of the inactive slot, checks 0 to 8 (R58). -/
def State.verifySlot (s : State) (id : Word) (p : Image) : State × Answer :=
  let n := s.otherSlot
  let x := s.slot n
  let fail := fun (s : State) (a : Answer) => ((s.setResult n { x with verified := .no }).setFld Reg.CE_SWSTAT_STATE 5, a)
  match x.begun with
  | none => fail s (.no .notInMode 0x0301)
  | some (i, len) =>
    if i ≠ id then fail s (.no .notInMode 0x0302)
    else if !covered x.received len then fail s (.no .notInMode 0x0303)
    else
      let q := s.slotBytes n len
      match q.2 with
      | none => fail q.1 (.no .storeError 0x0001)
      | some b =>
        let p : Image := { p with id := id }
        let v := q.1.checkImage p b
        let s := q.1.setResult n { x with verified := v.1, image := if v.1 = .no then none else some p }
        let s := s.setFld Reg.CE_SWSTAT_STATE (if v.1 = .no then 5 else 1)
        (s, v.2.getD (.okWith (s.verifyData p)))

/-! ### The switch in STOPPED (R66) -/

/-- The verified inactive slot is made active at once. -/
def State.switchNow (s : State) (p : Image) : State :=
  let s := s.makeActive p
  (s.setFld Reg.CE_SWSTAT_STATE 3).flag Reg.CE_EVT_SW_DONE true

/-- The refusal of a PRG_SWITCH (R59). -/
def State.switchRefusal (s : State) (id : Word) : Option Answer :=
  let x := s.slot s.otherSlot
  match x.begun with
  | none => some (.no .notInMode 0x0301)
  | some (i, _) =>
    if i ≠ id then some (.no .notInMode 0x0302)
    else match x.verified, x.image with
      | .no, _ => some (.no .notInMode 0x0304)
      | _, none => some (.no .notInMode 0x0304)
      | v, some p =>
        if s.mode = .stopped then none
        else if p.carry.isNone then some (.no .changeTooLarge 0x0005)
        else match v with
          | .stoppedOnly d => some (.no .changeTooLarge d)
          | _ => none

/-! ### Flash Store program slots (R249, R440) -/

/-- The content of a Flash Store slot, 1 to 4. -/
def State.flashSlot (s : State) (k : Nat) : Option (Word × List Byte) := s.sup.flashSlots.toList.getD (k - 1) none

/-- A rewrite of a partition of R440 counts one P/E cycle (R473). -/
def State.countErase (s : State) (part : Nat) : State :=
  { s with cairn.erases := ssetD 0 s.cairn.erases part (sgetD 0 s.cairn.erases part + 1) }

/-- The partition of the program images, in the row order of R440. -/
def programPartition : Nat := 2

/-- Put the content of a Flash Store slot. -/
def State.setFlashSlot (s : State) (k : Nat) (x : Option (Word × List Byte)) : State :=
  { s with sup.flashSlots := s.sup.flashSlots.setIfInBounds (k - 1) x }

/-- Load an image into a program slot in full: zero words first, then its bytes, padded to whole 4 bytes (R101). -/
def State.loadSlot (s : State) (n : Nat) (id : Word) (b : List Byte) : State :=
  let pad := b ++ List.replicate ((4 - b.length % 4) % 4) 0
  let s := ((s.zeroSlot n).writeSlot n pad.length 0 pad).1
  s.setSlot n ⟨some (id, b.length), [(0, b.length)], .no, none⟩

end Sys2Proof.Machine
end

