-- ==== Sys2Proof/Machine/CfgCheck.lean ====
section
/-! DEFINITION. The checks of CFG_COMMIT on a whole edited configuration, and the sources and destinations of signals that
a configuration maps (spec/09_command_interface.md R252 and the rules it names). -/
namespace Sys2Proof.Machine

/-! ### Reading a configuration `c` -/

/-- A signal word: the ID where USED is set. -/
def confSignal (c : Sparse Byte) (block off : Nat) : Option Nat :=
  let x := confNat c block off 4
  if bitAt x 31 = 1 then some (bitsAt x 0 18) else none

/-- Encoder `e` in a configuration. -/
def encField (c : Sparse Byte) (e lo width : Nat) : Nat := bitsAt (confNat c 0x0E (0x40 + 0x30 * (e - 1)) 4) lo width

/-- SER channel `n` is enabled in a configuration. -/
def serEnabled (c : Sparse Byte) (n : Nat) : Bool := confNat c 0x0D (0x40 + 0x30 * (n - 1)) 1 % 2 == 1

/-- A field of a safety block entry, i from 1: safe inputs, safe outputs, SS1 instances. -/
def confSi (c : Sparse Byte) (i off n : Nat) : Nat := confNat c 0x15 (0x8 + 12 * (i - 1) + off) n
def confSo (c : Sparse Byte) (k off n : Nat) : Nat := confNat c 0x15 (0xC8 + 4 * (k - 1) + off) n
def confSs (c : Sparse Byte) (i off n : Nat) : Nat := confNat c 0x15 (0xE8 + 64 * (i - 1) + off) n

/-- The indices 1 to `n`. -/
def upTo (n : Nat) : List Nat := (List.range n).map (· + 1)

/-- Entries in use. -/
def usedSi (c : Sparse Byte) : List Nat := (upTo 16).filter (fun i => confSi c i 0 1 != 0)
def usedSo (c : Sparse Byte) : List Nat := (upTo 8).filter (fun k => confSo c k 0 1 != 0)
def usedSs (c : Sparse Byte) : List Nat := (upTo 4).filter (fun i => confSs c i 0 1 != 0)

/-- The channels that safe inputs name, and those that safe outputs name. -/
def siChans (c : Sparse Byte) : List Nat := (usedSi c).flatMap (fun i => [confSi c i 0 1, confSi c i 1 1])
def soChans (c : Sparse Byte) : List Nat := (usedSo c).flatMap (fun k => [confSo c k 0 1, confSo c k 1 1])

/-- The encoders that SS1 instances claim (R326). -/
def claimedEncs (c : Sparse Byte) : List Nat := (usedSs c).flatMap (fun i => [confSs c i 0 1, confSs c i 1 1])

/-- MODE and PARTNER of a channel, the partner as a channel number (R376). -/
def confMode (c : Sparse Byte) (n : Nat) : Nat := bitsAt (confNat c 0x13 (16 * (n - 1)) 4) 1 3
def confPartner (c : Sparse Byte) (n : Nat) : Nat := bitsAt (confNat c 0x13 (16 * (n - 1)) 4) 14 6 + 1

/-! ### Sources and destinations (R77, R88) -/

/-- The data fields of a table: the IDs they deliver. -/
def dataIds (fs : List FieldEntry) : List Nat := (fs.filter (fun f => f.kind ≠ 6)).map (·.id)

/-- The field entries of a Ridge slot, out or in. -/
def confSlot (c : Sparse Byte) (n : Nat) (inward : Bool) : List FieldEntry :=
  confFields c 0x10 0x430 (confNat c 0x10 (slotOff n inward + 2) 2) (confNat c 0x10 (slotOff n inward + 4) 2)

/-- Signals by their source, as block by block a configuration maps them; `role` and `own` are ROLE and STATION. -/
def confSources (c : Sparse Byte) (role own : Nat) : List (Nat × Src) :=
  let tag := fun (x : Src) (ids : List Nat) => ids.map (fun i => (i, x))
  let one := fun (x : Src) (block off : Nat) => tag x (confSignal c block off).toList
  (List.range (min 4096 (confNat c 0x09 0x06 2))).flatMap (fun i =>
    let o := pdSubscribeOff i
    tag (.pdSub i) (dataIds (confFields c 0x09 pdFieldsOff (confNat c 0x09 (o + 0x0E) 2) (confNat c 0x09 (o + 0x10) 2)))) ++
  (List.range (min 1024 (confNat c 0x0A 0x04 2))).flatMap (fun i =>
    let o := mvbPortOff i
    if bitAt (confNat c 0x0A o 2) 12 = 1 then
      tag (.mvbSink i) (dataIds (confFields c 0x0A 0x2010 (confNat c 0x0A (o + 4) 2) (confNat c 0x0A (o + 6) 2)))
    else []) ++
  (upTo 63).flatMap (fun a =>
    let o := 0x10 + 8 * (a - 1)
    tag (.wtbNode a) (dataIds (confFields c 0x0B 0x208 (confNat c 0x0B (o + 4) 2) (confNat c 0x0B (o + 6) 2)))) ++
  (if role = 1 then (upTo 63).flatMap (fun n => tag (.station n) (dataIds (confSlot c n true)))
   else if role = 2 then tag (.station 0) (dataIds (confSlot c own false)) else []) ++
  (upTo 6).flatMap (fun e => (List.range 3).flatMap (fun i => one (.encoder e) 0x0E (encSignalOff e i))) ++
  (upTo 64).flatMap (fun n =>
    let o := 16 * (n - 1)
    (if modeIsInput (confMode c n) then one (.channel n) 0x13 (o + 4) else []) ++ one (.channel n) 0x13 (o + 8) ++
      one (.fieldGroup (groupOfChan n)) 0x13 (o + 12)) ++
  (upTo 8).flatMap (fun g => one (.fieldGroup g) 0x13 (0x400 + 4 * (g - 1))) ++
  (upTo 16).flatMap (fun i => one (.tlGroup ((i - 1) / 4 + 1)) 0x13 (0x420 + 4 * (i - 1))) ++
  (usedSi c).flatMap (fun i => one .safety 0x15 (0x8 + 12 * (i - 1) + 8)) ++
  (usedSs c).flatMap (fun i => one .safety 0x15 (0xE8 + 64 * (i - 1) + 0x24) ++ one .safety 0x15 (0xE8 + 64 * (i - 1) + 0x28)) ++
  (List.range 9).flatMap (fun i => one .trig 0x16 (8 + 4 * i)) ++
  one .status 0x09 0x0C ++ one .status 0x0B 0x0C

/-- The committed outputs that Ridge stations receive (R88). -/
def confDests (c : Sparse Byte) (role own : Nat) : List (Nat × Nat) :=
  let slot := fun (n : Nat) (fs : List FieldEntry) => (dataIds fs).map (fun i => (i, n))
  if role = 1 then (upTo 63).flatMap (fun n => slot n (confSlot c n false))
  else if role = 2 then slot 0 (confSlot c own true) else []

/-! ### The checks, one rule each; the first that fails is answered -/

/-- A refusal where a condition holds. -/
def refuseIf (b : Bool) (a : Answer) : Option Answer := if b then some a else none

/-- BAD_LENGTH 0xFFFE. -/
def badRange : Answer := .no .badLength 0xFFFE

/-- An encoder that a configuration claims and the module claims already: it stays in its mode (R326), and no serial link
takes its pins. -/
def State.encClaimRefusal (s : State) (c : Sparse Byte) : Option Answer :=
  let es := claimedEncs c
  ((es.filter (fun e => (s.fld (Reg.ENC_ESTAT_SF_CLAIMED e) == 1 &&
      (encField c e 0 1 == 0 || encField c e 1 1 != (s.fld (Reg.ENC_CFG_MODE e)).toNat)) ||
      (e == 5 && serEnabled c 11) || (e == 6 && serEnabled c 12))).head?).map (fun e => .conflict 0x09 e)

/-- ENC5 and SER11, ENC6 and SER12 (R29). -/
def pinRefusal (c : Sparse Byte) : Option Answer :=
  (refuseIf (encField c 5 0 1 == 1 && serEnabled c 11) (.conflict 0x01 (encLink 5 * 256 + serLink 11))).or
    (refuseIf (encField c 6 0 1 == 1 && serEnabled c 12) (.conflict 0x01 (encLink 6 * 256 + serLink 12)))

/-- SLACK of a configuration (R48). -/
def confSlack (c : Sparse Byte) : Nat := confNat c 0x02 0x10 2

/-- The slack, the switch timeout, and the loaded program at a slack that the commit changes (R48, R49, CE_SLACK). -/
def State.slackRefusal (s : State) (c : Sparse Byte) : Option Answer :=
  let n := confSlack c
  if n < 2048 ∨ confNat c 0x02 0x12 2 < 16 then some badRange
  else if n = confSlack s.cmd.config then none
  else match s.ce.active with
    | none => none
    | some p => (p.failing (usableClocks s.pwr.gop) n).map (fun i => .no .wcetExceeds i)

/-- The lowest ID with two sources (R77). DESIGN CHOICE: the rule does not say which ID the refusal names where several
have two (notes/assumptions/43.md). -/
def twiceMapped : List Nat → Option Nat
  | [] => none
  | i :: t => match twiceMapped t with
    | some j => some (if t.contains i then min i j else j)
    | none => if t.contains i then some i else none

def sourceRefusal (c : Sparse Byte) : Option Answer :=
  (twiceMapped ((confSources c (confNat c blkModule 0 1) (confNat c blkModule 1 1)).map (·.1))).map (fun id =>
    ⟨.resourceConflict, id % 65536, 3 + id / 65536 * 2 ^ 30, []⟩)

/-- The agent and the direction (`true` IN) that R275 gives a ring. -/
def defaultAgent (n : Nat) : Nat :=
  if n ≤ 1 then 1 else if n ≤ 3 then 2 else if n ≤ 7 then 3 else if n ≤ 11 then 4 else if n ≤ 15 then 5 else
  if n ≤ 19 then 6 else if n ≤ 23 then 7 else if n ≤ 25 then 8 else if n ≤ 27 then 9 else if n ≤ 29 then 10 else 11

def defaultIn (n : Nat) : Bool := if 24 ≤ n ∧ n ≤ 27 then true else n % 2 == 1

/-- The agent a configuration gives a ring: 0 leaves it at the default, 0xFF gives it none. -/
def confAgent (c : Sparse Byte) (n : Nat) : Nat :=
  let a := bitsAt (confNat c (6 + n / 16) (0x40 + 0x30 * (n % 16)) 4) 8 8
  if a = 0 then defaultAgent n else if a = 0xFF then 0 else a

/-- The direction of a ring's agent: as configured where the agent is. -/
def confIn (c : Sparse Byte) (n : Nat) : Bool :=
  let x := confNat c (6 + n / 16) (0x40 + 0x30 * (n % 16)) 4
  if bitsAt x 8 8 = 0 then defaultIn n else bitAt x 1 == 1

/-- Rings of an agent and direction up to ring `n`, and its streams in the default assignment. -/
def ringsUpTo (c : Sparse Byte) (n : Nat) : Nat :=
  (List.range (n + 1)).countP (fun m => confAgent c m == confAgent c n && confIn c m == confIn c n)
def streamsOf (a : Nat) (inward : Bool) : Nat :=
  (List.range 32).countP (fun m => defaultAgent m == a && defaultIn m == inward)

/-- One agent to a ring, one ring to a stream; rings 0 and 1 are fixed (R274, R275). -/
def ringRefusal (c : Sparse Byte) : Option Answer :=
  if (List.range 32).any (fun n => decide (11 < confAgent c n)) then some badRange
  else ((List.range 32).find? (fun n =>
    (decide (n ≤ 1) && (confAgent c n != 1 || confIn c n != defaultIn n)) ||
    (confAgent c n != 0 && decide (streamsOf (confAgent c n) (confIn c n) < ringsUpTo c n)))).map (fun n => .conflict 0x02 n)

/-- A signal is a BOOL, or a WORD, in the active program's table where that lists it. -/
def State.typeIs (s : State) (id : Nat) (word : Bool) : Bool :=
  match s.program.sig id with
  | some e => e.word == word
  | none => true

/-- A field lies within a dataset of `len` bytes. -/
def FieldEntry.fits (f : FieldEntry) (len : Nat) : Bool := decide (f.off + f.size ≤ len)

/-- The bits of a dataset that a field takes: first bit and number. -/
def FieldEntry.bits (f : FieldEntry) : Nat × Nat := if f.kind = 0 then (8 * f.off + f.bit, 1) else (8 * f.off, 8 * f.size)

/-- Two fields overlap. -/
def fieldsMeet (f g : FieldEntry) : Bool :=
  decide (f.bits.1 < g.bits.1 + g.bits.2 ∧ g.bits.1 < f.bits.1 + f.bits.2)

def anyMeet : List FieldEntry → Bool
  | [] => false
  | f :: t => t.any (fieldsMeet f) || anyMeet t

/-- The rules of length of an entry (R295): its field range within the table, its fields within its dataset. -/
def lengthBad (fs : List FieldEntry) (first count total len : Nat) : Bool :=
  decide (total < first + count) || fs.any (fun f => !f.fits len)

/-- Block 0x09 (R295): publish entries, subscribe entries. -/
def State.pdBad (s : State) (c : Sparse Byte) : Bool :=
  let entry := fun (o lenOff firstOff countOff : Nat) (pub : Bool) =>
    let first := confNat c 0x09 (o + firstOff) 2
    let count := confNat c 0x09 (o + countOff) 2
    let fs := confFields c 0x09 pdFieldsOff first count
    lengthBad fs first count (confNat c 0x09 0x08 2) (confNat c 0x09 (o + lenOff) 2) || (pub && anyMeet fs) ||
      fs.any (fun f => f.kind != 6 && !s.typeIs f.id f.word)
  (List.range (min 2048 (confNat c 0x09 0x04 2))).any (fun i => entry (pdPublishOff i) 0x0C 0x0E 0x10 true) ||
  (List.range (min 4096 (confNat c 0x09 0x06 2))).any (fun i => entry (pdSubscribeOff i) 0x12 0x0E 0x10 false)

/-- Block 0x10 (R337, R339): a slot of more than 512 bytes, and the cases of R295 for its slots, each of which one end
publishes. -/
def State.slotsBad (s : State) (c : Sparse Byte) : Bool :=
  (upTo 63).any (fun n => [false, true].any (fun inward =>
    let o := slotOff n inward
    let fs := confSlot c n inward
    decide (512 < confNat c 0x10 o 2) ||
      lengthBad fs (confNat c 0x10 (o + 2) 2) (confNat c 0x10 (o + 4) 2) (confNat c 0x10 4 2) (confNat c 0x10 o 2) ||
      anyMeet fs || fs.any (fun f => f.kind != 6 && !s.typeIs f.id f.word)))

/-- The ring, other than its reset value's, that a configuration gives a CAN or serial link: 10, 11, 14 (R316, R320). -/
def confRing (c : Sparse Byte) (l : Nat) : Option Nat :=
  if 15 ≤ l ∧ l ≤ 22 then
    let x := confNat c 0x0C (0x40 + 0x40 * (l - 15)) 4
    if bitAt x 5 = 1 then some 10 else if bitAt x 6 = 1 then some 11 else none
  else if 23 ≤ l ∧ l ≤ 34 then
    if bitAt (confNat c 0x0D (0x40 + 0x30 * (l - 23)) 4) 9 = 1 then some 14 else none
  else none

/-- A tunnelled link has no local ring (R339), and only CAN, serial and Ethernet links are tunnelled (R350). The ring fields
at their reset value give a link no ring (notes/assumptions/45.md). -/
def tunnelRefusal (c : Sparse Byte) : Option Answer :=
  ((List.range linkCount).filter (fun l => bitAt (confNat c 0x10 (0x400 + l) 1) 0 == 1)).findSome? (fun l =>
    if !(decide (l ≤ 10) || (decide (15 ≤ l) && decide (l ≤ 34))) then some (.conflict 0x02 0)
    else (confRing c l).map (fun n => .conflict 0x02 n))

/-- A claimed channel and its pair (R377): its number where the configuration breaks a rule. -/
def channelRefusal (c : Sparse Byte) : Option Answer :=
  let ins := siChans c
  let outs := soChans c
  let all := ins ++ outs
  let safe := fun (n : Nat) => confMode c n == 5 || confMode c n == 6
  ((upTo 64).find? (fun n =>
    (ins.contains n && confMode c n != 5) || (outs.contains n && confMode c n != 6) || decide (1 < all.countP (· == n)) ||
    (safe n && (confPartner c (confPartner c n) != n || confPartner c n == n)) ||
    (confMode c n == 6 && groupOfChan (confPartner c n) == groupOfChan n) ||
    (safe n && (confSignal c 0x13 (16 * (n - 1) + 4)).isSome))).map (fun n => .conflict 0x04 n)

/-- A USED signal of the stated type (R391, R395). -/
def State.signalBad (s : State) (c : Sparse Byte) (block off : Nat) (word : Bool) : Bool :=
  match confSignal c block off with
  | some id => !s.typeIs id word
  | none => false

/-- Block 0x13 (R391). -/
def State.fieldBad (s : State) (c : Sparse Byte) : Bool :=
  (upTo 64).any (fun n =>
    let o := 16 * (n - 1)
    s.signalBad c 0x13 (o + 4) false || s.signalBad c 0x13 (o + 8) false || s.signalBad c 0x13 (o + 12) true) ||
  (upTo 8).any (fun g => s.signalBad c 0x13 (0x400 + 4 * (g - 1)) true) ||
  (upTo 16).any (fun i => s.signalBad c 0x13 (0x420 + 4 * (i - 1)) false)

/-- The value lies outside a range. -/
def offRange (v lo hi : Nat) : Bool := decide (v < lo ∨ hi < v)

/-- A safe input, a safe output and an instance with a value out of range, a signal of the wrong type or a wrong reset
pair (R394, R395). -/
def State.siBad (s : State) (c : Sparse Byte) (i : Nat) : Bool :=
  offRange (confSi c i 0 1) 1 64 || offRange (confSi c i 1 1) 1 64 || offRange (confSi c i 3 1) 1 200 ||
    offRange (confSi c i 4 2) 5 2000 || s.signalBad c 0x15 (0x8 + 12 * (i - 1) + 8) false

def soBadRange (c : Sparse Byte) (k : Nat) : Bool := offRange (confSo c k 0 1) 1 64 || offRange (confSo c k 1 1) 1 64

/-- A safe input is a reset pair. -/
def isResetPair (c : Sparse Byte) (i : Nat) : Bool := bitAt (confSi c i 2 1) 1 == 1

def State.ssBad (s : State) (c : Sparse Byte) (i : Nat) : Bool :=
  let f := fun (off n : Nat) => confSs c i off n
  let o := 0xE8 + 64 * (i - 1)
  offRange (f 0 1) 1 6 || offRange (f 1 1) 1 6 || offRange (f 4 1) 1 8 || decide (16 < f 5 1) || f 8 4 == 0 ||
    offRange (f 0x0C 2) 1 100 || offRange (f 0x0E 2) 5 2000 || offRange (f 0x20 4) 10 60000 ||
    (upTo 16).any (fun j => bitAt (f 2 2) (j - 1) == 1 && isResetPair c j) ||
    (f 5 1 != 0 && !isResetPair c (f 5 1)) || s.signalBad c 0x15 (o + 0x24) true || s.signalBad c 0x15 (o + 0x28) true

/-- Block 0x15 (R395); MAGIC is asked where an entry is used. -/
def State.safetyRefusal (s : State) (c : Sparse Byte) : Option Answer :=
  let used := !(usedSi c).isEmpty || !(usedSo c).isEmpty || !(usedSs c).isEmpty
  if (used ∧ confNat c 0x15 0 4 ≠ 0x5AF10001) ∨ (usedSi c).any (s.siBad c) ∨ (usedSo c).any (soBadRange c) ∨ (usedSs c).any (s.ssBad c) then
    some badRange
  else
    let outs := (usedSs c).map (fun i => confSs c i 4 1)
    let encBad := fun (e : Nat) => encField c e 0 1 == 0 ||
      (encField c e 1 1 == 1 && !(([2, 3, 4] : List Nat).contains (encField c e 10 3)))
    match (upTo 8).find? (fun k => decide (1 < outs.countP (· == k))) with
    | some k => some (.conflict 0x04 (confSo c k 0 1))
    | none => match (usedSs c).find? (fun i => confSs c i 0 1 == confSs c i 1 1) with
      | some i => some (.conflict 0x09 (confSs c i 0 1))
      | none => ((claimedEncs c).find? encBad).map (fun e => .conflict 0x09 e)

/-- An injected encoder would become claimed (R480). -/
def State.injectedClaim (s : State) (c : Sparse Byte) : Option Answer :=
  ((claimedEncs c).find? (fun e => s.fld (Reg.ENC_ESTAT_SF_CLAIMED e) == 0 && s.fiArmed (encLink e))).map (fun e =>
    .conflict 0x07 (encLink e))

/-- A setting of block 0x80 outside its range (R252). -/
def moduleBad (c : Sparse Byte) : Bool :=
  let role := confNat c blkModule 0 1
  let st := confNat c blkModule 1 1
  let idle := confNat c blkModule 8 2
  decide (2 < role) || (if role = 2 then offRange st 1 63 else st != 0) || offRange (confNat c blkModule 3 1) 1 4 ||
    decide (1 < confNat c blkModule 5 1) || offRange idle 30 3600

/-- The whole check: none where the configuration passes. -/
def State.commitRefusal (s : State) (c : Sparse Byte) : Option Answer :=
  ([refuseIf (moduleBad c) badRange, s.encClaimRefusal c, pinRefusal c, s.slackRefusal c, sourceRefusal c, ringRefusal c,
    refuseIf (s.pdBad c || s.slotsBad c) badRange, tunnelRefusal c, refuseIf (s.fieldBad c) badRange, s.safetyRefusal c, channelRefusal c,
    s.injectedClaim c].find? (·.isSome)).join

end Sys2Proof.Machine
end

