-- ==== Sys2Proof/Machine/SigRows.lean ====
section
/-! DEFINITION. Commands on signals, forces and safety functions, one meaning per row (spec/03_process_image.md R83 to R86,
spec/09_command_interface.md R251, spec/16_safety_functions.md R403 to R406). -/
namespace Sys2Proof.Machine

/-! ### SIG_READ (R251) -/

/-- The image of SIG_READ. -/
def sigImage : Nat → Option Arr
  | 0 => some .live | 1 => some .img | 2 => some .com | _ => none

/-- One signal as SIG_READ returns it, with its current age whatever the image (R75); what comes from an uncorrectable word is
zero, and its ERR bit is set. Ages lie in no coded word, so ERR[2] is never set (notes/assumptions/15.md). -/
def State.sigEntry (s : State) (ws : Sparse (Cls × DWord)) (id : Nat) : List Byte :=
  let dl := s.program.dataLoc id
  let d := sgetD (.ue, 0) ws dl.1
  let t := sgetD (.ue, 0) ws (statLoc id).1
  let v := if d.1.ok then get64 d.2 dl.2 (if s.program.isWord id then 32 else 1) else 0
  let st := if t.1.ok then get64 t.2 (statLoc id).2 8 else 0
  leBytes 4 v ++ [BitVec.ofNat 8 st, BitVec.ofNat 8 (b2n (!d.1.ok) + 2 * b2n (!t.1.ok))] ++ leBytes 2 (s.age id)

/-- SIG_READ (R251). -/
def execSigRead (r : Req) (s : State) : Out := .next <|
  s.serveAnswer ⟨0x0400, .any, fixedLen 8, allModes, false⟩ r (fun s =>
    let n := r.nat 2 2
    let first := r.nat 4 4
    match sigImage (r.nat 0 1) with
    | none => (s, .no .badLength 0xFFFE)
    | some a =>
      if n = 0 ∨ 507 < n ∨ 2 ^ 18 < first + n then (s, .no .badLength 0xFFFE)
      else
        let ids := (List.range n).map (fun i => first + i)
        let ws := (ids.map (fun i => (s.program.dataLoc i).1) ++ ids.map (fun i => (statLoc i).1)).eraseDups
        let q := s.readMany a .supervisor ws
        (q.1, .okWith (ids.flatMap (q.1.sigEntry q.2))))

/-! ### Forces (R83 to R86) -/

/-- The force table as the changes that wait will leave it: a SIG_FORCE is judged by that table. DESIGN CHOICE: the rule does
not say whether 0x0F02 is judged by it or by the table in force (notes/assumptions/43.md). -/
def State.forcesSoon (s : State) : List Force := s.img.forceWait.foldl (applyForce s.time.tick) s.img.forces

/-- The program a SIG_FORCE is judged by: while a switch is being made, the one that the switch puts in force (R61). -/
def State.forceProgram (s : State) : Image :=
  if s.ce.switchNow then ((s.slot s.otherSlot).image).getD s.program else s.program

/-- The refusal of a SIG_FORCE (R83). -/
def State.forceRefusal (s : State) (id : Nat) (word : Bool) : Option Nat :=
  let p := s.forceProgram
  match p.sig id with
  | none => some 0x0F00
  | some e =>
    if p.scope id = 0 then some 0x0F01
    else if 4096 ≤ s.forcesSoon.length ∧ !s.forcesSoon.any (fun f => f.id == id) then some 0x0F02
    else if e.word ≠ word then some 0x0F03
    else none

/-- A change of the force table waits for the next tick boundary (R84). -/
def State.waitForce (s : State) (c : ForceChange) : State := State.forceStat { s with img.forceWait := s.img.forceWait ++ [c] }

/-- SIG_FORCE (R83). -/
def execSigForce (r : Req) (s : State) : Out := .next <|
  s.serveWith ⟨0x0401, rMI, fixedLen 8, modesOf [.test], false⟩ r (fun role _ s =>
    let id := r.nat 0 4 % 2 ^ 18
    let word := bitAt (r.nat 0 4) 18 == 1
    match s.forceRefusal id word with
    | some d => s.finish 0x0401 r (.conflict 0x06 d)
    | none =>
      let f : Force := ⟨id, word, BitVec.ofNat 32 (r.nat 4 4), s.forceProgram.scope id, (role.map Role.code).getD 0, 0⟩
      (s.waitForce (.set f)).finish 0x0401 r .done)

/-- SIG_UNFORCE (R84). -/
def execSigUnforce (r : Req) (s : State) : Out := .next <|
  s.serveAnswer ⟨0x0402, rMI, fixedLen 8, modesOf [.test], false⟩ r (fun s =>
    let id := r.nat 0 4 % 2 ^ 18
    (s.waitForce (if r.nat 4 4 = 1 then .removeAll else .remove id), .done))

/-- FORCE_LIST (R86, R249): entries in ascending ID order from the first ID on. -/
def execForceList (r : Req) (s : State) : Out := .next <|
  s.serve ⟨0x0403, .any, fixedLen 4, allModes, false⟩ r (fun s =>
    let fs := s.img.forces.filter (fun f => decide (r.nat 0 4 ≤ f.id))
    s.finishChain 0x0403 r ((chunks 253 17 fs).map (fun l => l.flatMap Force.bytes)))

/-! ### Safety functions (R403 to R406) -/

/-- SF_CHECK_READ (R404). -/
def execSfCheckRead (r : Req) (s : State) : Out := .next <|
  s.serveAnswer ⟨0x0500, .any, fixedLen 0, allModes, false⟩ r (fun s =>
    let c := s.sf.confirmed.getD (0, 0)
    (s, .okWith (leBytes 4 s.sfRecomputed.toNat ++ leBytes 4 c.1.toNat ++ [BitVec.ofNat 8 (b2n s.confirmed), 0, 0, 0] ++ leBytes 4 c.2)))

/-- The confirmation changes; SF_CONFIRMED and SF_STAT follow. -/
def State.putConfirmed (s : State) (c : Option (Word × Nat)) : State :=
  (State.setFld { s with sf.confirmed := c } Reg.SF_CONFIRMED_CHECK (c.getD (0, 0)).1).flag Reg.SF_STAT_CONFIRMED c.isSome

/-- SF_CONFIRM (R403). -/
def execSfConfirm (r : Req) (s : State) : Out := .next <|
  s.serveAnswer ⟨0x0501, rI, fixedLen 4, modesOf [.stopped], false⟩ r (fun s =>
    let v := BitVec.ofNat 32 (r.nat 0 4)
    if v ≠ s.sfCheck then (s, .no .unconfirmed 0x0001)
    else ((s.supersede).putConfirmed (some (v, s.opSec)), .okWith (leBytes 4 v.toNat)))

/-- The refusal of an SF_RESET, none where it resets or finds the instance RUNNING (R406). -/
def State.sfResetRefusal (s : State) (i code : Nat) : Option Answer :=
  let st := s.ssState i
  if ¬ (1 ≤ i ∧ i ≤ 4) ∨ !s.ssUsed i then some (.no .badLength 0xFFFE)
  else if !s.confirmed ∨ st = stUnconfirmed ∨ st = stUnconfigured then some (.no .unconfirmed 0)
  else if st = stRunning then none
  else if st = stStopping then some (.no .busyStopping i)
  else if s.demand i then some (.no .lockedOut 0x0001)
  else if s.ssFault i then some (.no .lockedOut 0x0002)
  else if code ≠ (s.fld (Reg.SF_LOCKSEQ i)).toNat then some (.no .lockedOut 0x0003)
  else if !s.sdoMode then some (.no .lockedOut 0x0004)
  else none

/-- SF_RESET (R405, R406). -/
def execSfReset (r : Req) (s : State) : Out := .next <|
  s.serveAnswer ⟨0x0502, rOMI, fixedLen 8, allModes, false⟩ r (fun s =>
    let i := r.nat 0 1
    match s.sfResetRefusal i (r.nat 4 4) with
    | some a => (s.resetRefused, a)
    | none => (if s.ssState i = stRunning then s else s.setSs i stRunning, .done))

end Sys2Proof.Machine
end

