-- ==== Sys2Proof/Machine/Configure.lean ====
section
/-! DEFINITION. Putting a configuration in force: at power-up and at each accepted CFG_COMMIT the supervisor writes what the
committed configuration gives (spec/10_register_conventions.md R262 and the blocks of each chapter). -/
namespace Sys2Proof.Machine

/-! ### Registers -/

/-- A field that is RO and from the configuration (R262). -/
def State.confRo (s : State) (page off lo width : Nat) : State :=
  s.setFld (fk page off lo) (BitVec.ofNat 32 (bitsAt (s.cfg page off 4) lo width))

/-- A value waits for the next application point of its page (R263); nothing waits where it is in force. -/
def State.stage (s : State) (k : Nat) (v : Word) : State :=
  if s.fld k = v then { s with staged := serase s.staged k } else { s with staged := sput s.staged k v }

/-- The fields of a register that software configures. -/
def softFields (fs : List Field) : List Field := fs.filter (fun f => decide (f.acc = .rw ∨ f.acc = .rws))

/-- The offsets of a page's registers with such a field. -/
def configuredOffs (page : Nat) : List Nat :=
  match pageRows page with
  | none => []
  | some rows => (rows.filter (fun r => !(softFields r.fields).isEmpty)).flatMap (fun r =>
      (List.range r.count).map (fun i => r.base + i * r.stride))

/-- The supervisor writes a register with its configured value, found at `at_` of `block`, where a field of it holds or
awaits another. -/
def State.confWrite (s : State) (page off block at_ : Nat) : State :=
  let v := s.cfg block at_ 4
  if (softFields (fieldsAt page off)).all (fun f => (s.pend (fk page off f.lo)).toNat == bitsAt v f.lo f.width) then s
  else s.regWrite .supervisor page off (BitVec.ofNat 32 v)

/-- The pages whose blocks hold register values at the registers' own offsets (notes/assumptions/13.md). -/
def plainPages : List Nat := [0x03, 0x04, 0x06, 0x07, 0x08, 0x0C, 0x0D, 0x0E, 0x11, 0x17]

/-- The registers of a page from its block. -/
def State.confPage (s : State) (page : Nat) : State := (configuredOffs page).foldl (fun s o => s.confWrite page o page o) s

/-! ### Units -/

/-- ROLE and STATION (R25): the ring of the old role is left before. -/
def State.confRole (s : State) : State :=
  let role := s.cfg blkModule 0 1
  let st := s.cfg blkModule 1 1
  if role = s.role ∧ st = s.station then s
  else
    let s := (upTo 63).foldl (fun s n => s.setEnable (.brg n) false) s
    let s := s.setEnable .ridge false
    (s.setFld Reg.SYS_MODE_ROLE (BitVec.ofNat 32 role)).setFld Reg.SYS_MODE_STATION (BitVec.ofNat 32 st)

/-- The RO fields of R262 outside the pages below. -/
def State.confFields (s : State) : State :=
  let s := (s.confRo 0x02 0x010 0 16).confRo 0x02 0x010 16 16
  let s := s.confRo 0x01 0x010 0 8
  let s := (s.confRo 0x18 0x01C 0 16).confRo 0x18 0x01C 16 2
  let s := (s.confRo 0x08 0x008 0 8).confRo 0x08 0x018 0 1
  let s := ((s.confRo 0x10 0x000 8 8).confRo 0x10 0x000 16 3).confRo 0x10 0x000 19 5
  let s := s.confRo 0x10 0x000 24 8
  ((s.confRo 0x12 0x000 8 6).confRo 0x12 0x000 16 6).flag Reg.COL_CTRL_ENABLE s.pairMember

/-- RNG_CFGn.AGENT (R275). -/
def State.confAgents (s : State) : State :=
  (List.range 32).foldl (fun (s : State) n => s.setFld (Reg.RNG_CFG_AGENT n) (BitVec.ofNat 32 (confAgent s.cmd.config n))) s

/-- A field channel (R376, R391): its value applies at the next field scan. A channel of a safety function has the filter
of its safe input, or 1, and CHANNEL diagnostics. -/
def State.confChannel (s : State) (n : Nat) : State :=
  let c := s.cmd.config
  let x := confNat c 0x13 (16 * (n - 1)) 4
  let si := (usedSi c).find? (fun i => confSi c i 0 1 == n || confSi c i 1 1 == n)
  let claim := si.isSome || (soChans c).contains n
  let w := fun (v : Nat) => BitVec.ofNat 32 v
  let s := s.flag (Reg.FCH_STAT_SF_CLAIMED n) claim
  let s := (s.stage (Reg.FCH_CFG_MODE n) (w (confMode c n))).stage (Reg.FCH_CFG_PARTNER n) (w (bitsAt x 14 6))
  if claim then
    let f := match si with
      | some i => confSi c i 3 1
      | none => 1
    ((s.stage (Reg.FCH_CFG_FILTER n) (w f)).stage (Reg.FCH_CFG_DIAG n) 2).flag (Reg.FCH_CFG_ENABLE n) true
  else
    let s := (s.stage (Reg.FCH_CFG_FILTER n) (w (bitsAt x 4 8))).stage (Reg.FCH_CFG_DIAG n) (w (bitsAt x 12 2))
    s.setEnable (.fch n) (bitAt x 0 == 1)

/-- COMPAT of the channels, and the train-line groups of block 0x13 (R391). -/
def State.confFieldUnit (s : State) : State :=
  let s := (upTo 64).foldl (fun s n => s.confChannel n) s
  let s := s.flag (fk 0x13 0 31) (bitAt (s.cfg 0x13 0 4) 31 == 1)
  (List.range 4).foldl (fun s t => s.confWrite 0x14 (0x40 + 4 * t) 0x13 (0x460 + 4 * t)) s

/-- The safety parameter block: what the unit uses, its check, the encoders it claims; a changed block is unconfirmed
(R394, R403). -/
def State.confSafety (s : State) : State :=
  let c := s.cmd.config
  let b := (List.range 488).foldl (fun (m : Sparse Byte) i => ssetD 0 m i (confByte c 0x15 i)) []
  let changed := b != s.sf.block
  let s := { s with sf.block := b }
  let s := (upTo 6).foldl (fun (s : State) e => s.flag (Reg.ENC_ESTAT_SF_CLAIMED e) ((claimedEncs c).contains e)) s
  let s := s.setFld Reg.SF_CHECK_CHECK s.sfCheck
  if changed then s.putConfirmed none else s

/-- The sources and destinations of signals (R77, R88). A source that a signal is newly given has not delivered yet, so the
signal has no age (R75). -/
def State.confMaps (s : State) : State :=
  let c := s.cmd.config
  let m := (confSources c s.role s.station).foldl (fun (m : Sparse Src) e => sput m e.1 e.2) []
  let same := fun (id : Nat) => decide (sget m id = sget s.img.srcOf id)
  { s with img.srcOf := m, img.dstOf := confDests c s.role s.station,
           img.delivered := s.img.delivered.filter (fun e => same e.1) }

/-- The committed configuration is put in force. -/
def State.applyConfig (s : State) : State :=
  let s := s.confRole.confFields.confAgents
  let s := plainPages.foldl (fun s p => s.confPage p) s
  let s := [0x09, 0x0A, 0x0B, 0x10].foldl (fun s p => s.confWrite p 0 p 0) s
  let s := (s.setFld Reg.TPD_STAT_PUBS (BitVec.ofNat 32 (min 2048 (s.cfg 0x09 4 2)))).setFld Reg.TPD_STAT_SUBS
    (BitVec.ofNat 32 (min 4096 (s.cfg 0x09 6 2)))
  s.confFieldUnit.confSafety.confMaps

/-! ### CFG_COMMIT (R252) -/

/-- The partition of parameter sets, in the row order of R440. -/
def parameterPartition : Nat := 3

/-- The role keys of block 0x81 that differ between two configurations. -/
def changedRoles (a b : Sparse Byte) : List Role :=
  let key := fun (c : Sparse Byte) (o : Nat) => confNat c blkKeys o 32
  (if key a 0x20 = key b 0x20 then [] else [Role.operator]) ++ (if key a 0x40 = key b 0x40 then [] else [Role.maintainer]) ++
    (if key a 0x60 = key b 0x60 then [] else [Role.integrator])

/-- Sessions of a role whose key has changed are closed. -/
def State.closeRoles (s : State) (rs : List Role) : State :=
  ((s.cmd.desk.sessions.filter (fun x => decide (x.role ∈ rs))).map (·.num)).foldl (fun s n => s.endSession false n) s

/-- An edit that has passed becomes the committed configuration, and the module returns to STOPPED. -/
def State.commitEdit (s : State) : State :=
  match s.cmd.edit with
  | none => s
  | some e =>
    let old := s.cmd.config
    let s := State.countErase { s with cmd.config := e.bytes } parameterPartition
    let s := (s.dropEdit.applyConfig).changeMode .stopped .config
    s.closeRoles (changedRoles old e.bytes)

end Sys2Proof.Machine
end

