-- ==== Sys2Proof/Machine/CfgRows.lean ====
section
/-! DEFINITION. Configuration commands, one meaning per row (spec/09_command_interface.md R252). -/
namespace Sys2Proof.Machine

/-- The size of a configuration block, none where there is none (R252, R451). -/
def blockSize (b : Nat) : Option Nat :=
  if b = 0x80 then some 0x10
  else if b = 0x81 then some 0x80
  else if b = 0x82 then some 0x40
  else if b ≤ 0x1A ∧ b ≠ 0x0F then some 0x100000
  else none

/-- A range of a block is not there. -/
def confRangeBad (block off len : Nat) : Bool :=
  match blockSize block with
  | some n => decide (n < off + len)
  | none => true

/-- The edit belongs to the session of a request. -/
def State.ownsEdit (s : State) (r : Req) : Bool :=
  s.cmd.edit.any (fun e => e.owner == r.session && e.transport == r.transport)

/-- CFG_OPEN: the committed configuration is copied, and the module enters CONFIG. -/
def State.cfgOpen (s : State) (r : Req) : State :=
  let s := s.supersede
  let s := { s with cmd.edit := some ⟨r.session, r.transport, s.cmd.config⟩ }.flag Reg.CMD_STAT_CFG_EDIT true
  (s.changeMode .config .config).finish 0x0200 r (.okWith (leBytes 4 s.cfgCheck.toNat))

/-- CFG_OPEN (R252): while another session owns the edit buffer it is BUSY. -/
def execCfgOpen (r : Req) (s : State) : Out := .next <|
  s.serve ⟨0x0200, rMI, fixedLen 0, modesOf [.stopped, .config], false⟩ r (fun s =>
    if s.mode = .config then
      s.finish 0x0200 r (if s.ownsEdit r then .no .notInMode s.mode.code else .no .busy 0xFFFB)
    else s.cfgOpen r)

/-- Bytes are put into the edit buffer; KEY_SET is read only. -/
def State.editBytes (s : State) (block off : Nat) (b : List Byte) : State :=
  match s.cmd.edit with
  | none => s
  | some e =>
    let put := fun (m : Sparse Byte) (x : Nat × Byte) =>
      if block = blkKeys ∧ x.1 < 4 then m else ssetD (confDefault block x.1) m (cfgKey block x.1) x.2
    let bytes := ((List.range b.length).map (off + ·) |>.zip b).foldl put e.bytes
    { s with cmd.edit := some { e with bytes := bytes } }

/-- CFG_WRITE (R252, R451): while the edit is being committed it is not changed. -/
def execCfgWrite (r : Req) (s : State) : Out := .next <|
  s.serveWith ⟨0x0201, rMI, lenBetween 9 4064, modesOf [.config], false⟩ r (fun role _ s =>
    let block := r.nat 0 2
    let off := r.nat 4 4
    let b := r.payload.drop 8
    if !s.ownsEdit r then s.finish 0x0201 r (.no .busy 0xFFFB)
    else if s.cmd.longOp.any (fun l => l.opcode == 0x0203) then s.finish 0x0201 r (.no .busy 0x0203)
    else if confRangeBad block off b.length then s.finish 0x0201 r badRange
    else if (block = 0x81 ∨ block = 0x82) ∧ role ≠ some .integrator then s.finish 0x0201 r (.no .authFail 0x0004)
    else (s.editBytes block off b).finish 0x0201 r .done)

/-- A byte as CFG_READ returns it: keys are zero, KEY_SET tells which are set. -/
def readConf (c : Sparse Byte) (block off : Nat) : Byte :=
  if block ≠ blkKeys then confByte c block off
  else if off ≠ 0 then 0
  else
    let isSet := fun (o : Nat) => b2n (confNat c blkKeys o 32 != 0)
    BitVec.ofNat 8 (isSet 0x20 + 2 * isSet 0x40 + 4 * isSet 0x60)

/-- CFG_READ (R252). -/
def execCfgRead (r : Req) (s : State) : Out := .next <|
  s.serveAnswer ⟨0x0202, .any, fixedLen 12, allModes, false⟩ r (fun s =>
    let block := r.nat 0 2
    let off := r.nat 4 4
    let len := r.nat 8 4
    let source := if r.nat 2 1 = 0 then some s.cmd.config else s.cmd.edit.map (·.bytes)
    if 1 < r.nat 2 1 ∨ len = 0 ∨ 4056 < len ∨ confRangeBad block off len then (s, badRange)
    else match source with
      | none => (s, .no .notInMode s.mode.code)
      | some c => (s, .okWith ((List.range len).map (fun i => readConf c block (off + i)))))

/-- The answer of a commit: the first check that fails, STORE_ERROR where the flash write fails (R440), or the new
configuration check. -/
def State.commitAnswer (s : State) (c : Sparse Byte) (flash : Bool) : Answer :=
  match s.commitRefusal c with
  | some a => a
  | none => if flash then .okWith (leBytes 4 (Config.cfgCheck c).toNat) else .no .storeError 0x0002

/-- CFG_COMMIT (R252): the whole edit is checked; the commit takes place when the operation ends (R239, R240). `flash` is
false where the flash write fails. -/
def execCfgCommit (r : Req) (flash : Bool) (s : State) : Out := .next <|
  s.serve ⟨0x0203, rMI, fixedLen 0, modesOf [.config], true⟩ r (fun s =>
    match s.cmd.edit with
    | none => s.finish 0x0203 r (.no .notInMode s.mode.code)
    | some e =>
      if !s.ownsEdit r then s.finish 0x0203 r (.no .busy 0xFFFB)
      else s.beginLong 0x0203 r true (s.commitAnswer e.bytes flash))

end Sys2Proof.Machine
end

