-- ==== Sys2Proof/Machine/Cairn.lean ====
section
/-! DEFINITION. The Cairn event recorder: records, intake, storage, streaming, and the care of the Flash Store
(spec/18_event_recorder.md). -/
namespace Sys2Proof.Machine

/-! ### Records (R429, R430) -/

def Severity.code : Severity → Nat
  | .info => 0 | .warn => 1 | .fault => 2 | .critical => 3

def RecClass.code : RecClass → Nat
  | .d => 0 | .o => 1

/-- The 64 bytes of a record (R430). -/
def Record.bytes (r : Record) : List Byte :=
  let f := r.first
  let flags := b2n f.unset + 2 * b2n r.sat + 4 * b2n f.standby + 16 * f.mode
  let body := leBytes 4 r.seq ++ leBytes 1 f.cls.code ++ leBytes 1 f.sev.code ++ leBytes 2 f.code ++ leBytes 2 f.source ++
    leBytes 2 r.rep ++ leBytes 4 flags ++ leBytes 8 f.time ++ leBytes 8 r.timeLast ++
    (r.payload ++ List.replicate 28 0).take 28
  body ++ leBytes 4 (crc32c body).toNat

/-- The records a partition holds (R436). -/
def RecClass.capacity : RecClass → Nat
  | .d => 12582912 | .o => 4194304

/-- A class of the recorder. -/
def State.cairnOf (s : State) : RecClass → CairnClass
  | .d => s.cairn.d | .o => s.cairn.o

/-- The oldest stored SEQ; with nothing stored, the next one. -/
def CairnClass.oldest (c : CairnClass) : Nat :=
  match c.stored with
  | r :: _ => r.seq
  | [] => c.next

/-- Replace a class; the sequence registers and FULL follow. -/
def State.setCairn (s : State) (k : RecClass) (c : CairnClass) : State :=
  let w := fun (n : Nat) => BitVec.ofNat 32 n
  let full := decide (k.capacity ≤ c.stored.length)
  match k with
  | .d => ((State.setFld { s with cairn.d := c } Reg.LOG_SEQD (w c.next)).setFld Reg.LOG_OLDD (w c.oldest)).flag
      Reg.LOG_STAT_FULL_D full
  | .o => ((State.setFld { s with cairn.o := c } Reg.LOG_SEQO (w c.next)).setFld Reg.LOG_OLDO (w c.oldest)).flag
      Reg.LOG_STAT_FULL_O full

/-! ### Streaming (R439) -/

/-- The ring that streams a class: of the IN rings of agent code 0x09 the lower-numbered for D, the higher for O. -/
def State.streamRing (s : State) (k : RecClass) : Option Nat :=
  let rs := (List.range 32).filter (fun n => s.fld (Reg.RNG_CFG_AGENT n) == 9 && s.ringIsIn n)
  match k with
  | .d => rs.head?
  | .o => rs.getLast?

/-- Place a record in the streaming ring of its class. -/
def State.streamRecord (s : State) (r : Record) (closed : Bool) : State :=
  let k := r.first.cls
  let on := match k with
    | .d => s.fld Reg.LOG_CTRL_STREAM_D == 1 && decide ((s.fld Reg.LOG_CTRL_MINSEV_D).toNat ≤ r.first.sev.code)
    | .o => s.fld Reg.LOG_CTRL_STREAM_O == 1 && decide ((s.fld Reg.LOG_CTRL_MINSEV_O).toNat ≤ r.first.sev.code)
  match s.streamRing k with
  | some n =>
    if on then s.ringIn n 9 ⟨r.bytes, 0, BitVec.ofNat 32 r.seq, BitVec.ofNat 32 (k.code + 2 * b2n closed)⟩ else s
  | none => s

/-! ### Intake (R432 to R436) -/

/-- The open record of a class. -/
def CairnClass.openRec (c : CairnClass) : Option Record := if c.isOpen then c.stored.getLast? else none

/-- The record merges into the open one (R432). -/
def Record.merges (o : Record) (r : Report) : Bool :=
  decide (o.first.cls = r.cls) && o.first.code == r.code && o.first.source == r.source && decide (o.first.sev = r.sev) &&
    o.first.unset == r.unset

/-- One more occurrence of a record. -/
def Record.again (o : Record) (r : Report) : Record :=
  { o with rep := min 0xFFFF (o.rep + 1), sat := o.sat || decide (0xFFFF ≤ o.rep), timeLast := r.time, payload := r.payload }

/-- The open record of a class is closed (R433); one with repeats is streamed once more. -/
def State.closeOpen (s : State) (k : RecClass) : State :=
  let c := s.cairnOf k
  let s := match c.openRec with
    | some o => if o.rep = 0 then s else s.streamRecord o true
    | none => s
  s.setCairn k { c with isOpen := false }

/-- Room for a record of a severity in a full partition: the oldest record of its severity or below goes (R436). -/
def makeRoom (sev : Nat) : List Record → Option (List Record)
  | [] => none
  | r :: t => if r.first.sev.code ≤ sev then some t else (makeRoom sev t).map (r :: ·)

/-- A new record gets the next SEQ and is stored, or dropped where its partition is full (R432, R434, R436). -/
def State.newRecord (s : State) (r : Report) : State :=
  let s := s.closeOpen r.cls
  let c := s.cairnOf r.cls
  let x : Record := ⟨c.next, r, 0, false, r.time, r.payload⟩
  let c := { c with next := c.next + 1 }
  if c.stored.length < r.cls.capacity then
    (s.setCairn r.cls { c with stored := c.stored ++ [x], isOpen := true }).streamRecord x false
  else match makeRoom r.sev.code c.stored with
    | some rest =>
      (s.setCairn r.cls { c with stored := rest ++ [x], isOpen := true, overwritten := c.overwritten + 1 }).streamRecord x false
    | none => (s.setCairn r.cls c).dropRecord r.cls

/-- Cairn takes one record (R432). -/
def State.takeRecord (s : State) (r : Report) : State :=
  let c := s.cairnOf r.cls
  match c.openRec with
  | some o =>
    if o.merges r then
      (s.setCairn r.cls { c with stored := c.stored.dropLast ++ [o.again r] }).bump Reg.LOG_REPCNT
    else s.newRecord r
  | none => s.newRecord r

/-- The next record of the intake queues: of the lowest subsystem number first. -/
def State.intakeOne (s : State) : State :=
  match s.cairn.intake.find? (fun e => !e.2.isEmpty) with
  | some (sub, r :: t) => State.takeRecord { s with cairn.intake := ssetD [] s.cairn.intake sub t } r
  | _ => s

/-- Everything in the intake queues is taken. -/
def State.intakeAll (s : State) : State :=
  Nat.repeat State.intakeOne (s.cairn.intake.foldl (fun n e => n + e.2.length) 0) s

/-- CAIRN_RECORD_INTAKE (R432). -/
def execCairnRecordIntake (s : State) : Out := .next s.intakeOne

/-- LOG_SOURCE_DROP (R435): for each subsystem with drops in the minute. -/
def execLogSourceDrop (s : State) : Out := .next <|
  s.cairn.dropped.foldl (fun (s : State) e => s.report .d .warn 0x0E01 (srcNo 14 e.1) (leBytes 4 e.2))
    { s with cairn.dropped := [] }

/-! ### The Flash Store (R440, R441) -/

/-- Powered time and calendar time after which a refresh is due. -/
def refreshSeconds : Nat := 8760 * 3600
def refreshDays : Nat := 365 * 86400 * 1000000000

/-- A refresh of a partition is due. -/
def State.refreshDue (s : State) (part : Nat) : Bool :=
  decide (sgetD 0 s.cairn.refreshed part + refreshSeconds ≤ s.opSec) ||
    (s.time.utcValid && (match sget s.cairn.refreshedUtc part with
      | some t => decide (t + refreshDays ≤ s.time.utc)
      | none => false)) || s.cairn.dueNow.contains part

/-- The refreshed partitions: the four static ones and Cairn's; the loader only during SELFTEST. -/
def State.refreshable (s : State) (part : Nat) : Bool := decide (part ≤ 4) && (part != 0 || decide (s.mode = .selftest))

/-- FLASH_REFRESH (R441): a due partition is copied, verified and switched in; `ok` false where that fails. -/
def execFlashRefresh (part : Nat) (ok : Bool) (s : State) : Out := .next <|
  if !s.refreshable part ∨ !s.refreshDue part then s
  else
    let s := s.setFld Reg.LOG_STAT_REFRESH_PART (BitVec.ofNat 32 part)
    if ok then
      let now := s.opSec
      let c := { s.cairn with refreshed := sput s.cairn.refreshed part now, lastRefresh := now,
                              dueNow := s.cairn.dueNow.filter (· != part),
                              refreshedUtc := if s.time.utcValid then sput s.cairn.refreshedUtc part s.time.utc else s.cairn.refreshedUtc }
      ((State.countErase (State.countErase { s with cairn := c } part) 6).bump Reg.LOG_REFRESHCNT).flag Reg.LOG_EVT_REFRESH_DONE true
    else (s.flag Reg.LOG_EVT_REFRESH_ERR true).report .o .fault (evCode 14 441 0) (srcNo 14 part) [BitVec.ofNat 8 part]

/-- FLASH_RETENTION_SCAN (R441, R473): the corrected bits per 1 KiB it found, and whether a block is near its correction
limit. -/
def execFlashRetentionScan (part bits : Nat) (near : Bool) (s : State) : Out := .next <|
  let s := { s with cairn.corrected := ssetD 0 s.cairn.corrected part bits }
  if near ∧ !s.cairn.dueNow.contains part then { s with cairn.dueNow := s.cairn.dueNow ++ [part] } else s

/-! ### LOG_INFO and LOG_READ (R437, R438) -/

/-- A class block of LOG_INFO. -/
def State.logBlock (s : State) (k : RecClass) (dropped : Word) : List Byte :=
  let c := s.cairnOf k
  leBytes 4 k.capacity ++ leBytes 4 c.stored.length ++ leBytes 4 c.oldest ++ leBytes 4 c.next ++
    leBytes 2 (match c.openRec with | some o => o.rep | none => 0) ++ [0, 0] ++ leBytes 4 dropped.toNat ++
    leBytes 4 c.overwritten ++ leBytes 4 0

/-- LOG_INFO (R438). -/
def execLogInfo (r : Req) (s : State) : Out := .next <|
  s.serveAnswer ⟨0x0600, .any, fixedLen 0, allModes, false⟩ r (fun s =>
    (s, .okWith (s.logBlock .d (s.fld Reg.LOG_DROPCNT_D) ++ s.logBlock .o (s.fld Reg.LOG_DROPCNT_O) ++
      leBytes 4 s.cairn.lastRefresh ++ leBytes 4 (s.regNat 0x17 0x004))))

/-- What LOG_READ answers for a class (R437). -/
def CairnClass.read (c : CairnClass) (first count : Nat) : Answer :=
  let next := c.next % 2 ^ 32
  let d := (next + 2 ^ 32 - first) % 2 ^ 32
  let rs := (c.stored.filter (fun x => decide (c.next ≤ x.seq + d))).take count
  if d = 0 then .okWith (leBytes 4 first ++ leBytes 8 0)
  else if 2 ^ 31 ≤ d then .no .badLength 0xFFFE
  else match rs.head?, rs.getLast? with
    | some a, some z =>
      .okWith (leBytes 4 a.seq ++ leBytes 4 (d + z.seq + 1 - c.next - rs.length) ++ leBytes 2 rs.length ++ [0, 0] ++
        rs.flatMap Record.bytes)
    | _, _ => .okWith (leBytes 4 next ++ leBytes 4 d ++ leBytes 4 0)

/-- LOG_READ (R437). -/
def execLogRead (r : Req) (s : State) : Out := .next <|
  s.serveAnswer ⟨0x0601, .any, fixedLen 8, allModes, false⟩ r (fun s =>
    let n := r.nat 2 2
    if 1 < r.nat 0 1 ∨ n = 0 ∨ 63 < n then (s, .no .badLength 0xFFFE)
    else (s, (s.cairnOf (if r.nat 0 1 = 0 then .d else .o)).read (r.nat 4 4) n))

end Sys2Proof.Machine
end

