-- ==== Sys2Proof/Machine/UpdRows.lean ====
section
/-! DEFINITION. Firmware images and the update commands, one meaning per row (spec/19_firmware_update.md R442 to R449). -/
namespace Sys2Proof.Machine

/-! ### The image (R442, R443) -/

/-- What a verifier asks: MAGIC, the largest body, its public key and its version counter. -/
structure FwRules where
  magic : Nat
  maxLen : Nat
  key : List Byte
  counter : Nat
  deriving DecidableEq, Repr

/-- Fields of a header. -/
def hdrSvn (h : List Byte) : Nat := fieldAt h 6 1
def hdrVersion (h : List Byte) : Word := BitVec.ofNat 32 (fieldAt h 8 4)
def hdrLength (h : List Byte) : Nat := fieldAt h 0x0C 4
def hdrBlocks (h : List Byte) : Nat := fieldAt h 0x10 2

/-- The bytes of a body block, and a match with its BLOCK_CRC entry. -/
def bodyBlock (body : List Byte) (b : Nat) : List Byte := (body.drop (b * 65536)).take 65536
def blockOk (h body : List Byte) (b : Nat) : Bool := (crc32c (bodyBlock body b)).toNat == fieldAt h (0x40 + 4 * b) 4

/-- Tests 1 to 3 of R443 on a header: the number of the first that fails, 0 none. -/
def headerTest (x : FwRules) (h : List Byte) : Nat :=
  let zero := fun (off n : Nat) => allZero ((h.drop off).take n)
  if fieldAt h 0 4 ≠ x.magic ∨ fieldAt h 4 2 ≠ 1 then 1
  else if hdrLength h = 0 ∨ x.maxLen < hdrLength h ∨ hdrBlocks h ≠ (hdrLength h + 65535) / 65536 then 2
  else if !zero 7 1 ∨ !zero 0x12 46 ∨ !zero 0x480 896 then 3
  else 0

/-- The signature of an image (R442). -/
def signatureOk (x : FwRules) (h body : List Byte) : Bool :=
  edVerify x.key (h.take 0x440 ++ List.replicate 64 0 ++ h.drop 0x480 ++ body) ((h.drop 0x440).take 64)

/-- The first test of R443 that fails, 0 none, and its block. -/
def imageTest (x : FwRules) (h body : List Byte) : Nat × Nat :=
  match headerTest x h with
  | 0 => match (List.range (hdrBlocks h)).find? (fun b => !blockOk h body b) with
    | some b => (4, b)
    | none => if !signatureOk x h body then (5, 0) else if hdrSvn h < x.counter then (6, 0) else (0, 0)
  | n => (n, 0)

/-- The supervisor's rules, and Trig's (R442 to R444, R452). -/
def State.supRules (s : State) : FwRules := ⟨0x5A465701, 16711680, s.sup.romKey, s.sup.fwCounter⟩

/-! ### Common to both targets (R445, R446, R452) -/

/-- The refusal of a header at UPD_BEGIN. -/
def beginRefusal (x : FwRules) (h : List Byte) : Option Answer :=
  let m := fieldAt h 0 4
  if m ≠ x.magic ∧ (m = 0x5A465701 ∨ m = 0x5A465702) then some (.no .badOpcode 0)
  else if headerTest x h ≠ 0 then some badRange
  else if hdrSvn h < x.counter then some (.no .versionDown x.counter)
  else none

/-- The chunk of an UPD_BLOCK request cannot be taken. -/
def chunkBad (u : Update) (off : Nat) (b : List Byte) : Bool :=
  let len := hdrLength u.header
  decide (off ≠ u.body.length ∨ len < off + b.length ∨ 4032 < b.length) || (b.length % 64 != 0 && off + b.length != len)

/-- A chunk is appended: the blocks it completes are checked, and at the first that fails the body returns to its start
(R446). -/
def appendChunk (u : Update) (b : List Byte) : Update × Answer :=
  let old := u.body.length
  let body := u.body ++ b
  let done := fun (n k : Nat) => decide ((k + 1) * 65536 ≤ n ∨ n = hdrLength u.header)
  let fresh := (List.range (hdrBlocks u.header)).filter (fun k => done body.length k && !done old k)
  match fresh.find? (fun k => !blockOk u.header body k) with
  | some k => ({ u with body := body.take (k * 65536) }, .no .signatureBad (1 + k))
  | none => ({ u with body := body }, .done)

/-- What UPD_ACTIVATE asks of the download: complete, and valid as read back (R445). -/
def activateRefusal (x : FwRules) (u : Update) (op : Nat) : Option Answer :=
  if u.body.length ≠ hdrLength u.header then some (.no .notInMode op)
  else match imageTest x u.header u.body with
    | (0, _) => none
    | (4, b) => some (.no .signatureBad (1 + b))
    | (6, _) => some (.no .versionDown x.counter)
    | _ => some (.no .signatureBad 0)

/-! ### The supervisor's own image -/

/-- The firmware partition, in the row order of R440. -/
def firmwarePartition : Nat := 1

/-- The modes of the update commands: RECOVERY in place of STOPPED and of UPDATE (R449). -/
def updModes (m : Mode) : Mode → Bool := modesOf [m, .recovery]

/-- The update belongs to the session of a request. -/
def ownsUpdate (u : Option Update) (r : Req) : Bool := u.any (fun x => x.owner == r.session && x.transport == r.transport)

/-- UPD_BEGIN (R445). -/
def execUpdBegin (r : Req) (s : State) : Out := .next <|
  s.serve ⟨0x0700, rI, fixedLen 2048, updModes .stopped, false⟩ r (fun s =>
    if s.sup.update.isSome ∧ !ownsUpdate s.sup.update r then s.finish 0x0700 r (.no .busy 0xFFFB)
    else match beginRefusal s.supRules r.payload with
      | some a => s.finish 0x0700 r a
      | none =>
        let s := s.supersede
        let s := { s with sup.update := some ⟨r.session, r.transport, r.payload, []⟩ }
        let s := if s.mode = .stopped then s.changeMode .update .update else s
        s.finish 0x0700 r (.okWith (leBytes 1 s.sup.fwCounter ++ leBytes 1 (hdrSvn r.payload) ++ [0, 0])))

/-- UPD_BLOCK (R445, R446): `flash` false where a flash write fails that the chunk brings about, the erasure of the header
block or the write of a body block it completes (R440). -/
def execUpdBlock (r : Req) (flash : Bool) (s : State) : Out := .next <|
  s.serve ⟨0x0701, rI, lenBetween 5 4036, updModes .update, false⟩ r (fun s =>
    let off := r.nat 0 4
    let b := r.payload.drop 4
    match s.sup.update, ownsUpdate s.sup.update r with
    | some u, true =>
      if chunkBad u off b then s.finish 0x0701 r badRange
      else
        let first := decide (s.sup.fwStore ≠ .erased)
        let s := if first then State.countErase { s with sup.fwStore := .erased } firmwarePartition else s
        let q := appendChunk u b
        let full := decide (u.body.length / 65536 < q.1.body.length / 65536 ∨ q.1.body.length = hdrLength u.header)
        if !flash ∧ (first ∨ full) then s.finish 0x0701 r (.no .storeError 0x0002)
        else { s with sup.update := some q.1 }.finish 0x0701 r q.2
    | _, _ => s.finish 0x0701 r (.no .busy 0xFFFB))

/-- The header is written; the reply, and the restart that it announces, come when the long operation ends (R239, R447). -/
def State.activate (s : State) (r : Req) : State :=
  match s.sup.update with
  | none => s.finish 0x0702 r (.no .busy 0xFFFB)
  | some u =>
    let s := State.beginLong { s with sup.update := none, sup.fwStore := .image u.header u.body,
                                      sup.fwOld := some (s.sup.fwVersion, s.sup.fwSvn) } 0x0702 r true .done
    s.countErase firmwarePartition

/-- UPD_ACTIVATE (R445, R447, R448): a refused step 0 leaves UPDATE; `flash` false where the header write fails. -/
def execUpdActivate (r : Req) (flash : Bool) (s : State) : Out := .next <|
  s.serveWith ⟨0x0702, rI, fixedLen 4, updModes .update, true⟩ r (fun _ armed s =>
    match s.sup.update, ownsUpdate s.sup.update r with
    | some u, true =>
      let refused := activateRefusal s.supRules u 0x0701
      let s' := s.twoSteps 0x0702 r armed (fun s => (refused, s)) (fun s =>
        if flash then s.activate r else s.finish 0x0702 r (.no .storeError 0x0002))
      if refused.isSome ∧ r.nat 0 2 = 0 ∧ r.nat 2 2 = 0 then s'.leaveUpdate else s'
    | _, _ => s.finish 0x0702 r (.no .busy 0xFFFB))

end Sys2Proof.Machine
end

