-- ==== Sys2Proof/Machine/PairCmdRows.lean ====
section
/-! DEFINITION. Commands on the pair and on lanes, one meaning per row (spec/14_pair_redundancy.md R360, R373,
spec/06_triad_and_voting.md R189). -/
namespace Sys2Proof.Machine

/-! ### PAIR_ROLE (R360) -/

/-- The refusals of PAIR_ROLE that need no HELLO. -/
def State.pairRoleRefusal (s : State) (role : Nat) : Option Answer :=
  if role ≠ 2 then some badRange
  else if !s.pairMember then some (.no .notInMode 0x0801)
  else if s.anyRetired then some (.no .lockedOut 0x0001)
  else s.colInjected.map (fun l => .conflict 0x07 l)

/-- PAIR_ROLE (R360, R480): it goes on with the partner's HELLO, and fails after 20 ms without one. -/
def execPairRole (r : Req) (s : State) : Out := .next <|
  s.serve ⟨0x0800, rMI, fixedLen 4, modesOf [.stopped], true⟩ r (fun s =>
    match s.pairRoleRefusal (r.nat 0 1) with
    | some a => s.finish 0x0800 r a
    | none =>
      let s := s.supersede.beginLong 0x0800 r false .done
      let s := if s.col.partner.isNone ∧ s.colState = colAlone then s.setColState colSeeking else s
      s.pairRoleGo)

/-! ### PAIR_SWAP (R373) -/

/-- The unit is one of a synchronised pair. -/
def State.inPair (s : State) : Bool :=
  (s.colState == colSyncActive && decide (s.mode = .run)) || (s.colState == colSyncStandby && decide (s.mode = .standby))

/-- The active sets the swap tick: its tick now plus 8. -/
def State.setSwap (s : State) : State :=
  { s with col.swapAt := some ((s.time.tick + 8) % 2 ^ 32) }.flag Reg.COL_STAT_SWAP_PENDING true

/-- Step 1: the active sets the tick, the standby asks it to with a MSG frame of its own. -/
def State.swapGo (s : State) (r : Req) : State :=
  let s := s.beginLong 0x0801 r false .done
  if s.colState = colSyncActive then s.setSwap
  else s.colSend 0x09 ({ r with target := 0xFF, session := 0, auth := false, mac := [], payload := [] }.packet 0x0801)

/-- A PAIR_SWAP that the standby itself sends its active. -/
def partnerSwap (r : Req) : Bool := r.forwarded && r.transport == 5 && r.session == 0

/-- PAIR_SWAP (R373): dangerous (R248). -/
def execPairSwap (r : Req) (s : State) : Out := .next <|
  if partnerSwap r then (if s.colState = colSyncActive ∧ s.mode = .run ∧ s.col.swapAt = none then s.setSwap else s)
  else s.serveWith ⟨0x0801, rMI, fixedLen 4, modesOf [.run, .standby], true⟩ r (fun _ armed s =>
    s.twoSteps 0x0801 r armed (fun s => (if s.inPair then none else some (.no .notInMode 0x0808), s)) (fun s => s.swapGo r))

/-! ### LANE_RESTORE (R189) -/

/-- The refusal of a LANE_RESTORE. -/
def State.restoreRefusal (s : State) (n : Nat) : Option Answer :=
  match laneOf n with
  | none => some badRange
  | some l =>
    if !(s.cv.log l).retired then some (.no .lockedOut 0x0002)
    else if s.laneState l ≠ 4 then some (.no .lockedOut 0x0001)
    else none

/-- The lane is retired no longer, its history is cleared, and it is reloaded from the other two (R183). -/
def State.restoreLane (s : State) (l : Lane) : State :=
  let s := (s.setLaneLog l ⟨false, 0, [], none⟩).beginReload l
  ((s.failWindow l).setDegLeft s.degLimit).report .o .info (evCode 2 189 0) (srcNo 2 l.code) [BitVec.ofNat 8 l.code]

/-- LANE_RESTORE (R189): dangerous (R248); it replies when the reload has ended and the lane votes. -/
def execLaneRestore (r : Req) (s : State) : Out := .next <|
  s.serveWith ⟨0x0802, rI, fixedLen 8, modesOf [.stopped], true⟩ r (fun _ armed s =>
    s.twoSteps 0x0802 r armed (fun s => (s.restoreRefusal (r.nat 4 1), s)) (fun s =>
      match laneOf (r.nat 4 1) with
      | some l => (s.supersede.restoreLane l).beginLong 0x0802 r false .done
      | none => s.finish 0x0802 r badRange))

end Sys2Proof.Machine
end

