-- ==== Sys2Proof/Machine/AgeRows.lean ====
section
/-! DEFINITION. Ageing and margin commands, one meaning per row (spec/20_power_clock_ageing.md R466 to R473). -/
namespace Sys2Proof.Machine

/-! ### AGE_REPORT (R473) -/

/-- The head and the bytes of a section. -/
def section_ (n : Nat) (b : List Byte) : List Byte := [BitVec.ofNat 8 n, 0] ++ leBytes 2 b.length ++ b

/-- Section 1: canaries, drift and state of a lane. -/
def State.laneSection (s : State) (l : Lane) : List Byte :=
  let drift := s.pwr.drift.getD l.code 0
  (List.range 4).flatMap (fun i => leBytes 2 (s.pwr.canary.getD (4 * l.code + i) 0)) ++
    leBytes 2 (drift % 65536).toNat ++ leBytes 2 (s.laneState l)

/-- The last measured capacitance. -/
def State.lastCap (s : State) : Nat :=
  match s.pwr.caps with
  | e :: _ => e.2
  | [] => 0

/-- Section 2: the hold-up store. -/
def State.holdupSection (s : State) : List Byte :=
  leBytes 2 s.pwr.capMade ++ leBytes 2 s.lastCap ++
    (List.range 16).flatMap (fun i => leBytes 2 ((s.pwr.caps.map (·.2)).getD i 0)) ++ leBytes 4 s.pwr.capCount

/-- Section 3: the seven partitions of the Flash Store; wear levelling keeps the largest and the mean count alike. -/
def State.flashSection (s : State) : List Byte :=
  leBytes 4 Config.ratedCycles.toNat ++ (List.range 7).flatMap (fun p =>
    let n := sgetD 0 s.cairn.erases p
    leBytes 4 n ++ leBytes 4 n ++ leBytes 2 (sgetD 0 s.cairn.corrected p) ++ [0, 0])

/-- The range that stands for the half-cycles of bin `i`, in mK. -/
def binRange (i : Nat) : Nat := 5000 * (i + 1) + Config.binPoint i % 5001

/-- Solder damage in ppm (R466): h/2 cycles of range ΔT against 6,000 × (100 K / ΔT)². -/
def damagePpm (half : List Nat) : Nat :=
  let n := ((List.range half.length).map (fun i => half.getD i 0 * binRange i ^ 2)).foldl (· + ·) 0
  rounded 2 n 120000000

/-- Section 4: thermal cycles. -/
def State.thermalSection (s : State) : List Byte :=
  (List.range 32).flatMap (fun i => leBytes 4 (s.pwr.half.getD i 0)) ++ leBytes 4 (damagePpm s.pwr.half)

/-- Section 5: the temperature histogram in powered hours. -/
def State.histSection (s : State) : List Byte :=
  (List.range 28).flatMap (fun i => leBytes 4 (rounded 3 (s.pwr.hist.getD i 0) 3600))

/-- A feed in section 6. -/
def FeedStress.bytes (f : FeedStress) : List Byte :=
  leBytes 4 f.losses ++ leBytes 4 f.dips ++ leBytes 4 f.longDips ++ leBytes 4 f.surges ++ leBytes 4 f.ovv

/-- Section 6: feed stress. -/
def State.feedSection (s : State) : List Byte :=
  s.pwr.feed1.bytes ++ s.pwr.feed2.bytes ++ leBytes 4 s.pwr.bothLost ++ leBytes 4 s.pwr.returns ++ leBytes 4 s.pwr.downs ++
    leBytes 4 s.pwr.dipSec

/-- The six sections in order. -/
def State.ageSections (s : State) : List (List Byte) :=
  [section_ 1 ([Lane.a, Lane.b, Lane.c].flatMap s.laneSection), section_ 2 s.holdupSection, section_ 3 s.flashSection,
   section_ 4 s.thermalSection, section_ 5 s.histSection, section_ 6 s.feedSection]

/-- AGE_REPORT (R473). -/
def execAgeReport (r : Req) (s : State) : Out := .next <|
  s.serve ⟨0x0900, .any, fixedLen 0, allModes, false⟩ r (fun s => s.finishChain 0x0900 r s.ageSections)

/-! ### MARGIN_PLAN (R472) -/

/-- The UTC of a moment `h` operating hours ahead, by the ratio observed; 0 while calendar time is unset or has been
observed for less than 7 days. -/
def State.utcAhead (s : State) (h : Nat) : Nat :=
  match s.pwr.calendar with
  | [] => 0
  | e :: _ =>
    let cal := s.time.utc - e.1
    let op := s.opSec - e.2
    if !s.time.utcValid ∨ cal < 604800000000000 ∨ op = 0 then 0 else s.time.utc + rounded 4 (h * 3600 * cal) op

/-- A projected change after `h` hours, none where it is not projected within the horizon. -/
def State.projection (s : State) (h : Option Nat) : List Byte :=
  match h.filter (fun h => decide (h ≤ s.horizon)) with
  | some h => leBytes 4 h ++ leBytes 4 0 ++ leBytes 8 (s.utcAhead h)
  | none => leBytes 4 0xFFFFFFFF ++ leBytes 4 0 ++ leBytes 8 0

/-- Hours until point `n` is needed: until D85 exceeds the period of the point before less 190 ps (R467). -/
def State.stepHours (s : State) (n : Nat) : Option Nat :=
  let have_ := 3 * (s.d85 + 190)
  let lim := periodThirds (n - 1)
  let m := s.pwr.slope
  if n ≤ s.pwr.op ∨ lim < have_ then some 0
  else if m.1 ≤ 0 then none
  else some (rounded 5 ((lim - have_) * 1000 * m.2) (3 * m.1.toNat))

/-- Hours until the class in force drops: until the capacitance falls below its planning value (R458). -/
def State.dropHours (s : State) : Option Nat :=
  let lim := match (s.fld Reg.PWR_STAT_HOLDUP_NOW).toNat with
    | 3 => 680
    | 2 => 340
    | _ => 0
  let m := s.pwr.capSlope
  if lim = 0 then none
  else if s.lastCap < lim then some 0
  else if 0 ≤ m.1 then none
  else some (rounded 6 ((s.lastCap - lim) * m.2) ((-m.1).toNat * 3600))

/-- The slope as reported: signed, in ps per 1,000 operating hours. -/
def State.slopeReport (s : State) : Int :=
  let m := s.pwr.slope
  if 0 ≤ m.1 then (rounded 7 m.1.toNat m.2 : Int) else -(rounded 7 (-m.1).toNat m.2 : Int)

/-- CAP_PROJ: rises counting as zero. -/
def State.capReport (s : State) : Nat :=
  let m := s.pwr.capSlope
  let fall := (-m.1).toNat * (s.horizon * 3600)
  rounded 8 (s.lastCap * m.2 - fall) m.2

/-- The MARGIN_PLAN reply after STATUS and DETAIL (R472). -/
def State.marginReply (s : State) : List Byte :=
  let one := fun (k : Nat) => BitVec.ofNat 8 (s.fld k).toNat
  [one Reg.PWR_STAT_OP, one Reg.PWR_STAT_GOP, one Reg.PWR_STAT_HOLDUP_NOW, one Reg.PWR_STAT_HOLDUP_PLAN] ++
    leBytes 4 s.horizon ++ leBytes 2 s.d85 ++ leBytes 2 s.dProjPs ++ leBytes 4 (s.slopeReport % 4294967296).toNat ++
    leBytes 2 s.lastCap ++ leBytes 2 s.capReport ++ [1, 2, 3].flatMap (fun n => s.projection (s.stepHours n)) ++
    s.projection s.dropHours

/-- MARGIN_PLAN (R472). -/
def execMarginPlan (r : Req) (s : State) : Out := .next <|
  s.serveAnswer ⟨0x0901, .any, fixedLen 0, allModes, false⟩ r (fun s => (s, .okWith s.marginReply))

/-- MARGIN_STEP (R471): one point slower, whether or not a step is due. -/
def execMarginStep (r : Req) (s : State) : Out := .next <|
  s.serve ⟨0x0902, rI, fixedLen 0, modesOf [.stopped], true⟩ r (fun s =>
    if 3 ≤ s.pwr.op then s.finish 0x0902 r (.no .lockedOut 0x0001)
    else
      let s := s.supersede
      let n := s.pwr.op + 1
      (s.stepTo n).beginLong 0x0902 r true (.okWith [BitVec.ofNat 8 n, 0, 0, 0]))

end Sys2Proof.Machine
end

