-- ==== Sys2Proof/Machine/CcBit.lean ====
section
/-! DEFINITION. Bit signal instructions (R131 to R135) and accumulator and stack instructions (R136 to R138). -/
namespace Sys2Proof.Machine

/-- The operand and operation of BLD, BAND, BOR and BXOR (R132); `f` combines BA with the operand. -/
def State.bitOp (s : State) (v : Vote) (o : SbOp) (f : Word → Word → Word) : State :=
  s.execCc v recReg (fun w c s =>
    let eid := effId c o.ix o.sid
    match s.sigTrap w c (decide (o.sub.toNat ≤ 1)) o.sl false eid with
    | some t => .trap t 1 s
    | none =>
      let ws := if o.sub = 0 then [(bitLoc eid).1] else if o.sl then statWords eid else [(statLoc eid).1]
      s.readImg w ws 1 (fun d s =>
        let one := fun i => if o.sub = 0 then bitp d (eid + i) else bitAt (statByte d (eid + i)) 0 == 1
        let x := fromBits (fun i => one i != o.neg)
        let ba := if o.sl then sliceInto c (f c.ba x) else bit0 (f c.ba (if one 0 != o.neg then 1 else 0))
        .done { c with ba := ba }.next 1 s))

/-- BLD (R132). -/
def execBld (v : Vote) (o : SbOp) (s : State) : Out := .next (s.bitOp v o (fun _ x => x))

/-- BAND (R132). -/
def execBand (v : Vote) (o : SbOp) (s : State) : Out := .next (s.bitOp v o (fun b x => b &&& x))

/-- BOR (R132). -/
def execBor (v : Vote) (o : SbOp) (s : State) : Out := .next (s.bitOp v o (fun b x => b ||| x))

/-- BXOR (R132). -/
def execBxor (v : Vote) (o : SbOp) (s : State) : Out := .next (s.bitOp v o (fun b x => b ^^^ x))

/-- A write of bits (R133, R134): instance `i` is written with `b i` where `on i` holds. -/
def State.bitWrite (s : State) (v : Vote) (o : SbOp) (subMax : Nat) (on b : Ctx → Nat → Bool) : State :=
  s.execCc v recStore (fun w c s =>
    let eid := effId c o.ix o.sid
    match s.sigTrap w c (decide (o.sub.toNat ≤ subMax)) o.sl true eid with
    | some t => .trap t 1 s
    | none =>
      let inst := if o.sl then (List.range 32).filter (selected c) else [0]
      let p := inst.foldl (fun (p : Patch) i => if on c i then p.setSig (eid + i) (b c i) else p) []
      s.storeSig w c p)

/-- BST (R133). -/
def execBst (v : Vote) (o : SbOp) (s : State) : Out :=
  .next (s.bitWrite v o 0 (fun _ _ => true) (fun c i => c.ba.getLsbD i != o.neg))

/-- BSR (R134): a signal whose condition does not hold keeps its bit and its status byte. -/
def execBsr (v : Vote) (o : SbOp) (s : State) : Out :=
  .next (s.bitWrite v o 1 (fun c i => c.ba.getLsbD i != o.neg) (fun _ _ => o.sub == 0))

/-- The comparison of BEDGE (R135): RISE, FALL or ANY on the bit and the edge bit, both inverted under NEG. -/
def edgeOf (sub : Nat) (x e : Bool) : Bool :=
  match sub with
  | 0 => x && !e
  | 1 => !x && e
  | _ => x != e

/-- BEDGE (R135): BA receives the edge, the edge bit the signal's own bit. -/
def execBedge (v : Vote) (o : SbOp) (s : State) : Out := .next <|
  s.execCc v recRegStore (fun w c s =>
    let eid := effId c o.ix o.sid
    match s.sigTrap w c (decide (o.sub.toNat ≤ 2)) o.sl false eid with
    | some t => .trap t 1 s
    | none =>
      s.readImg w [(bitLoc eid).1, (edgeLoc eid).1] 1 (fun d s =>
        let r := fun i => edgeOf o.sub.toNat (bitp d (eid + i) != o.neg) (edgeBit d (eid + i) != o.neg)
        let inst := if o.sl then (List.range 32).filter (selected c) else [0]
        let p := inst.foldl (fun (p : Patch) i => p.add (edgeLoc (eid + i)) 1 (b2n (bitp d (eid + i)))) []
        let ba := if o.sl then sliceInto c (fromBits r) else b2w (r 0)
        s.storeSig w { c with ba := ba } p))

/-! ### Accumulator and stack instructions, 0x08 -/

/-- The combine code of PUSH (R136); codes 5 to 15 are reserved. -/
def combineOf : Nat → Option Combine
  | 0 => some .and | 1 => some .or | 2 => some .xor | 3 => some .andn | 4 => some .orn | _ => none

/-- f(a, b) of R137. -/
def Combine.apply : Combine → Word → Word → Word
  | .and, a, b => a &&& b
  | .or, a, b => a ||| b
  | .xor, a, b => a ^^^ b
  | .andn, a, b => a &&& ~~~ b
  | .orn, a, b => a ||| ~~~ b

/-- PUSH (R98, R136): NS holds 16 entries. -/
def execPush (v : Vote) (code : BitVec 4) (s : State) : Out := .next <|
  s.execCc v recReg (fun _ c s =>
    match combineOf code.toNat with
    | none => .trap .illegal 1 s
    | some k => if 16 ≤ c.ns.length then .trap .nestOverflow 1 s
      else .done { c with ns := (c.ba, k) :: c.ns }.next 1 s)

/-- POP and POPS (R137). -/
def State.popOp (s : State) (v : Vote) (sliced : Bool) : State :=
  s.execCc v recReg (fun _ c s =>
    match c.ns with
    | [] => .trap .nestOverflow 1 s
    | (x, k) :: t =>
      let r := k.apply x c.ba
      .done { c with ns := t, ba := if sliced then sliceInto c r else bit0 r }.next 1 s)

/-- POP (R137). -/
def execPop (v : Vote) (s : State) : Out := .next (s.popOp v false)

/-- POPS (R137). -/
def execPops (v : Vote) (s : State) : Out := .next (s.popOp v true)

/-- BNOT (R136). -/
def execBnot (v : Vote) (s : State) : Out := .next (s.execReg v recReg 1 (fun c => { c with ba := bit0 (~~~ c.ba) }))

/-- BNOTS (R136). -/
def execBnots (v : Vote) (s : State) : Out := .next (s.execReg v recReg 1 (fun c => { c with ba := c.ba ^^^ c.sm }))

/-- BONE (R136). -/
def execBone (v : Vote) (s : State) : Out := .next (s.execReg v recReg 1 (fun c => { c with ba := 1 }))

/-- BZERO (R136). -/
def execBzero (v : Vote) (s : State) : Out := .next (s.execReg v recReg 1 (fun c => { c with ba := 0 }))

/-- BANY (R138). -/
def execBany (v : Vote) (s : State) : Out :=
  .next (s.execReg v recReg 1 (fun c => { c with ba := b2w (decide (c.ba &&& c.sm ≠ 0)) }))

/-- BALL (R138). -/
def execBall (v : Vote) (s : State) : Out :=
  .next (s.execReg v recReg 1 (fun c => { c with ba := b2w (decide (c.ba &&& c.sm = c.sm)) }))

/-- MFBA (R136). -/
def execMfba (v : Vote) (rd : BitVec 4) (s : State) : Out := .next (s.execReg v recReg 1 (fun c => c.set rd c.ba))

/-- MTBA (R136). -/
def execMtba (v : Vote) (ra : BitVec 4) (s : State) : Out :=
  .next (s.execReg v recReg 1 (fun c => { c with ba := c.get ra }))

/-- MFSM (R136). -/
def execMfsm (v : Vote) (rd : BitVec 4) (s : State) : Out := .next (s.execReg v recReg 1 (fun c => c.set rd c.sm))

/-- MTSM (R136, R138). -/
def execMtsm (v : Vote) (ra : BitVec 4) (s : State) : Out :=
  .next (s.execReg v recReg 1 (fun c => { c with sm := c.get ra }))

/-- The number of 1 bits of a word. -/
def popcount (x : Word) : Nat := (List.range 32).countP (fun i => x.getLsbD i)

/-- BCNT (R136). -/
def execBcnt (v : Vote) (rd : BitVec 4) (s : State) : Out :=
  .next (s.execReg v recReg 1 (fun c => c.set rd (BitVec.ofNat 32 (popcount (c.ba &&& c.sm)))))

/-- BSPLAT (R138): bit 0 does not change. -/
def execBsplat (v : Vote) (s : State) : Out := .next (s.execReg v recReg 1 (fun c =>
  { c with ba := (sliceInto c (if c.ba.getLsbD 0 then 0xFFFFFFFF else 0) &&& 0xFFFFFFFE) ||| bit0 c.ba }))

end Sys2Proof.Machine
end

