-- ==== Sys2Proof/Machine/CcFloat.lean ====
section
/-! DEFINITION. Binary32 instructions on WA (R147 to R152). -/
namespace Sys2Proof.Machine

/-- A binary32 instruction with flag code F (R151). -/
def State.floatOp (s : State) (v : Vote) (clocks : Nat) (f : Ctx → FpRes) : State :=
  s.execReg v recRegFlags clocks (fun c => { c with wa := (f c).1, flags := c.flags.float (f c) })

/-- FADD. -/
def execFadd (v : Vote) (ra : BitVec 4) (s : State) : Out := .next (s.floatOp v 3 (fun c => fpAdd c.wa (c.get ra)))

/-- FSUB. -/
def execFsub (v : Vote) (ra : BitVec 4) (s : State) : Out := .next (s.floatOp v 3 (fun c => fpSub c.wa (c.get ra)))

/-- FMUL. -/
def execFmul (v : Vote) (ra : BitVec 4) (s : State) : Out := .next (s.floatOp v 3 (fun c => fpMul c.wa (c.get ra)))

/-- FDIV. -/
def execFdiv (v : Vote) (ra : BitVec 4) (s : State) : Out := .next (s.floatOp v 16 (fun c => fpDiv c.wa (c.get ra)))

/-- FSQRT. -/
def execFsqrt (v : Vote) (s : State) : Out := .next (s.floatOp v 20 (fun c => fpSqrt c.wa))

/-- FCMP (R152). -/
def execFcmp (v : Vote) (ra : BitVec 4) (s : State) : Out :=
  .next (s.execReg v recFlags 1 (fun c => { c with flags := c.flags.fcmp (fpCompare c.wa (c.get ra)) }))

/-- FITOF (R150). -/
def execFitof (v : Vote) (s : State) : Out := .next (s.floatOp v 3 (fun c => (fpOfInt c.wa.toInt, false)))

/-- FUTOF (R150). -/
def execFutof (v : Vote) (s : State) : Out := .next (s.floatOp v 3 (fun c => (fpOfInt c.wa.toNat, false)))

/-- FFTOI: rounded towards zero (R147, R149). -/
def execFftoi (v : Vote) (s : State) : Out := .next (s.execReg v recRegFlags 3 (fun c =>
  { c with wa := (fpToInt false c.wa).1, flags := c.flags.floatToInt (fpToInt false c.wa) }))

/-- FFTOIR: rounded to nearest, ties to even (R147, R149). -/
def execFftoir (v : Vote) (s : State) : Out := .next (s.execReg v recRegFlags 3 (fun c =>
  { c with wa := (fpToInt true c.wa).1, flags := c.flags.floatToInt (fpToInt true c.wa) }))

end Sys2Proof.Machine
end

