-- ==== Sys2Proof/Machine/CcFlow.lean ====
section
/-! DEFINITION. Branch, call, loop and system instructions (R157 to R162, R113 to R115), and reserved encodings (R101). -/
namespace Sys2Proof.Machine

/-- A branch or call target: index plus signed offset; none below 0 or above 0x1F_FFFF (R113). -/
def target (pc : Nat) (off : Int) : Option Nat :=
  let t := (pc : Int) + off
  if t < 0 ∨ 0x1FFFFF < t then none else some t.toNat

/-- BR (R157): the target is checked only where the branch is taken. -/
def execBr (v : Vote) (cond : BitVec 4) (off : BitVec 22) (s : State) : Out := .next <|
  s.execCc v recNone (fun _ c s =>
    if condTaken cond c.flags c.ba then
      match target c.pc off.toInt with
      | none => .trap .bus 2 s
      | some t => .done { c with pc := t } 2 s
    else .done c.next 1 s)

/-- CALL (R158). -/
def execCall (v : Vote) (off : BitVec 26) (s : State) : Out := .next <|
  s.execCc v recReg (fun _ c s =>
    match target c.pc off.toInt with
    | none => .trap .bus 2 s
    | some t => if 32 ≤ c.cs.length then .trap .callOverflow 2 s
      else .done { c with cs := .call (c.pc + 1) :: c.cs, pc := t } 2 s)

/-- RET (R158). -/
def execRet (v : Vote) (s : State) : Out := .next <|
  s.execCc v recReg (fun _ c s =>
    match c.cs with
    | [] => .trap .callOverflow 2 s
    | .loop _ _ :: _ => .trap .illegal 2 s
    | .call r :: t => .done { c with cs := t, pc := r } 2 s)

/-- LOOP (R114, R159). -/
def execLoop (v : Vote) (rc : BitVec 4) (bound : BitVec 16) (s : State) : Out := .next <|
  s.execCc v recReg (fun _ c s =>
    let n := (c.get rc).toNat
    if bound = 0 ∨ n = 0 ∨ bound.toNat < n then .trap .bound 1 s
    else if 32 ≤ c.cs.length then .trap .callOverflow 1 s
    else .done { c with cs := .loop (c.pc + 1) n :: c.cs }.next 1 s)

/-- ENDL (R159). A trap counts the 1 clock of falling through. -/
def execEndl (v : Vote) (s : State) : Out := .next <|
  s.execCc v recReg (fun _ c s =>
    match c.cs with
    | .loop st n :: t =>
      if 1 < n then .done { c with cs := .loop st (n - 1) :: t, pc := st } 2 s
      else .done { c with cs := t }.next 1 s
    | _ => .trap .illegal 1 s)

/-- NOP (R160). -/
def execNop (v : Vote) (s : State) : Out := .next (s.execReg v recNone 1 id)

/-- CLRF (R161). -/
def execClrf (v : Vote) (s : State) : Out := .next (s.execReg v recFlags 1 (fun c => { c with flags := c.flags.clrf }))

/-- MFF (R160). -/
def execMff (v : Vote) (rd : BitVec 4) (s : State) : Out := .next (s.execReg v recReg 1 (fun c => c.set rd c.flags.word))

/-- MTF (R161). -/
def execMtf (v : Vote) (ra : BitVec 4) (s : State) : Out :=
  .next (s.execReg v recFlags 1 (fun c => { c with flags := c.flags.mtf (c.get ra) }))

/-- ILLEGAL (R101): a reserved encoding takes the trap after 1 clock (R120). -/
def execIllegal (v : Vote) (s : State) : Out := .next (s.execCc v recNone (fun _ _ s => .trap .illegal 1 s))

/-- The clocks that emptying the store buffer takes: one for each entry, and for entries of other arrays than Image RAM, which
may wait for their bank, at most 11 in all (R112, R116, R162, R208). -/
def State.drainClocks (s : State) : Nat × State :=
  let n := s.ce.store.length
  if s.ce.store.all (fun e => decide (0x10000000 ≤ e.addr)) then (n, s)
  else
    let r := s.draw Config.endDrain (11 - n)
    (n + r.1, r.2)

/-- The clocks END takes: 1 and those of the drain; in two-lane operation without lane A the buffer's extra wait counts as
vote stall (R162, R173). -/
def State.endClocks (s : State) : Nat × State :=
  let r := s.drainClocks
  let s := r.2
  if s.ce.store.isEmpty ∨ s.votes .a then (1 + r.1, s)
  else
    let q := s.draw Config.voteWait 2
    (1 + r.1, q.2.bumpBy Reg.CE_VSTALLCNT q.1)

/-- END (R115, R162): the store buffer empties, and a STORE_ERROR found then aborts the release before any commit; then
the release, the pass of T7 or the initialisation routine ends, and the next one is dispatched. -/
def execEndRelease (v : Vote) (s : State) : Out := .next <|
  s.execCc v recCommit (fun w c s =>
    let k := s.endClocks
    let s := (k.2.addClocks w k.1).drainAll
    if s.ce.cur ≠ some w then .gone s
    else
      let s := s.modTask w (fun t => { t with ctx := c.next })
      if w = 8 then .gone s.endInit
      else if w = 7 then .gone s.completeT7
      else .gone (s.completeRelease w))

end Sys2Proof.Machine
end

