-- ==== Sys2Proof/Machine/CcInt.lean ====
section
/-! DEFINITION. Integer instructions (R144 to R146). -/
namespace Sys2Proof.Machine

/-- A register instruction with two sources: result and flags (R145). -/
def State.aluOp (s : State) (v : Vote) (clocks : Nat) (o : RegOp) (f : Word → Word → Flags → Word × Flags) : State :=
  s.execReg v recRegFlags clocks (fun c =>
    let r := f (c.get o.ra) (c.get o.rb) c.flags
    { c with flags := r.2 }.set o.rd r.1)

/-- ADD (R145). -/
def execAdd (v : Vote) (o : RegOp) (s : State) : Out := .next (s.aluOp v 1 o (fun a b f => (a + b, f.add a b)))

/-- SUB (R145). -/
def execSub (v : Vote) (o : RegOp) (s : State) : Out := .next (s.aluOp v 1 o (fun a b f => (a - b, f.sub a b)))

/-- AND (R145). -/
def execAnd (v : Vote) (o : RegOp) (s : State) : Out :=
  .next (s.aluOp v 1 o (fun a b f => (a &&& b, f.setZN (a &&& b))))

/-- OR (R145). -/
def execOr (v : Vote) (o : RegOp) (s : State) : Out :=
  .next (s.aluOp v 1 o (fun a b f => (a ||| b, f.setZN (a ||| b))))

/-- XOR (R145). -/
def execXor (v : Vote) (o : RegOp) (s : State) : Out :=
  .next (s.aluOp v 1 o (fun a b f => (a ^^^ b, f.setZN (a ^^^ b))))

/-- Shift left by `n` < 32, with the last bit shifted out (R145). -/
def shlOp (a : Word) (n : Nat) (f : Flags) : Word × Flags := (a <<< n, f.shift n (a.getLsbD (32 - n)) (a <<< n))

/-- Logical shift right. -/
def shrOp (a : Word) (n : Nat) (f : Flags) : Word × Flags := (a >>> n, f.shift n (a.getLsbD (n - 1)) (a >>> n))

/-- Arithmetic shift right. -/
def sarOp (a : Word) (n : Nat) (f : Flags) : Word × Flags :=
  (a.sshiftRight n, f.shift n (a.getLsbD (n - 1)) (a.sshiftRight n))

/-- The count of a register shift: bits [31:5] are ignored (R145). -/
def shiftCount (b : Word) : Nat := b.toNat % 32

/-- SHL (R145). -/
def execShl (v : Vote) (o : RegOp) (s : State) : Out := .next (s.aluOp v 1 o (fun a b f => shlOp a (shiftCount b) f))

/-- SHR (R145). -/
def execShr (v : Vote) (o : RegOp) (s : State) : Out := .next (s.aluOp v 1 o (fun a b f => shrOp a (shiftCount b) f))

/-- SAR (R145). -/
def execSar (v : Vote) (o : RegOp) (s : State) : Out := .next (s.aluOp v 1 o (fun a b f => sarOp a (shiftCount b) f))

/-- MUL (R145). -/
def execMul (v : Vote) (o : RegOp) (s : State) : Out := .next (s.aluOp v 2 o (fun a b f => (a * b, f.mul a b)))

/-- A division (R145): DIV_ZERO for a zero divisor, after 18 clocks (R120); else result and V. -/
def State.divOp (s : State) (v : Vote) (o : RegOp) (f : Word → Word → Word × Bool) : State :=
  s.execCc v recRegFlags (fun _ c s =>
    let b := c.get o.rb
    if b = 0 then .trap .divZero 18 s
    else
      let r := f (c.get o.ra) b
      .done ({ c with flags := c.flags.div r.2 r.1 }.set o.rd r.1).next 18 s)

/-- The quotient 0x8000_0000 / -1 (R145). -/
def divWraps (a b : Word) : Bool := decide (a = 0x80000000) && decide (b = 0xFFFFFFFF)

/-- DIV (R145): truncated towards zero. -/
def execDiv (v : Vote) (o : RegOp) (s : State) : Out := .next (s.divOp v o (fun a b =>
  if divWraps a b then (0x80000000, true) else (BitVec.ofInt 32 (a.toInt.tdiv b.toInt), false)))

/-- DIVU (R145). -/
def execDivu (v : Vote) (o : RegOp) (s : State) : Out :=
  .next (s.divOp v o (fun a b => (BitVec.ofNat 32 (a.toNat / b.toNat), false)))

/-- REM (R145): the remainder has the sign of the dividend. -/
def execRem (v : Vote) (o : RegOp) (s : State) : Out := .next (s.divOp v o (fun a b =>
  if divWraps a b then (0, true) else (BitVec.ofInt 32 (a.toInt.tmod b.toInt), false)))

/-- REMU (R145). -/
def execRemu (v : Vote) (o : RegOp) (s : State) : Out :=
  .next (s.divOp v o (fun a b => (BitVec.ofNat 32 (a.toNat % b.toNat), false)))

/-- CMP (R145): as SUB without writing a register. -/
def execCmp (v : Vote) (ra rb : BitVec 4) (s : State) : Out :=
  .next (s.execReg v recFlags 1 (fun c => { c with flags := c.flags.sub (c.get ra) (c.get rb) }))

/-- MOV (R145). -/
def execMov (v : Vote) (rd ra : BitVec 4) (s : State) : Out := .next (s.execReg v recReg 1 (fun c => c.set rd (c.get ra)))

/-- MTWA (R145). -/
def execMtwa (v : Vote) (ra : BitVec 4) (s : State) : Out :=
  .next (s.execReg v recReg 1 (fun c => { c with wa := c.get ra }))

/-- MFWA (R145). -/
def execMfwa (v : Vote) (rd : BitVec 4) (s : State) : Out := .next (s.execReg v recReg 1 (fun c => c.set rd c.wa))

/-- An immediate instruction (R146): result and flags from Ga and the extended immediate. -/
def State.immOp (s : State) (v : Vote) (o : ImmOp) (b : Word) (f : Word → Word → Flags → Word × Flags) : State :=
  s.execReg v recRegFlags 1 (fun c =>
    let r := f (c.get o.ra) b c.flags
    { c with flags := r.2 }.set o.rd r.1)

/-- ADDI (R146). -/
def execAddi (v : Vote) (o : ImmOp) (s : State) : Out :=
  .next (s.immOp v o (sx o.imm) (fun a b f => (a + b, f.add a b)))

/-- ANDI (R146). -/
def execAndi (v : Vote) (o : ImmOp) (s : State) : Out :=
  .next (s.immOp v o (zx o.imm) (fun a b f => (a &&& b, f.setZN (a &&& b))))

/-- ORI (R146). -/
def execOri (v : Vote) (o : ImmOp) (s : State) : Out :=
  .next (s.immOp v o (zx o.imm) (fun a b f => (a ||| b, f.setZN (a ||| b))))

/-- XORI (R146). -/
def execXori (v : Vote) (o : ImmOp) (s : State) : Out :=
  .next (s.immOp v o (zx o.imm) (fun a b f => (a ^^^ b, f.setZN (a ^^^ b))))

/-- CMPI (R146). -/
def execCmpi (v : Vote) (ra : BitVec 4) (imm : BitVec 18) (s : State) : Out :=
  .next (s.execReg v recFlags 1 (fun c => { c with flags := c.flags.sub (c.get ra) (sx imm) }))

/-- SHI (R146): IMM18[17:7] must be zero and IMM18[6:5] = 3 is reserved. -/
def execShi (v : Vote) (o : ImmOp) (s : State) : Out := .next <|
  s.execCc v recRegFlags (fun _ c s =>
    let k := o.imm.toNat / 32
    let n := o.imm.toNat % 32
    if 3 ≤ k then .trap .illegal 1 s
    else
      let a := c.get o.ra
      let r := if k = 0 then shlOp a n c.flags else if k = 1 then shrOp a n c.flags else sarOp a n c.flags
      .done ({ c with flags := r.2 }.set o.rd r.1).next 1 s)

/-- LUI (R146). -/
def execLui (v : Vote) (rd : BitVec 4) (imm : BitVec 22) (s : State) : Out :=
  .next (s.execReg v recReg 1 (fun c => c.set rd (zx imm <<< 10)))

end Sys2Proof.Machine
end

