-- ==== Sys2Proof/Machine/CcWord.lean ====
section
/-! DEFINITION. Word signal instructions (R139, R140, R105). -/
namespace Sys2Proof.Machine

/-- A word signal instruction that reads: one code word, then `f` on the registers. -/
def State.wordRead (s : State) (v : Vote) (ix : BitVec 4) (sid : BitVec 18) (loc : Nat → Nat)
    (f : Ctx → Nat → Sparse DWord → Ctx) : State :=
  s.execCc v recReg (fun w c s =>
    let eid := effId c ix sid
    match s.sigTrap w c true false false eid with
    | some t => .trap t 1 s
    | none => s.readImg w [loc eid] 1 (fun d s => .done (f c eid d).next 1 s))

/-- A word signal instruction that writes. -/
def State.wordWrite (s : State) (v : Vote) (ix : BitVec 4) (sid : BitVec 18) (p : Ctx → Nat → Patch) : State :=
  s.execCc v recStore (fun w c s =>
    let eid := effId c ix sid
    match s.sigTrap w c true false true eid with
    | some t => .trap t 1 s
    | none => s.storeSig w c (p c eid))

/-- The patch of a word signal: its word, and VALID set (R106). -/
def wordPatch (id : Nat) (x : Word) : Patch := (Patch.add [] (wordLoc id) 32 x.toNat).add (statLoc id) 1 1

/-- WLD. -/
def execWld (v : Vote) (o : SwOp) (s : State) : Out :=
  .next (s.wordRead v o.ix o.sid (fun i => (wordLoc i).1) (fun c i d => c.set o.rt (wordp d i)))

/-- WST. -/
def execWst (v : Vote) (o : SwOp) (s : State) : Out :=
  .next (s.wordWrite v o.ix o.sid (fun c i => wordPatch i (c.get o.rt)))

/-- SLDS. -/
def execSlds (v : Vote) (o : SwOp) (s : State) : Out :=
  .next (s.wordRead v o.ix o.sid (fun i => (statLoc i).1) (fun c i d => c.set o.rt (BitVec.ofNat 32 (statByte d i))))

/-- SSTS (R140): the whole status byte. -/
def execSsts (v : Vote) (o : SwOp) (s : State) : Out :=
  .next (s.wordWrite v o.ix o.sid (fun c i => Patch.add [] (statLoc i) 8 ((c.get o.rt).toNat % 256)))

/-- SAGE (R105): the age at this task's latch where the ID lies in a declared input range of the task, else 0xFFFF. -/
def execSage (v : Vote) (o : SwOp) (s : State) : Out := .next <|
  s.execCc v recReg (fun w c s =>
    let eid := effId c o.ix o.sid
    match s.sigTrap w c true false false eid with
    | some t => .trap t 1 s
    | none =>
      let a := if inRanges (s.program.task w.val).inputs eid then sgetD 0xFFFF s.img.latchAge eid else 0xFFFF
      .done (c.set o.rt (BitVec.ofNat 32 a)).next 1 s)

/-- WALD. -/
def execWald (v : Vote) (ix : BitVec 4) (sid : BitVec 18) (s : State) : Out :=
  .next (s.wordRead v ix sid (fun i => (wordLoc i).1) (fun c i d => { c with wa := wordp d i }))

/-- WAST. -/
def execWast (v : Vote) (ix : BitVec 4) (sid : BitVec 18) (s : State) : Out :=
  .next (s.wordWrite v ix sid (fun c i => wordPatch i c.wa))

end Sys2Proof.Machine
end

