-- ==== Sys2Proof/Machine/CmdRows.lean ====
section
/-! DEFINITION. Commands of the command interface: identity, state, time, registers, sessions and modes, one meaning per row
(spec/09_command_interface.md, spec/08_modes_and_startup.md). -/
namespace Sys2Proof.Machine

/-- NOP_CMD (R249). -/
def execNopCmd (r : Req) (s : State) : Out := .next <|
  s.serveAnswer ⟨0x0000, .none, fixedLen 0, romModes, false⟩ r (fun s => (s, .done))

/-- IDENT (R256). -/
def execIdent (r : Req) (s : State) : Out := .next <|
  s.serveAnswer ⟨0x0001, .none, fixedLen 0, romModes, false⟩ r (fun s => (s, .okWith s.identity))

/-- RESYNC (R257). -/
def execResync (r : Req) (s : State) : Out := .next <|
  s.serveAnswer ⟨0x0002, .any, fixedLen 0, allModes, false⟩ r (fun s => let q := s.summary r; (q.1, .okWith q.2))

/-- SNAP (R272). -/
def execSnap (r : Req) (s : State) : Out := .next <|
  s.serveAnswer ⟨0x0003, rOMI, fixedLen 0, allModes, false⟩ r (fun s => (s.snapshot, .okWith (leBytes 8 s.time.tick)))

/-- TIME_SET (R251, R306). -/
def execTimeSet (r : Req) (s : State) : Out := .next <|
  s.serveAnswer ⟨0x0004, rMI, fixedLen 8, allModes, false⟩ r (fun s =>
    if s.fld Reg.ESW_PTPSTAT_LOCKED = 1 then (s, .conflict 0x08 0)
    else (State.timeSource { s.setUtc (r.nat 0 8) with net.timeSet := true }, .done))

/-- An address is word-aligned and lies in an assigned register page (R250, R258). -/
def regAddrOk (a : Nat) : Bool :=
  a % 4 == 0 && decide (0xF0000000 ≤ a) && decide ((a - 0xF0000000) / 0x1000 ∈ assignedPages)

/-- The page and the offset of a register address. -/
def pageOf (a : Nat) : Nat := (a - 0xF0000000) / 0x1000
def offOf (a : Nat) : Nat := a % 0x1000

/-- REG_READ (R250): consecutive registers, each with what its read does. -/
def execRegRead (r : Req) (s : State) : Out := .next <|
  s.serveAnswer ⟨0x0010, rMI, fixedLen 8, allModes, false⟩ r (fun s =>
    let n := r.nat 4 2
    let as_ := (List.range n).map (fun i => r.nat 0 4 + 4 * i)
    if n = 0 ∨ 1015 < n ∨ !as_.all regAddrOk then (s, .no .badLength 0xFFFE)
    else
      let q := as_.foldl (fun (q : State × List Byte) a =>
        let x := q.1.readReg (pageOf a) (offOf a)
        (x.1, q.2 ++ leBytes 4 x.2.toNat)) (s, [])
      (q.1, .okWith q.2))

/-- The writes of a REG_WRITE payload. -/
def Req.writes (r : Req) : List (Nat × Nat) := (List.range (r.nat 0 2)).map (fun i => (r.nat (4 + 8 * i) 4, r.nat (8 + 8 * i) 4))

/-- REG_WRITE (R250, R266, R267): one source; what is still pending at its end is aborted. -/
def execRegWrite (r : Req) (s : State) : Out := .next <|
  s.serveAnswer ⟨0x0011, rMI, lenBetween 12 4060, allModes, false⟩ r (fun s =>
    let ws := r.writes
    if ws.isEmpty ∨ 507 < ws.length ∨ r.payload.length ≠ 4 + 8 * ws.length ∨ !ws.all (fun w => regAddrOk w.1) then
      (s, .no .badLength 0xFFFE)
    else match ws.find? (fun w => sealedPage (pageOf w.1)) with
      | some w => (s, .no .sealed (pageOf w.1))
      | none => match ws.findSome? (fun w => s.ringClaim (pageOf w.1) (offOf w.1) (BitVec.ofNat 32 w.2) 0xFFFFFFFF) with
      | some n => (s, .conflict 0x02 n)
      | none =>
        let go := fun (s : State) =>
          ws.foldl (fun (s : State) w => s.regWrite .packet (pageOf w.1) (offOf w.1) (BitVec.ofNat 32 w.2)) s
        -- a command that changes the mode, by SYS_SAFEREQ, supersedes the auto-start (R505)
        let s := if (go s).mode = s.mode then go s else go s.supersede
        (s.abortWd (fun x => x = .packet), .done))

/-- SESS_OPEN (R241 to R244). -/
def execSessOpen (r : Req) (s : State) : Out := .next <|
  s.serve ⟨0x0020, .none, fixedLen 20, romModes, false⟩ r (fun s => s.sessOpen r)

/-- SESS_CLOSE (R241). -/
def execSessClose (r : Req) (s : State) : Out := .next <|
  s.serve ⟨0x0021, .any, fixedLen 0, romModes, false⟩ r (fun s => s.sessClose r)

/-- MODE_REQ (R215, R216). -/
def execModeReq (r : Req) (s : State) : Out := .next <|
  s.serveWith ⟨0x0100, .any, fixedLen 4, allModes, false⟩ r (fun role _ s => s.modeReq r role)

end Sys2Proof.Machine
end

