-- ==== Sys2Proof/Machine/ColRows.lean ====
section
/-! DEFINITION. Commands of the Col link and the pair (spec/14_pair_redundancy.md). -/
namespace Sys2Proof.Machine

/-- A frame of one type is received. -/
def State.colType (s : State) (type : Nat) (rx : ColRx) (delay : Nat) : State :=
  if rx.frame.type = type then s.colRx rx delay else s

/-- HELLO (R356): sent every 1 ms while not synchronised, or received. -/
def execHello (rx : Option ColRx) (s : State) : Out := .next <|
  match rx with
  | none => if s.colState < colSyncActive ∧ s.mode ≠ .selftest ∧ s.mode ≠ .recovery then s.colSend 0x01 s.helloBytes else s
  | some r => s.colType 0x01 r 0

/-- PARTNER_SEEK_TIMEOUT (R358, R360): no partner within 20 ms. -/
def execPartnerSeekTimeout (s : State) : Out := .next <|
  if s.col.partner.isSome ∨ s.colState ≠ colSeeking then s
  else (s.answerLong 0x0800 (.no .targetLost 0x00FF)).setColState colAlone

/-- JOIN_REQ (R365): `delay` is the one-way link delay measured at the join, in ns. -/
def execJoinReq (rx : ColRx) (delay : Nat) (s : State) : Out := .next (s.colType 0x02 rx delay)

/-- JOIN_ACK. -/
def execJoinAck (rx : ColRx) (delay : Nat) (s : State) : Out := .next (s.colType 0x03 rx delay)

/-- PAGE (R365). -/
def execPage (rx : ColRx) (s : State) : Out := .next (s.colType 0x04 rx 0)

/-- JOIN_COPY_ROUND (R365): every dirty page is sent; rounds go on while more than DELTA_PAGES are dirty. -/
def execJoinCopyRound (s : State) : Out := .next <|
  if s.colState = colServing ∧ (s.round = 0 ∨ s.deltaPages < s.col.dirty.length) then
    s.sendPages.setFld Reg.COL_STAT_ROUND (BitVec.ofNat 32 (min 255 (s.round + 1)))
  else s

/-- FINAL_DELTA (R366): in an idle window the last dirty pages and CUT are sent, and the pair is in step. -/
def execFinalDelta (s : State) : Out := .next <|
  if s.colState = colServing ∧ s.mode.serves ∧ 1 ≤ s.round ∧ s.col.dirty.length ≤ s.deltaPages ∧ s.bestCyclic = none ∧
      (s.ce.task 7).waiting = none ∧ s.ce.switchNow = false then
    let s := s.drainAll.sendPages
    let s := s.colSend 0x05 s.cutPayload
    let s := ((s.dropStream.setDirty []).setColState colSyncActive).bump Reg.COL_JOINCNT
    s.flag Reg.COL_EVT_JOIN_DONE true
  else s

/-- CUT (R366). -/
def execCut (rx : ColRx) (s : State) : Out := .next (s.colType 0x05 rx 0)

/-- JOIN_TIMEOUT (R367). -/
def execJoinTimeout (s : State) : Out := .next <|
  if s.colState = colServing ∧ s.col.joinSince + s.joinTimeout * 1000000000 ≤ s.opNs then s.abortJoin 0x0800 else s

/-- ABORT (R367, R368). -/
def execAbort (rx : ColRx) (s : State) : Out := .next (s.colType 0x0B rx 0)

/-- GROUP (R361). -/
def execGroup (rx : ColRx) (s : State) : Out := .next (s.colType 0x06 rx 0)

/-- MARK (R361 to R363). -/
def execMark (rx : ColRx) (s : State) : Out := .next (s.colType 0x07 rx 0)

/-- STREAM_GAP (R357, R361): a gap in SEQ has not been filled; the frames behind it act in order. -/
def execStreamGap (s : State) : Out := .next <|
  if s.col.ahead.isEmpty then s
  else
    let s := s.bump Reg.COL_GAPCNT
    let was := s.inStream
    let s := s.streamGap
    if was then { s with col.ahead := [], col.rxSeq := none }
    else
      let e := s.col.rxSeq.getD 0
      let near := s.col.ahead.foldl (fun m f => min m ((f.seq + 65536 - e) % 65536)) 65535
      State.runAhead s.col.ahead.length 0 { s with col.rxSeq := some ((e + near) % 65536) }

/-- BEAT (R356): sent after 4 µs of silence, or received. -/
def execBeat (rx : Option ColRx) (s : State) : Out := .next <|
  match rx with
  | none => if s.mode ≠ .selftest ∧ s.mode ≠ .recovery then s.colSend 0x08 [] else s
  | some r => s.colType 0x08 r 0

/-- LEAVE (R369). -/
def execLeave (rx : ColRx) (s : State) : Out := .next (s.colType 0x0A rx 0)

/-- A lane loses its signal (R354): what an injection holds for it is discarded (R476). -/
def State.laneDown (s : State) (lane2 : Bool) : State :=
  if s.fld (laneBit lane2) = 0 then s
  else
    let s := ((s.flag (laneBit lane2) false).flag Reg.COL_EVT_LANE_DOWN true).bump Reg.COL_LANEDOWNCNT
    (s.fiLinkDown (laneLink lane2)).report .d .warn (evCode 10 354 0) (srcNo 10 0) [BitVec.ofNat 8 (b2n lane2 + 1)]

/-- COL_LANE_DOWN (R354): a lane (`true` COL-2) is lost; the link carries on while the other is up. -/
def execColLaneDown (lane2 : Bool) (s : State) : Out := .next <|
  if s.fld (laneBit (!lane2)) = 1 then s.laneDown lane2 else s

/-- COL_SIGNAL_LOSS (R369): no lane has signal. -/
def execColSignalLoss (s : State) : Out := .next <|
  if s.fld (laneBit false) = 0 ∧ s.fld (laneBit true) = 0 then s
  else ((s.laneDown false).laneDown true).partnerLost

/-- COL_LANE_UP (R354, R355): a lane regains signal; SEQ starts from zero where the link had none. -/
def execColLaneUp (lane2 : Bool) (s : State) : Out := .next <|
  if s.fld Reg.COL_CTRL_ENABLE = 0 then s
  else
    let first := s.fld (laneBit false) == 0 && s.fld (laneBit true) == 0
    let s := s.flag (laneBit lane2) true
    if first then
      let s := { s with col.txSeq := 0, col.rxSeq := none, col.ahead := [], col.lane := lane2 }
      if s.mode = .stopped ∧ s.colState = colAlone then s.setColState colSeeking else s
    else s

/-- PARTNER_SILENCE_TIMEOUT (R369): no frame for 20 µs. -/
def execPartnerSilenceTimeout (s : State) : Out := .next <|
  if s.col.partner.isSome ∨ colServing ≤ s.colState then s.partnerLost else s

/-- SWAP_TICK (R373): after the latches of boundary s the units exchange their roles. -/
def execSwapTick (s : State) : Out := .next <|
  match s.col.swapAt with
  | none => s
  | some t =>
    if t ≠ s.time.tick % 2 ^ 32 then s
    else if s.colState = colSyncStandby ∧ s.mode = .standby then
      let d := s.col.digest
      let s := ((s.cancelSwap.setPair 1).setColState colSyncActive).changeMode .run .pair
      let s := State.putOwn { s with col.digest := d, col.groups := [], col.mark := none }
      s.answerLong 0x0801 .done
    else if s.colState = colSyncActive ∧ s.mode = .run then
      let s := (s.cancelSwap.keepLost).changeMode .standby .pair
      s.answerLong 0x0801 .done
    else s.cancelSwap

/-- MSG (R237, R333, R356): a forwarded command packet is queued for the supervisor, where it acts by the command of its
opcode; on the Ridge it takes its place in the stream. -/
def execMsg (rx : MsgRx) (s : State) : Out := .next <|
  match rx with
  | .ridge r => if r.frame.type = 9 then s.ridgeRx r false false else s
  | .col r => s.colType 0x09 r 0

end Sys2Proof.Machine
end

