-- ==== Sys2Proof/Machine/FiRows.lean ====
section
/-! DEFINITION. Fault injection commands, one meaning per row (spec/21_link_fault_injection.md R474 to R481). -/
namespace Sys2Proof.Machine

/-- The parameters of an action are in range (R476): PPS links have no bytes to corrupt (R475). -/
def actionOk (link kind apar : Nat) : Bool :=
  match kind with
  | 1 => apar == 0
  | 2 => decide (apar < 65536) && link != linkPpsIn && link != linkPpsOut
  | 3 => decide (1 ≤ apar ∧ apar ≤ 15)
  | 4 => decide (1 ≤ apar ∧ apar ≤ 100000)
  | _ => false

/-- The selector is in range (R474): a seed of zero would stop the LFSR. -/
def selectorOk (select npar seed : Nat) : Bool :=
  match select with
  | 0 => decide (1 ≤ npar ∧ npar ≤ 65535)
  | 1 => decide (1 ≤ npar ∧ npar ≤ 16) && seed != 0
  | _ => false

/-- Claims that injection may not meet (R480). -/
def State.fiClaimed (s : State) (r : Req) (l : Nat) : Bool :=
  ((l == linkCol1 || l == linkCol2) && decide (colServing ≤ s.colState ∧ s.colState ≤ colSyncStandby)) ||
    (decide (35 ≤ l ∧ l ≤ 40) && s.fld (Reg.ENC_ESTAT_SF_CLAIMED (l - 34)) == 1) || r.carrier == some l

/-- Arm an injection (R477, R481): what an earlier one of the link holds is sent. -/
def State.fiArm (s : State) (l kind dir select npar apar : Nat) (seed : Word) (payload : List Byte) : State :=
  let hs := sgetD [] s.fi.held l
  let s := (s.setHeld l []).fiRelease l hs
  let s := ((s.fiConfig l kind dir select npar apar).flag (Reg.FI_CFG_ARMED l) true).setFld (Reg.FI_INJCNT l) 0
  let s := { s with fi.lfsr := ssetD 0 s.fi.lfsr l seed, fi.seen := ssetD 0 s.fi.seen l 0 }
  (s.fiArmBit l true).report .o .info 0x1001 (srcNo 0x10 l) payload

/-- FI_SET (R474 to R480): in TEST, or in RUN under a permit. -/
def execFiSet (r : Req) (s : State) : Out := .next <|
  s.serve ⟨0x0A00, rMI, fixedLen 16, modesOf [.test, .run], false⟩ r (fun s =>
    let l := r.nat 0 1
    let kind := r.nat 1 1
    let dir := r.nat 2 1
    let select := r.nat 3 1
    let npar := r.nat 4 4
    let apar := r.nat 8 4
    if s.mode = .run ∧ s.fi.permitEnd = none then s.finish 0x0A00 r (.no .notInMode s.mode.code)
    else if linkCount ≤ l ∨ dir = 0 ∨ 3 < dir ∨ !actionOk l kind apar ∨ !selectorOk select npar (r.nat 12 4) then
      s.finish 0x0A00 r badRange
    else if s.fiClaimed r l then s.finish 0x0A00 r (.conflict 0x07 l)
    else
      let seed := if select = 1 then BitVec.ofNat 32 (r.nat 12 4) else 0
      ((s.fiArm l kind dir select npar apar seed r.payload).finish 0x0A00 r .done).deliverReleased)

/-- FI_CLEAR (R477): one link, or every link. -/
def execFiClear (r : Req) (s : State) : Out := .next <|
  s.serve ⟨0x0A01, rMI, fixedLen 4, allModes, false⟩ r (fun s =>
    let l := r.nat 0 1
    if l = 0xFF then ((s.fiRemoveAll 1).finish 0x0A01 r .done).deliverReleased
    else if linkCount ≤ l then s.finish 0x0A01 r badRange
    else ((s.fiRemove l 1).finish 0x0A01 r .done).deliverReleased)

/-- A permit of 600 s of operating time; one in force starts again (R478). -/
def State.fiPermit (s : State) : State :=
  let s := { s with fi.permitEnd := some (s.opNs + 600000000000) }
  ((s.flag Reg.FI_STAT_PERMIT true).setFld Reg.FI_STAT_PERMIT_LEFT 600).report .o .warn 0x1004 (srcNo 0x10 0) []

/-- FI_PERMIT (R478): dangerous (R248). -/
def execFiPermit (r : Req) (s : State) : Out := .next <|
  s.serveWith ⟨0x0A02, rI, fixedLen 4, modesOf [.run], false⟩ r (fun _ armed s =>
    s.twoSteps 0x0A02 r armed (fun s => (none, s)) (fun s => s.fiPermit.finish 0x0A02 r .done))

/-- FI_PERMIT_ENDED (R478): the 600 s are over; injections in RUN go. -/
def execFiPermitEnded (s : State) : Out := .next <|
  match s.fi.permitEnd with
  | none => s
  | some t =>
    if s.opNs < t then s
    else
      let s := s.fiPermitEnd
      if s.mode = .run then (s.fiRemoveAll 2).deliverReleased else s

/-- FI_DELAY_EXPIRY (R476): the oldest frame that a DELAY holds goes, and with it those that only queue behind it. -/
def State.fiExpire (s : State) (l : Nat) : State :=
  match sgetD [] s.fi.held l with
  | [] => s
  | h :: t =>
    let go := h :: t.takeWhile (fun x => !x.selected)
    (s.setHeld l (t.dropWhile (fun x => !x.selected))).fiRelease l go

/-- FI_DELAY_EXPIRY (R476): d µs after the oldest held frame came. -/
def execFiDelayExpiry (l : Fin 48) (s : State) : Out := .next <|
  if s.fld (Reg.FI_CFG_KIND l.val) = 4 then (s.fiExpire l.val).deliverReleased else s

end Sys2Proof.Machine
end

