-- ==== Sys2Proof/Machine/FieldRows.lean ====
section
/-! DEFINITION. The field scan and the events of field channels, groups and safety functions: one meaning per command
(spec/15_field_channels.md, spec/16_safety_functions.md). -/
namespace Sys2Proof.Machine


/-- A channel, group, instance or pair number in its range. -/
def inRange (n hi : Nat) : Bool := decide (1 ≤ n ∧ n ≤ hi)

/-- An input that shuts down is lost in this scan's group write (R388). -/
def State.shutInputs (s : State) : State :=
  s.bus.shutting.foldl (fun s i =>
    match i with
    | .fch n => if modeIsInput (s.chanMode n) ∧ !s.ownLost (.channel n) then s.loseChan n else s
    | _ => s) s

/-- FIELD_SCAN (R379, R381, R324, R390, R392): staged fields apply, encoders and inputs are sampled, groups written,
outputs driven, train lines scanned and the safety functions evaluated. -/
def execFieldScan (scan : Scan) (s : State) : Out := .next <|
  let s := s.applyStaged (fun k => keyPage k == 0x13 || keyPage k == 0x14)
  let s := (List.range 6).foldl (fun s i => s.scanEncoder (i + 1) scan.into (scan.encoders.getD i .none)) s
  let s := (List.range 8).foldl (fun s i => s.sampleSupply (i + 1) (scan.groups.getD i ⟨0, 0⟩)) s
  let s := (List.range 64).foldl (fun s i => s.sampleChan (i + 1) (scan.pins.getD i ⟨0, 0, false⟩)) s
  let s := (List.range 8).foldl (fun s i => s.groupBits (i + 1)) s
  let s := s.shutInputs
  let s := (List.range 8).foldl (fun s i => s.writeGroup (i + 1)) s
  let s := (List.range 64).foldl (fun s i => s.driveChan (i + 1)) s
  let s := (List.range 4).foldl (fun s i => s.scanLines (i + 1) scan.lines) s
  s.scanSafety scan.evalMis

/-- OUTPUT_OVERLOAD (R382): current limiting in 10 consecutive scans is reported. -/
def execOutputOverload (ch : Nat) (s : State) : Out := .next <|
  if inRange ch 64 && modeIsOutput (s.chanMode ch) && decide (10 ≤ (s.chan ch).limit) && !s.has ch .overload then
    (s.onset ch .overload).soReport ch
  else s

/-- OUTPUT_THERMAL (R382): the switch turns off and the latch is set. -/
def execOutputThermal (ch : Nat) (s : State) : Out := .next <|
  if inRange ch 64 && modeIsOutput (s.chanMode ch) && s.fld (Reg.FCH_STAT_DRIVE ch) == 1 then
    ((s.drive ch false).onset ch .thermal).soReport ch
  else s

/-- GROUP_OVERLOAD (R382): more than 2.0 A in 200 scans, or more than 4.0 A for 50 µs (`fast`). -/
def execGroupOverload (g : Nat) (fast : Bool) (s : State) : Out := .next <|
  if inRange g 8 && (fast || decide (200 ≤ (sgetD SupplyRt.zero s.field.supply g).excess)) then
    let s := (chansOf g).foldl (fun s n =>
      if s.fld (Reg.FCH_STAT_DRIVE n) = 1 then (s.drive n false).onset n .groupOverload else s) s
    (chansOf g).foldl (fun s n => s.soReport n) ((s.groupLatch g).setBit Reg.TLI_FGEVT_OVERLOAD_SEEN (g - 1))
  else s

/-- Report or clear one condition of R383 by its counts. -/
def State.diagnose (s : State) (n : Nat) (c : Cond) (yes no : Nat) : State :=
  if 10 ≤ yes ∧ !s.has n c then s.onset n c
  else if 10 ≤ no ∧ s.has n c then s.flag (c.stat n) false
  else s

/-- CHANNEL_DIAGNOSTIC (R383, R384). -/
def execChannelDiagnostic (ch : Nat) (s : State) : Out := .next <|
  if inRange ch 64 then
    let c := s.chan ch
    ((s.diagnose ch .opens c.opens c.noOpen).diagnose ch .ext c.ext c.noExt).soReport ch
  else s

/-- LP_LOW (R386). -/
def execLpLow (g : Nat) (s : State) : Out := .next <|
  if inRange g 8 && decide (10 ≤ (sgetD SupplyRt.zero s.field.supply g).low) && !s.lpLow g then
    (((s.setBit Reg.TLI_FGSTAT_LP_LOW (g - 1)).setBit Reg.TLI_FGEVT_LOW_SEEN (g - 1)).groupBits g).report .o .warn
      (evCode 11 386 0) (srcNo 11 g) []
  else s

/-- FIELD_GROUP_MISSING (R386): hardware switches the outputs off, and the group is declared missing. -/
def execFieldGroupMissing (g : Nat) (s : State) : Out := .next <|
  if inRange g 8 && !s.missing g then
    let s := (chansOf g).foldl (fun s n =>
      let s := s.drive n false
      s.setChan n { s.chan n with waits := true, live := false }) s
    let s := (s.setBit Reg.TLI_FGSTAT_MISSING (g - 1)).setBit Reg.TLI_FGEVT_MISSING_SEEN (g - 1)
    let s := (s.bump (Reg.TLI_FGMISSCNT g)).groupBits g
    let s := (chansOf g).foldl (fun s n => s.loseChan n) s
    (chansOf g).foldl (fun s n => s.soReport n) (s.report .o .fault (evCode 11 386 1) (srcNo 11 g) [])
  else s

/-- FIELD_GROUP_PRESENT (R386): each filter starts from that scan's sample, which is delivered at once. -/
def execFieldGroupPresent (g : Nat) (s : State) : Out := .next <|
  if inRange g 8 && s.missing g && decide (200 ≤ (sgetD SupplyRt.zero s.field.supply g).high) then
    let s := (s.clrBit Reg.TLI_FGSTAT_MISSING (g - 1)).groupBits g
    let s := (chansOf g).foldl (fun s n =>
      let c := s.chan n
      let input := modeIsInput (s.chanMode n) && s.chanOn n
      let s := s.setChan n { c with filt := if input then c.raw else c.filt, run := 1, live := input }
      s.flag (Reg.FCH_STAT_LEVEL n) (s.chanOn n && (if input then c.raw else c.back))) s
    s.writeGroup g
  else s

/-- SS1_TIME_MAX (R401, check 4). -/
def execSs1TimeMax (i : Nat) (s : State) : Out := .next <|
  if inRange i 4 && s.ssState i == stStopping && decide (10 * s.ss i 0x20 4 < (s.fld (Reg.SF_NSTOP i)).toNat) then
    s.lockOut i .timeMax
  else s

/-- SI_DISCREPANCY_FAULT (R397, R398). -/
def execSiDiscrepancyFault (i : Nat) (s : State) : Out := .next <|
  let x := s.si i
  match x.differ with
  | some n =>
    if inRange i 16 && s.siA i != 0 && decide (10 * s.siDisc i < n) && !x.disc then
      let s := ((s.setSi i { x with disc := true }).bump Reg.SF_DISCFLT_CNT).flag Reg.SF_EVT_DISC_FAULT true
      if x.fault then s else s.siFault i
    else s
  | none => s

/-- SPEED_DISCREPANCY_FAULT (R400, R401). -/
def execSpeedDiscrepancyFault (i : Nat) (s : State) : Out := .next <|
  let x := s.inst i
  match x.differ with
  | some n =>
    if inRange i 4 && s.ssUsed i && decide (10 * s.ss i 0x0E 2 < n) && !x.disc then
      let s := (s.setInst i { x with disc := true, speedFault := true }).flag Reg.SF_EVT_SPEED_FAULT true
      let s := if ssDrives (s.ssState i) then s.lockOut i .speedFault else s
      s.flag (Reg.SF_STATE_FAULT i) true
    else s
  | none => s

/-- SO_FAULT (R399): a readback that has differed from its command beyond the limit, or a condition that still stands. -/
def execSoFault (k : Nat) (s : State) : Out := .next <|
  if inRange k 8 && s.soBad k && !(s.so k).fault then s.soFail k else s

/-- SO_OFF_PULSE_TEST (R399): channel A or B of a pair that is on is switched off for 5 scans. -/
def execSoOffPulseTest (k : Nat) (chB : Bool) (s : State) : Out := .next <|
  let x := s.so k
  if inRange k 8 && s.soA k != 0 && s.soTest k != 0 && x.on && x.test.isNone then
    (s.setSo k { x with test := some (chB, 0), testLow := false }).drive (if chB then s.soB k else s.soA k) false
  else s

/-- RESET_PAIR_STUCK (R406): a press longer than 3 s writes a record and resets nothing. -/
def execResetPairStuck (i : Nat) (s : State) : Out := .next <|
  let x := s.inst i
  if inRange i 4 && decide (30000 < x.pressed) && !x.stuck then
    (s.setInst i { x with stuck := true }).report .o .warn 0x0C01 (srcNo 12 (s.ss i 0x05 1)) [BitVec.ofNat 8 i]
  else s

end Sys2Proof.Machine
end

