-- ==== Sys2Proof/Machine/PacketRows.lean ====
section
/-! DEFINITION. Packets that are refused or forwarded, what times out, and the end of long operations: one meaning per row
(spec/09_command_interface.md R237 to R241, R244, R248); RDG_INFO (spec/13_ridge_link.md R353). -/
namespace Sys2Proof.Machine

/-! ### Steps 1 to 5 of R238 on the bytes of a packet -/

/-- The result of steps 1 to 4. -/
inductive Framed where
  | discard
  | refused (op : Nat) (r : Req) (a : Answer)
  | passed (op : Nat) (r : Req)

/-- The request that the bytes spell, as far as its lengths hold. -/
def reqOf (transport source : Nat) (forwarded : Bool) (b : List Byte) : Req :=
  let len := fieldAt b 10 2
  { transport := transport, source := source, forwarded := forwarded, tag := BitVec.ofNat 16 (fieldAt b 6 2)
    target := b.getD 8 0, session := b.getD 9 0, auth := bitAt (fieldAt b 3 1) 1 == 1, payload := (b.drop 12).take len
    mac := (b.drop (16 + len)).take 16 }

/-- Steps 1 to 4 (R238). -/
def framing (transport source : Nat) (forwarded : Bool) (b : List Byte) : Framed :=
  let len := fieldAt b 10 2
  let r := reqOf transport source forwarded b
  let op := fieldAt b 4 2
  if b.length < 16 ∨ fieldAt b 0 2 ≠ 0xDA5E ∨ bitAt (fieldAt b 3 1) 0 = 1 then .discard
  else if 4064 < len ∨ b.length ≠ len + 16 + 16 * b2n r.auth then .refused op r (.no .badLength 0xFFFF)
  else if (crc32c (b.take (12 + len))).toNat ≠ fieldAt b (12 + len) 4 then .refused op r (.no .badCrc 0)
  else .passed op r

/-- Step 5: version, flags and target. -/
def headerFault (b : List Byte) : Option Answer :=
  if b.getD 2 0 ≠ 1 then some (.no .badOpcode 0xFF01)
  else if 4 ≤ fieldAt b 3 1 then some (.no .badOpcode 0xFF02)
  else if !targetKnown (b.getD 8 0) then some (.no .badOpcode 0xFF03)
  else none

/-- The opcodes of R249. -/
def assignedOps : List Nat :=
  [0x0000, 0x0001, 0x0002, 0x0003, 0x0004, 0x0010, 0x0011, 0x0020, 0x0021, 0x0100, 0x0200, 0x0201, 0x0202, 0x0203, 0x0300,
   0x0301, 0x0302, 0x0303, 0x0400, 0x0401, 0x0402, 0x0403, 0x0500, 0x0501, 0x0502, 0x0600, 0x0601, 0x0700, 0x0701, 0x0702,
   0x0800, 0x0801, 0x0802, 0x0900, 0x0901, 0x0902, 0x0A00, 0x0A01, 0x0A02, 0x0C00]

/-- Step 8 on an opcode that is not assigned here: the gate comes before it. -/
def State.unassigned (s : State) (op : Nat) (r : Req) : State :=
  match s.gate op r with
  | .stop s => s
  | .pass s _ _ => s.finish op r (.no .badOpcode 0)

/-- PACKET_REJECT (R238): the first failure of steps 1 to 5, and of step 8. A packet for another target leaves at step 6
whatever steps 5 and 8 would say here (R237). -/
def execPacketReject (transport source : Nat) (forwarded : Bool) (bytes : List Byte) (s : State) : Out := .next <|
  if s.deaf transport forwarded then s
  else
    let q := s.arrival transport source forwarded bytes
    let s := q.1
    match q.2, framing transport source forwarded bytes with
    | .gone, _ => s
    | _, .discard => s.bump Reg.CMD_FRAMEERR_CNT
    | .full, .refused op r _ => s.refuse op r (.no .busy 0xFFFC)
    | .full, .passed op r => s.refuse op r (.no .busy 0xFFFC)
    | .here, .refused op r a => s.refuse op r a
    | .here, .passed op r =>
      let away := !forwarded && r.target != 0
      match headerFault bytes with
      | some a =>
        if away ∧ targetKnown r.target then
          (if s.mode = .selftest ∨ s.mode = .recovery then s.refuse op r (.no .notInMode s.mode.code)
           else s.forwardBytes op r bytes)
        else s.refuse op r a
      | none => if away ∨ op ∈ assignedOps then s else s.unassigned op r

/-- PACKET_FORWARD (R237). -/
def execPacketForward (op : Nat) (r : Req) (s : State) : Out := .next <|
  if r.forwarded ∨ r.target = 0 then s else s.withPacket op r (fun s => s.sendAway op r)

/-! ### What times out -/

/-- The sessions of Trig or of the supervisor. -/
def State.deskOf (s : State) (trig : Bool) : Desk := if trig then s.trig.desk else s.cmd.desk
def State.putDesk (s : State) (trig : Bool) (d : Desk) : State :=
  if trig then { s with trig.desk := d } else { s with cmd.desk := d }

/-- DANGEROUS_ARM_TIMEOUT (R248): 10 s after step 0. -/
def execDangerousArmTimeout (trig : Bool) (num : Nat) (s : State) : Out := .next <|
  let d := s.deskOf trig
  if d.sessions.any (fun x => x.num == num && x.armed.any (fun a => decide (a.at_ + 10000000000 < s.opNs))) then
    let s := s.putDesk trig (d.modSession num (fun x => { x with armed := none }))
    if trig then s else s.cmdStat
  else s

/-- SESSION_IDLE_TIMEOUT (R241). -/
def execSessionIdleTimeout (trig : Bool) (num : Nat) (s : State) : Out := .next <|
  if (s.deskOf trig).sessions.any (fun x => x.num == num && decide (x.lastUsed + s.sessionIdle trig * 1000000000 ≤ s.opNs)) then
    s.endSession trig num
  else s

/-- AUTH_LOCK_EXPIRY (R244): 60 s after the lock. -/
def execAuthLockExpiry (trig : Bool) (transport : Fin 8) (s : State) : Out := .next <|
  let d := s.deskOf trig
  let x := d.transport transport.val
  match x.lockedAt with
  | none => s
  | some t =>
    if s.opNs < t + 60000000000 then s
    else
      let s := s.putDesk trig (d.setTransport transport.val { x with lockedAt := none })
      if trig then s else s.clrBit Reg.CMD_STAT_LOCKED transport.val

/-! ### The end of a long operation (R239) -/

/-- A status by its number. -/
def statusOf (n : Nat) : Status :=
  ([.ok, .busy, .badOpcode, .badLength, .badCrc, .notInMode, .authFail, .resourceConflict, .versionDown, .signatureBad,
    .changeTooLarge, .wcetExceeds, .sealed, .lockedOut, .busyStopping, .unconfirmed, .storeError, .targetLost] :
    List Status).getD n .ok

/-- LONG_OPERATION_COMPLETE (R239): the operation that runs in the background replies; an edit that has passed its checks
becomes the committed configuration (R252), and the restart behind an UPD_ACTIVATE falls due (R447). -/
def execLongOperationComplete (s : State) : Out := .next <|
  match s.cmd.longOp with
  | none => s
  | some l =>
    if !l.background then s
    else
      let s := State.flag { s with cmd.longOp := none } Reg.CMD_STAT_LONG_OP false
      let s := s.finish l.opcode l.req ⟨statusOf l.status, l.detail, l.ext, l.payload⟩
      if l.opcode = 0x0203 ∧ l.status = 0 then s.commitEdit
      else if l.opcode = 0x0702 ∧ l.status = 0 then { s with sup.restartDue := true }
      else s

/-! ### RDG_INFO -/

/-- An entry of the position list. -/
def Position.entry (p : Position) : List Byte :=
  [BitVec.ofNat 8 p.station, BitVec.ofNat 8 (p.unit % 2 + 2 * (p.role % 4)), 0, 0] ++ leBytes 4 p.serial

/-- The RDG_INFO reply (R353). -/
def State.ridgeInfo (s : State) : List Byte :=
  let map := fun (k : Nat) => leBytes 4 (s.fld k).toNat
  [BitVec.ofNat 8 (s.fld Reg.RDG_STAT_STATE).toNat, BitVec.ofNat 8 (s.fld Reg.RDG_STAT_POSITIONS).toNat, 0, 0] ++
    map Reg.RDG_ONLINELO_MAP ++ map Reg.RDG_ONLINEHI_MAP ++ map Reg.RDG_REFUSEDLO_MAP ++ map Reg.RDG_REFUSEDHI_MAP ++
    (s.rdg.positions.flatMap Position.entry ++ List.replicate 512 0).take 512

/-- RDG_INFO (R353). -/
def execRdgInfo (r : Req) (s : State) : Out := .next <|
  s.serveAnswer ⟨0x0C00, .any, fixedLen 0, allModes, false⟩ r (fun s => (s, .okWith s.ridgeInfo))

end Sys2Proof.Machine
end

