-- ==== Sys2Proof/Machine/TestRows.lean ====
section
/-! DEFINITION. The test rows of the coded arrays and the tests that SELFTEST makes on them (spec/07_protected_store.md
R202). The arrays are numbered 0 to 7 for the banks of the Protected Store, 8 to 11 for those of the Retentive Store, 12 for
Program RAM, and 13 to 15 for Image RAM, the live and the committed image (notes/assumptions/44.md). -/
namespace Sys2Proof.Machine

/-- Arrays with a test row, and words of a row. -/
def testArrays : Nat := 16
def rowWords : Nat := 64

/-- A word of the walking pattern: one bit, at the place of the word in its row. -/
def walkingWord (i : Nat) : Code := encodeWord i (BitVec.ofNat 64 (2 ^ i))

/-- What the read port returns for a word of the row with one thing wrong, and the class it must find (R195): a data bit, a
check bit, an address bit, two data bits, the poison pattern. -/
def injected (w : Nat) (c : Code) : List (Code × Cls) :=
  (List.range 64).map (fun i => ({ c with data := c.data ^^^ BitVec.ofNat 64 (2 ^ i) }, Cls.ce)) ++
  (List.range 8).map (fun m => ({ c with chk := c.chk ^^^ BitVec.ofNat 8 (2 ^ m) }, .ce)) ++
  (List.range 23).map (fun k => (encodeWord (w ^^^ 2 ^ k) c.data, .address)) ++
  [({ c with data := c.data ^^^ 3 }, .ue), (poisonWord w, .poison)]

/-- A partial write of one code word (R200): what is stored, and whether it is refused. -/
def partialOf (w : Nat) (c : Code) (data mask : DWord) : Code × Bool :=
  match c.cls w with
  | .clean | .ce => (encodeWord w (mergeBits (corrected w c) data mask), false)
  | .ue => (poisonWord w, true)
  | .poison | .address => (c, true)

/-- The two partial writes of the test: onto a word with one wrong bit, and onto a poisoned word. -/
def partialTests (w : Nat) : List (Code × Bool) :=
  let ce : Code := { walkingWord w with data := (walkingWord w).data ^^^ 1 }
  [partialOf w ce 0xA5 0xFF, partialOf w (poisonWord w) 0xA5 0xFF]

/-- Every read and both partial writes come out as the code has them. -/
def rowPasses : Bool :=
  (List.range rowWords).all (fun w => (walkingWord w).cls w == .clean) &&
    (injected 0 (walkingWord 0)).all (fun e => e.1.cls 0 == e.2) &&
    partialTests 62 == [(encodeWord 62 (mergeBits (BitVec.ofNat 64 (2 ^ 62)) 0xA5 0xFF), false), (poisonWord 62, true)]

/-- What the test leaves in a row: the walking pattern, and the results of the partial writes in its last two words. -/
def rowContent : List Code :=
  (List.range 62).map walkingWord ++ (partialTests 62).map (·.1)

/-- Every test row is written and read; `fault` names an array whose reads come out wrong. The first array that fails. -/
def State.testStores (s : State) (fault : Option Nat) : State × Option Nat :=
  ({ s with mem.test := (List.range testArrays).flatMap (fun a =>
      ((List.range rowWords).zip rowContent).map (fun e => (a * rowWords + e.1, e.2))) },
   if rowPasses then fault else some 0)

end Sys2Proof.Machine
end

