-- ==== Sys2Proof/Machine/TrigOps.lean ====
section
/-! DEFINITION. The operations of Trig: energy, periods, records and log (spec/17_energy_measurement.md). -/
namespace Sys2Proof.Machine

/-! ### Parameters (R413, R427) -/

/-- A field of the parameter block in force. -/
def Trig.par (t : Trig) (off n : Nat) : Nat := fieldAt t.params off n

/-- Measurement system `ms`, 1 or 2, is in use. -/
def Trig.used (t : Trig) (ms : Nat) : Bool := bitAt (t.par 5 1) (ms - 1) == 1

/-- The inputs, 1 to 6, that measure voltage and current of a system: EM5 and EM6 may replace its own. -/
def Trig.uInput (t : Trig) (ms : Nat) : Nat := if bitsAt (t.par 6 1) 0 2 = ms then 5 else ms
def Trig.iInput (t : Trig) (ms : Nat) : Nat := if bitsAt (t.par 6 1) 2 2 = ms then 6 else ms + 2

/-- The scale of an input: sign, and a magnitude man * 2^exp. -/
def Trig.scale (t : Trig) (k : Nat) : Bool × Nat × Int :=
  match fpDecode (BitVec.ofNat 32 (t.par (0x08 + 4 * (k - 1)) 4)) with
  | .fin n m e => (n, m, e)
  | _ => (false, 0, 0)

/-- The parameter check. -/
def parCheck (b : List Byte) : Word := crc32c (b.take 0x3C)

/-- The lowest-numbered system in use. -/
def Trig.lead (t : Trig) : Option Nat := [1, 2].find? t.used

/-! ### Energy (R415, R416)

Sums are over products of samples in fifths of a code. A fifth of a code is 2 V / 2^23 at the input, so a product is
2^-44 of the square. -/

/-- The energy of a window of a system in J times 8: sign and magnitude man * 2^exp. -/
def Trig.product (t : Trig) (ms : Nat) (w : MsWin) : Bool × Nat × Int :=
  let u := t.scale (t.uInput ms)
  let i := t.scale (t.iInput ms)
  (decide (w.ui < 0) != (u.1 != i.1), w.ui.natAbs * u.2.1 * i.2.1, u.2.2 + i.2.2 - 44)

/-- The energy of a window in mJ, rounded down or up. -/
def Trig.energy (t : Trig) (ms : Nat) (w : MsWin) : Bool × Nat :=
  let p := t.product ms w
  let e := p.2.2 - 3
  (p.1 && p.2.1 != 0, if 0 ≤ e then p.2.1 * 2 ^ e.toNat else rounded 9 p.2.1 (2 ^ (-e).toNat))

/-- A window adds to the consumed energy, or with a negative sum to the regenerated. -/
def MsAcc.add (a : MsAcc) (e : Bool × Nat) : MsAcc :=
  if e.1 then { a with regen := a.regen + e.2 } else { a with cons := a.cons + e.2 }

/-- The end of a window: its energy is added and saved, and a new window begins. -/
def Trig.endWindow (t : Trig) : Trig :=
  let e := fun (ms : Nat) (w : MsWin) => if t.used ms then t.energy ms w else (false, 0)
  let e1 := e 1 t.win1
  let e2 := e 2 t.win2
  let part := fun (neg : Bool) (x : Bool × Nat) => if x.1 = neg then x.2 else 0
  { t with ms1 := t.ms1.add e1, ms2 := t.ms2.add e2, cumCons := t.cumCons + part false e1 + part false e2,
           cumRegen := t.cumRegen + part true e1 + part true e2, winN := 0, win1 := .zero, win2 := .zero, crossed := false }

/-- Wh in an amount of mJ, and kWh. -/
def wattHours (mj : Nat) : Nat := mj / 3600000
def kiloWattHours (mj : Nat) : Nat := mj / 3600000000 % 2 ^ 32

/-- The supply system asks for whole cycles. -/
def Trig.ac (t : Trig) : Bool := t.system == 4 || t.system == 5

/-- The running window has come to its end. -/
def Trig.windowDue (t : Trig) : Bool := decide (8000 ≤ t.winN) && (!t.ac || t.crossed)

/-! ### The values of the EMP view (R424) -/

/-- A quotient man * 2^exp / den as binary32, rounded to nearest, ties to even. -/
def fpQuotient (neg : Bool) (man : Nat) (exp : Int) (den : Nat) : Word :=
  let k := 64 + Nat.log2 (den + 1)
  let n := man * 2 ^ k
  (fpRound neg (n / den) (exp - k) (n % den != 0)).1

/-- The root mean square of a sum of squares over `n` samples, scaled. -/
def rms (x : Bool × Nat × Int) (sum n : Nat) : Word :=
  let v := sum * x.2.1 * x.2.1 * 2 ^ 80 / n
  let r := isqrt (Nat.log2 (v + 1) / 2 + 1) v 0
  (fpRound false r (x.2.2 - 22 - 40) (r * r != v)).1

/-- Mean power, voltage and current of a system in the window that ends. -/
def Trig.view (t : Trig) (ms : Nat) (w : MsWin) : Word × Word × Word :=
  if t.winN = 0 ∨ !t.used ms then (0, 0, 0)
  else
    let p := t.product ms w
    (fpQuotient p.1 p.2.1 p.2.2 t.winN, rms (t.scale (t.uInput ms)) w.uu t.winN, rms (t.scale (t.iInput ms)) w.ii t.winN)

/-! ### The log (R419, R420) -/

/-- Records that are not acknowledged; the log holds at least 400,000. -/
def Trig.unacked (t : Trig) : Nat := t.nextSeq - t.acked
def logCapacity : Nat := 400000 + Config.trigLogSpare

/-- A further record can be written: there is room, or the oldest has been acknowledged. -/
def Trig.hasRoom (t : Trig) : Bool :=
  decide (t.log.length < 400000 ∨ t.log.length < logCapacity) ||
    (match t.log with
      | r :: _ => decide (r.1 < t.acked)
      | [] => false)

/-- A record: its 64 bytes of content and their signature. -/
def Trig.signed (t : Trig) (content : List Byte) : List Byte := content ++ edSign t.secret content

/-- Append a record; the oldest goes where the log is full. -/
def Trig.append (t : Trig) (content : List Byte) : Trig :=
  let keep := if t.log.length < 400000 ∨ t.log.length < logCapacity then t.log else t.log.drop 1
  { t with log := keep ++ [(t.nextSeq, t.signed content)], nextSeq := t.nextSeq + 1 }

/-- Trig's time as a record holds it: UTC, or operating time with TIME_UNSET. -/
def Trig.now (t : Trig) : Nat × Bool := if t.utcValid then (t.utc, false) else (t.opNs, true)

/-- An event record, dropped and counted where the log is full. -/
def Trig.event (t : Trig) (code : Nat) (payload : List Byte) : Trig :=
  if t.hasRoom then
    t.append (leBytes 4 t.nextSeq ++ [2, BitVec.ofNat 8 code] ++ leBytes 2 (b2n t.now.2) ++ leBytes 8 t.now.1 ++
      (payload ++ List.replicate 48 0).take 48)
  else { t with dropped := t.dropped + 1, wasFull := true }

/-! ### Periods (R417, R418) -/

/-- Flags of a period record. -/
def fShort : Nat := 2
def fPowerUp : Nat := 4
def fPowerFail : Nat := 8
def fTimeStep : Nat := 16
def fParam : Nat := 32
def fSystem : Nat := 64
def fOverrange : Nat := 512
def fInterrupted : Nat := 1024
def fSealOpen : Nat := 4096

/-- A period that starts now. -/
def Trig.newPeriod (t : Trig) (flags : Nat) : Trig :=
  let n := t.now
  { t with period := ⟨n.1, (n.1 / 300000000000 + 1) * 300000000000, n.2, t.opNs, flags ||| (if t.sealOpen then fSealOpen else 0)⟩
           ending := none }

/-- Add flags to the running period. -/
def Trig.mark (t : Trig) (f : Nat) : Trig := { t with period.flags := t.period.flags ||| f }

/-- The period ends early, with these flags in its record. -/
def Trig.endEarly (t : Trig) (f : Nat) : Trig := { t with ending := some (t.ending.getD 0 ||| f ||| fShort) }

/-- The period has come to its end, early or as planned. -/
def Trig.periodDue (t : Trig) : Bool :=
  t.ending.isSome || decide (t.period.planned ≤ if t.period.unset then t.opNs else t.utc)

/-- A substitute input is in use. -/
def Trig.substituted (t : Trig) : Bool := [1, 2].any (fun ms => t.used ms && (t.uInput ms == 5 || t.iInput ms == 6))

/-- The content of a period record (R419). -/
def Trig.periodRecord (t : Trig) : List Byte :=
  let p := t.period
  let a := t.aggStart.getD (p.start, p.unset, p.opStart)
  let flags := b2n a.2.1 ||| p.flags ||| t.ending.getD 0 ||| (if t.aggStart.isSome then 128 else 0) |||
    (if t.pos.isNone then 256 else 0) ||| (if t.substituted then 2048 else 0)
  let pos := t.pos.getD (0, 0, 0)
  let age := if t.pos.isSome then min 0xFFFE (rounded 10 (t.opNs - pos.2.2) 1000000000) else 0xFFFF
  leBytes 4 t.nextSeq ++ [1, BitVec.ofNat 8 t.system] ++ leBytes 2 flags ++ leBytes 8 a.1 ++
    leBytes 4 (rounded 11 (t.opNs - a.2.2) 1000000) ++ leBytes 4 pos.1.toNat ++ leBytes 4 pos.2.1.toNat ++ leBytes 2 age ++
    [0, 0] ++ leBytes 4 (wattHours t.ms1.cons) ++ leBytes 4 (wattHours t.ms1.regen) ++ leBytes 4 (wattHours t.ms2.cons) ++
    leBytes 4 (wattHours t.ms2.regen) ++ leBytes 4 (kiloWattHours t.cumCons) ++ leBytes 4 (kiloWattHours t.cumRegen) ++
    leBytes 2 t.sealCnt ++ leBytes 1 t.fwCounter ++ [0] ++ leBytes 4 (parCheck t.params).toNat

/-- The energy that whole Wh have not taken stays for the next period. -/
def MsAcc.rest (a : MsAcc) : MsAcc := ⟨a.cons % 3600000, a.regen % 3600000⟩

/-- The period's record, or the deferral of its energy where the log is full. -/
def Trig.record (t : Trig) : Trig :=
  if t.hasRoom then
    { t.append t.periodRecord with ms1 := t.ms1.rest, ms2 := t.ms2.rest, deferred := 0, aggStart := none }
  else
    let p := t.period
    { t with deferred := t.deferred + 1, aggStart := some (t.aggStart.getD (p.start, p.unset, p.opStart)), wasFull := true }

/-- The period, whose last window has ended, ends: its record, and the changes that take effect with it. -/
def Trig.endPeriod (t : Trig) (flags : Nat) : Trig :=
  let t := t.record
  let t := if 3 ≤ t.sysCount then { t with system := t.sysNew, sysCount := 0 } else t
  let t := { t with params := t.nextParams.getD t.params, nextParams := none }
  t.newPeriod flags

/-! ### The supply system (R414) -/

/-- A voltage lies in a range given in V: `num/den` times the square of 2^-22 V and the scale, against the squares. -/
def inVolts (x : Bool × Nat × Int) (num den lo hi : Nat) : Bool :=
  let v := num * x.2.1 * x.2.1
  let e := 2 * x.2.2 - 44
  let up := if 0 ≤ e then 2 ^ e.toNat else 1
  let down := if 0 ≤ e then 1 else 2 ^ (-e).toNat
  decide (lo * lo * den * down ≤ v * up ∧ v * up ≤ hi * hi * den * down)

/-- The supply system that the running second shows: the first enabled entry that its voltage meets, 0 none. -/
def Trig.classify (t : Trig) : Nat :=
  match t.lead with
  | none => 0
  | some ms =>
    let v := t.sec
    let x := t.scale (t.uInput ms)
    let dc := decide (361 * v.n * v.uu ≤ 400 * v.u.natAbs ^ 2)
    let on := fun (c : Nat) => bitAt (t.par 4 1) (c - 1) == 1
    let mean := fun (lo hi : Nat) => inVolts x (v.u.natAbs ^ 2) (v.n ^ 2) lo hi
    let eff := fun (lo hi : Nat) => inVolts x v.uu v.n lo hi
    let freq := fun (lo hi : Nat) => decide (lo ≤ v.cross ∧ v.cross ≤ hi)
    let hit := fun (c : Nat) => on c && (match c with
      | 1 => dc && mean 500 1000
      | 2 => dc && mean 1000 2000
      | 3 => dc && mean 2000 3900
      | 4 => !dc && eff 11000 18500 && freq 16 17
      | _ => !dc && eff 17500 29000 && freq 48 52)
    ([1, 2, 3, 4, 5].find? hit).getD 0

/-- A second of voltage is complete: a system that has held for three of them replaces the old one. -/
def Trig.endSecond (t : Trig) : Trig :=
  let c := t.classify
  let n := if c = t.system then 0 else if c = t.sysNew then t.sysCount + 1 else 1
  let t := { t with sec := ⟨0, 0, 0, 0⟩, sysNew := c, sysCount := n }
  if n = 3 then t.endEarly fSystem else t

/-! ### Trig's page and view (R424, the EMP registers) -/

/-- The signals that block 0x16 maps. -/
def State.trigSamples (s : State) : List Sample :=
  let ks := [Reg.EMP_P1, Reg.EMP_P2, Reg.EMP_U1, Reg.EMP_U2, Reg.EMP_I1, Reg.EMP_I2, Reg.EMP_CUMCONS, Reg.EMP_CUMREGEN]
  let ws := ks.map s.fld ++ [s.regValue 0x16 0x004]
  let q := if s.trig.fault then 3 else 1
  ((List.range 9).zip ws).filterMap (fun e =>
    let x := s.cfg 0x16 (8 + 4 * e.1) 4
    if bitAt x 31 = 1 then some ⟨bitsAt x 0 18, some (true, e.2), true, q⟩ else none)

/-- The EMP page follows Trig, but for the values of the last window. -/
def State.trigPage (s : State) : State :=
  let t := s.trig
  let w := fun (n : Nat) => BitVec.ofNat 32 n
  let full := !t.hasRoom
  let s := ((((s.flag Reg.EMP_STAT_RUNNING t.running).flag Reg.EMP_STAT_FAULT t.fault).flag Reg.EMP_STAT_SEAL_OPEN
    t.sealOpen).flag Reg.EMP_STAT_TIME_VALID t.utcValid).flag Reg.EMP_STAT_POS_VALID t.pos.isSome
  let s := ((s.flag Reg.EMP_STAT_LOG_NEAR_FULL (decide (360000 ≤ t.unacked ∧ 9 * logCapacity ≤ 10 * t.unacked))).flag
    Reg.EMP_STAT_LOG_FULL full).flag Reg.EMP_STAT_OVERRANGE t.overSec
  let s := (s.setFld Reg.EMP_STAT_SYSTEM (w t.system)).setFld Reg.EMP_STAT_MBOX_ERR (w (min 0xFFFF t.mboxErr))
  let s := ((s.setFld Reg.EMP_SEALCNT (w t.sealCnt)).setFld Reg.EMP_FWVER t.fwVersion).setFld Reg.SYS_TRIGVER_VERSION t.fwVersion
  let s := ((s.setFld Reg.EMP_FWCTR (w t.fwCounter)).setFld Reg.EMP_SWID t.swid).setFld Reg.EMP_PARCHK (parCheck t.params)
  let s := ((s.setFld Reg.EMP_LOGHEAD (w (t.nextSeq - 1))).setFld Reg.EMP_LOGACK (w t.acked)).setFld Reg.EMP_LOGFREE
    (w (logCapacity - t.unacked))
  (s.setFld Reg.EMP_CUMCONS (w (kiloWattHours t.cumCons))).setFld Reg.EMP_CUMREGEN (w (kiloWattHours t.cumRegen))

/-- Change Trig. -/
def State.onTrig (s : State) (f : Trig → Trig) : State := { s with trig := f s.trig }

/-- The end of a window as the module sees it: the view takes its values. -/
def State.trigWindow (s : State) : State :=
  let a := s.trig.view 1 s.trig.win1
  let b := s.trig.view 2 s.trig.win2
  let s := s.onTrig Trig.endWindow
  let s := ((s.setFld Reg.EMP_P1 a.1).setFld Reg.EMP_U1 a.2.1).setFld Reg.EMP_I1 a.2.2
  let s := (((s.setFld Reg.EMP_P2 b.1).setFld Reg.EMP_U2 b.2.1).setFld Reg.EMP_I2 b.2.2).trigPage
  State.onTrig (s.deliver .trig s.trigSamples) (fun t => { t with overSec := false })

/-- The period ends with its window; the next one begins with these flags. -/
def State.trigPeriod (s : State) (flags : Nat) : State :=
  let s := if s.trig.winN = 0 then s else s.trigWindow
  (s.onTrig (fun t => t.endPeriod flags)).trigPage

/-- What has come due by Trig's time: the second, the period, the window. -/
def State.trigDue (s : State) : State :=
  let s := if 8000 ≤ s.trig.sec.n then s.onTrig Trig.endSecond else s
  let s := if s.trig.periodDue then s.trigPeriod 0 else s
  if s.trig.windowDue then s.trigWindow else s

/-! ### Samples (R413) -/

/-- ±10.5 V in fifths of a code, and a sample clipped to it. -/
def clipLimit : Int := 44040192
def clip (x : Int) : Int := max (-clipLimit) (min clipLimit x)

/-- A sample adds to the sums of a system. -/
def MsWin.add (w : MsWin) (u i : Int) : MsWin := ⟨w.ui + u * i, w.uu + u.natAbs ^ 2, w.ii + i.natAbs ^ 2⟩

/-- One sample of all six inputs, in fifths of a code. -/
def Trig.sample (t : Trig) (xs : List Int) : Trig :=
  let beyond := xs.any (fun x => decide (x < -clipLimit ∨ clipLimit < x))
  let x := fun (k : Nat) => clip (xs.getD (k - 1) 0)
  let u := match t.lead with
    | some ms => x (t.uInput ms)
    | none => 0
  let cross := decide (t.prevU < 0 ∧ 0 ≤ u)
  let t := if beyond then { t.mark fOverrange with overSec := true } else t
  let v := t.sec
  { t with opNs := t.opNs + 125000, utc := if t.utcValid then t.utc + 125000 else t.utc, winN := t.winN + 1,
           win1 := t.win1.add (x (t.uInput 1)) (x (t.iInput 1)), win2 := t.win2.add (x (t.uInput 2)) (x (t.iInput 2)),
           prevU := u, crossed := cross && decide (8000 ≤ t.winN),
           sec := ⟨v.n + 1, v.u + u, v.uu + u.natAbs ^ 2, v.cross + b2n cross⟩ }

end Sys2Proof.Machine
end

