-- ==== Sys2Proof/Machine/TrigRows.lean ====
section
/-! DEFINITION. What happens at Trig, and Trig's commands: one meaning per row (spec/17_energy_measurement.md,
spec/19_firmware_update.md R452). -/
namespace Sys2Proof.Machine

/-! ### Measurement -/

/-- METROLOGY_SAMPLE (R413): six inputs in fifths of a code. What has come due ends before it. -/
def execMetrologySample (em1 em2 em3 em4 em5 em6 : Int) (s : State) : Out := .next <|
  if !s.trig.running then s else s.trigDue.onTrig (fun t => t.sample [em1, em2, em3, em4, em5, em6])

/-- ENERGY_WINDOW_END (R415, R416, R424). -/
def execEnergyWindowEnd (s : State) : Out := .next <|
  if s.trig.running ∧ s.trig.windowDue then s.trigWindow else s

/-- SUPPLY_SYSTEM_CLASSIFY (R414). -/
def execSupplySystemClassify (s : State) : Out := .next <|
  if s.trig.running ∧ 8000 ≤ s.trig.sec.n then s.onTrig Trig.endSecond else s

/-- PERIOD_END (R417, R418). -/
def execPeriodEnd (s : State) : Out := .next <|
  if s.trig.running ∧ s.trig.periodDue then s.trigPeriod 0 else s

/-! ### The seal (R425) -/

/-- The seal counter in an event record. -/
def Trig.sealPayload (t : Trig) : List Byte := leBytes 4 t.sealCnt

/-- SEAL_OPENED (R425): the link has read open for 100 ms after having been closed. -/
def execSealOpened (s : State) : Out := .next <|
  if !s.trig.running ∨ s.trig.sealOpen then s
  else State.trigPage (s.onTrig (fun t =>
    let t := ({ t with sealOpen := true, sealCnt := min 0xFFFFFFFF (t.sealCnt + 1) }.mark fSealOpen)
    t.event 1 t.sealPayload))

/-- SEAL_CLOSED (R425); an update that has not come to its step 1 is given up (R452). -/
def execSealClosed (s : State) : Out := .next <|
  if !s.trig.running ∨ !s.trig.sealOpen then s
  else State.trigPage (s.onTrig (fun t => { t with sealOpen := false, update := none }.event 2 t.sealPayload))

/-! ### The mailbox (R421 to R423) -/

/-- A message that Trig discards. -/
def Trig.discard (t : Trig) : Trig := { t with mboxErr := min 0xFFFF (t.mboxErr + 1) }

/-- The payload of a message of a type, none where TYPE or LEN is not right. -/
def mailPayload (type : Nat) (m : List Byte) : Option (List Byte) :=
  if 4 ≤ m.length ∧ fieldAt m 0 1 = type ∧ m.length = 4 + fieldAt m 2 2 then some (m.drop 4) else none

/-- Trig's time becomes `ns` (R417, R421). -/
def Trig.setTime (t : Trig) (ns : Nat) : Trig :=
  let old := if t.utcValid then t.utc else 0
  let step := !t.utcValid || decide (1000000000 < max ns old - min ns old)
  let t := { t with utc := ns, utcValid := true }
  if step then (t.event 5 (leBytes 8 old ++ leBytes 8 ns)).endEarly fTimeStep else t

/-- TIME (R421, R423). -/
def execTime (message : List Byte) (s : State) : Out := .next <|
  if !s.trig.running then s
  else match mailPayload 0x01 message with
    | some p =>
      if p.length = 12 ∧ 1 ≤ fieldAt p 8 1 ∧ fieldAt p 8 1 ≤ 3 then s.onTrig (fun t => t.setTime (fieldAt p 0 8))
      else s.onTrig Trig.discard
    | none => s.onTrig Trig.discard

/-- A position in range: ±90 and ±180 degrees. -/
def positionOk (lat lon : Word) : Bool :=
  decide (lat.toInt.natAbs ≤ 900000000) && decide (lon.toInt.natAbs ≤ 1800000000)

/-- POSITION (R422, R423). -/
def execPosition (message : List Byte) (s : State) : Out := .next <|
  if !s.trig.running then s
  else match mailPayload 0x02 message with
    | some p =>
      let lat := BitVec.ofNat 32 (fieldAt p 0 4)
      let lon := BitVec.ofNat 32 (fieldAt p 4 4)
      if p.length = 8 ∧ positionOk lat lon then s.onTrig (fun t => { t with pos := some (lat, lon, t.opNs) })
      else s.onTrig Trig.discard
    | none => s.onTrig Trig.discard

/-- The WORD signal that block 0x16 names at an offset, with its committed value where it is VALID. A forced value is not sent:
forcing never reaches Trig (R86). -/
def State.posSignal (s : State) (off : Nat) : State × Option Word :=
  let x := s.cfg 0x16 off 4
  let id := bitsAt x 0 18
  if bitAt x 31 = 0 then (s, none)
  else
    let r := s.readMany .com .supervisor [(wordLoc id).1, (statLoc id).1]
    match readSig r.2 true id with
    | some (v, st) => (r.1, if st % 2 = 1 ∧ bitAt st 2 = 0 then some v else none)
    | none => (r.1, none)

/-- MAILBOX_SEND (R421, R422): each whole second the supervisor sends TIME while calendar time is valid, and POSITION where
both signals are VALID. -/
def execMailboxSend (s : State) : Out := .next <|
  let s := if s.time.utcValid then
      s.toTrig 0x01 (leBytes 8 s.time.utc ++ [BitVec.ofNat 8 (s.fld Reg.ESW_PTPSTAT_SOURCE).toNat, 0, 0, 0])
    else s
  let a := s.posSignal 0x00
  let b := a.1.posSignal 0x04
  match a.2, b.2 with
  | some lat, some lon => b.1.toTrig 0x02 (leBytes 4 lat.toNat ++ leBytes 4 lon.toNat)
  | _, _ => b.1

/-! ### Trig's commands (R426) -/

/-- Trig serves a request: gate, role and length; it knows no modes and no long operations. -/
def State.trigServe (s : State) (op : Nat) (roles : Roles) (len : Nat → Option Nat) (r : Req)
    (act : Option Armed → State → State) : State :=
  match s.gate op r with
  | .stop s => s
  | .pass s role armed =>
    if !roles.allow role then s.finish op r (.no .authFail 0x0004)
    else match len r.payload.length with
      | some d => s.finish op r (.no .badLength d)
      | none => act armed s

/-- A command that computes an answer. -/
def State.trigAnswer (s : State) (op : Nat) (roles : Roles) (len : Nat → Option Nat) (r : Req)
    (act : State → State × Answer) : State :=
  s.trigServe op roles len r (fun _ s => let q := act s; q.1.finish op r q.2)

/-- Roles O and T, and T alone. -/
def rOT : Roles := .of [.operator, .metrologist]
def rT : Roles := .of [.metrologist]

/-- A command that needs an open seal. -/
def State.sealed (s : State) (go : State → State × Answer) : State × Answer :=
  if s.trig.sealOpen then go s else (s, .no .sealed 0x0001)

/-- EMP_STATUS: the 23 words of the EMP page. -/
def State.empStatus (s : State) (r : Req) : State :=
  s.trigAnswer 0x0B00 .none (fixedLen 0) r (fun s =>
    (s, .okWith ((List.range 23).flatMap (fun i => leBytes 4 (s.regNat 0x16 (4 + 4 * i))))))

/-- EMP_READ: records from a SEQ, or from the oldest retained. -/
def Trig.read (t : Trig) (first count : Nat) : List Byte :=
  let oldest := match t.log with
    | r :: _ => r.1
    | [] => t.nextSeq
  let f := max first oldest
  let rs := (t.log.filter (fun r => decide (f ≤ r.1))).take count
  leBytes 4 f ++ leBytes 2 rs.length ++ [0, 0] ++ rs.flatMap (·.2)

def State.empRead (s : State) (r : Req) : State :=
  s.trigAnswer 0x0B01 rOT (fixedLen 8) r (fun s =>
    let n := r.nat 4 2
    (s, if n = 0 ∨ 31 < n then badRange else .okWith (s.trig.read (r.nat 0 4) n)))

/-- Records up to a SEQ are acknowledged; when space returns, one LOG_FULL record says so (R420). -/
def Trig.ack (t : Trig) (seq : Nat) : Trig :=
  let t := { t with acked := max t.acked (seq + 1) }
  if t.wasFull ∧ t.hasRoom then { t with wasFull := false, dropped := 0 }.event 7 (leBytes 4 t.deferred) else t

/-- EMP_ACK. -/
def State.empAck (s : State) (r : Req) : State :=
  s.trigAnswer 0x0B02 rOT (fixedLen 4) r (fun s =>
    if s.trig.nextSeq ≤ r.nat 0 4 then (s, badRange)
    else
      let s := (s.onTrig (fun t => t.ack (r.nat 0 4))).trigPage
      (s, .okWith (leBytes 4 s.trig.acked)))

/-- A parameter block in range (R427): a scale is a number. Reserved bytes are ignored (R9). -/
def paramsOk (b : List Byte) : Bool :=
  let scale := fun (k : Nat) => match fpDecode (BitVec.ofNat 32 (fieldAt b (8 + 4 * k) 4)) with
    | .fin _ _ _ => true
    | _ => false
  fieldAt b 0 4 == 0x7E160001 && decide (fieldAt b 4 1 < 32) && decide (fieldAt b 5 1 < 4) && fieldAt b 6 1 % 4 != 3 &&
    decide (fieldAt b 6 1 / 4 < 3) && (List.range 6).all scale

/-- A parameter block as it is kept: what is reserved is zero (R9). -/
def paramsKept (b : List Byte) : List Byte := b.take 7 ++ [0] ++ (b.drop 8).take 24 ++ List.replicate 28 0

/-- An accepted parameter write ends the period and takes effect with that end (R417, R427). -/
def Trig.setParams (t : Trig) (b : List Byte) : Trig :=
  let new := b ++ leBytes 4 (parCheck b).toNat
  let old := parCheck (t.nextParams.getD t.params)
  let t := t.event 3 (leBytes 4 old.toNat ++ leBytes 4 (parCheck b).toNat)
  { t with nextParams := some new }.endEarly fParam

/-- EMP_PARAM by its OP. -/
def State.empParamOp (s : State) (r : Req) : State × Answer :=
  let b := r.payload.drop 4
  let t := s.trig
  match r.nat 0 1, b.length with
  | 0, 0 => (s, .okWith (t.nextParams.getD t.params))
  | 1, 60 => s.sealed (fun s =>
      if paramsOk b then (s.onTrig (fun t => t.setParams (paramsKept b)), .okWith (leBytes 4 (parCheck (paramsKept b)).toNat))
      else (s, badRange))
  | 2, 32 => s.sealed (fun s => (s.onTrig (fun t => { t with operKey := b }), .done))
  | 3, 0 => (s, .okWith (leBytes 4 t.sealCnt))
  | _, _ => (s, badRange)

/-- EMP_PARAM. -/
def State.empParam (s : State) (r : Req) : State :=
  s.trigAnswer 0x0B03 rT (lenBetween 4 64) r (fun s => s.empParamOp r)

/-- EMP_SWID. -/
def State.empSwid (s : State) (r : Req) : State :=
  s.trigAnswer 0x0B04 .none (fixedLen 0) r (fun s =>
    let t := s.trig
    (s, .okWith (leBytes 4 t.fwVersion.toNat ++ leBytes 1 t.fwCounter ++ [0, 0, 0] ++ leBytes 4 t.swid.toNat ++
      edPublic t.secret)))

/-! ### Trig's firmware (R452) -/

/-- The rules of Trig's verifier. -/
def Trig.rules (t : Trig) : FwRules := ⟨0x5A465702, 2031616, t.romKey, t.fwCounter⟩

/-- The banks: the one that does not run, and a bank replaced. -/
def Trig.bank (t : Trig) (one : Bool) : FwStore := if one then t.bank1 else t.bank0
def Trig.setBank (t : Trig) (one : Bool) (f : FwStore) : Trig := if one then { t with bank1 := f } else { t with bank0 := f }

/-- EMP_UPD_BEGIN. -/
def State.empUpdBegin (s : State) (r : Req) : State :=
  s.trigAnswer 0x0B05 rT (fixedLen 2048) r (fun s => s.sealed (fun s =>
    if s.trig.update.isSome ∧ !ownsUpdate s.trig.update r then (s, .no .busy 0xFFFB)
    else match beginRefusal s.trig.rules r.payload with
      | some a => (s, a)
      | none =>
        (s.onTrig (fun t => { t with update := some ⟨r.session, r.transport, r.payload, []⟩ }),
          .okWith (leBytes 1 s.trig.fwCounter ++ leBytes 1 (hdrSvn r.payload) ++ [0, 0]))))

/-- EMP_UPD_BLOCK: into the bank that does not run. -/
def State.empUpdBlock (s : State) (r : Req) : State :=
  s.trigAnswer 0x0B06 rT (lenBetween 5 4036) r (fun s => s.sealed (fun s =>
    match s.trig.update with
    | none => (s, .no .notInMode s.mode.code)
    | some u =>
      if !ownsUpdate s.trig.update r then (s, .no .busy 0xFFFB)
      else if chunkBad u (r.nat 0 4) (r.payload.drop 4) then (s, badRange)
      else
        let q := appendChunk u (r.payload.drop 4)
        (s.onTrig (fun t => { t.setBank (!t.active1) .erased with update := some q.1 }), q.2)))

/-- SWID (R428): the CRC-32C over the installed image. -/
def swidOf (header body : List Byte) : Word := crc32c (header ++ body)

/-- Step 1: the header is written, the period ends, FW_ACTIVATED is logged, and Trig restarts from the new bank. -/
def Trig.activate (t : Trig) (u : Update) : Trig :=
  let t := t.event 4 (leBytes 4 t.fwVersion.toNat ++ leBytes 4 (hdrVersion u.header).toNat ++ leBytes 4 t.swid.toNat ++
    leBytes 4 (swidOf u.header u.body).toNat)
  { t.setBank (!t.active1) (.image u.header u.body) with active1 := !t.active1, update := none, running := false }

/-- Trig restarts: sessions end, the window in progress and the last position are lost. -/
def Trig.stop (t : Trig) : Trig :=
  { t with running := false, desk := Desk.zero, update := none, winN := 0, win1 := .zero, win2 := .zero, crossed := false,
           sec := ⟨0, 0, 0, 0⟩, pos := none, overSec := false }

/-- EMP_UPD_ACTIVATE: dangerous, in two steps (R447). -/
def State.empUpdActivate (s : State) (r : Req) : State :=
  s.trigServe 0x0B07 rT (fixedLen 4) r (fun armed s =>
    if !s.trig.sealOpen then s.finish 0x0B07 r (.no .sealed 0x0001)
    else match s.trig.update with
      | none => s.finish 0x0B07 r (.no .notInMode s.mode.code)
      | some u =>
        if !ownsUpdate s.trig.update r then s.finish 0x0B07 r (.no .busy 0xFFFB)
        else s.twoSteps 0x0B07 r armed (fun s => (activateRefusal s.trig.rules u 0x0B06, s)) (fun s =>
          let s := (s.onTrig (fun t => t.endEarly 0)).trigPeriod 0
          let s := (s.onTrig (fun t => t.activate u)).finish 0x0B07 r .done
          (s.onTrig Trig.stop).trigPage))

/-! ### Requests that reach Trig -/

/-- A request at Trig acts by its opcode; while Trig restarts it waits. -/
def State.trigRequest (s : State) (op : Nat) (r : Req) : State :=
  if !s.trig.running then s.onTrig (fun t => { t with inbox := t.inbox ++ [(op, r)] })
  else match op with
    | 0x0020 => s.trigServe op .none (fixedLen 20) r (fun _ s => s.sessOpen r)
    | 0x0021 => s.trigServe op .any (fixedLen 0) r (fun _ s => s.sessClose r)
    | 0x0B00 => s.empStatus r
    | 0x0B01 => s.empRead r
    | 0x0B02 => s.empAck r
    | 0x0B03 => s.empParam r
    | 0x0B04 => s.empSwid r
    | 0x0B05 => s.empUpdBegin r
    | 0x0B06 => s.empUpdBlock r
    | 0x0B07 => s.empUpdActivate r
    | _ => s.unassigned op r

/-- PACKET (R423): the packet of a request that the supervisor has forwarded. -/
def execPacket (message : List Byte) (s : State) : Out := .next <|
  match mailPayload 0x03 message with
  | none => if s.trig.running then s.onTrig Trig.discard else s
  | some b =>
    let q := reqOf 0 0 false b
    let op := fieldAt b 4 2
    match s.cmd.forwarded.find? (fun e => e.1 == op && e.2.target == 1 && e.2.tag == q.tag && e.2.session == q.session) with
    | none => s.onTrig Trig.discard
    | some e => match framing e.2.transport e.2.source false b with
      | .discard => s.onTrig Trig.discard
      | .refused op r a => s.refuse op r a
      | .passed op r => match headerFault b with
        | some a => s.refuse op r a
        | none => s.trigRequest op r

/-- A Trig command: with TARGET 0x01 it reaches Trig through the mailbox; the supervisor has no such opcode (R426). -/
def State.empRow (s : State) (op : Nat) (r : Req) : State :=
  s.withPacket op r (fun s =>
    if 4064 < r.payload.length then s.refuse op r (.no .badLength 0xFFFF)
    else if !r.forwarded ∧ r.target = 1 then
      if s.mode = .selftest ∨ s.mode = .recovery then s.refuse op r (.no .notInMode s.mode.code)
      else (s.toTrig 0x03 (r.packet op)).trigRequest op r
    else if !r.forwarded ∧ r.target ≠ 0 then s.sendAway op r
    else s.unassigned op r)

/-- EMP_STATUS (R426). -/
def execEmpStatus (r : Req) (s : State) : Out := .next (s.empRow 0x0B00 r)

/-- EMP_READ (R426). -/
def execEmpRead (r : Req) (s : State) : Out := .next (s.empRow 0x0B01 r)

/-- EMP_ACK (R426). -/
def execEmpAck (r : Req) (s : State) : Out := .next (s.empRow 0x0B02 r)

/-- EMP_PARAM (R426, R427). -/
def execEmpParam (r : Req) (s : State) : Out := .next (s.empRow 0x0B03 r)

/-- EMP_SWID (R426, R428). -/
def execEmpSwid (r : Req) (s : State) : Out := .next (s.empRow 0x0B04 r)

/-- EMP_UPD_BEGIN (R426, R452). -/
def execEmpUpdBegin (r : Req) (s : State) : Out := .next (s.empRow 0x0B05 r)

/-- EMP_UPD_BLOCK (R426, R452). -/
def execEmpUpdBlock (r : Req) (s : State) : Out := .next (s.empRow 0x0B06 r)

/-- EMP_UPD_ACTIVATE (R426, R452). -/
def execEmpUpdActivate (r : Req) (s : State) : Out := .next (s.empRow 0x0B07 r)

/-! ### Restarts of Trig (R411, R452) -/

/-- TRIG_RESTART (R411): the cores disagree, or Trig's memory is faulty. -/
def execTrigRestart (s : State) : Out := .next <|
  if !s.trig.running then s
  else State.trigPage (s.onTrig (fun t => { (t.event 6 []).stop with fault := true }))

/-- A bank that Trig's ROM may start (R443); the delivered image passes. -/
def Trig.bankOk (t : Trig) (one : Bool) : Bool :=
  match t.bank one with
  | .delivered _ svn => decide (t.fwCounter ≤ svn)
  | .image h b => (imageTest t.rules h b).1 == 0
  | .erased => false

/-- The bank that starts: the active one, or the other where that fails. -/
def Trig.startBank (t : Trig) : Option Bool :=
  if t.bankOk t.active1 then some t.active1 else if t.bankOk (!t.active1) then some (!t.active1) else none

/-- The firmware of a bank runs: version, SWID and version counter. -/
def Trig.runBank (t : Trig) (one : Bool) : Trig :=
  match t.bank one with
  | .image h b =>
    { t with active1 := one, fwVersion := hdrVersion h, swid := swidOf h b, fwCounter := max t.fwCounter (hdrSvn h) }
  | .delivered v svn =>
    { t with active1 := one, fwVersion := v, swid := Config.deliveredSwid v, fwCounter := max t.fwCounter svn }
  | .erased => t

/-- The eight hexadecimal digits of SWID in ASCII, which CONSOLE shows at each start (R428). -/
def hexDigits (w : Word) : List Byte :=
  (List.range 8).map (fun i =>
    let d := w.toNat / 16 ^ (7 - i) % 16
    BitVec.ofNat 8 (if d < 10 then 0x30 + d else 0x37 + d))

/-- Trig starts from its ROM; the requests that waited are served. -/
def State.trigStart (s : State) (go : Trig → Trig) : State :=
  match s.trig.startBank with
  | none => s
  | some one =>
    let s := s.onTrig (fun t => go { t.runBank one with running := true, fault := false })
    let waiting := s.trig.inbox
    let s := (State.trigPage (s.onTrig (fun t => { t with inbox := [] }))).transmit linkConsole ⟨hexDigits s.trig.swid, true⟩
    waiting.foldl (fun (s : State) e => s.trigRequest e.1 e.2) s

/-- TRIG_RESTART_DONE (R411, R452): the period in progress goes on and carries INTERRUPTED. -/
def execTrigRestartDone (s : State) : Out := .next <|
  if s.trig.running ∨ !s.sup.powered then s else s.trigStart (fun t => t.mark fInterrupted)

end Sys2Proof.Machine
end

