-- ==== Sys2Proof/Machine/Start.lean ====
section
/-! DEFINITION. Power-up, restart and SELFTEST (spec/08_modes_and_startup.md R218 to R231, spec/06_triad_and_voting.md R190,
spec/07_protected_store.md R201, R202, R209, R211, spec/19_firmware_update.md R443 to R450). -/
namespace Sys2Proof.Machine

/-! ### What a start keeps -/

/-- Register fields that hold identity or what MRAM keeps: their reset value is a dash in the register tables. -/
def keptKeys : List Nat :=
  [Reg.CE_STAT_OP, Reg.CV_DEGLEFT_SECONDS, Reg.CV_FAILWIN_FAIL_A, Reg.CV_FAILWIN_FAIL_B, Reg.CV_FAILWIN_FAIL_C,
   Reg.SYS_SERIAL_SERIAL, Reg.SYS_HWINFO_HW_ISSUE, Reg.SYS_FWVER_VERSION, Reg.SYS_OPSEC, Reg.SYS_PWRCYC,
   Reg.SYS_TRIGVER_VERSION, Reg.SF_CHECK_CHECK, Reg.SF_CONFIRMED_CHECK, Reg.SF_LOCKSEQ 1, Reg.SF_LOCKSEQ 2, Reg.SF_LOCKSEQ 3,
   Reg.SF_LOCKSEQ 4, Reg.LOG_SEQD, Reg.LOG_SEQO, Reg.LOG_OLDD, Reg.LOG_OLDO, Reg.PWR_STAT_OP, Reg.PWR_STAT_GOP,
   Reg.PWR_HOLDUP_CAP, Reg.PWR_TEMP_EDGE, Reg.PWR_TEMP_HOTSPOT, Reg.PWR_MARGIN_D85, Reg.PWR_MARGIN_D_PROJ, Reg.PWR_STEPCNT]

/-- Status bits that follow a supply which a restart does not take away: they take their reset value, and the hardware sets
them again in the same instant (R229, R261, R269). -/
def supplyKeys : List Nat :=
  [Reg.PWR_STAT_FEED1_GOOD, Reg.PWR_STAT_FEED2_GOOD, Reg.PWR_STAT_HOLDUP_READY, Reg.PWR_STAT_FEED1_OVV,
   Reg.PWR_STAT_FEED2_OVV]

/-- A register of the EMP page with no reset value (spec/17_energy_measurement.md): it shows what Trig keeps. -/
def empKept (k : Nat) : Bool :=
  keyPage k == 0x16 && (decide (0x008 ≤ keyOff k ∧ keyOff k ≤ 0x024) || keyOff k == 0x058 || keyOff k == 0x05C)

/-- A field is kept over a start. -/
def keptField (restart : Bool) (k : Nat) : Bool :=
  keptKeys.contains k || empKept k || (restart && supplyKeys.contains k)

/-- The supervisor's state that MRAM, flash, ROM and fuses hold. -/
def Sup.kept (x : Sup) : Sup :=
  { Sup.reset with
      lastSafe := x.lastSafe, startLoop := x.startLoop, programMargin := x.programMargin, retained := x.retained, fwStore := x.fwStore, fwVersion := x.fwVersion, fwSvn := x.fwSvn,
      fwCounter := x.fwCounter, fwOld := x.fwOld, recovery := x.recovery, romKey := x.romKey, flashSlots := x.flashSlots }

/-- The ageing records, and the state of the store where power stays. -/
def Pwr.kept (x : Pwr) (restart : Bool) : Pwr :=
  { x with guardLow := false, charged := restart && x.charged, tested := false, testClass := 1, dip1 := restart && x.dip1,
           dip2 := restart && x.dip2 }

/-- UPDATE is left by a power loss or a restart with no valid image (R448). -/
def State.imageLost (s : State) : State :=
  if s.mode = .update ∧ s.sup.fwStore = .erased ∧ !s.sup.fwInvalid then s.report .o .critical 0x0506 (srcNo 5 0) [] else s

/-- Everything that power or the restart takes away is at its reset value; what waits at Cairn's intake is stored first. -/
def State.cleared (s : State) (restart : Bool) : State :=
  let s := s.imageLost.intakeAll
  { State.reset with
      pending := s.pending, free := s.free, out := s.out, regs := s.regs.filter (fun e => keptField restart e.1)
      mem := { Mem.reset with ps := s.mem.ps, era := s.mem.era, rs := s.mem.rs }
      cv := { Saddle.reset with laneA := s.cv.laneA, laneB := s.cv.laneB, laneC := s.cv.laneC, degLeft := s.cv.degLeft }
      cairn := { s.cairn with dropped := [] }, cmd := { Cmd.reset with config := s.cmd.config, outbox := s.cmd.outbox }
      sup := s.sup.kept
      sf := { SafetyUnit.reset with confirmed := s.sf.confirmed, lockSeq := s.sf.lockSeq, block := s.sf.block }
      pwr := s.pwr.kept restart, trig := s.trig, time.subNs := s.time.subNs }

/-- t0 of a start: the power-cycle count goes up, and the straps are sampled (R27, R219, R229, R230). -/
def State.begin (s : State) (x : Straps) : State :=
  let s := (s.bump Reg.SYS_PWRCYC).setFld Reg.SYS_HWINFO_SLOT (x.slot.zeroExtend 32)
  { s with sup.powered := true, sup.slot := x.slot.toNat, sup.bootsel := x.bootsel }.flag Reg.SYS_HWINFO_BOOTSEL x.bootsel

/-- A restart (R229): outputs off, the triad stopped at a write boundary, LEAVE sent, the forces of TEST removed (R85),
the injections removed and the permit ended (R478, R479); power stays, and so does the content of
the Protected Store (R201). -/
def State.restart (s : State) (x : Straps) : State :=
  let s := (s.outputsOff.abandonCycle).leavePair 3
  let s := if s.mode = .test then s.removeForces else s
  let old := s.mode
  let s := State.report { s with mode := .selftest } .o .info 0x0501 (srcNo 5 0)
    [BitVec.ofNat 8 old.code, BitVec.ofNat 8 Mode.selftest.code, BitVec.ofNat 8 Trigger.restart.code]
  let s := (s.fiRemoveAll 3).fiPermitEnd
  State.begin (State.cleared { s with mode := old } true) x

/-! ### Lanes and stores at SELFTEST (R190, R211) -/

/-- One lane: retired by a failed test of its own, RESTORABLE where it was retired and passes. -/
def State.testLane (s : State) (l : Lane) (fails : Bool) : State :=
  if (s.cv.log l).retired then s.setLane l (if fails then 3 else 4)
  else if fails then s.retire l
  else s.setLane l 0

/-- Lanes that are not retired. -/
def State.sound (s : State) : Nat := [Lane.a, .b, .c].countP (fun l => !(s.cv.log l).retired)

/-- The scan of the Retentive Store (R211): a word that is not listed is clean. Each read counts and is recorded like any
other (R197 to R199). -/
def State.scanRetained (s : State) : State :=
  let s := s.mem.rs.foldl (fun (s : State) e =>
    let c := s.mem.code .rs e.1
    let s := s.account .rs e.1 .supervisor
    match c.cls e.1 with
    | .clean => s
    | .ce => (s.fullWrite .rs e.1 (corrected e.1 c)).bump Reg.MS_SCANCE_CNT
    | .ue => (s.poison .rs e.1).bump Reg.MS_SCANUE_CNT
    | _ => s.bump Reg.MS_SCANUE_CNT) s
  let bad := decide (s.fld Reg.MS_SCANUE_CNT ≠ 0)
  let s := (s.flag Reg.MS_STAT_SCAN_DONE true).flag Reg.MS_STAT_SCAN_UE bad
  if bad then s.report .o .warn (evCode 4 211 0) (srcNo 4 0) (leBytes 4 (s.fld Reg.MS_SCANUE_CNT).toNat) else s

/-! ### Firmware (R443, R444, R448) -/

/-- The first test of R443 that the firmware partition fails, with its block; 0 none. -/
def State.firmwareTest (s : State) : Nat × Nat :=
  match s.sup.fwStore with
  | .delivered _ svn => (if svn < s.sup.fwCounter then 6 else 0, 0)
  | .image h b => imageTest s.supRules h b
  | .erased => (1, 0)

/-- The verified image runs: its version, and the version counter (R444). -/
def State.runFirmware (s : State) : State :=
  let v := match s.sup.fwStore with
    | .delivered v n => (v, n)
    | .image h _ => (hdrVersion h, hdrSvn h)
    | .erased => (s.sup.fwVersion, s.sup.fwSvn)
  { s with sup.fwVersion := v.1, sup.fwSvn := v.2, sup.fwCounter := max s.sup.fwCounter v.2 }.setFld Reg.SYS_FWVER_VERSION v.1

/-! ### Records that a start owes (R27, R447, R449, R461, R464) -/

/-- The records of events before the start. -/
def State.owedRecords (s : State) : State :=
  let s := if s.pwr.downDue then State.report { s with pwr.downDue := false } .o .warn 0x0F02 (srcNo 15 0) [] else s
  let s := if s.pwr.clockDue then State.report { s with pwr.clockDue := false } .o .critical 0x0F06 (srcNo 15 0) [] else s
  let s := match s.sup.recovery with
    | some (cause, test, block) => State.report { s with sup.recovery := none } .o .warn 0x0507 (srcNo 5 0)
        ([BitVec.ofNat 8 cause, BitVec.ofNat 8 test] ++ leBytes 2 block)
    | none => s
  match s.sup.fwOld with
  | some (v, n) => State.report { s with sup.fwOld := none } .o .info 0x0505 (srcNo 5 0)
      (leBytes 4 v.toNat ++ leBytes 4 s.sup.fwVersion.toNat ++ [BitVec.ofNat 8 n, BitVec.ofNat 8 s.sup.fwSvn])
  | none => s

/-- The slot straps against the expected slot ID (R27). -/
def State.slotCheck (s : State) : State :=
  let x := s.cfg blkModule 0x04 1
  let bad := bitAt x 7 == 1 && bitsAt x 0 6 != s.sup.slot
  let s := s.flag Reg.SYS_HWINFO_SLOT_MISMATCH bad
  if bad then s.report .o .warn 0x0508 (srcNo 5 0) [BitVec.ofNat 8 s.sup.slot, BitVec.ofNat 8 (bitsAt x 0 6)] else s

/-! ### The end of SELFTEST (R218) -/

/-- STOPPED is reached: the configuration in force, the confirmation restored, the plan made (R467), the due step taken on
entry, and the auto-start allowed once (R221). -/
def State.startStopped (s : State) (why : Trigger) (auto : Bool) : State :=
  let s := s.scanRetained
  let s := (s.applyConfig).applyStaged (fun _ => true)
  let s := (s.putConfirmed s.sf.confirmed).setDegLeft (if s.anyRetired then s.cv.degLeft else s.degLimit)
  let s := (s.setOp s.pwr.op).setFld Reg.PWR_STAT_GOP (BitVec.ofNat 32 s.pwr.gop)
  let s := s.runFirmware.owedRecords.plan false
  let s := { s with sup.autoOpen := auto, sup.noAuto := !auto }
  s.changeMode .stopped why

/-- What SELFTEST tests before it says where the start goes: the slot straps (R27, at every start), the lanes (one retired
here has the configured time, R187), the test rows. -/
def State.runTests (s : State) (t : SelfTest) : State × Option Nat :=
  let s := (s.closeOpen .d).closeOpen .o
  let s := s.slotCheck.confRo 0x01 0x010 0 8
  let s := ((s.testLane .a t.laneA).testLane .b t.laneB).testLane .c t.laneC
  let q := s.testStores t.array
  match q.2 with
  | some n => (q.1.report .o .critical (evCode 4 202 0) (srcNo 4 n) [BitVec.ofNat 8 n], q.2)
  | none => q

/-- The tests end (R190, R202, R218, R230, R231, R450, R464). -/
def State.endSelftest (s : State) (t : SelfTest) : State :=
  let q := s.runTests t
  let s := q.1
  if t.loader ∨ t.comparators ∨ q.2.isSome ∨ t.clock ∨ s.sound < 2 then s.owedRecords.enterSafe 0x09
  else
    let f := if s.firmwareTest.1 = 0 then t.read.getD (0, 0) else s.firmwareTest
    if s.sup.bootsel then State.changeMode { s with sup.recovery := some (1, 0, 0) } .recovery .selftest
    else if f.1 ≠ 0 then
      State.changeMode { s with sup.recovery := some (2, f.1, if f.1 = 4 then f.2 else 0) } .recovery .selftest
    else s.startStopped .selftest true

/-! ### Auto-start (R221) -/

/-- A safety function is configured. -/
def State.hasSafety (s : State) : Bool :=
  !(usedSi s.cmd.config).isEmpty || !(usedSo s.cmd.config).isEmpty || !(usedSs s.cmd.config).isEmpty

/-- Conditions 0x03 to 0x07: the first that fails. -/
def State.autoBar (s : State) : Option Nat :=
  if s.sup.programMargin then some 0x03
  else if s.hasSafety ∧ s.sf.confirmed.map (·.1) ≠ some s.sfRecomputed then some 0x04
  else if s.fld Reg.SYS_HWINFO_SLOT_MISMATCH = 1 then some 0x05
  else if s.anyRetired then some 0x06
  else if s.guardTripped then some 0x07
  else none

/-- The start image is read into slot 0 and checked as by PRG_VERIFY. -/
def State.loadStart (s : State) (p : Image) : Option (State × Image) :=
  match s.flashSlot (s.cfg blkModule 0x03 1) with
  | none => none
  | some (id, b) =>
    -- slot 0 is the one to load, whatever CE_STAT.SLOT is before there is a program
    let s := (s.flag Reg.CE_STAT_SLOT true).loadSlot 0 id b
    let q := s.verifySlot id p
    match (q.1.slot 0).verified, (q.1.slot 0).image with
    | .no, _ => none
    | _, some i => some (q.1, i)
    | _, none => none

/-- The first step of the auto-start: the start image is read and checked; it is not active yet (R505). -/
def State.autoRead (s : State) (p : Image) : State :=
  if s.cfg blkModule 0x02 1 ≠ 1 then s.autoRefused 0x01
  else match s.loadStart p with
    | none => s.autoRefused 0x02
    | some (s, i) => { s with sup.autoImage := some i }

/-- The second step: the other conditions, the image made active, and the join or the initialisation routine. -/
def State.autoGo (s : State) (i : Image) : State :=
  match s.autoBar with
  | some n => s.autoRefused n
  | none =>
    let s := State.switchNow { s with sup.autoImage := none } i
    if s.partnerServes then State.beginJoin { s with sup.autoOpen := false } .autostart
    else s.startInit ⟨.run, none, true, .autostart⟩

/-- The auto-start takes its next step. -/
def State.autoStart (s : State) (p : Image) : State :=
  match s.sup.autoImage with
  | none => s.autoRead p
  | some i => s.autoGo i

end Sys2Proof.Machine
end

