-- ==== Sys2Proof/Machine/StartRows.lean ====
section
/-! DEFINITION. Starts, the reset input, and the checks that the supervisor repeats: one meaning per row
(spec/08_modes_and_startup.md, spec/10_register_conventions.md R273, spec/16_safety_functions.md R404). -/
namespace Sys2Proof.Machine

/-- Trig starts with the module's supply (R410, R417): its first period carries POWER_UP. -/
def Trig.powerUp (t : Trig) : Trig :=
  let t := { t.stop with running := true, utcValid := false, system := 0, sysNew := 0, sysCount := 0, prevU := 0 }
  { t with params := t.nextParams.getD t.params, nextParams := none, inbox := [] }.newPeriod fPowerUp

/-- POWER_UP (R219, R455): the first feed becomes good; the Protected Store holds arbitrary contents (R201). -/
def execPowerUp (feed2 : Bool) (straps : Straps) (s : State) : Out := .next <|
  if s.sup.powered then s
  else
    let s := State.begin (s.cleared false) straps
    let s := { s with mem := { s.mem with ps := [], era := s.mem.era + 1 } }
    (s.flag (if feed2 then Reg.PWR_STAT_FEED2_GOOD else Reg.PWR_STAT_FEED1_GOOD) true).trigStart Trig.powerUp

/-- SELFTEST_END (R218): to STOPPED, RECOVERY or SAFE. -/
def execSelftestEnd (tests : SelfTest) (s : State) : Out := .next <|
  if s.mode ≠ .selftest ∨ !s.sup.powered then s else s.endSelftest tests

/-- AUTOSTART (R221, R505): the next step of the auto-start, `img` being what the supervisor reads out of the start image. -/
def execAutostart (img : Image) (s : State) : Out := .next <|
  if s.mode ≠ .stopped ∨ !s.sup.autoOpen ∨ s.sup.modeWait.isSome then s else s.autoStart img

/-- START_LOOP_GUARD_CLEAR (R222): 60 s in RUN without SAFE. -/
def execStartLoopGuardClear (s : State) : Out := .next <|
  match s.sup.runSince with
  | some t => if s.mode = .run ∧ t + 60000000000 ≤ s.opNs then { s with sup.startLoop := 0, sup.runSince := none } else s
  | none => s

/-- RESET_PRESS (R228, R229): a press of `ms` pressed samples is released. -/
def execResetPress (ms : Nat) (straps : Straps) (s : State) : Out := .next <|
  if s.sup.powered ∧ s.sup.resetArmed ∧ 50 ≤ ms ∧ ms ≤ 5000 then s.restart straps else s

/-- RESET_STUCK (R228): a press, armed or not, has become longer than 5 s. -/
def execResetStuck (s : State) : Out := .next <|
  if !s.sup.powered then s
  else State.report { s with sup.resetStuck := true, sup.resetArmed := false } .o .warn 0x0504 (srcNo 5 0) []

/-- RESET_ARM (R228): released in every sample for 1 s. -/
def execResetArm (s : State) : Out := .next <|
  if s.sup.powered then { s with sup.resetArmed := true, sup.resetStuck := false } else s

/-- UPD_RESTART (R447): 100 ms after UPD_ACTIVATE. -/
def execUpdRestart (straps : Straps) (s : State) : Out := .next <|
  if s.sup.restartDue then s.restart straps else s

/-- SUPERVISOR_LOCKSTEP_MISMATCH (R18, R226, R227): SAFE with cause 0x08; the supervisor restarts from ROM, verifies its
firmware and enters STOPPED with no auto-start. A SAFE of another cause stays: it is left as that cause allows. -/
def execSupervisorLockstepMismatch (s : State) : Out := .next <|
  if s.mode = .selftest ∨ s.mode = .recovery ∨ !s.sup.powered then s
  else
    let locked := decide (s.mode = .safe ∧ s.fld Reg.SYS_SAFE_CAUSE ≠ 0x08)
    let s := s.enterSafe 0x08
    let s := { s with cmd.desk := Desk.zero, cmd.longOp := none, cmd.forwarded := [] }
    let s := ({ s with sup.update := none, sup.autoOpen := false, sup.noAuto := true }.dropEdit.cmdStat).flag Reg.CMD_STAT_LONG_OP
      false
    let s := s.setFld Reg.CMD_STAT_LOCKED 0
    let f := s.firmwareTest
    if f.1 ≠ 0 then State.changeMode { s with sup.recovery := some (2, f.1, if f.1 = 4 then f.2 else 0) } .recovery .restart
    else if locked then s
    else s.changeMode .stopped .restart

/-- SF_CHECK_RECOMPUTE (R273, R404): while confirmed, a difference leads to SAFE. -/
def execSfCheckRecompute (s : State) : Out := .next <|
  match s.sf.confirmed with
  | some c => if s.mode ≠ .selftest ∧ s.sfRecomputed ≠ c.1 then s.enterSafe 0x0B else s
  | none => s

/-! ### CFG_RELOAD (R273) -/

/-- The fields that come from the configuration or the active task table, as they should be. -/
def State.confFresh (s : State) : State :=
  let c := s.cmd.config
  let s := s.confFields.confAgents
  let s := (s.setFld Reg.SYS_MODE_ROLE (BitVec.ofNat 32 (s.cfg blkModule 0 1))).setFld Reg.SYS_MODE_STATION
    (BitVec.ofNat 32 (s.cfg blkModule 1 1))
  let s := (upTo 6).foldl (fun (s : State) e => s.flag (Reg.ENC_ESTAT_SF_CLAIMED e) ((claimedEncs c).contains e)) s
  let s := (upTo 64).foldl (fun (s : State) n =>
    let claim := (siChans c).contains n || (soChans c).contains n
    let put := fun (s : State) (k v : Nat) => if (sget s.staged k).isSome then s else s.setFld k (BitVec.ofNat 32 v)
    let s := s.flag (Reg.FCH_STAT_SF_CLAIMED n) claim
    put (put s (Reg.FCH_CFG_MODE n) (confMode c n)) (Reg.FCH_CFG_PARTNER n) (bitsAt (confNat c 0x13 (16 * (n - 1)) 4) 14 6)) s
  match s.ce.active with
  | some p => s.loadTasks p
  | none => s

/-- The keys under which two states hold different register fields. -/
def State.regDiff (s t : State) : List Nat :=
  ((s.regs ++ t.regs).map (·.1)).eraseDups.filter (fun k => decide (s.fld k ≠ t.fld k))

/-- CFG_RELOAD (R273): every field that differs is rewritten, counted and recorded. -/
def execCfgReload (s : State) : Out := .next <|
  if s.mode = .selftest ∨ s.mode = .recovery then s
  else
    let t := s.confFresh
    (s.regDiff t).foldl (fun (x : State) k =>
      (((x.setFld k (t.fld k)).flag Reg.SYS_EVT_CFG_RELOAD true).bump Reg.SYS_CFGRELOAD_CNT).report .d .fault (evCode 5 273 0)
        (srcNo 5 0) (leBytes 4 (regAddr (keyPage k) (keyOff k)))) s

end Sys2Proof.Machine
end

