-- ==== Sys2Proof/Machine/PowerRows.lean ====
section
/-! DEFINITION. Feeds, hold-up store, clock faults and ageing monitors, one meaning per row
(spec/20_power_clock_ageing.md R454 to R470, spec/22_electrical_mechanical.md R497). -/
namespace Sys2Proof.Machine

/-! ### Feeds (R455, R456) -/

/-- The number of a feed. -/
def feedNo (feed2 : Bool) : Nat := if feed2 then 2 else 1

/-- The keys of PWR_STAT.FEEDn_GOOD and FEEDn_OVV. -/
def feedGoodKey (feed2 : Bool) : Nat := if feed2 then Reg.PWR_STAT_FEED2_GOOD else Reg.PWR_STAT_FEED1_GOOD
def feedOvvKey (feed2 : Bool) : Nat := if feed2 then Reg.PWR_STAT_FEED2_OVV else Reg.PWR_STAT_FEED1_OVV

/-- A feed is good; it is disconnected for overvoltage. -/
def State.feedGood (s : State) (feed2 : Bool) : Bool := s.fld (feedGoodKey feed2) == 1
def State.feedOvv (s : State) (feed2 : Bool) : Bool := s.fld (feedOvvKey feed2) == 1

/-- Neither feed is good, whether or not the store has been charged (R461). -/
def State.noFeed (s : State) : Bool := !s.feedGood false && !s.feedGood true

/-- Count in the stress record of a feed (R466). -/
def Pwr.stress (p : Pwr) (feed2 : Bool) (f : FeedStress → FeedStress) : Pwr :=
  if feed2 then { p with feed2 := f p.feed2 } else { p with feed1 := f p.feed1 }

/-- The feed is in a dip. -/
def Pwr.dip (p : Pwr) (feed2 : Bool) : Bool := if feed2 then p.dip2 else p.dip1
def Pwr.setDip (p : Pwr) (feed2 b : Bool) : Pwr := if feed2 then { p with dip2 := b } else { p with dip1 := b }

/-- A feed is good again; before the stop level it ends the interruption (R223, R461). -/
def State.feedComes (s : State) (feed2 : Bool) : State :=
  let none_ := s.noFeed && s.fld Reg.PWR_STAT_STOPPING == 0
  let s := State.flag { s with pwr := s.pwr.setDip feed2 false } (feedGoodKey feed2) true
  if !none_ then s
  else
    let s := s.flag Reg.PWR_EVT_RIDETHRU_RETURN true
    if s.mode = .ridethru then State.bump { s with pwr.returns := s.pwr.returns + 1 } Reg.PWR_RETURNCNT else s

/-- A good feed is lost (R456); with the second one both are (R461). -/
def State.feedGoes (s : State) (feed2 : Bool) : State :=
  let p := (s.pwr.setDip feed2 false).stress feed2 (fun f => { f with losses := f.losses + 1 })
  let s := State.flag { s with pwr := p } (feedGoodKey feed2) false
  let s := s.flag (if feed2 then Reg.PWR_EVT_FEED2_LOST else Reg.PWR_EVT_FEED1_LOST) true
  let s := s.bump (if feed2 then Reg.PWR_LOSSCNT2 else Reg.PWR_LOSSCNT1)
  let s := s.report .d .warn 0x0F01 (srcNo 15 (feedNo feed2)) []
  if s.noFeed then
    ((State.flag { s with pwr.bothLost := s.pwr.bothLost + 1 } Reg.PWR_EVT_BOTH_LOST true).bump Reg.PWR_INTCNT).flag
      Reg.PWR_STAT_HOLDUP_READY false
  else s

/-- FEED_GOOD (R455): at power-up POWER_UP is the row. -/
def execFeedGood (feed2 : Bool) (s : State) : Out := .next <|
  if s.sup.powered ∧ !s.feedOvv feed2 then s.feedComes feed2 else s

/-- FEED_LOST (R456). -/
def execFeedLost (feed2 : Bool) (s : State) : Out := .next <|
  if s.sup.powered ∧ s.feedGood feed2 then s.feedGoes feed2 else s

/-- FEED_DIP (R455): a good feed has been below 16.8 V for 10 ms. -/
def execFeedDip (feed2 : Bool) (s : State) : Out := .next <|
  if s.sup.powered ∧ s.feedGood feed2 then
    let p := (s.pwr.setDip feed2 true).stress feed2 (fun f => { f with dips := f.dips + 1 })
    (State.flag { s with pwr := p } Reg.PWR_EVT_DIP true).bump Reg.PWR_DIPCNT
  else s

/-- FEED_STRESS (R455): the dip has lasted for 100 ms. -/
def execFeedStress (feed2 : Bool) (s : State) : Out := .next <|
  if s.sup.powered ∧ s.feedGood feed2 ∧ s.pwr.dip feed2 then
    State.report { s with pwr := s.pwr.stress feed2 (fun f => { f with longDips := f.longDips + 1 }) } .d .warn 0x0F07
      (srcNo 15 (feedNo feed2)) []
  else s

/-- FEED_SURGE (R455): above 137.5 V for 10 ms. -/
def execFeedSurge (feed2 : Bool) (s : State) : Out := .next <|
  if s.sup.powered ∧ s.feedGood feed2 then
    let p := s.pwr.stress feed2 (fun f => { f with surges := f.surges + 1 })
    (State.flag { s with pwr := p } Reg.PWR_EVT_SURGE true).bump Reg.PWR_SURGECNT
  else s

/-- FEED_OVERVOLTAGE (R455): the input switch disconnects the feed, which is then treated as lost. -/
def execFeedOvervoltage (feed2 : Bool) (s : State) : Out := .next <|
  if !s.sup.powered ∨ s.feedOvv feed2 then s
  else
    let s := { s with pwr := s.pwr.stress feed2 (fun f => { f with ovv := f.ovv + 1 }) }
    let s := ((s.flag (feedOvvKey feed2) true).flag Reg.PWR_EVT_OVV_DISC true).bump Reg.PWR_OVVCNT
    if s.feedGood feed2 then s.feedGoes feed2 else s

/-- FEED_RECONNECT (R455): at or below 137.5 V for 100 ms; the feed is then classified again. -/
def execFeedReconnect (feed2 : Bool) (s : State) : Out := .next <|
  if s.sup.powered then s.flag (feedOvvKey feed2) false else s

/-! ### The power-down (R461) -/

/-- The switch and the link drivers are off. -/
def State.linksOff (s : State) : State :=
  let s := (upTo 11).foldl (fun (s : State) n => (s.flag (Reg.ESW_PORTSTAT_LINK n) false).setFld (Reg.ESW_PORTSTAT_SPEED n) 0) s
  let s := s.setFld Reg.ESW_STAT_LINK 0
  let s := (s.flag Reg.RDG_STAT_LINK_E false).flag Reg.RDG_STAT_LINK_W false
  let s := (s.flag Reg.COL_STAT_LANE1_UP false).flag Reg.COL_STAT_LANE2_UP false
  (List.range linkCount).foldl (fun (s : State) l => s.fiLinkDown l) s

/-- The stop level: the power-down begins and cannot be called back. -/
def State.stopLevel (s : State) : State :=
  let s := (s.flag Reg.PWR_STAT_STOPPING true).outputsOff
  let s := (s.leavePair 4).abandonCycle.linksOff
  let s := { s with pwr.downDue := true, pwr.downs := s.pwr.downs + 1 }
  if s.trig.running then State.trigPeriod (s.onTrig (fun t => t.endEarly fPowerFail)) 0 else s

/-- STOP_LEVEL (R461): the store is at 24 V with both feeds lost. -/
def execStopLevel (s : State) : Out := .next <|
  if s.sup.powered ∧ s.noFeed ∧ s.fld Reg.PWR_STAT_STOPPING = 0 then s.stopLevel else s

/-- CONVERTER_STOP (R461): the store is at 20 V; everything that needs power is gone. -/
def execConverterStop (s : State) : Out := .next <|
  if s.sup.powered ∧ (s.noFeed ∨ s.fld Reg.PWR_STAT_STOPPING = 1) then
    State.cleared (s.onTrig Trig.stop) false
  else s

/-! ### The hold-up store (R457, R459) -/

/-- HOLDUP_CHARGED (R457): the store is at 50 V; after the recharge that follows the test its class is in force (R459). -/
def execHoldupCharged (s : State) : Out := .next <|
  if s.sup.powered ∧ !s.noFeed ∧ s.fld Reg.PWR_STAT_STOPPING = 0 then
    let s := State.flag { s with pwr.charged := true } Reg.PWR_STAT_HOLDUP_READY true
    if s.pwr.tested then s.setFld Reg.PWR_STAT_HOLDUP_NOW (BitVec.ofNat 32 s.pwr.testClass) else s
  else s

/-- The test has measured `c` µF: the ageing record, the plan and the comparison (R459, R460, R468). -/
def State.holdupMeasured (s : State) (c : Nat) : State :=
  let c := min 10000 c
  let p := s.pwr
  let p := { p with caps := (s.opSec, c) :: p.caps, capCount := p.capCount + 1,
                    capMade := if p.capCount = 0 then c else p.capMade, tested := true, testClass := holdupClass c }
  let s := State.setFld { s with pwr := p } Reg.PWR_HOLDUP_CAP (BitVec.ofNat 32 c)
  (s.flag Reg.PWR_STAT_HOLDUP_READY false).planHoldup

/-- HOLDUP_TEST (R459): the capacitance in µF, or none where the store does not charge or the test does not complete. -/
def execHoldupTest (cap : Option Nat) (s : State) : Out := .next <|
  if !s.sup.powered ∨ s.pwr.tested then s
  else match cap with
    | some c => if s.pwr.charged then s.holdupMeasured c else s
    | none => ((State.flag { s with pwr.tested := true, pwr.testClass := 1 } Reg.PWR_EVT_HOLDUP_TEST_FAIL true).flag
        Reg.PWR_STAT_HOLDUP_READY false).report .o .fault
        (evCode 15 459 0) (srcNo 15 0) []

/-! ### Clock fault (R464) -/

/-- CLOCK_FAULT (R464): outputs off and a restart under R229; the record is written at the next start. -/
def execClockFault (straps : Straps) (s : State) : Out := .next <|
  if s.sup.powered then State.restart { s with pwr.clockDue := true } straps else s

/-! ### Ageing (R466, R470) -/

/-- The daily maxima of D85 take a value of today. -/
def dailyMax (l : List (Nat × Nat)) (day d : Nat) : List (Nat × Nat) :=
  if l.any (fun e => e.1 == day) then l.map (fun e => if e.1 = day then (day, max e.2 d) else e) else l ++ [(day, d)]

/-- A lane more than 60 ps behind the module's D85 is reported when it becomes so. -/
def State.laneAhead (s : State) (l : Nat) : State :=
  let far := decide (s.d85 + 60 < s.laneD85 l)
  let was := s.pwr.ahead.contains l
  let s := { s with pwr.ahead := s.pwr.ahead.filter (fun x => decide (x ≠ l)) ++ (if far then [l] else []) }
  if far && !was then s.report .d .warn (evCode 15 466 0) (srcNo 15 l) (leBytes 2 (s.laneD85 l)) else s

/-- AGEING_SAMPLE (R466): delays in ps of the twelve canaries at the hot corner, four per lane, and drift in ppm by lane. -/
def execAgeingSample (canary : Vector Nat 12) (drift : Vector Int 3) (s : State) : Out := .next <|
  if !s.sup.powered ∨ s.mode = .selftest ∨ s.mode = .recovery then s
  else
    let s := { s with pwr.canary := canary.toList, pwr.drift := drift.toList }
    let s := { s with pwr.daily := dailyMax s.pwr.daily (s.opSec / 86400) s.d85 }
    let s := s.setFld Reg.PWR_MARGIN_D85 (BitVec.ofNat 32 (min 0xFFFF s.d85))
    let s := ([0, 1, 2].foldl (fun (s : State) l => s.laneAhead l) s)
    s.marginFlags s.mode.cycles

/-- Rainflow over the reversals, newest first (R466): a range no greater than the one after it is counted, as a half-cycle
where it holds the first reversal, else as two. -/
def rainflow : Nat → List Int → List Int × List (Nat × Nat)
  | 0, l => (l, [])
  | n + 1, a :: b :: c :: rest =>
    let y := (b - c).natAbs
    if (a - b).natAbs < y then (a :: b :: c :: rest, [])
    else if rest.isEmpty then ([a, b], [(y, 1)])
    else
      let r := rainflow n (a :: rest)
      (r.1, (y, 2) :: r.2)
  | _ + 1, l => (l, [])

/-- Half-cycles of a range in 0.1 K go into its bin; below 5 K they are ignored. -/
def halfAdd (half : List Nat) (x : Nat × Nat) : List Nat :=
  if x.1 < 50 then half
  else
    let i := min 31 (x.1 / 50 - 1)
    half.set i (half.getD i 0 + x.2)

/-- A temperature continues the running slope, or makes its end a reversal. -/
def Pwr.temperature (p : Pwr) (x : Int) : Pwr :=
  match p.turns with
  | [] => { p with turns := [x] }
  | a :: rest =>
    if x = a then p
    else match rest with
      | [] => { p with turns := [x, a] }
      | b :: _ =>
        if decide (b < a) == decide (a < x) then { p with turns := x :: rest }
        else
          let r := rainflow p.turns.length p.turns
          { p with turns := x :: r.1, half := r.2.foldl halfAdd p.half }

/-- The histogram bin of a temperature in 0.1 °C. -/
def histBin (x : Int) : Nat := if x < -400 then 0 else if 900 ≤ x then 27 else ((x + 400) / 50).toNat + 1

/-- A calendar sample once a day, over the last 365 days (R472). -/
def State.calendarSample (s : State) : State :=
  if !s.time.utcValid then s
  else
    let now := s.time.utc
    let l := s.pwr.calendar.filter (fun e => decide (e.1 ≤ now ∧ now ≤ e.1 + 31536000000000000))
    let due := match l.getLast? with
      | some e => decide (e.1 + 86400000000000 ≤ now)
      | none => true
    { s with pwr.calendar := if due then l ++ [(now, s.opSec)] else l }

/-- A signed figure in a 16-bit field. -/
def word16 (x : Int) : Word := BitVec.ofNat 32 (x % 65536).toNat

/-- What is measured, in the registers of page 0x18. -/
def State.healthRegs (s : State) (h : Health) : State :=
  let w := fun (v : Nat) => BitVec.ofNat 32 (min 0xFFFF v)
  let s := (s.setFld Reg.PWR_TEMP_EDGE (word16 h.edge)).setFld Reg.PWR_TEMP_HOTSPOT (word16 h.hotspot)
  let s := (s.setFld Reg.PWR_FEED1_VOLT (w h.volt1)).setFld Reg.PWR_FEED1_CURRENT (w h.amps1)
  let s := (s.setFld Reg.PWR_FEED2_VOLT (w h.volt2)).setFld Reg.PWR_FEED2_CURRENT (w h.amps2)
  s.setFld Reg.PWR_HOLDUP_VOLT (w h.store)

/-- Seconds left of the injection permit (R481). -/
def State.permitLeft (s : State) : State :=
  match s.fi.permitEnd with
  | some t => s.setFld Reg.FI_STAT_PERMIT_LEFT (BitVec.ofNat 32 (ceilDiv (t - s.opNs) 1000000000))
  | none => s

/-- THERMAL_SAMPLE (R466, R497): the 1 s sample, with which the operating seconds count on. -/
def execThermalSample (h : Health) (s : State) : Out := .next <|
  if !s.sup.powered then s
  else
    let s := State.bump { s with time.subNs := 0 } Reg.SYS_OPSEC
    let p := s.pwr.temperature h.edge
    let p := { p with hist := p.hist.set (histBin h.edge) (p.hist.getD (histBin h.edge) 0 + 1),
                      dipSec := p.dipSec + b2n (p.dip1 || p.dip2) }
    let s := (State.healthRegs { s with pwr := p } h).permitLeft.calendarSample
    let s := if 850 < h.edge then s.report .o .warn 0x0F09 (srcNo 15 0) (leBytes 2 (h.edge % 65536).toNat) else s
    if 1100 < h.hotspot then s.report .o .fault 0x0F0A (srcNo 15 0) (leBytes 2 (h.hotspot % 65536).toNat) else s

/-- MARGIN_PLAN_UPDATE (R467): 24 operating hours after the last plan. -/
def execMarginPlanUpdate (s : State) : Out := .next <|
  if s.sup.powered ∧ s.pwr.planAt + 86400 ≤ s.opSec then s.plan s.mode.cycles else s

end Sys2Proof.Machine
end

