-- ==== Sys2Proof/Machine/PrgRows.lean ====
section
/-! DEFINITION. Program commands, one meaning per row (spec/02_cycle_model.md R58 to R66). -/
namespace Sys2Proof.Machine

/-- The modes of the program commands (R249). -/
def prgModes : Mode → Bool := modesOf [.stopped, .run, .test]

/-- The long operation that works on the inactive slot, if one is pending: a load is answered BUSY with its opcode. -/
def State.slotBusy (s : State) : Option Nat :=
  match s.cmd.longOp with
  | some l => if l.opcode = 0x0300 ∨ l.opcode = 0x0302 ∨ l.opcode = 0x0303 then some l.opcode else none
  | none => none

/-- The inactive slot begins a new image: filled with zero words, its verification cleared (R58, R101). -/
def State.beginSlot (s : State) (id : Word) (len : Nat) : State :=
  let n := s.otherSlot
  ((s.zeroSlot n).setSlot n ⟨some (id, len), [], .no, none⟩).setFld Reg.CE_SWSTAT_STATE 0

/-- PRG_BEGIN from the host. -/
def State.beginHost (s : State) (id : Word) (len dst : Nat) : State :=
  if dst = 0 then { s.beginSlot id len with sup.flashLoad := none }
  else { (s.setFlashSlot dst none).countErase programPartition with sup.flashLoad := some (dst, id, len, []) }

/-- PRG_BEGIN from a Flash Store slot, whose image must be the one named. -/
def State.beginFlash (s : State) (id : Word) (len src dst : Nat) : State × Answer :=
  match s.flashSlot src with
  | none => (s, .no .notInMode 0x0301)
  | some (i, b) =>
    if i ≠ id then (s, .no .notInMode 0x0302)
    else if b.length ≠ len then (s, .no .notInMode 0x0303)
    else
      let s := s.supersede
      if dst = 0 then ((s.loadSlot s.otherSlot id b).setFld Reg.CE_SWSTAT_STATE 0, .done)
      else ((s.setFlashSlot dst (some (id, b))).countErase programPartition, .done)

/-- PRG_BEGIN (R58, R239): a load from a Flash Store slot is a long operation; `flash` false where a flash write fails
(R440). -/
def execPrgBegin (r : Req) (flash : Bool) (s : State) : Out := .next <|
  let src := r.nat 9 1
  s.serve ⟨0x0300, rMI, fixedLen 12, prgModes, src != 0⟩ r (fun s =>
    let id := BitVec.ofNat 32 (r.nat 0 4)
    let len := r.nat 4 4
    let dst := r.nat 8 1
    if 4 < dst ∨ 4 < src ∨ len = 0 ∨ (if dst = 0 then 8 * slotWords else 0x4000000) < len ∨ (src ≠ 0 ∧ src = dst) then
      s.finish 0x0300 r (.no .badLength 0xFFFE)
    else match s.slotBusy with
      | some op => s.finish 0x0300 r (.no .busy op)
      | none =>
        if dst ≠ 0 ∧ !flash then s.finish 0x0300 r (.no .storeError 0x0002)
        else if src = 0 then (s.supersede.beginHost id len dst).finish 0x0300 r .done
        else
          let q := s.beginFlash id len src dst
          if q.2.status = .ok then q.1.beginLong 0x0300 r true q.2 else q.1.finish 0x0300 r q.2)

/-- A block of a load to a Flash Store slot; the slot holds the image once it is complete. -/
def State.flashBlock (s : State) (off : Nat) (b : List Byte) (f : Nat × Word × Nat × Sparse Byte) : State × Answer :=
  let (k, id, len, got) := f
  if len + 3 < off + b.length then (s, .no .badLength 0xFFFE)
  else
    let got := ((List.range b.length).zip b).foldl (fun m e => sput m (off + e.1) e.2) got
    let all := (List.range len).map (fun i => sget got i)
    if all.all (·.isSome) then
      ({ s.setFlashSlot k (some (id, all.map (·.getD 0))) with sup.flashLoad := none }, .done)
    else ({ s with sup.flashLoad := some (k, id, len, got) }, .done)

/-- A block of a load to the inactive slot. DESIGN CHOICE: the rule names PRG_VERIFY and PRG_BEGIN as what changes a
verification; a block, which changes the image, clears it too (notes/assumptions/43.md). -/
def State.slotBlock (s : State) (off : Nat) (b : List Byte) : State × Answer :=
  let n := s.otherSlot
  let x := s.slot n
  match x.begun with
  | none => (s, .no .notInMode 0x0301)
  | some (_, len) =>
    if len + 3 < off + b.length then (s, .no .badLength 0xFFFE)
    else
      let q := s.writeSlot n b.length off b
      if q.2 then (q.1, .no .storeError 0x0001)
      else (q.1.setSlot n { x with received := x.received ++ [(off, b.length)], verified := .no, image := none }, .done)

/-- PRG_BLOCK (R249): to the destination of the last PRG_BEGIN; `flash` false where a flash write fails (R440). -/
def execPrgBlock (r : Req) (flash : Bool) (s : State) : Out := .next <|
  s.serve ⟨0x0301, rMI, lenBetween 8 4060, prgModes, false⟩ r (fun s =>
    let off := r.nat 0 4
    let b := r.payload.drop 4
    if off % 4 ≠ 0 ∨ b.length % 4 ≠ 0 then s.finish 0x0301 r (.no .badLength 0xFFFE)
    else match s.slotBusy with
      | some op => s.finish 0x0301 r (.no .busy op)
      | none =>
        let q := match s.sup.flashLoad with
          | some f => if flash then s.flashBlock off b f else (s, .no .storeError 0x0002)
          | none => s.slotBlock off b
        q.1.finish 0x0301 r q.2)

/-- PRG_VERIFY (R58): `img` is what the supervisor reads out of the image. -/
def execPrgVerify (r : Req) (img : Image) (s : State) : Out := .next <|
  s.serve ⟨0x0302, rMI, fixedLen 4, prgModes, true⟩ r (fun s =>
    let q := s.verifySlot (BitVec.ofNat 32 (r.nat 0 4)) img
    q.1.beginLong 0x0302 r true q.2)

/-- The active of a running pair switches only together with its standby (R374): `standby` is the program the standby
holds verified in its inactive slot, as the active has learnt it. -/
def State.standbyMissing (s : State) (standby : Option Word) (id : Word) : Bool :=
  s.pairRole == 1 && (s.colState == colServing || (s.colState == colSyncActive && standby != some id))

/-- PRG_SWITCH (R59, R61, R66): at once in STOPPED, else at the first quiet boundary; a long operation (R239). -/
def execPrgSwitch (r : Req) (standby : Option Word) (s : State) : Out := .next <|
  s.serve ⟨0x0303, rMI, fixedLen 4, prgModes, true⟩ r (fun s =>
    match s.switchRefusal (BitVec.ofNat 32 (r.nat 0 4)) with
    | some a => (s.setFld Reg.CE_SWSTAT_STATE 5).finish 0x0303 r a
    | none =>
      if s.standbyMissing standby (BitVec.ofNat 32 (r.nat 0 4)) then s.finish 0x0303 r (.no .notInMode 0x0806)
      else if s.mode = .stopped then
        let s := s.supersede
        match (s.slot s.otherSlot).image with
        | some p => (s.switchNow p).beginLong 0x0303 r true .done
        | none => s.finish 0x0303 r (.no .notInMode 0x0304)
      else
        let s := (s.flag Reg.CE_STAT_SW_PENDING true).setFld Reg.CE_SWSTAT_STATE 2
        { s with ce.switchSince := some s.time.tick }.beginLong 0x0303 r false .done)

end Sys2Proof.Machine
end

