-- ==== Sys2Proof/Machine/RegRows.lean ====
section
/-! DEFINITION. Register commands: writes and latching reads from outside the instruction stream, and the end of a
shutdown (spec/10_register_conventions.md). Each names its source; a triad write made by an instruction acts within that
instruction. -/
namespace Sys2Proof.Machine

/-- A write of a whole register by a source that may write its page. -/
def State.srcWrite (s : State) (src : WSrc) (page off : Nat) (v : Word) : State :=
  if mayWrite src page then s.regWrite src page off v else s

/-- A write to the primary or the complement address of a dangerous register (R266). -/
def State.wdWrite (s : State) (src : WSrc) (page off : Nat) (compl : Bool) (v : Word) : State :=
  s.srcWrite src page (if compl then off + 0x400 else off) v

/-- The register of ring `n` at offset `o` of its block. -/
def ringReg (n o : Nat) : Nat := 0x40 + 0x30 * (n % 16) + o
def ringPage (n : Nat) : Nat := 6 + n / 16

/-- REGISTER_WRITE (R259 to R265). -/
def execRegisterWrite (src : WSrc) (page off : Nat) (v : Word) (s : State) : Out := .next <|
  if off < 0x1000 ∧ off % 4 = 0 then s.srcWrite src page off v else s

/-- CMD_DOORBELL (R236): the requests of ring 0 are picked up and wait to be served. -/
def execCmdDoorbell (src : WSrc) (v : Word) (s : State) : Out := .next (s.srcWrite src 0x1A 0x008 v)

/-- SYS_SNAP (R272). -/
def execSysSnap (src : WSrc) (v : Word) (s : State) : Out := .next (s.srcWrite src 0x00 0x020 v)

/-- SYS_SAFEREQ (R266, R226): a write to the register (`compl` false) or to its complement address. -/
def execSysSafereq (src : WSrc) (compl : Bool) (v : Word) (s : State) : Out := .next (s.wdWrite src 0x00 0x040 compl v)

/-- SF_STOPREQ (R266, R402). -/
def execSfStopreq (src : WSrc) (compl : Bool) (v : Word) (s : State) : Out := .next (s.wdWrite src 0x15 0x040 compl v)

/-- RNG_POST (R279, R281). -/
def execRngPost (src : WSrc) (n : Nat) (v : Word) (s : State) : Out := .next <|
  if n < 32 then s.srcWrite src (ringPage n) (ringReg n 0x0C) v else s

/-- RESUME (R285): a write of 1 to RNG_CMD.RESUME. -/
def execResume (src : WSrc) (n : Nat) (s : State) : Out := .next <|
  if n < 32 then s.srcWrite src (ringPage n) (ringReg n 0x18) 1 else s

/-- SKIP (R285): a write of 1 to RNG_CMD.SKIP. -/
def execSkip (src : WSrc) (n : Nat) (s : State) : Out := .next <|
  if n < 32 then s.srcWrite src (ringPage n) (ringReg n 0x18) 2 else s

/-- RDG_IRQ (R349). -/
def execRdgIrq (src : WSrc) (v : Word) (s : State) : Out := .next (s.srcWrite src 0x10 0x020 v)

/-- CAN_RECOVER (R319). -/
def execCanRecover (src : WSrc) (c : Nat) (s : State) : Out := .next <|
  if 1 ≤ c ∧ c ≤ 8 then s.srcWrite src 0x0C (0x50 + 0x40 * (c - 1)) 1 else s

/-- CE_TICKLO_READ (R33): the read latches CE_TICKHI. -/
def execCeTickloRead (s : State) : Out := .next (s.readReg 0x02 0x008).1

/-- ENC_PPSINLO_READ: the read latches ENC_PPSINHI. -/
def execEncPpsinloRead (s : State) : Out := .next (s.readReg 0x0E 0x008).1

/-- RING_ENABLE_WRITE (R286, R271): a write of RNG_CFGn. -/
def execRingEnableWrite (src : WSrc) (n : Nat) (v : Word) (s : State) : Out := .next <|
  if n < 32 then s.srcWrite src (ringPage n) (ringReg n 0) v else s

/-- BRG_ENABLE_WRITE (R344, R347): a write of BRG_CFGn. -/
def execBrgEnableWrite (src : WSrc) (n : Nat) (v : Word) (s : State) : Out := .next <|
  if 1 ≤ n ∧ n ≤ 63 then s.srcWrite src 0x11 (0x10 * (n - 1)) v else s

/-- FCH_ENABLE_WRITE (R388): a write of FCH_CFGn. -/
def execFchEnableWrite (src : WSrc) (n : Nat) (v : Word) (s : State) : Out := .next <|
  if 1 ≤ n ∧ n ≤ 64 then s.srcWrite src 0x13 (0x10 * (n - 1)) v else s

/-- RDG_ENABLE_WRITE (R327): a write of RDG_CTRL. -/
def execRdgEnableWrite (src : WSrc) (v : Word) (s : State) : Out := .next (s.srcWrite src 0x10 0x000 v)

/-- COMPAT_WRITE (R265): a write of the CTRL register of a page with COMPAT. -/
def execCompatWrite (src : WSrc) (page : Nat) (v : Word) (s : State) : Out := .next <|
  if compatPage page then s.srcWrite src page 0x000 v else s

/-- SHUTDOWN_COMPLETE (R271, R286, R347): the shutdown of an instance ends, and a held re-enable takes effect. -/
def execShutdownComplete (i : Inst) (s : State) : Out := .next <|
  if decide (i ∈ s.bus.shutting) && s.mayEnd i then
    let s := (State.shuttingBit { s with bus.shutting := s.bus.shutting.filter (fun j => decide (j ≠ i)) } i false).stopInst i
    let s := if s.enabled i then s.startInst i else s
    match i with
    | .ring n => s.ringIdle n
    | _ => s
  else s

end Sys2Proof.Machine
end

