-- ==== Sys2Proof/Machine/RidgeRows.lean ====
section
/-! DEFINITION. Commands of the Ridge link and the bridge (spec/13_ridge_link.md). -/
namespace Sys2Proof.Machine

/-- A frame of one type is received. -/
def State.ridgeType (s : State) (type : Nat) (rx : RidgeRx) (late : Bool) : State :=
  if rx.frame.type = type then s.ridgeRx rx late false else s

/-- CYCLE (R336): the Summit's own frame and slots of a tick, or a received one. -/
def execCycle (rx : Option RidgeRx) (s : State) : Out := .next <|
  match rx with
  | none => s.sendCycle
  | some r => s.ridgeType 1 r false

/-- SLOT (R337, R338): `late` for one that arrives beyond SLOT_DEADLINE. -/
def execSlot (rx : RidgeRx) (late : Bool) (s : State) : Out := .next (s.ridgeType 2 rx late)

/-- DISCOVER (R330): the Summit's own, every 64 ticks, or a received one. -/
def execDiscover (rx : Option RidgeRx) (s : State) : Out := .next <|
  match rx with
  | none => s.sendDiscover
  | some r => s.ridgeType 3 r false

/-- RIDGE_LINK_CHANGE (R330). -/
def execRidgeLinkChange (east up : Bool) (s : State) : Out := .next <|
  let s := s.flag (if east then Reg.RDG_STAT_LINK_E else Reg.RDG_STAT_LINK_W) up
  let s := if up then s else s.fiLinkDown (if east then linkRidgeE else linkRidgeW)
  s.sendDiscover

/-- NO_MANAGER (R331, R338). -/
def execNoManager (s : State) : Out := .next <|
  if s.isWorker ∧ s.rdgOn ∧ s.rdgState ≠ 5 ∧ 3 ≤ s.rdg.quiet then
    let s := (s.setRdg 5).flag Reg.RDG_EVT_MANAGER_LOST true
    if s.rdg.lost.contains 0 then s else s.loseStation 0
  else s

/-- STATION_LOST (R338): every station whose slots have failed for LOSS_TICKS ticks. -/
def execStationLost (s : State) : Out := .next <|
  let due := fun (s : State) (n : Nat) => decide (s.lossTicks ≤ sgetD 0 s.rdg.missed n)
  if s.isManager then
    (List.range 64).foldl (fun s n => if s.online n && due s n then s.loseStation n else s) s
  else if s.isWorker ∧ due s 0 ∧ !s.rdg.lost.contains 0 then s.loseStation 0
  else s

/-- RIDGE_CRC_ERROR (R334): a frame with a wrong CRC, or one that a station before this stomped. -/
def execRidgeCrcError (rx : RidgeRx) (stomped : Bool) (s : State) : Out :=
  .next (s.ridgeRx { rx with ok := false } false stomped)

/-- POSTED (R342, R345). -/
def execPosted (rx : RidgeRx) (s : State) : Out := .next (s.ridgeType 4 rx false)

/-- REQUEST (R343). -/
def execRequest (rx : RidgeRx) (s : State) : Out := .next (s.ridgeType 5 rx false)

/-- REQUEST_SERVICE (R343, R345): the oldest queued request. -/
def execRequestService (s : State) : Out := .next (if s.isWorker && s.rdgOn then s.serveRequest else s)

/-- COMPLETION (R346), with the statuses of the words of a line (R348). -/
def execCompletion (c : CompletionRx) (s : State) : Out :=
  .next (State.ridgeType { s with rdg.words := sput s.rdg.words c.rx.frame.src c.words } 6 c.rx false)

/-- TUNNEL (R350 to R352). -/
def execTunnel (rx : RidgeRx) (s : State) : Out := .next (s.ridgeType 7 rx false)

/-- IRQ (R349). -/
def execIrq (rx : RidgeRx) (s : State) : Out := .next (s.ridgeType 8 rx false)

/-- ACK (R341). -/
def execAck (rx : RidgeRx) (s : State) : Out := .next (s.ridgeType 10 rx false)

/-- RETRY_BACKOFF (R343): the request of context `n` that was answered RETRY is sent again. -/
def execRetryBackoff (n : Nat) (s : State) : Out := .next <|
  let x := s.bctx n
  match x.load.filter (·.backoff) with
  | some l =>
    if s.reach n then
      (s.setBctx n { x with load := some { l with backoff := false } }).streamSend n 5
        (leBytes 4 l.addr ++ [BitVec.ofNat 8 l.size, BitVec.ofNat 8 l.tag, BitVec.ofNat 8 (b2n l.line), 0]) none l.offset
    else s
  | none => s

/-- CPL_TIMEOUT (R346): every load without a completion for CPL_TIMEOUT ticks. -/
def execCplTimeout (s : State) : Out := .next <|
  (List.range 63).foldl (fun s i =>
    match (s.bctx (i + 1)).load with
    | some l => if l.done.isNone ∧ l.since + s.cplTimeout ≤ s.time.tick then s.endLoad (i + 1) 7 0 else s
    | none => s) s

/-- ACK_DELAY (R341): 10 µs have passed and nothing else has carried the acknowledgement owed to a station. -/
def execAckDelay (n : Nat) (s : State) : Out := .next <|
  if n < 64 ∧ (s.stream n).ackDue ∧ s.rdgOn then s.rdgTo 10 n 0 false [] else s

/-- STREAM_RETRANSMIT (R341): every unacknowledged frame to a station, oldest first. -/
def execStreamRetransmit (n : Nat) (s : State) : Out := .next <|
  if n < 64 ∧ s.reach n then
    (s.stream n).unacked.foldl (fun s f => (s.rdgTo f.type n f.seq f.sync f.payload).bump Reg.RDG_RTXCNT) s
  else s

/-- BRIDGE_COMPLETION (R45, R155, R346): T7 takes the completion of its load when it executes again. -/
def execBridgeCompletion (s : State) : Out := .next <|
  let t := s.ce.task 7
  match t.waiting with
  | some (.load n _ rt size) =>
    match (s.bctx n).load.bind (·.done) with
    | some (st, d) =>
      if s.bestCyclic.isSome ∨ (s.ce.task 8).ready then s
      else
        let s := (s.setBctx n { s.bctx n with load := none }).modTask 7 (fun t => { t with waiting := none })
        let s := s.dispatch
        if st = 0 then settle 7 t.ctx.pc (.done (t.ctx.loaded rt size d).next 6 s)
        else settle 7 t.ctx.pc (.trap .bus 6 s)
    | none => s
  | _ => s

/-- BRIDGE_FAR_ERROR (R346): the far error of a posted store is raised in T7 at an instruction boundary of T7. -/
def execBridgeFarError (s : State) : Out := .next <|
  if s.rdg.farPending ∧ s.ce.cur = some 7 ∧ !s.bridgeWaits then
    (State.trap { s with rdg.farPending := false } 7 .storeError (s.ce.task 7).ctx.pc).dispatch
  else s

end Sys2Proof.Machine
end

