-- ==== Sys2Proof/Machine/RingRows.lean ====
section
/-! DEFINITION. Commands of the Ring Engine (spec/11_rings.md): one descriptor of an OUT ring, one frame of an IN ring, the
record of an overload. -/
namespace Sys2Proof.Machine

/-- RING_DESCRIPTOR_PROCESS (R279): the descriptor that HEAD = `k` names. -/
def execRingDescriptorProcess (n k : Nat) (s : State) : Out := .next (if n < 32 ∧ s.ringHead n = k then s.processOut n else s)

/-- RING_IN_FRAME (R278, R283): a frame of the agent of an IN ring. -/
def execRingInFrame (n : Nat) (f : AgentFrame) (s : State) : Out := .next <|
  if n < 32 ∧ s.agent n ≠ 0 then s.ringIn n (s.agent n) f else s

/-- RING_OVERLOAD (R283): the record of a minute in which ring `n` dropped frames. -/
def execRingOverload (n : Nat) (s : State) : Out := .next <|
  let k := sgetD 0 s.ring.minute n
  if n < 32 ∧ k ≠ 0 then
    State.report { s with ring.minute := serase s.ring.minute n } .d .warn 0x0601 (srcNo 6 n)
      (leBytes 4 k ++ leBytes 4 (s.fld (Reg.RNG_DROPCNT n)).toNat)
  else s

end Sys2Proof.Machine
end

