-- ==== Sys2Proof/Machine/Dispatch.lean ====
section
/-! DEFINITION. One arm per command: one direct call of its meaning. -/
namespace Sys2Proof.Machine

/-- The effect of a command on everything but the queue. -/
def exec (i : Instr) (s : State) : Host.Outcome State Fault Refusal :=
  match i with
  | .bld v o => Sys2Proof.Machine.execBld v o s
  | .band v o => Sys2Proof.Machine.execBand v o s
  | .bor v o => Sys2Proof.Machine.execBor v o s
  | .bxor v o => Sys2Proof.Machine.execBxor v o s
  | .bst v o => Sys2Proof.Machine.execBst v o s
  | .bsr v o => Sys2Proof.Machine.execBsr v o s
  | .bedge v o => Sys2Proof.Machine.execBedge v o s
  | .push v code => Sys2Proof.Machine.execPush v code s
  | .pop v => Sys2Proof.Machine.execPop v s
  | .pops v => Sys2Proof.Machine.execPops v s
  | .bnot v => Sys2Proof.Machine.execBnot v s
  | .bnots v => Sys2Proof.Machine.execBnots v s
  | .bone v => Sys2Proof.Machine.execBone v s
  | .bzero v => Sys2Proof.Machine.execBzero v s
  | .bany v => Sys2Proof.Machine.execBany v s
  | .ball v => Sys2Proof.Machine.execBall v s
  | .mfba v rd => Sys2Proof.Machine.execMfba v rd s
  | .mtba v ra => Sys2Proof.Machine.execMtba v ra s
  | .mfsm v rd => Sys2Proof.Machine.execMfsm v rd s
  | .mtsm v ra => Sys2Proof.Machine.execMtsm v ra s
  | .bcnt v rd => Sys2Proof.Machine.execBcnt v rd s
  | .bsplat v => Sys2Proof.Machine.execBsplat v s
  | .wld v o => Sys2Proof.Machine.execWld v o s
  | .wst v o => Sys2Proof.Machine.execWst v o s
  | .slds v o => Sys2Proof.Machine.execSlds v o s
  | .ssts v o => Sys2Proof.Machine.execSsts v o s
  | .sage v o => Sys2Proof.Machine.execSage v o s
  | .wald v ix sid => Sys2Proof.Machine.execWald v ix sid s
  | .wast v ix sid => Sys2Proof.Machine.execWast v ix sid s
  | .add v o => Sys2Proof.Machine.execAdd v o s
  | .sub v o => Sys2Proof.Machine.execSub v o s
  | .and v o => Sys2Proof.Machine.execAnd v o s
  | .or v o => Sys2Proof.Machine.execOr v o s
  | .xor v o => Sys2Proof.Machine.execXor v o s
  | .shl v o => Sys2Proof.Machine.execShl v o s
  | .shr v o => Sys2Proof.Machine.execShr v o s
  | .sar v o => Sys2Proof.Machine.execSar v o s
  | .mul v o => Sys2Proof.Machine.execMul v o s
  | .div v o => Sys2Proof.Machine.execDiv v o s
  | .divu v o => Sys2Proof.Machine.execDivu v o s
  | .rem v o => Sys2Proof.Machine.execRem v o s
  | .remu v o => Sys2Proof.Machine.execRemu v o s
  | .cmp v ra rb => Sys2Proof.Machine.execCmp v ra rb s
  | .mov v rd ra => Sys2Proof.Machine.execMov v rd ra s
  | .mtwa v ra => Sys2Proof.Machine.execMtwa v ra s
  | .mfwa v rd => Sys2Proof.Machine.execMfwa v rd s
  | .addi v o => Sys2Proof.Machine.execAddi v o s
  | .andi v o => Sys2Proof.Machine.execAndi v o s
  | .ori v o => Sys2Proof.Machine.execOri v o s
  | .xori v o => Sys2Proof.Machine.execXori v o s
  | .cmpi v ra imm => Sys2Proof.Machine.execCmpi v ra imm s
  | .shi v o => Sys2Proof.Machine.execShi v o s
  | .lui v rd imm => Sys2Proof.Machine.execLui v rd imm s
  | .fadd v ra => Sys2Proof.Machine.execFadd v ra s
  | .fsub v ra => Sys2Proof.Machine.execFsub v ra s
  | .fmul v ra => Sys2Proof.Machine.execFmul v ra s
  | .fdiv v ra => Sys2Proof.Machine.execFdiv v ra s
  | .fsqrt v => Sys2Proof.Machine.execFsqrt v s
  | .fcmp v ra => Sys2Proof.Machine.execFcmp v ra s
  | .fitof v => Sys2Proof.Machine.execFitof v s
  | .futof v => Sys2Proof.Machine.execFutof v s
  | .fftoi v => Sys2Proof.Machine.execFftoi v s
  | .fftoir v => Sys2Proof.Machine.execFftoir v s
  | .ldw v o => Sys2Proof.Machine.execLdw v o s
  | .ldh v o => Sys2Proof.Machine.execLdh v o s
  | .ldby v o => Sys2Proof.Machine.execLdby v o s
  | .ldp v o => Sys2Proof.Machine.execLdp v o s
  | .stw v o => Sys2Proof.Machine.execStw v o s
  | .sth v o => Sys2Proof.Machine.execSth v o s
  | .stby v o => Sys2Proof.Machine.execStby v o s
  | .stp v o => Sys2Proof.Machine.execStp v o s
  | .br v cond off => Sys2Proof.Machine.execBr v cond off s
  | .call v off => Sys2Proof.Machine.execCall v off s
  | .ret v => Sys2Proof.Machine.execRet v s
  | .loop v rc bound => Sys2Proof.Machine.execLoop v rc bound s
  | .endl v => Sys2Proof.Machine.execEndl v s
  | .nop v => Sys2Proof.Machine.execNop v s
  | .endRelease v => Sys2Proof.Machine.execEndRelease v s
  | .clrf v => Sys2Proof.Machine.execClrf v s
  | .mff v rd => Sys2Proof.Machine.execMff v rd s
  | .mtf v ra => Sys2Proof.Machine.execMtf v ra s
  | .illegal v => Sys2Proof.Machine.execIllegal v s
  | .storeBufferWrite => Sys2Proof.Machine.execStoreBufferWrite s
  | .bridgeCompletion => Sys2Proof.Machine.execBridgeCompletion s
  | .bridgeFarError => Sys2Proof.Machine.execBridgeFarError s
  | .budgetAbort => Sys2Proof.Machine.execBudgetAbort s
  | .tickBoundary cv0 cv1 => Sys2Proof.Machine.execTickBoundary cv0 cv1 s
  | .overrunLimit n => Sys2Proof.Machine.execOverrunLimit n s
  | .programSwitch => Sys2Proof.Machine.execProgramSwitch s
  | .switchTimeout => Sys2Proof.Machine.execSwitchTimeout s
  | .t7Start => Sys2Proof.Machine.execT7Start s
  | .initRoutineTimeout => Sys2Proof.Machine.execInitRoutineTimeout s
  | .laneReadmission l copies readback => Sys2Proof.Machine.execLaneReadmission l copies readback s
  | .forcedReadmission l copies readback => Sys2Proof.Machine.execForcedReadmission l copies readback s
  | .degleftCountdown => Sys2Proof.Machine.execDegleftCountdown s
  | .ceWriteBack => Sys2Proof.Machine.execCeWriteBack s
  | .traverseScrubRead => Sys2Proof.Machine.execTraverseScrubRead s
  | .programRamScrub => Sys2Proof.Machine.execProgramRamScrub s
  | .nopCmd r => Sys2Proof.Machine.execNopCmd r s
  | .ident r => Sys2Proof.Machine.execIdent r s
  | .resync r => Sys2Proof.Machine.execResync r s
  | .snap r => Sys2Proof.Machine.execSnap r s
  | .timeSet r => Sys2Proof.Machine.execTimeSet r s
  | .regRead r => Sys2Proof.Machine.execRegRead r s
  | .regWrite r => Sys2Proof.Machine.execRegWrite r s
  | .sessOpen r => Sys2Proof.Machine.execSessOpen r s
  | .sessClose r => Sys2Proof.Machine.execSessClose r s
  | .modeReq r => Sys2Proof.Machine.execModeReq r s
  | .cfgOpen r => Sys2Proof.Machine.execCfgOpen r s
  | .cfgWrite r => Sys2Proof.Machine.execCfgWrite r s
  | .cfgRead r => Sys2Proof.Machine.execCfgRead r s
  | .cfgCommit r flash => Sys2Proof.Machine.execCfgCommit r flash s
  | .prgBegin r flash => Sys2Proof.Machine.execPrgBegin r flash s
  | .prgBlock r flash => Sys2Proof.Machine.execPrgBlock r flash s
  | .prgVerify r img => Sys2Proof.Machine.execPrgVerify r img s
  | .prgSwitch r standby => Sys2Proof.Machine.execPrgSwitch r standby s
  | .sigRead r => Sys2Proof.Machine.execSigRead r s
  | .sigForce r => Sys2Proof.Machine.execSigForce r s
  | .sigUnforce r => Sys2Proof.Machine.execSigUnforce r s
  | .forceList r => Sys2Proof.Machine.execForceList r s
  | .sfCheckRead r => Sys2Proof.Machine.execSfCheckRead r s
  | .sfConfirm r => Sys2Proof.Machine.execSfConfirm r s
  | .sfReset r => Sys2Proof.Machine.execSfReset r s
  | .logInfo r => Sys2Proof.Machine.execLogInfo r s
  | .logRead r => Sys2Proof.Machine.execLogRead r s
  | .updBegin r => Sys2Proof.Machine.execUpdBegin r s
  | .updBlock r flash => Sys2Proof.Machine.execUpdBlock r flash s
  | .updActivate r flash => Sys2Proof.Machine.execUpdActivate r flash s
  | .pairRole r => Sys2Proof.Machine.execPairRole r s
  | .pairSwap r => Sys2Proof.Machine.execPairSwap r s
  | .laneRestore r => Sys2Proof.Machine.execLaneRestore r s
  | .ageReport r => Sys2Proof.Machine.execAgeReport r s
  | .marginPlan r => Sys2Proof.Machine.execMarginPlan r s
  | .marginStep r => Sys2Proof.Machine.execMarginStep r s
  | .fiSet r => Sys2Proof.Machine.execFiSet r s
  | .fiClear r => Sys2Proof.Machine.execFiClear r s
  | .fiPermit r => Sys2Proof.Machine.execFiPermit r s
  | .empStatus r => Sys2Proof.Machine.execEmpStatus r s
  | .empRead r => Sys2Proof.Machine.execEmpRead r s
  | .empAck r => Sys2Proof.Machine.execEmpAck r s
  | .empParam r => Sys2Proof.Machine.execEmpParam r s
  | .empSwid r => Sys2Proof.Machine.execEmpSwid r s
  | .empUpdBegin r => Sys2Proof.Machine.execEmpUpdBegin r s
  | .empUpdBlock r => Sys2Proof.Machine.execEmpUpdBlock r s
  | .empUpdActivate r => Sys2Proof.Machine.execEmpUpdActivate r s
  | .rdgInfo r => Sys2Proof.Machine.execRdgInfo r s
  | .packetReject transport source forwarded bytes => Sys2Proof.Machine.execPacketReject transport source forwarded bytes s
  | .packetForward op r => Sys2Proof.Machine.execPacketForward op r s
  | .dangerousArmTimeout trig num => Sys2Proof.Machine.execDangerousArmTimeout trig num s
  | .sessionIdleTimeout trig num => Sys2Proof.Machine.execSessionIdleTimeout trig num s
  | .authLockExpiry trig transport => Sys2Proof.Machine.execAuthLockExpiry trig transport s
  | .cmdDoorbell src v => Sys2Proof.Machine.execCmdDoorbell src v s
  | .sysSnap src v => Sys2Proof.Machine.execSysSnap src v s
  | .sysSafereq src compl v => Sys2Proof.Machine.execSysSafereq src compl v s
  | .sfStopreq src compl v => Sys2Proof.Machine.execSfStopreq src compl v s
  | .rngPost src n v => Sys2Proof.Machine.execRngPost src n v s
  | .resume src n => Sys2Proof.Machine.execResume src n s
  | .skip src n => Sys2Proof.Machine.execSkip src n s
  | .rdgIrq src v => Sys2Proof.Machine.execRdgIrq src v s
  | .canRecover src c => Sys2Proof.Machine.execCanRecover src c s
  | .ceTickloRead => Sys2Proof.Machine.execCeTickloRead s
  | .encPpsinloRead => Sys2Proof.Machine.execEncPpsinloRead s
  | .ringEnableWrite src n v => Sys2Proof.Machine.execRingEnableWrite src n v s
  | .brgEnableWrite src n v => Sys2Proof.Machine.execBrgEnableWrite src n v s
  | .fchEnableWrite src n v => Sys2Proof.Machine.execFchEnableWrite src n v s
  | .rdgEnableWrite src v => Sys2Proof.Machine.execRdgEnableWrite src v s
  | .compatWrite src page v => Sys2Proof.Machine.execCompatWrite src page v s
  | .registerWrite src page off v => Sys2Proof.Machine.execRegisterWrite src page off v s
  | .shutdownComplete inst => Sys2Proof.Machine.execShutdownComplete inst s
  | .powerUp feed2 straps => Sys2Proof.Machine.execPowerUp feed2 straps s
  | .selftestEnd tests => Sys2Proof.Machine.execSelftestEnd tests s
  | .autostart img => Sys2Proof.Machine.execAutostart img s
  | .startLoopGuardClear => Sys2Proof.Machine.execStartLoopGuardClear s
  | .resetPress ms straps => Sys2Proof.Machine.execResetPress ms straps s
  | .resetStuck => Sys2Proof.Machine.execResetStuck s
  | .resetArm => Sys2Proof.Machine.execResetArm s
  | .updRestart straps => Sys2Proof.Machine.execUpdRestart straps s
  | .supervisorLockstepMismatch => Sys2Proof.Machine.execSupervisorLockstepMismatch s
  | .feedGood feed2 => Sys2Proof.Machine.execFeedGood feed2 s
  | .feedLost feed2 => Sys2Proof.Machine.execFeedLost feed2 s
  | .feedDip feed2 => Sys2Proof.Machine.execFeedDip feed2 s
  | .feedStress feed2 => Sys2Proof.Machine.execFeedStress feed2 s
  | .feedSurge feed2 => Sys2Proof.Machine.execFeedSurge feed2 s
  | .feedOvervoltage feed2 => Sys2Proof.Machine.execFeedOvervoltage feed2 s
  | .feedReconnect feed2 => Sys2Proof.Machine.execFeedReconnect feed2 s
  | .stopLevel => Sys2Proof.Machine.execStopLevel s
  | .converterStop => Sys2Proof.Machine.execConverterStop s
  | .holdupCharged => Sys2Proof.Machine.execHoldupCharged s
  | .holdupTest cap => Sys2Proof.Machine.execHoldupTest cap s
  | .clockFault straps => Sys2Proof.Machine.execClockFault straps s
  | .ageingSample canary drift => Sys2Proof.Machine.execAgeingSample canary drift s
  | .thermalSample h => Sys2Proof.Machine.execThermalSample h s
  | .marginPlanUpdate => Sys2Proof.Machine.execMarginPlanUpdate s
  | .fieldScan scan => Sys2Proof.Machine.execFieldScan scan s
  | .outputOverload ch => Sys2Proof.Machine.execOutputOverload ch s
  | .outputThermal ch => Sys2Proof.Machine.execOutputThermal ch s
  | .groupOverload g fast => Sys2Proof.Machine.execGroupOverload g fast s
  | .channelDiagnostic ch => Sys2Proof.Machine.execChannelDiagnostic ch s
  | .lpLow g => Sys2Proof.Machine.execLpLow g s
  | .fieldGroupMissing g => Sys2Proof.Machine.execFieldGroupMissing g s
  | .fieldGroupPresent g => Sys2Proof.Machine.execFieldGroupPresent g s
  | .ss1TimeMax n => Sys2Proof.Machine.execSs1TimeMax n s
  | .siDiscrepancyFault n => Sys2Proof.Machine.execSiDiscrepancyFault n s
  | .speedDiscrepancyFault n => Sys2Proof.Machine.execSpeedDiscrepancyFault n s
  | .soFault k => Sys2Proof.Machine.execSoFault k s
  | .soOffPulseTest k chB => Sys2Proof.Machine.execSoOffPulseTest k chB s
  | .resetPairStuck n => Sys2Proof.Machine.execResetPairStuck n s
  | .sfCheckRecompute => Sys2Proof.Machine.execSfCheckRecompute s
  | .cfgReload => Sys2Proof.Machine.execCfgReload s
  | .ringDescriptorProcess n k => Sys2Proof.Machine.execRingDescriptorProcess n k s
  | .ringInFrame n f => Sys2Proof.Machine.execRingInFrame n f s
  | .ringOverload n => Sys2Proof.Machine.execRingOverload n s
  | .ethFrameReceive port frame full => Sys2Proof.Machine.execEthFrameReceive port frame full s
  | .nodeTableExpiry => Sys2Proof.Machine.execNodeTableExpiry s
  | .supervisionFrame => Sys2Proof.Machine.execSupervisionFrame s
  | .pdReceive t => Sys2Proof.Machine.execPdReceive t s
  | .pdTimeout => Sys2Proof.Machine.execPdTimeout s
  | .mdReceive m => Sys2Proof.Machine.execMdReceive m s
  | .mdReplyTimeout session => Sys2Proof.Machine.execMdReplyTimeout session s
  | .rawEthernetReceive link bytes => Sys2Proof.Machine.execRawEthernetReceive link bytes s
  | .ttdpHello rx => Sys2Proof.Machine.execTtdpHello rx s
  | .ttdpNeighbourLost => Sys2Proof.Machine.execTtdpNeighbourLost s
  | .etbInauguration count pos topo => Sys2Proof.Machine.execEtbInauguration count pos topo s
  | .ptpMessage m => Sys2Proof.Machine.execPtpMessage m s
  | .ptpLockLost => Sys2Proof.Machine.execPtpLockLost s
  | .ppsInEdge into => Sys2Proof.Machine.execPpsInEdge into s
  | .wholeSecond => Sys2Proof.Machine.execWholeSecond s
  | .mvbMasterFrame ma mb slave first => Sys2Proof.Machine.execMvbMasterFrame ma mb slave first s
  | .mvbSinkTimeout => Sys2Proof.Machine.execMvbSinkTimeout s
  | .wtbPeriod => Sys2Proof.Machine.execWtbPeriod s
  | .wtbNodeFrame a b => Sys2Proof.Machine.execWtbNodeFrame a b s
  | .wtbInauguration t => Sys2Proof.Machine.execWtbInauguration t s
  | .wtbSinkTimeout => Sys2Proof.Machine.execWtbSinkTimeout s
  | .canFrameReceive c f ok => Sys2Proof.Machine.execCanFrameReceive c f ok s
  | .canFrameSent c => Sys2Proof.Machine.execCanFrameSent c s
  | .canBusOff c => Sys2Proof.Machine.execCanBusOff c s
  | .canAutoRecover c => Sys2Proof.Machine.execCanAutoRecover c s
  | .serialFrameReceive c f => Sys2Proof.Machine.execSerialFrameReceive c f s
  | .serialFrameSent c => Sys2Proof.Machine.execSerialFrameSent c s
  | .cycle rx => Sys2Proof.Machine.execCycle rx s
  | .slot rx late => Sys2Proof.Machine.execSlot rx late s
  | .discover rx => Sys2Proof.Machine.execDiscover rx s
  | .ridgeLinkChange east up => Sys2Proof.Machine.execRidgeLinkChange east up s
  | .noManager => Sys2Proof.Machine.execNoManager s
  | .stationLost => Sys2Proof.Machine.execStationLost s
  | .ridgeCrcError rx stomped => Sys2Proof.Machine.execRidgeCrcError rx stomped s
  | .posted rx => Sys2Proof.Machine.execPosted rx s
  | .request rx => Sys2Proof.Machine.execRequest rx s
  | .requestService => Sys2Proof.Machine.execRequestService s
  | .completion c => Sys2Proof.Machine.execCompletion c s
  | .retryBackoff n => Sys2Proof.Machine.execRetryBackoff n s
  | .cplTimeout => Sys2Proof.Machine.execCplTimeout s
  | .tunnel rx => Sys2Proof.Machine.execTunnel rx s
  | .irq rx => Sys2Proof.Machine.execIrq rx s
  | .msg rx => Sys2Proof.Machine.execMsg rx s
  | .ack rx => Sys2Proof.Machine.execAck rx s
  | .ackDelay n => Sys2Proof.Machine.execAckDelay n s
  | .streamRetransmit n => Sys2Proof.Machine.execStreamRetransmit n s
  | .hello rx => Sys2Proof.Machine.execHello rx s
  | .partnerSeekTimeout => Sys2Proof.Machine.execPartnerSeekTimeout s
  | .joinReq rx delay => Sys2Proof.Machine.execJoinReq rx delay s
  | .joinAck rx delay => Sys2Proof.Machine.execJoinAck rx delay s
  | .page rx => Sys2Proof.Machine.execPage rx s
  | .joinCopyRound => Sys2Proof.Machine.execJoinCopyRound s
  | .finalDelta => Sys2Proof.Machine.execFinalDelta s
  | .cut rx => Sys2Proof.Machine.execCut rx s
  | .joinTimeout => Sys2Proof.Machine.execJoinTimeout s
  | .abort rx => Sys2Proof.Machine.execAbort rx s
  | .group rx => Sys2Proof.Machine.execGroup rx s
  | .mark rx => Sys2Proof.Machine.execMark rx s
  | .streamGap => Sys2Proof.Machine.execStreamGap s
  | .beat rx => Sys2Proof.Machine.execBeat rx s
  | .leave rx => Sys2Proof.Machine.execLeave rx s
  | .colSignalLoss => Sys2Proof.Machine.execColSignalLoss s
  | .colLaneDown lane2 => Sys2Proof.Machine.execColLaneDown lane2 s
  | .partnerSilenceTimeout => Sys2Proof.Machine.execPartnerSilenceTimeout s
  | .swapTick => Sys2Proof.Machine.execSwapTick s
  | .cairnRecordIntake => Sys2Proof.Machine.execCairnRecordIntake s
  | .logSourceDrop => Sys2Proof.Machine.execLogSourceDrop s
  | .flashRefresh part ok => Sys2Proof.Machine.execFlashRefresh part ok s
  | .metrologySample em1 em2 em3 em4 em5 em6 => Sys2Proof.Machine.execMetrologySample em1 em2 em3 em4 em5 em6 s
  | .energyWindowEnd => Sys2Proof.Machine.execEnergyWindowEnd s
  | .supplySystemClassify => Sys2Proof.Machine.execSupplySystemClassify s
  | .periodEnd => Sys2Proof.Machine.execPeriodEnd s
  | .sealOpened => Sys2Proof.Machine.execSealOpened s
  | .sealClosed => Sys2Proof.Machine.execSealClosed s
  | .time message => Sys2Proof.Machine.execTime message s
  | .position message => Sys2Proof.Machine.execPosition message s
  | .packet message => Sys2Proof.Machine.execPacket message s
  | .mailboxSend => Sys2Proof.Machine.execMailboxSend s
  | .trigRestart => Sys2Proof.Machine.execTrigRestart s
  | .fiDelayExpiry l => Sys2Proof.Machine.execFiDelayExpiry l s
  | .fiPermitEnded => Sys2Proof.Machine.execFiPermitEnded s
  | .longOperationComplete => Sys2Proof.Machine.execLongOperationComplete s
  | .ethLinkChange port up speed => Sys2Proof.Machine.execEthLinkChange port up speed s
  | .colLaneUp lane2 => Sys2Proof.Machine.execColLaneUp lane2 s
  | .mvbLineTimeout lineB => Sys2Proof.Machine.execMvbLineTimeout lineB s
  | .ppsInTimeout => Sys2Proof.Machine.execPpsInTimeout s
  | .flashRetentionScan part bits near => Sys2Proof.Machine.execFlashRetentionScan part bits near s
  | .trigRestartDone => Sys2Proof.Machine.execTrigRestartDone s

end Sys2Proof.Machine
end

