-- ==== Sys2Proof/Machine/Leds.lean ====
section
/-! DEFINITION. What the front panel shows (spec/22_electrical_mechanical.md R490, spec/08_modes_and_startup.md R212). The
LEDs are no state of their own: each is a function of the state. -/
namespace Sys2Proof.Machine

/-- A pattern of an LED. -/
inductive Led where
  | off | steady | blink1 | blink4 | shortFlash | longFlash
  /-- CONFIG: 1 Hz blink with the short flash. -/
  | configFlash
  deriving DecidableEq, Repr

/-- PWR: the feeds. -/
def State.ledPwr (s : State) : Led :=
  if !s.sup.powered then .off
  else if s.noFeed then .blink4
  else if s.feedGood false && s.feedGood true then .steady
  else .blink1

/-- RUN: the mode (R212). -/
def State.ledRun (s : State) : Led :=
  match s.mode with
  | .selftest | .safe => .off
  | .recovery | .joining | .update => .blink4
  | .config => .configFlash
  | .stopped => .blink1
  | .run | .degraded | .test | .ridethru => .steady
  | .standby => .longFlash

/-- FLT: SAFE, RECOVERY, and the named bits of FAULT_FLAGS. -/
def State.ledFlt (s : State) : Led :=
  if s.mode = .safe then .steady
  else if s.mode = .recovery then .blink4
  else if [0, 1, 3, 5, 7, 11, 12, 13].any (fun i => s.faultFlags.getD i false) then .blink1
  else .off

/-- LANE: the lanes. -/
def State.ledLane (s : State) : Led :=
  if s.anyRetired then .steady
  else if [Lane.a, Lane.b, Lane.c].any (fun l => s.laneState l != 0) then .blink1
  else .off

/-- PAIR: COL_STAT.STATE. -/
def State.ledPair (s : State) : Led :=
  if s.colState = colUnpaired then .off
  else if s.colState = colSyncStandby then .blink1
  else if s.colState = colAlone then .shortFlash
  else if s.colState = colSeeking ∨ s.colState = colServing ∨ s.colState = colJoining then .blink4
  else .steady

/-- LINK: the enabled ports of E1 to E10, and the Ridge. -/
def State.ledLink (s : State) : Led :=
  let ports := (upTo 10).filter (fun n => s.fld (Reg.ESW_PORTCFG_ENABLE n) == 1)
  let links := ports.map (fun n => s.fld (Reg.ESW_PORTSTAT_LINK n) == 1)
  let links := if s.isManager || s.isWorker then links ++ [s.rdgState == 2 && s.fld Reg.RDG_STAT_RING_CLOSED == 1] else links
  if links.isEmpty then .off else if links.all id then .steady else .blink1

end Sys2Proof.Machine
end

