-- ==== Sys2Proof/WellFormed.lean ====
section
/-! DEFINITION. Well-formed commands: operands within the ranges the spec gives them. A command that is not well-formed
has no place on the hardware; a meaning that meets one leaves the state as it is, or takes the operand as it stands. -/
namespace Sys2Proof

open Machine

/-- A number from 1 to `hi`. -/
def numbered (n hi : Nat) : Bool := decide (1 ≤ n ∧ n ≤ hi)

/-- A descriptor ring (R274). -/
def ringNo (n : Nat) : Bool := decide (n < 32)

/-- A request packet: a transport of R236, an authentication code of 16 bytes exactly where AUTH is set (R233), and at most
4,064 bytes of payload (R232). -/
def Machine.Req.wf (r : Req) : Bool :=
  decide (r.transport < 7 ∧ r.mac.length = (if r.auth then 16 else 0) ∧ r.payload.length ≤ 4064)

/-- A field scan reads every pin of the unit (R378, R382, R389, R324). -/
def Machine.Scan.wf (x : Scan) : Bool :=
  decide (x.pins.length = 64 ∧ x.groups.length = 8 ∧ x.lines.length = 16 ∧ x.encoders.length = 6)

/-- The operands of a command lie in their ranges. -/
def Instr.wf : Instr → Bool
  | .bld _ _ => true
  | .band _ _ => true
  | .bor _ _ => true
  | .bxor _ _ => true
  | .bst _ _ => true
  | .bsr _ _ => true
  | .bedge _ _ => true
  | .push _ _ => true
  | .pop _ => true
  | .pops _ => true
  | .bnot _ => true
  | .bnots _ => true
  | .bone _ => true
  | .bzero _ => true
  | .bany _ => true
  | .ball _ => true
  | .mfba _ _ => true
  | .mtba _ _ => true
  | .mfsm _ _ => true
  | .mtsm _ _ => true
  | .bcnt _ _ => true
  | .bsplat _ => true
  | .wld _ _ => true
  | .wst _ _ => true
  | .slds _ _ => true
  | .ssts _ _ => true
  | .sage _ _ => true
  | .wald _ _ _ => true
  | .wast _ _ _ => true
  | .add _ _ => true
  | .sub _ _ => true
  | .and _ _ => true
  | .or _ _ => true
  | .xor _ _ => true
  | .shl _ _ => true
  | .shr _ _ => true
  | .sar _ _ => true
  | .mul _ _ => true
  | .div _ _ => true
  | .divu _ _ => true
  | .rem _ _ => true
  | .remu _ _ => true
  | .cmp _ _ _ => true
  | .mov _ _ _ => true
  | .mtwa _ _ => true
  | .mfwa _ _ => true
  | .addi _ _ => true
  | .andi _ _ => true
  | .ori _ _ => true
  | .xori _ _ => true
  | .cmpi _ _ _ => true
  | .shi _ _ => true
  | .lui _ _ _ => true
  | .fadd _ _ => true
  | .fsub _ _ => true
  | .fmul _ _ => true
  | .fdiv _ _ => true
  | .fsqrt _ => true
  | .fcmp _ _ => true
  | .fitof _ => true
  | .futof _ => true
  | .fftoi _ => true
  | .fftoir _ => true
  | .ldw _ _ => true
  | .ldh _ _ => true
  | .ldby _ _ => true
  | .ldp _ _ => true
  | .stw _ _ => true
  | .sth _ _ => true
  | .stby _ _ => true
  | .stp _ _ => true
  | .br _ _ _ => true
  | .call _ _ => true
  | .ret _ => true
  | .loop _ _ _ => true
  | .endl _ => true
  | .nop _ => true
  | .endRelease _ => true
  | .clrf _ => true
  | .mff _ _ => true
  | .mtf _ _ => true
  | .illegal _ => true
  | .storeBufferWrite => true
  | .bridgeCompletion => true
  | .bridgeFarError => true
  | .budgetAbort => true
  | .tickBoundary _ _ => true
  | .overrunLimit _ => true
  | .programSwitch => true
  | .switchTimeout => true
  | .t7Start => true
  | .initRoutineTimeout => true
  | .laneReadmission _ _ _ => true
  | .forcedReadmission _ _ _ => true
  | .degleftCountdown => true
  | .ceWriteBack => true
  | .traverseScrubRead => true
  | .programRamScrub => true
  | .nopCmd r => r.wf
  | .ident r => r.wf
  | .resync r => r.wf
  | .snap r => r.wf
  | .timeSet r => r.wf
  | .regRead r => r.wf
  | .regWrite r => r.wf
  | .sessOpen r => r.wf
  | .sessClose r => r.wf
  | .modeReq r => r.wf
  | .cfgOpen r => r.wf
  | .cfgWrite r => r.wf
  | .cfgRead r => r.wf
  | .cfgCommit r _ => r.wf
  | .prgBegin r _ => r.wf
  | .prgBlock r _ => r.wf
  | .prgVerify r _ => r.wf
  | .prgSwitch r _ => r.wf
  | .sigRead r => r.wf
  | .sigForce r => r.wf
  | .sigUnforce r => r.wf
  | .forceList r => r.wf
  | .sfCheckRead r => r.wf
  | .sfConfirm r => r.wf
  | .sfReset r => r.wf
  | .logInfo r => r.wf
  | .logRead r => r.wf
  | .updBegin r => r.wf
  | .updBlock r _ => r.wf
  | .updActivate r _ => r.wf
  | .pairRole r => r.wf
  | .pairSwap r => r.wf
  | .laneRestore r => r.wf
  | .ageReport r => r.wf
  | .marginPlan r => r.wf
  | .marginStep r => r.wf
  | .fiSet r => r.wf
  | .fiClear r => r.wf
  | .fiPermit r => r.wf
  | .empStatus r => r.wf
  | .empRead r => r.wf
  | .empAck r => r.wf
  | .empParam r => r.wf
  | .empSwid r => r.wf
  | .empUpdBegin r => r.wf
  | .empUpdBlock r => r.wf
  | .empUpdActivate r => r.wf
  | .rdgInfo r => r.wf
  | .packetReject transport _ _ _ => decide (transport < 7)
  | .packetForward op r => decide (op < 0x10000) && r.wf
  | .dangerousArmTimeout _ num => decide (1 ≤ num ∧ num ≤ 254)
  | .sessionIdleTimeout _ num => decide (1 ≤ num ∧ num ≤ 254)
  | .authLockExpiry _ _ => true
  | .cmdDoorbell _ _ => true
  | .sysSnap _ _ => true
  | .sysSafereq _ _ _ => true
  | .sfStopreq _ _ _ => true
  | .rngPost _ n _ => ringNo n
  | .resume _ n => ringNo n
  | .skip _ n => ringNo n
  | .rdgIrq _ _ => true
  | .canRecover _ c => numbered c 8
  | .ceTickloRead => true
  | .encPpsinloRead => true
  | .ringEnableWrite _ n _ => ringNo n
  | .brgEnableWrite _ n _ => numbered n 63
  | .fchEnableWrite _ n _ => numbered n 64
  | .rdgEnableWrite _ _ => true
  | .compatWrite _ pg _ => compatPage pg
  | .registerWrite _ pg off _ => decide (pg < 0x1000 ∧ off < 0x1000 ∧ off % 4 = 0)
  | .shutdownComplete _ => true
  | .powerUp _ _ => true
  | .selftestEnd _ => true
  | .autostart _ => true
  | .startLoopGuardClear => true
  | .resetPress _ _ => true
  | .resetStuck => true
  | .resetArm => true
  | .updRestart _ => true
  | .supervisorLockstepMismatch => true
  | .feedGood _ => true
  | .feedLost _ => true
  | .feedDip _ => true
  | .feedStress _ => true
  | .feedSurge _ => true
  | .feedOvervoltage _ => true
  | .feedReconnect _ => true
  | .stopLevel => true
  | .converterStop => true
  | .holdupCharged => true
  | .holdupTest _ => true
  | .clockFault _ => true
  | .ageingSample _ _ => true
  | .thermalSample _ => true
  | .marginPlanUpdate => true
  | .fieldScan scan => scan.wf
  | .outputOverload ch => numbered ch 64
  | .outputThermal ch => numbered ch 64
  | .groupOverload g _ => numbered g 8
  | .channelDiagnostic ch => numbered ch 64
  | .lpLow g => numbered g 8
  | .fieldGroupMissing g => numbered g 8
  | .fieldGroupPresent g => numbered g 8
  | .ss1TimeMax i => numbered i 4
  | .siDiscrepancyFault i => numbered i 16
  | .speedDiscrepancyFault i => numbered i 4
  | .soFault k => numbered k 8
  | .soOffPulseTest k _ => numbered k 8
  | .resetPairStuck i => numbered i 4
  | .sfCheckRecompute => true
  | .cfgReload => true
  | .ringDescriptorProcess n k => ringNo n && decide (k < 65536)
  | .ringInFrame n f => ringNo n && decide (f.data.length ≤ 65535)
  | .ringOverload n => ringNo n
  | .ethFrameReceive port _ _ => numbered port 11
  | .nodeTableExpiry => true
  | .supervisionFrame => true
  | .pdReceive _ => true
  | .pdTimeout => true
  | .mdReceive _ => true
  | .mdReplyTimeout _ => true
  | .rawEthernetReceive _ _ => true
  | .ttdpHello _ => true
  | .ttdpNeighbourLost => true
  | .etbInauguration _ _ _ => true
  | .ptpMessage _ => true
  | .ptpLockLost => true
  | .ppsInEdge into => decide (into < 250000)
  | .wholeSecond => true
  | .mvbMasterFrame _ _ _ _ => true
  | .mvbSinkTimeout => true
  | .wtbPeriod => true
  | .wtbNodeFrame _ _ => true
  | .wtbInauguration t => decide (t.own < 128)
  | .wtbSinkTimeout => true
  | .canFrameReceive c f _ => numbered c 8 && decide (f.data.length ≤ 64)
  | .canFrameSent c => numbered c 8
  | .canBusOff c => numbered c 8
  | .canAutoRecover c => numbered c 8
  | .serialFrameReceive c _ => numbered c 12
  | .serialFrameSent c => numbered c 12
  | .cycle _ => true
  | .slot _ _ => true
  | .discover _ => true
  | .ridgeLinkChange _ _ => true
  | .noManager => true
  | .stationLost => true
  | .ridgeCrcError _ _ => true
  | .posted _ => true
  | .request _ => true
  | .requestService => true
  | .completion c => c.words.all (fun w => decide (w < 8))
  | .retryBackoff n => numbered n 63
  | .cplTimeout => true
  | .tunnel _ => true
  | .irq _ => true
  | .msg _ => true
  | .ack _ => true
  | .ackDelay n => decide (n < 64)
  | .streamRetransmit n => decide (n < 64)
  | .hello _ => true
  | .partnerSeekTimeout => true
  | .joinReq _ _ => true
  | .joinAck _ _ => true
  | .page _ => true
  | .joinCopyRound => true
  | .finalDelta => true
  | .cut _ => true
  | .joinTimeout => true
  | .abort _ => true
  | .group _ => true
  | .mark _ => true
  | .streamGap => true
  | .beat _ => true
  | .leave _ => true
  | .colSignalLoss => true
  | .colLaneDown _ => true
  | .partnerSilenceTimeout => true
  | .swapTick => true
  | .cairnRecordIntake => true
  | .logSourceDrop => true
  | .flashRefresh part _ => decide (part < 7)
  | .metrologySample _ _ _ _ _ _ => true
  | .energyWindowEnd => true
  | .supplySystemClassify => true
  | .periodEnd => true
  | .sealOpened => true
  | .sealClosed => true
  | .time message => decide (message.length ≤ 4096)
  | .position message => decide (message.length ≤ 4096)
  | .packet message => decide (message.length ≤ 4096)
  | .mailboxSend => true
  | .trigRestart => true
  | .fiDelayExpiry _ => true
  | .fiPermitEnded => true
  | .longOperationComplete => true
  | .ethLinkChange port _ _ => numbered port 11
  | .colLaneUp _ => true
  | .mvbLineTimeout _ => true
  | .ppsInTimeout => true
  | .flashRetentionScan part _ _ => decide (part < 7)
  | .trigRestartDone => true

end Sys2Proof
end

