-- ==== Sys2Proof/Safety.lean ====
section
/-! DEFINITION. What claims are stated in: the canonical form of the memories and registers, and what makes a state safe
towards the plant (spec/08_modes_and_startup.md R213, R225). -/
namespace Sys2Proof.Machine

/-- The list of an array is in canonical form: addresses rise strictly, and no entry holds what an unlisted address holds.
What an unlisted word of the Protected Store holds is not known (R201), so there only the order is asked. -/
def Mem.wfArr (m : Mem) (a : Arr) : Bool :=
  match a with
  | .ps => sorted m.ps
  | _ => canonical (m.unlisted a) (m.list a)

/-- Every array is in canonical form. -/
def Mem.wf (m : Mem) : Bool := [Arr.ps, .rs, .prg, .img, .live, .com].all m.wfArr

/-- The register fields are in canonical form. -/
def State.regsWf (s : State) : Bool := canonical resetOf s.regs

/-- No field output is switched on (R213, R225). -/
def State.fieldOff (s : State) : Bool := (upTo 64).all (fun n => s.fld (Reg.FCH_STAT_DRIVE n) == 0)

/-- Safe towards the plant: in a mode that holds the outputs off, no field output is on. -/
def State.plantSafe (s : State) : Bool := !s.mode.outputsOff || s.fieldOff

/-! ### Flags by their bits (R130) -/

/-- Z and N from a result. -/
def Flags.byResult (f : Flags) (r : Word) : Flags := ⟨decide (r = 0), r.getLsbD 31, f.c, f.v, f.ov, f.fe⟩

/-- C as given, and V with sticky OV: the exact signed result `x` lies outside 32 bits. -/
def Flags.byExact (f : Flags) (cy : Bool) (x : Int) : Flags :=
  let o := decide (x < -2147483648 ∨ 2147483647 < x)
  ⟨f.z, f.n, cy, o, f.ov || o, f.fe⟩

/-- The registers after an instruction: PC at the next one. -/
def Ctx.step (c : Ctx) (f : Flags) : Ctx := { c with flags := f, pc := c.pc + 1 }

/-! ### One instruction of the triad (R94, R118, R176) -/

/-- The state once the word of an instruction with the records `k` has been fetched and the Saddle has voted on them, and
whether the instruction goes on. -/
def State.issueAt (s : State) (v : Vote) (k : Ctx → Recs) (c : Ctx) : State × Bool :=
  ((s.readWord .prg (fetchWord s.slotNo c.pc) .fetch).1.voteStall (v.on (k c)) (k c).load).voteGate (v.on (k c)) c.pc

/-- Release `w` with registers `c` issues an instruction with the records `k`: its word has no uncorrectable error, and the
verdict `v` lets it go on. -/
abbrev State.issues (s : State) (v : Vote) (k : Ctx → Recs) (w : Who) (c : Ctx) : Prop :=
  s.issuer = some w ∧ (s.ce.task w).ctx = c ∧
    ((s.mem.code .prg (fetchWord s.slotNo c.pc)).cls (fetchWord s.slotNo c.pc)).ok = true ∧ (s.issueAt v k c).2 = true

/-- An instruction retires: release `w` has registers `c` and `n` more clocks, and nothing else changes. -/
def State.withRegs (s : State) (w : Who) (n : Nat) (c : Ctx) : State :=
  { s with ce.tasks := s.ce.tasks.set w { s.ce.task w with ctx := c, clocks := (s.ce.task w).clocks + n } }

/-- A bit of Image RAM as a read delivers it. -/
def State.imgBit (s : State) (loc : Nat × Nat) : Bool := (corrected loc.1 (s.mem.code .img loc.1)).getLsbD loc.2

/-- `n` bits of Image RAM from `loc` on. -/
def State.imgField (s : State) (loc : Nat × Nat) (n : Nat) : Nat := get64 (corrected loc.1 (s.mem.code .img loc.1)) loc.2 n

/-- The words of Image RAM `ws` can be read for a signal instruction of `w`: no store to them waits, and none has an
uncorrectable error (R141, R199). -/
abbrev State.imgReadable (s : State) (w : Who) (ws : List Nat) : Prop :=
  s.bufferedImg ws = false ∧ s.ce.cur = some w ∧ ∀ x ∈ ws, ((s.mem.code .img x).cls x).ok = true

/-- The state after the words of Image RAM `ws` have been read. -/
def State.imgRead (s : State) (ws : List Nat) : State := (s.readMany .img .load ws).1

/-- The words of a patch can be written by a signal instruction of `w`: no store to them waits, and Image RAM refuses none
(R141, R200). -/
abbrev State.imgWritable (s : State) (w : Who) (p : Patch) : Prop :=
  s.bufferedImg (p.map (·.1)) = false ∧ s.ce.cur = some w ∧ (s.writeImg p).2 = false

/-- The state after a patch has been written into Image RAM. -/
def State.imgWrite (s : State) (p : Patch) : State := (s.writeImg p).1

/-- A release takes a trap after `n` clocks: nothing else of the instruction happens (R120). -/
def State.traps (s : State) (w : Who) (c : Ctx) (t : TrapCode) (n : Nat) : State := ((s.addClocks w n).trap w t c.pc).dispatch

/-! ### Requests (R238) -/

/-- The state once the packet of a request has come in, and that it is there to be served (R236, R239, R31). -/
def State.received (s : State) (op : Nat) (r : Req) : State := (s.arrival r.transport r.source r.forwarded (r.packet op)).1
abbrev State.receives (s : State) (op : Nat) (r : Req) : Prop :=
  s.deaf r.transport r.forwarded = false ∧ (s.arrival r.transport r.source r.forwarded (r.packet op)).2 = .here

/-- A request is received here and passes every check of R238: `u` is the state in which its command acts, `role` the role it
comes with, and `armed` what its session has armed. `c` is its row of the opcode table (R249). -/
abbrev State.acts (s : State) (c : CmdSpec) (r : Req) (u : State) (role : Option Role) (armed : Option Armed) : Prop :=
  s.receives c.op r ∧ r.payload.length ≤ 4064 ∧ (r.forwarded = true ∨ r.target = 0) ∧
    (s.received c.op r).gate c.op r = .pass u role armed ∧ c.roles.allow role = true ∧
    c.len r.payload.length = none ∧ c.modes u.mode = true ∧ (c.long = true → u.cmd.longOp = none)

/-- The state once the message of a request has passed the mailbox to Trig. -/
def State.atTrig (s : State) (op : Nat) (r : Req) : State := (s.received op r).toTrig 0x03 (r.packet op)

/-- A request for Trig gets through the mailbox, and Trig lets it act on `u` (R423, R426). -/
abbrev State.actsAtTrig (s : State) (op : Nat) (roles : Roles) (len : Nat → Option Nat) (r : Req) (u : State)
    (armed : Option Armed) : Prop :=
  s.receives op r ∧ r.payload.length ≤ 4064 ∧ r.forwarded = false ∧ r.target = 1 ∧ (s.received op r).mode ≠ .selftest ∧
    (s.received op r).mode ≠ .recovery ∧ (s.atTrig op r).trig.running = true ∧ len r.payload.length = none ∧
    ∃ role, (s.atTrig op r).gate op r = .pass u role armed ∧ roles.allow role = true

/-- Step 1 of a dangerous command: it repeats what its session has armed, within 10 s (R248). -/
abbrev State.confirms (s : State) (op : Nat) (r : Req) (armed : Option Armed) : Prop :=
  r.session ≠ 0 ∧ ∃ a, armed = some a ∧ a.opcode = op ∧ a.params = (r.payload.drop 4).take 1 ∧ r.nat 0 2 = 1 ∧
    r.nat 2 2 = a.nonce ^^^ 0xFFFF ∧ s.opNs ≤ a.at_ + 10000000000

end Sys2Proof.Machine
end

