-- ==== Sys2Proof/Certificates/Slice0/Obligations.lean ====
section
/-! DEFINITION. The statements. -/
open Sys2Proof Sys2Proof.Machine

/-! ### The machine as a whole -/

/-- The command at the front of the queue is what a step runs, on the state with the rest of the queue.
Where the spec is silent it rests on the model's choices in the assumption log, entry 1. -/
def Obligations.StepRunsFront : Prop :=
  ∀ (s : State) (i : Instr) (rest : List Instr), s.pending = i :: rest → step s = exec i { s with pending := rest }

/-- No command ends the machine: every command is answered with a next state, in every state.
Where the spec is silent it rests on the model's choices in the assumption log, entry 5. -/
def Obligations.EveryCommandAnswers : Prop := ∀ (i : Instr) (s : State), ∃ t, exec i s = .next t

/-- The memory's canonical form, which makes equal memories equal data (the model's own form), is kept by every step.
Where the spec is silent it rests on the model's choices in the assumption log, entry 10. -/
def Obligations.StepKeepsMemoryCanonical : Prop :=
  ∀ s t : State, s.mem.wf = true → step s = .next t → t.mem.wf = true

/-! ### Cycle Code: words -/

/-- The word of a Cycle Code instruction decodes to that instruction, every operand at every value (R100, R102). -/
def Obligations.DecodeEncode : Prop := ∀ (i : Instr) (w : Word), encodeCc i = some w → ∃ v, decodeCc v w = i

/-- A word that does not raise ILLEGAL at once is the word of the instruction it decodes to: no bit of it is dropped, and
every reserved field is zero (R100, R101). -/
def Obligations.EncodeDecode : Prop := ∀ (v : Vote) (w : Word), decodeCc v w ≠ .illegal v → encodeCc (decodeCc v w) = some w

/-- The words of the spec's worked encodings decode as listed (R157, R158, R160). -/
def Obligations.WorkedWords : Prop :=
  ∀ v : Vote,
    decodeCc v 0x7C448D15 = .lui v 1 0x048D15 ∧ decodeCc v 0x6C440278 = .ori v ⟨1, 1, 0x278⟩ ∧
    decodeCc v 0x74040064 = .cmpi v 1 100 ∧ decodeCc v 0xB0FFFFFB = .br v 3 (-5) ∧ decodeCc v 0xB4000100 = .call v 0x100 ∧
    decodeCc v 0xC0000002 = .endRelease v ∧ decodeCc v 0x54018004 = .wald v 0 0x18004 ∧ decodeCc v 0x80000008 = .fitof v ∧
    decodeCc v 0x80100002 = .fmul v 4 ∧ decodeCc v 0x58038004 = .wast v 0 0x38004 ∧ decodeCc v 0 = .illegal v

/-! ### Cycle Code: results

`s.issues v k w c` says that release `w` with registers `c` issues an instruction with the records `k` under verdict `v`;
`(s.issueAt v k c).1` is
the state once its word has been fetched and voted on; `withRegs w n c'` changes the registers of `w` to `c'`, adds `n`
clocks, and changes nothing else. -/

/-- ADD, SUB, CMP, MUL, ADDI and CMPI: result, flags and clocks, and nothing else changes (R145, R146).
AND, OR, XOR, ANDI, ORI, XORI, LUI, MOV, MTWA and MFWA (R145, R146).
The rules named are where the clauses come from; the statement says parts of them. -/
def Obligations.ArithmeticAndLogic : Prop :=
  (∀ (s : State) (v : Vote) (w : Who) (c : Ctx) (k : Ctx → Recs), s.issues v k w c → c.pc < 0x1FFFFF →
     let t := (s.issueAt v k c).1
     let sum := fun (a b : Word) =>
       (c.flags.byExact (decide (2 ^ 32 ≤ a.toNat + b.toNat)) (a.toInt + b.toInt)).byResult (a + b)
     let diff := fun (a b : Word) => (c.flags.byExact (decide (b.toNat ≤ a.toNat)) (a.toInt - b.toInt)).byResult (a - b)
     let prod := fun (a b : Word) => (c.flags.byExact c.flags.c (a.toInt * b.toInt)).byResult (a * b)
     (k = recRegFlags → ∀ o : RegOp,
       let a := c.get o.ra
       let b := c.get o.rb
       exec (.add v o) s = .next (t.withRegs w 1 ((c.set o.rd (a + b)).step (sum a b))) ∧
       exec (.sub v o) s = .next (t.withRegs w 1 ((c.set o.rd (a - b)).step (diff a b))) ∧
       exec (.mul v o) s = .next (t.withRegs w 2 ((c.set o.rd (a * b)).step (prod a b)))) ∧
     (k = recFlags → ∀ x y : BitVec 4, exec (.cmp v x y) s = .next (t.withRegs w 1 (c.step (diff (c.get x) (c.get y))))) ∧
     (k = recRegFlags → ∀ o : ImmOp,
       let a := c.get o.ra
       let b := o.imm.signExtend 32
       exec (.addi v o) s = .next (t.withRegs w 1 ((c.set o.rd (a + b)).step (sum a b)))) ∧
     (k = recFlags → ∀ (x : BitVec 4) (i : BitVec 18),
       exec (.cmpi v x i) s = .next (t.withRegs w 1 (c.step (diff (c.get x) (i.signExtend 32)))))) ∧
  (∀ (s : State) (v : Vote) (w : Who) (c : Ctx) (k : Ctx → Recs), s.issues v k w c → c.pc < 0x1FFFFF →
     let t := (s.issueAt v k c).1
     let gives := fun (d : BitVec 4) (r : Word) => Host.Outcome.next (t.withRegs w 1 ((c.set d r).step (c.flags.byResult r)))
     (k = recRegFlags → ∀ o : RegOp,
       exec (.and v o) s = gives o.rd (c.get o.ra &&& c.get o.rb) ∧ exec (.or v o) s = gives o.rd (c.get o.ra ||| c.get o.rb) ∧
       exec (.xor v o) s = gives o.rd (c.get o.ra ^^^ c.get o.rb)) ∧
     (k = recRegFlags → ∀ o : ImmOp,
       exec (.andi v o) s = gives o.rd (c.get o.ra &&& o.imm.zeroExtend 32) ∧
       exec (.ori v o) s = gives o.rd (c.get o.ra ||| o.imm.zeroExtend 32) ∧
       exec (.xori v o) s = gives o.rd (c.get o.ra ^^^ o.imm.zeroExtend 32)) ∧
     (k = recReg → ∀ (d : BitVec 4) (i : BitVec 22),
       exec (.lui v d i) s = .next (t.withRegs w 1 ((c.set d (i.zeroExtend 32 <<< 10)).step c.flags))) ∧
     (k = recReg → ∀ d a : BitVec 4, exec (.mov v d a) s = .next (t.withRegs w 1 ((c.set d (c.get a)).step c.flags))) ∧
     (k = recReg → ∀ a : BitVec 4, exec (.mtwa v a) s = .next (t.withRegs w 1 ({ c with wa := c.get a }.step c.flags))) ∧
     (k = recReg → ∀ d : BitVec 4, exec (.mfwa v d) s = .next (t.withRegs w 1 ((c.set d c.wa).step c.flags))))

/-- SHL, SHR, SAR and SHI: the count is taken modulo 32, C is the last bit shifted out where the count is not zero, and SHI
with a reserved operation raises ILLEGAL (R145, R146).
DIV, DIVU, REM and REMU: truncated quotient, remainder of the dividend's sign, V only where the most negative number is
divided by -1, and DIV_ZERO for a zero divisor (R145).
The rules named are where the clauses come from; the statement says parts of them. -/
def Obligations.ShiftsAndDivision : Prop :=
  (∀ (s : State) (v : Vote) (w : Who) (c : Ctx), s.issues v recRegFlags w c → c.pc < 0x1FFFFF →
     let t := (s.issueAt v recRegFlags c).1
     let gives := fun (d : BitVec 4) (n : Nat) (out : Bool) (r : Word) =>
       Host.Outcome.next (t.withRegs w 1 ((c.set d r).step ({ c.flags with c := if n = 0 then c.flags.c else out }.byResult r)))
     let left := fun (d : BitVec 4) (a : Word) (n : Nat) => gives d n (a.getLsbD (32 - n)) (a <<< n)
     let right := fun (d : BitVec 4) (a : Word) (n : Nat) => gives d n (a.getLsbD (n - 1)) (a >>> n)
     let arith := fun (d : BitVec 4) (a : Word) (n : Nat) => gives d n (a.getLsbD (n - 1)) (a.sshiftRight n)
     (∀ o : RegOp,
       let n := (c.get o.rb).toNat % 32
       exec (.shl v o) s = left o.rd (c.get o.ra) n ∧ exec (.shr v o) s = right o.rd (c.get o.ra) n ∧
       exec (.sar v o) s = arith o.rd (c.get o.ra) n) ∧
     (∀ o : ImmOp,
       let n := o.imm.toNat % 32
       exec (.shi v o) s =
         match o.imm.toNat / 32 with
         | 0 => left o.rd (c.get o.ra) n
         | 1 => right o.rd (c.get o.ra) n
         | 2 => arith o.rd (c.get o.ra) n
         | _ => .next (t.traps w c .illegal 1))) ∧
  (∀ (s : State) (v : Vote) (w : Who) (c : Ctx) (o : RegOp), s.issues v recRegFlags w c → c.pc < 0x1FFFFF →
     let t := (s.issueAt v recRegFlags c).1
     let a := c.get o.ra
     let b := c.get o.rb
     let wraps := decide (a = 0x80000000 ∧ b = 0xFFFFFFFF)
     let gives := fun (x : Bool) (r : Word) => Host.Outcome.next (t.withRegs w 18 ((c.set o.rd r).step
       ({ c.flags with v := x, ov := c.flags.ov || x }.byResult r)))
     (b = 0 →
       exec (.div v o) s = .next (t.traps w c .divZero 18) ∧ exec (.divu v o) s = .next (t.traps w c .divZero 18) ∧
       exec (.rem v o) s = .next (t.traps w c .divZero 18) ∧ exec (.remu v o) s = .next (t.traps w c .divZero 18)) ∧
     (b ≠ 0 →
       exec (.div v o) s = gives wraps (if wraps then 0x80000000 else BitVec.ofInt 32 (a.toInt.tdiv b.toInt)) ∧
       exec (.rem v o) s = gives wraps (if wraps then 0 else BitVec.ofInt 32 (a.toInt.tmod b.toInt)) ∧
       exec (.divu v o) s = gives false (BitVec.ofNat 32 (a.toNat / b.toNat)) ∧
       exec (.remu v o) s = gives false (BitVec.ofNat 32 (a.toNat % b.toNat))))

/-- The binary32 instructions: WA, flags by code F or by the integer result, FCMP's table, and clocks (R147, R151, R152). -/
def Obligations.Binary32 : Prop :=
  ∀ (s : State) (v : Vote) (w : Who) (c : Ctx) (k : Ctx → Recs) (ra : BitVec 4), s.issues v k w c → c.pc < 0x1FFFFF →
    let t := (s.issueAt v k c).1
    let g := c.get ra
    let nan := fun (r : Word) => fpIsNaN r
    let gives := fun (n : Nat) (r : FpRes) => Host.Outcome.next (t.withRegs w n ({ c with wa := r.1 }.step
      { c.flags with z := !nan r.1 && (r.1 == 0 || r.1 == 0x80000000), n := !nan r.1 && r.1.getLsbD 31,
                     fe := c.flags.fe || r.2 }))
    let int := fun (r : FpRes) => Host.Outcome.next (t.withRegs w 3 ({ c with wa := r.1 }.step
      { c.flags.byResult r.1 with fe := c.flags.fe || r.2 }))
    (k = recRegFlags →
    exec (.fadd v ra) s = gives 3 (fpAdd c.wa g) ∧ exec (.fsub v ra) s = gives 3 (fpSub c.wa g) ∧
    exec (.fmul v ra) s = gives 3 (fpMul c.wa g) ∧ exec (.fdiv v ra) s = gives 16 (fpDiv c.wa g) ∧
    exec (.fsqrt v) s = gives 20 (fpSqrt c.wa) ∧ exec (.fitof v) s = gives 3 (fpOfInt c.wa.toInt, false) ∧
    exec (.futof v) s = gives 3 (fpOfInt c.wa.toNat, false) ∧ exec (.fftoi v) s = int (fpToInt false c.wa) ∧
    exec (.fftoir v) s = int (fpToInt true c.wa)) ∧
    (k = recFlags → exec (.fcmp v ra) s = .next (t.withRegs w 1 (c.step
      (match fpCompare c.wa g with
        | .eq => { c.flags with z := true, n := false, c := true, v := false }
        | .lt => { c.flags with z := false, n := true, c := false, v := false }
        | .gt => { c.flags with z := false, n := false, c := true, v := false }
        | .unordered sn => ⟨false, false, false, true, true, c.flags.fe || sn⟩))))

/-- The accumulator and stack instructions: BA, SM, NS and registers, with NEST_OVERFLOW and the reserved combine codes
(R136, R137, R138). -/
def Obligations.AccumulatorAndStack : Prop :=
  ∀ (s : State) (v : Vote) (w : Who) (c : Ctx), s.issues v recReg w c → c.pc < 0x1FFFFF →
    let t := (s.issueAt v recReg c).1
    let gives := fun (x : Ctx) => Host.Outcome.next (t.withRegs w 1 (x.step c.flags))
    let ba := fun (x : Word) => gives { c with ba := x }
    (∀ code : BitVec 4, exec (.push v code) s =
      match combineOf code.toNat with
      | none => .next (t.traps w c .illegal 1)
      | some k => if 16 ≤ c.ns.length then .next (t.traps w c .nestOverflow 1) else gives { c with ns := (c.ba, k) :: c.ns }) ∧
    (c.ns = [] → exec (.pop v) s = .next (t.traps w c .nestOverflow 1) ∧ exec (.pops v) s = .next (t.traps w c .nestOverflow 1)) ∧
    (∀ x k r, c.ns = (x, k) :: r →
      exec (.pop v) s = gives { c with ns := r, ba := k.apply x c.ba &&& 1 } ∧
      exec (.pops v) s = gives { c with ns := r, ba := (c.ba &&& ~~~ c.sm) ||| (k.apply x c.ba &&& c.sm) }) ∧
    exec (.bnot v) s = ba (~~~ c.ba &&& 1) ∧ exec (.bnots v) s = ba (c.ba ^^^ c.sm) ∧ exec (.bone v) s = ba 1 ∧
    exec (.bzero v) s = ba 0 ∧ exec (.bany v) s = ba (if c.ba &&& c.sm = 0 then 0 else 1) ∧
    exec (.ball v) s = ba (if c.ba &&& c.sm = c.sm then 1 else 0) ∧
    (∀ d : BitVec 4, exec (.mfba v d) s = gives (c.set d c.ba) ∧ exec (.mfsm v d) s = gives (c.set d c.sm) ∧
      exec (.bcnt v d) s = gives (c.set d (BitVec.ofNat 32 ((List.range 32).countP (fun i => (c.ba &&& c.sm).getLsbD i))))) ∧
    (∀ a : BitVec 4, exec (.mtba v a) s = ba (c.get a) ∧ exec (.mtsm v a) s = gives { c with sm := c.get a }) ∧
    (∃ x, exec (.bsplat v) s = ba x ∧
      ∀ i < 32, x.getLsbD i = if i ≠ 0 ∧ c.sm.getLsbD i then c.ba.getLsbD 0 else c.ba.getLsbD i)

/-- BR, CALL, RET, LOOP, ENDL (R113, R114, R157, R158, R159): where the PC goes, what is pushed and removed, the clocks,
and the traps.
The rules named are where the clauses come from; the statement says parts of them. -/
def Obligations.ControlFlow : Prop :=
  ∀ (s : State) (v : Vote) (w : Who) (c : Ctx) (k : Ctx → Recs), s.issues v k w c → c.pc < 0x1FFFFF →
    let t := (s.issueAt v k c).1
    let trap := fun (x : TrapCode) (n : Nat) => Host.Outcome.next (t.traps w c x n)
    let inside := fun (x : Int) => 0 ≤ x ∧ x ≤ 0x1FFFFF
    (k = recNone → ∀ (cond : BitVec 4) (off : BitVec 22),
      let x := (c.pc : Int) + off.toInt
      (condTaken cond c.flags c.ba = false → exec (.br v cond off) s = .next (t.withRegs w 1 (c.step c.flags))) ∧
      (condTaken cond c.flags c.ba = true → inside x →
        exec (.br v cond off) s = .next (t.withRegs w 2 { c with pc := x.toNat })) ∧
      (condTaken cond c.flags c.ba = true → ¬ inside x → exec (.br v cond off) s = trap .bus 2)) ∧
    (k = recReg → ∀ off : BitVec 26,
      let x := (c.pc : Int) + off.toInt
      (¬ inside x → exec (.call v off) s = trap .bus 2) ∧
      (inside x → 32 ≤ c.cs.length → exec (.call v off) s = trap .callOverflow 2) ∧
      (inside x → c.cs.length < 32 →
        exec (.call v off) s = .next (t.withRegs w 2 { c with cs := .call (c.pc + 1) :: c.cs, pc := x.toNat }))) ∧
    (k = recReg → c.cs = [] → exec (.ret v) s = trap .callOverflow 2 ∧ exec (.endl v) s = trap .illegal 1) ∧
    (k = recReg → ∀ r q, c.cs = .call r :: q → r < 0x200000 →
      exec (.ret v) s = .next (t.withRegs w 2 { c with cs := q, pc := r }) ∧ exec (.endl v) s = trap .illegal 1) ∧
    (k = recReg → ∀ i n q, c.cs = .loop i n :: q → exec (.ret v) s = trap .illegal 2 ∧
      (1 < n → i < 0x200000 → exec (.endl v) s = .next (t.withRegs w 2 { c with cs := .loop i (n - 1) :: q, pc := i })) ∧
      (n ≤ 1 → exec (.endl v) s = .next (t.withRegs w 1 ({ c with cs := q }.step c.flags)))) ∧
    (k = recReg → ∀ (rc : BitVec 4) (bound : BitVec 16),
      let n := (c.get rc).toNat
      let bad := n = 0 ∨ bound.toNat < n
      (bad → exec (.loop v rc bound) s = trap .bound 1) ∧
      (¬ bad → 32 ≤ c.cs.length → exec (.loop v rc bound) s = trap .callOverflow 1) ∧
      (¬ bad → c.cs.length < 32 →
        exec (.loop v rc bound) s = .next (t.withRegs w 1 ({ c with cs := .loop (c.pc + 1) n :: c.cs }.step c.flags))))

/-- NOP, CLRF, MFF, MTF, and ILLEGAL, whose effect is the trap (R101, R160, R161).
An instruction at the last index of a slot takes its effect and then the BUS trap of the missing next one (R113). -/
def Obligations.SystemAndLastIndex : Prop :=
  (∀ (s : State) (v : Vote) (w : Who) (c : Ctx) (k : Ctx → Recs), s.issues v k w c →
     let t := (s.issueAt v k c).1
     let f := c.flags
     (k = recNone → exec (.illegal v) s = .next (t.traps w c .illegal 1)) ∧
     (c.pc < 0x1FFFFF →
       (k = recNone → exec (.nop v) s = .next (t.withRegs w 1 (c.step f))) ∧
       (k = recFlags → exec (.clrf v) s = .next (t.withRegs w 1 (c.step { f with ov := false, fe := false }))) ∧
       (k = recReg → ∀ d : BitVec 4, exec (.mff v d) s = .next (t.withRegs w 1 ((c.set d
         ((BitVec.ofBool f.fe ++ BitVec.ofBool f.ov ++ BitVec.ofBool f.v ++ BitVec.ofBool f.c ++ BitVec.ofBool f.n ++
           BitVec.ofBool f.z : BitVec 6).zeroExtend 32)).step f))) ∧
       (k = recFlags → ∀ a : BitVec 4,
         let x := c.get a
         exec (.mtf v a) s = .next (t.withRegs w 1 (c.step ⟨x.getLsbD 0, x.getLsbD 1, x.getLsbD 2, x.getLsbD 3,
           f.ov || x.getLsbD 4 || x.getLsbD 3, f.fe || x.getLsbD 5⟩))))) ∧
  (∀ (s : State) (v : Vote) (w : Who) (c : Ctx) (d a : BitVec 4), s.issues v recReg w c → c.pc = 0x1FFFFF →
     exec (.mov v d a) s =
       .next ((((s.issueAt v recReg c).1.withRegs w 1 ((c.set d (c.get a)).step c.flags)).trap w .bus c.pc).dispatch))

/-! ### Signal instructions -/

/-- BLD, BAND, BOR and BXOR (R97, R103, R132): with NEG the operand is inverted; a plain form leaves a single bit in BA, a
sliced form changes the bits that SM selects.
WLD, WALD and SLDS read the word plane and the status plane; SAGE reads the age at the task's latch inside the declared
input ranges and 0xFFFF outside (R105, R139, R140). Flags do not change.
The rules named are where the clauses come from; the statement says parts of them.
Where the spec is silent it rests on the model's choices in the assumption log, entry 22. -/
def Obligations.SignalReads : Prop :=
  (∀ (s : State) (v : Vote) (w : Who) (c : Ctx) (o : SbOp), s.issues v recReg w c → c.pc < 0x1FFFFF →
     let t := (s.issueAt v recReg c).1
     let id := effId c o.ix o.sid
     let loc := fun (i : Nat) => if o.sub = 0 then bitLoc (id + i) else statLoc (id + i)
     let ws := if o.sub = 0 then [(bitLoc id).1] else if o.sl then statWords id else [(statLoc id).1]
     w.val < 7 → o.sub.toNat ≤ 1 → id ≤ 0x3FFFF → (o.sl = true → id % 32 = 0 ∧ id / 32 ∉ t.ce.sliceMap) → t.imgReadable w ws →
     ∀ p ∈ ([(.bld v o, fun _ x => x), (.band v o, fun b x => b && x), (.bor v o, fun b x => b || x),
         (.bxor v o, fun b x => b != x)] : List (Instr × (Bool → Bool → Bool))),
       ∃ r : Word, exec p.1 s = .next ((t.imgRead ws).withRegs w 1 ({ c with ba := r }.step c.flags)) ∧
         ∀ i < 32, r.getLsbD i =
           (if o.sl then (if c.sm.getLsbD i then p.2 (c.ba.getLsbD i) (t.imgBit (loc i) != o.neg) else c.ba.getLsbD i)
            else decide (i = 0) && p.2 (c.ba.getLsbD 0) (t.imgBit (loc 0) != o.neg))) ∧
  (∀ (s : State) (v : Vote) (w : Who) (c : Ctx) (ix : BitVec 4) (sid : BitVec 18) (rt : BitVec 4), s.issues v recReg w c →
     c.pc < 0x1FFFFF → w.val < 7 →
     let t := (s.issueAt v recReg c).1
     let id := effId c ix sid
     id ≤ 0x3FFFF →
     (t.imgReadable w [(wordLoc id).1] →
       let x := BitVec.ofNat 32 (t.imgField (wordLoc id) 32)
       exec (.wld v ⟨rt, ix, sid⟩) s = .next ((t.imgRead [(wordLoc id).1]).withRegs w 1 ((c.set rt x).step c.flags)) ∧
       exec (.wald v ix sid) s = .next ((t.imgRead [(wordLoc id).1]).withRegs w 1 ({ c with wa := x }.step c.flags))) ∧
     (t.imgReadable w [(statLoc id).1] →
       exec (.slds v ⟨rt, ix, sid⟩) s = .next ((t.imgRead [(statLoc id).1]).withRegs w 1
         ((c.set rt (BitVec.ofNat 32 (t.imgField (statLoc id) 8))).step c.flags))) ∧
     exec (.sage v ⟨rt, ix, sid⟩) s = .next (t.withRegs w 1 ((c.set rt (BitVec.ofNat 32
       (if inRanges (t.program.task w.val).inputs id then sgetD 0xFFFF t.img.latchAge id else 0xFFFF))).step c.flags)))

/-- WST, WAST, SSTS, BST and BSR: the word, the status byte or the bit that each puts into Image RAM, with VALID set by a
write of the signal's value; a sliced form writes the signals that SM selects; a BSR whose condition does not hold leaves its
signal alone (R106, R133, R134, R139, R140). The registers do not change.
The rules named are where the clauses come from; the statement says parts of them.
Where the spec is silent it rests on the model's choices in the assumption log, entries 21 and 22. -/
def Obligations.SignalWrites : Prop :=
  ∀ (s : State) (v : Vote) (w : Who) (c : Ctx) (ix : BitVec 4) (sid : BitVec 18) (rt : BitVec 4) (sl neg : Bool),
    s.issues v recStore w c → c.pc < 0x1FFFFF → w.val < 7 →
    let t := (s.issueAt v recStore c).1
    let id := effId c ix sid
    let inst := if sl then (List.range 32).filter (fun i => c.sm.getLsbD i) else [0]
    let free := fun (i : Nat) => t.program.otherRange w.val (id + i) = false
    let bit := fun (p : Patch) (i : Nat) (b : Bool) => (p.add (bitLoc (id + i)) 1 (b2n b)).add (statLoc (id + i)) 1 1
    let word := fun (x : Word) => (Patch.add [] (wordLoc id) 32 x.toNat).add (statLoc id) 1 1
    let puts := fun (i : Instr) (p : Patch) => t.imgWritable w p →
      exec i s = .next ((t.imgWrite p).withRegs w 1 (c.step c.flags))
    id ≤ 0x3FFFF →
    (free 0 → puts (.wst v ⟨rt, ix, sid⟩) (word (c.get rt)) ∧ puts (.wast v ix sid) (word c.wa) ∧
      puts (.ssts v ⟨rt, ix, sid⟩) (Patch.add [] (statLoc id) 8 ((c.get rt).toNat % 256))) ∧
    ((∀ i ∈ inst, free i) → (sl = true → id % 32 = 0 ∧ id / 32 ∉ t.ce.sliceMap) →
      puts (.bst v ⟨sl, neg, 0, ix, sid⟩) (inst.foldl (fun p i => bit p i (c.ba.getLsbD i != neg)) []) ∧
      puts (.bsr v ⟨sl, neg, 0, ix, sid⟩) (inst.foldl (fun p i => if c.ba.getLsbD i != neg then bit p i true else p) []) ∧
      puts (.bsr v ⟨sl, neg, 1, ix, sid⟩) (inst.foldl (fun p i => if c.ba.getLsbD i != neg then bit p i false else p) []))

/-- What a signal write puts into Image RAM reads back, and no other bit of the word changes (R106, R200).
A correctable word that is read is counted, and waits for its write-back; CE_WRITE_BACK stores the corrected data with
matching check bits; nothing else in memory changes (R197, R198).
The memory keeps its canonical form under every kind of access (the model's own form; it is what makes equal memories
equal data).
The rules named are where the clauses come from; the statement says parts of them.
Where the spec is silent it rests on the model's choices in the assumption log, entries 10 and 21. -/
def Obligations.MemoryAccess : Prop :=
  (∀ (s : State) (w : Nat) (data mask : DWord), w < 0x800000 → ((s.mem.code .img w).cls w).ok = true →
     let t := (s.writeWord .img w data mask .store).1
     (t.mem.code .img w).cls w = .clean ∧
     (∀ i < 64, t.imgBit (w, i) = if mask.getLsbD i then data.getLsbD i else s.imgBit (w, i)) ∧
     ∀ x, x ≠ w → t.mem.code .img x = s.mem.code .img x) ∧
  (∀ (s : State) (a : Arr) (w : Nat) (m : Master), a ≠ .prg → w < 0x800000 → (s.mem.code a w).cls w = .ce →
     s.mem.wb = [] →
     let t := (s.readWord a w m).1
     t.mem.wb = [⟨a, w, false, corrected w (s.mem.code a w)⟩] ∧
     t.fld (match a with | .ps => Reg.PS_CE_CNT | .rs => Reg.MS_CE_CNT | _ => Reg.PS_IMG_CE_CNT) =
       satAdd (s.fld (match a with | .ps => Reg.PS_CE_CNT | .rs => Reg.MS_CE_CNT | _ => Reg.PS_IMG_CE_CNT)) 1 ∧
     ∃ u, exec .ceWriteBack t = .next u ∧ u.mem.wb = [] ∧ u.mem.code a w = encodeWord w (corrected w (s.mem.code a w)) ∧
       ∀ b x, (b, x) ≠ (a, w) → u.mem.code b x = s.mem.code b x) ∧
  (∀ (s : State) (a : Arr) (w : Nat) (d mask : DWord) (m : Master), s.mem.wf = true →
     (s.readWord a w m).1.mem.wf = true ∧ (s.fullWrite a w d).mem.wf = true ∧ (s.poison a w).mem.wf = true ∧
     (s.writeWord a w d mask m).1.mem.wf = true ∧
     ∀ t, exec .ceWriteBack s = .next t → t.mem.wf = true)

/-- BEDGE (R72, R97, R135): RISE, FALL or ANY of the bit against the edge bit, both inverted under NEG, goes to BA or to the
bits of BA that SM selects; the edge bits receive the signals' own bits. -/
def Obligations.EdgeDetection : Prop :=
  ∀ (s : State) (v : Vote) (w : Who) (c : Ctx) (sub : BitVec 2) (ix : BitVec 4) (sid : BitVec 18) (sl neg : Bool),
    s.issues v recRegStore w c → c.pc < 0x1FFFFF → w.val < 7 → sub.toNat ≤ 2 →
    let t := (s.issueAt v recRegStore c).1
    let id := effId c ix sid
    let ws := [(bitLoc id).1, (edgeLoc id).1]
    let x := fun (i : Nat) => t.imgBit (bitLoc (id + i))
    let e := fun (i : Nat) => t.imgBit (edgeLoc (id + i))
    let inst := if sl then (List.range 32).filter (fun i => c.sm.getLsbD i) else [0]
    let p := inst.foldl (fun (p : Patch) i => p.add (edgeLoc (id + i)) 1 (b2n (x i))) []
    let hit := fun (i : Nat) => match sub with
      | 0 => (x i != neg) && !(e i != neg)
      | 1 => !(x i != neg) && (e i != neg)
      | _ => x i != e i
    id ≤ 0x3FFFF → (sl = true → id % 32 = 0 ∧ id / 32 ∉ t.ce.sliceMap) → t.imgReadable w ws → (t.imgRead ws).imgWritable w p →
    ∃ r : Word, exec (.bedge v ⟨sl, neg, sub, ix, sid⟩) s =
        .next (((t.imgRead ws).imgWrite p).withRegs w 1 ({ c with ba := r }.step c.flags)) ∧
      ∀ i < 32, r.getLsbD i =
        if sl then (if c.sm.getLsbD i then hit i else c.ba.getLsbD i) else decide (i = 0) && hit 0

/-- The traps of signal instructions, in the order of R129: ILLEGAL in T7 and in the initialisation routine, then BOUND for an
effective ID above 0x3FFFF, then ALIGN for a sliced form whose ID is no multiple of 32, then BUS for a write into a range of
another task (R103, R104, R107).
The rules named are where the clauses come from; the statement says parts of them. -/
def Obligations.SignalTraps : Prop :=
  ∀ (s : State) (v : Vote) (w : Who) (c : Ctx) (k : Ctx → Recs) (ix : BitVec 4) (sid : BitVec 18) (rt : BitVec 4) (sl neg : Bool),
    s.issues v k w c →
    let t := (s.issueAt v k c).1
    let id := effId c ix sid
    let sb : SbOp := ⟨sl, neg, 0, ix, sid⟩
    let sw : SwOp := ⟨rt, ix, sid⟩
    let of := fun (x : Ctx → Recs) (l : List Instr) => l.map (fun i => (x, i))
    let reads := of recReg [.bld v sb, .band v sb, .bor v sb, .bxor v sb] ++ of recRegStore [.bedge v sb]
    let writes := of recStore [.bst v sb, .bsr v sb]
    let wreads := of recReg [.wld v sw, .wald v ix sid, .slds v sw, .sage v sw]
    let wwrites := of recStore [.wst v sw, .wast v ix sid, .ssts v sw]
    let all := fun (l : List ((Ctx → Recs) × Instr)) (x : TrapCode) =>
      ∀ p ∈ l, p.1 = k → exec p.2 s = .next (t.traps w c x 1)
    (7 ≤ w.val → all (reads ++ writes ++ wreads ++ wwrites) .illegal) ∧
    (w.val < 7 → 0x3FFFF < id → all (reads ++ writes ++ wreads ++ wwrites) .bound) ∧
    (w.val < 7 → id ≤ 0x3FFFF → sl = true → id % 32 ≠ 0 → all (reads ++ writes) .align) ∧
    (w.val < 7 → id ≤ 0x3FFFF → t.program.otherRange w.val id = true → all wwrites .bus ∧ (sl = false → all writes .bus))

/-! ### Loads and stores -/

/-- LDW, LDH, LDBY and LDP from the Protected Store, the Retentive Store, the active program slot and Image RAM, where no
store to the word waits: the bytes at the address, zero-extended, in 6 clocks; the read is counted by its class, and an
uncorrectable word raises LOAD_UE (R108, R109, R153, R156, R199).
The rules named are where the clauses come from; the statement says parts of them. -/
def Obligations.Loads : Prop :=
  ∀ (s : State) (v : Vote) (w : Who) (c : Ctx) (o : MemOp) (a : Arr) (x : Nat), s.issues v (recMem true o) w c → c.pc < 0x1FFFFF →
    let t := (s.issueAt v (recMem true o) c).1
    let addr := effAddr c o
    let d := (t.readWord a x .load).2.2
    let u := (t.readWord a x .load).1
    let part := fun (n : Nat) => BitVec.ofNat 32 (get64 d (8 * (addr % 8)) (8 * n))
    decodeAddr t.slotNo addr false = .mem a x → (∀ e ∈ t.ce.store, storeTarget e.addr ≠ some (a, x)) →
    (((t.mem.code a x).cls x).ok = true →
      (addr % 4 = 0 → exec (.ldw v o) s = .next (u.withRegs w 6 ((c.set o.rt (part 4)).step c.flags))) ∧
      (addr % 2 = 0 → exec (.ldh v o) s = .next (u.withRegs w 6 ((c.set o.rt (part 2)).step c.flags))) ∧
      exec (.ldby v o) s = .next (u.withRegs w 6 ((c.set o.rt (part 1)).step c.flags)) ∧
      (addr % 8 = 0 → o.rt.toNat % 2 = 0 → exec (.ldp v o) s =
        .next (u.withRegs w 6 (((c.set o.rt (d.setWidth 32)).set (o.rt + 1) ((d >>> 32).setWidth 32)).step c.flags)))) ∧
    (((t.mem.code a x).cls x).ok = false → addr % 4 = 0 → exec (.ldw v o) s = .next (u.traps w c .loadUe 6))

/-- STW, STH, STBY and STP into the coded stores: the entry joins the store buffer with its address, size and data, and
memory itself does not change yet (R109, R111, R153).
The rules named are where the clauses come from; the statement says parts of them.
Where the spec is silent it rests on the model's choices in the assumption log, entry 19. -/
def Obligations.Stores : Prop :=
  ∀ (s : State) (v : Vote) (w : Who) (c : Ctx) (o : MemOp), s.issues v (recMem false o) w c → c.pc < 0x1FFFFF →
    let t := (s.issueAt v (recMem false o) c).1
    let addr := effAddr c o
    let lo := (c.get o.rt).toNat
    let hi := (c.get (o.rt + 1)).toNat
    let puts := fun (n x : Nat) => Host.Outcome.next (State.withRegs
      { t with ce.store := t.ce.store ++ [⟨addr, n, BitVec.ofNat 64 x, some w⟩] } w 1 (c.step c.flags))
    (∃ a x, decodeAddr t.slotNo addr true = .mem a x) → t.ce.store.length < 8 → t.ce.cur = some w →
    (addr % 4 = 0 → exec (.stw v o) s = puts 4 lo) ∧ (addr % 2 = 0 → exec (.sth v o) s = puts 2 (lo % 2 ^ 16)) ∧
    exec (.stby v o) s = puts 1 (lo % 2 ^ 8) ∧
    (addr % 8 = 0 → o.rt.toNat % 2 = 0 → exec (.stp v o) s = puts 8 (lo + hi * 2 ^ 32))

/-- The traps of loads and stores: ILLEGAL for an odd pair register, BRIDGE_IN_CYCLIC before ALIGN, ALIGN, and BUS where no
location lies or a program slot is stored to (R20, R108, R110, R129, R153).
The rules named are where the clauses come from; the statement says parts of them. -/
def Obligations.MemoryTraps : Prop :=
  ∀ (s : State) (v : Vote) (w : Who) (c : Ctx) (k : Ctx → Recs) (o : MemOp), s.issues v k w c →
    let t := (s.issueAt v k c).1
    let addr := effAddr c o
    let window := 0x80000000 ≤ addr ∧ addr < 0xBF000000
    let loads := fun (n : Nat) => if n = 4 then Instr.ldw v o else if n = 2 then .ldh v o else if n = 8 then .ldp v o else .ldby v o
    let stores := fun (n : Nat) => if n = 4 then Instr.stw v o else if n = 2 then .sth v o else if n = 8 then .stp v o else .stby v o
    let load := fun (n : Nat) (x : TrapCode) (m : Nat) => k = recMem true o → exec (loads n) s = .next (t.traps w c x m)
    let store := fun (n : Nat) (x : TrapCode) => k = recMem false o → exec (stores n) s = .next (t.traps w c x 1)
    (o.rt.toNat % 2 = 1 → load 8 .illegal 1 ∧ store 8 .illegal) ∧
    ∀ n ∈ [1, 2, 4, 8], (n = 8 → o.rt.toNat % 2 = 0) →
      (window → w ≠ 7 → load n .bridgeInCyclic 6 ∧ store n .bridgeInCyclic) ∧
      (¬ window → addr % n ≠ 0 → load n .align 6 ∧ store n .align) ∧
      (addr % n = 0 → 0x04400000 ≤ addr → addr < 0x10000000 → load n .bus 6 ∧ store n .bus) ∧
      (addr % n = 0 → 0x20000000 ≤ addr → addr < 0x21000000 → store n .bus)

/-! ### Coded words (R194 to R201) -/

/-- A word as the module stores it is clean and delivers its data; one wrong data or check bit is corrected; two wrong
bits are never corrected; a word read at an address that differs in one address bit is an address error; a poisoned word is
found as such (R194, R195, R196).
The rules named are where the clauses come from; the statement says parts of them. -/
def Obligations.CodedWords : Prop :=
  ∀ (d : DWord) (w : Nat), w < 0x800000 →
    let x := encodeWord w d
    let flip := fun (c : Code) (i : Fin 72) =>
      if i.val < 64 then ({ c with data := c.data ^^^ BitVec.ofNat 64 (2 ^ i.val) } : Code)
      else { c with chk := c.chk ^^^ BitVec.ofNat 8 (2 ^ (i.val - 64)) }
    x.cls w = .clean ∧ corrected w x = d ∧
    (∀ i : Fin 72, (flip x i).cls w = .ce ∧ corrected w (flip x i) = d) ∧
    (∀ i j : Fin 72, i ≠ j → ((flip (flip x i) j).cls w).ok = false) ∧
    (∀ k : Fin 23, x.cls (w ^^^ 2 ^ k.val) = .address) ∧
    (poisonWord w).cls w = .poison

/-! ### The Cycle Engine -/

/-- END (R52, R115, R116, R162) with nothing in the store buffer: a cyclic release completes, a pass of T7 ends and may start
again after the next tick boundary, the initialisation routine ends, or its second part begins (R124); then the next is dispatched.
A completed release (R44, R52): CE_LASTCLK holds its clocks and CE_MAXCLK the largest count since it was cleared; a BOUNDARY
task's outputs are held, and the task is no longer ready.
The rules named are where the clauses come from; the statement says parts of them.
Where the spec is silent it rests on the model's choices in the assumption log, entries 7 (the clocks of END) and 43. -/
def Obligations.ReleaseEndsAndIsMeasured : Prop :=
  (∀ (s : State) (v : Vote) (w : Who) (c : Ctx), s.issues v recCommit w c →
     let t := (s.issueAt v recCommit c).1
     let u := t.withRegs w 1 (c.step c.flags)
     t.ce.store = [] → t.ce.cur = some w →
     (w.val < 7 → exec (.endRelease v) s = .next (u.completeRelease w).dispatch) ∧
     (w = 7 → exec (.endRelease v) s = .next u.completeT7.dispatch) ∧
     (w = 8 → exec (.endRelease v) s = .next u.endInit.dispatch)) ∧
  ((∀ (s : State) (n : Fin 7) (k : Nat), k < 2 ^ 32 →
     let t := s.measure n.val k
     (t.fld (Reg.CE_LASTCLK n.val)).toNat = k ∧
     (t.fld (Reg.CE_MAXCLK n.val)).toNat = max k (s.fld (Reg.CE_MAXCLK n.val)).toNat) ∧
   (∀ (s : State) (n : Fin 7) (w : Who), w.val = n.val → s.mode = .run → s.colState ≠ colSyncStandby →
     s.fld (Reg.CE_TASKCFG_COMMIT_AT n.val) = 1 → s.wd = [] →
     ((s.completeRelease w).ce.task w).held = true ∧ ((s.completeRelease w).ce.task w).ready = false))

/-- A trap of a task under policy CONTINUE (R56, R57, R119, R120): CE_TRAPINFOn names cause, index and slot, the event bit is
set, a record is written, the release is over, and the other tasks go on.
The rules named are where the clauses come from; the statement says parts of them.
Where the spec is silent it rests on the model's choices in the assumption log, entries 6 and 19. -/
def Obligations.TrapTaken : Prop :=
  ∀ (s : State) (n : Fin 8) (w : Who) (x : TrapCode) (i : Nat), w.val = n.val → i < 2 ^ 21 → s.policyOf n.val = 0 → s.wd = [] →
    let t := s.trap w x i
    (t.fld (Reg.CE_TRAPINFO_CAUSE n.val)).toNat = x.code ∧ (t.fld (Reg.CE_TRAPINFO_INDEX n.val)).toNat = i ∧
    (t.fld (Reg.CE_TRAPINFO_SLOT n.val)).toNat = s.slotNo ∧ t.bit Reg.CE_EVT_TRAP n.val = true ∧ t.mode = s.mode ∧
    t.mem = s.mem ∧ (t.ce.task w).ready = false ∧ ∀ u : Who, u ≠ w → t.ce.task u = s.ce.task u

/-- BUDGET_ABORT (R53, R56): a cyclic release beyond its claim ends with cause 0xFF at its next instruction, and is counted.
OVERRUN_LIMIT (R55): the count starts again; STOP_TASK clears ENABLE and sets STOPPED.
The rules named are where the clauses come from; the statement says parts of them. -/
def Obligations.BudgetAndOverrun : Prop :=
  (∀ (s : State) (n : Fin 7) (w : Who), w.val = n.val → s.ce.cur = some w → s.wd = [] → s.ce.store = [] →
     (s.fld (Reg.CE_WCET_WCET n.val)).toNat < (s.ce.task w).clocks → (s.ce.task w).ctx.pc < 2 ^ 21 → s.policyOf n.val = 0 →
     ∃ t, exec .budgetAbort s = .next t ∧ t.fld (Reg.CE_BUDCNT n.val) = satAdd (s.fld (Reg.CE_BUDCNT n.val)) 1 ∧
       t.fld (Reg.CE_TRAPINFO_CAUSE n.val) = 0xFF ∧
       (t.fld (Reg.CE_TRAPINFO_INDEX n.val)).toNat = (s.ce.task w).ctx.pc ∧ t.bit Reg.CE_EVT_BUDGET n.val = true ∧
       (t.ce.task w).ready = false ∧ t.mem = s.mem) ∧
  (∀ (s : State) (n : Fin 7) (w : Who), w.val = n.val → s.wd = [] → s.ce.store = [] →
     (s.fld (Reg.CE_TASKCFG_OVR_LIMIT n.val)).toNat + 1 ≤ (s.ce.task w).overruns →
     ∃ t, exec (.overrunLimit n) s = .next t ∧ (t.ce.task w).overruns = 0 ∧
       (s.policyOf n.val = 0 → t.mode = s.mode ∧ ∀ u, u ≠ w → t.ce.task u = s.ce.task u) ∧
       (s.policyOf n.val = 1 → t.fld (Reg.CE_TASKCFG_ENABLE n.val) = 0 ∧ t.bit Reg.CE_STAT_STOPPED n.val = true ∧
         (t.ce.task w).ready = false))

/-- STORE_BUFFER_WRITE (R111, R112): the oldest store leaves the buffer and its bytes reach the word, which is stored with
matching check bits; no other word changes.
PROGRAM_SWITCH, SWITCH_TIMEOUT, T7_START and INIT_ROUTINE_TIMEOUT (R60, R61, R95, R115, R126).
The rules named are where the clauses come from; the statement says parts of them.
Where the spec is silent it rests on the model's choices in the assumption log, entries 21 and 43. -/
def Obligations.StoreBufferAndEngine : Prop :=
  (∀ (s : State) (e : StoreEntry) (rest : List StoreEntry) (a : Arr) (x : Nat), s.ce.store = e :: rest → s.ring.deferred = [] →
     s.toRun = s.ce.cur → (s.ce.cur.isSome ∨ rest = []) → storeTarget e.addr = some (a, x) → ¬ (a = .img ∧ reservePlane ≤ x) →
     ((s.mem.code a x).cls x).ok = true →
     let m := byteMask e.addr e.size
     ∃ t, exec .storeBufferWrite s = .next t ∧ t.ce.store = rest ∧
       t.mem.code a x = encodeWord x (mergeBits (corrected x (s.mem.code a x))
         (BitVec.ofNat 64 (e.data.toNat * 2 ^ (8 * (e.addr % 8)))) m) ∧
       ∀ b y, (b, y) ≠ (a, x) → t.mem.code b y = s.mem.code b y) ∧
  ((∀ (s : State) (p : Image), s.ce.switchNow = true → (s.slot s.otherSlot).image = some p → s.cmd.longOp = none →
     s.ce.store = [] → ∃ t, exec .programSwitch s = .next t ∧ t.ce.switchNow = false ∧ t.ce.switchSince = none ∧
       t.ce.switchTick = some s.time.tick) ∧
   (∀ (s : State) (k : Nat), s.ce.switchSince = some k → k + s.swTimeout ≤ s.time.tick → s.ce.switchNow = false →
     s.cmd.longOp = none →
     ∃ t, exec .switchTimeout s = .next t ∧ t.ce.switchSince = none ∧ t.fld Reg.CE_STAT_SW_PENDING = 0 ∧
       t.fld Reg.CE_SWSTAT_STATE = 4 ∧ t.fld Reg.CE_EVT_SW_TIMEOUT = 1 ∧ t.ce.active = s.ce.active) ∧
   (∀ s : State, s.cycleRuns = true → s.toRun = none → (s.ce.task 7).ready = false → s.taskOn 7 = true →
     s.ce.switchNow = false → (s.ce.task 7).resumeAfter < s.time.tick → s.ce.store = [] → s.fld Reg.PWR_STAT_STOPPING = 0 →
     ∃ t, exec .t7Start s = .next t ∧ t.ce.cur = some 7 ∧ (t.ce.task 7).ready = true ∧
       (t.ce.task 7).ctx = Ctx.start (s.program.task 7).entry) ∧
   (∀ s : State, (s.ce.task 8).ready = true → 4000 ≤ s.ce.initTicks → s.sup.modeWait = none → s.wd = [] → s.ce.store = [] →
     ∃ t, exec .initRoutineTimeout s = .next t ∧ (t.ce.task 8).ready = false ∧ t.mode = s.mode))

/-- TICK_BOUNDARY (R32, R33, R41): time moves on by one tick of 250 µs before anything else of the boundary happens; before
STOPPED, in RECOVERY and after the stop level nothing happens (R219, R461).
The steps of a tick for the tasks (R37, R41, R54): a due task that is still at work is counted late and keeps its release;
one that is free is released at its entry point with the registers of R95.
The rules named are where the clauses come from; the statement says parts of them. -/
def Obligations.TickAndRelease : Prop :=
  ((∀ (s : State) (a b : Verdict), s.mode ≠ .selftest → s.mode ≠ .recovery → s.fld Reg.PWR_STAT_STOPPING ≠ 1 →
     s.boundaryReady = true → exec (.tickBoundary a b) s = .next (s.boundary a b).takeSummary) ∧
   (∀ s : State, let t := s.advance
     t.time.tick = s.time.tick + 1 ∧ (s.time.utcValid = true → s.time.utc + 250000 < 2 ^ 64 → t.time.utc = s.time.utc + 250000) ∧
     t.img.ageClock = s.img.ageClock + 1 ∧ t.mode = s.mode ∧ t.regs = s.regs ∧ t.mem = s.mem ∧ t.ce = s.ce ∧ t.cv = s.cv ∧
     t.field = s.field ∧ t.sf = s.sf ∧ t.out = s.out) ∧
   (∀ (s : State) (a b : Verdict), s.mode = .selftest ∨ s.mode = .recovery ∨ s.fld Reg.PWR_STAT_STOPPING = 1 →
     exec (.tickBoundary a b) s = .next s)) ∧
  (∀ (s : State) (n : Fin 7) (w : Who), w.val = n.val → s.due w = true →
     (∀ u : Who, u ≠ w → u.val < 7 → s.due u = false) →
     let t := s.releaseTasks
     ((s.ce.task w).ready = true → t.fld (Reg.CE_OVRCNT n.val) = satAdd (s.fld (Reg.CE_OVRCNT n.val)) 1 ∧
       t.fld (Reg.CE_SKIPCNT n.val) = satAdd (s.fld (Reg.CE_SKIPCNT n.val)) 1 ∧
       (t.ce.task w).overruns = (s.ce.task w).overruns + 1 ∧ (t.ce.task w).ctx = (s.ce.task w).ctx) ∧
     ((s.ce.task w).ready = false → (t.ce.task w).ready = true ∧ (t.ce.task w).clocks = 0 ∧ (t.ce.task w).overruns = 0 ∧
       (t.ce.task w).ctx = Ctx.start (s.program.task n.val).entry))

/-- LANE_READMISSION and FORCED_READMISSION (R182, R183, R184, R185): a halted lane begins to reload, in an idle window or after
4,000 ticks, which is counted; the reload ends with a lane that votes, with one that is halted again and whose failure is counted,
or, where the good lanes or the comparators differ, in SAFE.
DEGLEFT_COUNTDOWN (R187, R188): one second less; at zero in DEGRADED the module goes to SAFE with cause 0x06.
The rules named are where the clauses come from; the statement says parts of them.
Where the spec is silent it rests on the model's choices in the assumption log, entries 6 and 44. -/
def Obligations.ReadmissionAndCountdown : Prop :=
  (∀ (s : State) (l : Lane) (c : Copies) (ok : Bool), s.mayReload = true → s.ce.store = [] →
     (s.laneState l = 1 → s.reloading = false →
       (s.bestCyclic = none → ∃ t, exec (.laneReadmission l c ok) s = .next t ∧ t.laneState l = 2 ∧ t.mem = s.mem ∧ t.ce = s.ce) ∧
       (s.cv.haltedAt.toList.getD l.code 0 + 4000 ≤ s.time.tick →
         ∃ t, exec (.forcedReadmission l c ok) s = .next t ∧ t.laneState l = 2 ∧
           t.fld Reg.CV_FORCED_CNT = satAdd (s.fld Reg.CV_FORCED_CNT) 1 ∧ t.mem = s.mem ∧ t.ce = s.ce)) ∧
     (s.laneState l = 2 → ∀ i ∈ [Instr.laneReadmission l c ok, .forcedReadmission l c ok], ∃ t, exec i s = .next t ∧
       (c = .agree → ok = true → s.cmd.longOp = none → t.laneState l = 0 ∧ t.fld Reg.CV_READMIT_CNT = satAdd (s.fld Reg.CV_READMIT_CNT) 1 ∧
         t.fld Reg.CV_STAT_TWO_LANE = b2w (decide (t.voters < 3)) ∧ t.mem = s.mem ∧ t.ce = s.ce) ∧
       (c = .agree → ok = false → t.laneState l ≠ 0 ∧ t.fld Reg.CV_READMIT_FAIL_CNT = satAdd (s.fld Reg.CV_READMIT_FAIL_CNT) 1 ∧
         (t.fld Reg.CV_LASTMIS_KIND).toNat = RecKind.reload.code ∧ t.mem = s.mem ∧ t.ce = s.ce) ∧
       (c ≠ .agree → t.mode = .safe))) ∧
  (∀ s : State, s.anyRetired = true → s.sup.powered = true →
     (s.cv.degLeft ≠ 1 ∨ s.mode ≠ .degraded → s.cv.degLeft ≠ 0 → ∃ t, exec .degleftCountdown s = .next t ∧
       t.cv.degLeft = s.cv.degLeft - 1 ∧ t.fld Reg.CV_DEGLEFT_SECONDS = BitVec.ofNat 32 (s.cv.degLeft - 1) ∧ t.mode = s.mode) ∧
     (s.cv.degLeft = 1 → s.mode = .degraded → ∃ t, exec .degleftCountdown s = .next t ∧ t.mode = .safe ∧
       t.fld Reg.SYS_SAFE_CAUSE = 6))

/-- A minority among three voting lanes halts that lane alone, and its mismatch is counted (R169, R177, R180).
Where no majority is left, or the comparators differ, the module goes to SAFE with the cause of that event (R172, R173,
R178, R225).
The rules named are where the clauses come from; the statement says parts of them.
Where the spec is silent it rests on the model's choices in the assumption log, entries 6, 7 and 44. -/
def Obligations.LaneVoting : Prop :=
  (∀ (s : State) (l : Lane) (k : RecKind) (i : Nat), s.voters = 3 → s.isFailed l k i = false → i < 2 ^ 21 →
     let t := s.minority l k i
     t.laneState l = 1 ∧ t.voters = 2 ∧ t.fld Reg.CV_STAT_TWO_LANE = 1 ∧ t.fld l.misCnt = satAdd (s.fld l.misCnt) 1 ∧
     t.fld Reg.CV_MISMATCH_CNT = satAdd (s.fld Reg.CV_MISMATCH_CNT) 1 ∧ (t.fld Reg.CV_LASTMIS_KIND).toNat = k.code ∧
     (t.fld Reg.CV_LASTMIS_LANE).toNat = l.code ∧ (t.fld Reg.CV_LASTMIS_INDEX).toNat = i ∧ t.mode = s.mode ∧ t.mem = s.mem ∧
     t.ce = s.ce) ∧
  (∀ (s : State) (k : RecKind) (i : Nat), s.mode ≠ .safe → s.mode ≠ .recovery →
     (s.noMajority k i).mode = .safe ∧ (s.verdictSplit k i).mode = .safe ∧
     (s.noMajority k i).fld Reg.SYS_SAFE_CAUSE = (if s.voters = 3 then 1 else 5) ∧
     (s.verdictSplit k i).fld Reg.SYS_SAFE_CAUSE = 2)

/-- TRAVERSE_SCRUB_READ and PROGRAM_RAM_SCRUB (R204 to R207): a clean word stays as it is, a correctable one is queued or
rewritten, an uncorrectable one of Program RAM is poisoned; Traverse does not run where it is disabled.
The rules named are where the clauses come from; the statement says parts of them.
Where the spec is silent it rests on the model's choices in the assumption log, entries 40 and 44. -/
def Obligations.Scrubbing : Prop :=
  (∀ s : State, s.fld Reg.PS_TRAV_CTRL_ENABLE = 0 → exec .traverseScrubRead s = .next s ∧ s.get Reg.PS_STAT_TRAV_RUN = 0) ∧
  (∀ (s : State) (n w : Nat) (a : Arr), s.travRuns = true → 0 < s.mem.travWord →
    s.scrubNext s.mem.travRange s.mem.travWord = some (n, a, w) →
    ∃ t, exec .traverseScrubRead s = .next t ∧ (∀ b x, t.mem.code b x = s.mem.code b x) ∧
      t.mem.wb = s.mem.wb ++ (match (s.mem.code a w).cls w with
        | .ce => [⟨a, w, false, corrected w (s.mem.code a w)⟩]
        | .ue => [⟨a, w, true, 0⟩]
        | _ => [])) ∧
  (∀ s : State, s.mode ≠ .selftest → s.mode ≠ .recovery → s.fld Reg.PWR_STAT_STOPPING = 0 → s.mem.wf = true → ∃ t, exec .programRamScrub s = .next t ∧
    ∀ w, (t.mem.code .prg w).cls w =
      match (s.mem.code .prg w).cls w with
      | .ce => .clean
      | .ue => .poison
      | k => k)

/-! ### Modes, starts and the reset input -/

/-- Entry to SAFE (R213, R225): the mode and its cause are shown, every field output is off, process data goes off at the next tick
boundary, and no release goes on.
START_LOOP_GUARD_CLEAR, SUPERVISOR_LOCKSTEP_MISMATCH, SF_CHECK_RECOMPUTE and CFG_RELOAD (R222, R226, R227, R273, R404).
The rules named are where the clauses come from; the statement says parts of them.
Where the spec is silent it rests on the model's choices in the assumption log, entries 18, 33 and 44. -/
def Obligations.SafeEntryAndSupervisor : Prop :=
  (∀ (s : State) (cause : Nat), s.mode ≠ .safe → s.mode ≠ .recovery → cause < 256 →
     let t := s.enterSafe cause
     t.mode = .safe ∧ t.fld Reg.SYS_MODE_MODE = 0xB ∧ (t.fld Reg.SYS_SAFE_CAUSE).toNat = cause ∧ t.fieldOff = true ∧
     t.dataMode = s.mode ∧ t.advance.dataMode = .safe ∧ t.ce.cur = none ∧ t.ce.store = [] ∧ ∀ w, (t.ce.task w).ready = false) ∧
  ((∀ (s : State) (k : Nat), s.sup.runSince = some k → s.mode = .run → k + 60000000000 ≤ s.opNs →
     ∃ t, exec .startLoopGuardClear s = .next t ∧ t.sup.startLoop = 0 ∧ t.mode = .run ∧ t.regs = s.regs ∧ t.mem = s.mem) ∧
   (∀ s : State, s.mode ≠ .selftest → s.mode ≠ .recovery → s.sup.powered = true →
     ∃ t, exec .supervisorLockstepMismatch s = .next t ∧
       (s.firmwareTest.1 = 0 → s.mode ≠ .safe ∨ s.fld Reg.SYS_SAFE_CAUSE = 8 → t.mode = .stopped) ∧
       (s.firmwareTest.1 = 0 → s.mode = .safe → s.fld Reg.SYS_SAFE_CAUSE ≠ 8 → t.mode = .safe) ∧
       (s.firmwareTest.1 ≠ 0 → t.mode = .recovery) ∧ t.sup.noAuto = true ∧ t.sup.autoOpen = false) ∧
   (∀ (s : State) (c : Word) (n : Nat), s.sf.confirmed = some (c, n) → s.mode ≠ .selftest →
     (s.sfRecomputed = c → exec .sfCheckRecompute s = .next s) ∧
     (s.sfRecomputed ≠ c → exec .sfCheckRecompute s = .next (s.enterSafe 0x0B))) ∧
   (∀ s : State, s.mode ≠ .selftest → s.mode ≠ .recovery →
     (s.regDiff s.confFresh = [] → exec .cfgReload s = .next s) ∧
     (∀ k, s.regDiff s.confFresh = [k] → keyPage k ≠ 0x17 → k ≠ Reg.SYS_EVT_CFG_RELOAD → k ≠ Reg.SYS_CFGRELOAD_CNT →
       ∃ t, exec .cfgReload s = .next t ∧ t.fld k = s.confFresh.fld k ∧ t.fld Reg.SYS_EVT_CFG_RELOAD = 1 ∧
         t.fld Reg.SYS_CFGRELOAD_CNT = satAdd (s.fld Reg.SYS_CFGRELOAD_CNT) 1 ∧ t.mode = s.mode ∧ t.mem = s.mem)))

/-- The module right after reset (R92, R212, R218, R225, R434): SELFTEST, outputs off, nothing executing or waiting, status bytes
0x10 in the live image, zeros in the other images and in program RAM, sequence numbers 0, every register at its reset value,
memories in canonical form.
The rules named are where the clauses come from; the statement says parts of them.
Where the spec is silent it rests on the model's choices in the assumption log, entries 3, 4 and 10 (the values without a source in the spec). -/
def Obligations.ResetState : Prop :=
  let s := State.reset
  s.mode = .selftest ∧ s.fieldOff = true ∧ s.plantSafe = true ∧ s.ce.cur = none ∧ s.ce.active = none ∧ s.pending = [] ∧
  s.wd = [] ∧ s.staged = [] ∧ s.regsWf = true ∧ s.mem.wf = true ∧ s.cairn.o.stored = [] ∧ s.cairn.d.stored = [] ∧ s.cairn.o.next = 0 ∧ s.cairn.d.next = 0 ∧
  (∀ k, s.fld k = resetOf k) ∧
  (∀ w, s.mem.code .img w = encodeWord w 0 ∧ s.mem.code .com w = encodeWord w 0 ∧ s.mem.code .prg w = encodeWord w 0 ∧
    s.mem.code .live w = encodeWord w (if statusPlane ≤ w ∧ w < edgePlane then 0x1010101010101010 else 0))

/-- What a restart leaves (R201, R219, R229, R230): SELFTEST with the straps as sampled, no release, no program, no session, and
the Cycle Engine as after a start. RESET_PRESS, UPD_RESTART and CLOCK_FAULT are restarts.
POWER_UP and CONVERTER_STOP (R201, R219, R455, R461): a start counts one power cycle, begins in SELFTEST, keeps the Retentive
Store and gives the Protected Store contents that nothing determines; the power-down keeps what MRAM and flash hold.
The rules named are where the clauses come from; the statement says parts of them.
Where the spec is silent it rests on the model's choices in the assumption log, entries 4, 10 and 33. -/
def Obligations.RestartAndPowerCycle : Prop :=
  ((∀ (s : State) (x : Straps), let t := s.restart x
     t.mode = .selftest ∧ t.ce = Ce.reset ∧ t.sup.powered = true ∧ t.sup.slot = x.slot.toNat ∧ t.sup.bootsel = x.bootsel ∧
     t.fld Reg.SYS_HWINFO_BOOTSEL = b2w x.bootsel ∧ t.wd = [] ∧ t.staged = [] ∧ t.cmd.desk = Desk.zero ∧ t.mem.prg = [] ∧
     t.fieldOff = true) ∧
   (∀ (s : State) (ms : Nat) (x : Straps), s.sup.powered = true → s.sup.resetArmed = true → 50 ≤ ms → ms ≤ 5000 →
     exec (.resetPress ms x) s = .next (s.restart x)) ∧
   (∀ (s : State) (ms : Nat) (x : Straps), ms < 50 ∨ 5000 < ms → exec (.resetPress ms x) s = .next s) ∧
   (∀ (s : State) (x : Straps), s.sup.restartDue = true → exec (.updRestart x) s = .next (s.restart x)) ∧
   (∀ (s : State) (x : Straps), s.sup.powered = true →
     exec (.clockFault x) s = .next (State.restart { s with pwr.clockDue := true } x)) ∧
   (∀ s : State, s.sup.powered = true → ∃ t, exec .resetArm s = .next t ∧ t.sup.resetArmed = true ∧ t.regs = s.regs ∧
     t.mem = s.mem ∧ t.mode = s.mode) ∧
   (∀ s : State, s.sup.powered = true → ∃ t, exec .resetStuck s = .next t ∧
     t.sup.resetArmed = false ∧ t.sup.resetStuck = true ∧ t.mode = s.mode ∧ t.mem = s.mem)) ∧
  ((∀ (s : State) (feed2 : Bool) (x : Straps), s.sup.powered = false →
     ∃ t, exec (.powerUp feed2 x) s = .next t ∧ t.mode = .selftest ∧ t.sup.powered = true ∧
       t.fld Reg.SYS_PWRCYC = satAdd (s.fld Reg.SYS_PWRCYC) 1 ∧ t.fld (feedGoodKey feed2) = 1 ∧ t.mem.rs = s.mem.rs ∧
       t.mem.ps = [] ∧ t.mem.era = s.mem.era + 1 ∧ t.mem.prg = [] ∧ t.cmd.config = s.cmd.config ∧ t.ce = Ce.reset) ∧
   (∀ s : State, s.sup.powered = true → s.noFeed = true →
     ∃ t, exec .converterStop s = .next t ∧ t.sup.powered = false ∧ t.mode = .selftest ∧ t.mem.rs = s.mem.rs ∧
       t.cmd.config = s.cmd.config ∧ t.fieldOff = true ∧ t.trig.running = false))

/-- SELFTEST_END (R202, R218, R230): a failed test of the loader or of a test row leads to SAFE with cause 0x09, the boot select
strap or an invalid firmware image to RECOVERY, everything else to STOPPED; every array's test row holds what the tests left.
AUTOSTART (R221, R505): the image of the configured start slot is read and checked, and stays inactive; at the next step it is
made active and initialised, unless another condition fails; a configuration that asks for no auto-start ends it with reason 1.
The rules named are where the clauses come from; the statement says parts of them.
Where the spec is silent it rests on the model's choices in the assumption log, entries 8, 33 and 44. -/
def Obligations.SelftestAndAutoStart : Prop :=
  (∀ (s : State) (x : SelfTest), s.mode = .selftest → s.sup.powered = true →
     let lanes := (s.runTests x).1
     let good := x.loader = false ∧ x.comparators = false ∧ x.array = none ∧ x.clock = false ∧ 2 ≤ lanes.sound
     ((s.runTests x).2 = x.array ∧ ∀ i < 1024, sget lanes.mem.test i = rowContent[i % 64]?) ∧
     (x.loader = true ∨ x.array.isSome = true → ∃ t, exec (.selftestEnd x) s = .next t ∧ t.mode = .safe ∧ t.fld Reg.SYS_SAFE_CAUSE = 9) ∧
     (good → lanes.sup.bootsel = true → ∃ t, exec (.selftestEnd x) s = .next t ∧ t.mode = .recovery ∧
       t.fld Reg.SYS_MODE_MODE = 1) ∧
     (good → lanes.sup.bootsel = false → lanes.firmwareTest.1 ≠ 0 → ∃ t, exec (.selftestEnd x) s = .next t ∧ t.mode = .recovery) ∧
     (good → lanes.sup.bootsel = false → lanes.firmwareTest.1 = 0 → x.read = none →
       ∃ t, exec (.selftestEnd x) s = .next t ∧ t.mode = .stopped ∧ t.fld Reg.SYS_MODE_MODE = 3)) ∧
  (∀ (s : State) (img : Image), s.mode = .stopped → s.sup.autoOpen = true → s.sup.modeWait = none →
     (∀ u i, s.sup.autoImage = none → s.cfg blkModule 0x02 1 = 1 → s.loadStart img = some (u, i) →
       exec (.autostart img) s = .next { u with sup.autoImage := some i } ∧ u.ce.active = s.ce.active) ∧
     (∀ i, s.sup.autoImage = some i → s.autoBar = none → s.partnerServes = false →
       exec (.autostart img) s =
         .next ((State.switchNow { s with sup.autoImage := none } i).startInit ⟨.run, none, true, .autostart⟩)) ∧
     (∀ i n, s.sup.autoImage = some i → s.autoBar = some n →
       ∃ t, exec (.autostart img) s = .next t ∧ t.sup.autoOpen = false ∧ t.sup.autoReason = n ∧ t.ce.active = s.ce.active) ∧
     (s.sup.autoImage = none → s.cfg blkModule 0x02 1 ≠ 1 → ∃ t, exec (.autostart img) s = .next t ∧ t.mode = .stopped ∧ t.sup.autoOpen = false ∧
       t.sup.autoReason = 1))

/-! ### Feeds, the hold-up store, ageing -/

/-- The feed events (R223, R455, R456, R461, R466): PWR_STAT, the event bits, the counters and the stress record that each
changes; the mode and the memories do not change at once.
The rules named are where the clauses come from; the statement says parts of them.
Where the spec is silent it rests on the model's choices in the assumption log, entries 5 and 23. -/
def Obligations.FeedEvents : Prop :=
  ∀ (s : State) (f : Bool), s.sup.powered = true →
    let lostBit := if f then Reg.PWR_EVT_FEED2_LOST else Reg.PWR_EVT_FEED1_LOST
    let lossCnt := if f then Reg.PWR_LOSSCNT2 else Reg.PWR_LOSSCNT1
    let rec_ := fun (t : State) => if f then t.pwr.feed2 else t.pwr.feed1
    let same := fun (t : State) => t.mode = s.mode ∧ t.mem = s.mem ∧ t.ce = s.ce ∧ t.field = s.field
    (s.feedOvv f = false → ∃ t, exec (.feedGood f) s = .next t ∧ same t ∧ t.fld (feedGoodKey f) = 1 ∧
      (s.noFeed = true → s.fld Reg.PWR_STAT_STOPPING = 0 → t.fld Reg.PWR_EVT_RIDETHRU_RETURN = 1 ∧
        (s.mode = .ridethru → t.fld Reg.PWR_RETURNCNT = satAdd (s.fld Reg.PWR_RETURNCNT) 1))) ∧
    (s.feedGood f = true → ∃ t, exec (.feedLost f) s = .next t ∧ same t ∧ t.fld (feedGoodKey f) = 0 ∧ t.fld lostBit = 1 ∧
      t.fld lossCnt = satAdd (s.fld lossCnt) 1 ∧ (rec_ t).losses = (rec_ s).losses + 1 ∧
      (s.feedGood (!f) = false → t.fld Reg.PWR_EVT_BOTH_LOST = 1 ∧ t.fld Reg.PWR_STAT_HOLDUP_READY = 0 ∧
        t.fld Reg.PWR_INTCNT = satAdd (s.fld Reg.PWR_INTCNT) 1 ∧ t.pwr.bothLost = s.pwr.bothLost + 1) ∧
      (s.feedGood (!f) = true → t.fld Reg.PWR_INTCNT = s.fld Reg.PWR_INTCNT ∧ t.pwr.bothLost = s.pwr.bothLost)) ∧
    (s.feedGood f = true → ∃ t, exec (.feedDip f) s = .next t ∧ same t ∧ t.fld Reg.PWR_EVT_DIP = 1 ∧
      t.fld Reg.PWR_DIPCNT = satAdd (s.fld Reg.PWR_DIPCNT) 1 ∧ (rec_ t).dips = (rec_ s).dips + 1 ∧ t.pwr.dip f = true) ∧
    (s.feedGood f = true → s.pwr.dip f = true → ∃ t, exec (.feedStress f) s = .next t ∧ same t ∧
      (rec_ t).longDips = (rec_ s).longDips + 1) ∧
    (s.feedGood f = true → ∃ t, exec (.feedSurge f) s = .next t ∧ same t ∧ t.fld Reg.PWR_EVT_SURGE = 1 ∧
      t.fld Reg.PWR_SURGECNT = satAdd (s.fld Reg.PWR_SURGECNT) 1 ∧ (rec_ t).surges = (rec_ s).surges + 1) ∧
    (s.feedOvv f = false → ∃ t, exec (.feedOvervoltage f) s = .next t ∧ same t ∧ t.fld (feedOvvKey f) = 1 ∧
      t.fld Reg.PWR_EVT_OVV_DISC = 1 ∧ t.fld Reg.PWR_OVVCNT = satAdd (s.fld Reg.PWR_OVVCNT) 1 ∧
      (rec_ t).ovv = (rec_ s).ovv + 1 ∧ (s.feedGood f = true → t.fld (feedGoodKey f) = 0)) ∧
    (∃ t, exec (.feedReconnect f) s = .next t ∧ same t ∧ t.fld (feedOvvKey f) = 0)

/-- STOP_LEVEL, HOLDUP_CHARGED and HOLDUP_TEST (R457 to R461): the power-down begins and nothing executes any more; the store
is ready at 50 V; the test's capacitance is shown and gives its class, and a test that fails gives S1.
The rules named are where the clauses come from; the statement says parts of them.
Where the spec is silent it rests on the model's choices in the assumption log, entries 5, 23 and 26. -/
def Obligations.HoldUp : Prop :=
  (∀ s : State, s.sup.powered = true → s.noFeed = true → s.fld Reg.PWR_STAT_STOPPING = 0 →
    ∃ t, exec .stopLevel s = .next t ∧ t.fld Reg.PWR_STAT_STOPPING = 1 ∧ t.fieldOff = true ∧ t.ce.cur = none ∧
      t.pwr.downs = s.pwr.downs + 1) ∧
  (∀ s : State, s.sup.powered = true → s.noFeed = false → s.fld Reg.PWR_STAT_STOPPING = 0 →
    ∃ t, exec .holdupCharged s = .next t ∧ t.fld Reg.PWR_STAT_HOLDUP_READY = 1 ∧ t.pwr.charged = true ∧
      (s.pwr.tested = true → t.fld Reg.PWR_STAT_HOLDUP_NOW = BitVec.ofNat 32 s.pwr.testClass) ∧ t.mode = s.mode ∧
      t.mem = s.mem) ∧
  (∀ (s : State) (c : Nat), s.sup.powered = true → s.pwr.tested = false → s.pwr.charged = true → c ≤ 10000 →
    ∃ t, exec (.holdupTest (some c)) s = .next t ∧ t.fld Reg.PWR_HOLDUP_CAP = BitVec.ofNat 32 c ∧ t.pwr.tested = true ∧
      t.pwr.testClass = (if 680 ≤ c then 3 else if 340 ≤ c then 2 else 1) ∧ t.mode = s.mode ∧ t.mem = s.mem) ∧
  (∀ s : State, s.sup.powered = true → s.pwr.tested = false → ∃ t, exec (.holdupTest none) s = .next t ∧
    t.fld Reg.PWR_EVT_HOLDUP_TEST_FAIL = 1 ∧ t.pwr.testClass = 1 ∧ t.mode = s.mode ∧ t.mem = s.mem)

/-- AGEING_SAMPLE, THERMAL_SAMPLE and MARGIN_PLAN_UPDATE (R466, R467): the canaries and PWR_MARGIN.D85, the temperatures, the
histogram and the operating seconds; a plan is made once a day, and the planned point never gets faster.
The operating points (R462, R467, R469): a point is usable where the delay and the two guards of 190 ps in all fit its
period; a step shows the new point, counts, and never makes the planned point faster.
The rules named are where the clauses come from; the statement says parts of them.
Where the spec is silent it rests on the model's choices in the assumption log, entries 24 and 25. -/
def Obligations.AgeingAndOperatingPoints : Prop :=
  ((∀ (s : State) (canary : Vector Nat 12) (drift : Vector Int 3), s.sup.powered = true → s.mode ≠ .selftest → s.mode ≠ .recovery →
     ∃ t, exec (.ageingSample canary drift) s = .next t ∧ t.pwr.canary = canary.toList ∧ t.pwr.drift = drift.toList ∧
       t.fld Reg.PWR_MARGIN_D85 = BitVec.ofNat 32 (min 0xFFFF t.d85) ∧ t.mode = s.mode ∧ t.mem = s.mem ∧ t.pwr.op = s.pwr.op) ∧
   (∀ (s : State) (h : Health), s.sup.powered = true → ∃ t, exec (.thermalSample h) s = .next t ∧
     t.fld Reg.SYS_OPSEC = satAdd (s.fld Reg.SYS_OPSEC) 1 ∧ t.fld Reg.PWR_TEMP_EDGE = word16 h.edge ∧
     t.fld Reg.PWR_TEMP_HOTSPOT = word16 h.hotspot ∧ t.time.subNs = 0 ∧
     t.pwr.hist = s.pwr.hist.set (histBin h.edge) (s.pwr.hist.getD (histBin h.edge) 0 + 1) ∧ t.mode = s.mode ∧ t.mem = s.mem) ∧
   (∀ s : State, s.sup.powered = true →
     (s.pwr.planAt + 86400 ≤ s.opSec → ∃ t, exec .marginPlanUpdate s = .next t ∧ t.pwr.planAt = s.opSec ∧ s.pwr.gop ≤ t.pwr.gop ∧
       t.pwr.op = s.pwr.op ∧ t.mode = s.mode ∧ t.mem = s.mem) ∧
     (s.opSec < s.pwr.planAt + 86400 → exec .marginPlanUpdate s = .next s))) ∧
  ((∀ d : Nat, (usable 0 d 1 = true ↔ 3 * (d + 190) ≤ 5000) ∧ (usable 1 d 1 = true ↔ 3 * (d + 190) ≤ 5500) ∧
     (usable 2 d 1 = true ↔ d + 190 ≤ 2000) ∧ (usable 3 d 1 = true ↔ 3 * (d + 190) ≤ 6500)) ∧
   (∀ (s : State) (n : Nat), n ≤ 3 → s.pwr.gop ≤ 3 →
     let t := s.stepTo n
     t.pwr.op = n ∧ (t.fld Reg.PWR_STAT_OP).toNat = n ∧ (t.fld Reg.CE_STAT_OP).toNat = n ∧
     t.fld Reg.PWR_STEPCNT = satAdd (s.fld Reg.PWR_STEPCNT) 1 ∧ t.pwr.gop = max n s.pwr.gop ∧ t.mode = s.mode ∧ t.mem = s.mem))

/-! ### Requests -/

/-- The gate (R237, R238, R245 to R247) and the reply (R234, R246): on transport 0 a request without session and code passes
with the role of the program; an unknown session or a missing code is AUTH_FAIL; a request whose tag repeats the last one is
answered with the kept reply; a completed request puts exactly one reply out and is kept.
The rules named are where the clauses come from; the statement says parts of them.
Where the spec is silent it rests on the model's choices in the assumption log, entries 32 and 41. -/
def Obligations.RequestGate : Prop :=
  (∀ (s : State) (op : Nat) (r : Req), r.session = 0 → r.transport = 0 → r.target = 0 → r.auth = false → op ≠ 0x0020 →
    s.tagPending r = false → (s.cmd.desk.transport 0).kept = none →
    s.gate op r = .pass (s.bump Reg.CMD_RXCNT) (some s.programRole) none) ∧
  (∀ (s : State) (op : Nat) (r : Req), r.session ≠ 0 → s.cmd.desk.session r.session = none → r.target = 0 →
    s.gate op r = .stop (s.refuse op r (.no .authFail 0x0001))) ∧
  (∀ (s : State) (op : Nat) (r : Req) (x : Session), r.session ≠ 0 → s.cmd.desk.session r.session = some x → r.target = 0 →
    x.transport = r.transport → r.auth = false → s.gate op r = .stop (s.refuse op r (.no .authFail 0x0005))) ∧
  (∀ (s : State) (op : Nat) (r : Req) (k : Kept), r.session = 0 → r.transport = 0 → r.target = 0 → r.auth = false →
    op ≠ 0x0020 → s.tagPending r = false → (s.cmd.desk.transport 0).kept = some k → k.tag = r.tag → k.opcode = op →
    k.crc = r.crc op → s.gate op r =
      .stop ((s.bump Reg.CMD_DUP_CNT).send { k.reply with transport := r.transport, source := r.source })) ∧
  (∀ (s : State) (op : Nat) (r : Req) (a : Answer), r.target = 0 → r.transport < 8 →
    let t := s.finish op r a
    let rep := mkReply r op r.session (s.keyOf op r) false a.payload
    t.cmd.outbox = s.cmd.outbox ++ [rep] ∧ rep.tag = r.tag ∧ rep.opcode = op ∧ rep.payload = a.payload ∧
    (t.cmd.desk.transport r.transport).last = some (r.tag, a.status.code, op, r.session) ∧ t.ce = s.ce ∧
    (r.transport ≠ 0 ∨ s.ringOn 1 = false → t.mem = s.mem))

/-- The requests that any mode but SELFTEST and RECOVERY serves, and what each answers (R86, R249 to R257, R404, R437, R438,
R472, R473, R353).
Keys are never read out: a byte of block 0x81 other than KEY_SET reads as zero (R252).
The rules named are where the clauses come from; the statement says parts of them.
Where the spec is silent it rests on the model's choices in the assumption log, entries 4, 15, 20, 22, 32 and 41. -/
def Obligations.ReadingRequestsAndKeys : Prop :=
  (∀ (s : State) (r : Req) (u : State) (role : Option Role) (a : Option Armed),
     let row := fun (op : Nat) (x : Roles) (n : Nat) (i : Instr) (t : State) =>
       s.acts ⟨op, x, fixedLen n, allModes, false⟩ r u role a → exec i s = .next t
     (s.acts ⟨0x0000, .none, fixedLen 0, romModes, false⟩ r u role a → exec (.nopCmd r) s = .next (u.finish 0x0000 r .done)) ∧
     (s.acts ⟨0x0001, .none, fixedLen 0, romModes, false⟩ r u role a →
       exec (.ident r) s = .next (u.finish 0x0001 r (.okWith u.identity))) ∧
     row 0x0002 .any 0 (.resync r) ((u.summary r).1.finish 0x0002 r (.okWith (u.summary r).2)) ∧
     row 0x0003 rOMI 0 (.snap r) (u.snapshot.finish 0x0003 r (.okWith (leBytes 8 u.time.tick))) ∧
     (u.fld Reg.ESW_PTPSTAT_LOCKED = 1 → row 0x0004 rMI 8 (.timeSet r) (u.finish 0x0004 r (.conflict 0x08 0))) ∧
     (u.fld Reg.ESW_PTPSTAT_LOCKED ≠ 1 → row 0x0004 rMI 8 (.timeSet r)
       ((State.timeSource { u.setUtc (r.nat 0 8) with net.timeSet := true }).finish 0x0004 r .done)) ∧
     (r.nat 4 2 = 1 → regAddrOk (r.nat 0 4) = true →
       let x := u.readReg (pageOf (r.nat 0 4)) (offOf (r.nat 0 4))
       row 0x0010 rMI 8 (.regRead r) (x.1.finish 0x0010 r (.okWith (leBytes 4 x.2.toNat)))) ∧
     (∀ arr n, sigImage (r.nat 0 1) = some arr → r.nat 2 2 = n → 0 < n → n ≤ 507 → r.nat 4 4 + n ≤ 2 ^ 18 →
       let ids := (List.range n).map (fun i => r.nat 4 4 + i)
       let q := u.readMany arr .supervisor (ids.map (fun i => (u.program.dataLoc i).1) ++ ids.map (fun i => (statLoc i).1)).eraseDups
       row 0x0400 .any 8 (.sigRead r) (q.1.finish 0x0400 r (.okWith (ids.flatMap (q.1.sigEntry q.2))))) ∧
     row 0x0403 .any 4 (.forceList r) (u.finishChain 0x0403 r
       ((chunks 253 17 (u.img.forces.filter (fun f => decide (r.nat 0 4 ≤ f.id)))).map (fun l => l.flatMap Force.bytes))) ∧
     row 0x0500 .any 0 (.sfCheckRead r) (u.finish 0x0500 r (.okWith (leBytes 4 u.sfRecomputed.toNat ++
       leBytes 4 (u.sf.confirmed.getD (0, 0)).1.toNat ++ [BitVec.ofNat 8 (b2n u.confirmed), 0, 0, 0] ++
       leBytes 4 (u.sf.confirmed.getD (0, 0)).2))) ∧
     (r.nat 2 1 = 0 → 0 < r.nat 8 4 → r.nat 8 4 ≤ 4056 → confRangeBad (r.nat 0 2) (r.nat 4 4) (r.nat 8 4) = false →
       row 0x0202 .any 12 (.cfgRead r) (u.finish 0x0202 r (.okWith ((List.range (r.nat 8 4)).map
         (fun i => readConf u.cmd.config (r.nat 0 2) (r.nat 4 4 + i)))))) ∧
     row 0x0600 .any 0 (.logInfo r) (u.finish 0x0600 r (.okWith (u.logBlock .d (u.fld Reg.LOG_DROPCNT_D) ++
       u.logBlock .o (u.fld Reg.LOG_DROPCNT_O) ++ leBytes 4 u.cairn.lastRefresh ++ leBytes 4 (u.regNat 0x17 0x004)))) ∧
     (r.nat 0 1 ≤ 1 → 0 < r.nat 2 2 → r.nat 2 2 ≤ 63 → row 0x0601 .any 8 (.logRead r) (u.finish 0x0601 r
       ((if r.nat 0 1 = 0 then u.cairn.d else u.cairn.o).read (r.nat 4 4) (r.nat 2 2)))) ∧
     row 0x0900 .any 0 (.ageReport r) (u.finishChain 0x0900 r u.ageSections) ∧
     row 0x0901 .any 0 (.marginPlan r) (u.finish 0x0901 r (.okWith u.marginReply)) ∧
     row 0x0C00 .any 0 (.rdgInfo r) (u.finish 0x0C00 r (.okWith u.ridgeInfo))) ∧
  ((∀ (c : Sparse Byte) (off : Nat), off ≠ 0 → readConf c 0x81 off = 0) ∧
   (∀ (c : Sparse Byte) (d : Sparse Byte) (off : Nat), (∀ o ∈ [0x20, 0x40, 0x60],
       (confNat c 0x81 o 32 = 0 ↔ confNat d 0x81 o 32 = 0)) → readConf c 0x81 off = readConf d 0x81 off))

/-- The requests that change sessions, mode, registers, configuration, forces and safety functions (R84, R215, R216, R239,
R241, R250, R252, R360, R403, R405, R471).
The rules named are where the clauses come from; the statement says parts of them.
Where the spec is silent it rests on the model's choices in the assumption log, entries 27, 32, 43 and 44. -/
def Obligations.ChangingRequests : Prop :=
  ∀ (s : State) (r : Req) (u : State) (role : Option Role) (a : Option Armed),
    (s.acts ⟨0x0011, rMI, lenBetween 12 4060, allModes, false⟩ r u role a → r.payload.length = 12 → r.nat 0 2 = 1 →
      regAddrOk (r.nat 4 4) = true → sealedPage (pageOf (r.nat 4 4)) = false →
      let page := pageOf (r.nat 4 4)
      let off := offOf (r.nat 4 4)
      let v := BitVec.ofNat 32 (r.nat 8 4)
      let w := u.regWrite .packet page off v
      (u.ringClaim page off v 0xFFFFFFFF = none → exec (.regWrite r) s =
        .next (((if w.mode = u.mode then w else u.supersede.regWrite .packet page off v).abortWd
          (fun x => x = .packet)).finish 0x0011 r .done)) ∧
      (∀ n, u.ringClaim page off v 0xFFFFFFFF = some n →
        exec (.regWrite r) s = .next (u.finish 0x0011 r (.conflict 0x02 n)))) ∧
    (s.acts ⟨0x0020, .none, fixedLen 20, romModes, false⟩ r u role a → exec (.sessOpen r) s = .next (u.sessOpen r)) ∧
    (s.acts ⟨0x0021, .any, fixedLen 0, romModes, false⟩ r u role a →
      exec (.sessClose r) s = .next ((u.finish 0x0021 r .done).endSession r.atTrig r.session.toNat)) ∧
    (s.acts ⟨0x0100, .any, fixedLen 4, allModes, false⟩ r u role a → ∀ t, targetMode (r.nat 0 1) = some t →
      (t = .safe ∨ u.sup.modeWait = none) → u.modeRefusal t role = none →
      exec (.modeReq r) s = .next (u.supersede.modeGo t r)) ∧
    (s.acts ⟨0x0200, rMI, fixedLen 0, modesOf [.stopped, .config], false⟩ r u role a → u.mode = .stopped →
      exec (.cfgOpen r) s = .next (u.cfgOpen r)) ∧
    (s.acts ⟨0x0201, rMI, lenBetween 9 4064, modesOf [.config], false⟩ r u role a → u.ownsEdit r = true →
      u.cmd.longOp = none → confRangeBad (r.nat 0 2) (r.nat 4 4) (r.payload.length - 8) = false →
      (r.nat 0 2 ≠ 0x81 ∧ r.nat 0 2 ≠ 0x82 ∨ role = some .integrator) →
      exec (.cfgWrite r) s = .next ((u.editBytes (r.nat 0 2) (r.nat 4 4) (r.payload.drop 8)).finish 0x0201 r .done)) ∧
    (∀ (flash : Bool) (e : Edit), s.acts ⟨0x0203, rMI, fixedLen 0, modesOf [.config], true⟩ r u role a → u.cmd.edit = some e →
      u.ownsEdit r = true →
      exec (.cfgCommit r flash) s = .next (u.beginLong 0x0203 r true (u.commitAnswer e.bytes flash))) ∧
    (s.acts ⟨0x0401, rMI, fixedLen 8, modesOf [.test], false⟩ r u role a →
      let id := r.nat 0 4 % 2 ^ 18
      let word := bitAt (r.nat 0 4) 18 == 1
      u.forceRefusal id word = none → exec (.sigForce r) s = .next ((u.waitForce (.set ⟨id, word, BitVec.ofNat 32 (r.nat 4 4),
        u.forceProgram.scope id, (role.map Role.code).getD 0, 0⟩)).finish 0x0401 r .done)) ∧
    (s.acts ⟨0x0402, rMI, fixedLen 8, modesOf [.test], false⟩ r u role a → exec (.sigUnforce r) s = .next
      ((u.waitForce (if r.nat 4 4 = 1 then .removeAll else .remove (r.nat 0 4 % 2 ^ 18))).finish 0x0402 r .done)) ∧
    (s.acts ⟨0x0501, rI, fixedLen 4, modesOf [.stopped], false⟩ r u role a →
      let v := BitVec.ofNat 32 (r.nat 0 4)
      (v = u.sfCheck → exec (.sfConfirm r) s =
        .next ((u.supersede.putConfirmed (some (v, u.opSec))).finish 0x0501 r (.okWith (leBytes 4 v.toNat)))) ∧
      (v ≠ u.sfCheck → exec (.sfConfirm r) s = .next (u.finish 0x0501 r (.no .unconfirmed 0x0001)))) ∧
    (s.acts ⟨0x0502, rOMI, fixedLen 8, allModes, false⟩ r u role a → u.sfResetRefusal (r.nat 0 1) (r.nat 4 4) = none →
      u.ssState (r.nat 0 1) ≠ stRunning →
      exec (.sfReset r) s = .next ((u.setSs (r.nat 0 1) stRunning).finish 0x0502 r .done)) ∧
    (s.acts ⟨0x0800, rMI, fixedLen 4, modesOf [.stopped], true⟩ r u role a → u.pairRoleRefusal (r.nat 0 1) = none →
      u.sup.autoOpen = false →
      u.col.partner.isSome = true →
      exec (.pairRole r) s = .next (u.beginLong 0x0800 r false .done).pairRoleGo) ∧
    (s.acts ⟨0x0902, rI, fixedLen 0, modesOf [.stopped], true⟩ r u role a → u.pwr.op < 3 → u.sup.autoOpen = false →
      exec (.marginStep r) s = .next ((u.stepTo (u.pwr.op + 1)).beginLong 0x0902 r true
        (.okWith [BitVec.ofNat 8 (u.pwr.op + 1), 0, 0, 0])))

/-- The requests that load programs and firmware, and the dangerous ones at their step 1 (R58 to R66, R189, R239, R248, R373,
R445 to R448, R474 to R481).
The rules named are where the clauses come from; the statement says parts of them.
Where the spec is silent it rests on the model's choices in the assumption log, entries 8, 29, 32, 43 and 44. -/
def Obligations.LoadingRequests : Prop :=
  ∀ (s : State) (r : Req) (u : State) (role : Option Role) (a : Option Armed),
    (∀ flash, s.acts ⟨0x0300, rMI, fixedLen 12, prgModes, r.nat 9 1 != 0⟩ r u role a → r.nat 8 1 = 0 → r.nat 9 1 = 0 →
      0 < r.nat 4 4 → r.nat 4 4 ≤ 8 * slotWords → u.slotBusy = none →
      exec (.prgBegin r flash) s = .next ((u.supersede.beginHost (BitVec.ofNat 32 (r.nat 0 4)) (r.nat 4 4) 0).finish 0x0300 r
        .done)) ∧
    (∀ flash, s.acts ⟨0x0301, rMI, lenBetween 8 4060, prgModes, false⟩ r u role a → r.nat 0 4 % 4 = 0 →
      r.payload.length % 4 = 0 → u.slotBusy = none → u.sup.flashLoad = none →
      let q := u.slotBlock (r.nat 0 4) (r.payload.drop 4)
      exec (.prgBlock r flash) s = .next (q.1.finish 0x0301 r q.2)) ∧
    (∀ im, s.acts ⟨0x0302, rMI, fixedLen 4, prgModes, true⟩ r u role a →
      let q := u.verifySlot (BitVec.ofNat 32 (r.nat 0 4)) im
      exec (.prgVerify r im) s = .next (q.1.beginLong 0x0302 r true q.2)) ∧
    (∀ standby, s.acts ⟨0x0303, rMI, fixedLen 4, prgModes, true⟩ r u role a →
      let id := BitVec.ofNat 32 (r.nat 0 4)
      u.switchRefusal id = none → u.standbyMissing standby id = false →
      (∀ p, u.mode = .stopped → u.sup.autoOpen = false → (u.slot u.otherSlot).image = some p →
        exec (.prgSwitch r standby) s = .next ((u.switchNow p).beginLong 0x0303 r true .done)) ∧
      (u.mode ≠ .stopped → ∃ t, exec (.prgSwitch r standby) s = .next t ∧ t.fld Reg.CE_STAT_SW_PENDING = 1 ∧
        t.fld Reg.CE_SWSTAT_STATE = 2 ∧ t.ce.switchSince = some u.time.tick ∧ t.cmd.longOp.isSome = true ∧
        t.ce.active = u.ce.active)) ∧
    (s.acts ⟨0x0700, rI, fixedLen 2048, updModes .stopped, false⟩ r u role a → u.sup.update = none →
      beginRefusal u.supRules r.payload = none → u.mode = .recovery → u.sup.autoOpen = false →
      exec (.updBegin r) s = .next (State.finish { u with sup.update := some ⟨r.session, r.transport, r.payload, []⟩ } 0x0700 r
        (.okWith (leBytes 1 u.sup.fwCounter ++ leBytes 1 (hdrSvn r.payload) ++ [0, 0])))) ∧
    (∀ x, s.acts ⟨0x0701, rI, lenBetween 5 4036, updModes .update, false⟩ r u role a → u.sup.update = some x →
      ownsUpdate u.sup.update r = true → chunkBad x (r.nat 0 4) (r.payload.drop 4) = false → u.sup.fwStore = .erased →
      let q := appendChunk x (r.payload.drop 4)
      exec (.updBlock r true) s = .next (State.finish { u with sup.update := some q.1 } 0x0701 r q.2)) ∧
    (∀ x, s.acts ⟨0x0702, rI, fixedLen 4, updModes .update, true⟩ r u role a → u.sup.update = some x →
      ownsUpdate u.sup.update r = true → activateRefusal u.supRules x 0x0701 = none → u.confirms 0x0702 r a →
      ∃ t, exec (.updActivate r true) s = .next t ∧ t.sup.fwStore = .image x.header x.body ∧
        t.cmd.longOp = some ⟨0x0702, r, 0, 0, 0, [], true⟩ ∧ t.sup.update = none) ∧
    (s.acts ⟨0x0801, rMI, fixedLen 4, modesOf [.run, .standby], true⟩ r u role a → partnerSwap r = false →
      u.confirms 0x0801 r a → u.inPair = true → u.colState = colSyncActive →
      exec (.pairSwap r) s = .next (u.beginLong 0x0801 r false .done).setSwap) ∧
    (∀ l, s.acts ⟨0x0802, rI, fixedLen 8, modesOf [.stopped], true⟩ r u role a → u.confirms 0x0802 r a →
      laneOf (r.nat 4 1) = some l → u.restoreRefusal (r.nat 4 1) = none → u.sup.autoOpen = false →
      exec (.laneRestore r) s = .next ((u.restoreLane l).beginLong 0x0802 r false .done)) ∧
    (s.acts ⟨0x0A00, rMI, fixedLen 16, modesOf [.test, .run], false⟩ r u role a →
      (u.mode = .test ∨ u.fi.permitEnd.isSome) → r.nat 0 1 < linkCount → 1 ≤ r.nat 2 1 → r.nat 2 1 ≤ 3 →
      actionOk (r.nat 0 1) (r.nat 1 1) (r.nat 8 4) = true → r.nat 3 1 = 0 → 1 ≤ r.nat 4 4 → r.nat 4 4 ≤ 65535 →
      u.fiClaimed r (r.nat 0 1) = false →
      exec (.fiSet r) s = .next (((u.fiArm (r.nat 0 1) (r.nat 1 1) (r.nat 2 1) 0 (r.nat 4 4) (r.nat 8 4) 0 r.payload).finish
        0x0A00 r .done).deliverReleased)) ∧
    (s.acts ⟨0x0A01, rMI, fixedLen 4, allModes, false⟩ r u role a →
      (r.nat 0 1 = 0xFF → exec (.fiClear r) s = .next (((u.fiRemoveAll 1).finish 0x0A01 r .done).deliverReleased)) ∧
      (r.nat 0 1 < linkCount → exec (.fiClear r) s =
        .next (((u.fiRemove (r.nat 0 1) 1).finish 0x0A01 r .done).deliverReleased))) ∧
    (s.acts ⟨0x0A02, rI, fixedLen 4, modesOf [.run], false⟩ r u role a → u.confirms 0x0A02 r a →
      exec (.fiPermit r) s = .next (u.fiPermit.finish 0x0A02 r .done))

/-- The requests that Trig serves (R426 to R428, R452).
The rules named are where the clauses come from; the statement says parts of them.
Where the spec is silent it rests on the model's choices in the assumption log, entry 31. -/
def Obligations.TrigRequests : Prop :=
  ∀ (s : State) (r : Req) (u : State) (a : Option Armed),
    (s.actsAtTrig 0x0B00 .none (fixedLen 0) r u a → exec (.empStatus r) s = .next (u.finish 0x0B00 r
      (.okWith ((List.range 23).flatMap (fun i => leBytes 4 (u.regNat 0x16 (4 + 4 * i))))))) ∧
    (s.actsAtTrig 0x0B01 rOT (fixedLen 8) r u a → 0 < r.nat 4 2 → r.nat 4 2 ≤ 31 →
      exec (.empRead r) s = .next (u.finish 0x0B01 r (.okWith (u.trig.read (r.nat 0 4) (r.nat 4 2))))) ∧
    (s.actsAtTrig 0x0B02 rOT (fixedLen 4) r u a → r.nat 0 4 < u.trig.nextSeq →
      let t := (u.onTrig (fun t => t.ack (r.nat 0 4))).trigPage
      exec (.empAck r) s = .next (t.finish 0x0B02 r (.okWith (leBytes 4 t.trig.acked)))) ∧
    (s.actsAtTrig 0x0B03 rT (lenBetween 4 64) r u a →
      exec (.empParam r) s = .next ((u.empParamOp r).1.finish 0x0B03 r (u.empParamOp r).2)) ∧
    (s.actsAtTrig 0x0B04 .none (fixedLen 0) r u a → exec (.empSwid r) s = .next (u.finish 0x0B04 r
      (.okWith (leBytes 4 u.trig.fwVersion.toNat ++ leBytes 1 u.trig.fwCounter ++ [0, 0, 0] ++ leBytes 4 u.trig.swid.toNat ++
        edPublic u.trig.secret)))) ∧
    (s.actsAtTrig 0x0B05 rT (fixedLen 2048) r u a → u.trig.sealOpen = true → u.trig.update = none →
      beginRefusal u.trig.rules r.payload = none →
      exec (.empUpdBegin r) s = .next ((u.onTrig (fun t => { t with update := some ⟨r.session, r.transport, r.payload, []⟩ })).finish
        0x0B05 r (.okWith (leBytes 1 u.trig.fwCounter ++ leBytes 1 (hdrSvn r.payload) ++ [0, 0])))) ∧
    (∀ x, s.actsAtTrig 0x0B06 rT (lenBetween 5 4036) r u a → u.trig.sealOpen = true → u.trig.update = some x →
      ownsUpdate u.trig.update r = true → chunkBad x (r.nat 0 4) (r.payload.drop 4) = false →
      let q := appendChunk x (r.payload.drop 4)
      exec (.empUpdBlock r) s = .next ((u.onTrig (fun t => { t.setBank (!t.active1) .erased with update := some q.1 })).finish
        0x0B06 r q.2)) ∧
    (∀ x, s.actsAtTrig 0x0B07 rT (fixedLen 4) r u a → u.trig.sealOpen = true → u.trig.update = some x →
      ownsUpdate u.trig.update r = true → activateRefusal u.trig.rules x 0x0B06 = none → u.confirms 0x0B07 r a →
      exec (.empUpdActivate r) s = .next ((((((u.onTrig (fun t => t.endEarly 0)).trigPeriod 0).onTrig
        (fun t => t.activate x)).finish 0x0B07 r .done).onTrig Trig.stop).trigPage)) ∧
    (∀ i, (i = .empUpdBegin r ∧ s.actsAtTrig 0x0B05 rT (fixedLen 2048) r u a) ∨
        (i = .empUpdActivate r ∧ s.actsAtTrig 0x0B07 rT (fixedLen 4) r u a) → u.trig.sealOpen = false →
      ∃ t op, exec i s = .next t ∧ t = u.finish op r (.no .sealed 0x0001))

/-- Packets and sessions (R237, R238, R241, R244, R248): bytes without the magic are counted and dropped, a wrong check code is
answered BAD_CRC, a reserved target BAD_OPCODE; a packet for another target goes on; what has timed out ends.
The rules named are where the clauses come from; the statement says parts of them.
Where the spec is silent it rests on the model's choices in the assumption log, entries 32, 41 and 46. -/
def Obligations.PacketsAndTimeouts : Prop :=
  (∀ (s : State) (t n : Nat) (f : Bool) (b : List Byte), s.deaf t f = false → (s.arrival t n f b).2 = .here →
    let u := (s.arrival t n f b).1
    (b.length < 16 ∨ fieldAt b 0 2 ≠ 0xDA5E → exec (.packetReject t n f b) s = .next (u.bump Reg.CMD_FRAMEERR_CNT)) ∧
    (let r := reqOf t n f b
     let len := fieldAt b 10 2
     16 ≤ b.length → fieldAt b 0 2 = 0xDA5E → bitAt (fieldAt b 3 1) 0 = 0 → len ≤ 4064 →
     b.length = len + 16 + 16 * b2n r.auth → (crc32c (b.take (12 + len))).toNat ≠ fieldAt b (12 + len) 4 →
     exec (.packetReject t n f b) s = .next (u.refuse (fieldAt b 4 2) r (.no .badCrc 0)))) ∧
  (∀ (s : State) (t n : Nat) (b : List Byte) (op : Nat) (r : Req), s.deaf t false = false → (s.arrival t n false b).2 = .full →
    framing t n false b = .passed op r →
    exec (.packetReject t n false b) s = .next ((s.arrival t n false b).1.refuse op r (.no .busy 0xFFFC))) ∧
  (∀ (s : State) (op : Nat) (r : Req), s.receives op r → r.forwarded = false → r.target ≠ 0 →
    let u := s.received op r
    u.mode ≠ .selftest → u.mode ≠ .recovery →
    exec (.packetForward op r) s =
      .next (if targetKnown r.target then u.forwardPacket op r else u.refuse op r (.no .badOpcode 0xFF03))) ∧
  (∀ (s : State) (x : Session) (p : Armed), s.cmd.desk.sessions = [x] → x.armed = some p → p.at_ + 10000000000 < s.opNs →
    ∃ t, exec (.dangerousArmTimeout false x.num) s = .next t ∧ t.cmd.desk.sessions = [{ x with armed := none }] ∧
      t.fld Reg.CMD_STAT_ARMED = 0 ∧ t.mode = s.mode ∧ t.mem = s.mem) ∧
  (∀ (s : State) (x : Session), s.cmd.desk.sessions = [x] → x.lastUsed + s.sessionIdle false * 1000000000 ≤ s.opNs →
    s.cmd.edit = none → s.sup.update = none → ∃ t, exec (.sessionIdleTimeout false x.num) s = .next t ∧
      t.cmd.desk.sessions = [] ∧ t.fld Reg.CMD_STAT_SESSIONS = 0 ∧ t.mode = s.mode ∧ t.mem = s.mem) ∧
  (∀ (s : State) (n : Fin 8) (k : Nat), (s.cmd.desk.transport n.val).lockedAt = some k →
    (s.opNs < k + 60000000000 → exec (.authLockExpiry false n) s = .next s) ∧
    (k + 60000000000 ≤ s.opNs → ∃ t, exec (.authLockExpiry false n) s = .next t ∧
      (t.cmd.desk.transport n.val).lockedAt = none ∧ t.bit Reg.CMD_STAT_LOCKED n.val = false)) ∧
  (∀ (s : State) (l : LongOp), s.cmd.longOp = some l → l.background = true →
    let t := (State.flag { s with cmd.longOp := none } Reg.CMD_STAT_LONG_OP false).finish l.opcode l.req
      ⟨statusOf l.status, l.detail, l.ext, l.payload⟩
    (l.opcode ≠ 0x0203 ∧ l.opcode ≠ 0x0702 ∨ l.status ≠ 0 → exec .longOperationComplete s = .next t) ∧
    (l.opcode = 0x0203 → l.status = 0 → exec .longOperationComplete s = .next t.commitEdit) ∧
    (l.opcode = 0x0702 → l.status = 0 → exec .longOperationComplete s = .next { t with sup.restartDue := true }))

/-! ### Registers -/

/-- The access codes (R260, R261, R263, R265, R388): RO ignores a write, W1C clears the bits written as 1, RWC takes a write
of the whole register, RW takes the value, RWS keeps the value pending, and with COMPAT a write while the instance is enabled
changes nothing but WIGN; what is pending applies at once while the instance is disabled; FILTER and DIAG of a claimed channel
are read-only.
REGISTER_WRITE and the commands that write or read one register (R33, R236, R259, R262, R272, R279, R281, R285, R319,
R349), by a source with no dangerous write pending: what each does, and that a write to an unassigned or sealed page does
nothing.
The rules named are where the clauses come from; the statement says parts of them.
Where the spec is silent it rests on the model's choices in the assumption log, entries 42 and 45. -/
def Obligations.RegisterAccessAndCommands : Prop :=
  ((∀ (s : State) (i : Inst) (k : Nat) (v : Word), s.enabled i = false → s.staged = [(k, v)] →
     instOf (keyPage k) (keyOff k) = some i → (∀ n, i ≠ .ring n ∧ i ≠ .can n ∧ i ≠ .ser n) →
     (s.settleInst i).fld k = v ∧ (s.settleInst i).staged = []) ∧
   ∀ (s : State) (page off : Nat) (on : Option Bool) (v : Word) (f : Field), f ∈ fieldsAt page off →
     let k := fk page off f.lo
     let m : Word := 0xFFFFFFFF
     let t := s.writeField page off on v m f
     let mask := BitVec.ofNat 32 (2 ^ f.width - 1)
     (f.acc = .ro → t = s) ∧
     (f.lo + f.width ≤ 32 → 0 < f.width →
       (f.acc = .w1c → t.fld k = s.fld k &&& ~~~ ((v >>> f.lo) &&& mask)) ∧
       (f.acc = .rwc → t.fld k = (v >>> f.lo) &&& mask) ∧
       (f.acc = .rw → instOf page off = none → (s.fld k &&& ~~~ mask) = 0 → t.fld k = (v >>> f.lo) &&& mask) ∧
       (f.acc = .rws → page ≠ 0x04 → s.safetyOwned page off = false → (s.pend k &&& ~~~ mask) = 0 →
         (on ≠ some true ∨ s.compat page = false → t.fld k = s.fld k ∧ t.pend k = (v >>> f.lo) &&& mask) ∧
         (on = some true → s.compat page = true → t.fld k = s.fld k ∧ t.staged = s.staged ∧ t.fld (fk page 4 31) = 1))) ∧
     (f.acc = .rws → s.safetyOwned page off = true → t = s)) ∧
  ((∀ (s : State) (src : WSrc) (page off : Nat) (v : Word), off < 0x1000 → off % 4 = 0 →
     (mayWrite src page = true → exec (.registerWrite src page off v) s = .next (s.regWrite src page off v)) ∧
     (mayWrite src page = false → exec (.registerWrite src page off v) s = .next s)) ∧
   (∀ (s : State) (src : WSrc) (v : Word), s.wd = [] →
     (mayWrite src 0x1A = true → v.getLsbD 0 = true →
       exec (.cmdDoorbell src v) s = .next (s.processAll 0 (s.ringOwned 0))) ∧
     (mayWrite src 0x1A = false ∨ v.getLsbD 0 = false ∨ s.outReady 0 = false → exec (.cmdDoorbell src v) s = .next s) ∧
     (v.getLsbD 0 = true → exec (.sysSnap src v) s = .next s.snapshot) ∧
     (v.getLsbD 0 = false → exec (.sysSnap src v) s = .next s) ∧
     (s.ce.store = [] → exec (.rdgIrq src v) s = .next (s.sendIrq v)) ∧
     (∀ c, 1 ≤ c → c ≤ 8 → s.canOff c = true → ∃ t, exec (.canRecover src c) s = .next t ∧ t.canOff c = false ∧
       t.fld (Reg.CAN_ECR_TEC c) = 0 ∧ t.fld (Reg.CAN_ECR_REC c) = 0 ∧ t.fld (Reg.CAN_ECR_STATE c) = 0 ∧ t.mem = s.mem)) ∧
   (∀ s : State, exec .ceTickloRead s = .next { s with time.tickHi := some (BitVec.ofNat 32 (s.time.tick / 2 ^ 32)) } ∧
     exec .encPpsinloRead s = .next { s with net.ppsHi := some (s.fld Reg.ENC_PPSINHI_TIME) }) ∧
   (∀ (s : State) (src : WSrc) (n : Nat) (v : Word), n < 32 → s.wd = [] → s.staged = [] → s.ce.store = [] → (∀ m, s.holdOf m = []) →
     let count := v.toNat % 0x2000
     ((n ≠ 28 ∧ n ≠ 29) ∨ src = .supervisor →
       (s.ringOwned n + count ≤ s.ringLen n →
         exec (.rngPost src n v) s = .next (s.setFld (Reg.RNG_PTR_TAIL n) (BitVec.ofNat 32 ((s.ringTail n + count) % 65536)))) ∧
       (s.ringLen n < s.ringOwned n + count →
         exec (.rngPost src n v) s = .next (s.setBit (Reg.RNG_EVT2_POSTERR (n / 16)) (ringBit n)))) ∧
     (n = 28 ∨ n = 29 → src ≠ .supervisor →
       exec (.rngPost src n v) s = .next (s.setBit (Reg.RNG_EVT2_POSTERR (n / 16)) (ringBit n))) ∧
     (s.ringHalted n = true → sget s.ring.inHand n = none → exec (.resume src n) s = .next (s.ringResume n)) ∧
     (s.ringHalted n = true → sget s.ring.inHand n = none →
       exec (.skip src n) s = .next ((s.ringResume n).complete n (s.rawDesc n) .abandoned s.descTime))))

/-- Dangerous registers (R226, R266, R267): the value is held, and takes effect with the write of its complement to the
complement address by the same source; any other write of that source first discards it and reports it.
The rules named are where the clauses come from; the statement says parts of them.
Where the spec is silent it rests on the model's choices in the assumption log, entry 42. -/
def Obligations.DangerousRegisters : Prop :=
  ∀ (s : State) (src : WSrc) (v w : Word),
    (s.wd = [] → exec (.sysSafereq src false v) s = .next { s with wd := [⟨src, 0, 0x40, v⟩] }) ∧
    (s.wd = [⟨src, 0, 0x40, 0x00005AFE⟩] → s.mode ≠ .safe → s.mode ≠ .recovery → w = ~~~ (0x00005AFE : Word) →
      ∃ t, exec (.sysSafereq src true w) s = .next t ∧ t.mode = .safe ∧ t.fld Reg.SYS_SAFE_CAUSE = 0x0A) ∧
    (s.wd = [⟨src, 0, 0x40, v⟩] → w ≠ ~~~ v →
      ∃ t, exec (.sysSafereq src true w) s = .next t ∧ t.mode = s.mode ∧ t.wd = [] ∧ t.fld Reg.SYS_EVT_WD_ABORT = 1 ∧
        t.fld Reg.SYS_WDABORT_CNT = satAdd (s.fld Reg.SYS_WDABORT_CNT) 1 ∧ t.mem = s.mem) ∧
    (mayWrite src 0x15 = true →
      (s.wd = [] → exec (.sfStopreq src false v) s = .next { s with wd := [⟨src, 0x15, 0x40, v⟩] }) ∧
      (s.wd = [⟨src, 0x15, 0x40, v⟩] → w = ~~~ v → ∃ t, exec (.sfStopreq src true w) s = .next t ∧ t.wd = [] ∧
        t.fld Reg.SF_STOPREQ_REQ = v &&& 0xF ∧ t.mode = s.mode ∧ t.mem = s.mem)) ∧
    (mayWrite src 0x15 = false → exec (.sfStopreq src false v) s = .next s)

/-- ENABLE, COMPAT and the end of a shutdown (R265, R271, R286, R301, R327, R344, R347, R388), by a source with no dangerous
write pending.
The rules named are where the clauses come from; the statement says parts of them.
Where the spec is silent it rests on the model's choices in the assumption log, entries 34, 42 and 45. -/
def Obligations.EnablesAndShutdown : Prop :=
  (∀ (s : State) (src : WSrc) (n : Nat) (v : Word), n < 32 → s.wd = [] → s.staged = [] → Inst.ring n ∉ s.bus.shutting →
    (∀ m, s.holdOf m = []) →
    (s.fld (Reg.RNG_CFG_ENABLE n) = 0 → v.getLsbD 0 = true → ∃ t, exec (.ringEnableWrite src n v) s = .next t ∧
      t.fld (Reg.RNG_CFG_ENABLE n) = 1 ∧ t.fld (Reg.RNG_RSTAT_IDLE n) = 0 ∧ t.mem = s.mem) ∧
    (s.fld (Reg.RNG_CFG_ENABLE n) = 1 → v.getLsbD 0 = false → ∃ t, exec (.ringEnableWrite src n v) s = .next t ∧
      t.fld (Reg.RNG_CFG_ENABLE n) = 0 ∧ t.fld (Reg.RNG_RSTAT_SHUTTING n) = 1 ∧ Inst.ring n ∈ t.bus.shutting ∧
      t.holdOf n = [] ∧ t.mem = s.mem)) ∧
  (∀ (s : State) (src : WSrc) (n : Nat) (v : Word), 1 ≤ n → n ≤ 63 → s.wd = [] → Inst.brg n ∉ s.bus.shutting →
    sget s.staged (Reg.BRG_CFG_ENABLE n) = none →
    (s.isManager = true → s.fld (Reg.BRG_CFG_ENABLE n) = 0 → v.getLsbD 0 = true →
      ∃ t, exec (.brgEnableWrite src n v) s = .next t ∧ t.fld (Reg.BRG_CFG_ENABLE n) = 1 ∧
        t.fld (Reg.BRG_STAT_STATE n) = (if s.online n = true then 1 else 2) ∧ t.mem = s.mem) ∧
    (s.isManager = true → s.fld (Reg.BRG_CFG_ENABLE n) = 1 → v.getLsbD 0 = false →
      ∃ t, exec (.brgEnableWrite src n v) s = .next t ∧ t.fld (Reg.BRG_CFG_ENABLE n) = 0 ∧ Inst.brg n ∈ t.bus.shutting ∧
        (t.bctx n).line = none ∧ t.mem = s.mem) ∧
    (s.isManager = false → ∃ t, exec (.brgEnableWrite src n v) s = .next t ∧
      t.fld (Reg.BRG_CFG_ENABLE n) = s.fld (Reg.BRG_CFG_ENABLE n) ∧ t.bus.shutting = s.bus.shutting)) ∧
  (∀ (s : State) (src : WSrc) (n : Nat) (v : Word), 1 ≤ n → n ≤ 64 → s.wd = [] → Inst.fch n ∉ s.bus.shutting →
    sget s.staged (Reg.FCH_CFG_ENABLE n) = none →
    s.badCompat 0x13 (0x10 * (n - 1)) v 0xFFFFFFFF = false →
    (s.claimed n = false → s.fld (Reg.FCH_CFG_ENABLE n) = 0 → v.getLsbD 0 = true →
      ∃ t, exec (.fchEnableWrite src n v) s = .next t ∧ t.fld (Reg.FCH_CFG_ENABLE n) = 1 ∧ t.mem = s.mem) ∧
    (s.claimed n = false → s.fld (Reg.FCH_CFG_ENABLE n) = 1 → v.getLsbD 0 = false →
      ∃ t, exec (.fchEnableWrite src n v) s = .next t ∧ t.fld (Reg.FCH_CFG_ENABLE n) = 0 ∧ Inst.fch n ∈ t.bus.shutting ∧
        t.mem = s.mem) ∧
    (s.claimed n = true → ∃ t, exec (.fchEnableWrite src n v) s = .next t ∧
      t.fld (Reg.FCH_CFG_ENABLE n) = s.fld (Reg.FCH_CFG_ENABLE n) ∧ t.bus.shutting = s.bus.shutting)) ∧
  (∀ (s : State) (src : WSrc) (v : Word), s.wd = [] → Inst.ridge ∉ s.bus.shutting →
    sget s.staged Reg.RDG_CTRL_ENABLE = none → sget s.staged Reg.RDG_STAT_STATE = none →
    (s.isManager = true ∨ s.isWorker = true → s.fld Reg.RDG_CTRL_ENABLE = 0 → v.getLsbD 0 = true →
      ∃ t, exec (.rdgEnableWrite src v) s = .next t ∧ t.fld Reg.RDG_CTRL_ENABLE = 1 ∧ t.rdgState = 1) ∧
    (s.isManager = true ∨ s.isWorker = true → s.fld Reg.RDG_CTRL_ENABLE = 1 → v.getLsbD 0 = false →
      ∃ t, exec (.rdgEnableWrite src v) s = .next t ∧ t.fld Reg.RDG_CTRL_ENABLE = 0 ∧ Inst.ridge ∈ t.bus.shutting) ∧
    (s.isManager = false → s.isWorker = false → ∃ t, exec (.rdgEnableWrite src v) s = .next t ∧
      t.fld Reg.RDG_CTRL_ENABLE = s.fld Reg.RDG_CTRL_ENABLE ∧ t.rdgState = s.rdgState)) ∧
  (∀ (s : State) (src : WSrc) (page : Nat) (v : Word), compatPage page = true → s.wd = [] →
    sget s.staged (fk page 0 31) = none →
    s.fld (fk page 0 31) = b2w (s.compat page) →
    ((instsOf page).any s.enabled = false → ∃ t, exec (.compatWrite src page v) s = .next t ∧
      t.fld (fk page 0 31) = b2w (v.getLsbD 31)) ∧
    ((instsOf page).any s.enabled = true → v.getLsbD 31 ≠ s.compat page →
      exec (.compatWrite src page v) s = .next (s.wign page))) ∧
  (∀ (s : State) (i : Inst), i ∈ s.bus.shutting → s.mayEnd i = true → i ≠ .ridge → s.enabled i = false →
    ∃ t, exec (.shutdownComplete i) s = .next t ∧ i ∉ t.bus.shutting) ∧
  (∀ (s : State) (n : Nat), Inst.brg n ∈ s.bus.shutting → s.mayEnd (.brg n) = true →
    ∃ t, exec (.shutdownComplete (.brg n)) s = .next t ∧ Inst.brg n ∉ t.bus.shutting ∧ t.fld (Reg.BRG_STAT_SHUTTING n) = 0 ∧
      t.fld (Reg.BRG_STAT_STATE n) = (if s.enabled (.brg n) = true then (if s.online n = true then 1 else 2) else 0)) ∧
  (∀ s : State, Inst.ridge ∈ s.bus.shutting → s.isManager = true → s.enabled .ridge = false →
    (∀ n, n < 64 → s.online n = false) →
    ∃ t, exec (.shutdownComplete .ridge) s = .next t ∧ Inst.ridge ∉ t.bus.shutting ∧ t.fld Reg.RDG_STAT_SHUTTING = 0 ∧
      t.rdgState = 0)

/-! ### Field channels and safety functions -/

/-- FIELD_SCAN and the events of field channels and groups (R379, R381 to R384, R386 to R388, R399). A filtered input follows its
samples once FILTER in a row agree; a scan applies staged fields, samples, writes the groups, drives the outputs and
evaluates the safety functions, in this order; an output is driven by its valid committed command; a protection or a
condition sets its status and sticky bits and counts; a missing group has every output off; a report at a channel of a safe
output pair is an output fault of that pair (R399).
The rules named are where the clauses come from; the statement says parts of them.
Where the spec is silent it rests on the model's choices in the assumption log, entries 5 and 42. -/
def Obligations.FieldChannels : Prop :=
  (∀ (len : Nat) (x raw filt : Bool) (run : Nat),
    (filterStep len x raw filt run).1 = x ∧
    (x = raw → run + 1 < filterLen len → (filterStep len x raw filt run).2.1 = filt) ∧
    (x = raw → filterLen len ≤ run + 1 → (filterStep len x raw filt run).2.1 = x) ∧
    (x ≠ raw → 1 < filterLen len → (filterStep len x raw filt run).2 = (filt, 1))) ∧
  (∀ (s : State) (scan : Scan),
    let s1 := s.applyStaged (fun k => keyPage k == 0x13 || keyPage k == 0x14)
    let s2 := (List.range 6).foldl (fun s i => s.scanEncoder (i + 1) scan.into (scan.encoders.getD i .none)) s1
    let s3 := (List.range 8).foldl (fun s i => s.sampleSupply (i + 1) (scan.groups.getD i ⟨0, 0⟩)) s2
    let s4 := (List.range 64).foldl (fun s i => s.sampleChan (i + 1) (scan.pins.getD i ⟨0, 0, false⟩)) s3
    let s5 := ((List.range 8).foldl (fun s i => s.groupBits (i + 1)) s4).shutInputs
    let s6 := (List.range 8).foldl (fun s i => s.writeGroup (i + 1)) s5
    let s7 := (List.range 64).foldl (fun s i => s.driveChan (i + 1)) s6
    exec (.fieldScan scan) s =
      .next (((List.range 4).foldl (fun s i => s.scanLines (i + 1) scan.lines) s7).scanSafety scan.evalMis)) ∧
  (∀ (s : State) (n : Nat), 1 ≤ n → n ≤ 64 → s.chanMode n = 3 ∨ s.chanMode n = 4 →
    let r := s.outputCmd n
    let u := r.1.flag (Reg.FCH_STAT_INVALID_CMD n) (!r.2.2)
    (s.chanOn n = true → u.latched n = false → (s.driveChan n).fld (Reg.FCH_STAT_DRIVE n) =
      b2w (u.drives && r.2.1 && r.2.2 && !u.missing (groupOfChan n) && !(u.chan n).waits)) ∧
    (s.chanOn n = false → (s.driveChan n).fld (Reg.FCH_STAT_DRIVE n) = 0)) ∧
  (∀ (s : State) (n : Nat), 1 ≤ n → n ≤ 64 →
    (modeIsOutput (s.chanMode n) = true → 10 ≤ (s.chan n).limit → s.has n .overload = false →
      ∃ t, exec (.outputOverload n) s = .next t ∧ t.fld (Reg.FCH_STAT_OVERLOAD n) = 1 ∧ t.fld (Reg.FCH_DIAG_OVERLOAD n) = 1 ∧
        t.fld (Reg.FCH_FLTCNT n) = satAdd (s.fld (Reg.FCH_FLTCNT n)) 1 ∧
        t.mem = s.mem ∧ t.mode = s.mode ∧
        ((∀ k ∈ upTo 8, s.soA k = 0 ∨ (s.soA k ≠ n ∧ s.soB k ≠ n)) →
          t.fld (Reg.FCH_STAT_DRIVE n) = s.fld (Reg.FCH_STAT_DRIVE n)) ∧
        (∀ k ∈ upTo 8, s.soA k ≠ 0 → s.soA k = n ∨ s.soB k = n →
          (∀ j ∈ upTo 8, j ≠ k → s.soA j = 0 ∨ (s.soA j ≠ n ∧ s.soB j ≠ n)) → (t.so k).fault = true)) ∧
    (modeIsOutput (s.chanMode n) = true → s.fld (Reg.FCH_STAT_DRIVE n) = 1 →
      ∃ t, exec (.outputThermal n) s = .next t ∧ t.fld (Reg.FCH_STAT_DRIVE n) = 0 ∧ t.fld (Reg.FCH_STAT_THERMAL n) = 1 ∧
        t.fld (Reg.FCH_DIAG_THERMAL n) = 1 ∧ t.fld (Reg.FCH_FLTCNT n) = satAdd (s.fld (Reg.FCH_FLTCNT n)) 1 ∧
        t.mem = s.mem ∧ t.mode = s.mode) ∧
    (10 ≤ (s.chan n).opens → s.has n .opens = false → ∃ t, exec (.channelDiagnostic n) s = .next t ∧
      t.fld (Reg.FCH_STAT_OPEN n) = 1 ∧ t.fld (Reg.FCH_DIAG_OPEN n) = 1 ∧ t.mem = s.mem) ∧
    ((s.chan n).opens < 10 → 10 ≤ (s.chan n).noOpen → s.has n .opens = true → ∃ t, exec (.channelDiagnostic n) s = .next t ∧
      t.fld (Reg.FCH_STAT_OPEN n) = 0 ∧ t.fld (Reg.FCH_DIAG_OPEN n) = s.fld (Reg.FCH_DIAG_OPEN n)) ∧
    (10 ≤ (s.chan n).ext → s.has n .ext = false → ∃ t, exec (.channelDiagnostic n) s = .next t ∧
      t.fld (Reg.FCH_STAT_EXT_VOLTAGE n) = 1 ∧ t.fld (Reg.FCH_DIAG_EXT_VOLTAGE n) = 1 ∧ t.mem = s.mem)) ∧
  (∀ (s : State) (g : Nat), 1 ≤ g → g ≤ 8 →
    (∀ fast, fast = true ∨ 200 ≤ (sgetD SupplyRt.zero s.field.supply g).excess →
      ∃ t, exec (.groupOverload g fast) s = .next t ∧ t.bit Reg.TLI_FGEVT_OVERLOAD_SEEN (g - 1) = true ∧ t.mem = s.mem ∧
        ∀ n ∈ chansOf g, s.fld (Reg.FCH_STAT_DRIVE n) = 1 → t.fld (Reg.FCH_STAT_DRIVE n) = 0 ∧
          t.fld (Reg.FCH_STAT_GROUP_OVERLOAD n) = 1) ∧
    (10 ≤ (sgetD SupplyRt.zero s.field.supply g).low → s.lpLow g = false →
      ∃ t, exec (.lpLow g) s = .next t ∧ t.lpLow g = true ∧ t.bit Reg.TLI_FGEVT_LOW_SEEN (g - 1) = true ∧ t.mem = s.mem ∧
        ∀ n ∈ chansOf g, t.fld (Reg.FCH_STAT_GROUP_LOW n) = b2w (decide (1 ≤ s.chanDiag n))) ∧
    (s.missing g = false → ∃ t, exec (.fieldGroupMissing g) s = .next t ∧ t.missing g = true ∧
      t.fld (Reg.TLI_FGMISSCNT g) = satAdd (s.fld (Reg.TLI_FGMISSCNT g)) 1 ∧
      (∀ n ∈ chansOf g, t.fld (Reg.FCH_STAT_DRIVE n) = 0) ∧
      ∀ k ∈ upTo 8, s.soA k ∈ chansOf g →
        (∀ j ∈ upTo 8, j ≠ k → s.soA j = 0 ∨ (s.soA j ≠ s.soA k ∧ s.soB j ≠ s.soA k)) → (t.so k).fault = true) ∧
    (s.missing g = true → 200 ≤ (sgetD SupplyRt.zero s.field.supply g).high →
      ∃ t, exec (.fieldGroupPresent g) s = .next t ∧ t.missing g = false ∧
        ∀ n ∈ chansOf g, modeIsInput (s.chanMode n) = true → s.chanOn n = true →
          (t.chan n).filt = (s.chan n).raw ∧ t.fld (Reg.FCH_STAT_LEVEL n) = b2w (s.chan n).raw))

/-- The events of the safety functions (R398 to R401, R406): a lock-out switches the pair off, numbers itself and shows its
cause; TIME_MAX, a speed discrepancy and an output fault lock out; a discrepancy makes a safe input faulty; an off-pulse
test switches one channel off; a stuck reset pair resets nothing.
The rules named are where the clauses come from; the statement says parts of them.
Where the spec is silent it rests on the model's choices in the assumption log, entries 5 and 12. -/
def Obligations.SafetyFunctions : Prop :=
  (∀ (s : State) (i : Nat) (c : LockCause), 1 ≤ i → i ≤ 4 →
    let t := s.lockOut i c
    t.ssState i = stLocked ∧ (t.fld (Reg.SF_STATE_CAUSE i)).toNat = c.code ∧
    t.fld (Reg.SF_LOCKSEQ i) = s.fld (Reg.SF_LOCKSEQ i) + 1 ∧ t.fld Reg.SF_LOCKCNT = satAdd (s.fld Reg.SF_LOCKCNT) 1 ∧
    t.bit Reg.SF_STAT_LOCKED (i - 1) = true ∧ t.bit Reg.SF_STAT_STOPPING (i - 1) = false ∧ t.mem = s.mem ∧ t.mode = s.mode ∧
    (s.ssOut i ≠ 0 → s.soA (s.ssOut i) ≠ 0 → t.fld (Reg.FCH_STAT_DRIVE (s.soA (s.ssOut i))) = 0 ∧
      t.fld (Reg.FCH_STAT_DRIVE (s.soB (s.ssOut i))) = 0)) ∧
  (∀ (s : State) (i : Nat), 1 ≤ i → i ≤ 4 →
    (s.ssState i = stStopping → 10 * s.ss i 0x20 4 < (s.fld (Reg.SF_NSTOP i)).toNat →
      exec (.ss1TimeMax i) s = .next (s.lockOut i .timeMax)) ∧
    (∀ n, (s.inst i).differ = some n → s.ssUsed i = true → 10 * s.ss i 0x0E 2 < n → (s.inst i).disc = false →
      ∃ t, exec (.speedDiscrepancyFault i) s = .next t ∧ t.fld Reg.SF_EVT_SPEED_FAULT = 1 ∧ t.fld (Reg.SF_STATE_FAULT i) = 1 ∧
        (t.inst i).speedFault = true ∧ (ssDrives (s.ssState i) = true → t.ssState i = stLocked ∧
          t.fld (Reg.SF_STATE_CAUSE i) = 4) ∧ (ssDrives (s.ssState i) = false → t.ssState i = s.ssState i)) ∧
    (30000 < (s.inst i).pressed → (s.inst i).stuck = false → ∃ t, exec (.resetPairStuck i) s = .next t ∧
      (t.inst i).stuck = true ∧ t.ssState i = s.ssState i ∧ t.mem = s.mem ∧ t.mode = s.mode)) ∧
  (∀ (s : State) (i n : Nat), 1 ≤ i → i ≤ 16 → (s.si i).differ = some n → s.siA i ≠ 0 → 10 * s.siDisc i < n →
    (s.si i).disc = false → (s.si i).fault = false →
    ∃ t, exec (.siDiscrepancyFault i) s = .next t ∧ (t.si i).disc = true ∧ (t.si i).fault = true ∧
      t.fld Reg.SF_EVT_DISC_FAULT = 1 ∧ t.fld Reg.SF_DISCFLT_CNT = satAdd (s.fld Reg.SF_DISCFLT_CNT) 1 ∧
      t.bit Reg.SF_STAT_SI_FAULT (i - 1) = true ∧ t.siValue i = false ∧ t.mem = s.mem) ∧
  (∀ (s : State) (k : Nat), 1 ≤ k → k ≤ 8 →
    (s.soBad k = true → (s.so k).fault = false → ∃ t, exec (.soFault k) s = .next t ∧ (t.so k).fault = true ∧
      t.fld Reg.SF_EVT_SO_FAULT = 1 ∧ t.fld (Reg.FCH_STAT_DRIVE (s.soA k)) = 0 ∧ t.fld (Reg.FCH_STAT_DRIVE (s.soB k)) = 0 ∧
      ∀ i, s.soOwner k = some i → t.fld (Reg.SF_STATE_FAULT i) = 1 ∧
        (ssDrives (s.ssState i) = true → t.ssState i = stLocked ∧ t.fld (Reg.SF_STATE_CAUSE i) = 5)) ∧
    (∀ chB, s.soA k ≠ 0 → s.soB k ≠ 0 → s.soTest k ≠ 0 → (s.so k).on = true → (s.so k).test = none →
      ∃ t, exec (.soOffPulseTest k chB) s = .next t ∧ (t.so k).test = some (chB, 0) ∧
        t.fld (Reg.FCH_STAT_DRIVE (if chB = true then s.soB k else s.soA k)) = 0 ∧
        (∀ n, n ≠ (if chB = true then s.soB k else s.soA k) → 1 ≤ n →
          t.fld (Reg.FCH_STAT_DRIVE n) = s.fld (Reg.FCH_STAT_DRIVE n)) ∧ t.mem = s.mem ∧ t.mode = s.mode))

/-! ### Rings, train network and fieldbuses -/

/-- Rings (R275 to R286): completing a descriptor that the engine owns writes its four words, advances HEAD, SEQ and DONECNT and
raises DONE; a frame without a descriptor is held, up to four, and after that dropped by POLICY; an OUT descriptor goes to its
agent; a ring that is off takes nothing; a minute with drops is recorded once.
The rules named are where the clauses come from; the statement says parts of them.
Where the spec is silent it rests on the model's choices in the assumption log, entries 34 and 45. -/
def Obligations.RingFrames : Prop :=
  (∀ (s : State) (n : Nat) (d : Desc) (st : DescStatus) (time : Nat), s.ringOwned n = 0 → s.complete n d st time = s) ∧
  (∀ (s : State) (n : Nat) (d : Desc) (st : DescStatus) (time : Nat), n < 32 → s.ringOwned n ≠ 0 → s.descAddr n + 32 ≤ psBytes →
    let t := s.complete n d st time
    let a := s.descAddr n / 8
    t.ringHead n = (s.ringHead n + 1) % 65536 ∧ t.ringTail n = s.ringTail n ∧ t.fld (Reg.RNG_SEQ n) = s.fld (Reg.RNG_SEQ n) + 1 ∧
    t.fld (Reg.RNG_DONECNT n) = satAdd (s.fld (Reg.RNG_DONECNT n)) 1 ∧ t.bit (Reg.RNG_EVT_DONE (n / 16)) (n % 16) = true ∧
    t.mem.code .ps a = encodeWord a (BitVec.ofNat 64 (d.buf + d.bufLen * 2 ^ 32 + d.dataLen * 2 ^ 48)) ∧
    t.mem.code .ps (a + 2) = encodeWord (a + 2) (BitVec.ofNat 64 time) ∧
    t.mem.code .ps (a + 3) = encodeWord (a + 3) (BitVec.ofNat 64 ((s.fld (Reg.RNG_SEQ n)).toNat + d.meta2.toNat * 2 ^ 32)) ∧
    (∀ w, w < a ∨ a + 3 < w → t.mem.code .ps w = s.mem.code .ps w) ∧
    (∀ x w, x ≠ .ps → t.mem.code x w = s.mem.code x w)) ∧
  (∀ (s : State) (n : Nat) (f : AgentFrame), n < 32 → s.agent n ≠ 0 → s.ringOn n = true → s.ringIsIn n = true →
    let x : Arrival := ⟨f, false, false, s.descTime, s.ring.arrivals⟩
    (s.ringHalted n = true ∨ s.ringOwned n = 0 → s.staged = [] → (∀ m, m ≠ n → s.holdOf m = []) →
      ((s.holdOf n).length < 4 → ∃ t, exec (.ringInFrame n f) s = .next t ∧ t.holdOf n = s.holdOf n ++ [x] ∧
        (t.fld (Reg.RNG_RSTAT_HOLD n)).toNat = (s.holdOf n).length + 1 ∧ t.mem = s.mem) ∧
      ((s.holdOf n).length = 4 → ∃ t, exec (.ringInFrame n f) s = .next t ∧
        t.fld (Reg.RNG_DROPCNT n) = satAdd (s.fld (Reg.RNG_DROPCNT n)) 1 ∧
        t.bit (Reg.RNG_EVT2_DROP (n / 16)) (n % 16) = true ∧ t.mem = s.mem ∧
        (s.fld (Reg.RNG_CFG_POLICY n) = 1 → t.holdOf n = (s.holdOf n).drop 1 ++ [x]) ∧
        (s.fld (Reg.RNG_CFG_POLICY n) ≠ 1 → t.holdOf n = s.holdOf n))) ∧
    (s.ringHalted n = false → s.holdOf n = [] → 0 < s.ringOwned n → s.fld Reg.PWR_STAT_STOPPING = 0 → s.fenced n x = false →
      exec (.ringInFrame n f) s =
        .next ((State.placeFrame { s with ring.arrivals := s.ring.arrivals + 1 } n x).ringGo n))) ∧
  (∀ (s : State) (n : Nat) (f : AgentFrame), s.agent n = 0 ∨ s.ringOn n = false ∨ s.ringIsIn n = false →
    exec (.ringInFrame n f) s = .next s) ∧
  (∀ (s : State) (n : Nat) (x : Arrival) (u v : State) (d : Desc), n < 32 → s.readDesc n = (u, some d) →
    u.writeFrame d (x.frame.data.take d.bufLen) (((x.frame.data.take d.bufLen).length + 7) / 8) = (v, none) →
    v.ringOwned n ≠ 0 →
    let t := s.placeFrame n x
    t.ringHead n = (v.ringHead n + 1) % 65536 ∧ sget t.ring.inHand n = none ∧
    t.bit (Reg.RNG_EVT_DONE (n / 16)) (n % 16) = true) ∧
  (∀ (s : State) (n k : Nat), s.outReady n = false ∨ s.ringHead n ≠ k → exec (.ringDescriptorProcess n k) s = .next s) ∧
  (∀ (s : State) (n : Nat) (u : State), n < 32 → s.outReady n = true →
    (s.takeOut n = (u, none) → exec (.ringDescriptorProcess n (s.ringHead n)) s = .next u) ∧
    (∀ d data, s.takeOut n = (u, some (d, data)) →
      let f : AgentFrame := ⟨data, d.port, d.meta1, d.meta2⟩
      let v := u.startOut n f d
      exec (.ringDescriptorProcess n (s.ringHead n)) s = .next (v.toAgent n f) ∧
      (u.agent n = 1 → v.toAgent n f = (v.packetWaits 0 0 data).completeOut n .ok) ∧
      (u.agent n = 2 → v.toAgent n f = v.completeOut n .ok) ∧
      (u.agent n = 4 → d.port < 15 ∨ 22 < d.port → v.toAgent n f = v.completeOut n .notSent) ∧
      (u.agent n = 5 → d.port < 23 ∨ 34 < d.port → v.toAgent n f = v.completeOut n .notSent) ∧
      (u.agent n = 0x0A → v.toAgent n f = (v.emit (.mailbox (leNat (data.take 1)) data)).completeOut n .ok) ∧
      (u.agent n = 0x0B → beAt data 6 6 ≠ u.unitMac → v.toAgent n f = v.completeOut n .notSent))) ∧
  (∀ (s : State) (n : Nat), n < 32 → sgetD 0 s.ring.minute n ≠ 0 → ∃ t, exec (.ringOverload n) s = .next t ∧
    sgetD 0 t.ring.minute n = 0 ∧ t.fld (Reg.RNG_DROPCNT n) = s.fld (Reg.RNG_DROPCNT n) ∧ t.mem = s.mem ∧ t.mode = s.mode)

/-- Ethernet, PRP and HSR, and time (R289, R291, R293, R305 to R307), on links without an injection. A port counts what it
receives; the Sync that is the eighth in a row within 1 µs locks the clock; calendar time follows a locked clock, then
PPS-IN, then TIME_SET.
The rules named are where the clauses come from; the statement says parts of them.
Where the spec is silent it rests on the model's choices in the assumption log, entries 13, 17 and 46. -/
def Obligations.EthernetAndTime : Prop :=
  (∀ (s : State) (n : Nat) (f : LinkFrame) (full : List (Nat × Nat)), 1 ≤ n → n ≤ 11 → s.portUp n = true →
    (s.fiActs (ethLink n) true = false → exec (.ethFrameReceive n f full) s =
      .next ((State.ethIn { s with net.full := full } n f).portBoundary n)) ∧
    (f.ok = false ∨ f.bytes.length < 14 ∨ 1522 < f.bytes.length → s.ethIn n f = s.bump (Reg.ESW_RXERRCNT n)) ∧
    (f.ok = true → 14 ≤ f.bytes.length → f.bytes.length ≤ 1522 →
      (foreign f.bytes = true → s.ethIn n f = (s.bump (Reg.ESW_RXCNT n)).unsupported) ∧
      (foreign f.bytes = false → n = 11 → isGroup (beAt f.bytes 6 6) = true → beAt f.bytes (payloadType f.bytes) 2 ≠ 0x0800 →
        s.ethIn n f = (s.bump (Reg.ESW_RXCNT n)).toModule n (dropTag f.bytes)))) ∧
  (∀ (s : State) (n speed : Nat), 1 ≤ n → n ≤ 11 → 1 ≤ speed → speed ≤ 3 →
    (∃ t, exec (.ethLinkChange n true speed) s = .next t ∧ t.fld (Reg.ESW_PORTSTAT_LINK n) = 1 ∧
      (t.fld (Reg.ESW_PORTSTAT_SPEED n)).toNat = (if 9 ≤ n then 2 else speed) ∧ t.bit Reg.ESW_STAT_LINK (n - 1) = true ∧ t.mem = s.mem) ∧
    (∃ t, exec (.ethLinkChange n false 0) s = .next t ∧ t.fld (Reg.ESW_PORTSTAT_LINK n) = 0 ∧
      t.fld (Reg.ESW_PORTSTAT_SPEED n) = 0 ∧ t.bit Reg.ESW_STAT_LINK (n - 1) = false ∧
      sgetD [] t.fi.held (ethLink n) = [] ∧ t.mem = s.mem)) ∧
  (∀ s : State, ∃ t, exec .nodeTableExpiry s = .next t ∧
    (∀ e, e ∈ t.net.nodes ↔ e ∈ s.net.nodes ∧ s.opNs - e.used < 400000000) ∧ t.regs = s.regs ∧ t.mem = s.mem) ∧
  (∀ s : State, ((∀ k, k < 4 → s.pairRed k ≠ 1 ∧ s.pairRed k ≠ 2) → exec .supervisionFrame s = .next s) ∧
    exec .supervisionFrame s = .next ((List.range 4).foldl (fun s k => s.supervise k false) s)) ∧
  (∀ (s : State) (k : Nat) (pub : Bool), k < 4 → s.pairRed k = 1 ∨ s.pairRed k = 2 → s.portUp (2 * k + 1) = false →
    s.portUp (2 * k + 2) = false → pub = false → (s.supervise k pub).unitSeqs k = (s.unitSeqs k + 1) % 65536) ∧
  (∀ (s : State) (off : Nat) (c : ClockData), s.nextMsg (.ptp (.announce off c)) = true →
    (∀ b, s.net.best = some b → b.better c = false) →
    ∃ t, exec (.ptpMessage (.announce off c)) s = .next t ∧
      t.net.utcOffset = (if c.better s.ownClock = true ∨ s.mayLead = false then off else 37) ∧
      t.fld Reg.ESW_PTPSTAT_GM = (if c.better s.ownClock = true ∨ s.mayLead = false then 0 else 1) ∧
      t.net.inbox = s.net.inbox.erase (.ptp (.announce off c)) ∧
      t.time = s.time) ∧
  (∀ (s : State) (tai was : Nat), s.nextMsg (.ptp (.sync tai)) = true →
    s.fld Reg.ESW_PTPSTAT_GM ≠ 1 → s.net.tai = some was → was ≤ tai + 1000 → tai ≤ was + 1000 →
    ∃ t, exec (.ptpMessage (.sync tai)) s = .next t ∧ t.net.inbox = s.net.inbox.erase (.ptp (.sync tai)) ∧ t.net.tai = some tai ∧ t.net.inRange = min 8 (s.net.inRange + 1) ∧
      (7 ≤ s.net.inRange → t.fld Reg.ESW_PTPSTAT_LOCKED = 1 ∧ t.fld Reg.ESW_PTPSTAT_SOURCE = 3 ∧ t.time.utcValid = true ∧
        t.time.utc = (tai - s.net.utcOffset * 1000000000) % 2 ^ 64) ∧ t.mem = s.mem) ∧
  (∀ s : State, s.fld Reg.ESW_PTPSTAT_LOCKED = 1 → ∃ t, exec .ptpLockLost s = .next t ∧ t.fld Reg.ESW_PTPSTAT_LOCKED = 0 ∧
    t.fld Reg.ESW_EVT_PTP_LOCK_LOST = 1 ∧ t.net.inRange = 0 ∧ t.net.best = none ∧
    t.fld Reg.ESW_PTPSTAT_SOURCE = (if s.ppsOk = true then 2 else if s.net.timeSet = true then 1 else 0) ∧ t.time = s.time) ∧
  (∀ (s : State) (into : Nat), s.fld Reg.ENC_CTRL_PPS_IN_EN = 1 → s.fiActs linkPpsIn true = false →
    let d := into / 8 * 8
    let at_ := s.img.ageClock * 250000 + d
    exec (.ppsInEdge into) s = .next (s.ppsEdge into) ∧
    (∀ p, s.net.ppsAt = some p → p + 999000000 ≤ at_ → at_ ≤ p + 1001000000 → s.time.utcValid = true →
      s.fld Reg.ESW_PTPSTAT_LOCKED = 0 → s.time.utc + d < 2 ^ 63 → (s.ppsEdge into).fld Reg.ENC_STAT_PPS_IN_OK = 1 ∧
        (s.ppsEdge into).time.utc = (s.time.utc + d + 500000000) / 1000000000 * 1000000000 - d ∧
        (s.ppsEdge into).fld Reg.ESW_PTPSTAT_SOURCE = 2 ∧ (s.ppsEdge into).net.ppsAt = some at_) ∧
    (∀ p, s.net.ppsAt = some p → at_ < p + 999000000 ∨ p + 1001000000 < at_ →
      s.ppsEdge into = { s with net.ppsIgnored := s.net.ppsIgnored + 1 })) ∧
  (∀ s : State, ∃ t, exec .ppsInTimeout s = .next t ∧ t.net.ppsAt = none ∧ t.fld Reg.ENC_STAT_PPS_IN_OK = 0 ∧
    t.time = s.time ∧ t.mem = s.mem) ∧
  (∀ s : State, s.staged = [] → s.net.best = none → s.mayLead = true →
    ∃ t, exec .wholeSecond s = .next t ∧ t.fld Reg.ESW_PTPSTAT_GM = 1 ∧ t.mem = s.mem ∧ t.mode = s.mode) ∧
  (∀ s : State, s.staged = [] → s.fiActs linkPpsOut false = false → s.net.best.isSome = true ∨ s.mayLead = false →
    (s.fld Reg.ENC_CTRL_PPS_OUT_SEL = 0 → s.time.utcValid = true → s.follows = false →
      ∃ t, exec .wholeSecond s = .next t ∧ t.out = s.out ++ [.frame linkPpsOut ⟨[], true⟩] ∧ t.regs = s.regs) ∧
    (s.fld Reg.ENC_CTRL_PPS_OUT_SEL ≠ 0 ∨ s.time.utcValid = false ∨ s.follows = true →
      exec .wholeSecond s = .next s))

/-- Process data, messages, raw frames and the Ethernet Train Backbone (R297 to R303): the checks of a telegram in their
order, its group, time-outs, the rings of a message, HELLO and inauguration.
The rules named are where the clauses come from; the statement says parts of them.
Where the spec is silent it rests on the model's choices in the assumption log, entries 13 and 46. -/
def Obligations.TrainNetwork : Prop :=
  (∀ (s : State) (t : PdTelegram),
    (s.nextMsg (.pd t) = true → exec (.pdReceive t) s = .next (State.pdIn { s with net.inbox := s.net.inbox.erase (.pd t) } t)) ∧
    (s.nextMsg (.pd t) = false → exec (.pdReceive t) s = .next s)) ∧
  (∀ (s : State) (t : PdTelegram), s.fld Reg.TPD_CTRL_ENABLE = 1 → s.mode.acquires = true →
    (t.fcsOk = false ∨ t.msgType ≠ 0x5064 ∨ t.version / 256 ≠ 1 → s.pdIn t = s.bump Reg.TPD_RXERRCNT) ∧
    (t.fcsOk = true → t.msgType = 0x5064 → t.version / 256 = 1 →
      ((∀ i, i < s.subCount → s.subMatches i t = false) → s.pdIn t = s.bump Reg.TPD_UNKCNT) ∧
      (∀ i, i < s.subCount → s.subMatches i t = true → (∀ j, j < i → s.subMatches j t = false) →
        (s.pdDuplicate i t = true → s.pdIn t = s.bump Reg.TPD_DUPCNT) ∧
        (s.pdDuplicate i t = false → t.topo ≠ 0 → t.topo.toNat ≠ s.topoCnt →
          s.pdIn t = (s.bump Reg.TPD_TOPODISCCNT).flag Reg.TPD_EVT_TOPO_DISC true) ∧
        (s.pdDuplicate i t = false → t.topo = 0 ∨ t.topo.toNat = s.topoCnt →
          (t.length ≠ s.cfg 0x09 (pdSubscribeOff i + 0x12) 2 → s.pdIn t = s.bump Reg.TPD_LENERRCNT) ∧
          (t.length = s.cfg 0x09 (pdSubscribeOff i + 0x12) 2 →
            let u := (State.bump { s with net.subs := sput s.net.subs i (t.seq, s.img.ageClock) } Reg.TPD_RXCNT).clrBit
              (Reg.TPD_SUBLOST (i / 32)) (i % 32)
            s.pdIn t = u.deliver (.pdSub i) (parseData (confFields s.cmd.config 0x09 pdFieldsOff
              (s.cfg 0x09 (pdSubscribeOff i + 0x0E) 2) (s.cfg 0x09 (pdSubscribeOff i + 0x10) 2)) true t.data)))))) ∧
  (∀ (s : State), s.fld Reg.TPD_CTRL_ENABLE = 1 → s.mode.acquires = true → 0 < s.subCount → s.subDue 0 = true →
    (∀ i, 1 ≤ i → i < s.subCount → s.subDue i = false) →
    exec .pdTimeout s = .next ((((s.setBit (Reg.TPD_SUBLOST 0) 0).flag Reg.TPD_EVT_TIMEOUT true).bump
      Reg.TPD_TIMEOUTCNT).acquire (.pdSub 0) .lost)) ∧
  (∀ (s : State) (m : MdMessage),
    (s.nextMsg (.md m) = true → exec (.mdReceive m) s = .next (State.mdIn { s with net.inbox := s.net.inbox.erase (.md m) } m)) ∧
    (s.nextMsg (.md m) = false → exec (.mdReceive m) s = .next s)) ∧
  (∀ (s : State) (m : MdMessage),
    let f : AgentFrame := ⟨m.pdu, m.link, BitVec.ofNat 32 m.comId, BitVec.ofNat 32 m.peer⟩
    (m.comId ∈ s.mdList 0 → m.reply = false → s.mdIn m = s.ringIn 5 3 f) ∧
    (m.comId ∉ s.mdList 0 → m.comId ∈ s.mdList 1 → m.reply = false → s.mdIn m = s.ringIn 7 3 f) ∧
    (m.comId ∈ s.mdList 0 → m.reply = true → m.confirm = false → ∀ k, sget s.net.md m.session = some k →
      s.mdIn m = State.ringIn { s with net.md := serase s.net.md m.session } 5 3 f) ∧
    (m.comId ∈ s.mdList 0 → m.reply = true → sget s.net.md m.session = none → s.mdIn m = s) ∧
    (m.comId ∉ s.mdList 0 → m.comId ∉ s.mdList 1 →
      s.mdIn m = State.mdAnswer { s with net.meCount := s.net.meCount + 1 } 0x4D65 m)) ∧
  (∀ (s : State) (k : Nat), ∃ t, exec (.mdReplyTimeout k) s = .next t ∧ sget t.net.md k = none ∧
    (∀ j, j ≠ k → sget t.net.md j = sget s.net.md j) ∧ t.regs = s.regs ∧ t.mem = s.mem) ∧
  (∀ (s : State) (link : Nat) (bytes : List Byte),
    (s.nextMsg (.raw link bytes) = true → s.isWorker = false → exec (.rawEthernetReceive link bytes) s =
      .next (State.ringIn { s with net.inbox := s.net.inbox.erase (.raw link bytes) } 31 0x0B ⟨bytes, link, 0, 0⟩)) ∧
    (s.nextMsg (.raw link bytes) = false → exec (.rawEthernetReceive link bytes) s = .next s)) ∧
  (∀ (s : State), s.etbn = true →
    (∀ n, s.nextMsg (.hello false n) = true → ∃ t, exec (.ttdpHello true) s = .next t ∧
      t.net.neigh1 = some (n, 0) ∧ t.net.neigh2 = s.net.neigh2 ∧ t.net.inbox = s.net.inbox.erase (.hello false n)) ∧
    (∀ n, s.nextMsg (.hello true n) = true → ∃ t, exec (.ttdpHello true) s = .next t ∧
      t.net.neigh2 = some (n, 0) ∧ t.net.neigh1 = s.net.neigh1 ∧ t.net.inbox = s.net.inbox.erase (.hello true n)) ∧
    (∀ n a b, s.nextMsg (.topology n a b) = true → ∃ t, exec (.ttdpHello true) s = .next t ∧
      t.net.topology = (n, a, b) :: s.net.topology.filter (fun e => e.1 != n) ∧ t.net.neigh1 = s.net.neigh1 ∧
      t.net.neigh2 = s.net.neigh2) ∧
    (∃ t, exec (.ttdpHello false) s = .next t ∧ t.net.neigh1 = s.net.neigh1.map (fun p => (p.1, p.2 + 1)) ∧
      t.net.neigh2 = s.net.neigh2.map (fun p => (p.1, p.2 + 1)))) ∧
  (∀ (s : State) (n m : Nat), s.net.neigh1 = some (n, m) → ∃ t, exec .ttdpNeighbourLost s = .next t ∧
    t.net.neigh1 = (if m < 3 then some (n, m) else none) ∧ t.regs = s.regs ∧ t.mem = s.mem) ∧
  (∀ (s : State) (pos : Nat) (topo : Word), s.etbn = true →
    let count := s.etbLine.length
    (32 < count → ∃ t, exec (.etbInauguration count pos topo) s = .next t ∧ t.fld Reg.ESW_ETBSTAT_OVERSIZE = 1 ∧
      t.fld Reg.ESW_ETBTOPO_TOPO = s.fld Reg.ESW_ETBTOPO_TOPO ∧ t.net.trainDir = s.net.trainDir ∧ t.mem = s.mem) ∧
    (count ≤ 32 → ∀ dir, s.directory pos = some dir → ∃ t, exec (.etbInauguration count pos topo) s = .next t ∧
      t.net.trainDir = dir ∧ dir[pos - 1]? = some s.unitMac ∧ t.fld Reg.ESW_ETBSTAT_INAUG = 1 ∧
      t.fld Reg.ESW_ETBSTAT_OVERSIZE = 0 ∧ (t.fld Reg.ESW_ETBSTAT_COUNT).toNat = count ∧
      (t.fld Reg.ESW_ETBSTAT_POS).toNat = pos ∧ t.fld Reg.ESW_ETBTOPO_TOPO = topo ∧ t.fld Reg.ESW_EVT_INAUG = 1))

/-- MVB, WTB, CAN FD and the serial links (R308 to R322), on links without an injection.
The rules named are where the clauses come from; the statement says parts of them.
Where the spec is silent it rests on the model's choices in the assumption log, entries 13, 35, 45 and 46. -/
def Obligations.Fieldbuses : Prop :=
  (∀ (s : State) (f : LinkFrame) (slave : Option LinkFrame × Option LinkFrame) (first : Bool) (i : Nat), s.staged = [] → s.fiActs linkMvbA true = false →
    s.fiActs linkMvbA false = false → s.fiActs linkMvbB false = false → f.ok = true → f.bytes.length = 2 → i < s.mvbPorts →
    s.mvbAddr i = beAt f.bytes 0 2 % 4096 → s.mvbCode i = beAt f.bytes 0 2 / 4096 →
    (∀ j, j < i → s.mvbAddr j ≠ s.mvbAddr i ∨ s.mvbCode j ≠ s.mvbCode i) → s.mvbIsSink i = false →
    s.mvbOn = true → s.sendsData = true →
    ∃ t, exec (.mvbMasterFrame (some f) none slave first) s = .next t ∧ t.fld Reg.MVB_STAT_MASTER_SEEN = 1 ∧
      t.fld Reg.MVB_STAT_LINE_A = 1 ∧ t.fld Reg.MVB_MFCNT = satAdd (s.fld Reg.MVB_MFCNT) 1 ∧
      t.fld Reg.MVB_SFCNT = satAdd (s.fld Reg.MVB_SFCNT) 1 ∧
      (let d : LinkFrame := ⟨sgetD (List.replicate (s.mvbSize i) 0) s.bus.mvbSrc i, true⟩
       t.out = s.out ++ [.frame linkMvbA d, .frame linkMvbB d]) ∧ t.mem = s.mem) ∧
  (∀ s : State, s.mode.acquires = true → 0 < s.mvbPorts → s.mvbDue 0 = true →
    (∀ i, 1 ≤ i → i < s.mvbPorts → s.mvbDue i = false) →
    exec .mvbSinkTimeout s = .next ((((s.setBit (Reg.MVB_SINKLOST 0) 0).flag Reg.MVB_EVT_SINK_TIMEOUT true).bump
      Reg.MVB_TIMEOUTCNT).acquire (.mvbSink 0) .lost)) ∧
  (∀ (s : State) (b : Bool), s.fld (if b = true then Reg.MVB_STAT_LINE_B else Reg.MVB_STAT_LINE_A) = 1 →
    ∃ t, exec (.mvbLineTimeout b) s = .next t ∧
      t.fld (if b = true then Reg.MVB_STAT_LINE_B else Reg.MVB_STAT_LINE_A) = 0 ∧ t.fld Reg.MVB_EVT_LINE_FAULT = 1 ∧
      t.mem = s.mem) ∧
  (∀ s : State, s.staged = [] → s.wtbIn = true → s.sendsData = true → s.fld Reg.WTB_STAT_INAUG_DONE = 1 →
    s.fiActs linkWtbA false = false → s.fiActs linkWtbB false = false →
    let u : State := { s with bus.wtbPeriod := s.bus.wtbPeriod + 1 }
    let r := u.buildData (u.wtbFields (u.cfg 0x0B 0x06 2) (u.cfg 0x0B 0x08 2)) (min 128 (u.cfg 0x0B 0x04 2)) true false
    let f : LinkFrame := ⟨BitVec.ofNat 8 (s.fld Reg.WTB_STAT_NODE).toNat :: r.2, true⟩
    ∃ t, exec .wtbPeriod s = .next t ∧ t.out = r.1.out ++ [.frame linkWtbA f, .frame linkWtbB f] ∧
      t.fld Reg.WTB_PDTXCNT = satAdd (r.1.fld Reg.WTB_PDTXCNT) 1 ∧ t.bus.wtbPeriod = s.bus.wtbPeriod + 1) ∧
  (∀ (s : State) (f : LinkFrame), s.wtbIn = true → s.fld Reg.WTB_STAT_INAUG_DONE = 1 → s.fiActs linkWtbA true = false →
    f.ok = true → exec (.wtbNodeFrame (some f) none) s = .next ((s.bumpBy Reg.WTB_ERRACNT 0).wtbFrame f)) ∧
  (∀ (s : State) (t : WtbTopo), s.wtbIn = true → t.nodes.length ≤ 32 → t.own < 64 →
    ∃ u, exec (.wtbInauguration t) s = .next u ∧ u.fld Reg.WTB_STAT_INAUG_DONE = 1 ∧ (u.fld Reg.WTB_STAT_NODE).toNat = t.own ∧
      (u.fld Reg.WTB_STAT_NODES).toNat = t.nodes.length ∧ u.fld Reg.WTB_EVT_INAUG = 1 ∧ u.bus.wtbNodes = t.nodes ∧
      u.fld Reg.WTB_STAT_MASTER =
        b2w (t.master && s.fld Reg.WTB_CTRL_MASTER_OK == 1 && (s.fld Reg.WTB_CTRL_STRONG == 1 || !t.strong))) ∧
  (∀ (s : State) (a : Nat), s.wtbIn = true → s.fld Reg.WTB_STAT_INAUG_DONE = 1 → 1 ≤ a → a ≤ 63 → s.wtbSinkLen a ≠ 0 →
    (∀ b, 1 ≤ b → b ≤ 63 → b ≠ a → s.wtbSinkLen b = 0) → a ∈ s.bus.wtbNodes → s.wtbLost a = false →
    let lim := s.cfg 0x0B (wtbSinkOff a + 2) 2
    lim ≠ 0 → lim ≤ s.bus.wtbPeriod - sgetD 0 s.bus.wtbAt a →
    exec .wtbSinkTimeout s = .next ((s.bump Reg.WTB_TIMEOUTCNT).wtbLose a)) ∧
  (∀ (s : State) (c : Nat), 1 ≤ c → c ≤ 8 →
    (∀ f ok, s.fiActs (canLink c) true = false →
      exec (.canFrameReceive c f ok) s = .next ((s.canIn c (f.link ok)).canBoundary c) ∧
      (s.canOn c = true → s.canOff c = false → ok = false → (s.canIn c (f.link ok)).fld (Reg.CAN_ERRCNT c) =
        satAdd (s.fld (Reg.CAN_ERRCNT c)) 1 ∧ (s.canIn c (f.link ok)).recCount c = min 255 (s.recCount c + 1))) ∧
    (∀ n f, s.sending (canLink c) [8, 10] = some (n, f) → s.canListens c = true →
      exec (.canFrameSent c) s = .next ((s.endSend (canLink c) n .notSent).canBoundary c)) ∧
    (∀ n f, s.sending (canLink c) [8, 10] = some (n, f) → s.canListens c = false → s.canOff c = false → s.fiActs (canLink c) false = false →
      exec (.canFrameSent c) s = .next (((((s.putOut (canLink c) [(canOf f.meta1 f.meta2 f.data).link true]).bump
        (Reg.CAN_TXCNT c)).canErrors c (s.tec c - 1) (s.recCount c)).endSend (canLink c) n .ok).canBoundary c)) ∧
    (s.sending (canLink c) [8, 10] = none → s.staged = [] → s.canOn c = true → s.canOff c = false →
      ∃ t, exec (.canBusOff c) s = .next t ∧ t.canOff c = true ∧
        t.fld (Reg.CAN_BUSOFFCNT c) = satAdd (s.fld (Reg.CAN_BUSOFFCNT c)) 1 ∧ t.fld (Reg.CAN_ECR_STATE c) = 2 ∧
        t.fld (Reg.CAN_ECR_TEC c) = 255 ∧ t.mem = s.mem) ∧
    (s.fld (Reg.CAN_CFG_AUTO_RECOVER c) = 1 → s.canOff c = true → ∃ t, exec (.canAutoRecover c) s = .next t ∧
      t.canOff c = false ∧ t.fld (Reg.CAN_ECR_TEC c) = 0 ∧ t.fld (Reg.CAN_ECR_REC c) = 0 ∧ t.mem = s.mem)) ∧
  (∀ (s : State) (c : Nat), 1 ≤ c → c ≤ 12 →
    (∀ f, s.fiActs (serLink c) true = false → exec (.serialFrameReceive c f) s = .next ((s.serIn c f).applyStaged (serKey c)) ∧
      (s.serOn c = true → s.serHdlc c = true → s.fld (Reg.SER_CFG_DUPLEX c) = 1 ∨ s.serBusy c = false → (s.serData c f).2 = false →
        s.serIn c f = s.bump (Reg.SER_ERRCNT c))) ∧
    (∀ n f, s.sending (serLink c) [12, 14] = some (n, f) → s.follows = true →
      exec (.serialFrameSent c) s = .next ((s.endSend (serLink c) n .notSent).applyStaged (serKey c))) ∧
    (∀ n f, s.sending (serLink c) [12, 14] = some (n, f) → s.follows = false → s.fiActs (serLink c) false = false →
      exec (.serialFrameSent c) s = .next ((((s.putOut (serLink c) [⟨s.serWire c f.data, true⟩]).bump (Reg.SER_TXCNT c)).endSend
        (serLink c) n .ok).applyStaged (serKey c))))

/-! ### Ridge -/

/-- Ridge frames at a port (R328, R332 to R334): a frame and its CRC-32C spell it, and say whether it ended right, stomped or
wrong; on a port that can carry frames and holds no injection a right frame is forwarded and used, one with a wrong or a stomped
CRC counted and forwarded; each command takes frames of its own type.
Col frames (R354, R355, R357): a frame and its CRC-32C spell it, and show whether the CRC is right; on a lane that is up and holds no injection a frame with a wrong
CRC is counted, a right one takes its place in the order of SEQ: the expected one acts, a later one waits, an earlier one is
dropped; each command takes frames of its own type.
The rules named are where the clauses come from; the statement says parts of them.
Where the spec is silent it rests on the model's choices in the assumption log, entries 17 and 36 (the bytes of the frames). -/
def Obligations.RidgeAndColFrames : Prop :=
  ((∀ (f : RidgeFrame) (e : FrameEnd), f.type < 256 → f.hops < 256 → f.src < 64 → f.unit < 2 → f.dst < 64 → f.seq < 65536 →
     f.ack < 65536 → f.payload.length ≤ 4096 → ridgeOf (f.wire e).bytes = f ∧ frameEnd (f.wire e).bytes = e) ∧
   (∀ (s : State) (rx : RidgeRx), s.rdgPort rx.east = true →
     s.fiActs (if rx.east = true then linkRidgeE else linkRidgeW) true = false →
     let f := rx.frame
     f.type < 256 → f.hops < 256 → f.src < 64 → f.unit < 2 → f.dst < 64 → f.seq < 65536 → f.ack < 65536 →
     f.payload.length ≤ 4096 →
     let t := fun (late : Bool) (s : State) =>
       (if f.type = 3 then s else s.rdgForward rx.east true f).ridgeFrame rx.east late f
     (rx.ok = true →
       (f.type = 1 → exec (.cycle (some rx)) s = .next (t false s)) ∧ (f.type = 2 → ∀ late, exec (.slot rx late) s = .next (t late s)) ∧
       (f.type = 3 → exec (.discover (some rx)) s = .next (t false s)) ∧ (f.type = 4 → exec (.posted rx) s = .next (t false s)) ∧
       (f.type = 5 → exec (.request rx) s = .next (t false s)) ∧
       (f.type = 6 → ∀ words, exec (.completion ⟨rx, words⟩) s = .next (t false { s with rdg.words := sput s.rdg.words f.src words })) ∧
       (f.type = 7 → exec (.tunnel rx) s = .next (t false s)) ∧ (f.type = 8 → exec (.irq rx) s = .next (t false s)) ∧
       (f.type = 9 → exec (.msg (.ridge rx)) s = .next (t false s)) ∧ (f.type = 10 → exec (.ack rx) s = .next (t false s))) ∧
     (∃ u, exec (.ridgeCrcError rx false) s = .next u ∧ u.mem = s.mem ∧ u.rdg = s.rdg ∧
       u.fld (if rx.east = true then Reg.RDG_CRCERRECNT else Reg.RDG_CRCERRWCNT) =
         satAdd (s.fld (if rx.east = true then Reg.RDG_CRCERRECNT else Reg.RDG_CRCERRWCNT)) 1) ∧
     (∃ u, exec (.ridgeCrcError rx true) s = .next u ∧ u.mem = s.mem ∧ u.rdg = s.rdg ∧
       u.fld Reg.RDG_STOMPCNT = satAdd (s.fld Reg.RDG_STOMPCNT) 1))) ∧
  ((∀ f : ColFrame, f.type < 256 → f.seq < 65536 → f.epoch < 65536 → f.tick < 2 ^ 32 → f.payload.length < 65536 →
     ∀ ok, colOf (f.wire ok).bytes = f ∧ colChecks (f.wire ok).bytes = ok) ∧
   (∀ (s : State) (rx : ColRx) (delay : Nat), s.fld Reg.COL_CTRL_ENABLE = 1 → s.fld (laneBit rx.lane2) = 1 →
     s.mode ≠ .selftest → s.mode ≠ .recovery → s.fiActs (laneLink rx.lane2) true = false →
     rx.frame.type < 256 → rx.frame.seq < 65536 → rx.frame.epoch < 65536 → rx.frame.tick < 2 ^ 32 → rx.frame.payload.length < 65536 →
     let t := fun (d : Nat) => s.colTake d rx.frame
     (rx.ok = true →
       (rx.frame.type = 1 → exec (.hello (some rx)) s = .next (t 0)) ∧ (rx.frame.type = 2 → exec (.joinReq rx delay) s = .next (t delay)) ∧
       (rx.frame.type = 3 → exec (.joinAck rx delay) s = .next (t delay)) ∧ (rx.frame.type = 4 → exec (.page rx) s = .next (t 0)) ∧
       (rx.frame.type = 5 → exec (.cut rx) s = .next (t 0)) ∧ (rx.frame.type = 6 → exec (.group rx) s = .next (t 0)) ∧
       (rx.frame.type = 7 → exec (.mark rx) s = .next (t 0)) ∧ (rx.frame.type = 8 → exec (.beat (some rx)) s = .next (t 0)) ∧
       (rx.frame.type = 9 → exec (.msg (.col rx)) s = .next (t 0)) ∧ (rx.frame.type = 10 → exec (.leave rx) s = .next (t 0)) ∧
       (rx.frame.type = 11 → exec (.abort rx) s = .next (t 0))) ∧
     (rx.ok = false → rx.frame.type = 6 → exec (.group rx) s = .next (s.bump Reg.COL_CRCERRCNT))) ∧
   (∀ (s : State) (delay : Nat) (f : ColFrame), f.seq < 65536 →
     (s.col.rxSeq = some f.seq ∨ s.col.rxSeq = none →
       let u := State.colAct { s with col.rxSeq := some ((f.seq + 1) % 65536) } delay f
       u.col.ahead = [] → s.colTake delay f = u) ∧
     (∀ e, s.col.rxSeq = some e → 0 < (f.seq + 65536 - e) % 65536 → (f.seq + 65536 - e) % 65536 < 32768 →
       s.col.ahead.any (fun g => g.seq == f.seq) = false → s.colTake delay f = { s with col.ahead := s.col.ahead ++ [f] }) ∧
     (∀ e, s.col.rxSeq = some e → 32768 ≤ (f.seq + 65536 - e) % 65536 → s.colTake delay f = s)))

/-- Process data and supervision of the ring (R330, R331, R335 to R338, R340): what the Summit sends each tick, what a Spur
takes from a CYCLE frame, the checks of a slot, and the loss of stations.
The rules named are where the clauses come from; the statement says parts of them.
Where the spec is silent it rests on the model's choices in the assumption log, entries 17, 36, 37 and 45. -/
def Obligations.RidgeProcessData : Prop :=
  (∀ s : State, s.isManager = true → s.rdgState = 1 ∨ s.rdgState = 2 → s.rdgPort true = true → s.rdgPort false = true →
    s.fiActs linkRidgeE false = false → s.fiActs linkRidgeW false = false → (∀ n, s.online n = false) →
    ∃ (t : State) (f : RidgeFrame), exec (.cycle none) s = .next t ∧ f.type = 1 ∧ f.src = s.station ∧ f.bcast = true ∧ f.seq = s.time.tick % 65536 ∧
      leNat (f.payload.take 8) = s.time.tick % 2 ^ 64 ∧
      t.out = s.out ++ [.frame linkRidgeE (f.wire .right), .frame linkRidgeW (f.wire .right)] ∧ t.rdg.cycleSent = f.payload ∧ t.mem = s.mem) ∧
  (∀ (s : State) (f : RidgeFrame), s.isManager = true → f.src = 0 → s.paired = false →
    (f.unit = s.unitNo → f.payload = s.rdg.cycleSent → s.cycleIn f = s) ∧
    (f.unit ≠ s.unitNo ∨ f.payload ≠ s.rdg.cycleSent → s.cycleIn f = s.dupManager ∧ (s.cycleIn f).rdgState = 4)) ∧
  (∀ (s : State) (f : RidgeFrame), s.isManager = false → s.station < 64 →
    (seqFresh s.rdg.cycleSeen f.src f.seq = false → s.cycleIn f = s.bump Reg.RDG_DUPCNT) ∧
    (seqFresh s.rdg.cycleSeen f.src f.seq = true → let t := s.cycleIn f
      t.rdg.quiet = 0 ∧ t.fld Reg.RDG_RXCNT = satAdd (s.fld Reg.RDG_RXCNT) 1 ∧
      ((leNat ((f.payload.drop 24).take 8)).testBit s.station = false → t.rdgState = 2) ∧
      ((leNat ((f.payload.drop 24).take 8)).testBit s.station = true → t.rdgState = 3))) ∧
  (∀ (s : State) (late : Bool) (f : RidgeFrame), s.isManager = true → f.bcast = false → f.dst = s.station → f.src ≠ 0 →
    s.refused f.src = false →
    (seqFresh s.rdg.slotSeen f.src f.seq = false → s.slotIn late f = s.bump Reg.RDG_DUPCNT) ∧
    (seqFresh s.rdg.slotSeen f.src f.seq = true →
      let u : State := { s with rdg.slotSeen := sput s.rdg.slotSeen f.src f.seq }
      let right := leNat (f.payload.take 4) = (s.layout f.src true).toNat ∧ (f.payload.drop 4).length = s.slotLen f.src true
      (¬ right → s.slotIn late f = (u.bump Reg.RDG_LAYOUTERRCNT).flag Reg.RDG_EVT_LAYOUT_ERR true) ∧
      (right → late = true → s.slotIn late f = u.bump Reg.RDG_SLOTLATECNT) ∧
      (right → late = false → s.rdg.lost.contains f.src = false → s.online f.src = true →
        s.slotIn late f = (State.bump { u with rdg.slotGot := f.src :: u.rdg.slotGot,
                                               rdg.lost := s.rdg.lost.filter (· != f.src) } Reg.RDG_RXCNT).deliver
          (.station f.src) (parseData (s.slotFields f.src true) false (f.payload.drop 4))))) ∧
  (∀ s : State, (s.isManager = false → exec (.discover none) s = .next s) ∧
    (s.isManager = true → s.rdgOn = true → s.rdgState ≠ 4 → ∃ t, exec (.discover none) s = .next t ∧ t.rdg.backE = none ∧
      t.rdg.backW = none ∧ t.rdgState = (if s.rdgState = 0 then 1 else s.rdgState) ∧ t.mem = s.mem)) ∧
  (∀ (s : State) (east : Bool) (f : RidgeFrame), s.isManager = false → s.rdgOwn f = false → f.hops + 1 ≠ 63 → f.payload.length ≤ 4080 →
    s.rdgPort (!east) = true → s.fiActs (if (!east) = true then linkRidgeE else linkRidgeW) false = false →
    (s.discoverIn east f).out = s.out ++ [.frame (if (!east) = true then linkRidgeE else linkRidgeW)
      (RidgeFrame.wire { f with hops := f.hops + 1, payload := f.payload ++ s.ownPosition.bytes } .right)]) ∧
  (∀ (s : State) (east up : Bool), ∃ t, exec (.ridgeLinkChange east up) s = .next t ∧
    t.fld (if east = true then Reg.RDG_STAT_LINK_E else Reg.RDG_STAT_LINK_W) = b2w up ∧ t.mem = s.mem) ∧
  (∀ s : State, s.isWorker = true → s.rdgOn = true → s.rdgState ≠ 5 → 3 ≤ s.rdg.quiet →
    let u := (s.setRdg 5).flag Reg.RDG_EVT_MANAGER_LOST true
    (s.rdg.lost.contains 0 = false → exec .noManager s = .next (u.loseStation 0)) ∧
    (s.rdg.lost.contains 0 = true → exec .noManager s = .next u)) ∧
  (∀ (s : State) (n : Nat), n < 64 → (s.loseStation n).online n = false ∧
    (s.loseStation n).fld Reg.RDG_LOSTCNT = satAdd (s.fld Reg.RDG_LOSTCNT) 1 ∧
    (s.loseStation n).fld Reg.RDG_EVT_STATION_LOST = 1) ∧
  (∀ s : State, s.isManager = true → (∀ n, n < 64 → s.online n = true → sgetD 0 s.rdg.missed n < s.lossTicks) →
    exec .stationLost s = .next s) ∧
  (∀ (s : State) (n : Nat), s.isManager = true → n < 64 → s.online n = true → s.lossTicks ≤ sgetD 0 s.rdg.missed n →
    (∀ m, m ≠ n → m < 64 → s.online m = true → sgetD 0 s.rdg.missed m < s.lossTicks) →
    exec .stationLost s = .next (s.loseStation n)) ∧
  (∀ s : State, s.isManager = false → s.isWorker = true → s.lossTicks ≤ sgetD 0 s.rdg.missed 0 →
    s.rdg.lost.contains 0 = false → exec .stationLost s = .next (s.loseStation 0))

/-- Streams and the bridge (R341 to R350): a stream frame in order is taken once, its acknowledgement frees the frames sent;
a Spur performs stores and requests; the Summit's loads end by their completion or their time-out; T7 takes the end.
The rules named are where the clauses come from; the statement says parts of them.
Where the spec is silent it rests on the model's choices in the assumption log, entries 14 and 36. -/
def Obligations.RidgeStreams : Prop :=
  (∀ (s : State) (east late : Bool) (f : RidgeFrame), 4 ≤ f.type → f.type ≤ 9 → s.rdgOwn f = false → s.streamPeer f = true →
    let u := s.streamAck f.src f
    u.streamPeer f = true →
    (((u.stream f.src).expect = some f.seq ∨ (f.sync = true ∧ (u.stream f.src).opened ≠ some f.seq)) →
      let v := (u.setStream f.src { u.stream f.src with expect := some ((f.seq + 1) % 65536), last := some f.seq, ackDue := true, opened := if f.sync = true then some f.seq else (u.stream f.src).opened }).bump
        Reg.RDG_RXCNT
      s.ridgeFrame east late f = v.streamAct f.src f ∧ (v.stream f.src).expect = some ((f.seq + 1) % 65536)) ∧
    (¬ ((u.stream f.src).expect = some f.seq ∨ (f.sync = true ∧ (u.stream f.src).opened ≠ some f.seq)) →
      s.ridgeFrame east late f = u.bump Reg.RDG_DUPCNT)) ∧
  (∀ (s : State) (f : RidgeFrame) (n : Nat),
    (s.isManager = false → (f.type = 4 → s.streamAct n f = s.postedIn f.payload) ∧
      (f.type = 5 → s.streamAct n f = s.requestIn f.payload) ∧ (f.type = 7 → s.streamAct n f = s.tunnelIn n f.payload)) ∧
    (s.isManager = true → (f.type = 6 → s.streamAct n f = s.completionIn n f.payload) ∧
      (f.type = 7 → s.streamAct n f = s.tunnelIn n f.payload) ∧ (f.type = 8 → s.streamAct n f = s.irqIn n f.payload)) ∧
    (f.type = 9 → s.streamAct n f = s.relayReply f.payload)) ∧
  (∀ (s : State) (n : Nat) (f : RidgeFrame), (f.ackv = false → s.streamAck n f = s) ∧
    (f.type = 10 → s.rdgOwn f = false → s.streamPeer f = true → ∀ east late, s.ridgeFrame east late f =
      (if f.ackv = true then s.streamAck f.src f else s))) ∧
  (∀ (s : State) (p : List Byte),
    (let r := s.spurWrite (leAt p 0 4) (codeSize (leAt p 4 1)) (BitVec.ofNat 64 (leAt p 8 8))
     (r.2 = 0 → s.postedIn p = r.1) ∧ (r.2 ≠ 0 → s.postedIn p = r.1.sendCompletion 0xFF r.2 (leAt p 0 4) [])) ∧
    (s.rdg.requests.length < 16 → (s.requestIn p).rdg.requests =
      s.rdg.requests ++ [⟨leAt p 0 4, leAt p 4 1, leAt p 5 1, bitAt (leAt p 6 1) 0 == 1⟩] ∧ (s.requestIn p).regs = s.regs) ∧
    (16 ≤ s.rdg.requests.length → s.requestIn p = s.sendCompletion (leAt p 5 1) 0x80 (leAt p 0 4) [])) ∧
  (∀ (s : State) (q : QueuedRequest) (rest : List QueuedRequest), s.isWorker = true → s.rdgOn = true →
    s.rdg.requests = q :: rest → q.line = false →
    let u : State := { s with rdg.requests := rest }
    let r := u.spurRead q.addr (codeSize q.size)
    exec .requestService s =
      .next (r.1.sendCompletion q.tag r.2.1 q.addr (if r.2.1 = 0 then leBytes 8 r.2.2.toNat else []))) ∧
  (∀ (s : State) (addr size : Nat) (a : Arr) (w : Nat), decodeAddr s.slotNo addr true = .mem a w →
    (addr % size ≠ 0 → s.spurRead addr size = (s, 4, 0) ∧ ∀ d, s.spurWrite addr size d = (s, 4)) ∧
    (addr % size = 0 → ((s.mem.code a w).cls w).ok = true →
      (s.spurRead addr size).2 = (0, byteLane (s.readWord a w .bridge).2.2 addr size))) ∧
  (∀ (s : State) (n : Nat) (p : List Byte) (l : BridgeLoad), (s.bctx n).load = some l → l.tag = leAt p 0 1 → l.tag ≠ 0xFF →
    l.done = none →
    (leAt p 1 1 = 0 → l.line = false → s.completionIn n p = s.endLoad n 0 (BitVec.ofNat 64 (leAt p 8 8))) ∧
    (leAt p 1 1 = 0x80 → l.retries < s.retryLimit → ((s.completionIn n p).bctx n).load =
      some { l with retries := l.retries + 1, backoff := true }) ∧
    (leAt p 1 1 = 0x80 → s.retryLimit ≤ l.retries → s.completionIn n p = (s.bump Reg.BRG_RETRYCNT).endLoad n 6 0) ∧
    (leAt p 1 1 ≠ 0x80 → leAt p 1 1 ≠ 0 → s.completionIn n p = s.endLoad n (leAt p 1 1) 0)) ∧
  (∀ (s : State) (n st : Nat) (d : DWord) (l : BridgeLoad), 1 ≤ n → n ≤ 63 → st < 16 → (s.bctx n).load = some l → l.done = none →
    let t := s.endLoad n st d
    (t.bctx n).load = some { l with done := some (st, d), backoff := false } ∧ t.mem = s.mem ∧
    (st ≠ 0 → t.fld (Reg.BRG_FAR_CODE n) = BitVec.ofNat 32 st ∧ t.fld (Reg.BRG_FAR_WRITE n) = 0 ∧
      t.fld (Reg.BRG_FARCNT n) = satAdd (s.fld (Reg.BRG_FARCNT n)) 1 ∧ t.fld Reg.BRG_EVT_FAR = 1)) ∧
  (∀ (s : State) (n : Nat) (l : BridgeLoad), 1 ≤ n → n ≤ 63 → (s.bctx n).load = some l →
    (l.backoff = true → s.reach n = true → ∃ t, exec (.retryBackoff n) s = .next t ∧
      (t.bctx n).load = some { l with backoff := false } ∧
      (t.stream n).unacked.length = (s.stream n).unacked.length + 1 ∧ t.mem = s.mem) ∧
    (l.done = none → l.since + s.cplTimeout ≤ s.time.tick → (∀ m, m ≠ n → (s.bctx m).load = none) →
      exec .cplTimeout s = .next (s.endLoad n 7 0)) ∧
    (s.time.tick < l.since + s.cplTimeout → (∀ m, m ≠ n → (s.bctx m).load = none) → exec .cplTimeout s = .next s)) ∧
  (∀ (s : State) (n : Nat), n < 64 →
    ((s.stream n).ackDue = true → s.rdgOn = true → ∃ t, exec (.ackDelay n) s = .next t ∧ (t.stream n).ackDue = false ∧
      t.mem = s.mem) ∧
    (∀ f, s.reach n = true → (s.stream n).unacked = [f] → ∃ t, exec (.streamRetransmit n) s = .next t ∧
      t.fld Reg.RDG_RTXCNT = satAdd (s.fld Reg.RDG_RTXCNT) 1 ∧ (t.stream n).unacked = [f] ∧ t.mem = s.mem)) ∧
  (∀ (s : State) (n : Nat) (p : List Byte),
    s.irqIn n p = (s.dropLine n).ringIn (24 + leAt p 0 4 / 2 ^ 31 % 2) 8
      ⟨[], n, BitVec.ofNat 32 (leAt p 0 4 % 2 ^ 31), BitVec.ofNat 32 (leAt p 4 4)⟩ ∧
    (s.isManager = false → s.tunnelReady (leAt p 0 2) = false → s.tunnelIn n p = s.bump Reg.RDG_TUNDROPCNT)) ∧
  (∀ (s : State) (n off size st : Nat) (rt : Fin 16) (d : DWord), s.bestCyclic = none → (s.ce.task 8).ready = false →
    ∀ l, (s.ce.task 7).waiting = some (.load n off rt size) → (s.bctx n).load = some l → l.done = some (st, d) →
      let u := ((s.setBctx n { s.bctx n with load := none }).modTask 7 (fun t => { t with waiting := none })).dispatch
      (st = 0 → exec .bridgeCompletion s = .next (settle 7 (s.ce.task 7).ctx.pc
        (.done ((s.ce.task 7).ctx.loaded rt size d).next 6 u))) ∧
      (st ≠ 0 → exec .bridgeCompletion s = .next (settle 7 (s.ce.task 7).ctx.pc (.trap .bus 6 u)))) ∧
  (∀ s : State, s.rdg.farPending = true → s.ce.cur = some 7 → s.bridgeWaits = false → exec .bridgeFarError s =
    .next ((State.trap { s with rdg.farPending := false } 7 .storeError (s.ce.task 7).ctx.pc).dispatch))

/-! ### The pair -/

/-- Finding a partner and joining it (R356 to R360, R365 to R368): HELLO, the time-out of the search, the start of an epoch at
the active, the copy and its end on both sides, time-out and abort.
The rules named are where the clauses come from; the statement says parts of them.
Where the spec is silent it rests on the model's choices in the assumption log, entries 15, 17 and 37. -/
def Obligations.PairJoin : Prop :=
  (∀ s : State, s.mode ≠ .selftest → s.mode ≠ .recovery → s.colState < colSyncActive →
    exec (.hello none) s = .next (s.colSend 0x01 s.helloBytes)) ∧
  (∀ (s : State) (type : Nat) (p : List Byte), s.colUp = true → s.fiActs (if s.colLane = true then linkCol2 else linkCol1) false = false →
    ∃ f, (s.colSend type p).out = s.out ++ [.frame (if s.colLane = true then linkCol2 else linkCol1) (ColFrame.wire f true)] ∧
      f.type = type ∧ f.payload = p ∧ f.seq = s.col.txSeq ∧ f.active = (s.pairRole == 1) ∧
      (s.colSend type p).col.txSeq = (s.col.txSeq + 1) % 65536 ∧ (s.colSend type p).mem = s.mem) ∧
  (∀ (s : State) (f : ColFrame), s.cmd.longOp = none → (helloOf f).active = false →
    ∃ t, s.helloIn f = t ∧ t.col.partner = some (helloOf f) ∧
      t.fld Reg.COL_PARTNER_SERIAL = BitVec.ofNat 32 (helloOf f).serial ∧
      t.fld Reg.RDG_STAT_UNIT = b2w (decide ((helloOf f).serial < s.serial)) ∧ t.mode = s.mode ∧ t.mem = s.mem) ∧
  (∀ s : State, s.col.partner = none → s.colState = colSeeking →
    ∃ t, exec .partnerSeekTimeout s = .next t ∧ t.colState = colAlone ∧ t.mode = s.mode) ∧
  (∀ (s : State) (f : ColFrame) (delay : Nat), s.pairRole = 1 → s.mode.serves = true → s.colInjected = none →
    s.colState ≠ colServing → delay < 65536 → s.epoch < 65536 → let t := s.joinReqIn f delay
    t.colState = colServing ∧ t.epoch = (s.epoch + 1) % 65536 ∧ t.round = 0 ∧ t.col.dirty = allPages ∧
      t.col.joinSince = s.opNs ∧ (t.fld Reg.COL_DELAY_DELAY).toNat = delay ∧ t.mem = s.mem ∧ t.mode = s.mode) ∧
  (∀ (s : State) (f : ColFrame) (delay : Nat), s.mode = .joining → leAt f.payload 0 2 = 0 → f.epoch < 65536 → delay < 65536 →
    let t := s.joinAckIn f delay
    t.epoch = f.epoch ∧ (t.fld Reg.COL_DELAY_DELAY).toNat = delay ∧ t.mem = s.mem ∧ t.mode = s.mode) ∧
  (∀ (s : State) (f : ColFrame) (delay : Nat), f.epoch = s.epoch → s.mode = .joining →
    (f.type = 4 → s.colAct delay f = s.putPage f.tick f.payload) ∧ (f.type = 5 → s.colAct delay f = s.takeCut f.payload)) ∧
  (∀ (s : State) (w : Nat) (bad : Bool) (v : Nat), let t := s.putJoinWord 0 w bad v
    t.mem.code .ps w = (if bad = true then poisonWord w else encodeWord w (BitVec.ofNat 64 v)) ∧
    ∀ x, x ≠ w → t.mem.code .ps x = s.mem.code .ps x) ∧
  (∀ (s : State) (p : List Byte), (s.takeCut p).time.tick = leAt p 0 8 ∧ (s.takeCut p).col.cutTaken = true ∧
    (s.takeCut p).net.pubCount = leAt p 8 4 ∧ (s.takeCut p).mem = s.mem) ∧
  (∀ s : State, s.colState = colServing → s.round = 0 ∨ s.deltaPages < s.col.dirty.length →
    ∃ t, exec .joinCopyRound s = .next t ∧ t.col.dirty = [] ∧ t.round = min 255 (s.round + 1) ∧
      ∀ a w, t.mem.code a w = s.mem.code a w) ∧
  (∀ s : State, s.colState = colServing → s.mode.serves = true → 1 ≤ s.round → s.col.dirty.length ≤ s.deltaPages →
    s.bestCyclic = none → (s.ce.task 7).waiting = none → s.ce.switchNow = false → s.ce.store = [] →
    ∃ t, exec .finalDelta s = .next t ∧ t.colState = colSyncActive ∧ t.col.dirty = [] ∧ t.fld Reg.COL_EVT_JOIN_DONE = 1 ∧
      t.fld Reg.COL_JOINCNT = satAdd (s.fld Reg.COL_JOINCNT) 1 ∧ (∀ a w, t.mem.code a w = s.mem.code a w) ∧ t.mode = s.mode) ∧
  (∀ s : State, s.colState = colServing → s.col.joinSince + s.joinTimeout * 1000000000 ≤ s.opNs →
    ∃ t, exec .joinTimeout s = .next t ∧ t.colState = colAlone ∧ t.fld Reg.COL_JOINFAILCNT = satAdd (s.fld Reg.COL_JOINFAILCNT) 1 ∧
      t.fld Reg.COL_EVT_JOIN_ABORT = 1 ∧ t.col.dirty = [] ∧ t.mem = s.mem ∧ t.mode = s.mode) ∧
  (∀ (s : State) (f : ColFrame), s.mode ≠ .joining → s.colState = colServing →
    (s.abortIn f).colState = colAlone ∧ (s.abortIn f).fld Reg.COL_JOINFAILCNT = satAdd (s.fld Reg.COL_JOINFAILCNT) 1 ∧
    (s.abortIn f).mem = s.mem ∧ (s.abortIn f).mode = s.mode)

/-- A pair in step, and its end (R354, R357, R361 to R363, R369, R370, R373): GROUP and MARK at the standby, a gap, lanes, the
loss of the partner with the takeover, and the swap of the roles.
The rules named are where the clauses come from; the statement says parts of them.
Where the spec is silent it rests on the model's choices in the assumption log, entries 15, 17 and 37. -/
def Obligations.PairInStep : Prop :=
  (∀ (s : State) (delay : Nat) (f : ColFrame), f.epoch = s.epoch → s.inStream = true → s.col.rejoinDue = false →
    (f.type = 6 → s.colAct delay f = { s with col.groups := s.col.groups ++ [f.payload] }) ∧
    (f.type = 7 → s.colAct delay f = s.markIn f)) ∧
  (∀ (s : State) (f : ColFrame),
    (s.col.groups.length ≠ leAt f.payload 16 4 → s.markIn f = s.streamGap) ∧
    (s.col.groups = [] → leAt f.payload 16 4 = 0 → ∃ t, s.markIn f = t ∧ t.col.mark = some (markOf f.payload) ∧
      t.col.markMode = leAt f.payload 8 1 ∧ t.col.groups = [] ∧ t.col.swapAt = (markOf f.payload).swap ∧ t.mem = s.mem)) ∧
  (∀ (s : State) (delay : Nat) (f : ColFrame), f.type = 10 → s.colAct delay f = s.partnerLost) ∧
  (∀ s : State, s.col.ahead ≠ [] → s.inStream = true → s.col.rejoinDue = false →
    let u := (s.bump Reg.COL_GAPCNT).flag Reg.COL_EVT_STREAM_GAP true
    (s.mode = .joining → exec .streamGap s = .next { u.backToJoining with col.ahead := [], col.rxSeq := none }) ∧
    (s.mode ≠ .joining → exec .streamGap s = .next { u with col.rejoinDue := true, col.ahead := [], col.rxSeq := none })) ∧
  (∀ s : State, s.mode = .standby → s.rejoin = s.backToJoining ∧ s.backToJoining.mode =
    if 2 ≤ (s.col.rejoins.filter (fun t => decide (s.opSec - t < 3600))).length then .stopped else .joining) ∧
  (∀ s : State, s.mode ≠ .selftest → s.mode ≠ .recovery → exec (.beat none) s = .next (s.colSend 0x08 [])) ∧
  (∀ (s : State) (b : Bool), s.fld (laneBit b) = 1 → s.fld (laneBit (!b)) = 1 →
    ∃ t, exec (.colLaneDown b) s = .next t ∧ t.fld (laneBit b) = 0 ∧ t.fld (laneBit (!b)) = 1 ∧
      t.fld Reg.COL_EVT_LANE_DOWN = 1 ∧ t.fld Reg.COL_LANEDOWNCNT = satAdd (s.fld Reg.COL_LANEDOWNCNT) 1 ∧
      t.colState = s.colState ∧ t.mode = s.mode ∧ t.mem = s.mem) ∧
  (∀ (s : State) (b : Bool), s.fld Reg.COL_CTRL_ENABLE = 1 →
    ∃ t, exec (.colLaneUp b) s = .next t ∧ t.fld (laneBit b) = 1 ∧ t.mode = s.mode ∧ t.mem = s.mem ∧
      (s.fld (laneBit false) = 0 → s.fld (laneBit true) = 0 → t.col.txSeq = 0 ∧ t.col.rxSeq = none)) ∧
  (∀ s : State, s.fld (laneBit false) = 1 ∨ s.fld (laneBit true) = 1 →
    exec .colSignalLoss s = .next ((s.laneDown false).laneDown true).partnerLost) ∧
  (∀ s : State, s.col.partner.isSome = true ∨ colServing ≤ s.colState →
    exec .partnerSilenceTimeout s = .next s.partnerLost) ∧
  (∀ s : State, s.cmd.forwarded = [] →
    (s.colState = colSyncActive → s.partnerLost.colState = colAlone ∧ s.partnerLost.mode = s.mode ∧
      s.partnerLost.fld Reg.COL_EVT_PARTNER_LOST = 1 ∧ s.partnerLost.mem = s.mem) ∧
    (s.colState = colServing → s.partnerLost.colState = colAlone ∧ s.partnerLost.mode = s.mode ∧
      s.partnerLost.fld Reg.COL_JOINFAILCNT = satAdd (s.fld Reg.COL_JOINFAILCNT) 1 ∧ s.partnerLost.mem = s.mem)) ∧
  (∀ s : State, s.mode = .standby → s.sup.modeWait = none → s.col.own = [] →
    (s.takeOver).mode = (if s.col.markMode = 8 then Mode.test else Mode.run) ∧ s.takeOver.pairRole = 1 ∧
    s.takeOver.colState = colAlone ∧ s.takeOver.fld Reg.WTB_STAT_INAUG_DONE = 0 ∧ s.takeOver.fld Reg.COL_EVT_TAKEOVER = 1 ∧
    s.takeOver.fld Reg.COL_TAKEOVERCNT = satAdd (s.fld Reg.COL_TAKEOVERCNT) 1 ∧
    (s.colState = colSyncStandby → s.cmd.forwarded = [] →
      (s.cv.degradeDue = true → s.partnerLost.mode = .standby ∧ s.partnerLost.colState = colAlone) ∧
      (s.cv.degradeDue = false → s.col.rejoinDue = true → s.partnerLost.mode = .standby ∧ s.partnerLost.colState = colSyncStandby) ∧
      (s.cv.degradeDue = false → s.col.rejoinDue = false → s.partnerLost.mode = s.takeOver.mode ∧
        s.partnerLost.colState = colAlone ∧ s.partnerLost.pairRole = 1))) ∧
  (∀ s : State, s.col.swapAt = some (s.time.tick % 2 ^ 32) → s.cmd.longOp = none →
    (s.colState = colSyncStandby → s.mode = .standby → s.col.own = [] → ∃ t, exec .swapTick s = .next t ∧ t.mode = .run ∧
      t.pairRole = 1 ∧ t.colState = colSyncActive ∧ t.col.swapAt = none) ∧
    (s.colState = colSyncActive → s.mode = .run → ∃ t, exec .swapTick s = .next t ∧ t.mode = .standby ∧ t.pairRole = 2 ∧
      t.colState = colSyncStandby ∧ t.col.swapAt = none))

/-! ### Cairn, Trig, fault injection -/

/-- Cairn (R432 to R436, R441): a report that repeats the open record merges into it, any other becomes a record with the next
SEQ, the open one being closed; intake takes the queues by subsystem number; drops, refreshes and scans are noted.
The rules named are where the clauses come from; the statement says parts of them.
Where the spec is silent it rests on the model's choices in the assumption log, entries 6 and 28. -/
def Obligations.CairnRecords : Prop :=
  (∀ (s : State) (sub : Nat) (r : Report) (rest : List Report),
    s.cairn.intake.find? (fun e => !e.2.isEmpty) = some (sub, r :: rest) → exec .cairnRecordIntake s =
      .next (State.takeRecord { s with cairn.intake := ssetD [] s.cairn.intake sub rest } r)) ∧
  (∀ (s : State) (r : Report) (o : Record), (s.cairnOf r.cls).openRec = some o → o.merges r = true → let t := s.takeRecord r
    (t.cairnOf r.cls).stored = (s.cairnOf r.cls).stored.dropLast ++ [o.again r] ∧
    (t.cairnOf r.cls).next = (s.cairnOf r.cls).next ∧ t.fld Reg.LOG_REPCNT = satAdd (s.fld Reg.LOG_REPCNT) 1 ∧ t.mem = s.mem) ∧
  (∀ (s : State) (r : Report), (s.cairnOf r.cls).openRec = none → (s.cairnOf r.cls).stored.length < r.cls.capacity →
    let t := s.takeRecord r
    (t.cairnOf r.cls).stored = (s.cairnOf r.cls).stored ++ [⟨(s.cairnOf r.cls).next, r, 0, false, r.time, r.payload⟩] ∧
    (t.cairnOf r.cls).next = (s.cairnOf r.cls).next + 1 ∧ (t.cairnOf r.cls).isOpen = true) ∧
  (∀ (o : Record) (r : Report), o.rep < 0xFFFF → (o.again r).rep = o.rep + 1 ∧ (o.again r).timeLast = r.time ∧
    (o.again r).payload = r.payload ∧ (o.again r).seq = o.seq ∧ (o.again r).sat = o.sat) ∧
  (∀ (s : State) (sub n : Nat), s.cairn.dropped = [(sub, n)] → (sgetD [] s.cairn.intake 14).length < 256 →
    ∃ t, exec .logSourceDrop s = .next t ∧ t.cairn.dropped = [] ∧ sgetD [] t.cairn.intake 14 = sgetD [] s.cairn.intake 14 ++
      [s.mkReport .d .warn 0x0E01 (srcNo 14 sub) (leBytes 4 n)] ∧ t.regs = s.regs ∧ t.mem = s.mem) ∧
  (∀ (s : State) (part : Nat), s.refreshable part = true → s.refreshDue part = true →
    (∃ t, exec (.flashRefresh part true) s = .next t ∧ t.fld Reg.LOG_EVT_REFRESH_DONE = 1 ∧
      t.fld Reg.LOG_REFRESHCNT = satAdd (s.fld Reg.LOG_REFRESHCNT) 1 ∧ sget t.cairn.refreshed part = some s.opSec ∧
      part ∉ t.cairn.dueNow ∧ t.mem = s.mem ∧ t.mode = s.mode) ∧
    (∃ t, exec (.flashRefresh part false) s = .next t ∧ t.fld Reg.LOG_EVT_REFRESH_ERR = 1 ∧
      t.cairn.refreshed = s.cairn.refreshed ∧ t.mem = s.mem ∧ t.mode = s.mode)) ∧
  (∀ (s : State) (part bits : Nat), ∃ t, exec (.flashRetentionScan part bits true) s = .next t ∧
    sgetD 0 t.cairn.corrected part = bits ∧ part ∈ t.cairn.dueNow ∧ t.regs = s.regs ∧ t.mem = s.mem)

/-- Measurement at Trig (R413 to R420, R424, R425): a sample counts time and window; a window's energy is added and shown; a
second is classified; a period becomes a signed record with the next SEQ, or is deferred where the log is full; the seal.
The rules named are where the clauses come from; the statement says parts of them.
Where the spec is silent it rests on the model's choices in the assumption log, entry 30. -/
def Obligations.TrigMeasurement : Prop :=
  (∀ (s : State) (a b c d e f : Int), s.trig.running = true → s.trig.sec.n < 8000 → s.trig.periodDue = false →
    s.trig.windowDue = false → ∃ t, exec (.metrologySample a b c d e f) s = .next t ∧ t.trig.winN = s.trig.winN + 1 ∧
      t.trig.sec.n = s.trig.sec.n + 1 ∧ t.trig.opNs = s.trig.opNs + 125000 ∧
      t.trig.utc = (if s.trig.utcValid = true then s.trig.utc + 125000 else s.trig.utc) ∧
      (∀ u i, s.trig.uInput 1 = 1 → s.trig.iInput 1 = 3 → clip a = u → clip c = i →
        t.trig.win1 = ⟨s.trig.win1.ui + u * i, s.trig.win1.uu + u.natAbs ^ 2, s.trig.win1.ii + i.natAbs ^ 2⟩) ∧
      (a > clipLimit → t.trig.overSec = true ∧ t.trig.period.flags.testBit 9 = true) ∧ t.regs = s.regs ∧ t.mem = s.mem) ∧
  (∀ s : State, s.trig.running = true → s.trig.windowDue = true → ∃ t, exec .energyWindowEnd s = .next t ∧
    t.trig = { s.trig.endWindow with overSec := false } ∧ t.fld Reg.EMP_P1 = (s.trig.view 1 s.trig.win1).1 ∧
    t.fld Reg.EMP_U1 = (s.trig.view 1 s.trig.win1).2.1 ∧ t.fld Reg.EMP_I1 = (s.trig.view 1 s.trig.win1).2.2) ∧
  (∀ t : Trig, t.used 1 = true → t.used 2 = false → (t.energy 1 t.win1).1 = false →
    t.endWindow.ms1.cons = t.ms1.cons + (t.energy 1 t.win1).2 ∧ t.endWindow.cumCons = t.cumCons + (t.energy 1 t.win1).2 ∧
    t.endWindow.ms1.regen = t.ms1.regen ∧ t.endWindow.cumRegen = t.cumRegen ∧ t.endWindow.winN = 0) ∧
  (∀ s : State, s.trig.running = true → 8000 ≤ s.trig.sec.n → ∃ t, exec .supplySystemClassify s = .next t ∧
    t.trig.sec = ⟨0, 0, 0, 0⟩ ∧ t.trig.sysNew = s.trig.classify ∧ t.trig.system = s.trig.system ∧
    t.trig.sysCount = (if s.trig.classify = s.trig.system then 0
      else if s.trig.classify = s.trig.sysNew then s.trig.sysCount + 1 else 1) ∧
    (s.trig.classify ≠ s.trig.system → s.trig.classify = s.trig.sysNew → s.trig.sysCount = 2 → t.trig.ending.isSome = true) ∧
    t.regs = s.regs ∧ t.mem = s.mem) ∧
  (∀ s : State, s.trig.running = true → s.trig.periodDue = true → s.trig.winN = 0 →
    (s.trig.hasRoom = true → ∃ t, exec .periodEnd s = .next t ∧ t.trig.nextSeq = s.trig.nextSeq + 1 ∧
      t.trig.log.getLast? = some (s.trig.nextSeq, s.trig.signed s.trig.periodRecord) ∧ t.trig.deferred = 0 ∧
      t.trig.ms1 = ⟨s.trig.ms1.cons % 3600000, s.trig.ms1.regen % 3600000⟩ ∧ t.trig.ending = none ∧ t.mem = s.mem) ∧
    (s.trig.hasRoom = false → ∃ t, exec .periodEnd s = .next t ∧ t.trig.nextSeq = s.trig.nextSeq ∧ t.trig.log = s.trig.log ∧
      t.trig.deferred = s.trig.deferred + 1 ∧ t.trig.ms1 = s.trig.ms1 ∧ t.trig.ending = none ∧ t.mem = s.mem)) ∧
  (∀ s : State, s.trig.running = true →
    (s.trig.sealOpen = false → ∃ t, exec .sealOpened s = .next t ∧ t.trig.sealOpen = true ∧
      t.trig.sealCnt = min 0xFFFFFFFF (s.trig.sealCnt + 1) ∧ t.fld Reg.EMP_STAT_SEAL_OPEN = 1 ∧
      t.trig.period.flags.testBit 12 = true ∧ (s.trig.hasRoom = true → t.trig.nextSeq = s.trig.nextSeq + 1) ∧ t.mem = s.mem) ∧
    (s.trig.sealOpen = true → ∃ t, exec .sealClosed s = .next t ∧ t.trig.sealOpen = false ∧ t.trig.sealCnt = s.trig.sealCnt ∧
      t.trig.update = none ∧ t.fld Reg.EMP_STAT_SEAL_OPEN = 0 ∧ t.mem = s.mem))

/-- The mailbox and the restarts of Trig (R411, R421 to R423, R428, R452): TIME and POSITION are taken or discarded, the
supervisor sends them, a restart loses the position and the running window, and the period goes on as interrupted.
The rules named are where the clauses come from; the statement says parts of them.
Where the spec is silent it rests on the model's choices in the assumption log, entries 31 and 45. -/
def Obligations.TrigMailbox : Prop :=
  (∀ (s : State) (m p : List Byte), s.trig.running = true → mailPayload 0x01 m = some p →
    (p.length = 12 → 1 ≤ fieldAt p 8 1 → fieldAt p 8 1 ≤ 3 → ∃ t, exec (.time m) s = .next t ∧ t.trig.utc = fieldAt p 0 8 ∧
      t.trig.utcValid = true ∧ t.trig.opNs = s.trig.opNs ∧ t.regs = s.regs ∧ t.mem = s.mem ∧
      (s.trig.utcValid = false → t.trig.ending.isSome = true)) ∧
    (p.length ≠ 12 → exec (.time m) s = .next (s.onTrig Trig.discard))) ∧
  (∀ (s : State) (m p : List Byte), s.trig.running = true → mailPayload 0x02 m = some p → p.length = 8 →
    let lat := BitVec.ofNat 32 (fieldAt p 0 4)
    let lon := BitVec.ofNat 32 (fieldAt p 4 4)
    (lat.toInt.natAbs ≤ 900000000 → lon.toInt.natAbs ≤ 1800000000 → exec (.position m) s =
      .next (s.onTrig (fun t => { t with pos := some (lat, lon, t.opNs) }))) ∧
    (900000000 < lat.toInt.natAbs ∨ 1800000000 < lon.toInt.natAbs → exec (.position m) s = .next (s.onTrig Trig.discard))) ∧
  (∀ (s : State) (m b : List Byte), mailPayload 0x03 m = some b →
    (∀ e op r, s.cmd.forwarded.find? (fun e => e.1 == fieldAt b 4 2 && e.2.target == 1 && e.2.tag == (reqOf 0 0 false b).tag &&
        e.2.session == (reqOf 0 0 false b).session) = some e → framing e.2.transport e.2.source false b = .passed op r →
      headerFault b = none → exec (.packet m) s = .next (s.trigRequest op r)) ∧
    (s.cmd.forwarded = [] → exec (.packet m) s = .next (s.onTrig Trig.discard))) ∧
  (∀ (s : State), bitAt (s.cfg 0x16 0x00 4) 31 = 0 → bitAt (s.cfg 0x16 0x04 4) 31 = 0 →
    (s.time.utcValid = true → exec .mailboxSend s = .next (s.toTrig 0x01 (leBytes 8 s.time.utc ++
      [BitVec.ofNat 8 (s.fld Reg.ESW_PTPSTAT_SOURCE).toNat, 0, 0, 0]))) ∧
    (s.ringOn 28 = false → ∀ p, s.toTrig 0x01 p = s.emit (.mailbox 0x01 (mailMessage 0x01 p))) ∧
    (s.time.utcValid = false → exec .mailboxSend s = .next s)) ∧
  (∀ s : State, s.trig.running = true → ∃ t, exec .trigRestart s = .next t ∧ t.trig.running = false ∧ t.trig.fault = true ∧
    t.trig.pos = none ∧ t.trig.winN = 0 ∧ t.trig.cumCons = s.trig.cumCons ∧ t.trig.ms1 = s.trig.ms1 ∧
    t.fld Reg.EMP_STAT_FAULT = 1 ∧ t.fld Reg.EMP_STAT_RUNNING = 0 ∧ t.mem = s.mem ∧ t.mode = s.mode) ∧
  (∀ (s : State) (one : Bool), s.trig.running = false → s.sup.powered = true → s.trig.startBank = some one → s.trig.inbox = [] →
    ∃ t, exec .trigRestartDone s = .next t ∧ t.trig.running = true ∧ t.trig.fault = false ∧ t.trig.active1 = one ∧
      t.trig.period.flags.testBit 10 = true ∧ t.trig.opNs = s.trig.opNs ∧ t.mem = s.mem ∧ t.mode = s.mode)

/-- The Link Fault Injector (R474 to R478): every N-th frame is selected; DROP discards it, CORRUPT inverts one bit, DELAY holds
at most 16 frames; removing an injection sends what it holds; a held frame leaves when its delay is over; a permit ends.
The rules named are where the clauses come from; the statement says parts of them.
Where the spec is silent it rests on the model's choices in the assumption log, entry 38. -/
def Obligations.FaultInjection : Prop :=
  (∀ (s : State) (l : Nat) (rx : Bool) (f : LinkFrame), s.fiActs l rx = false → s.fiPass l rx f = (s, [f])) ∧
  (∀ (s : State) (l : Nat) (rx : Bool) (f : LinkFrame), l < 48 → s.fiActs l rx = true → s.fld (Reg.FI_CFG_SELECT l) = 0 →
    let n := sgetD 0 s.fi.seen l + 1
    let r := s.fiPass l rx f
    let hit := n % (s.fld (Reg.FI_NPAR l)).toNat = 0
    sgetD 0 r.1.fi.seen l = n ∧ r.1.mem = s.mem ∧ r.1.mode = s.mode ∧
    (s.fld (Reg.FI_CFG_KIND l) = 1 → hit → r.2 = [] ∧ r.1.fld (Reg.FI_INJCNT l) = satAdd (s.fld (Reg.FI_INJCNT l)) 1) ∧
    (s.fld (Reg.FI_CFG_KIND l) = 1 → ¬ hit → r.2 = [f] ∧ r.1.fld (Reg.FI_INJCNT l) = s.fld (Reg.FI_INJCNT l)) ∧
    (s.fld (Reg.FI_CFG_KIND l) = 2 → hit →
      let j := bitsAt (s.fld (Reg.FI_APAR l)).toNat 0 12
      let b := bitsAt (s.fld (Reg.FI_APAR l)).toNat 12 3
      let fix := bitAt (s.fld (Reg.FI_APAR l)).toNat 15 == 1
      let bs := f.bytes.set j (f.bytes.getD j 0 ^^^ BitVec.ofNat 8 (2 ^ b))
      (f.bytes.length ≤ j → r.2 = [f]) ∧
      (j < f.bytes.length → s.linkChecked l = true → r.2 = [⟨if fix = true then s.recheck l bs else bs, fix⟩])) ∧
    (s.fld (Reg.FI_CFG_KIND l) = 4 → hit → (sgetD [] s.fi.held l).length < 16 → r.2 = [] ∧
      sgetD [] r.1.fi.held l = sgetD [] s.fi.held l ++ [⟨rx, f, bitsAt (s.fld (Reg.FI_APAR l)).toNat 0 17, true⟩]) ∧
    (s.fld (Reg.FI_CFG_KIND l) = 4 → hit → (sgetD [] s.fi.held l).length = 16 → r.2 = [] ∧
      r.1.fld Reg.FI_EVT_HELD_LOST = 1 ∧ r.1.fld Reg.FI_HELDLOSTCNT = satAdd (s.fld Reg.FI_HELDLOSTCNT) 1)) ∧
  (∀ (s : State) (l c : Nat), l < 48 → s.fiArmed l = true → let t := s.fiRemove l c
    t.fiArmed l = false ∧ sgetD [] t.fi.held l = [] ∧ t.fld (Reg.FI_CFG_KIND l) = 0 ∧ t.mem = s.mem ∧ t.mode = s.mode ∧
    t.out = s.out ++ (((sgetD [] s.fi.held l).filter (fun h => !h.rx)).map (·.frame)).map (fun f => Emit.frame l f)) ∧
  (∀ (s : State) (l : Fin 48) (h : Held), s.fld (Reg.FI_CFG_KIND l.val) = 4 → sgetD [] s.fi.held l.val = [h] → h.rx = false →
    s.fi.released = [] → ∃ t, exec (.fiDelayExpiry l) s = .next t ∧ sgetD [] t.fi.held l.val = [] ∧
      t.out = s.out ++ [.frame l.val h.frame] ∧ t.mem = s.mem ∧ t.mode = s.mode) ∧
  (∀ (s : State) (e : Nat), s.fi.permitEnd = some e → e ≤ s.opNs →
    s.fiPermitEnd.fi.permitEnd = none ∧ s.fiPermitEnd.fld Reg.FI_STAT_PERMIT = 0 ∧
    s.fiPermitEnd.fld Reg.FI_EVT_PERMIT_ENDED = 1 ∧
    (s.mode = .run → exec .fiPermitEnded s = .next ((s.fiPermitEnd.fiRemoveAll 2).deliverReleased)) ∧
    (s.mode ≠ .run → exec .fiPermitEnded s = .next s.fiPermitEnd))
end

