-- ==== Sys2Proof/Laws/Sparse.lean ====
section
/-! SUPPORT. Laws of sparse data: what a read gives after a write, and that writes keep the canonical form. -/
namespace Sys2Proof.Machine

section Read
variable {α : Type}

theorem sget_sput_same (m : Sparse α) (k : Nat) (v : α) : sget (sput m k v) k = some v := by
  induction m with
  | nil => simp [sput, sget]
  | cons p t ih =>
    obtain ⟨j, w⟩ := p
    unfold sput
    split
    · simp [sget]
    · split
      · simp [sget]
      · simp [sget, ih, show ¬ j = k by omega]

theorem sget_sput_other (m : Sparse α) {j k : Nat} (v : α) (h : j ≠ k) : sget (sput m k v) j = sget m j := by
  induction m with
  | nil => simp [sput, sget, h.symm]
  | cons p t ih =>
    obtain ⟨i, w⟩ := p
    unfold sput
    split
    · simp [sget, h.symm]
    · split
      · subst i; simp [sget, h.symm]
      · simp [sget, ih]

theorem sget_sput (m : Sparse α) (j k : Nat) (v : α) : sget (sput m k v) j = if j = k then some v else sget m j := by
  split
  · next h => subst h; exact sget_sput_same m j v
  · next h => exact sget_sput_other m v h

theorem sget_serase (m : Sparse α) (j k : Nat) : sget (serase m k) j = if j = k then none else sget m j := by
  induction m with
  | nil => simp [serase, sget]
  | cons p t ih =>
    obtain ⟨i, w⟩ := p
    by_cases hi : i = k
    · subst hi
      rw [serase, List.filter_cons_of_neg (by simp)]
      rw [serase] at ih
      rw [ih]
      by_cases hj : j = i
      · simp [hj]
      · simp [hj, sget, Ne.symm hj]
    · rw [serase, List.filter_cons_of_pos (by simpa using hi)]
      rw [serase] at ih
      simp only [sget, ih]
      by_cases hj : j = k
      · subst hj; simp [hi]
      · simp [hj]

variable [DecidableEq α]

theorem sgetD_ssetD (d : α) (m : Sparse α) (j k : Nat) (v : α) :
    sgetD d (ssetD d m k v) j = if j = k then v else sgetD d m j := by
  unfold ssetD sgetD
  split
  · next hv => rw [sget_serase]; split <;> simp [hv]
  · rw [sget_sput]; split <;> simp

end Read

section Canonical
variable {α : Type}

theorem sorted_tail {p : Nat × α} {t : Sparse α} (h : sorted (p :: t) = true) : sorted t = true := by
  cases t with
  | nil => rfl
  | cons q t => simp only [sorted, Bool.and_eq_true] at h; exact h.2

theorem sorted_head_lt {p q : Nat × α} {t : Sparse α} (h : sorted (p :: t) = true) (hq : q ∈ t) : p.1 < q.1 := by
  induction t generalizing p with
  | nil => cases hq
  | cons r t ih =>
    simp only [sorted, Bool.and_eq_true, decide_eq_true_eq] at h
    cases hq with
    | head => exact h.1
    | tail _ hq => exact h.1.trans (ih h.2 hq)

theorem sorted_cons {p : Nat × α} {t : Sparse α} (ht : sorted t = true) (h : ∀ q ∈ t, p.1 < q.1) :
    sorted (p :: t) = true := by
  cases t with
  | nil => rfl
  | cons q t => simp only [sorted, Bool.and_eq_true, decide_eq_true_eq]; exact ⟨h q (by simp), ht⟩

theorem sorted_serase {m : Sparse α} (h : sorted m = true) (k : Nat) : sorted (serase m k) = true := by
  induction m with
  | nil => rfl
  | cons p t ih =>
    have ht := ih (sorted_tail h)
    rw [serase] at *
    by_cases hp : p.1 = k
    · rw [List.filter_cons_of_neg (by simpa using hp)]; exact ht
    · rw [List.filter_cons_of_pos (by simpa using hp)]
      exact sorted_cons ht (fun q hq => sorted_head_lt h (List.mem_filter.mp hq).1)

theorem mem_sput {m : Sparse α} {k : Nat} {v : α} {q : Nat × α} (h : q ∈ sput m k v) : q = (k, v) ∨ q ∈ m := by
  induction m with
  | nil => simpa [sput] using h
  | cons p t ih =>
    unfold sput at h
    split at h
    · simpa using h
    · split at h
      · rcases List.mem_cons.mp h with h | h
        · exact .inl h
        · exact .inr (List.mem_cons_of_mem _ h)
      · rcases List.mem_cons.mp h with h | h
        · exact .inr (by simp [h])
        · rcases ih h with h | h
          · exact .inl h
          · exact .inr (List.mem_cons_of_mem _ h)

theorem sorted_sput {m : Sparse α} (h : sorted m = true) (k : Nat) (v : α) : sorted (sput m k v) = true := by
  induction m with
  | nil => rfl
  | cons p t ih =>
    obtain ⟨i, w⟩ := p
    unfold sput
    split
    · next hk => simp only [sorted, Bool.and_eq_true, decide_eq_true_eq]; exact ⟨hk, h⟩
    · split
      · next hk => exact sorted_cons (sorted_tail h) (fun q hq => by simpa [hk] using sorted_head_lt h hq)
      · next h1 h2 =>
        refine sorted_cons (ih (sorted_tail h)) (fun q hq => ?_)
        rcases mem_sput hq with rfl | hq
        · simp; omega
        · exact sorted_head_lt h hq

variable [DecidableEq α]

/-- A write keeps the canonical form. -/
theorem canonical_ssetD {d : Nat → α} {m : Sparse α} (h : canonical d m = true) (k : Nat) (v : α) :
    canonical d (ssetD (d k) m k v) = true := by
  simp only [canonical, Bool.and_eq_true, List.all_eq_true, decide_eq_true_eq] at *
  unfold ssetD
  split
  · exact ⟨sorted_serase h.1 k, fun p hp => h.2 p (List.mem_filter.mp hp).1⟩
  · next hv =>
    refine ⟨sorted_sput h.1 k v, fun p hp => ?_⟩
    rcases mem_sput hp with rfl | hp
    · exact hv
    · exact h.2 p hp

end Canonical

end Sys2Proof.Machine
end

