-- ==== Sys2Proof/Laws/State.lean ====
section
/-! SUPPORT. Laws of the register operations: what a field reads after a write, and what a write leaves alone. -/
namespace Sys2Proof.Machine

variable (s : State) (k j n : Nat) (v : Word) (b : Bool)

/-- A field depends on the register file alone. -/
theorem fld_eq_of_regs {s t : State} {k : Nat} (h : s.regs = t.regs) : s.fld k = t.fld k := by
  unfold State.fld; rw [h]

/-- A change of other parts of the state leaves the fields alone. -/
@[simp] theorem fld_with (x : State) (a0 : List Instr) (a1 : Mode) (a3 : Sparse Word) (a4 : Sparse Word) (a5 : List
    WdWrite) (a6 : Nat) (a7 : Time) (a8 : Mem) (a9 : Images) (a10 : Ce) (a11 : Saddle) (a12 : Cairn) (a13 : Cmd) (a14
    : Sup) (a15 : Rings) (a16 : Fi) (a17 : Net) (a18 : Bus) (a19 : Ridge) (a20 : Col) (a21 : FieldUnit) (a22 :
    SafetyUnit) (a23 : Pwr) (a24 : Trig) (a25 : List Emit) :
    State.fld ⟨a0, a1, x.regs, a3, a4, a5, a6, a7, a8, a9, a10, a11, a12, a13, a14, a15, a16, a17, a18, a19, a20, a21,
    a22, a23, a24, a25⟩ k = x.fld k := rfl

/-- A field reads what was written last. -/
theorem fld_setFld : (s.setFld k v).fld j = if j = k then v else s.fld j := by
  unfold State.setFld State.fld
  by_cases h : j = k
  · subst h; simp [sgetD_ssetD]
  · simp only [h, if_false]
    unfold ssetD sgetD
    split
    · rw [sget_serase]; simp [h]
    · rw [sget_sput]; simp [h]

@[simp] theorem fld_setFld_same : (s.setFld k v).fld k = v := by simp [fld_setFld]
theorem fld_setFld_other {s : State} {k j : Nat} {v : Word} (h : j ≠ k) : (s.setFld k v).fld j = s.fld j := by
  simp [fld_setFld, h]

@[simp] theorem fld_flag_same : (s.flag k b).fld k = b2w b := by simp [State.flag]
theorem fld_flag : (s.flag k b).fld j = if j = k then b2w b else s.fld j := by simp [State.flag, fld_setFld]
theorem fld_bump : (s.bump k).fld j = if j = k then satAdd (s.fld k) 1 else s.fld j := by
  simp [State.bump, State.bumpBy, fld_setFld]
@[simp] theorem fld_bump_same : (s.bump k).fld k = satAdd (s.fld k) 1 := by simp [fld_bump]


/-! `setFld` changes registers alone. -/

@[simp] theorem setFld_pending : (s.setFld k v).pending = s.pending := rfl
@[simp] theorem setFld_mode : (s.setFld k v).mode = s.mode := rfl
@[simp] theorem setFld_staged : (s.setFld k v).staged = s.staged := rfl
@[simp] theorem setFld_holding : (s.setFld k v).holding = s.holding := rfl
@[simp] theorem setFld_wd : (s.setFld k v).wd = s.wd := rfl
@[simp] theorem setFld_free : (s.setFld k v).free = s.free := rfl
@[simp] theorem setFld_time : (s.setFld k v).time = s.time := rfl
@[simp] theorem setFld_mem : (s.setFld k v).mem = s.mem := rfl
@[simp] theorem setFld_img : (s.setFld k v).img = s.img := rfl
@[simp] theorem setFld_ce : (s.setFld k v).ce = s.ce := rfl
@[simp] theorem setFld_cv : (s.setFld k v).cv = s.cv := rfl
@[simp] theorem setFld_cairn : (s.setFld k v).cairn = s.cairn := rfl
@[simp] theorem setFld_cmd : (s.setFld k v).cmd = s.cmd := rfl
@[simp] theorem setFld_sup : (s.setFld k v).sup = s.sup := rfl
@[simp] theorem setFld_ring : (s.setFld k v).ring = s.ring := rfl
@[simp] theorem setFld_fi : (s.setFld k v).fi = s.fi := rfl
@[simp] theorem setFld_net : (s.setFld k v).net = s.net := rfl
@[simp] theorem setFld_bus : (s.setFld k v).bus = s.bus := rfl
@[simp] theorem setFld_rdg : (s.setFld k v).rdg = s.rdg := rfl
@[simp] theorem setFld_col : (s.setFld k v).col = s.col := rfl
@[simp] theorem setFld_field : (s.setFld k v).field = s.field := rfl
@[simp] theorem setFld_sf : (s.setFld k v).sf = s.sf := rfl
@[simp] theorem setFld_pwr : (s.setFld k v).pwr = s.pwr := rfl
@[simp] theorem setFld_trig : (s.setFld k v).trig = s.trig := rfl
@[simp] theorem setFld_out : (s.setFld k v).out = s.out := rfl

/-! `flag` changes registers alone. -/

@[simp] theorem flag_pending : (s.flag k b).pending = s.pending := rfl
@[simp] theorem flag_mode : (s.flag k b).mode = s.mode := rfl
@[simp] theorem flag_staged : (s.flag k b).staged = s.staged := rfl
@[simp] theorem flag_holding : (s.flag k b).holding = s.holding := rfl
@[simp] theorem flag_wd : (s.flag k b).wd = s.wd := rfl
@[simp] theorem flag_free : (s.flag k b).free = s.free := rfl
@[simp] theorem flag_time : (s.flag k b).time = s.time := rfl
@[simp] theorem flag_mem : (s.flag k b).mem = s.mem := rfl
@[simp] theorem flag_img : (s.flag k b).img = s.img := rfl
@[simp] theorem flag_ce : (s.flag k b).ce = s.ce := rfl
@[simp] theorem flag_cv : (s.flag k b).cv = s.cv := rfl
@[simp] theorem flag_cairn : (s.flag k b).cairn = s.cairn := rfl
@[simp] theorem flag_cmd : (s.flag k b).cmd = s.cmd := rfl
@[simp] theorem flag_sup : (s.flag k b).sup = s.sup := rfl
@[simp] theorem flag_ring : (s.flag k b).ring = s.ring := rfl
@[simp] theorem flag_fi : (s.flag k b).fi = s.fi := rfl
@[simp] theorem flag_net : (s.flag k b).net = s.net := rfl
@[simp] theorem flag_bus : (s.flag k b).bus = s.bus := rfl
@[simp] theorem flag_rdg : (s.flag k b).rdg = s.rdg := rfl
@[simp] theorem flag_col : (s.flag k b).col = s.col := rfl
@[simp] theorem flag_field : (s.flag k b).field = s.field := rfl
@[simp] theorem flag_sf : (s.flag k b).sf = s.sf := rfl
@[simp] theorem flag_pwr : (s.flag k b).pwr = s.pwr := rfl
@[simp] theorem flag_trig : (s.flag k b).trig = s.trig := rfl
@[simp] theorem flag_out : (s.flag k b).out = s.out := rfl

/-! `bump` changes registers alone. -/

@[simp] theorem bump_pending : (s.bump k).pending = s.pending := rfl
@[simp] theorem bump_mode : (s.bump k).mode = s.mode := rfl
@[simp] theorem bump_staged : (s.bump k).staged = s.staged := rfl
@[simp] theorem bump_holding : (s.bump k).holding = s.holding := rfl
@[simp] theorem bump_wd : (s.bump k).wd = s.wd := rfl
@[simp] theorem bump_free : (s.bump k).free = s.free := rfl
@[simp] theorem bump_time : (s.bump k).time = s.time := rfl
@[simp] theorem bump_mem : (s.bump k).mem = s.mem := rfl
@[simp] theorem bump_img : (s.bump k).img = s.img := rfl
@[simp] theorem bump_ce : (s.bump k).ce = s.ce := rfl
@[simp] theorem bump_cv : (s.bump k).cv = s.cv := rfl
@[simp] theorem bump_cairn : (s.bump k).cairn = s.cairn := rfl
@[simp] theorem bump_cmd : (s.bump k).cmd = s.cmd := rfl
@[simp] theorem bump_sup : (s.bump k).sup = s.sup := rfl
@[simp] theorem bump_ring : (s.bump k).ring = s.ring := rfl
@[simp] theorem bump_fi : (s.bump k).fi = s.fi := rfl
@[simp] theorem bump_net : (s.bump k).net = s.net := rfl
@[simp] theorem bump_bus : (s.bump k).bus = s.bus := rfl
@[simp] theorem bump_rdg : (s.bump k).rdg = s.rdg := rfl
@[simp] theorem bump_col : (s.bump k).col = s.col := rfl
@[simp] theorem bump_field : (s.bump k).field = s.field := rfl
@[simp] theorem bump_sf : (s.bump k).sf = s.sf := rfl
@[simp] theorem bump_pwr : (s.bump k).pwr = s.pwr := rfl
@[simp] theorem bump_trig : (s.bump k).trig = s.trig := rfl
@[simp] theorem bump_out : (s.bump k).out = s.out := rfl

/-! `bumpBy` changes registers alone. -/

@[simp] theorem bumpBy_pending : (s.bumpBy k n).pending = s.pending := rfl
@[simp] theorem bumpBy_mode : (s.bumpBy k n).mode = s.mode := rfl
@[simp] theorem bumpBy_staged : (s.bumpBy k n).staged = s.staged := rfl
@[simp] theorem bumpBy_holding : (s.bumpBy k n).holding = s.holding := rfl
@[simp] theorem bumpBy_wd : (s.bumpBy k n).wd = s.wd := rfl
@[simp] theorem bumpBy_free : (s.bumpBy k n).free = s.free := rfl
@[simp] theorem bumpBy_time : (s.bumpBy k n).time = s.time := rfl
@[simp] theorem bumpBy_mem : (s.bumpBy k n).mem = s.mem := rfl
@[simp] theorem bumpBy_img : (s.bumpBy k n).img = s.img := rfl
@[simp] theorem bumpBy_ce : (s.bumpBy k n).ce = s.ce := rfl
@[simp] theorem bumpBy_cv : (s.bumpBy k n).cv = s.cv := rfl
@[simp] theorem bumpBy_cairn : (s.bumpBy k n).cairn = s.cairn := rfl
@[simp] theorem bumpBy_cmd : (s.bumpBy k n).cmd = s.cmd := rfl
@[simp] theorem bumpBy_sup : (s.bumpBy k n).sup = s.sup := rfl
@[simp] theorem bumpBy_ring : (s.bumpBy k n).ring = s.ring := rfl
@[simp] theorem bumpBy_fi : (s.bumpBy k n).fi = s.fi := rfl
@[simp] theorem bumpBy_net : (s.bumpBy k n).net = s.net := rfl
@[simp] theorem bumpBy_bus : (s.bumpBy k n).bus = s.bus := rfl
@[simp] theorem bumpBy_rdg : (s.bumpBy k n).rdg = s.rdg := rfl
@[simp] theorem bumpBy_col : (s.bumpBy k n).col = s.col := rfl
@[simp] theorem bumpBy_field : (s.bumpBy k n).field = s.field := rfl
@[simp] theorem bumpBy_sf : (s.bumpBy k n).sf = s.sf := rfl
@[simp] theorem bumpBy_pwr : (s.bumpBy k n).pwr = s.pwr := rfl
@[simp] theorem bumpBy_trig : (s.bumpBy k n).trig = s.trig := rfl
@[simp] theorem bumpBy_out : (s.bumpBy k n).out = s.out := rfl

end Sys2Proof.Machine
end

