-- ==== Sys2Proof/Laws/Cc.lean ====
section
/-! SUPPORT. Laws of Cycle Code execution: an instruction that issues does what its operation says, and one that only
changes registers retires with them. -/
namespace Sys2Proof.Machine

/-- An instruction that issues is its operation, settled. -/
theorem execCc_of_issues {s : State} {v : Vote} {k : Ctx → Recs} {w : Who} {c : Ctx} (h : s.issues v k w c)
    (op : Who → Ctx → State → CcRes) : s.execCc v k op = settle w c.pc (op w c (s.issueAt v k c).1) := by
  obtain ⟨hw, hc, hf, hv⟩ := h
  subst hc
  have hr : (s.readWord .prg (fetchWord s.slotNo (s.ce.task w).ctx.pc) .fetch).2.1.ok = true := by
    unfold State.readWord; dsimp only; split <;> exact hf
  unfold State.execCc
  simp only [hw, hr]
  unfold State.issueAt at hv ⊢
  simp [hv]

/-- Adding clocks and then writing registers is retiring. -/
theorem addClocks_ctx (s : State) (w : Who) (n : Nat) (c : Ctx) :
    (s.addClocks w n).modTask w (fun t => { t with ctx := c }) = s.withRegs w n c := by
  simp [State.addClocks, State.modTask, State.setTask, State.withRegs, Ce.task, Vector.get_eq_getElem, Vector.set_set]

/-- An operation that is done retires. -/
theorem settle_done {s : State} {w : Who} {i n : Nat} {c : Ctx} (h : c.pc < 0x200000) :
    settle w i (.done c n s) = s.withRegs w n c := by
  simp only [settle, addClocks_ctx, if_neg (show ¬ 0x200000 ≤ c.pc by omega)]

/-- A register instruction retires with its registers and clocks (R127). -/
theorem execReg_of_issues {s : State} {v : Vote} {k : Ctx → Recs} {w : Who} {c : Ctx} (h : s.issues v k w c)
    (hp : c.pc < 0x1FFFFF) (n : Nat) (f : Ctx → Ctx) (hf : (f c).pc = c.pc) :
    s.execReg v k n f = (s.issueAt v k c).1.withRegs w n (f c).next := by
  unfold State.execReg
  rw [execCc_of_issues h, settle_done]
  simp only [Ctx.next, hf]; omega

end Sys2Proof.Machine
end

