-- ==== Sys2Proof/Laws/Decode.lean ====
section
/-! SUPPORT. The fields of an encoded word, by format (R100). -/
namespace Sys2Proof

section Pack
variable (op fn : BitVec 6) (a b d : BitVec 4) (x : BitVec 18) (y : BitVec 22) (z : BitVec 26) (n : BitVec 16)
  (o : Machine.SbOp)

/-- A field that lies within the low part of an append, or above it. -/
theorem extract_append_lo {m k l w : Nat} (p : BitVec m) (q : BitVec k) (h : l + w ≤ k) :
    (p ++ q).extractLsb' l w = q.extractLsb' l w := by
  ext i hi; simp [BitVec.getLsbD_append, show l + i < k by omega]
theorem extract_append_hi {m k l w : Nat} (p : BitVec m) (q : BitVec k) (h : k ≤ l) :
    (p ++ q).extractLsb' l w = p.extractLsb' (l - k) w := by
  ext i hi; simp [BitVec.getLsbD_append, show ¬ l + i < k by omega, show l + i - k = l - k + i by omega]
theorem extract_self {k : Nat} (q : BitVec k) : q.extractLsb' 0 k = q := by ext i hi; simp
theorem extract_here {m k : Nat} (p : BitVec m) (q : BitVec k) : (p ++ q).extractLsb' k m = p := by
  rw [extract_append_hi _ _ (Nat.le_refl k), Nat.sub_self, extract_self]
@[simp] theorem packR_op : (packR op a b d fn).op = op := by
  simp only [packR, Word.op]
  rw [extract_append_hi _ _ (by decide), extract_append_hi _ _ (by decide), extract_append_hi _ _ (by decide), extract_append_hi _ _ (by decide), extract_append_hi _ _ (by decide)]
  exact extract_self _
@[simp] theorem packR_f22 : (packR op a b d fn).f22 = a := by
  simp only [packR, Word.f22]
  rw [extract_append_hi _ _ (by decide), extract_append_hi _ _ (by decide), extract_append_hi _ _ (by decide), extract_append_hi _ _ (by decide), extract_append_lo _ _ (by decide)]
  exact extract_self _
@[simp] theorem packR_f18 : (packR op a b d fn).f18 = b := by
  simp only [packR, Word.f18]
  rw [extract_append_hi _ _ (by decide), extract_append_hi _ _ (by decide), extract_append_hi _ _ (by decide), extract_append_lo _ _ (by decide)]
  exact extract_self _
@[simp] theorem packR_f14 : (packR op a b d fn).f14 = d := by
  simp only [packR, Word.f14]
  rw [extract_append_hi _ _ (by decide), extract_append_hi _ _ (by decide), extract_append_lo _ _ (by decide)]
  exact extract_self _
@[simp] theorem packR_spare : (packR op a b d fn).spare = 0 := by
  simp only [packR, Word.spare]
  rw [extract_append_hi _ _ (by decide), extract_append_lo _ _ (by decide)]
  exact extract_self _
@[simp] theorem packR_fn : (packR op a b d fn).fn = fn := by
  simp only [packR, Word.fn]
  rw [extract_append_lo _ _ (by decide)]
  exact extract_self _
@[simp] theorem packI_op : (packI op a b x).op = op := by
  simp only [packI, Word.op]
  rw [extract_append_hi _ _ (by decide), extract_append_hi _ _ (by decide), extract_append_hi _ _ (by decide)]
  exact extract_self _
@[simp] theorem packI_f22 : (packI op a b x).f22 = a := by
  simp only [packI, Word.f22]
  rw [extract_append_hi _ _ (by decide), extract_append_hi _ _ (by decide), extract_append_lo _ _ (by decide)]
  exact extract_self _
@[simp] theorem packI_f18 : (packI op a b x).f18 = b := by
  simp only [packI, Word.f18]
  rw [extract_append_hi _ _ (by decide), extract_append_lo _ _ (by decide)]
  exact extract_self _
@[simp] theorem packI_lo18 : (packI op a b x).lo18 = x := by
  simp only [packI, Word.lo18]
  rw [extract_append_lo _ _ (by decide)]
  exact extract_self _
@[simp] theorem packU_op : (packU op a y).op = op := by
  simp only [packU, Word.op]
  rw [extract_append_hi _ _ (by decide), extract_append_hi _ _ (by decide)]
  exact extract_self _
@[simp] theorem packU_f22 : (packU op a y).f22 = a := by
  simp only [packU, Word.f22]
  rw [extract_append_hi _ _ (by decide), extract_append_lo _ _ (by decide)]
  exact extract_self _
@[simp] theorem packU_lo22 : (packU op a y).lo22 = y := by
  simp only [packU, Word.lo22]
  rw [extract_append_lo _ _ (by decide)]
  exact extract_self _
@[simp] theorem packC_op : (packC op z).op = op := by
  simp only [packC, Word.op]
  rw [extract_append_hi _ _ (by decide)]
  exact extract_self _
@[simp] theorem packC_lo26 : (packC op z).lo26 = z := by
  simp only [packC, Word.lo26]
  rw [extract_append_lo _ _ (by decide)]
  exact extract_self _
@[simp] theorem packL_op : (packL op a n).op = op := by
  simp only [packL, Word.op]
  rw [extract_append_hi _ _ (by decide), extract_append_hi _ _ (by decide), extract_append_hi _ _ (by decide)]
  exact extract_self _
@[simp] theorem packL_f22 : (packL op a n).f22 = a := by
  simp only [packL, Word.f22]
  rw [extract_append_hi _ _ (by decide), extract_append_hi _ _ (by decide), extract_append_lo _ _ (by decide)]
  exact extract_self _
@[simp] theorem packL_lo16 : (packL op a n).lo16 = n := by
  simp only [packL, Word.lo16]
  rw [extract_append_lo _ _ (by decide)]
  exact extract_self _
@[simp] theorem packL_spare : (packL op a n).extractLsb' 16 6 = 0 := by
  simp only [packL]
  rw [extract_append_hi _ _ (by decide), extract_append_lo _ _ (by decide)]
  exact extract_self _
@[simp] theorem packSb_op : (packSb op o).op = op := by
  simp only [packSb, Word.op]
  rw [extract_append_hi _ _ (by decide), extract_append_hi _ _ (by decide), extract_append_hi _ _ (by decide), extract_append_hi _ _ (by decide), extract_append_hi _ _ (by decide)]
  exact extract_self _
@[simp] theorem packSb_f18 : (packSb op o).f18 = o.ix := by
  simp only [packSb, Word.f18]
  rw [extract_append_hi _ _ (by decide), extract_append_lo _ _ (by decide)]
  exact extract_self _
@[simp] theorem packSb_lo18 : (packSb op o).lo18 = o.sid := by
  simp only [packSb, Word.lo18]
  rw [extract_append_lo _ _ (by decide)]
  exact extract_self _

@[simp] theorem packSb_sb : (packSb op o).sb = o := by
  have hs : (packSb op o).extractLsb' 22 2 = o.sub := by
    simp only [packSb]
    rw [extract_append_hi _ _ (by decide), extract_append_hi _ _ (by decide), extract_append_lo _ _ (by decide)]
    exact extract_self _
  have hl : (packSb op o).getLsbD 25 = o.sl := by
    simp only [packSb, BitVec.getLsbD_append]; simp
  have hn : (packSb op o).getLsbD 24 = o.neg := by
    simp only [packSb, BitVec.getLsbD_append]; simp
  simp only [Word.sb, hs, hl, hn, packSb_f18, packSb_lo18]

end Pack

end Sys2Proof
end

