-- ==== Sys2Proof/Laws/Flags.lean ====
section
/-! SUPPORT. The flag computations by the exact result (R130, R145), and words built bit by bit. -/
namespace Sys2Proof.Machine

theorem setZN_byResult (f : Flags) (r : Word) : f.setZN r = f.byResult r := by
  simp only [Flags.setZN, Flags.byResult, Flags.mk.injEq, and_true]
  exact beq_eq_decide ..

theorem outside_iff (x : Int) : outside x = decide (x < -2147483648 ∨ 2147483647 < x) := by
  simp [outside, Bool.decide_or]

theorem flags_add (f : Flags) (a b : Word) : f.add a b =
    (f.byExact (decide (2 ^ 32 ≤ a.toNat + b.toNat)) (a.toInt + b.toInt)).byResult (a + b) := by
  simp only [Flags.add, setZN_byResult, Flags.setV, Flags.setC, outside_iff, Flags.byExact]

theorem flags_sub (f : Flags) (a b : Word) : f.sub a b =
    (f.byExact (decide (b.toNat ≤ a.toNat)) (a.toInt - b.toInt)).byResult (a - b) := by
  simp only [Flags.sub, setZN_byResult, Flags.setV, Flags.setC, outside_iff, Flags.byExact]

theorem flags_mul (f : Flags) (a b : Word) : f.mul a b = (f.byExact f.c (a.toInt * b.toInt)).byResult (a * b) := by
  simp only [Flags.mul, setZN_byResult, Flags.setV, outside_iff, Flags.byExact]

theorem flags_shift (f : Flags) (n : Nat) (o : Bool) (r : Word) :
    f.shift n o r = { f with c := if n = 0 then f.c else o }.byResult r := by
  simp only [Flags.shift, setZN_byResult]; split <;> simp [Flags.setC]

/-- The word that FLAGS reads as. -/
theorem flags_word (f : Flags) : f.word = (BitVec.ofBool f.fe ++ BitVec.ofBool f.ov ++ BitVec.ofBool f.v ++
    BitVec.ofBool f.c ++ BitVec.ofBool f.n ++ BitVec.ofBool f.z : BitVec 6).zeroExtend 32 := by
  obtain ⟨a, b, c, d, e, g⟩ := f
  revert a b c d e g; decide

theorem two_pow_bit (a i : Nat) (h : i < 32) : (BitVec.ofNat 32 (2 ^ a)).getLsbD i = decide (i = a) := by
  rw [BitVec.getLsbD_ofNat]; simp only [h, decide_true, Bool.true_and, Nat.testBit_two_pow, eq_comm]

theorem fold_bits (f : Nat → Bool) {i : Nat} (h : i < 32) : ∀ (l : List Nat) (x : Word), l.Nodup →
    (l.foldl (fun x i => if f i then x ||| BitVec.ofNat 32 (2 ^ i) else x) x).getLsbD i =
      (x.getLsbD i || (decide (i ∈ l) && f i)) := by
  intro l
  induction l with
  | nil => intro x _; simp
  | cons a t ih =>
    intro x hn
    rw [List.nodup_cons] at hn
    rw [List.foldl_cons, ih _ hn.2]
    by_cases hia : i = a
    · subst hia
      cases hf : f i <;>
        simp only [if_true, Bool.false_eq_true, if_false, BitVec.getLsbD_or, two_pow_bit _ _ h] <;> simp
    · cases hf : f a <;>
        simp only [if_true, Bool.false_eq_true, if_false, BitVec.getLsbD_or, two_pow_bit _ _ h] <;> simp [hia]

/-- The bits of a word built from 32 instances. -/
theorem fromBits_bit (f : Nat → Bool) {i : Nat} (h : i < 32) : (fromBits f).getLsbD i = f i := by
  unfold fromBits
  rw [fold_bits f h _ _ List.nodup_range]
  simp [h]

end Sys2Proof.Machine
end

