-- ==== Sys2Proof/Laws/Gate.lean ====
section
/-! SUPPORT. What the checks of R238 let through: a request that passes them is its command's effect, and nothing else. -/
namespace Sys2Proof.Machine

/-- A request that comes in meets what follows. -/
theorem withPacket_of_receives {s : State} {op : Nat} {r : Req} (h : s.receives op r) (f : State → State) :
    s.withPacket op r f = f (s.received op r) := by
  unfold State.withPacket State.received
  rw [h.1, if_neg (by simp)]
  simp only [h.2]

/-- A request that passes every check acts. -/
theorem serveWith_of_acts {s u : State} {c : CmdSpec} {r : Req} {role : Option Role} {armed : Option Armed}
    (h : s.acts c r u role armed) (act : Option Role → Option Armed → State → State) :
    s.serveWith c r act = act role armed u := by
  obtain ⟨h1, h2, h3, h4, h5, h6, h7, h8⟩ := h
  unfold State.serveWith
  rw [withPacket_of_receives h1, if_neg (by omega)]
  rw [if_neg (by
    rintro ⟨hf, ht⟩
    rcases h3 with h | h
    · simp [h] at hf
    · exact ht h)]
  rw [h4]
  unfold State.checked
  simp only [h5, h6, h7, Bool.not_true, Bool.false_eq_true, if_false]
  split
  · next heq1 heq2 => rw [h8 heq1] at heq2; cases heq2
  · rfl

theorem serve_of_acts {s u : State} {c : CmdSpec} {r : Req} {role : Option Role} {armed : Option Armed}
    (h : s.acts c r u role armed) (act : State → State) : s.serve c r act = act u := serveWith_of_acts h _

theorem serveAnswer_of_acts {s u : State} {c : CmdSpec} {r : Req} {role : Option Role} {armed : Option Armed}
    (h : s.acts c r u role armed) (act : State → State × Answer) :
    s.serveAnswer c r act = (act u).1.finish c.op r (act u).2 := serve_of_acts h _

/-- The confirmed second step of a dangerous command goes on where its own checks pass. -/
theorem twoSteps_of_confirms {s : State} {op : Nat} {r : Req} {armed : Option Armed} (h : s.confirms op r armed)
    {chk : State → Option Answer × State} (hc : chk s = (none, s)) (go : State → State) :
    s.twoSteps op r armed chk go = go s := by
  obtain ⟨h1, a, h2, h3, h4, h5, h6, h7⟩ := h
  unfold State.twoSteps
  rw [if_neg h1, if_neg (by rintro ⟨h, -⟩; omega)]
  subst h2
  simp [h3, h4, h5, h6, h7, hc]

/-- A request for Trig that passes acts there. -/
theorem empRow_of_acts {s u : State} {op : Nat} {roles : Roles} {len : Nat → Option Nat} {r : Req} {armed : Option Armed}
    (h : s.actsAtTrig op roles len r u armed) :
    s.empRow op r = (s.atTrig op r).trigRequest op r ∧ (s.atTrig op r).trig.running = true ∧
    ∀ act, (s.atTrig op r).trigServe op roles len r act = act armed u := by
  obtain ⟨h1, h2, h3, h4, h5, h6, h7, h8, role, h9, h10⟩ := h
  refine ⟨?_, h7, fun act => ?_⟩
  · unfold State.empRow
    rw [withPacket_of_receives h1, if_neg (by omega), if_pos ⟨by simp [h3], h4⟩, if_neg (by simp [h5, h6]), State.atTrig]
  · unfold State.trigServe
    rw [h9]
    simp only [h10, Bool.not_true, Bool.false_eq_true, if_false, h8]

end Sys2Proof.Machine
end

