-- ==== Sys2Proof/Laws/Report.lean ====
section
/-! SUPPORT. What writing a record leaves alone: everything but Cairn's intake and the LOG page (R435). -/
namespace Sys2Proof.Machine

/-- The key of a field on the LOG page. -/
def logKey (k : Nat) : Bool := keyPage k == 0x17

theorem fk_page (p o l : Nat) (ho : o < 0x1000) (hl : l < 32) : keyPage (fk p o l) = p := by
  unfold keyPage fk; omega

theorem fld_dropRecord (s : State) (c : RecClass) {k : Nat} (h : logKey k = false) : (s.dropRecord c).fld k = s.fld k := by
  have hk : ∀ j, logKey j = true → k ≠ j := fun j hj e => by subst e; simp [hj] at h
  cases c <;> simp only [State.dropRecord] <;>
    rw [fld_flag, if_neg (hk _ (by decide)), fld_bump, if_neg (hk _ (by decide))]

/-- The eight counters of LOG_SRCDROP and their page. -/
theorem logKey_srcdrop (n : Nat) (h : n ≤ 255) : logKey (Reg.LOG_SRCDROP n) = true := by
  simp only [logKey, Reg.LOG_SRCDROP, beq_iff_eq]
  unfold keyPage fk; omega

theorem srcNo_div (sub inst : Nat) : srcNo sub inst / 256 = sub := by unfold srcNo; omega

/-- A record changes no register field outside the LOG page. -/
theorem fld_report (s : State) (cls : RecClass) (sev : Severity) (code sub inst : Nat) (p : List Byte) {k : Nat}
    (hs : sub ≤ 255) (h : logKey k = false) : (s.report cls sev code (srcNo sub inst) p).fld k = s.fld k := by
  have hk : ∀ j, logKey j = true → k ≠ j := fun j hj e => by subst e; simp [hj] at h
  unfold State.report State.enqueue
  simp only [State.mkReport, srcNo_div]
  split
  · rfl
  · rw [fld_with, fld_flag, if_neg (hk _ (by decide)), fld_bump, if_neg (hk _ (logKey_srcdrop sub hs)), fld_dropRecord s cls h]

section Fields
variable (s : State) (cls : RecClass) (sev : Severity) (code src : Nat) (p : List Byte)

@[simp] theorem dropRecord_pending : (s.dropRecord cls).pending = s.pending := by cases cls <;> rfl
@[simp] theorem report_pending : (s.report cls sev code src p).pending = s.pending := by
  unfold State.report State.enqueue; dsimp only; split <;> simp
@[simp] theorem dropRecord_mode : (s.dropRecord cls).mode = s.mode := by cases cls <;> rfl
@[simp] theorem report_mode : (s.report cls sev code src p).mode = s.mode := by
  unfold State.report State.enqueue; dsimp only; split <;> simp
@[simp] theorem dropRecord_staged : (s.dropRecord cls).staged = s.staged := by cases cls <;> rfl
@[simp] theorem report_staged : (s.report cls sev code src p).staged = s.staged := by
  unfold State.report State.enqueue; dsimp only; split <;> simp
@[simp] theorem dropRecord_holding : (s.dropRecord cls).holding = s.holding := by cases cls <;> rfl
@[simp] theorem report_holding : (s.report cls sev code src p).holding = s.holding := by
  unfold State.report State.enqueue; dsimp only; split <;> simp
@[simp] theorem dropRecord_wd : (s.dropRecord cls).wd = s.wd := by cases cls <;> rfl
@[simp] theorem report_wd : (s.report cls sev code src p).wd = s.wd := by
  unfold State.report State.enqueue; dsimp only; split <;> simp
@[simp] theorem dropRecord_free : (s.dropRecord cls).free = s.free := by cases cls <;> rfl
@[simp] theorem report_free : (s.report cls sev code src p).free = s.free := by
  unfold State.report State.enqueue; dsimp only; split <;> simp
@[simp] theorem dropRecord_time : (s.dropRecord cls).time = s.time := by cases cls <;> rfl
@[simp] theorem report_time : (s.report cls sev code src p).time = s.time := by
  unfold State.report State.enqueue; dsimp only; split <;> simp
@[simp] theorem dropRecord_mem : (s.dropRecord cls).mem = s.mem := by cases cls <;> rfl
@[simp] theorem report_mem : (s.report cls sev code src p).mem = s.mem := by
  unfold State.report State.enqueue; dsimp only; split <;> simp
@[simp] theorem dropRecord_img : (s.dropRecord cls).img = s.img := by cases cls <;> rfl
@[simp] theorem report_img : (s.report cls sev code src p).img = s.img := by
  unfold State.report State.enqueue; dsimp only; split <;> simp
@[simp] theorem dropRecord_ce : (s.dropRecord cls).ce = s.ce := by cases cls <;> rfl
@[simp] theorem report_ce : (s.report cls sev code src p).ce = s.ce := by
  unfold State.report State.enqueue; dsimp only; split <;> simp
@[simp] theorem dropRecord_cv : (s.dropRecord cls).cv = s.cv := by cases cls <;> rfl
@[simp] theorem report_cv : (s.report cls sev code src p).cv = s.cv := by
  unfold State.report State.enqueue; dsimp only; split <;> simp
@[simp] theorem dropRecord_cmd : (s.dropRecord cls).cmd = s.cmd := by cases cls <;> rfl
@[simp] theorem report_cmd : (s.report cls sev code src p).cmd = s.cmd := by
  unfold State.report State.enqueue; dsimp only; split <;> simp
@[simp] theorem dropRecord_sup : (s.dropRecord cls).sup = s.sup := by cases cls <;> rfl
@[simp] theorem report_sup : (s.report cls sev code src p).sup = s.sup := by
  unfold State.report State.enqueue; dsimp only; split <;> simp
@[simp] theorem dropRecord_ring : (s.dropRecord cls).ring = s.ring := by cases cls <;> rfl
@[simp] theorem report_ring : (s.report cls sev code src p).ring = s.ring := by
  unfold State.report State.enqueue; dsimp only; split <;> simp
@[simp] theorem dropRecord_fi : (s.dropRecord cls).fi = s.fi := by cases cls <;> rfl
@[simp] theorem report_fi : (s.report cls sev code src p).fi = s.fi := by
  unfold State.report State.enqueue; dsimp only; split <;> simp
@[simp] theorem dropRecord_net : (s.dropRecord cls).net = s.net := by cases cls <;> rfl
@[simp] theorem report_net : (s.report cls sev code src p).net = s.net := by
  unfold State.report State.enqueue; dsimp only; split <;> simp
@[simp] theorem dropRecord_bus : (s.dropRecord cls).bus = s.bus := by cases cls <;> rfl
@[simp] theorem report_bus : (s.report cls sev code src p).bus = s.bus := by
  unfold State.report State.enqueue; dsimp only; split <;> simp
@[simp] theorem dropRecord_rdg : (s.dropRecord cls).rdg = s.rdg := by cases cls <;> rfl
@[simp] theorem report_rdg : (s.report cls sev code src p).rdg = s.rdg := by
  unfold State.report State.enqueue; dsimp only; split <;> simp
@[simp] theorem dropRecord_col : (s.dropRecord cls).col = s.col := by cases cls <;> rfl
@[simp] theorem report_col : (s.report cls sev code src p).col = s.col := by
  unfold State.report State.enqueue; dsimp only; split <;> simp
@[simp] theorem dropRecord_field : (s.dropRecord cls).field = s.field := by cases cls <;> rfl
@[simp] theorem report_field : (s.report cls sev code src p).field = s.field := by
  unfold State.report State.enqueue; dsimp only; split <;> simp
@[simp] theorem dropRecord_sf : (s.dropRecord cls).sf = s.sf := by cases cls <;> rfl
@[simp] theorem report_sf : (s.report cls sev code src p).sf = s.sf := by
  unfold State.report State.enqueue; dsimp only; split <;> simp
@[simp] theorem dropRecord_pwr : (s.dropRecord cls).pwr = s.pwr := by cases cls <;> rfl
@[simp] theorem report_pwr : (s.report cls sev code src p).pwr = s.pwr := by
  unfold State.report State.enqueue; dsimp only; split <;> simp
@[simp] theorem dropRecord_trig : (s.dropRecord cls).trig = s.trig := by cases cls <;> rfl
@[simp] theorem report_trig : (s.report cls sev code src p).trig = s.trig := by
  unfold State.report State.enqueue; dsimp only; split <;> simp
@[simp] theorem dropRecord_out : (s.dropRecord cls).out = s.out := by cases cls <;> rfl
@[simp] theorem report_out : (s.report cls sev code src p).out = s.out := by
  unfold State.report State.enqueue; dsimp only; split <;> simp

end Fields

end Sys2Proof.Machine
end

