-- ==== Sys2Proof/Laws/Memory.lean ====
section
/-! SUPPORT. The coded memories: read after write, what a read leaves alone, and that every access keeps the canonical
form. -/
namespace Sys2Proof.Machine

/-! ### One word -/

theorem code_put_same (m : Mem) (a : Arr) (w : Nat) (c : Code) : (m.put a w c).code a w = c := by
  cases a <;> simp only [Mem.put, Mem.code, Mem.list, Mem.setList, Mem.unlisted, sget_sput, if_true, Option.getD_some] <;>
    exact (by have h := sgetD_ssetD (α := Code); simpa only [sgetD, if_true] using h _ _ w w c)

theorem code_put_other (m : Mem) (a b : Arr) (w x : Nat) (c : Code) (h : (b, x) ≠ (a, w)) :
    (m.put a w c).code b x = m.code b x := by
  by_cases hb : b = a
  · subst hb
    have hx : x ≠ w := fun e => h (by rw [e])
    have hs : ∀ (d : Code) (l : Sparse Code), sget (ssetD d l w c) x = sget l x := by
      intro d l
      unfold ssetD
      split
      · rw [sget_serase, if_neg hx]
      · rw [sget_sput, if_neg hx]
    cases b <;> simp only [Mem.put, Mem.code, Mem.list, Mem.setList, Mem.unlisted, sget_sput, if_neg hx, hs]
  · cases a <;> cases b <;> first | exact absurd rfl hb | rfl

/-! ### What accounting leaves alone -/

@[simp] theorem countCe_mem (s : State) (a : Arr) (w : Nat) : (s.countCe a w).mem = s.mem := by
  cases a <;> simp [State.countCe]

@[simp] theorem countUe_mem (s : State) (a : Arr) (w : Nat) (c : Cls) (y : Byte) (m : Master) :
    (s.countUe a w c y m).mem = s.mem := by
  unfold State.countUe; dsimp only; rw [report_mem]; split <;> split <;> simp only [setFld_mem, flag_mem, bump_mem]

@[simp] theorem account_mem (s : State) (a : Arr) (w : Nat) (m : Master) : (s.account a w m).mem = s.mem := by
  unfold State.account; simp only; split <;> simp only [countCe_mem, countUe_mem]

@[simp] theorem readWord_code (s : State) (a b : Arr) (w x : Nat) (m : Master) :
    (s.readWord a w m).1.mem.code b x = s.mem.code b x := by
  unfold State.readWord; simp only; split
  · simp only [account_mem]; cases b <;> rfl
  · simp only [account_mem]

theorem readWord_result (s : State) (a : Arr) (w : Nat) (m : Master) :
    (s.readWord a w m).2 = ((s.mem.code a w).cls w, corrected w (s.mem.code a w)) := by
  unfold State.readWord; simp only; split <;> rfl

/-! ### Reads of several words -/

theorem readMany_get (a : Arr) (m : Master) : ∀ (ws : List Nat) (s : State), ∀ x ∈ ws,
    sget (s.readMany a m ws).2 x = some ((s.mem.code a x).cls x, corrected x (s.mem.code a x)) := by
  intro ws
  induction ws with
  | nil => intro s x h; cases h
  | cons y t ih =>
    intro s x h
    simp only [State.readMany]
    rw [sget_sput]
    split
    · next e => subst e; rw [readWord_result]
    · next e =>
      have : x ∈ t := by simpa [e] using h
      rw [ih _ x this, readWord_code]

theorem readMany_keys (a : Arr) (m : Master) : ∀ (ws : List Nat) (s : State), ∀ p ∈ (s.readMany a m ws).2,
    p.1 ∈ ws ∧ p.2 = ((s.mem.code a p.1).cls p.1, corrected p.1 (s.mem.code a p.1)) := by
  intro ws
  induction ws with
  | nil => intro s p h; cases h
  | cons y t ih =>
    intro s p h
    simp only [State.readMany] at h
    rcases mem_sput h with h | h
    · subst h; exact ⟨by simp, by rw [readWord_result]⟩
    · have := ih _ p h
      rw [readWord_code] at this
      exact ⟨by simp [this.1], this.2⟩

/-! ### The canonical form -/

theorem wf_iff (m : Mem) : m.wf = true ↔ ∀ a, m.wfArr a = true := by
  constructor
  · intro h a
    simp only [Mem.wf, List.all_cons, List.all_nil, Bool.and_true, Bool.and_eq_true] at h
    cases a <;> simp only [h]
  · intro h
    simp only [Mem.wf, List.all_cons, List.all_nil, Bool.and_true, Bool.and_eq_true]
    exact ⟨h _, h _, h _, h _, h _, h _⟩

theorem wf_put {m : Mem} (h : m.wf = true) (a : Arr) (w : Nat) (c : Code) : (m.put a w c).wf = true := by
  rw [wf_iff] at *
  intro b
  have hb := h b
  by_cases e : b = a
  · subst e
    cases b
    · exact sorted_sput hb w c
    all_goals exact canonical_ssetD hb w c
  · cases a <;> cases b <;> first | exact absurd rfl e | exact hb

theorem wf_of_list {m n : Mem} (h : m.wf = true) (hl : ∀ a, n.list a = m.list a) : n.wf = true := by
  rw [wf_iff] at *
  intro a
  have := h a
  cases a
  · simpa only [Mem.wfArr, show n.ps = m.ps from hl .ps] using this
  all_goals
    simp only [Mem.wfArr] at this ⊢
    rw [hl]; exact this

theorem reset_mem_wf : State.reset.mem.wf = true := by decide

end Sys2Proof.Machine
end

