-- ==== Sys2Proof/Laws/Operands.lean ====
section
/-! SUPPORT. What the operand forms of Cycle Code do: a signal instruction that may read goes on with the words of Image
RAM, one that may write goes on with them written, and nothing waits in between (R106, R141). -/
namespace Sys2Proof.Machine

theorem allOk_some : ∀ (l : Sparse (Cls × DWord)), (∀ p ∈ l, p.2.1.ok = true) →
    allOk l = some (l.map (fun p => (p.1, p.2.2))) := by
  intro l
  induction l with
  | nil => intro _; rfl
  | cons p t ih =>
    intro h
    obtain ⟨w, k, d⟩ := p
    simp only [allOk]
    rw [if_pos (h (w, k, d) (by simp)), ih (fun q hq => h q (by simp [hq]))]
    rfl

theorem sget_data (l : Sparse (Cls × DWord)) (x : Nat) :
    sget (l.map (fun p => (p.1, p.2.2))) x = (sget l x).map (·.2) := by
  induction l with
  | nil => rfl
  | cons p t ih =>
    obtain ⟨w, k, d⟩ := p
    simp only [List.map_cons, sget]; split <;> simp [ih]

theorem syncImg_none (n : Nat) (ws : List Nat) (s : State) (h : s.bufferedImg ws = false) : State.syncImg n ws s = s := by
  cases n with
  | zero => rfl
  | succ n => simp [State.syncImg, h]

/-- A signal instruction that may read goes on with the words. -/
theorem readImg_ok {s : State} {w : Who} {ws : List Nat} (h : s.imgReadable w ws) (n : Nat)
    (k : Sparse DWord → State → CcRes) :
    ∃ d : Sparse DWord, s.readImg w ws n k = k d (s.imgRead ws) ∧
      ∀ x ∈ ws, wordOf d x = corrected x (s.mem.code .img x) := by
  obtain ⟨h1, h2, h3⟩ := h
  refine ⟨(s.readMany .img .load ws).2.map (fun p => (p.1, p.2.2)), ?_, ?_⟩
  · unfold State.readImg
    rw [syncImg_none _ _ _ h1]
    simp only [h2, ne_eq, not_true_eq_false, if_false]
    rw [allOk_some]
    · rfl
    · intro p hp
      have := readMany_keys _ _ _ _ p hp
      rw [this.2]; exact h3 _ this.1
  · intro x hx
    simp only [wordOf, sgetD, sget_data, readMany_get _ _ _ _ x hx, Option.map_some, Option.getD_some]

/-- A signal write that may act retires with the patch written. -/
theorem storeSig_ok {s : State} {w : Who} {p : Patch} (h : s.imgWritable w p) (c : Ctx) :
    s.storeSig w c p = .done c.next 1 (s.imgWrite p) := by
  obtain ⟨h1, h2, h3⟩ := h
  unfold State.storeSig
  rw [syncImg_none _ _ _ h1]
  simp only [h2, ne_eq, not_true_eq_false, if_false, h3, Bool.false_eq_true]
  rfl

/-- No trap before a signal instruction acts. -/
theorem sigTrap_none {t : State} {w : Who} {c : Ctx} {sub sl wr : Bool} {id : Nat} (h1 : sub = true) (h2 : w.val < 7)
    (h3 : id ≤ 0x3FFFF) (h4 : sl = true → id % 32 = 0 ∧ id / 32 ∉ t.ce.sliceMap)
    (h5 : wr = true → sl = false ∧ t.program.otherRange w.val id = false) : t.sigTrap w c sub sl wr id = none := by
  unfold State.sigTrap
  rw [if_neg (by simp [h1]; omega), if_neg (by omega)]
  rw [if_neg (by
    rintro ⟨a, b⟩
    have := h4 a
    simp [this] at b)]
  rw [if_neg]
  rintro ⟨a, b⟩
  have := h5 a
  simp [this] at b

end Sys2Proof.Machine
end

