-- ==== Sys2Proof/Tests/Slice0.lean ====
section
/-! SUPPORT. Tests and witnesses: words written out from the encodings, results the spec or a standard states, a witness of
the hypotheses of every statement, and an ill-formed command for each check of `Instr.wf`. -/
namespace Sys2Proof.Tests

open Sys2Proof Sys2Proof.Machine

set_option Elab.async false

/-- A running module in which release `w` executes with registers `c`. -/
def running (w : Who) (c : Ctx) : State :=
  { State.reset with
    sup.powered := true, mode := .run
    ce := { Ce.reset with cur := some w, tasks := Vector.replicate 9 ⟨c, true, none, 0, 0, false, 0⟩ } }

/-- Registers at index 0, with `a` in G1. -/
def ctx (a : Word) : Ctx := (Ctx.start 0).set 1 a

/-- Registers at the last index of a slot but one. -/
def lateCtx : Ctx := Ctx.start 0x1FFFFE

/-! ### The machine as a whole, words -/

theorem witness_StepRunsFront : { State.reset with pending := [.resetStuck] }.pending = .resetStuck :: [] := rfl

theorem witness_StepKeepsMemoryCanonical : State.reset.mem.wf = true ∧ step State.reset = .next State.reset :=
  ⟨by decide, rfl⟩

theorem witness_DecodeEncode : encodeCc (.lui .agree 1 0x048D15) = some 0x7C448D15 := by decide

theorem witness_EncodeDecode : decodeCc .agree 0x7C448D15 ≠ .illegal .agree := by decide

/-! ### Words, bit by bit from the encodings of R100, R132, R136, R139, R145 to R147, R153, R157, R160 -/

/-- BLD: opcode 0x01, SL, NEG, SUB, IX, SID. -/
theorem test_word_bld : decodeCc .agree 0b000001_1_1_01_0010_000000000000100000 = .bld .agree ⟨true, true, 1, 2, 32⟩ := by decide

/-- BEDGE: opcode 0x07 with SUB 2 (ANY). -/
theorem test_word_bedge : decodeCc .agree 0b000111_0_0_10_0000_000000000000000011 = .bedge .agree ⟨false, false, 2, 0, 3⟩ := by
  decide

/-- BSPLAT: opcode 0x08, FN 0x0F. -/
theorem test_word_bsplat : decodeCc .agree 0b001000_0000_0000_0000_00_000000_001111 = .bsplat .agree := by decide

/-- WLD: opcode 0x10, RT, IX, SID. -/
theorem test_word_wld : decodeCc .agree 0b010000_0101_0001_000000000000000111 = .wld .agree ⟨5, 1, 7⟩ := by decide

/-- SUB: opcode 0x18, RD, RA, RB, FN 1. -/
theorem test_word_sub : decodeCc .agree 0b011000_0011_0010_0001_00_000000_000001 = .sub .agree ⟨3, 2, 1⟩ := by decide

/-- FCMP: opcode 0x20, RD zero, RA. -/
theorem test_word_fcmp : encodeCc (decodeCc .agree 0b100000_0000_0110_0000_00_000000_000101) =
    some 0b100000_0000_0110_0000_00_000000_000101 := by decide

/-- STW: opcode 0x28, RT, RB, OFF18. -/
theorem test_word_stw : decodeCc .agree 0b101000_0111_0001_111111111111111100 = .stw .agree ⟨7, 1, 0x3FFFC⟩ := by decide

/-- BR: opcode 0x2C, condition 3, offset -5. -/
theorem test_word_br : decodeCc .agree 0b101100_0011_1111111111111111111011 = .br .agree 3 (-5) := by decide

/-- MTF: opcode 0x30, RA, FN 5. -/
theorem test_word_reserved_field : decodeCc .agree 0b011000_0011_0010_0001_01_000000_000001 = .illegal .agree := by decide

/-! ### Cycle Code -/

theorem witness_ArithmeticAndLogic : ∀ k ∈ [recReg, recRegFlags, recFlags], (running 0 lateCtx).issues .agree k 0 lateCtx ∧
    lateCtx.pc < 0x1FFFFF := by decide

theorem witness_ShiftsAndDivision : (running 7 (ctx 0)).issues .agree recRegFlags 7 (ctx 0) ∧ (ctx 0).pc < 0x1FFFFF ∧
    (ctx 0).get 1 = 0 ∧ (running 0 (ctx 3)).issues .agree recRegFlags 0 (ctx 3) ∧ (ctx 3).get 1 ≠ 0 := by decide

theorem witness_Binary32 : (running 8 (ctx 0x7F800001)).issues (.minority .c .reg) recRegFlags 8 (ctx 0x7F800001) ∧
    (running 8 (ctx 0x7F800001)).issues .agree recFlags 8 (ctx 0x7F800001) := by decide

theorem witness_AccumulatorAndStack :
    (running 0 (ctx 1)).issues .agree recReg 0 (ctx 1) ∧ (ctx 1).ns = [] ∧
    (running 0 { ctx 1 with ns := [(5, .andn)] }).issues .agree recReg 0 { ctx 1 with ns := [(5, .andn)] } := by decide

theorem witness_ControlFlow :
    let c : Ctx := { ctx 1 with cs := [.call 0x1FFFFF] }
    let d : Ctx := { ctx 1 with cs := [.loop 3 2] }
    let e : Ctx := { ctx 1 with cs := List.replicate 32 (.loop 0 1) }
    (running 0 c).issues .agree recReg 0 c ∧ (running 0 d).issues .agree recReg 0 d ∧ (running 0 e).issues .agree recReg 0 e ∧
    (running 0 c).issues .agree recNone 0 c ∧ 32 ≤ e.cs.length ∧
    condTaken 0 c.flags c.ba = true ∧ condTaken 1 c.flags c.ba = false := by decide

theorem witness_SystemAndLastIndex :
    (∀ k ∈ [recReg, recFlags, recNone], (running 1 (ctx 0x3F)).issues .agree k 1 (ctx 0x3F)) ∧
    (running 0 (Ctx.start 0x1FFFFF)).issues .agree recReg 0 (Ctx.start 0x1FFFFF) ∧ (Ctx.start 0x1FFFFF).pc = 0x1FFFFF := by decide

/-- 0x7FFFFFFF + 1 wraps and sets V, OV and N (R145). -/
theorem test_add_wraps : (match exec (.addi .agree ⟨2, 1, 1⟩) (running 0 (ctx 0x7FFFFFFF)) with
    | .next t => some ((t.ce.task 0).ctx.get 2, (t.ce.task 0).ctx.flags, (t.ce.task 0).ctx.pc)
    | _ => none) = some (0x80000000, ⟨false, true, false, true, true, false⟩, 1) := by decide

/-- A shift by 33 is a shift by one, and C is the bit shifted out (R145). -/
theorem test_shl_count : (match exec (.shl .agree ⟨2, 1, 3⟩) (running 0 ((ctx 0x80000001).set 3 33)) with
    | .next t => some ((t.ce.task 0).ctx.get 2, (t.ce.task 0).ctx.flags.c)
    | _ => none) = some (2, true) := by decide

/-- FADD of 1.5 and 2.25 is 3.75 (R147). -/
theorem test_fadd : (match exec (.fadd .agree 1) (running 0 { ctx 0x3FC00000 with wa := 0x40100000 }) with
    | .next t => some (t.ce.task 0).ctx.wa
    | _ => none) = some 0x40700000 := by decide

theorem witness_SignalReads :
    let c := (ctx 0).set 2 0x1F
    let t := ((running 6 c).issueAt .agree recReg c).1
    (running 6 c).issues .agree recReg 6 c ∧ effId c 2 0x3FFE0 = 0x3FFFF ∧ t.imgReadable 6 [(bitLoc 0x3FFFF).1] ∧
    t.imgReadable 6 [(wordLoc 0x3FFFF).1] ∧ t.imgReadable 6 (statWords 0x3FFE0) ∧ 0x1FFF ∉ t.ce.sliceMap := by decide

theorem witness_SignalWrites :
    let c := ctx 1
    let t := ((running 0 c).issueAt .agree recStore c).1
    (running 0 c).issues .agree recStore 0 c ∧ effId c 1 31 = 32 ∧ t.program.otherRange 0 32 = false ∧
    t.imgWritable 0 ((Patch.add [] (wordLoc 32) 32 1).add (statLoc 32) 1 1) ∧
    (∀ i < 32, t.program.otherRange 0 (32 + i) = false) ∧
    t.imgWritable 0 ((Patch.add [] (bitLoc 32) 1 1).add (statLoc 32) 1 1) := by decide

theorem witness_MemoryAccess :
    let s := State.reset.writeWord .img 0x7FFFFF 5 0xFF .store
    let t := { s.1 with mem := s.1.mem.put .img 0 ⟨1, (encodeWord 0 0).chk⟩ }
    ((s.1.mem.code .img 0x7FFFFF).cls 0x7FFFFF).ok = true ∧ (t.mem.code .img 0).cls 0 = .ce ∧ t.mem.wb = [] ∧
    t.mem.wf = true := by decide

theorem witness_EdgeDetection :
    let c := { ctx 0 with sm := 3 }
    let t := ((running 0 c).issueAt .agree recRegStore c).1
    (running 0 c).issues .agree recRegStore 0 c ∧ effId c 0 64 = 64 ∧ 2 ∉ t.ce.sliceMap ∧
    t.imgReadable 0 [(bitLoc 64).1, (edgeLoc 64).1] ∧
    (t.imgRead [(bitLoc 64).1, (edgeLoc 64).1]).imgWritable 0 ((Patch.add [] (edgeLoc 64) 1 0).add (edgeLoc 65) 1 0) := by decide

/-- BEDGE with SUB 0 finds a rising edge: the signal's bit is 1, its edge bit 0 (R135). -/
theorem test_bedge_rise : (match exec (.bedge .agree ⟨false, false, 0, 0, 3⟩)
      { running 0 (ctx 0) with mem := Mem.reset.put .img (bitLoc 3).1 (encodeWord (bitLoc 3).1 8) } with
    | .next t => some ((t.ce.task 0).ctx.ba, t.imgBit (edgeLoc 3))
    | _ => none) = some (1, true) := by decide

theorem witness_SignalTraps :
    let c := (ctx 0x3FFFF).set 2 1
    (∀ k ∈ [recReg, recRegStore, recStore], (running 7 c).issues .agree k 7 c ∧ (running 0 c).issues .agree k 0 c) ∧ 0x3FFFF < effId c 1 1 ∧ effId c 2 0 % 32 ≠ 0 ∧
    ({ running 0 c with ce := { (running 0 c).ce with active := some ⟨0, [⟨true, 4, 0, 0, 0, false, 8, 0, [], [⟨3, 3, false⟩], 0, 0⟩], [], [], 0, false, 0, none⟩ } :
      State }.program.otherRange 1 3) = true := by decide

theorem witness_Loads :
    let c := ctx 0x10000000
    let t := ((running 0 c).issueAt .agree (recMem true ⟨2, 1, 0⟩) c).1
    (running 0 c).issues .agree (recMem true ⟨2, 1, 0⟩) 0 c ∧ effAddr c ⟨2, 1, 0⟩ = 0x10000000 ∧
    (∃ p ∈ [(Arr.img, 0)], decodeAddr t.slotNo 0x10000000 false = .mem p.1 p.2 ∧ (∀ e ∈ t.ce.store, storeTarget e.addr ≠ some p) ∧
      ((t.mem.code p.1 p.2).cls p.2).ok = true) := by decide

theorem witness_Stores :
    let c := { ctx 0x10000000 with pc := 7 }
    let t := ((running 7 c).issueAt .agree (recMem false ⟨2, 1, 0⟩) c).1
    (running 7 c).issues .agree (recMem false ⟨2, 1, 0⟩) 7 c ∧ (∃ p ∈ [(Arr.img, 0)], decodeAddr t.slotNo (effAddr c ⟨2, 1, 0⟩) true = .mem p.1 p.2) ∧
    t.ce.store.length < 8 ∧ t.ce.cur = some 7 ∧ effAddr c ⟨2, 1, 0⟩ % 8 = 0 := by decide

theorem witness_MemoryTraps :
    let c := ((ctx 0x80000000).set 2 0xBEFFFFFF).set 3 0x04400000
    let d := ((ctx 0x0FFFFFF8).set 2 0x20000000).set 3 0x20FFFFF8
    (∀ b ∈ [true, false], (running 0 c).issues .agree (recMem b ⟨0, 1, 0⟩) 0 c ∧ (running 0 d).issues .agree (recMem b ⟨0, 1, 0⟩) 0 d ∧
      (running 0 c).issues .agree (recMem b ⟨0, 2, 0⟩) 0 c ∧ (running 0 c).issues .agree (recMem b ⟨0, 3, 0⟩) 0 c ∧
      (running 0 d).issues .agree (recMem b ⟨0, 2, 0⟩) 0 d ∧ (running 0 d).issues .agree (recMem b ⟨0, 3, 1⟩) 0 d) ∧
    effAddr c ⟨0, 1, 0⟩ = 0x80000000 ∧
    effAddr c ⟨0, 2, 0⟩ = 0xBEFFFFFF ∧ effAddr c ⟨0, 3, 0⟩ = 0x04400000 ∧ effAddr d ⟨0, 1, 0⟩ = 0x0FFFFFF8 ∧
    effAddr d ⟨0, 2, 0⟩ = 0x20000000 ∧ effAddr d ⟨0, 3, 1⟩ % 2 ≠ 0 := by decide

theorem witness_CodedWords : (0 : Nat) < 0x800000 ∧ ((0 : Fin 72) ≠ 71) ∧
    ((encodeWord 5 0x123456789ABCDEF0).cls 5) = .clean := by decide

/-! ### The Cycle Engine -/

theorem witness_ReleaseEndsAndIsMeasured :
    (running 0 (ctx 0)).issues .agree recCommit 0 (ctx 0) ∧ (running 7 (ctx 0)).issues .agree recCommit 7 (ctx 0) ∧
    (running 8 (ctx 0)).issues .agree recCommit 8 (ctx 0) ∧ ((running 0 (ctx 0)).issueAt .agree recCommit (ctx 0)).1.ce.store = [] ∧
    ((running 0 (ctx 0)).issueAt .agree recCommit (ctx 0)).1.ce.cur = some 0 ∧
    (let s := (running 6 (ctx 0)).setFld (Reg.CE_TASKCFG_COMMIT_AT 6) 1
     s.mode = .run ∧ s.colState ≠ colSyncStandby ∧ s.fld (Reg.CE_TASKCFG_COMMIT_AT 6) = 1 ∧ s.wd = []) := by decide

theorem witness_TrapTaken : (running 7 (ctx 0)).policyOf 7 = 0 ∧ (running 7 (ctx 0)).wd = [] := by decide

theorem witness_BudgetAndOverrun :
    let s := running 6 (ctx 0)
    let t := { s with ce.tasks := s.ce.tasks.set 6 { s.ce.task 6 with clocks := 0xFFFFFFFF, overruns := 16 } }
    t.ce.cur = some 6 ∧ t.wd = [] ∧ t.ce.store = [] ∧ (t.fld (Reg.CE_WCET_WCET 6)).toNat < (t.ce.task 6).clocks ∧
    (t.ce.task 6).ctx.pc < 2 ^ 21 ∧ t.policyOf 6 = 0 ∧
    (t.fld (Reg.CE_TASKCFG_OVR_LIMIT 6)).toNat + 1 ≤ (t.ce.task 6).overruns ∧
    (t.setFld (Reg.CE_TASKCFG_POLICY 6) 1).policyOf 6 = 1 := by decide

/-- An image with one task, T0, in use. -/
def image : Image := ⟨1, [⟨true, 4, 0, 1000, 0, false, 8, 100, [], [⟨3, 3, false⟩], 0, 0⟩], [], [], 0, false, 0, none⟩

/-- A running module with `image` active and nothing executing. -/
def loaded : State :=
  let s := running 0 (ctx 0)
  let ce := s.ce
  { s with
    ce := { ce with cur := none, active := some image, tasks := Vector.replicate 9 TaskRt.idle
                    slots := ce.slots.set 1 { ce.slots[1] with image := some image } } }

theorem witness_StoreBufferAndEngine :
    let s := running 0 (ctx 0)
    let t := { s with ce.store := [⟨0x10000007, 1, 0xAB, some 0⟩] }
    t.ring.deferred = [] ∧ t.toRun = t.ce.cur ∧ t.ce.cur.isSome = true ∧ (∃ p ∈ [(Arr.img, 0)], storeTarget 0x10000007 = some p ∧
      ((t.mem.code p.1 p.2).cls p.2).ok = true) ∧ ¬ (reservePlane ≤ 0) ∧
    (let u := { loaded with ce.switchNow := true }
     u.ce.switchNow = true ∧ (u.slot u.otherSlot).image = some image ∧ u.cmd.longOp = none ∧ u.ce.store = []) ∧
    (let u := { loaded with ce.switchSince := some 0, time.tick := 1000000 }
     u.ce.switchSince = some 0 ∧ 0 + u.swTimeout ≤ u.time.tick ∧ u.ce.switchNow = false ∧ u.cmd.longOp = none) ∧
    (let u := ({ loaded with time.tick := 1 }).setFld (Reg.CE_TASKCFG_ENABLE 7) 1
     u.cycleRuns = true ∧ u.toRun = none ∧ (u.ce.task 7).ready = false ∧ u.taskOn 7 = true ∧ u.ce.switchNow = false ∧
       (u.ce.task 7).resumeAfter < u.time.tick ∧ u.ce.store = [] ∧ u.fld Reg.PWR_STAT_STOPPING = 0) ∧
    (let u := { running 8 (ctx 0) with ce.initTicks := 4000 }
     (u.ce.task 8).ready = true ∧ 4000 ≤ u.ce.initTicks ∧ u.sup.modeWait = none ∧ u.wd = [] ∧ u.ce.store = []) := by decide

theorem witness_TickAndRelease :
    loaded.mode ≠ .selftest ∧ loaded.mode ≠ .recovery ∧ loaded.fld Reg.PWR_STAT_STOPPING ≠ 1 ∧ loaded.boundaryReady = true ∧
    State.reset.mode = .selftest ∧ (loaded.setFld Reg.PWR_STAT_STOPPING 1).fld Reg.PWR_STAT_STOPPING = 1 ∧
    ({ loaded with time.utcValid := true }).time.utcValid = true ∧ loaded.time.utc + 250000 < 2 ^ 64 ∧
    (let s := ((loaded.setFld (Reg.CE_TASKCFG_ENABLE 6) 1).setFld (Reg.CE_TASKCFG_PERIOD 6) 4)
     s.due 6 = true ∧ (∀ u : Who, u ≠ 6 → u.val < 7 → s.due u = false) ∧ (s.ce.task 6).ready = false ∧
     (let t := { s with ce.tasks := s.ce.tasks.set 6 { s.ce.task 6 with ready := true } }
      t.due 6 = true ∧ (t.ce.task 6).ready = true ∧ (∀ u : Who, u ≠ 6 → u.val < 7 → t.due u = false))) := by decide

theorem witness_ReadmissionAndCountdown :
    let s := (loaded.minority .a .store 3)
    let d := { (loaded.minority .c .load 3) with time.tick := 4000 }
    let t := s.setFld Reg.CV_STAT_LANE_A 2
    s.mayReload = true ∧ s.ce.store = [] ∧ s.laneState .a = 1 ∧ s.reloading = false ∧ s.bestCyclic = none ∧
    d.mayReload = true ∧ d.laneState .c = 1 ∧ d.reloading = false ∧ d.cv.haltedAt.toList.getD Lane.c.code 0 + 4000 ≤ d.time.tick ∧
    t.mayReload = true ∧ t.laneState .a = 2 ∧ t.cmd.longOp = none ∧
    (let u := { loaded with mode := .degraded, cv.degLeft := 1, cv.laneB := { loaded.cv.laneB with retired := true } }
     let v := { u with cv.degLeft := 2 }
     u.anyRetired = true ∧ u.sup.powered = true ∧ u.cv.degLeft = 1 ∧ u.mode = .degraded ∧
     v.anyRetired = true ∧ v.sup.powered = true ∧ v.cv.degLeft ≠ 1 ∧ v.cv.degLeft ≠ 0) := by decide

theorem witness_LaneVoting :
    loaded.voters = 3 ∧ loaded.isFailed .c .load 0x1FFFFF = false ∧ loaded.mode ≠ .safe ∧ loaded.mode ≠ .recovery ∧
    (loaded.minority .a .store 3).voters = 2 := by decide

theorem witness_Scrubbing :
    loaded.fld Reg.PS_TRAV_CTRL_ENABLE = 0 ∧ loaded.mem.wf = true ∧ loaded.mode ≠ .selftest ∧ loaded.mode ≠ .recovery ∧
    loaded.fld Reg.PWR_STAT_STOPPING = 0 ∧
    (let s := { (((loaded.setFld Reg.PS_TRAV_CTRL_ENABLE 1).setFld (Reg.PS_TRAV_BASE_VALID 0) 1).setFld (Reg.PS_TRAV_BASE_BASE 0)
       0).setFld (Reg.PS_TRAV_LIM_LIMIT 0) 0 with mem.travWord := 1 }
     s.travRuns = true ∧ 0 < s.mem.travWord ∧ (s.scrubNext s.mem.travRange s.mem.travWord).isSome = true) := by decide

/-! ### Modes, starts and the reset input -/

theorem witness_SafeEntryAndSupervisor_reload :
    let s := loaded.confFresh
    let t := s.setFld Reg.SYS_MODE_ROLE 3
    s.mode ≠ .selftest ∧ s.mode ≠ .recovery ∧ s.regDiff s.confFresh = [] ∧ t.regDiff t.confFresh = [Reg.SYS_MODE_ROLE] ∧
    keyPage Reg.SYS_MODE_ROLE ≠ 0x17 ∧ Reg.SYS_MODE_ROLE ≠ Reg.SYS_EVT_CFG_RELOAD ∧
    Reg.SYS_MODE_ROLE ≠ Reg.SYS_CFGRELOAD_CNT := by decide +kernel

theorem witness_SafeEntryAndSupervisor :
    loaded.mode ≠ .safe ∧ loaded.mode ≠ .recovery ∧
    (let s := { loaded.setFld Reg.SYS_OPSEC 60 with sup.runSince := some 0 }
     s.sup.runSince = some 0 ∧ s.mode = .run ∧ 0 + 60000000000 ≤ s.opNs) ∧
    loaded.mode ≠ .selftest ∧ loaded.sup.powered = true ∧ loaded.firmwareTest.1 = 0 ∧
    ({ loaded with sup.fwStore := .erased }).firmwareTest.1 ≠ 0 ∧
    ((loaded.enterSafe 8).mode = .safe ∧ (loaded.enterSafe 8).fld Reg.SYS_SAFE_CAUSE = 8) ∧
    ((loaded.enterSafe 1).mode = .safe ∧ (loaded.enterSafe 1).fld Reg.SYS_SAFE_CAUSE ≠ 8) := by decide +kernel

theorem ne_succ (x : Word) : x ≠ x + 1 := by bv_omega

theorem witness_SafeEntryAndSupervisor_check :
    (let s := { loaded with sf.confirmed := some (loaded.sfRecomputed, 1) }
     s.sf.confirmed = some (loaded.sfRecomputed, 1) ∧ s.mode ≠ .selftest ∧ s.sfRecomputed = loaded.sfRecomputed) ∧
    (let s := { loaded with sf.confirmed := some (loaded.sfRecomputed + 1, 1) }
     s.sf.confirmed = some (loaded.sfRecomputed + 1, 1) ∧ s.mode ≠ .selftest ∧ s.sfRecomputed ≠ loaded.sfRecomputed + 1) :=
  ⟨⟨rfl, by decide, rfl⟩, rfl, by decide, ne_succ loaded.sfRecomputed⟩

theorem witness_RestartAndPowerCycle :
    (let s := { loaded with sup.resetArmed := true, sup.restartDue := true }
     s.sup.powered = true ∧ s.sup.resetArmed = true ∧ s.sup.restartDue = true) ∧
    State.reset.sup.powered = false ∧ loaded.noFeed = true := by decide

/-- A start that finds everything in order. -/
def soundTest : SelfTest := ⟨false, false, false, false, none, false, false, none⟩

theorem witness_SelftestAndAutoStart :
    let s := { State.reset with sup.powered := true }
    let lanes := (s.runTests soundTest).1
    s.mode = .selftest ∧ 2 ≤ lanes.sound ∧ lanes.firmwareTest.1 = 0 ∧ lanes.sup.bootsel = false ∧
    (State.runTests { s with sup.bootsel := true } soundTest).1.sup.bootsel = true ∧ soundTest.loader = false ∧
    soundTest.comparators = false ∧ soundTest.array = none ∧ soundTest.clock = false ∧ soundTest.read = none ∧
    ({ soundTest with loader := true }).loader = true ∧
    (State.runTests { s with sup.fwStore := .erased } soundTest).1.firmwareTest.1 ≠ 0 ∧
    (let t := { s with mode := .stopped, sup.autoOpen := true }
     t.sup.modeWait = none ∧ t.sup.autoImage = none ∧ t.cfg blkModule 0x02 1 ≠ 1) := by decide +kernel

/-- The public key that the images of the tests are signed under (RFC 8032). -/
def pub : List Byte := leBytes 32 0xb83155126486dc1d5f0da59b30d6e46799c04be718dd701dbe10cef3bf07a103

/-- A program with no task in use. -/
def endImage : Image := ⟨1, [], [], [], 0, false, 0, none⟩

/-- Its bytes: one END, and the signature of that word. -/
def endBody : List Byte := leBytes 4 0xC0000002 ++
  leBytes 64 0x77fc398ef780374c97208cde3f3a74e6a63d24aa0206c21ba74774df7fb40a8631aedf03d18d902dadd9091304ce9880a093f70982024a0432f511fd1514868

/-- A stopped module configured to start the program in flash slot 1, with its owner's key in the configuration. -/
def autoState : State :=
  { State.reset with
    sup.powered := true, mode := .stopped, sup.autoOpen := true
    sup.flashSlots := State.reset.sup.flashSlots.set 0 (some (1, endBody))
    cmd.config := [(blkModule * 2 ^ 20 + 2, 1), (blkModule * 2 ^ 20 + 3, 1)] ++
      (List.range 32).map (fun i => (0x82 * 2 ^ 20 + i, pub.getD i 0)) }

theorem witness_SelftestAndAutoStart_start :
    autoState.mode = .stopped ∧ autoState.sup.autoOpen = true ∧ autoState.sup.modeWait = none ∧ autoState.sup.autoImage = none ∧
    autoState.cfg blkModule 0x02 1 = 1 ∧ (autoState.loadStart endImage).map (·.2) = some endImage ∧
    (let t := { autoState with sup.autoImage := some endImage }
     t.autoBar = none ∧ t.partnerServes = false ∧
     (State.autoBar { t with sup.programMargin := true }) = some 3) := by decide +kernel

/-! ### Feeds, the hold-up store, ageing -/

theorem witness_FeedEvents :
    let s := { State.reset with sup.powered := true }
    let t := (s.setFld Reg.PWR_STAT_FEED1_GOOD 1)
    s.feedOvv false = false ∧ s.noFeed = true ∧ s.fld Reg.PWR_STAT_STOPPING = 0 ∧ t.feedGood false = true ∧
    t.feedGood (!false) = false ∧ (t.setFld Reg.PWR_STAT_FEED2_GOOD 1).feedGood (!false) = true ∧
    { t with pwr.dip1 := true }.pwr.dip false = true := by decide +kernel

theorem witness_HoldUp :
    let s := { State.reset with sup.powered := true }
    let t := { s.setFld Reg.PWR_STAT_FEED1_GOOD 1 with pwr.charged := true }
    s.noFeed = true ∧ s.fld Reg.PWR_STAT_STOPPING = 0 ∧ t.noFeed = false ∧ t.fld Reg.PWR_STAT_STOPPING = 0 ∧
    t.pwr.tested = false ∧ t.pwr.charged = true := by decide +kernel

theorem witness_AgeingAndOperatingPoints :
    loaded.sup.powered = true ∧ loaded.mode ≠ .selftest ∧ loaded.opSec < loaded.pwr.planAt + 86400 ∧
    (loaded.setFld Reg.SYS_OPSEC 86400).pwr.planAt + 86400 ≤ (loaded.setFld Reg.SYS_OPSEC 86400).opSec ∧ loaded.pwr.gop ≤ 3 ∧
    usable 1 1643 1 = true ∧ usable 1 1644 1 = false := by decide +kernel

/-! ### Requests -/

/-- A key. -/
def key : List Byte := List.replicate 32 7

/-- A module in mode `m` with session 1 of `role` open on CONSOLE, which has armed `armed`. -/
def served (m : Mode) (role : Role) (armed : Option Armed) : State :=
  let d : Desk := { Desk.zero with sessions := [⟨1, role, 6, key, 0, 0, none, armed⟩] }
  { State.reset with sup.powered := true, mode := m, cmd.desk := d, trig.running := true, trig.desk := d }

/-- A request of session 1 with its authentication code. -/
def request (target : Byte) (op : Nat) (payload : List Byte) : Req :=
  let r : Req := ⟨6, 0, false, 1, target, 1, true, payload, []⟩
  { r with mac := authCode key (r.signed op) }

/-- The state on which a request of session `x` acts (R238). -/
def admitted (s : State) (r : Req) (x : Session) : State :=
  let t := s.setDesk r ((s.desk r).modSession x.num (fun y => { y with lastUsed := s.opNs, armed := none }))
  if r.atTrig then t else t.cmdStat.bump Reg.CMD_RXCNT

theorem gate_of_session {s : State} {op : Nat} {r : Req} {x : Session} (h0 : op ≠ 0x0020) (h1 : r.session ≠ 0)
    (h2 : (s.desk r).session r.session = some x) (h3 : x.transport = r.transport) (h4 : r.auth = true)
    (h5 : r.mac = authCode x.key (r.signed op)) (h6 : s.tagPending r = false) (h7 : x.kept = none)
    (h8 : 1 ≤ (r.tag - x.lastTag).toNat ∧ (r.tag - x.lastTag).toNat ≤ 32767) :
    s.gate op r = .pass (admitted s r x) (some x.role) x.armed := by
  unfold State.gate
  simp only [h0, h1, h2, h3, h4, if_false, ne_eq, not_true_eq_false, Bool.not_true, Bool.false_eq_true]
  rw [if_neg (by rw [← h5]; simp)]
  simp only [State.tagGate, h6, Bool.false_eq_true, if_false, h7, Option.filter_none, h8, and_self, if_true, admitted]
  cases r.atTrig <;> rfl

/-- Nothing waits before the packet, and nothing acts on its link. -/
abbrev calm (s : State) (r : Req) : Prop := s.cmd.arrived = [] ∧ s.fiActs (r.carrier.getD linkCount) true = false

/-- Then it is here, and nothing else has happened. -/
theorem arrival_calm {s : State} {op : Nat} {r : Req} (h : calm s r) :
    s.arrival r.transport r.source r.forwarded (r.packet op) = (s, .here) := by
  have h2 : s.fiActs ((carrierOf r.transport r.source).getD linkCount) true = false := h.2
  cases hf : r.forwarded <;> simp [State.arrival, h.1, h2]

/-- A request of session 1 passes every check of its row, and what the statement asks of the state it acts on holds. -/
def passes (s : State) (c : CmdSpec) (r : Req) (also : State → Option Role → Option Armed → Bool) : Bool :=
  match (s.desk r).session r.session with
  | some x =>
    let u := admitted s r x
    decide (r.session ≠ 0 ∧ x.transport = r.transport ∧ r.auth = true ∧ x.key = key ∧ s.tagPending r = false ∧
      x.kept.isNone = true ∧ 1 ≤ (r.tag - x.lastTag).toNat ∧ (r.tag - x.lastTag).toNat ≤ 32767) &&
    (decide (s.deaf r.transport r.forwarded = false ∧ calm s r ∧ c.op ≠ 0x0020 ∧ r.target = 0 ∧ r.payload.length ≤ 4064 ∧
      c.roles.allow (some x.role) = true ∧ c.modes u.mode = true ∧ (c.long = true → u.cmd.longOp.isNone = true)) &&
      also u (some x.role) x.armed)
  | none => false

/-- The hypotheses of a statement about a request hold of some state. -/
def Acts (s : State) (c : CmdSpec) (r : Req) (also : State → Option Role → Option Armed → Bool) : Prop :=
  ∃ u role a, s.acts c r u role a ∧ also u role a = true

theorem acts {s : State} {c : CmdSpec} {t : Byte} {b : List Byte} {also : State → Option Role → Option Armed → Bool}
    (h : passes s c (request t c.op b) also = true) (hl : c.len b.length = none) : Acts s c (request t c.op b) also := by
  unfold passes at h
  split at h
  · next x hx =>
    simp only [Bool.and_eq_true, decide_eq_true_eq, Option.isNone_iff_eq_none] at h
    obtain ⟨⟨h1, h2, h3, h4, h5, h6, h7⟩, ⟨k1, k2, k3, k4, k5, k6, k7, k8⟩, h8⟩ := h
    have ha := arrival_calm (op := c.op) k2
    refine ⟨_, _, _, ⟨⟨k1, by rw [ha]⟩, k5, .inr k4, ?_, k6, hl, k7, k8⟩, h8⟩
    rw [State.received, ha]
    exact gate_of_session k3 h1 hx h2 h3 (by rw [h4]; rfl) h5 h6 h7
  · cases h

/-- Nothing more is asked. -/
def always : State → Option Role → Option Armed → Bool := fun _ _ _ => true

theorem witness_RequestGate :
    let s := served .stopped .maintainer none
    let r : Req := ⟨0, 0, false, 1, 0, 0, false, [], []⟩
    s.tagPending r = false ∧ (s.cmd.desk.transport 0).kept = none ∧ s.cmd.desk.session 2 = none ∧
    (s.cmd.desk.session 1).any (fun x => x.transport == 6) = true ∧ r.transport < 8 ∧
    (let t := s.finish 0x0001 r .done
     ((t.cmd.desk.transport 0).kept.any (fun k => k.tag == 1 && k.opcode == 0x0001 && k.crc == r.crc 0x0001)) = true ∧
     t.tagPending r = false) ∧
    s.ringOn 1 = false := by decide +kernel

/-- Modules with a session of MAINTAINER, and of INTEGRATOR. -/
def sessM (m : Mode) : State := served m .maintainer none
def sessI (m : Mode) : State := served m .integrator none

theorem witness_ReadingRequestsAndKeys :
    let s := sessM .stopped
    let go := fun (op : Nat) (x : Roles) (n : Nat) (b : List Byte) (also : State → Bool) =>
      Acts s ⟨op, x, fixedLen n, allModes, false⟩ (request 0 op b) (fun u _ _ => also u)
    Acts s ⟨0x0000, .none, fixedLen 0, romModes, false⟩ (request 0 0x0000 []) always ∧
    Acts s ⟨0x0001, .none, fixedLen 0, romModes, false⟩ (request 0 0x0001 []) always ∧
    go 0x0002 .any 0 [] (fun _ => true) ∧ go 0x0003 rOMI 0 [] (fun _ => true) ∧
    go 0x0004 rMI 8 (leBytes 8 5) (fun u => u.fld Reg.ESW_PTPSTAT_LOCKED != 1) ∧
    Acts (s.setFld Reg.ESW_PTPSTAT_LOCKED 1) ⟨0x0004, rMI, fixedLen 8, allModes, false⟩ (request 0 0x0004 (leBytes 8 5))
      (fun u _ _ => u.fld Reg.ESW_PTPSTAT_LOCKED == 1) ∧
    go 0x0010 rMI 8 (leBytes 4 0xF0000000 ++ [1, 0, 0, 0]) (fun _ => regAddrOk 0xF0000000) ∧
    go 0x0400 .any 8 ([2, 0, 1, 0] ++ leBytes 4 0x3FFFF) (fun _ => sigImage 2 == some .com) ∧
    go 0x0403 .any 4 [0, 0, 0, 0] (fun _ => true) ∧ go 0x0500 .any 0 [] (fun _ => true) ∧
    go 0x0202 .any 12 ([0x80, 0, 0, 0] ++ leBytes 4 0 ++ leBytes 4 0x10) (fun _ => !confRangeBad 0x80 0 0x10) ∧
    go 0x0600 .any 0 [] (fun _ => true) ∧ go 0x0601 .any 8 [1, 0, 63, 0, 0, 0, 0, 0] (fun _ => true) ∧
    go 0x0900 .any 0 [] (fun _ => true) ∧ go 0x0901 .any 0 [] (fun _ => true) ∧ go 0x0C00 .any 0 [] (fun _ => true) := by
  and_intros <;> exact acts (by decide +kernel) (by decide)

theorem crcRun_append (c : Word) (a b : List Byte) : crcRun c (a ++ b) = crcRun (crcRun c a) b := by
  induction a generalizing c <;> simp_all [crcRun]

/-- SF_CHECK of a block of zeros, an eighth of it at a time. -/
theorem witness_ChangingRequests_check : crc32c (List.replicate 488 0) = 0xB61C2DC6 := by
  have h1 : crcRun 0xFFFFFFFF (List.replicate 61 0) = 0x6F506D19 := by decide +kernel
  have h2 : crcRun 0x6F506D19 (List.replicate 61 0) = 0x4023E5A7 := by decide +kernel
  have h3 : crcRun 0x4023E5A7 (List.replicate 61 0) = 0x862517E2 := by decide +kernel
  have h4 : crcRun 0x862517E2 (List.replicate 61 0) = 0xEC62CE32 := by decide +kernel
  have h5 : crcRun 0xEC62CE32 (List.replicate 61 0) = 0xFB06256F := by decide +kernel
  have h6 : crcRun 0xFB06256F (List.replicate 61 0) = 0x9B994588 := by decide +kernel
  have h7 : crcRun 0x9B994588 (List.replicate 61 0) = 0x61FB9D1C := by decide +kernel
  have h8 : crcRun 0x61FB9D1C (List.replicate 61 0) = 0x49E3D239 := by decide +kernel
  have h : List.replicate 488 (0 : Byte) = (List.replicate 8 (List.replicate 61 0)).flatten := by decide +kernel
  rw [crc32c, h]
  generalize List.replicate 61 (0 : Byte) = z at h1 h2 h3 h4 h5 h6 h7 h8
  simp only [List.replicate, List.flatten_cons, List.flatten_nil, crcRun_append, h1, h2, h3, h4, h5, h6, h7, h8, crcRun]
  decide

/-- A stopped module whose ring 10 the serial agent holds, and a claim of that ring for CAN channel 1. -/
def heldRing : State := (sessM .stopped).setFld (Reg.RNG_CFG_AGENT 10) 5
def canCfg : Nat := regAddr 0x0C 0x40
def canClaim : List Byte := [1, 0, 0, 0] ++ leBytes 4 canCfg ++ leBytes 4 0x20

theorem witness_ChangingRequests :
    Acts (sessM .stopped) ⟨0x0011, rMI, lenBetween 12 4060, allModes, false⟩
      (request 0 0x0011 ([1, 0, 0, 0] ++ leBytes 4 0xF0000000 ++ [0, 0, 0, 0]))
      (fun u _ _ => (u.ringClaim (pageOf 0xF0000000) (offOf 0xF0000000) 0 0xFFFFFFFF).isNone && regAddrOk 0xF0000000 &&
        !sealedPage (pageOf 0xF0000000)) ∧
    Acts heldRing ⟨0x0011, rMI, lenBetween 12 4060, allModes, false⟩ (request 0 0x0011 canClaim)
      (fun u _ _ => u.ringClaim (pageOf canCfg) (offOf canCfg) 0x20 0xFFFFFFFF == some 10 && regAddrOk canCfg &&
        !sealedPage (pageOf canCfg)) ∧
    Acts (sessM .stopped) ⟨0x0021, .any, fixedLen 0, romModes, false⟩ (request 0 0x0021 []) always ∧
    Acts { sessM .stopped with ce := loaded.ce } ⟨0x0100, .any, fixedLen 4, allModes, false⟩ (request 0 0x0100 [4, 0, 0, 0])
      (fun u role _ => u.sup.modeWait.isNone && (u.modeRefusal .run role).isNone) ∧
    Acts (sessM .run) ⟨0x0100, .any, fixedLen 4, allModes, false⟩ (request 0 0x0100 [0xB, 0, 0, 0])
      (fun u role _ => (u.modeRefusal .safe role).isNone) ∧
    Acts (sessM .stopped) ⟨0x0200, rMI, fixedLen 0, modesOf [.stopped, .config], false⟩ (request 0 0x0200 []) always ∧
    Acts { sessM .config with cmd.edit := some ⟨1, 6, []⟩ } ⟨0x0201, rMI, lenBetween 9 4064, modesOf [.config], false⟩
      (request 0 0x0201 [0x80, 0, 0, 0, 0, 0, 0, 0, 5]) (fun u _ _ => u.ownsEdit (request 0 0x0201 []) && u.cmd.longOp.isNone &&
        !confRangeBad 0x80 0 1) ∧
    Acts { sessM .config with cmd.edit := some ⟨1, 6, []⟩ } ⟨0x0203, rMI, fixedLen 0, modesOf [.config], true⟩
      (request 0 0x0203 []) (fun u _ _ => u.ownsEdit (request 0 0x0203 [])) ∧
    Acts { sessM .test with ce := { loaded.ce with active := some { image with table := leBytes 4 3 ++ List.replicate 4 0 ++ leBytes 4 1 } } }
      ⟨0x0401, rMI, fixedLen 8, modesOf [.test], false⟩ (request 0 0x0401 [3, 0, 0, 0, 1, 0, 0, 0])
      (fun u _ _ => (u.forceRefusal 3 false).isNone) ∧
    Acts (sessM .test) ⟨0x0402, rMI, fixedLen 8, modesOf [.test], false⟩ (request 0 0x0402 [3, 0, 0, 0, 1, 0, 0, 0]) always ∧
    Acts (sessI .stopped) ⟨0x0501, rI, fixedLen 4, modesOf [.stopped], false⟩ (request 0 0x0501 [0, 0, 0, 0])
      (fun u _ _ => u.sfStored == List.replicate 488 0) ∧
    Acts (sessI .stopped) ⟨0x0501, rI, fixedLen 4, modesOf [.stopped], false⟩ (request 0 0x0501 (leBytes 4 0xB61C2DC6))
      (fun u _ _ => u.sfStored == List.replicate 488 0) ∧
    Acts { sessM .stopped with cmd.config := [(0x8000006, 1)], col.partner := some ⟨1, 2, 3, 0, 0, 0, false⟩ }
      ⟨0x0800, rMI, fixedLen 4, modesOf [.stopped], true⟩ (request 0 0x0800 [2, 0, 0, 0])
      (fun u _ _ => (u.pairRoleRefusal 2).isNone && !u.sup.autoOpen && u.col.partner.isSome) ∧
    Acts (sessI .stopped) ⟨0x0902, rI, fixedLen 0, modesOf [.stopped], true⟩ (request 0 0x0902 [])
      (fun u _ _ => decide (u.pwr.op < 3) && !u.sup.autoOpen) := by
  and_intros <;> exact acts (by decide +kernel) (by decide)

/-- Instance 1 of the Safety Function Unit in use, confirmed, and locked out with its lock-out number shown. -/
theorem witness_ChangingRequests_reset :
    Acts ((({ served .run .operator none with sf.block := [(0xC8, 1), (0xC9, 2), (0xE8, 1), (0xEC, 1)], sf.confirmed := some (0, 0) } : State).setSs 1
        stLocked).putBit Reg.TLI_FGSTAT_MISSING 0 false)
      ⟨0x0502, rOMI, fixedLen 8, allModes, false⟩ (request 0 0x0502 [1, 0, 0, 0, 0, 0, 0, 0])
      (fun u _ _ => (u.sfResetRefusal 1 0).isNone && u.ssState 1 != stRunning) := acts (by decide +kernel) (by decide)

/-- SESS_OPEN on CONSOLE as INTEGRATOR with no key set: the key is zero (R243). -/
theorem witness_ChangingRequests_open :
    let r : Req := ⟨6, 0, false, 1, 0, 0, true, [2, 0, 0, 0] ++ List.replicate 16 0, []⟩
    let q : Req := { r with mac := authCode (List.replicate 32 0) (r.signed 0x0020) }
    (match (sessM .stopped).gate 0x0020 q with | .pass u _ _ => u.mode == .stopped | .stop _ => false) = true ∧
    (sessM .stopped).served 6 = true ∧ Roles.allow .none (Option.none) = true ∧ fixedLen 20 q.payload.length = none ∧
    romModes .stopped = true := by decide +kernel

/-- A body of 64 bytes, 0 to 63. -/
def body : List Byte := (List.range 64).map (BitVec.ofNat 8)

/-- Its header with MAGIC `m` and signature `sig`. -/
def header (m sig : Nat) : List Byte :=
  leBytes 4 m ++ [1, 0, 0, 0] ++ leBytes 4 7 ++ leBytes 4 64 ++ [1, 0] ++ List.replicate 46 0 ++ leBytes 4 0xfb6d36eb ++
    List.replicate 1020 0 ++ leBytes 64 sig ++ List.replicate 896 0
/-- An image for the supervisor. -/
def supHeader : List Byte := header 0x5A465701
  0x73571f67f3f1dc5c49c6e971d41807a51b30db68dc3c75183b7867162ea7236d25aca1942e5465649444ad51c9f00e77fa92bde813a131c1963fe8cf63d7708
/-- An image for Trig. -/
def trigHeader : List Byte := header 0x5A465702
  0x4cbcf38810259e873be7db8c5e5dd4522edeae7c9b73e58f2da06570cba0e270881382cc9b1623d47583d00a841d352b853f02732a64c2196f06d46d0117f50

/-- The signature of an image is verified (R442, RFC 8032). -/
theorem test_signature : imageTest ⟨0x5A465701, 16711680, pub, 0⟩ supHeader body = (0, 0) := by decide +kernel

/-- CRC-32C, SHA-256 and HMAC-SHA-256 of published examples (RFC 3720, FIPS 180-4, RFC 4231). -/
theorem test_checks : crc32c [0x31, 0x32, 0x33, 0x34, 0x35, 0x36, 0x37, 0x38, 0x39] = 0xE3069283 ∧
    (sha256 [0x61, 0x62, 0x63]).take 4 = [0xBA, 0x78, 0x16, 0xBF] ∧
    authCode (List.replicate 20 0x0B) [0x48, 0x69, 0x20, 0x54, 0x68, 0x65, 0x72, 0x65] =
      [0xB0, 0x34, 0x4C, 0x61, 0xD8, 0xDB, 0x38, 0x53, 0x5C, 0xA8, 0xAF, 0xCE, 0xAF, 0x0B, 0xF1, 0x2B] := by decide +kernel

/-- What step 0 of a dangerous command has armed, and its step 1 with nonce 1. -/
def arm (op : Nat) (params : List Byte) : Option Armed := some ⟨op, params, 1, 0⟩
def step1 (target : Byte) (op : Nat) (params : List Byte) : Req := request target op ([1, 0, 0xFE, 0xFF] ++ params)

/-- A module whose inactive slot holds a verified image with an empty carry map. -/
def ready (m : Mode) : State :=
  let x : Slot := ⟨some (1, 8), [(0, 8)], .all, some { image with carry := some [] }⟩
  { loaded with mode := m, cmd.desk := (sessM m).cmd.desk, ce.slots := Vector.replicate 2 x }

theorem witness_LoadingRequests :
    Acts (sessM .stopped) ⟨0x0300, rMI, fixedLen 12, prgModes, false⟩
      (request 0 0x0300 ([1, 0, 0, 0] ++ leBytes 4 8 ++ [0, 0, 0, 0])) (fun u _ _ => u.slotBusy.isNone) ∧
    Acts (sessM .run) ⟨0x0301, rMI, lenBetween 8 4060, prgModes, false⟩ (request 0 0x0301 [0, 0, 0, 0, 1, 2, 3, 4])
      (fun u _ _ => u.slotBusy.isNone && u.sup.flashLoad.isNone) ∧
    Acts (sessM .stopped) ⟨0x0302, rMI, fixedLen 4, prgModes, true⟩ (request 0 0x0302 [1, 0, 0, 0]) always ∧
    Acts (ready .run) ⟨0x0303, rMI, fixedLen 4, prgModes, true⟩ (request 0 0x0303 [1, 0, 0, 0])
      (fun u _ _ => (u.switchRefusal 1).isNone && !u.standbyMissing none 1) ∧
    Acts (ready .stopped) ⟨0x0303, rMI, fixedLen 4, prgModes, true⟩ (request 0 0x0303 [1, 0, 0, 0])
      (fun u _ _ => (u.switchRefusal 1).isNone && !u.standbyMissing none 1 && !u.sup.autoOpen) ∧
    Acts { sessI .update with sup.update := some ⟨1, 6, supHeader, []⟩, sup.fwStore := .erased }
      ⟨0x0701, rI, lenBetween 5 4036, updModes .update, false⟩ (request 0 0x0701 ([0, 0, 0, 0] ++ body))
      (fun u _ _ => ownsUpdate u.sup.update (request 0 0x0701 []) && !chunkBad ⟨1, 6, supHeader, []⟩ 0 body) ∧
    Acts { served .update .integrator (arm 0x0702 []) with sup.update := some ⟨1, 6, supHeader, body⟩, sup.romKey := pub }
      ⟨0x0702, rI, fixedLen 4, updModes .update, true⟩ (step1 0 0x0702 [])
      (fun u _ a => u.sup.romKey == pub && u.sup.fwCounter == 0 && a == arm 0x0702 []) ∧
    Acts ((served .run .maintainer (arm 0x0801 [])).setColState colSyncActive)
      ⟨0x0801, rMI, fixedLen 4, modesOf [.run, .standby], true⟩ (step1 0 0x0801 [])
      (fun u _ a => u.inPair && u.colState == colSyncActive && a == arm 0x0801 []) ∧
    Acts ({ served .stopped .integrator (arm 0x0802 [0, 0, 0, 0]) with
        cv.laneA := ⟨true, 0, [], none⟩ }.setFld Reg.CV_STAT_LANE_A 4)
      ⟨0x0802, rI, fixedLen 8, modesOf [.stopped], true⟩ (step1 0 0x0802 [0, 0, 0, 0])
      (fun u _ a => (u.restoreRefusal 0).isNone && !u.sup.autoOpen && a == arm 0x0802 [0, 0, 0, 0]) ∧
    Acts (sessM .test) ⟨0x0A00, rMI, fixedLen 16, modesOf [.test, .run], false⟩
      (request 0 0x0A00 ([0, 1, 1, 0] ++ leBytes 4 1 ++ leBytes 4 0 ++ leBytes 4 0))
      (fun u _ _ => !u.fiClaimed (request 0 0x0A00 []) 0 && actionOk 0 1 0) ∧
    Acts (sessM .run) ⟨0x0A01, rMI, fixedLen 4, allModes, false⟩ (request 0 0x0A01 [0xFF, 0, 0, 0]) always ∧
    Acts (sessM .run) ⟨0x0A01, rMI, fixedLen 4, allModes, false⟩ (request 0 0x0A01 [0, 0, 0, 0]) (fun _ _ _ => decide (0 < linkCount)) ∧
    Acts (served .run .integrator (arm 0x0A02 [])) ⟨0x0A02, rI, fixedLen 4, modesOf [.run], false⟩ (step1 0 0x0A02 [])
      (fun _ _ a => a == arm 0x0A02 []) := by
  and_intros <;> exact acts (by decide +kernel) (by decide)

/-- UPD_BEGIN in RECOVERY with a right header. -/
theorem witness_LoadingRequests_begin :
    Acts (sessI .recovery) ⟨0x0700, rI, fixedLen 2048, updModes .stopped, false⟩ (request 0 0x0700 supHeader)
      (fun u _ _ => !u.sup.autoOpen && u.sup.update.isNone && (beginRefusal u.supRules supHeader).isNone) :=
  acts (by decide +kernel) (by decide +kernel)

/-! ### Requests for Trig, packets -/

/-- A request of session 1 for Trig passes every check of its row. -/
def passesTrig (s : State) (op : Nat) (roles : Roles) (r : Req) (also : State → Option Armed → Bool) : Bool :=
  let t := s.toTrig 0x03 (r.packet op)
  match (t.desk r).session r.session with
  | some x =>
    let u := admitted t r x
    decide (r.session ≠ 0 ∧ x.transport = r.transport ∧ r.auth = true ∧ x.key = key ∧
      t.tagPending r = false ∧ x.kept.isNone = true ∧
      1 ≤ (r.tag - x.lastTag).toNat ∧ (r.tag - x.lastTag).toNat ≤ 32767) &&
    (decide (s.deaf r.transport r.forwarded = false ∧ calm s r ∧ op ≠ 0x0020 ∧ r.payload.length ≤ 4064 ∧ r.forwarded = false ∧
      r.target = 1 ∧ s.mode ≠ .selftest ∧ s.mode ≠ .recovery ∧ t.trig.running = true ∧ roles.allow (some x.role) = true) &&
      also u x.armed)
  | none => false

/-- The hypotheses of a statement about a request for Trig hold of some state. -/
def ActsAtTrig (s : State) (op : Nat) (roles : Roles) (len : Nat → Option Nat) (r : Req)
    (also : State → Option Armed → Bool) : Prop := ∃ u a, s.actsAtTrig op roles len r u a ∧ also u a = true

theorem actsTrig {s : State} {op : Nat} {roles : Roles} {len : Nat → Option Nat} {b : List Byte}
    {also : State → Option Armed → Bool} (h : passesTrig s op roles (request 1 op b) also = true) (hl : len b.length = none) :
    ActsAtTrig s op roles len (request 1 op b) also := by
  unfold passesTrig at h
  dsimp only at h
  split at h
  · next x hx =>
    simp only [Bool.and_eq_true, decide_eq_true_eq, Option.isNone_iff_eq_none] at h
    obtain ⟨⟨h1, h2, h3, h4, h5, h6, h7⟩, ⟨k1, k2, k3, k4, k5, k6, k7, k8, k9, k10⟩, h8⟩ := h
    have ha := arrival_calm (op := op) k2
    refine ⟨_, _, ⟨⟨k1, by rw [ha]⟩, k4, k5, k6, ?_⟩, h8⟩
    rw [State.atTrig, State.received, ha]
    exact ⟨k7, k8, k9, hl, _, gate_of_session k3 h1 hx h2 h3 (by rw [h4]; rfl) h5 h6 h7, k10⟩
  · cases h

/-- Trig with a session of METROLOGIST, seal open. -/
def sessT (armed : Option Armed) : State := { served .stopped .metrologist armed with trig.sealOpen := true, trig.romKey := pub }

theorem witness_TrigRequests :
    ActsAtTrig (sessT none) 0x0B00 .none (fixedLen 0) (request 1 0x0B00 []) (fun _ _ => true) ∧
    ActsAtTrig (sessT none) 0x0B01 rOT (fixedLen 8) (request 1 0x0B01 [0, 0, 0, 0, 31, 0, 0, 0]) (fun _ _ => true) ∧
    ActsAtTrig { sessT none with trig.nextSeq := 1 } 0x0B02 rOT (fixedLen 4) (request 1 0x0B02 [0, 0, 0, 0])
      (fun u _ => decide (0 < u.trig.nextSeq)) ∧
    ActsAtTrig (sessT none) 0x0B03 rT (lenBetween 4 64) (request 1 0x0B03 [0, 0, 0, 0]) (fun _ _ => true) ∧
    ActsAtTrig (sessT none) 0x0B04 .none (fixedLen 0) (request 1 0x0B04 []) (fun _ _ => true) ∧
    ActsAtTrig { sessT none with trig.update := some ⟨1, 6, trigHeader, []⟩ } 0x0B06 rT (lenBetween 5 4036)
      (request 1 0x0B06 ([0, 0, 0, 0] ++ body))
      (fun u _ => u.trig.sealOpen && ownsUpdate u.trig.update (request 1 0x0B06 []) && !chunkBad ⟨1, 6, trigHeader, []⟩ 0 body) ∧
    ActsAtTrig { sessT (arm 0x0B07 []) with trig.update := some ⟨1, 6, trigHeader, body⟩ } 0x0B07 rT (fixedLen 4)
      (step1 1 0x0B07 []) (fun u a => u.trig.sealOpen && u.trig.fwCounter == 0 && u.trig.romKey == pub && a == arm 0x0B07 []) ∧
    ActsAtTrig (served .stopped .metrologist none) 0x0B07 rT (fixedLen 4) (request 1 0x0B07 [0, 0, 0, 0])
      (fun u _ => !u.trig.sealOpen) := by
  and_intros <;> exact actsTrig (by decide +kernel) (by decide)

/-- EMP_UPD_BEGIN with a right header; the seal open. -/
theorem witness_TrigRequests_begin :
    ActsAtTrig (sessT none) 0x0B05 rT (fixedLen 2048) (request 1 0x0B05 trigHeader)
      (fun u _ => u.trig.sealOpen && u.trig.update.isNone && (beginRefusal u.trig.rules trigHeader).isNone) ∧
    ActsAtTrig (served .stopped .metrologist none) 0x0B05 rT (fixedLen 2048) (request 1 0x0B05 trigHeader)
      (fun u _ => !u.trig.sealOpen) := by
  constructor <;> exact actsTrig (by decide +kernel) (by decide +kernel)

/-- An image for Trig is complete and valid. -/
theorem test_trig_signature : activateRefusal ⟨0x5A465702, 2031616, pub, 0⟩ ⟨1, 6, trigHeader, body⟩ 0x0B06 = none := by
  decide +kernel

/-- A packet of 16 bytes with a wrong check code; and a request of no session on transport 0 for target `t`. -/
def badPacket : List Byte := [0x5E, 0xDA, 1, 0, 0, 0, 1, 0, 0, 0, 0, 0, 0, 0, 0, 0]
def bare (t : Byte) : Req := ⟨0, 0, false, 1, t, 0, false, [], []⟩

theorem witness_PacketsAndTimeouts :
    let s := sessM .stopped
    s.deaf 6 false = false ∧ (s.arrival 6 0 false badPacket).2 = .here ∧ badPacket.length = 16 ∧ fieldAt badPacket 0 2 = 0xDA5E ∧
    bitAt (fieldAt badPacket 3 1) 0 = 0 ∧ (reqOf 6 0 false badPacket).auth = false ∧ fieldAt badPacket 10 2 = 0 ∧
    (crc32c (badPacket.take 12)).toNat ≠ fieldAt badPacket 12 4 ∧ (s.arrival 6 0 false []).2 = .here ∧
    s.mode ≠ .selftest ∧ s.mode ≠ .recovery ∧
    (let t := served .run .integrator (arm 0x0A02 []) |>.setFld Reg.SYS_OPSEC 11
     t.cmd.desk.sessions.all (fun x => x.armed.any (fun p => decide (p.at_ + 10000000000 < t.opNs))) = true) ∧
    (let t := s.setFld Reg.SYS_OPSEC 0xFFFFFFFF
     t.cmd.desk.sessions.all (fun x => decide (x.lastUsed + t.sessionIdle false * 1000000000 ≤ t.opNs)) = true ∧
       t.cmd.edit = none ∧ t.sup.update = none) ∧
    (let d := s.cmd.desk.setTransport 7 ⟨none, [], some 0, none⟩
     (d.transport 7).lockedAt = some 0 ∧ s.opNs < 0 + 60000000000 ∧ 0 + 60000000000 ≤ (s.setFld Reg.SYS_OPSEC 60).opNs) ∧
    [0x0902, 0x0203, 0x0702].all (fun op => (s.beginLong op (request 0 op []) true .done).cmd.longOp.any (fun l =>
      l.background && l.opcode == op && l.status == 0)) = true := by
  decide +kernel

/-- A packet that finds sixteen waiting has no room. -/
theorem witness_PacketsAndTimeouts_full :
    let s := { sessM .stopped with cmd.arrived := List.replicate 16 ⟨0, 0, badPacket, false⟩ }
    let b := (bare 0).packet 0
    s.deaf 0 false = false ∧ (s.arrival 0 0 false b).2 = .full ∧
    (match framing 0 0 false b with | .passed 0 r => r == bare 0 | _ => false) = true := by decide +kernel

/-- Packets for Trig, and for a target that the spec gives no number. -/
theorem witness_PacketsAndTimeouts_forward : [(1 : Byte), 0x80].all (fun t =>
    let s := sessM .stopped
    decide (s.receives 0 (bare t) ∧ (bare t).forwarded = false ∧ t ≠ 0 ∧ (s.received 0 (bare t)).mode = .stopped)) = true ∧
    targetKnown 1 = true ∧ targetKnown 0x80 = false := by decide +kernel

/-! ### Registers -/

/-- COMPAT is bit 31 at offset 0 of every page that has it, RW, and WIGN bit 31 at offset 4 (R265). -/
theorem test_compat_bits : [0x06, 0x07, 0x08, 0x0A, 0x0B, 0x0C, 0x0D, 0x0E, 0x13, 0x14].all (fun p =>
    (fieldsAt p 0).any (fun f => f.lo == 31 && f.width == 1 && f.acc == .rw) &&
    (fieldsAt p 4).any (fun f => f.lo == 31 && f.width == 1)) = true := by decide +kernel

theorem witness_RegisterAccessAndCommands :
    (let s := { loaded with staged := [(Reg.MVB_CTRL_DEVADDR, 5)] }
     s.enabled .mvb = false ∧ instOf (keyPage Reg.MVB_CTRL_DEVADDR) (keyOff Reg.MVB_CTRL_DEVADDR) = some .mvb) ∧
    loaded.outReady 0 = false ∧ loaded.safetyOwned 0x13 0 = false ∧
    ((loaded.setFld (Reg.FCH_STAT_SF_CLAIMED 1) 1).safetyOwned 0x13 0) = true ∧
    (fieldsAt 0x00 0x10).any (fun f => f.acc == .ro) = true ∧
    [Access.ro, .rw, .w1c, .rwc, .rws].all (fun a => (List.range 0x1B).any (fun p => (List.range 0x100).any (fun o =>
      (fieldsAt p (4 * o)).any (fun f => f.acc == a && decide (f.lo + f.width ≤ 32 ∧ 0 < f.width))))) = true ∧
    mayWrite .packet 0x16 = false ∧ mayWrite (.triad 0) 0x06 = true ∧ loaded.wd = [] ∧ loaded.ce.store = [] ∧
    loaded.holdOf 31 = [] ∧ loaded.staged = [] ∧ loaded.ringOwned 0 + 16 ≤ loaded.ringLen 0 ∧
    loaded.ringLen 0 < loaded.ringOwned 0 + 17 ∧
    (let s := loaded.setFld (Reg.RNG_RSTAT_HALTED 0) 1
     s.ringHalted 0 = true ∧ sget s.ring.inHand 0 = none ∧ s.descAddr 0 + 32 ≤ psBytes) ∧
    (loaded.putBit Reg.CAN_STAT_BUSOFF 0 true).canOff 1 = true := by decide +kernel

theorem witness_DangerousRegisters :
    let s := { loaded with wd := [⟨.triad 0, 0, 0x40, 0x00005AFE⟩] }
    loaded.wd = [] ∧ s.wd = [⟨.triad 0, 0, 0x40, 0x00005AFE⟩] ∧ s.mode ≠ .safe ∧ s.mode ≠ .recovery ∧
    mayWrite (.triad 0) 0x15 = true ∧ { loaded with wd := [⟨.triad 0, 0x15, 0x40, 5⟩] }.wd = [⟨.triad 0, 0x15, 0x40, 5⟩] := by decide

theorem witness_EnablesAndShutdown :
    let s := loaded
    let m := s.setFld Reg.SYS_MODE_ROLE 1
    s.wd = [] ∧ s.staged = [] ∧ sget s.staged (Reg.BRG_CFG_ENABLE 63) = none ∧ sget s.staged (Reg.FCH_CFG_ENABLE 64) = none ∧
    sget s.staged Reg.RDG_CTRL_ENABLE = none ∧ sget s.staged Reg.RDG_STAT_STATE = none ∧ sget s.staged (fk 0x14 0 31) = none ∧
    (m.setFld (Reg.BRG_CFG_ENABLE 63) 1).isManager = true ∧ (m.setFld (Reg.BRG_CFG_ENABLE 63) 1).fld (Reg.BRG_CFG_ENABLE 63) = 1 ∧
    (m.setFld Reg.RDG_CTRL_ENABLE 1).isManager = true ∧ (m.setFld Reg.RDG_CTRL_ENABLE 1).fld Reg.RDG_CTRL_ENABLE = 1 ∧
    (s.setFld (Reg.FCH_CFG_ENABLE 64) 1).claimed 64 = false ∧ Inst.ridge ∉ s.bus.shutting ∧ Inst.ring 31 ∉ s.bus.shutting ∧ s.holdOf 31 = [] ∧ s.fld (Reg.RNG_CFG_ENABLE 31) = 0 ∧
    (s.setFld (Reg.RNG_CFG_ENABLE 31) 1).fld (Reg.RNG_CFG_ENABLE 31) = 1 ∧ Inst.brg 63 ∉ s.bus.shutting ∧
    m.isManager = true ∧ m.fld (Reg.BRG_CFG_ENABLE 63) = 0 ∧ s.isManager = false ∧ s.isWorker = false ∧
    Inst.fch 64 ∉ s.bus.shutting ∧ s.badCompat 0x13 (0x10 * 63) 1 0xFFFFFFFF = false ∧ s.claimed 64 = false ∧
    s.fld (Reg.FCH_CFG_ENABLE 64) = 0 ∧ (s.setFld (Reg.FCH_STAT_SF_CLAIMED 64) 1).claimed 64 = true ∧
    s.fld Reg.RDG_CTRL_ENABLE = 0 ∧ compatPage 0x14 = true ∧ s.fld (fk 0x14 0 31) = b2w (s.compat 0x14) ∧
    (instsOf 0x14).any s.enabled = false ∧ ((s.setFld Reg.MVB_CTRL_ENABLE 1).enabled .mvb) = true ∧
    (let t := { m with bus.shutting := [.ring 0, .brg 5, .ridge] }
     t.mayEnd (.ring 0) = true ∧ t.enabled (.ring 0) = false ∧ t.mayEnd (.brg 5) = true ∧ t.enabled .ridge = false ∧
     ∀ n, n < 64 → t.online n = false) := by decide +kernel

/-! ### Field channels and safety functions -/

theorem witness_FieldChannels :
    let s := (loaded.setFld (Reg.FCH_CFG_MODE 1) 3).setFld (Reg.FCH_STAT_DRIVE 1) 1
    let c : ChanRt := ⟨false, false, 0, 0, false, 10, 0, 10, 10, 10, 0, 0, false, false⟩
    let t := { s with field.chan := [(1, c)] }
    filterLen 2 ≠ 0 ∧ s.chanMode 1 = 3 ∧ modeIsOutput (s.chanMode 1) = true ∧ s.fld (Reg.FCH_STAT_DRIVE 1) = 1 ∧
    10 ≤ (t.chan 1).limit ∧ t.has 1 .overload = false ∧ 10 ≤ (t.chan 1).opens ∧ t.has 1 .opens = false ∧
    10 ≤ (t.chan 1).ext ∧ t.has 1 .ext = false ∧
    (let u := { s.setFld (Reg.FCH_STAT_OPEN 1) 1 with field.chan := [(1, { c with opens := 0 })] }
     (u.chan 1).opens < 10 ∧ 10 ≤ (u.chan 1).noOpen ∧ u.has 1 .opens = true) ∧
    (let u := { s with field.supply := [(8, ⟨0, 10, 0, 200, 200⟩)] }
     200 ≤ (sgetD SupplyRt.zero u.field.supply 8).excess ∧ 10 ≤ (sgetD SupplyRt.zero u.field.supply 8).low ∧
     200 ≤ (sgetD SupplyRt.zero u.field.supply 8).high ∧ u.lpLow 8 = false) ∧
    (s.putBit Reg.TLI_FGSTAT_MISSING 7 false).missing 8 = false ∧ (s.putBit Reg.TLI_FGSTAT_MISSING 7 true).missing 8 = true ∧
    (∀ k ∈ upTo 8, t.soA k = 0) ∧
    (let u := { t with sf.block := [(0xC8, 1), (0xC9, 9)] }
     u.soA 1 = 1 ∧ u.soB 1 = 9 ∧ (∀ j ∈ upTo 8, j ≠ 1 → u.soA j = 0) ∧ u.soA 1 ∈ chansOf 1 ∧ (u.so 1).fault = false ∧
     10 ≤ (u.chan 1).limit ∧ u.has 1 .overload = false) := by decide +kernel

theorem witness_SafetyFunctions :
    let s := { loaded with sf.block := [(0x08, 1), (0xE8, 1)] }
    let t := { s with sf.inst := [(1, ⟨0, some 1, false, false, 30001, false⟩)], sf.si := [(1, ⟨some 1, false, false⟩)] }
    ((t.setSs 1 stStopping).setFld (Reg.SF_NSTOP 1) 1).ssState 1 = stStopping ∧
    10 * t.ss 1 0x20 4 < ((t.setFld (Reg.SF_NSTOP 1) 1).fld (Reg.SF_NSTOP 1)).toNat ∧
    (t.inst 1).differ = some 1 ∧ t.ssUsed 1 = true ∧ 10 * t.ss 1 0x0E 2 < 1 ∧ (t.inst 1).disc = false ∧
    30000 < (t.inst 1).pressed ∧ (t.inst 1).stuck = false ∧ (t.si 1).differ = some 1 ∧ t.siA 1 ≠ 0 ∧ 10 * t.siDisc 1 < 1 ∧
    (t.si 1).disc = false ∧ (t.si 1).fault = false := by decide +kernel

/-! ### Links -/

/-- A module with committed configuration bytes `l`. -/
def conf (s : State) (l : List (Nat × Byte)) : State := { s with cmd.config := l }

/-- The running module as Summit, or as a Spur. -/
def summit : State := (loaded.setFld Reg.SYS_MODE_ROLE 1).setFld Reg.RDG_CTRL_ENABLE 1
def spur : State := ((loaded.setFld Reg.SYS_MODE_ROLE 2).setFld Reg.RDG_CTRL_ENABLE 1).setFld Reg.SYS_MODE_STATION 5

theorem witness_RingFrames :
    let s := ((loaded.setFld (Reg.RNG_CFG_ENABLE 31) 1).setFld (Reg.RNG_CFG_DIR 31) 1).setFld (Reg.RNG_CFG_AGENT 31) 7
    let f : AgentFrame := ⟨[1, 2, 3], 0, 0, 0⟩
    let x : Arrival := ⟨f, false, false, 0, 0⟩
    let t := s.setFld (Reg.RNG_PTR_TAIL 31) 1
    let o := ((loaded.setFld (Reg.RNG_CFG_ENABLE 0) 1).setFld (Reg.RNG_CFG_AGENT 0) 1).setFld (Reg.RNG_PTR_TAIL 0) 1
    let w := fun (m : Mem) (a v : Nat) => m.put .ps a (encodeWord a (BitVec.ofNat 64 v))
    let p : State := { o with mem := w (w (w (w (w (w o.mem 0 (0x100 + 0x40 * 2 ^ 32 + 16 * 2 ^ 48)) 1 1) 2 0) 3 0) 0x20 (255 * 2 ^ 56)) 0x21 0 }
    let bad := o.setFld (Reg.RNG_BASE_BASE 0) 0x07FFFFFF
    let q := fun (k : Nat) => p.setFld (Reg.RNG_CFG_AGENT 0) (BitVec.ofNat 32 k)
    loaded.ringOwned 0 = 0 ∧ t.ringOwned 31 ≠ 0 ∧ t.descAddr 31 + 32 ≤ psBytes ∧ s.agent 31 ≠ 0 ∧ s.ringOn 31 = true ∧ s.ringIsIn 31 = true ∧ s.staged = [] ∧ s.ringHalted 31 = false ∧ s.ringOwned 31 = 0 ∧
    (s.holdOf 31).length < 4 ∧ ({ s with ring.hold := [(31, [x, x, x, x])] }.holdOf 31).length = 4 ∧
    (s.setFld (Reg.RNG_CFG_POLICY 31) 1).fld (Reg.RNG_CFG_POLICY 31) = 1 ∧ s.fld (Reg.RNG_CFG_POLICY 31) ≠ 1 ∧
    t.ringHalted 31 = false ∧ t.holdOf 31 = [] ∧ 0 < t.ringOwned 31 ∧ t.fld Reg.PWR_STAT_STOPPING = 0 ∧ t.fenced 31 x = false ∧
    loaded.outReady 0 = false ∧
    bad.outReady 0 = true ∧ (bad.takeOut 0).2 = none ∧ p.outReady 0 = true ∧ (p.takeOut 0).2.isSome = true ∧
    (match p.readDesc 0 with
      | (u, some d) => let q := u.writeFrame d [1, 2, 3] 1; q.2.isNone && decide (q.1.ringOwned 0 ≠ 0)
      | _ => false) = true ∧
    [1, 2, 4, 5, 0xA, 0xB].all (fun k => (q k).outReady 0 && decide (((q k).takeOut 0).1.agent 0 = k) &&
      ((q k).takeOut 0).2.any (fun y => decide (y.1.port < 15 ∧ beAt y.2 6 6 ≠ ((q k).takeOut 0).1.unitMac))) = true ∧
    sgetD 0 { loaded with ring.minute := [(0, 1)] }.ring.minute 0 ≠ 0 := by decide +kernel

/-- A module that waits for the network message `m`. -/
def heard (s : State) (m : NetMsg) : State := { s with net.inbox := [m] }

theorem witness_EthernetAndTime :
    let s := (loaded.setFld (Reg.ESW_PORTCFG_ENABLE 11) 1).setFld (Reg.ESW_PORTSTAT_LINK 11) 1
    let b : List Byte := [1, 2, 3, 4, 5, 6, 1, 2, 3, 4, 5, 6, 8, 6]
    let far : List Byte := [1, 0x80, 0xC2, 0, 0, 0, 2, 2, 3, 4, 5, 6, 8, 6]
    s.portUp 11 = true ∧ s.fiActs (ethLink 11) true = false ∧ b.length = 14 ∧ far.length = 14 ∧ foreign b = false ∧
    foreign far = true ∧ isGroup (beAt b 6 6) = true ∧ beAt b (payloadType b) 2 ≠ 0x0800 ∧
    (∀ k, k < 4 → loaded.pairRed k ≠ 1 ∧ loaded.pairRed k ≠ 2) ∧
    (let t := loaded.setFld Reg.ESW_REDCFG_RED 0x80
     t.pairRed 3 = 2 ∧ t.portUp 7 = false ∧ t.portUp 8 = false) ∧
    (let c : ClockData := ⟨128, 6, 0x20, 0, 128, 5⟩
     let l := conf loaded [(0x08 * 2 ^ 20 + 0x2B10, 100), (0x08 * 2 ^ 20 + 0x2B11, 100)]
     [loaded, l].all (fun x => (heard x (.ptp (.announce 37 c))).nextMsg (.ptp (.announce 37 c)) && x.net.best.isNone) = true ∧
     c.better loaded.ownClock = false ∧ loaded.mayLead = true ∧ c.better l.ownClock = false ∧ l.mayLead = true ∧
     ({ c with prio1 := 0 }.better l.ownClock) = true ∧
     (conf loaded [(0x08 * 2 ^ 20 + 0x2B11, 255)]).mayLead = false) ∧
    (let t := { heard loaded (.ptp (.sync 2000)) with net.tai := some 1000, net.inRange := 7 }
     t.nextMsg (.ptp (.sync 2000)) = true ∧ t.fld Reg.ESW_PTPSTAT_GM ≠ 1 ∧ t.net.tai = some 1000 ∧
     7 ≤ t.net.inRange ∧ 1000 ≤ 2000 + 1000 ∧ 2000 ≤ 1000 + 1000) ∧
    (loaded.setFld Reg.ESW_PTPSTAT_LOCKED 1).fld Reg.ESW_PTPSTAT_LOCKED = 1 ∧
    (let t := { loaded.setFld Reg.ENC_CTRL_PPS_IN_EN 1 with net.ppsAt := some 1000, time.utcValid := true, img.ageClock := 3996 }
     t.fld Reg.ENC_CTRL_PPS_IN_EN = 1 ∧ t.fiActs linkPpsIn true = false ∧ t.net.ppsAt = some 1000 ∧ t.time.utcValid = true ∧
     t.fld Reg.ESW_PTPSTAT_LOCKED = 0 ∧ 1000 + 999000000 ≤ t.img.ageClock * 250000 + 1000 / 8 * 8 ∧
     t.img.ageClock * 250000 + 1000 / 8 * 8 ≤ 1000 + 1001000000 ∧ t.time.utc + 1000 < 2 ^ 63 ∧
     { t with img.ageClock := 8 }.img.ageClock * 250000 + 0 < 1000 + 999000000) ∧
    loaded.staged = [] ∧ loaded.net.best = none ∧
    (let t := conf { loaded with time.utcValid := true } [(0x08 * 2 ^ 20 + 0x2B11, 255)]
     t.staged = [] ∧ t.fiActs linkPpsOut false = false ∧ t.mayLead = false ∧ t.fld Reg.ENC_CTRL_PPS_OUT_SEL = 0 ∧
     t.time.utcValid = true ∧ t.follows = false) ∧ loaded.time.utcValid = false := by decide +kernel

/-- Block 0x09 with one subscription to ComId 1 of 2 bytes with a time-out of 100. -/
def subscribed : State :=
  conf (loaded.setFld Reg.TPD_CTRL_ENABLE 1) [(0x09 * 2 ^ 20 + 0x06, 1), (0x09 * 2 ^ 20 + 0xC010, 1),
    (0x09 * 2 ^ 20 + 0xC01C, 100), (0x09 * 2 ^ 20 + 0xC022, 2)]

theorem witness_TrainNetwork :
    let s := subscribed
    let t : PdTelegram := ⟨true, 0x5064, 0x0100, 5, 1, 0, 2, 9, 0, [7, 8]⟩
    s.fld Reg.TPD_CTRL_ENABLE = 1 ∧ s.mode.acquires = true ∧ t.msgType = 0x5064 ∧ t.version / 256 = 1 ∧ 0 < s.subCount ∧
    s.subMatches 0 t = true ∧ (∀ i, i < s.subCount → s.subMatches i { t with comId := 2 } = false) ∧ s.pdDuplicate 0 t = false ∧
    { s with net.subs := [(0, (5, 0))] }.pdDuplicate 0 t = true ∧ ({ t with topo := 1 }.topo.toNat ≠ s.topoCnt) ∧
    t.length = s.cfg 0x09 (pdSubscribeOff 0 + 0x12) 2 ∧
    ({ s with img.ageClock := 100 }.subDue 0 = true ∧ { s with img.ageClock := 99 }.subDue 0 = false ∧
      { s with img.ageClock := 100 }.subCount = 1) ∧
    (heard s (.pd t)).nextMsg (.pd t) = true ∧ s.nextMsg (.pd t) = false := by decide +kernel

theorem witness_TrainNetwork_backbone :
    (let u := conf loaded [(0x08 * 2 ^ 20 + 0x1030, 1), (0x08 * 2 ^ 20 + 0x1034, 7), (0x08 * 2 ^ 20 + 0x1032, 1),
       (0x08 * 2 ^ 20 + 0x1134, 8), (0x08 * 2 ^ 20 + 0x1021, 8)]
     let m : MdMessage := ⟨1, 7, 2, false, 3, false, [5]⟩
     7 ∈ u.mdList 0 ∧ 8 ∉ u.mdList 0 ∧ 8 ∈ u.mdList 1 ∧ 9 ∉ u.mdList 0 ∧ 9 ∉ u.mdList 1 ∧ m.comId = 7 ∧ m.reply = false ∧
     { m with reply := true }.reply = true ∧ m.confirm = false ∧
     sget { u with net.md := [(3, 4)] }.net.md 3 = some 4 ∧ sget u.net.md 3 = none ∧ u.isWorker = false ∧
     (heard u (.md m)).nextMsg (.md m) = true ∧ u.nextMsg (.md m) = false ∧
     (heard u (.raw 1 [2])).nextMsg (.raw 1 [2]) = true ∧ u.nextMsg (.raw 1 [2]) = false) ∧
    (let e := loaded.setFld Reg.ESW_ETBSTAT_ETBN 1
     e.etbn = true ∧ [NetMsg.hello false 5, .hello true 5, .topology 5 0 6].all (fun m => (heard e m).nextMsg m) = true ∧
     e.etbLine.length ≤ 32 ∧ e.directory 1 = some [e.unitMac] ∧ e.directory 2 = none ∧ e.directory 0 = none ∧
     (let x := { e with net.neigh2 := some (1, 0)
                        net.topology := (List.range 32).map (fun i => (i + 1, i, i + 2)) }
      x.etbn = true ∧ 32 < x.etbLine.length)) ∧
    { loaded with net.neigh1 := some (3, 2) }.net.neigh1 = some (3, 2) := by decide +kernel

theorem witness_Fieldbuses :
    let s := conf (loaded.setFld Reg.MVB_CTRL_ENABLE 1) [(0x0A * 2 ^ 20 + 0x04, 1), (0x0A * 2 ^ 20 + 0x10, 5)]
    let k := conf (loaded.setFld Reg.MVB_CTRL_ENABLE 1) [(0x0A * 2 ^ 20 + 0x04, 1), (0x0A * 2 ^ 20 + 0x10, 5),
      (0x0A * 2 ^ 20 + 0x11, 0x10), (0x0A * 2 ^ 20 + 0x12, 4)]
    let f : LinkFrame := ⟨[0, 5], true⟩
    s.staged = [] ∧ s.fiActs linkMvbA true = false ∧ s.fiActs linkMvbA false = false ∧ s.fiActs linkMvbB false = false ∧
    0 < s.mvbPorts ∧ s.mvbAddr 0 = beAt f.bytes 0 2 % 4096 ∧ s.mvbCode 0 = beAt f.bytes 0 2 / 4096 ∧ f.bytes.length = 2 ∧ s.mvbIsSink 0 = false ∧ s.mvbOn = true ∧ s.sendsData = true ∧
    k.mode.acquires = true ∧ k.mvbPorts = 1 ∧ { k with img.ageClock := 4 }.mvbDue 0 = true ∧
    { k with img.ageClock := 3 }.mvbDue 0 = false ∧
    (loaded.setFld Reg.MVB_STAT_LINE_B 1).fld Reg.MVB_STAT_LINE_B = 1 ∧ loaded.fld Reg.MVB_STAT_LINE_A = 0 := by decide +kernel

theorem witness_Fieldbuses_channels :
    (let w := conf ((loaded.setFld Reg.WTB_CTRL_ENABLE 1).setFld Reg.WTB_STAT_INAUG_DONE 1)
       [(0x0B * 2 ^ 20 + 0x200, 1), (0x0B * 2 ^ 20 + 0x202, 1)]
     let u := { w with bus.wtbNodes := [63], bus.wtbPeriod := 1 }
     u.staged = [] ∧ u.wtbIn = true ∧ u.sendsData = true ∧ u.fld Reg.WTB_STAT_INAUG_DONE = 1 ∧ u.fiActs linkWtbA false = false ∧
     u.fiActs linkWtbB false = false ∧ u.fiActs linkWtbA true = false ∧ u.wtbSinkLen 63 ≠ 0 ∧
     (∀ b, b ≤ 63 → 1 ≤ b → b ≠ 63 → u.wtbSinkLen b = 0) ∧ 63 ∈ u.bus.wtbNodes ∧ u.wtbLost 63 = false ∧
     u.cfg 0x0B (wtbSinkOff 63 + 2) 2 = 1 ∧ (⟨63, [63], true, false, false, 0⟩ : WtbTopo).nodes.length ≤ 32 ∧ 1 ≤ u.bus.wtbPeriod - sgetD 0 u.bus.wtbAt 63) ∧
    (let c := (loaded.setFld (Reg.CAN_CFG_ENABLE 8) 1).setFld (Reg.CAN_NBT_NTSEG1 8) 5
     c.canOn 8 = true ∧ c.canOff 8 = false ∧ c.fiActs (canLink 8) true = false ∧ c.fiActs (canLink 8) false = false ∧
     c.sending (canLink 8) [8, 10] = none ∧ c.staged = [] ∧
     (let d := { c with ring.started := [(10, ⟨⟨[1], canLink 8, 0, 0⟩, ⟨0, 8, 1, true, canLink 8, 0, 0⟩⟩)] }
      d.sending (canLink 8) [8, 10] = some (some 10, ⟨[1], canLink 8, 0, 0⟩) ∧ d.canListens 8 = false ∧ d.canOff 8 = false ∧
      (d.setFld (Reg.CAN_CFG_LISTEN 8) 1).canListens 8 = true) ∧
     (let d := (c.setFld (Reg.CAN_CFG_AUTO_RECOVER 8) 1).putBit Reg.CAN_STAT_BUSOFF 7 true
      d.fld (Reg.CAN_CFG_AUTO_RECOVER 8) = 1 ∧ d.canOff 8 = true)) ∧
    (let c := (loaded.setFld (Reg.SER_CFG_ENABLE 12) 1).setFld (Reg.SER_CFG_PROTO 12) 1
     c.serOn 12 = true ∧ c.serHdlc 12 = true ∧ c.fiActs (serLink 12) true = false ∧
     c.serBusy 12 = false ∧ (c.serData 12 ⟨[1, 2, 3], true⟩).2 = false ∧ c.fiActs (serLink 12) false = false ∧
     (let d := { c with ring.started := [(14, ⟨⟨[1], serLink 12, 0, 0⟩, ⟨0, 8, 1, true, serLink 12, 0, 0⟩⟩)] }
      d.sending (serLink 12) [12, 14] = some (some 14, ⟨[1], serLink 12, 0, 0⟩) ∧ d.follows = false ∧
      { d with mode := .standby }.follows = true)) := by decide +kernel

theorem witness_RidgeAndColFrames :
    let s := (summit.setFld Reg.RDG_STAT_LINK_E 1).setFld Reg.RDG_STAT_LINK_W 1
    let f : RidgeFrame := ⟨1, 62, 63, 1, 63, true, 65535, 65535, true, true, [1, 2]⟩
    let c := (loaded.setFld Reg.COL_CTRL_ENABLE 1).setFld (laneBit true) 1
    let g : ColFrame := ⟨6, true, 65535, 65535, 2 ^ 32 - 1, [9]⟩
    s.rdgPort true = true ∧ s.rdgPort false = true ∧ s.fiActs linkRidgeE true = false ∧ s.fiActs linkRidgeW true = false ∧
    f.type < 256 ∧ f.hops < 256 ∧ f.src < 64 ∧ f.unit < 2 ∧ f.dst < 64 ∧ f.seq < 65536 ∧ f.ack < 65536 ∧
    f.payload.length ≤ 4096 ∧ (ridgeOf f.bytes).type = f.type ∧ g.type < 256 ∧ g.epoch < 65536 ∧ g.payload.length < 65536 ∧ c.fld Reg.COL_CTRL_ENABLE = 1 ∧
    c.fld (laneBit true) = 1 ∧ c.mode ≠ .selftest ∧ c.mode ≠ .recovery ∧ c.fiActs (laneLink true) true = false ∧ g.seq < 65536 ∧
    g.tick < 2 ^ 32 ∧ c.col.rxSeq = none ∧
    (let d := { c with col.rxSeq := some 65535 }
     d.col.rxSeq = some g.seq ∧ (State.colAct { d with col.rxSeq := some 0 } 0 { g with type := 8 }).col.ahead = [] ∧
     0 < (0 + 65536 - 65535) % 65536 ∧ d.col.ahead.any (fun g => g.seq == 0) = false ∧ 32768 ≤ (32767 + 65536 - 65535) % 65536) ∧
    (0 + 65536 - 32769) % 65536 < 32768 ∧ 32768 ≤ (0 + 65536 - 32768) % 65536 := by decide +kernel

/-- The Summit of a ring that runs. -/
def ringUp : State := ((summit.setFld Reg.RDG_STAT_LINK_E 1).setFld Reg.RDG_STAT_LINK_W 1).setFld Reg.RDG_STAT_STATE 2

theorem witness_RidgeProcessData :
    let s := ringUp
    let g : RidgeFrame := ⟨2, 1, 63, 0, 0, false, 9, 0, false, false, []⟩
    let w := spur.setFld Reg.RDG_STAT_STATE 2
    let f : RidgeFrame := ⟨1, 0, 0, 0, 0, true, 7, 0, false, false, List.replicate 32 0⟩
    let l := leBytes 4 (s.layout 63 true).toNat
    (s.setFld Reg.RDG_STAT_STATE 1).rdgState = 1 ∧ f.src = 0 ∧ s.paired = false ∧ f.unit = s.unitNo ∧
    { s with rdg.cycleSent := f.payload }.rdg.cycleSent = f.payload ∧ s.rdg.cycleSent ≠ f.payload ∧
    g.bcast = false ∧ g.dst = s.station ∧ g.src ≠ 0 ∧ seqFresh s.rdg.slotSeen g.src g.seq = true ∧ s.rdg.lost.contains g.src = false ∧
    seqFresh { s with rdg.slotSeen := [(63, 9)] }.rdg.slotSeen g.src g.seq = false ∧
    s.isManager = true ∧ s.rdgState = 2 ∧ s.rdgPort true = true ∧ s.rdgPort false = true ∧ s.fiActs linkRidgeE false = false ∧
    s.fiActs linkRidgeW false = false ∧ w.isManager = false ∧ w.station < 64 ∧ seqFresh w.rdg.cycleSeen 0 7 = true ∧
    seqFresh ([(0, 7)] : Sparse Nat) 0 7 = false ∧ (leNat ((f.payload.drop 24).take 8)).testBit 5 = false ∧
    (leNat (((List.replicate 24 0 ++ [0x20] : List Byte).drop 24).take 8)).testBit 5 = true ∧
    s.station = 0 ∧ s.refused 63 = false ∧ leNat (l.take 4) = (s.layout 63 true).toNat ∧ (l.drop 4).length = s.slotLen 63 true ∧
    leNat (([] : List Byte).take 4) ≠ (s.layout 63 true).toNat ∧
    (s.setOnline 63 true).online 63 = true ∧ s.rdgOn = true ∧ s.rdgState ≠ 4 ∧
    w.rdgOwn f = false ∧ f.hops + 1 ≠ 63 ∧ f.payload.length ≤ 4080 ∧ w.fiActs linkRidgeW false = false ∧ (w.setFld Reg.RDG_STAT_LINK_W 1).rdgPort (!true) = true ∧ w.isWorker = true ∧
    w.rdgOn = true ∧ w.rdgState = 2 ∧ w.rdg.lost.contains 0 = false ∧ { w with rdg.lost := [0] }.rdg.lost.contains 0 = true ∧ 3 ≤ { w with rdg.quiet := 3 }.rdg.quiet ∧ 0 < s.lossTicks ∧
    (let t := { s.setOnline 63 true with rdg.missed := [(63, s.lossTicks)] }
     t.online 63 = true ∧ t.lossTicks ≤ sgetD 0 t.rdg.missed 63 ∧ ∀ m, m < 64 → m ≠ 63 → t.online m = false) ∧
    (let t := { w with rdg.missed := [(0, w.lossTicks)] }
     t.lossTicks ≤ sgetD 0 t.rdg.missed 0 ∧ t.rdg.lost.contains 0 = false) := by decide +kernel

/-- No station is online there, at any number. -/
theorem witness_RidgeProcessData_offline (n : Nat) : ringUp.online n = false := by
  have h : ∀ k i, ringUp.bit k i = true → ringUp.fld k ≠ 0 := by
    intro k i h h0
    rw [State.bit, h0] at h
    simp at h
  unfold State.online State.mapBit
  split
  · cases hb : ringUp.bit Reg.RDG_ONLINELO_MAP n
    · rfl
    · exact absurd (by decide +kernel) (h _ _ hb)
  · cases hb : ringUp.bit Reg.RDG_ONLINEHI_MAP (n - 32)
    · rfl
    · exact absurd (by decide +kernel) (h _ _ hb)

theorem witness_RidgeStreams :
    let s := (summit.setFld Reg.RDG_STAT_STATE 2).setOnline 63 true
    let w := spur.setFld Reg.RDG_STAT_STATE 2
    let f : RidgeFrame := ⟨6, 0, 63, 0, 0, false, 65535, 0, true, false, []⟩
    let g : RidgeFrame := { f with type := 4, src := 0, dst := 5 }
    let l : BridgeLoad := ⟨0xFE, 0, 0, 8, false, 0, 0, false, none⟩
    let c := { s with rdg.ctx := [(63, ⟨some l, [], none, 1⟩)] }
    s.rdgOwn f = false ∧ s.streamPeer f = true ∧ (s.streamAck f.src f).streamPeer f = true ∧
    (((s.streamAck f.src f).stream f.src).last ≠ some f.seq) ∧
    ((s.streamAck f.src f).stream f.src).expect ≠ some f.seq ∧ { f with sync := false }.sync = false ∧
    (let y := { f with sync := true }
     (s.streamAck y.src y).streamPeer y = true ∧ ((s.streamAck y.src y).stream y.src).opened ≠ some y.seq) ∧
    (let x := s.setStream 63 { s.stream 63 with expect := some 65535, unacked := [⟨5, 4, false, [], none, 0⟩] }
     (x.streamAck 63 f).streamPeer f = true ∧ ((x.streamAck 63 f).stream 63).expect = some f.seq ∧
     x.reach 63 = true ∧ (x.stream 63).unacked.length = 1) ∧ w.streamPeer g = true ∧
    w.isManager = false ∧ s.isManager = true ∧ w.rdg.requests.length < 16 ∧ w.rdgOn = true ∧ w.isWorker = true ∧
    decodeAddr s.slotNo 0x10000000 true = .mem .img 0 ∧ ((s.mem.code .img 0).cls 0).ok = true ∧
    (c.bctx 63).load = some l ∧ l.tag = leAt ([0xFE, 0] : List Byte) 0 1 ∧ leAt ([0xFE, 0x80] : List Byte) 1 1 = 0x80 ∧
    l.retries < (c.setFld Reg.RDG_CTRL_RETRY_LIMIT 3).retryLimit ∧ (c.setFld Reg.RDG_CTRL_RETRY_LIMIT 0).retryLimit ≤ l.retries ∧
    c.reach 63 = true ∧ { c with time.tick := 200 }.cplTimeout ≤ 200 ∧ 0 < c.cplTimeout ∧
    (let t := c.setStream 63 { c.stream 63 with ackDue := true }
     (t.stream 63).ackDue = true ∧ t.rdgOn = true) ∧
    ({ w with rdg.requests := [⟨0x10000000, 3, 1, false⟩] }.rdg.requests = [⟨0x10000000, 3, 1, false⟩]) ∧
    w.tunnelReady 0 = false ∧
    (let t := { c with rdg.ctx := [(1, ⟨some { l with done := some (0, 5) }, [], none, 1⟩)], ce.tasks := c.ce.tasks.set 7 { c.ce.task 7 with waiting := some (.load 1 0 2 8) } }
     t.bestCyclic = none ∧ (t.ce.task 8).ready = false ∧ (t.ce.task 7).waiting = some (.load 1 0 2 8) ∧
     ((t.bctx 1).load.bind (·.done)) = some (0, 5)) ∧
    (let t := { running 7 (ctx 0) with rdg.farPending := true }
     t.rdg.farPending = true ∧ t.ce.cur = some 7 ∧ t.bridgeWaits = false) := by decide +kernel

/-- Where one context loads, no other does. -/
theorem witness_RidgeStreams_others (l : BridgeLoad) (m : Nat) (h : m ≠ 63) :
    ({ summit with rdg.ctx := [(63, ⟨some l, [], none, 1⟩)] }.bctx m).load = none := by
  have h' : ¬ 63 = m := fun x => h x.symm
  simp [State.bctx, sgetD, sget, h', BridgeCtx.zero]

theorem witness_PairJoin :
    let s := (loaded.setFld Reg.COL_CTRL_ENABLE 1).setFld (laneBit true) 1
    let a := s.setFld Reg.SYS_MODE_PAIR 1
    let v := a.setColState colServing
    s.mode ≠ .selftest ∧ s.mode ≠ .recovery ∧ s.colState < colSyncActive ∧ s.colUp = true ∧ s.colLane = true ∧
    s.fiActs linkCol2 false = false ∧ s.cmd.longOp = none ∧ s.col.partner = none ∧ (s.setColState colSeeking).colState = colSeeking ∧
    a.pairRole = 1 ∧ a.mode.serves = true ∧ a.colInjected = none ∧ a.colState ≠ colServing ∧ a.epoch < 65536 ∧
    { s with mode := .joining }.mode = .joining ∧ leAt ([0, 0] : List Byte) 0 2 = 0 ∧ v.colState = colServing ∧ v.round = 0 ∧
    (let t := v.setFld Reg.COL_STAT_ROUND 1
     1 ≤ t.round ∧ t.col.dirty.length ≤ t.deltaPages ∧ t.bestCyclic = none ∧ (t.ce.task 7).waiting = none ∧
     t.ce.switchNow = false ∧ t.ce.store = []) ∧
    v.col.joinSince + v.joinTimeout * 1000000000 ≤ (v.setFld Reg.SYS_OPSEC 60).opNs ∧
    (helloOf ⟨1, false, 0, 0, 0, []⟩).active = false ∧ v.mode ≠ .joining := by decide +kernel

theorem witness_PairInStep :
    let s := (loaded.setFld Reg.COL_CTRL_ENABLE 1).setFld (laneBit true) 1
    let b := { (s.setColState colSyncStandby) with mode := .standby, col.ahead := [⟨6, true, 5, 0, 0, []⟩] }
    let c := { s.setColState colSyncActive with col.swapAt := some 0 }
    let m : List Byte := List.replicate 24 0
    b.inStream = true ∧ b.col.rejoinDue = false ∧ b.colState = colSyncStandby ∧ b.cmd.forwarded = [] ∧ b.cv.degradeDue = false ∧
    { b with cv.degradeDue := true }.cv.degradeDue = true ∧ { b with col.rejoinDue := true }.col.rejoinDue = true ∧
    b.mode = .standby ∧ b.col.ahead ≠ [] ∧ b.epoch = 0 ∧ b.col.groups = [] ∧ leAt m 16 4 = 0 ∧
    b.col.groups.length ≠ leAt (List.replicate 16 0 ++ [1] : List Byte) 16 4 ∧
    s.fld (laneBit true) = 1 ∧ (s.setFld (laneBit false) 1).fld (laneBit (!true)) = 1 ∧ s.fld Reg.COL_CTRL_ENABLE = 1 ∧
    loaded.fld (laneBit false) = 0 ∧ loaded.fld (laneBit true) = 0 ∧
    (s.setColState colServing).colState = colServing ∧ c.colState = colSyncActive ∧ c.cmd.forwarded = [] ∧
    b.sup.modeWait = none ∧ b.col.own = [] ∧ c.col.swapAt = some (c.time.tick % 2 ^ 32) ∧ c.cmd.longOp = none ∧ c.mode = .run ∧
    { b with col.swapAt := some 0 }.col.swapAt = some (b.time.tick % 2 ^ 32) := by decide +kernel

/-! ### Cairn, Trig, fault injection -/

theorem witness_CairnRecords :
    let r : Report := ⟨.d, .warn, 0x0101, 0, false, false, 0, 5, [1]⟩
    let s : State := { loaded with cairn.intake := [(3, [r])] }
    let t := s.takeRecord r
    s.cairn.intake.find? (fun e => !e.2.isEmpty) = some (3, [r]) ∧ (s.cairnOf .d).openRec = none ∧
    (s.cairnOf .d).stored.length < RecClass.d.capacity ∧
    ((t.cairnOf .d).openRec.map (fun o => o.merges r && decide (o.rep < 0xFFFF))) = some true ∧
    { loaded with cairn.dropped := [(3, 2)] }.cairn.dropped = [(3, 2)] ∧ (sgetD [] s.cairn.intake 14).length < 256 ∧
    s.refreshable 4 = true ∧ s.refreshable 5 = false ∧ { loaded with cairn.dueNow := [4] }.refreshDue 4 = true := by decide +kernel

/-- Trig that measures on voltage input 1 and current input 3. -/
def measuring : State := { loaded with trig.running := true, trig.params := [0, 0, 0, 0, 0, 1, 0] }

theorem witness_TrigMeasurement :
    let s := measuring
    let q := { s with trig.period := ⟨0, 10, true, 0, 0⟩, trig.sec := ⟨7999, 0, 0, 0⟩ }
    q.trig.running = true ∧ q.trig.sec.n < 8000 ∧ q.trig.periodDue = false ∧ q.trig.windowDue = false ∧ q.trig.uInput 1 = 1 ∧
    q.trig.iInput 1 = 3 ∧ clip 44040192 = 44040192 ∧ clip (clipLimit + 1) = clipLimit ∧
    { s with trig.winN := 8000, trig.crossed := true }.trig.windowDue = true ∧ s.trig.used 1 = true ∧ s.trig.used 2 = false ∧
    (s.trig.energy 1 s.trig.win1).1 = false ∧ 8000 ≤ { s with trig.sec := ⟨8000, 0, 0, 0⟩ }.trig.sec.n ∧
    (let v := { s with trig.sysNew := s.trig.classify, trig.sysCount := 2, trig.system := s.trig.classify + 1 }
     v.trig.classify ≠ v.trig.system ∧ v.trig.classify = v.trig.sysNew) ∧
    { s with trig.ending := some 0 }.trig.periodDue = true ∧ s.trig.winN = 0 ∧ s.trig.hasRoom = true ∧
    { s with trig.sealOpen := true }.trig.sealOpen = true ∧ s.trig.sealOpen = false := by decide +kernel

/-- A log without room for a record. -/
theorem witness_TrigMeasurement_full : ∃ t : Trig, t.hasRoom = false := by
  refine ⟨{ measuring.trig with log := (0, []) :: List.replicate logCapacity (0, []), acked := 0 }, ?_⟩
  simp only [Trig.hasRoom, logCapacity, List.length_cons, List.length_replicate]
  simp
  omega

theorem witness_TrigMailbox :
    let s := { measuring with time.utcValid := true }
    let r : Req := ⟨6, 0, false, 0, 1, 1, false, [], []⟩
    let b := r.packet 0x0B00
    mailPayload 0x01 (mailMessage 0x01 (leBytes 8 9 ++ [3, 0, 0, 0])) = some (leBytes 8 9 ++ [3, 0, 0, 0]) ∧
    (leBytes 8 9 ++ [3, 0, 0, 0] : List Byte).length = 12 ∧ fieldAt (leBytes 8 9 ++ [3, 0, 0, 0]) 8 1 = 3 ∧
    mailPayload 0x01 (mailMessage 0x01 [1]) = some [1] ∧
    mailPayload 0x02 (mailMessage 0x02 (leBytes 4 900000000 ++ leBytes 4 1800000000)) =
      some (leBytes 4 900000000 ++ leBytes 4 1800000000) ∧
    (BitVec.ofNat 32 900000000).toInt.natAbs ≤ 900000000 ∧ 900000000 < (BitVec.ofNat 32 900000001).toInt.natAbs ∧
    mailPayload 0x03 (mailMessage 0x03 b) = some b ∧ headerFault b = none ∧ s.cmd.forwarded = [] ∧
    (([(0x0B00, r)] : List (Nat × Req)).find? (fun e => e.1 == fieldAt b 4 2 && e.2.target == 1 &&
      e.2.tag == (reqOf 0 0 false b).tag && e.2.session == (reqOf 0 0 false b).session)) = some (0x0B00, r) ∧
    (match framing 6 0 false b with | .passed op _ => op == 0x0B00 | _ => false) = true ∧
    s.trig.running = true ∧ s.ringOn 28 = false ∧ bitAt (s.cfg 0x16 0x00 4) 31 = 0 ∧ bitAt (s.cfg 0x16 0x04 4) 31 = 0 ∧ s.time.utcValid = true ∧
    (let t := { s with trig.running := false, sup.powered := true }
     t.trig.startBank = some t.trig.active1 ∧ t.trig.inbox = []) := by decide +kernel

theorem witness_FaultInjection :
    let s := ((loaded.setFld (Reg.FI_CFG_ARMED 47) 1).setFld (Reg.FI_CFG_DIR 47) 3).setFld (Reg.FI_NPAR 47) 1
    let d := s.setFld (Reg.FI_CFG_KIND 47) 4
    let h : Held := ⟨false, ⟨[1], true⟩, 1, true⟩
    loaded.fiActs 47 true = false ∧ s.fiActs 47 true = true ∧ s.fld (Reg.FI_CFG_SELECT 47) = 0 ∧
    (sgetD 0 s.fi.seen 47 + 1) % (s.fld (Reg.FI_NPAR 47)).toNat = 0 ∧
    (sgetD 0 s.fi.seen 47 + 1) % ((s.setFld (Reg.FI_NPAR 47) 2).fld (Reg.FI_NPAR 47)).toNat ≠ 0 ∧
    (s.setFld (Reg.FI_CFG_KIND 47) 1).fld (Reg.FI_CFG_KIND 47) = 1 ∧ (s.setFld (Reg.FI_CFG_KIND 47) 2).fld (Reg.FI_CFG_KIND 47) = 2 ∧
    bitsAt (s.fld (Reg.FI_APAR 47)).toNat 0 12 = 0 ∧ bitAt (s.fld (Reg.FI_APAR 47)).toNat 15 = 0 ∧
    bitAt ((s.setFld (Reg.FI_APAR 47) 0x8000).fld (Reg.FI_APAR 47)).toNat 15 = 1 ∧ s.linkChecked 47 = true ∧ d.fld (Reg.FI_CFG_KIND 47) = 4 ∧
    (sgetD [] d.fi.held 47).length < 16 ∧ { d with fi.held := [(47, List.replicate 16 h)] }.fiActs 47 true = true ∧
    (sgetD [] ([(47, List.replicate 16 h)] : Sparse (List Held)) 47).length = 16 ∧ s.fiArmed 47 = true ∧
    sgetD [] { d with fi.held := [(47, [h])] }.fi.held 47 = [h] ∧ d.fi.released = [] ∧
    { loaded with fi.permitEnd := some 0 }.fi.permitEnd = some 0 ∧ 0 ≤ loaded.opNs ∧ loaded.mode = .run := by decide +kernel

/-! ### Well-formed commands: an ill-formed term for each check -/

/-- A request as `wf` wants it. -/
def plain : Req := ⟨6, 0, false, 0, 0, 0, false, [], []⟩

theorem test_wf_request : (Instr.nopCmd plain).wf = true ∧ (Instr.nopCmd { plain with transport := 7 }).wf = false ∧
    (Instr.ident { plain with auth := true }).wf = false ∧ (Instr.ident { plain with mac := [0] }).wf = false ∧
    (Instr.regRead { plain with payload := List.replicate 4065 0 }).wf = false ∧
    (Instr.regRead { plain with payload := List.replicate 4064 0 }).wf = true ∧ (Instr.packetForward 0x10000 plain).wf = false ∧
    (Instr.packetReject 7 0 false []).wf = false := by decide +kernel

theorem test_wf_numbers : (Instr.outputOverload 0).wf = false ∧ (Instr.outputOverload 65).wf = false ∧
    (Instr.resume .packet 32).wf = false ∧ (Instr.compatWrite .packet 0x16 0).wf = false ∧
    (Instr.registerWrite .packet 0x1000 0 0).wf = false ∧ (Instr.registerWrite .packet 0 0x1000 0).wf = false ∧
    (Instr.registerWrite .packet 0 2 0).wf = false ∧ (Instr.ppsInEdge 250000).wf = false ∧ (Instr.ringDescriptorProcess 32 0).wf = false ∧
    (Instr.ringDescriptorProcess 0 65536).wf = false ∧
    (Instr.wtbInauguration ⟨128, [], false, false, false, 0⟩).wf = false ∧
    (Instr.canFrameReceive 1 ⟨0, false, true, false, 15, false, false, List.replicate 65 0⟩ true).wf = false ∧
    (Instr.completion ⟨⟨true, ⟨6, 0, 1, 0, 0, false, 0, 0, false, false, []⟩, true⟩, [8]⟩).wf = false ∧ (Instr.flashRefresh 7 true).wf = false ∧
    (Instr.fieldScan ⟨0, [], [], [], [], false⟩).wf = false ∧ (Instr.time (List.replicate 4097 0)).wf = false ∧
    (Instr.ackDelay 64).wf = false ∧ (Instr.retryBackoff 64).wf = false := by decide +kernel

end Sys2Proof.Tests
end

section
/-! SUPPORT. Cycle Code instructions of spec/05_cycle_code_reference.md: how an operation that traps or reaches the end of
its slot settles, single bits of words, and then the accumulator, binary32, system and edge instructions. -/
namespace Sys2Proof.Machine

/-! ### How an operation settles (R113, R120) -/

/-- Of an operation that traps, the trap and its clocks are all that remains (R120). -/
theorem settle_trap (s : State) (w : Who) (c : Ctx) (t : TrapCode) (n : Nat) :
    settle w c.pc (.trap t n s) = s.traps w c t n := rfl

/-- An operation whose next index lies outside the slot retires, and then takes BUS (R113). -/
theorem settle_done_beyond {s : State} {w : Who} {i n : Nat} {c : Ctx} (h : 0x200000 ≤ c.pc) :
    settle w i (.done c n s) = ((s.withRegs w n c).trap w .bus i).dispatch := by
  simp only [settle, addClocks_ctx, if_pos h]

/-- An operation that goes on to the next index, inside the slot, retires. -/
theorem settle_next {s : State} {w : Who} {i n : Nat} {c d : Ctx} (hp : c.pc < 0x1FFFFF) (hd : d.pc = c.pc) :
    settle w i (.done d.next n s) = s.withRegs w n (d.step d.flags) :=
  settle_done (by simp only [Ctx.next, hd]; omega)

/-- A register instruction inside the slot is answered with its registers at the next index (R127). -/
theorem answer_execReg {s : State} {v : Vote} {k : Ctx → Recs} {w : Who} {c : Ctx} (h : s.issues v k w c)
    (hp : c.pc < 0x1FFFFF) (n : Nat) (f : Ctx → Ctx) (hf : (f c).pc = c.pc) :
    (.next (s.execReg v k n f) : Out) = .next ((s.issueAt v k c).1.withRegs w n ((f c).step (f c).flags)) :=
  congrArg Host.Outcome.next (execReg_of_issues h hp n f hf)

/-! ### Single bits of words (R97) -/

theorem b2w_bit (b : Bool) (i : Nat) : (b2w b).getLsbD i = (decide (i = 0) && b) := by
  cases b
  · simp [b2w]
  · simp [b2w, BitVec.getLsbD_one]

theorem bit0_bit (x : Word) (i : Nat) : (bit0 x).getLsbD i = (decide (i = 0) && x.getLsbD 0) := by
  by_cases hi : i = 0 <;> simp [bit0, BitVec.getLsbD_one, hi]

/-- A slice changes the bits that SM selects. -/
theorem sliceInto_bit (c : Ctx) (x : Word) {i : Nat} (hi : i < 32) :
    (sliceInto c x).getLsbD i = if c.sm.getLsbD i then x.getLsbD i else c.ba.getLsbD i := by
  simp only [sliceInto, BitVec.getLsbD_or, BitVec.getLsbD_and, BitVec.getLsbD_not, hi, decide_true, Bool.true_and]
  cases c.sm.getLsbD i <;> simp

/-! ### Accumulator and stack instructions (R136, R137, R138) -/

section Accumulator
variable {s : State} {v : Vote} {w : Who} {c : Ctx}

theorem exec_push_reserved (h : s.issues v recReg w c) {code : BitVec 4} (hk : combineOf code.toNat = none) :
    exec (.push v code) s = .next ((s.issueAt v recReg c).1.traps w c .illegal 1) := by
  change execPush v code s = _
  simp only [execPush, execCc_of_issues h, hk, settle_trap]

theorem exec_push_full (h : s.issues v recReg w c) {code : BitVec 4} {k : Combine} (hk : combineOf code.toNat = some k)
    (hn : 16 ≤ c.ns.length) :
    exec (.push v code) s = .next ((s.issueAt v recReg c).1.traps w c .nestOverflow 1) := by
  change execPush v code s = _
  simp only [execPush, execCc_of_issues h, hk, if_pos hn, settle_trap]

theorem exec_push (h : s.issues v recReg w c) (hp : c.pc < 0x1FFFFF) {code : BitVec 4} {k : Combine}
    (hk : combineOf code.toNat = some k) (hn : ¬ 16 ≤ c.ns.length) :
    exec (.push v code) s =
      .next ((s.issueAt v recReg c).1.withRegs w 1 ({ c with ns := (c.ba, k) :: c.ns }.step c.flags)) := by
  change execPush v code s = _
  simp only [execPush, execCc_of_issues h, hk, if_neg hn]
  exact congrArg Host.Outcome.next (settle_next hp rfl)

theorem popOp_empty (h : s.issues v recReg w c) (hn : c.ns = []) (sliced : Bool) :
    s.popOp v sliced = (s.issueAt v recReg c).1.traps w c .nestOverflow 1 := by
  simp only [State.popOp, execCc_of_issues h, hn, settle_trap]

theorem popOp_cons (h : s.issues v recReg w c) (hp : c.pc < 0x1FFFFF) {x : Word} {k : Combine} {r : List (Word × Combine)}
    (hn : c.ns = (x, k) :: r) (sliced : Bool) :
    s.popOp v sliced = (s.issueAt v recReg c).1.withRegs w 1 ({ c with
      ns := r, ba := if sliced then sliceInto c (k.apply x c.ba) else bit0 (k.apply x c.ba) }.step c.flags) := by
  simp only [State.popOp, execCc_of_issues h, hn]
  exact settle_next hp rfl

/-- The word that BSPLAT leaves in BA. -/
def splatWord (c : Ctx) : Word := (sliceInto c (if c.ba.getLsbD 0 then 0xFFFFFFFF else 0) &&& 0xFFFFFFFE) ||| bit0 c.ba

/-- BSPLAT copies bit 0 to the other bits that SM selects. -/
theorem splatWord_bit (c : Ctx) {i : Nat} (hi : i < 32) : (splatWord c).getLsbD i =
    if i ≠ 0 ∧ c.sm.getLsbD i then c.ba.getLsbD 0 else c.ba.getLsbD i := by
  have high : (0xFFFFFFFE : Word).getLsbD i = decide (i ≠ 0) := by revert hi; revert i; decide
  have ones : (if c.ba.getLsbD 0 then 0xFFFFFFFF else 0 : Word).getLsbD i = c.ba.getLsbD 0 := by
    cases c.ba.getLsbD 0
    · simp
    · exact BitVec.getLsbD_allOnes.trans (decide_eq_true hi)
  simp only [splatWord, BitVec.getLsbD_or, BitVec.getLsbD_and, sliceInto_bit c _ hi, ones, high, bit0_bit]
  by_cases h0 : i = 0 <;> simp [h0]

end Accumulator

/-- Settles O10: PUSH, POP and POPS settle as traps or with the stack changed, and every other instruction only changes
registers. -/
theorem accumulatorAndStack : Obligations.AccumulatorAndStack := by
  intro s v w c h hp t gives ba
  have reg : ∀ f : Ctx → Ctx, (f c).pc = c.pc → (f c).flags = c.flags →
      (.next (s.execReg v recReg 1 f) : Out) = gives (f c) :=
    fun f hpc hfl => (answer_execReg h hp 1 f hpc).trans (by rw [hfl])
  refine ⟨fun code => ?push, fun hn => ⟨?popEmpty, ?popsEmpty⟩, fun x k r hn => ⟨?pop, ?pops⟩, reg _ rfl rfl, reg _ rfl rfl,
    reg _ rfl rfl, reg _ rfl rfl, ?bany, ?ball, fun d => ⟨reg _ rfl rfl, reg _ rfl rfl, reg _ rfl rfl⟩,
    fun a => ⟨reg _ rfl rfl, reg _ rfl rfl⟩, splatWord c, reg _ rfl rfl, fun i hi => splatWord_bit c hi⟩
  case push =>
    cases hk : combineOf code.toNat with
    | none => exact exec_push_reserved h hk
    | some k =>
      by_cases hn : 16 ≤ c.ns.length
      · exact (exec_push_full h hk hn).trans (if_pos hn).symm
      · exact (exec_push h hp hk hn).trans (if_neg hn).symm
  case popEmpty => exact congrArg Host.Outcome.next (popOp_empty h hn false)
  case popsEmpty => exact congrArg Host.Outcome.next (popOp_empty h hn true)
  case pop => exact congrArg Host.Outcome.next (popOp_cons h hp hn false)
  case pops => exact congrArg Host.Outcome.next (popOp_cons h hp hn true)
  case bany =>
    have hb : b2w (decide (c.ba &&& c.sm ≠ 0)) = if c.ba &&& c.sm = 0 then 0 else 1 := by simp [b2w]
    exact (reg (fun c => { c with ba := b2w (decide (c.ba &&& c.sm ≠ 0)) }) rfl rfl).trans (by rw [hb])
  case ball =>
    have hb : b2w (decide (c.ba &&& c.sm = c.sm)) = if c.ba &&& c.sm = c.sm then 1 else 0 := by simp [b2w]
    exact (reg (fun c => { c with ba := b2w (decide (c.ba &&& c.sm = c.sm)) }) rfl rfl).trans (by rw [hb])

/-! ### Binary32 instructions (R147, R151, R152) -/

/-- A word without its sign bit is zero where it is one of the two zeros. -/
theorem magnitude_eq_zero (x : Word) : ((x &&& 0x7FFFFFFF) == 0) = (x == 0 || x == 0x80000000) := by
  have hm : (x &&& 0x7FFFFFFF).toNat = x.toNat % 2 ^ 31 := by
    rw [BitVec.toNat_and]; exact Nat.and_two_pow_sub_one_eq_mod x.toNat 31
  rw [Bool.eq_iff_iff]
  simp only [Bool.or_eq_true, beq_iff_eq, ← BitVec.toNat_inj, hm]
  change x.toNat % 2 ^ 31 = 0 ↔ x.toNat = 0 ∨ x.toNat = 2 ^ 31
  have := x.isLt
  omega

/-- Flag code F (R151). -/
theorem flags_float (f : Flags) (r : FpRes) : f.float r =
    { f with z := !fpIsNaN r.1 && (r.1 == 0 || r.1 == 0x80000000), n := !fpIsNaN r.1 && r.1.getLsbD 31,
             fe := f.fe || r.2 } := by
  simp only [Flags.float, Flags.orFe, magnitude_eq_zero]

theorem flags_floatToInt (f : Flags) (r : FpRes) : f.floatToInt r = { f.byResult r.1 with fe := f.fe || r.2 } := by
  simp only [Flags.floatToInt, setZN_byResult, Flags.orFe, Flags.byResult]

/-- An unordered comparison sets V and OV (R152). -/
theorem flags_fcmp_unordered (f : Flags) (sn : Bool) :
    f.fcmp (.unordered sn) = ⟨false, false, false, true, true, f.fe || sn⟩ := by
  simp only [Flags.fcmp, Flags.setV, Flags.orFe, Bool.or_true]

/-- Settles O9: flag code F for the results in WA, the integer's flags for FFTOI and FFTOIR, and FCMP case by case. -/
theorem binary32 : Obligations.Binary32 := by
  intro s v w c k ra h hp t g nan gives int
  refine ⟨?_, ?_⟩
  · rintro rfl
    have float : ∀ (n : Nat) (f : Ctx → FpRes), (.next (s.floatOp v n f) : Out) = gives n (f c) := fun n f =>
      (answer_execReg h hp n (fun c => { c with wa := (f c).1, flags := c.flags.float (f c) }) rfl).trans
        (by simp only [flags_float]; rfl)
    have toInt : ∀ f : Ctx → FpRes, (.next (s.execReg v recRegFlags 3 (fun c =>
        { c with wa := (f c).1, flags := c.flags.floatToInt (f c) })) : Out) = int (f c) := fun f =>
      (answer_execReg h hp 3 _ rfl).trans (by simp only [flags_floatToInt]; rfl)
    exact ⟨float 3 (fun c => fpAdd c.wa (c.get ra)), float 3 (fun c => fpSub c.wa (c.get ra)),
      float 3 (fun c => fpMul c.wa (c.get ra)), float 16 (fun c => fpDiv c.wa (c.get ra)), float 20 (fun c => fpSqrt c.wa),
      float 3 (fun c => (fpOfInt c.wa.toInt, false)), float 3 (fun c => (fpOfInt c.wa.toNat, false)),
      toInt (fun c => fpToInt false c.wa), toInt (fun c => fpToInt true c.wa)⟩
  · rintro rfl
    have fcmp : exec (.fcmp v ra) s = .next (t.withRegs w 1 (c.step (c.flags.fcmp (fpCompare c.wa g)))) :=
      answer_execReg h hp 1 _ rfl
    rw [fcmp]
    cases fpCompare c.wa g with
    | eq | lt | gt => rfl
    | unordered sn =>
      exact congrArg (fun f => Host.Outcome.next (t.withRegs w 1 (c.step f))) (flags_fcmp_unordered c.flags sn)

/-! ### System instructions and the last index of a slot (R101, R113, R160, R161) -/

/-- MOV at the last index of a slot writes its register, and then takes BUS at that index (R113). -/
theorem exec_mov_last {s : State} {v : Vote} {w : Who} {c : Ctx} (h : s.issues v recReg w c) (hp : c.pc = 0x1FFFFF)
    (d a : BitVec 4) : exec (.mov v d a) s = .next ((((s.issueAt v recReg c).1.withRegs w 1
      ((c.set d (c.get a)).step c.flags)).trap w .bus c.pc).dispatch) := by
  have hpc : 0x200000 ≤ (c.set d (c.get a)).next.pc := by simp only [Ctx.next, Ctx.set, hp]; decide
  change Host.Outcome.next (s.execReg v recReg 1 (fun c => c.set d (c.get a))) = _
  rw [State.execReg, execCc_of_issues h, settle_done_beyond hpc]
  rfl

/-- Settles O12: ILLEGAL settles as its trap, the others only change registers, and MOV at the last index traps after it has
retired. -/
theorem systemAndLastIndex : Obligations.SystemAndLastIndex := by
  refine ⟨fun s v w c k h => ⟨?illegal, fun hp => ⟨?nop, ?clrf, ?mff, ?mtf⟩⟩, fun s v w c d a h hp => exec_mov_last h hp d a⟩
  case illegal =>
    rintro rfl
    exact congrArg Host.Outcome.next ((execCc_of_issues h _).trans (settle_trap _ w c .illegal 1))
  case nop =>
    rintro rfl
    exact answer_execReg h hp 1 id rfl
  case clrf =>
    rintro rfl
    exact answer_execReg h hp 1 _ rfl
  case mff =>
    rintro rfl d
    rw [← flags_word]
    exact answer_execReg h hp 1 (fun c => c.set d c.flags.word) rfl
  case mtf =>
    rintro rfl a
    exact answer_execReg h hp 1 _ rfl

/-! ### BEDGE (R72, R97, R135) -/

/-- The signals that BEDGE acts on, by their place in the slice: those SM selects, or the signal alone. -/
def places (c : Ctx) (sl : Bool) : List Nat := if sl then (List.range 32).filter (selected c) else [0]

theorem mem_places {c : Ctx} {sl : Bool} {i : Nat} (h : i ∈ places c sl) : i < 32 ∧ (sl = false → i = 0) := by
  cases sl
  · simp only [places, Bool.false_eq_true, if_false, List.mem_singleton] at h
    exact ⟨by omega, fun _ => h⟩
  · simp only [places, if_true, List.mem_filter, List.mem_range] at h
    exact ⟨h.1, nofun⟩

/-- The words of Image RAM that BEDGE reads. -/
def edgeReads (id : Nat) : List Nat := [(bitLoc id).1, (edgeLoc id).1]

/-- The signals of a slice group lie in one word of the bit plane, and in one of the edge plane. -/
theorem words_of_place {c : Ctx} {sl : Bool} {id i : Nat} (hal : sl = true → id % 32 = 0) (hi : i ∈ places c sl) :
    (bitLoc (id + i)).1 = (bitLoc id).1 ∧ (edgeLoc (id + i)).1 = (edgeLoc id).1 := by
  obtain ⟨h32, h0⟩ := mem_places hi
  have hdiv : (id + i) / 64 = id / 64 := by
    cases sl
    · rw [h0 rfl]; rfl
    · have := hal rfl; omega
  simp only [bitLoc, edgeLoc, hdiv, and_self]

/-- The patch that copies the signals' own bits to their edge bits. -/
def edgePatch (b : Nat → Bool) (id : Nat) (l : List Nat) : Patch :=
  l.foldl (fun (p : Patch) i => p.add (edgeLoc (id + i)) 1 (b2n (b i))) []

theorem edgePatch_congr {b b' : Nat → Bool} {l : List Nat} (id : Nat) (h : ∀ i ∈ l, b i = b' i) :
    edgePatch b id l = edgePatch b' id l :=
  List.foldl_ext _ _ _ fun _ i hi => by rw [h i hi]

/-- What BEDGE leaves in BA, from the edges `r` of the signals. -/
def edgeWord (c : Ctx) (sl : Bool) (r : Nat → Bool) : Word := if sl then sliceInto c (fromBits r) else b2w (r 0)

theorem edgeWord_bit (c : Ctx) (sl : Bool) (r : Nat → Bool) {i : Nat} (hi : i < 32) : (edgeWord c sl r).getLsbD i =
    if sl then (if c.sm.getLsbD i then r i else c.ba.getLsbD i) else decide (i = 0) && r 0 := by
  cases sl
  · exact b2w_bit _ _
  · simp only [edgeWord, if_true, sliceInto_bit c _ hi, fromBits_bit r hi]

/-- The bits of BA depend on the edges of the signals that BEDGE acts on alone. -/
theorem edgeWord_bit_of_places {c : Ctx} {sl : Bool} {r r' : Nat → Bool} (h : ∀ i ∈ places c sl, r i = r' i)
    {i : Nat} (hi : i < 32) : (edgeWord c sl r).getLsbD i =
      if sl then (if c.sm.getLsbD i then r' i else c.ba.getLsbD i) else decide (i = 0) && r' 0 := by
  rw [edgeWord_bit c sl r hi]
  cases sl with
  | false => simp only [Bool.false_eq_true, if_false, h 0 (by simp [places])]
  | true =>
    cases hs : c.sm.getLsbD i with
    | false => rfl
    | true => simp only [if_true, h i (by simp [places, selected, hi, hs])]

/-- The words that BEDGE reads hold the bit and the edge bit of every signal that it acts on. -/
theorem read_place {t : State} {c : Ctx} {sl : Bool} {d : Sparse DWord} {id i : Nat}
    (hd : ∀ x ∈ edgeReads id, wordOf d x = corrected x (t.mem.code .img x))
    (hal : sl = true → id % 32 = 0) (hi : i ∈ places c sl) :
    bitp d (id + i) = t.imgBit (bitLoc (id + i)) ∧ edgeBit d (id + i) = t.imgBit (edgeLoc (id + i)) := by
  obtain ⟨hb, he⟩ := words_of_place hal hi
  constructor
  · rw [bitp, State.imgBit, hd _ (by simp [edgeReads, hb])]
  · rw [edgeBit, State.imgBit, hd _ (by simp [edgeReads, he])]

/-- The registers after BEDGE has compared the signals from `id` on, in the words `d`. -/
def edgeRegs (c : Ctx) (o : SbOp) (d : Sparse DWord) (id : Nat) : Ctx :=
  { c with ba := edgeWord c o.sl (fun i =>
      edgeOf o.sub.toNat (bitp d (id + i) != o.neg) (edgeBit d (id + i) != o.neg)) }

/-- BEDGE past its traps, from the words `d` that it reads (R135). -/
theorem exec_bedge {s t : State} {v : Vote} {w : Who} {c : Ctx} (o : SbOp) {id : Nat} (h : s.issues v recRegStore w c)
    (ht : (s.issueAt v recRegStore c).1 = t) (he : effId c o.ix o.sid = id) (hp : c.pc < 0x1FFFFF) (hw : w.val < 7)
    (hsub : o.sub.toNat ≤ 2) (hid : id ≤ 0x3FFFF) (hal : o.sl = true → id % 32 = 0 ∧ id / 32 ∉ t.ce.sliceMap)
    (hr : t.imgReadable w (edgeReads id)) :
    ∃ d : Sparse DWord, (∀ x ∈ edgeReads id, wordOf d x = corrected x (t.mem.code .img x)) ∧
      ((t.imgRead (edgeReads id)).imgWritable w
          (edgePatch (fun i => bitp d (id + i)) id (places c o.sl)) →
        exec (.bedge v o) s = .next (((t.imgRead (edgeReads id)).imgWrite
            (edgePatch (fun i => bitp d (id + i)) id (places c o.sl))).withRegs w 1
          ((edgeRegs c o d id).step c.flags))) := by
  have htrap : t.sigTrap w c (decide (o.sub.toNat ≤ 2)) o.sl false id = none :=
    sigTrap_none (decide_eq_true hsub) hw hid hal nofun
  obtain ⟨d, hread, hd⟩ := readImg_ok hr 1 (fun d s => s.storeSig w (edgeRegs c o d id)
    (edgePatch (fun i => bitp d (id + i)) id (places c o.sl)))
  refine ⟨d, hd, fun hwrite => congrArg Host.Outcome.next ?_⟩
  rw [execCc_of_issues h]
  simp only [he, ht, htrap]
  refine (congrArg (settle w c.pc) hread).trans ?_
  simp only [storeSig_ok hwrite]
  exact settle_next hp rfl

/-- Under NEG both values are inverted, and that they differ stays (R135). -/
theorem edgeOf_any (x e neg : Bool) : edgeOf 2 (x != neg) (e != neg) = (x != e) := by
  revert x e neg; decide

/-- Settles O16: the words BEDGE reads hold the bits of its signals, which its patch and its edges are made of. -/
theorem edgeDetection : Obligations.EdgeDetection := by
  intro s v w c sub ix sid sl neg h hp hw hsub t id ws x e _ p hit hid hal hr hwrite
  have hedge : ∀ i, edgeOf sub.toNat (x i != neg) (e i != neg) = hit i := by
    obtain rfl | rfl | rfl : sub = 0 ∨ sub = 1 ∨ sub = 2 := by revert hsub; revert sub; decide
    · exact fun i => rfl
    · exact fun i => rfl
    · exact fun i => edgeOf_any (x i) (e i) neg
  obtain ⟨d, hd, hexec⟩ := exec_bedge ⟨sl, neg, sub, ix, sid⟩ h rfl rfl hp hw hsub hid hal hr
  have hread : ∀ i ∈ places c sl, bitp d (id + i) = x i ∧ edgeBit d (id + i) = e i :=
    fun i hi => read_place hd (fun hs => (hal hs).1) hi
  have hpatch : edgePatch (fun i => bitp d (id + i)) id (places c sl) = p :=
    edgePatch_congr id fun i hi => (hread i hi).1
  rw [hpatch] at hexec
  refine ⟨_, hexec hwrite, fun i hi => edgeWord_bit_of_places (fun j hj => ?_) hi⟩
  obtain ⟨hb, he⟩ := hread j hj
  exact (congrArg₂ (fun b e => edgeOf sub.toNat (b != neg) (e != neg)) hb he).trans (hedge j)

end Sys2Proof.Machine
end

