-- ==== Sys2Proof/Proofs/Decode.lean ====
section
-- In order, not in parallel: each parallel thread reserves its whole stack of the check's memory.
set_option Elab.async false
/-! SUPPORT. The two directions of the instruction encoding (R100 to R102). -/
namespace Sys2Proof

/-! ### A word is what its fields spell, by format (R100) -/

/-- A bit is a field of width one. -/
theorem ofBool_bit (w : Word) (i : Nat) : BitVec.ofBool (w.getLsbD i) = w.extractLsb' i 1 := by
  ext j hj
  obtain rfl : j = 0 := by omega
  simp

section Fields
variable {w : Word} {op : BitVec 6} (hop : w.op.toNat = op.toNat)
include hop

theorem packI_of_fields : packI op w.f22 w.f18 w.lo18 = w := by
  rw [← BitVec.eq_of_toNat_eq hop]
  simp only [packI, Word.op, Word.f22, Word.f18, Word.lo18, BitVec.extractLsb'_append_extractLsb'_eq_extractLsb']
  exact extract_self w

theorem packU_of_fields : packU op w.f22 w.lo22 = w := by
  rw [← BitVec.eq_of_toNat_eq hop]
  simp only [packU, Word.op, Word.f22, Word.lo22, BitVec.extractLsb'_append_extractLsb'_eq_extractLsb']
  exact extract_self w

theorem packC_of_fields : packC op w.lo26 = w := by
  rw [← BitVec.eq_of_toNat_eq hop]
  simp only [packC, Word.op, Word.lo26, BitVec.extractLsb'_append_extractLsb'_eq_extractLsb']
  exact extract_self w

theorem packL_of_fields (h : w.extractLsb' 16 6 = 0) : packL op w.f22 w.lo16 = w := by
  rw [← BitVec.eq_of_toNat_eq hop, packL, show (0#6) = w.extractLsb' 16 6 from h.symm]
  simp only [Word.op, Word.f22, Word.lo16, BitVec.extractLsb'_append_extractLsb'_eq_extractLsb']
  exact extract_self w

theorem packSb_of_fields : packSb op w.sb = w := by
  rw [← BitVec.eq_of_toNat_eq hop]
  simp only [packSb, Word.sb, ofBool_bit, Word.op, Word.f18, Word.lo18,
    BitVec.extractLsb'_append_extractLsb'_eq_extractLsb']
  exact extract_self w

/-- A word of format R is the word of its fields, those that its row reserves being zero. -/
theorem packR_of_fields {d a b : BitVec 4} (fn : BitVec 6) (hs : w.spare = 0) (hd : w.f22 = d) (ha : w.f18 = a)
    (hb : w.f14 = b) (hfn : w.fn.toNat = fn.toNat) : packR op d a b fn = w := by
  subst hd ha hb
  rw [← BitVec.eq_of_toNat_eq hop, ← BitVec.eq_of_toNat_eq hfn, packR, show (0#8) = w.spare from hs.symm]
  simp only [Word.op, Word.f22, Word.f18, Word.f14, Word.spare, Word.fn,
    BitVec.extractLsb'_append_extractLsb'_eq_extractLsb']
  exact extract_self w

end Fields

/-! ### Decoding and encoding -/

/-- Settles O4: the opcode and the function code select the row of the instruction, and its format's fields come back. -/
theorem decodeEncode : Obligations.DecodeEncode := by
  intro i w h
  unfold encodeCc at h
  split at h <;> simp only [Option.some.injEq, reduceCtorEq] at h <;> subst h
  all_goals exact ⟨_, by
    simp [decodeCc, decodeAcc, decodeInt, decodeFloat, decodeSys, Word.sw, Word.mem, Word.imm, Word.reg]; rfl⟩

section Families
variable {v : Machine.Vote} {w : Word} {i : Instr} (hi : i ≠ .illegal v)
include hi

theorem encode_decodeAcc (hop : w.op.toNat = 0x08) (h : decodeAcc v w = i) : encodeCc i = some w := by
  unfold decodeAcc at h
  dsimp only at h
  split at h
  · exact absurd h.symm hi
  next hz =>
  obtain ⟨hs, hb⟩ : w.spare = 0 ∧ w.f14 = 0 := by simpa using hz
  split at h
  case h_16 => exact absurd h.symm hi
  all_goals
    next hfn =>
    split at h
    · subst h
      exact congrArg some (packR_of_fields hop _ hs (by simp [*]) (by simp [*]) (by simp [*]) hfn)
    · exact absurd h.symm hi

theorem encode_decodeInt (hop : w.op.toNat = 0x18) (h : decodeInt v w = i) : encodeCc i = some w := by
  unfold decodeInt at h
  dsimp only at h
  split at h
  · exact absurd h.symm hi
  next hz =>
  obtain hs : w.spare = 0 := by simpa using hz
  split at h
  case h_18 => exact absurd h.symm hi
  case h_14 | h_15 | h_16 | h_17 =>
    next hfn =>
    split at h
    · subst h
      exact congrArg some (packR_of_fields hop _ hs (by simp [*]) (by simp [*]) (by simp [*]) hfn)
    · exact absurd h.symm hi
  all_goals
    next hfn =>
    subst h
    exact congrArg some (packR_of_fields hop _ hs rfl rfl rfl hfn)

theorem encode_decodeFloat (hop : w.op.toNat = 0x20) (h : decodeFloat v w = i) : encodeCc i = some w := by
  unfold decodeFloat at h
  dsimp only at h
  split at h
  · exact absurd h.symm hi
  next hz =>
  obtain ⟨hs, hb, hd⟩ : w.spare = 0 ∧ w.f14 = 0 ∧ w.f22 = 0 := by simpa using hz
  split at h
  case h_11 => exact absurd h.symm hi
  case h_5 | h_7 | h_8 | h_9 | h_10 =>
    next hfn =>
    split at h
    · next ha =>
      subst h
      exact congrArg some (packR_of_fields hop _ hs hd ha hb hfn)
    · exact absurd h.symm hi
  all_goals
    next hfn =>
    subst h
    exact congrArg some (packR_of_fields hop _ hs hd rfl hb hfn)

theorem encode_decodeSys (hop : w.op.toNat = 0x30) (h : decodeSys v w = i) : encodeCc i = some w := by
  unfold decodeSys at h
  dsimp only at h
  split at h
  · exact absurd h.symm hi
  next hz =>
  obtain ⟨hs, hb⟩ : w.spare = 0 ∧ w.f14 = 0 := by simpa using hz
  split at h
  case h_7 => exact absurd h.symm hi
  all_goals
    next hfn =>
    split at h
    · subst h
      exact congrArg some (packR_of_fields hop _ hs (by simp [*]) (by simp [*]) hb hfn)
    · exact absurd h.symm hi

end Families

/-- Settles O5: every row keeps all fields of the word, and refuses one whose reserved fields are not zero. -/
theorem encodeDecode : Obligations.EncodeDecode := by
  intro v w hi
  generalize h : decodeCc v w = i at hi ⊢
  unfold decodeCc at h
  split at h
  case h_1 | h_2 | h_3 | h_4 | h_5 | h_6 | h_7 =>
    next hop => subst h; exact congrArg some (packSb_of_fields hop)
  case h_8 => next hop => exact encode_decodeAcc hi hop h
  case h_16 => next hop => exact encode_decodeInt hi hop h
  case h_24 => next hop => exact encode_decodeFloat hi hop h
  case h_37 => next hop => exact encode_decodeSys hi hop h
  case h_38 => exact absurd h.symm hi
  case h_14 | h_15 | h_21 =>
    next hop =>
    split at h
    · next hz => subst h; exact congrArg some (hz ▸ packI_of_fields hop)
    · exact absurd h.symm hi
  case h_35 =>
    next hop =>
    split at h
    · next hz => subst h; exact congrArg some (packL_of_fields hop hz)
    · exact absurd h.symm hi
  case h_36 =>
    next hop =>
    split at h
    · next hz => subst h; exact congrArg some (hz ▸ packC_of_fields hop)
    · exact absurd h.symm hi
  case h_34 => next hop => subst h; exact congrArg some (packC_of_fields hop)
  case h_23 | h_33 => next hop => subst h; exact congrArg some (packU_of_fields hop)
  all_goals next hop => subst h; exact congrArg some (packI_of_fields hop)

end Sys2Proof
end

