-- ==== Sys2Proof/Proofs/Integer.lean ====
section
-- In order, not in parallel: each parallel thread reserves its whole stack of the check's memory.
set_option Elab.async false
/-! SUPPORT. Integer and control flow instructions of spec/05_cycle_code_reference.md (R113, R114, R145, R146, R157 to
R159). -/
namespace Sys2Proof.Machine

/-! ### Integer instructions (R144 to R146) -/

section Integer
variable {s : State} {v : Vote} {w : Who} {c : Ctx}

theorem answer_aluOp (h : s.issues v recRegFlags w c) (hp : c.pc < 0x1FFFFF) (n : Nat) (o : RegOp)
    {f : Word → Word → Flags → Word × Flags} {r : Word} {g : Flags} (hr : f (c.get o.ra) (c.get o.rb) c.flags = (r, g)) :
    (.next (s.aluOp v n o f) : Out) = .next ((s.issueAt v recRegFlags c).1.withRegs w n ((c.set o.rd r).step g)) :=
  (answer_execReg h hp n _ rfl).trans (by simp only [hr]; rfl)

theorem answer_immOp (h : s.issues v recRegFlags w c) (hp : c.pc < 0x1FFFFF) (o : ImmOp) {b : Word}
    {f : Word → Word → Flags → Word × Flags} {r : Word} {g : Flags} (hr : f (c.get o.ra) b c.flags = (r, g)) :
    (.next (s.immOp v o b f) : Out) = .next ((s.issueAt v recRegFlags c).1.withRegs w 1 ((c.set o.rd r).step g)) :=
  (answer_execReg h hp 1 _ rfl).trans (by simp only [hr]; rfl)

/-- A division by zero traps after 18 clocks (R120, R145). -/
theorem divOp_zero (h : s.issues v recRegFlags w c) {o : RegOp} (hb : c.get o.rb = 0) (f : Word → Word → Word × Bool) :
    s.divOp v o f = (s.issueAt v recRegFlags c).1.traps w c .divZero 18 := by
  simp only [State.divOp, execCc_of_issues h, hb, if_true, settle_trap]

theorem flags_div (f : Flags) (x : Bool) (r : Word) : f.div x r = { f with v := x, ov := f.ov || x }.byResult r := by
  simp only [Flags.div, setZN_byResult, Flags.setV]

theorem answer_divOp (h : s.issues v recRegFlags w c) (hp : c.pc < 0x1FFFFF) {o : RegOp} (hb : c.get o.rb ≠ 0)
    {f : Word → Word → Word × Bool} {r : Word} {x : Bool} (hr : f (c.get o.ra) (c.get o.rb) = (r, x)) :
    (.next (s.divOp v o f) : Out) = .next ((s.issueAt v recRegFlags c).1.withRegs w 18 ((c.set o.rd r).step
      ({ c.flags with v := x, ov := c.flags.ov || x }.byResult r))) := by
  simp only [State.divOp, execCc_of_issues h, if_neg hb, hr, ← flags_div]
  exact congrArg Host.Outcome.next (settle_next hp rfl)

/-- SHI by its operation, IMM18[6:5] (R146). -/
theorem exec_shi (h : s.issues v recRegFlags w c) (hp : c.pc < 0x1FFFFF) (o : ImmOp) {r : Word × Flags}
    (hk : o.imm.toNat / 32 < 3) (hr : (if o.imm.toNat / 32 = 0 then shlOp (c.get o.ra) (o.imm.toNat % 32) c.flags
      else if o.imm.toNat / 32 = 1 then shrOp (c.get o.ra) (o.imm.toNat % 32) c.flags
      else sarOp (c.get o.ra) (o.imm.toNat % 32) c.flags) = r) :
    exec (.shi v o) s = .next ((s.issueAt v recRegFlags c).1.withRegs w 1 ((c.set o.rd r.1).step r.2)) := by
  change execShi v o s = _
  simp only [execShi, execCc_of_issues h, if_neg (show ¬ 3 ≤ o.imm.toNat / 32 by omega), hr]
  exact congrArg Host.Outcome.next (settle_next hp rfl)

theorem exec_shi_reserved (h : s.issues v recRegFlags w c) {o : ImmOp} (hk : 3 ≤ o.imm.toNat / 32) :
    exec (.shi v o) s = .next ((s.issueAt v recRegFlags c).1.traps w c .illegal 1) := by
  change execShi v o s = _
  simp only [execShi, execCc_of_issues h, if_pos hk, settle_trap]

theorem shlOp_eq (a : Word) (n : Nat) (f : Flags) : shlOp a n f =
    (a <<< n, { f with c := if n = 0 then f.c else a.getLsbD (32 - n) }.byResult (a <<< n)) := by
  rw [shlOp, flags_shift]

theorem shrOp_eq (a : Word) (n : Nat) (f : Flags) : shrOp a n f =
    (a >>> n, { f with c := if n = 0 then f.c else a.getLsbD (n - 1) }.byResult (a >>> n)) := by
  rw [shrOp, flags_shift]

theorem sarOp_eq (a : Word) (n : Nat) (f : Flags) : sarOp a n f =
    (a.sshiftRight n, { f with c := if n = 0 then f.c else a.getLsbD (n - 1) }.byResult (a.sshiftRight n)) := by
  rw [sarOp, flags_shift]

end Integer

/-- Settles O7: every row is a register instruction whose flags are given by the exact result. -/
theorem arithmeticAndLogic : Obligations.ArithmeticAndLogic := by
  refine ⟨fun s v w c k h hp => ⟨?_, ?_, ?_, ?_⟩, fun s v w c k h hp => ⟨?_, ?_, ?_, ?_, ?_, ?_⟩⟩
  · rintro rfl o
    exact ⟨answer_aluOp h hp 1 o (by rw [flags_add]), answer_aluOp h hp 1 o (by rw [flags_sub]),
      answer_aluOp h hp 2 o (by rw [flags_mul])⟩
  · rintro rfl x y
    exact (answer_execReg h hp 1 _ rfl).trans (by simp only [flags_sub]; rfl)
  · rintro rfl o
    exact answer_immOp h hp o (by rw [flags_add]; rfl)
  · rintro rfl x i
    exact (answer_execReg h hp 1 _ rfl).trans (by simp only [flags_sub]; rfl)
  · rintro rfl o
    exact ⟨answer_aluOp h hp 1 o (by rw [setZN_byResult]), answer_aluOp h hp 1 o (by rw [setZN_byResult]),
      answer_aluOp h hp 1 o (by rw [setZN_byResult])⟩
  · rintro rfl o
    exact ⟨answer_immOp h hp o (by rw [setZN_byResult]; rfl), answer_immOp h hp o (by rw [setZN_byResult]; rfl),
      answer_immOp h hp o (by rw [setZN_byResult]; rfl)⟩
  · rintro rfl d i
    exact answer_execReg h hp 1 _ rfl
  · rintro rfl d a
    exact answer_execReg h hp 1 _ rfl
  · rintro rfl a
    exact answer_execReg h hp 1 _ rfl
  · rintro rfl d
    exact answer_execReg h hp 1 _ rfl

/-- Settles O8: shifts by their count, SHI by its operation, divisions by whether the divisor is zero. -/
theorem shiftsAndDivision : Obligations.ShiftsAndDivision := by
  refine ⟨fun s v w c h hp => ⟨fun o => ⟨?_, ?_, ?_⟩, fun o => ?shi⟩, fun s v w c o h hp => ⟨fun hb => ?_, fun hb => ?_⟩⟩
  · exact answer_aluOp h hp 1 o (shlOp_eq ..)
  · exact answer_aluOp h hp 1 o (shrOp_eq ..)
  · exact answer_aluOp h hp 1 o (sarOp_eq ..)
  case shi =>
    dsimp only
    split
    · next hk => exact exec_shi h hp o (by omega) ((if_pos hk).trans (shlOp_eq ..))
    · next hk =>
      exact exec_shi h hp o (by omega) ((if_neg (by omega)).trans ((if_pos hk).trans (shrOp_eq ..)))
    · next hk =>
      exact exec_shi h hp o (by omega) ((if_neg (by omega)).trans ((if_neg (by omega)).trans (sarOp_eq ..)))
    · next h0 h1 h2 =>
      have three (n : Nat) (h0 : n ≠ 0) (h1 : n ≠ 1) (h2 : n ≠ 2) : 3 ≤ n := by omega
      exact exec_shi_reserved h (three _ h0 h1 h2)
  · have zero : ∀ f, (.next (s.divOp v o f) : Out) =
        .next ((s.issueAt v recRegFlags c).1.traps w c .divZero 18) :=
      fun f => congrArg Host.Outcome.next (divOp_zero h hb f)
    exact ⟨zero _, zero _, zero _, zero _⟩
  · have wraps : divWraps (c.get o.ra) (c.get o.rb) = decide (c.get o.ra = 0x80000000 ∧ c.get o.rb = 0xFFFFFFFF) := by
      rw [divWraps, Bool.decide_and]
    refine ⟨answer_divOp h hp hb ?_, answer_divOp h hp hb ?_, answer_divOp h hp hb rfl, answer_divOp h hp hb rfl⟩
    all_goals rw [wraps]; split <;> simp_all
/-! ### Control flow (R113, R114, R157 to R159) -/

theorem target_inside {pc : Nat} {off : Int} (h : 0 ≤ (pc : Int) + off ∧ (pc : Int) + off ≤ 0x1FFFFF) :
    target pc off = some ((pc : Int) + off).toNat := if_neg (by omega)

theorem target_outside {pc : Nat} {off : Int} (h : ¬ (0 ≤ (pc : Int) + off ∧ (pc : Int) + off ≤ 0x1FFFFF)) :
    target pc off = none := if_pos (by omega)

section Flow
variable {s : State} {v : Vote} {w : Who} {c : Ctx}

/-- BR by its condition and its target (R157). -/
theorem exec_br (h : s.issues v recNone w c) (hp : c.pc < 0x1FFFFF) (cond : BitVec 4) (off : BitVec 22) :
    exec (.br v cond off) s = .next (if condTaken cond c.flags c.ba then
      match target c.pc off.toInt with
      | none => (s.issueAt v recNone c).1.traps w c .bus 2
      | some t => settle w c.pc (.done { c with pc := t } 2 (s.issueAt v recNone c).1)
      else (s.issueAt v recNone c).1.withRegs w 1 (c.step c.flags)) := by
  change execBr v cond off s = _
  simp only [execBr, execCc_of_issues h]
  split
  · cases target c.pc off.toInt <;> rfl
  · exact congrArg Host.Outcome.next (settle_next hp rfl)

/-- CALL by its target and the room on CS (R158). -/
theorem exec_call (h : s.issues v recReg w c) (off : BitVec 26) :
    exec (.call v off) s = .next (match target c.pc off.toInt with
      | none => (s.issueAt v recReg c).1.traps w c .bus 2
      | some t => if 32 ≤ c.cs.length then (s.issueAt v recReg c).1.traps w c .callOverflow 2
        else settle w c.pc (.done { c with cs := .call (c.pc + 1) :: c.cs, pc := t } 2 (s.issueAt v recReg c).1)) := by
  change execCall v off s = _
  simp only [execCall, execCc_of_issues h]
  cases target c.pc off.toInt
  · rfl
  · dsimp only
    split <;> rfl

/-- RET and ENDL by the top of CS (R158, R159). -/
theorem exec_ret (h : s.issues v recReg w c) : exec (.ret v) s = .next (match c.cs with
    | [] => (s.issueAt v recReg c).1.traps w c .callOverflow 2
    | .loop _ _ :: _ => (s.issueAt v recReg c).1.traps w c .illegal 2
    | .call r :: q => settle w c.pc (.done { c with cs := q, pc := r } 2 (s.issueAt v recReg c).1)) := by
  change execRet v s = _
  simp only [execRet, execCc_of_issues h]
  rcases c.cs with _ | ⟨⟨⟩, q⟩ <;> rfl

theorem exec_endl (h : s.issues v recReg w c) (hp : c.pc < 0x1FFFFF) : exec (.endl v) s = .next (match c.cs with
    | .loop i n :: q => if 1 < n then
        settle w c.pc (.done { c with cs := .loop i (n - 1) :: q, pc := i } 2 (s.issueAt v recReg c).1)
      else (s.issueAt v recReg c).1.withRegs w 1 ({ c with cs := q }.step c.flags)
    | _ => (s.issueAt v recReg c).1.traps w c .illegal 1) := by
  change execEndl v s = _
  simp only [execEndl, execCc_of_issues h]
  rcases c.cs with _ | ⟨_ | ⟨i, n⟩, q⟩
  · rfl
  · rfl
  · dsimp only
    split
    · rfl
    · exact congrArg Host.Outcome.next (settle_next hp rfl)

/-- LOOP by its bound and the room on CS (R159); a bound of zero is below every count. -/
theorem exec_loop (h : s.issues v recReg w c) (hp : c.pc < 0x1FFFFF) (rc : BitVec 4) (bound : BitVec 16) :
    exec (.loop v rc bound) s = .next (
      if (c.get rc).toNat = 0 ∨ bound.toNat < (c.get rc).toNat then (s.issueAt v recReg c).1.traps w c .bound 1
      else if 32 ≤ c.cs.length then (s.issueAt v recReg c).1.traps w c .callOverflow 1
      else (s.issueAt v recReg c).1.withRegs w 1 ({ c with cs := .loop (c.pc + 1) (c.get rc).toNat :: c.cs }.step c.flags)) := by
  have bad : (bound = 0 ∨ (c.get rc).toNat = 0 ∨ bound.toNat < (c.get rc).toNat) ↔
      ((c.get rc).toNat = 0 ∨ bound.toNat < (c.get rc).toNat) := by
    constructor
    · rintro (rfl | h)
      · exact (Nat.eq_zero_or_pos _).imp_right id
      · exact h
    · exact Or.inr
  change execLoop v rc bound s = _
  simp only [execLoop, execCc_of_issues h, bad]
  split
  · rfl
  · split
    · rfl
    · exact congrArg Host.Outcome.next (settle_next hp rfl)

end Flow

/-- Settles O11: each row by its target, the top of CS or its bound. -/
theorem controlFlow : Obligations.ControlFlow := by
  intro s v w c k h hp
  refine ⟨?br, ?call, ?empty, ?called, ?looped, ?loop⟩
  case br =>
    rintro rfl cond off
    refine ⟨fun hc => ?_, fun hc hx => ?_, fun hc hx => ?_⟩ <;> rw [exec_br h hp, hc]
    · rfl
    · rw [target_inside hx]
      exact congrArg Host.Outcome.next (settle_done (show (_ : Int).toNat < _ by omega))
    · rw [target_outside hx]
      rfl
  case call =>
    rintro rfl off
    refine ⟨fun hx => ?_, fun hx hn => ?_, fun hx hn => ?_⟩ <;> rw [exec_call h]
    · rw [target_outside hx]
    · rw [target_inside hx]
      simp only [if_pos hn]
    · rw [target_inside hx]
      simp only [if_neg (Nat.not_le.mpr hn)]
      exact congrArg Host.Outcome.next (settle_done (show (_ : Int).toNat < _ by omega))
  case empty =>
    rintro rfl hc
    exact ⟨by rw [exec_ret h, hc], by rw [exec_endl h hp, hc]⟩
  case called =>
    rintro rfl r q hc hr
    refine ⟨?_, by rw [exec_endl h hp, hc]⟩
    rw [exec_ret h, hc]
    exact congrArg Host.Outcome.next (settle_done hr)
  case looped =>
    rintro rfl i n q hc
    refine ⟨by rw [exec_ret h, hc], fun hn hi => ?_, fun hn => ?_⟩ <;> rw [exec_endl h hp, hc]
    · simp only [if_pos hn]
      exact congrArg Host.Outcome.next (settle_done hi)
    · simp only [if_neg (Nat.not_lt.mpr hn)]
  case loop =>
    rintro rfl rc bound
    refine ⟨fun hb => ?_, fun hb hn => ?_, fun hb hn => ?_⟩ <;> rw [exec_loop h hp]
    · rw [if_pos hb]
    · rw [if_neg hb, if_pos hn]
    · rw [if_neg hb, if_neg (Nat.not_le.mpr hn)]

end Sys2Proof.Machine
end

