-- ==== Sys2Proof/Proofs/Signals.lean ====
section
-- In order, not in parallel: each parallel thread reserves its whole stack of the check's memory.
set_option Elab.async false
/-! SUPPORT. Signal instructions of spec/05_cycle_code_reference.md: what they read, what they write, and their traps
(R97, R103 to R107, R129, R132 to R134, R139, R140). -/
namespace Sys2Proof.Machine

/-! ### Bits and bytes of words read -/

/-- The lowest bit of a field is the word's bit where the field begins. -/
theorem bitAt_get64 (d : DWord) (lo n : Nat) (hn : n ≠ 0) : (bitAt (get64 d lo n) 0 == 1) = d.getLsbD lo := by
  have h2 : 2 ∣ 2 ^ n := dvd_pow_self 2 hn
  rw [bitAt, get64, bitsAt, pow_zero, Nat.div_one, Nat.mod_mod_of_dvd _ h2, BitVec.getLsbD, Nat.testBit_eq_decide_div_mod_eq]
  exact beq_eq_decide ..

/-- What BLD, BAND, BOR and BXOR take from the words `d` for signal `id`: its bit, or VALID of its status byte (R132). -/
def operandBit (o : SbOp) (d : Sparse DWord) (id : Nat) : Bool :=
  if o.sub = 0 then bitp d id else bitAt (statByte d id) 0 == 1

/-- The words those instructions read. -/
def operandWords (o : SbOp) (id : Nat) : List Nat :=
  if o.sub = 0 then [(bitLoc id).1] else if o.sl then statWords id else [(statLoc id).1]

/-- The place of the operand of signal `id`. -/
def operandLoc (o : SbOp) (id : Nat) : Nat × Nat := if o.sub = 0 then bitLoc id else statLoc id

/-- The operand of every signal that the instruction acts on lies in the words it reads. -/
theorem operandLoc_mem {c : Ctx} {o : SbOp} {id i : Nat} (hal : o.sl = true → id % 32 = 0) (hi : i ∈ places c o.sl) :
    (operandLoc o (id + i)).1 ∈ operandWords o id := by
  unfold operandLoc operandWords
  split
  · exact List.mem_singleton.mpr (words_of_place hal hi).1
  · obtain ⟨h32, h0⟩ := mem_places hi
    split
    · next hsl =>
      have := hal hsl
      simp only [statWords, statLoc, List.mem_map, List.mem_range]
      exact ⟨i / 8, by omega, by omega⟩
    · next hsl => simp [h0 (by simpa using hsl)]

/-- The words read deliver the operand of every signal that the instruction acts on. -/
theorem operandBit_read {t : State} {c : Ctx} {o : SbOp} {d : Sparse DWord} {id i : Nat}
    (hd : ∀ x ∈ operandWords o id, wordOf d x = corrected x (t.mem.code .img x))
    (hal : o.sl = true → id % 32 = 0) (hi : i ∈ places c o.sl) :
    operandBit o d (id + i) = t.imgBit (operandLoc o (id + i)) := by
  have hw := hd _ (operandLoc_mem hal hi)
  unfold operandLoc at hw ⊢
  unfold operandBit
  split
  · next h => rw [if_pos h] at hw; rw [bitp, State.imgBit, hw]
  · next h => rw [if_neg h] at hw; rw [statByte, bitAt_get64 _ _ _ (by decide), State.imgBit, hw]

/-! ### Bit reads (R132) -/

/-- The word that a bit read leaves in BA, from its operands `x`. -/
def bitWord (c : Ctx) (sl : Bool) (f : Word → Word → Word) (x : Nat → Bool) : Word :=
  if sl then sliceInto c (f c.ba (fromBits x)) else bit0 (f c.ba (if x 0 then 1 else 0))

/-- A bit read acts bit by bit, on the signals that it acts on. -/
theorem bitWord_bit {c : Ctx} {sl : Bool} {f : Word → Word → Word} {g : Bool → Bool → Bool} {x y : Nat → Bool}
    (hf : ∀ a b i, i < 32 → (f a b).getLsbD i = g (a.getLsbD i) (b.getLsbD i)) (hx : ∀ i ∈ places c sl, x i = y i)
    {i : Nat} (hi : i < 32) : (bitWord c sl f x).getLsbD i =
      if sl then (if c.sm.getLsbD i then g (c.ba.getLsbD i) (y i) else c.ba.getLsbD i)
      else decide (i = 0) && g (c.ba.getLsbD 0) (y 0) := by
  cases sl with
  | false =>
    have hb : (if y 0 then 1 else 0 : Word).getLsbD 0 = y 0 := by cases y 0 <;> rfl
    simp only [bitWord, Bool.false_eq_true, if_false, bit0_bit, hf _ _ 0 (by decide), hx 0 (by simp [places]), hb]
  | true =>
    simp only [bitWord, if_true, sliceInto_bit c _ hi, hf _ _ i hi, fromBits_bit x hi]
    cases hs : c.sm.getLsbD i with
    | false => rfl
    | true => rw [hx i (by simp [places, selected, hi, hs])]

section Reads
variable {s t : State} {v : Vote} {w : Who} {c : Ctx} {id : Nat}

/-- A bit read past its traps, from the words that it reads. -/
theorem answer_bitOp {o : SbOp} (h : s.issues v recReg w c) (ht : (s.issueAt v recReg c).1 = t)
    (he : effId c o.ix o.sid = id) (hp : c.pc < 0x1FFFFF) (hw : w.val < 7) (hsub : o.sub.toNat ≤ 1) (hid : id ≤ 0x3FFFF)
    (hal : o.sl = true → id % 32 = 0 ∧ id / 32 ∉ t.ce.sliceMap) (hr : t.imgReadable w (operandWords o id))
    {f : Word → Word → Word} {g : Bool → Bool → Bool}
    (hf : ∀ a b i, i < 32 → (f a b).getLsbD i = g (a.getLsbD i) (b.getLsbD i)) :
    ∃ r : Word, (.next (s.bitOp v o f) : Out) =
        .next ((t.imgRead (operandWords o id)).withRegs w 1 ({ c with ba := r }.step c.flags)) ∧
      ∀ i < 32, r.getLsbD i =
        (if o.sl then (if c.sm.getLsbD i then g (c.ba.getLsbD i) (t.imgBit (operandLoc o (id + i)) != o.neg)
            else c.ba.getLsbD i)
         else decide (i = 0) && g (c.ba.getLsbD 0) (t.imgBit (operandLoc o (id + 0)) != o.neg)) := by
  have htrap : t.sigTrap w c (decide (o.sub.toNat ≤ 1)) o.sl false id = none :=
    sigTrap_none (decide_eq_true hsub) hw hid hal nofun
  obtain ⟨d, hread, hd⟩ := readImg_ok hr 1 (fun d s =>
    .done { c with ba := bitWord c o.sl f (fun i => operandBit o d (id + i) != o.neg) }.next 1 s)
  refine ⟨bitWord c o.sl f (fun i => operandBit o d (id + i) != o.neg), ?_, fun i hi => ?_⟩
  · rw [State.bitOp, execCc_of_issues h]
    simp only [he, ht, htrap]
    exact congrArg Host.Outcome.next ((congrArg (settle w c.pc) hread).trans (settle_next hp rfl))
  · exact bitWord_bit (c := c) (y := fun j => t.imgBit (operandLoc o (id + j)) != o.neg) hf
      (fun j hj => congrArg (· != o.neg) (operandBit_read hd (fun hs => (hal hs).1) hj)) hi

/-! ### Word and status reads (R105, R139, R140) -/

theorem answer_wordRead {ix : BitVec 4} {sid : BitVec 18} (h : s.issues v recReg w c) (ht : (s.issueAt v recReg c).1 = t)
    (he : effId c ix sid = id) (hp : c.pc < 0x1FFFFF) (hw : w.val < 7) (hid : id ≤ 0x3FFFF) {loc : Nat → Nat}
    (hr : t.imgReadable w [loc id]) {f : Ctx → Nat → Sparse DWord → Ctx} {r : Ctx}
    (hf : ∀ d : Sparse DWord, wordOf d (loc id) = corrected (loc id) (t.mem.code .img (loc id)) → f c id d = r)
    (hpc : r.pc = c.pc) :
    (.next (s.wordRead v ix sid loc f) : Out) = .next ((t.imgRead [loc id]).withRegs w 1 (r.step r.flags)) := by
  have htrap : t.sigTrap w c true false false id = none := sigTrap_none rfl hw hid nofun nofun
  obtain ⟨d, hread, hd⟩ := readImg_ok hr 1 (fun d s => .done (f c id d).next 1 s)
  rw [State.wordRead, execCc_of_issues h]
  simp only [he, ht, htrap]
  rw [hread, hf d (hd _ (by simp))]
  exact congrArg Host.Outcome.next (settle_next hp hpc)

theorem exec_sage {o : SwOp} (h : s.issues v recReg w c) (ht : (s.issueAt v recReg c).1 = t)
    (he : effId c o.ix o.sid = id) (hp : c.pc < 0x1FFFFF) (hw : w.val < 7) (hid : id ≤ 0x3FFFF) :
    exec (.sage v o) s = .next (t.withRegs w 1 ((c.set o.rt (BitVec.ofNat 32
      (if inRanges (t.program.task w.val).inputs id then sgetD 0xFFFF t.img.latchAge id else 0xFFFF))).step c.flags)) := by
  have htrap : t.sigTrap w c true false false id = none := sigTrap_none rfl hw hid nofun nofun
  change execSage v o s = _
  rw [execSage, execCc_of_issues h]
  simp only [he, ht, htrap]
  exact congrArg Host.Outcome.next (settle_next hp rfl)

end Reads

/-- Settles O13: the words read hold the operands of the signals that the instruction acts on. -/
theorem signalReads : Obligations.SignalReads := by
  refine ⟨fun s v w c o h hp => ?bits, fun s v w c ix sid rt h hp hw => ?words⟩
  case bits =>
    intro t id loc ws hw hsub hid hal hr p hmem
    have bits {f : Word → Word → Word} {g : Bool → Bool → Bool}
        (hf : ∀ a b i, i < 32 → (f a b).getLsbD i = g (a.getLsbD i) (b.getLsbD i)) :=
      answer_bitOp h rfl rfl hp hw hsub hid hal hr hf
    simp only [List.mem_cons, List.not_mem_nil, or_false] at hmem
    rcases hmem with rfl | rfl | rfl | rfl
    · exact bits (f := fun _ x => x) fun _ _ _ _ => rfl
    · exact bits (f := fun b x => b &&& x) fun _ _ _ _ => BitVec.getLsbD_and
    · exact bits (f := fun b x => b ||| x) fun _ _ _ _ => BitVec.getLsbD_or
    · exact bits (f := fun b x => b ^^^ x) fun _ _ _ _ => BitVec.getLsbD_xor
  case words =>
    intro t id hid
    refine ⟨fun hr => ⟨?_, ?_⟩, fun hr => ?_, exec_sage h rfl rfl hp hw hid⟩
    · exact answer_wordRead h rfl rfl hp hw hid (loc := fun i => (wordLoc i).1) hr
        (fun d hd => by rw [wordp, hd]; rfl) rfl
    · exact answer_wordRead h rfl rfl hp hw hid (loc := fun i => (wordLoc i).1) hr
        (fun d hd => by rw [wordp, hd]; rfl) rfl
    · exact answer_wordRead h rfl rfl hp hw hid (loc := fun i => (statLoc i).1) hr
        (fun d hd => by rw [statByte, hd]; rfl) rfl

/-! ### Writes (R106, R133, R134, R139, R140) -/

section Writes
variable {s t : State} {v : Vote} {w : Who} {c : Ctx} {id : Nat}

/-- No trap before a signal write acts, over every signal that it may write. -/
theorem sigTrap_write_none {sl : Bool} (hw : w.val < 7) (hid : id ≤ 0x3FFFF)
    (hal : sl = true → id % 32 = 0 ∧ id / 32 ∉ t.ce.sliceMap)
    (hfree : ∀ i ∈ places c sl, t.program.otherRange w.val (id + i) = false) : t.sigTrap w c true sl true id = none := by
  cases sl with
  | false => exact sigTrap_none rfl hw hid hal fun _ => ⟨rfl, hfree 0 (by simp [places])⟩
  | true =>
    have hother : (List.range 32).any (fun i => selected c i && t.program.otherRange w.val (id + i)) = false :=
      List.any_eq_false.mpr fun i hi => by
        cases hs : selected c i with
        | false => simp
        | true => simp [hfree i (by simpa [places, hs] using hi)]
    obtain ⟨h32, hmap⟩ := hal rfl
    unfold State.sigTrap
    rw [if_neg (by simp; omega), if_neg (by omega), if_neg (by simp [h32, hmap]), if_neg (by simp [hother])]

theorem answer_wordWrite {ix : BitVec 4} {sid : BitVec 18} (h : s.issues v recStore w c)
    (ht : (s.issueAt v recStore c).1 = t) (he : effId c ix sid = id) (hp : c.pc < 0x1FFFFF) (hw : w.val < 7)
    (hid : id ≤ 0x3FFFF) (hfree : t.program.otherRange w.val id = false) {p : Ctx → Nat → Patch}
    (hr : t.imgWritable w (p c id)) :
    (.next (s.wordWrite v ix sid p) : Out) = .next ((t.imgWrite (p c id)).withRegs w 1 (c.step c.flags)) := by
  have htrap : t.sigTrap w c true false true id = none := sigTrap_none rfl hw hid nofun fun _ => ⟨rfl, hfree⟩
  rw [State.wordWrite, execCc_of_issues h]
  simp only [he, ht, htrap, storeSig_ok hr]
  exact congrArg Host.Outcome.next (settle_next hp rfl)

theorem answer_bitWrite {o : SbOp} {n : Nat} (h : s.issues v recStore w c) (ht : (s.issueAt v recStore c).1 = t)
    (he : effId c o.ix o.sid = id) (hp : c.pc < 0x1FFFFF) (hw : w.val < 7) (hsub : o.sub.toNat ≤ n) (hid : id ≤ 0x3FFFF)
    (hal : o.sl = true → id % 32 = 0 ∧ id / 32 ∉ t.ce.sliceMap)
    (hfree : ∀ i ∈ places c o.sl, t.program.otherRange w.val (id + i) = false) {on b : Ctx → Nat → Bool}
    (hr : t.imgWritable w
      ((places c o.sl).foldl (fun (p : Patch) i => if on c i then p.setSig (id + i) (b c i) else p) [])) :
    (.next (s.bitWrite v o n on b) : Out) = .next ((t.imgWrite
      ((places c o.sl).foldl (fun (p : Patch) i => if on c i then p.setSig (id + i) (b c i) else p) [])).withRegs w 1
        (c.step c.flags)) := by
  have htrap : t.sigTrap w c (decide (o.sub.toNat ≤ n)) o.sl true id = none := by
    rw [decide_eq_true hsub]; exact sigTrap_write_none hw hid hal hfree
  rw [State.bitWrite, execCc_of_issues h]
  simp only [he, ht, htrap]
  exact congrArg Host.Outcome.next ((congrArg (settle w c.pc) (storeSig_ok hr c)).trans (settle_next hp rfl))

end Writes

/-- Settles O14: every row stores the patch of its signals. -/
theorem signalWrites : Obligations.SignalWrites := by
  intro s v w c ix sid rt sl neg h hp hw t id inst free bit word puts hid
  refine ⟨fun hfree => ⟨fun hr => ?_, fun hr => ?_, fun hr => ?_⟩, fun hfree hal => ⟨fun hr => ?_, fun hr => ?_, fun hr => ?_⟩⟩
  · exact answer_wordWrite h rfl rfl hp hw hid hfree (p := fun c i => wordPatch i (c.get rt)) hr
  · exact answer_wordWrite h rfl rfl hp hw hid hfree (p := fun c i => wordPatch i c.wa) hr
  · exact answer_wordWrite h rfl rfl hp hw hid hfree
      (p := fun c i => Patch.add [] (statLoc i) 8 ((c.get rt).toNat % 256)) hr
  · exact answer_bitWrite (o := ⟨sl, neg, 0, ix, sid⟩) h rfl rfl hp hw (Nat.le_refl _) hid hal hfree
      (on := fun _ _ => true) (b := fun c i => c.ba.getLsbD i != neg) hr
  · exact answer_bitWrite (o := ⟨sl, neg, 0, ix, sid⟩) h rfl rfl hp hw (Nat.zero_le _) hid hal hfree
      (on := fun c i => c.ba.getLsbD i != neg) (b := fun _ _ => true) hr
  · exact answer_bitWrite (o := ⟨sl, neg, 1, ix, sid⟩) h rfl rfl hp hw (Nat.le_refl _) hid hal hfree
      (on := fun c i => c.ba.getLsbD i != neg) (b := fun _ _ => false) hr

/-! ### Traps (R129) -/

section Traps
variable {s : State} {v : Vote} {w : Who} {c : Ctx} {x : TrapCode}

theorem bitOp_trap {o : SbOp} (h : s.issues v recReg w c)
    (hx : (s.issueAt v recReg c).1.sigTrap w c (decide (o.sub.toNat ≤ 1)) o.sl false (effId c o.ix o.sid) = some x)
    (f : Word → Word → Word) : s.bitOp v o f = (s.issueAt v recReg c).1.traps w c x 1 := by
  rw [State.bitOp, execCc_of_issues h]
  simp only [hx, settle_trap]

theorem bedge_trap {o : SbOp} (h : s.issues v recRegStore w c)
    (hx : (s.issueAt v recRegStore c).1.sigTrap w c (decide (o.sub.toNat ≤ 2)) o.sl false (effId c o.ix o.sid) = some x) :
    exec (.bedge v o) s = .next ((s.issueAt v recRegStore c).1.traps w c x 1) := by
  change execBedge v o s = _
  rw [execBedge, execCc_of_issues h]
  simp only [hx, settle_trap]

theorem bitWrite_trap {o : SbOp} {n : Nat} (h : s.issues v recStore w c)
    (hx : (s.issueAt v recStore c).1.sigTrap w c (decide (o.sub.toNat ≤ n)) o.sl true (effId c o.ix o.sid) = some x)
    (on b : Ctx → Nat → Bool) : s.bitWrite v o n on b = (s.issueAt v recStore c).1.traps w c x 1 := by
  rw [State.bitWrite, execCc_of_issues h]
  simp only [hx, settle_trap]

theorem wordRead_trap {ix : BitVec 4} {sid : BitVec 18} (h : s.issues v recReg w c)
    (hx : (s.issueAt v recReg c).1.sigTrap w c true false false (effId c ix sid) = some x) (loc : Nat → Nat)
    (f : Ctx → Nat → Sparse DWord → Ctx) : s.wordRead v ix sid loc f = (s.issueAt v recReg c).1.traps w c x 1 := by
  rw [State.wordRead, execCc_of_issues h]
  simp only [hx, settle_trap]

theorem sage_trap {o : SwOp} (h : s.issues v recReg w c)
    (hx : (s.issueAt v recReg c).1.sigTrap w c true false false (effId c o.ix o.sid) = some x) :
    exec (.sage v o) s = .next ((s.issueAt v recReg c).1.traps w c x 1) := by
  change execSage v o s = _
  rw [execSage, execCc_of_issues h]
  simp only [hx, settle_trap]

theorem wordWrite_trap {ix : BitVec 4} {sid : BitVec 18} (h : s.issues v recStore w c)
    (hx : (s.issueAt v recStore c).1.sigTrap w c true false true (effId c ix sid) = some x) (p : Ctx → Nat → Patch) :
    s.wordWrite v ix sid p = (s.issueAt v recStore c).1.traps w c x 1 := by
  rw [State.wordWrite, execCc_of_issues h]
  simp only [hx, settle_trap]

/-! The checks before a signal instruction acts, in their order. -/

variable {t : State} {sl wr : Bool} {id : Nat}

theorem sigTrap_illegal (hw : 7 ≤ w.val) : t.sigTrap w c true sl wr id = some .illegal := by
  unfold State.sigTrap; rw [if_pos (Or.inr hw)]

theorem sigTrap_bound (hw : w.val < 7) (hid : 0x3FFFF < id) : t.sigTrap w c true sl wr id = some .bound := by
  unfold State.sigTrap; rw [if_neg (by simp; omega), if_pos hid]

theorem sigTrap_align (hw : w.val < 7) (hid : id ≤ 0x3FFFF) (hal : id % 32 ≠ 0) :
    t.sigTrap w c true true wr id = some .align := by
  unfold State.sigTrap; rw [if_neg (by simp; omega), if_neg (by omega), if_pos ⟨rfl, Or.inl hal⟩]

theorem sigTrap_bus (hw : w.val < 7) (hid : id ≤ 0x3FFFF) (ho : t.program.otherRange w.val id = true) :
    t.sigTrap w c true false true id = some .bus := by
  unfold State.sigTrap
  rw [if_neg (by simp; omega), if_neg (by omega), if_neg (by simp), if_pos ⟨rfl, by simpa using ho⟩]

end Traps

/-- Settles O17: the checks give the trap, and every row takes it. -/
theorem signalTraps : Obligations.SignalTraps := by
  intro s v w c k ix sid rt sl neg h t id sb sw of reads writes wreads wwrites all
  have bits {x : TrapCode} (hx : t.sigTrap w c true sl false id = some x) : all reads x := by
    intro p hp hk
    simp only [reads, of, List.map_cons, List.map_nil, List.cons_append, List.nil_append, List.mem_cons,
      List.not_mem_nil, or_false] at hp
    rcases hp with rfl | rfl | rfl | rfl | rfl <;> subst hk
    · exact congrArg Host.Outcome.next (bitOp_trap (o := sb) h hx _)
    · exact congrArg Host.Outcome.next (bitOp_trap (o := sb) h hx _)
    · exact congrArg Host.Outcome.next (bitOp_trap (o := sb) h hx _)
    · exact congrArg Host.Outcome.next (bitOp_trap (o := sb) h hx _)
    · exact bedge_trap (o := sb) h hx
  have sets {x : TrapCode} (hx : t.sigTrap w c true sl true id = some x) : all writes x := by
    intro p hp hk
    simp only [writes, of, List.map_cons, List.map_nil, List.mem_cons, List.not_mem_nil, or_false] at hp
    rcases hp with rfl | rfl <;> subst hk
    · exact congrArg Host.Outcome.next (bitWrite_trap (o := sb) h hx _ _)
    · exact congrArg Host.Outcome.next (bitWrite_trap (o := sb) h hx _ _)
  have words {x : TrapCode} (hx : t.sigTrap w c true false false id = some x) : all wreads x := by
    intro p hp hk
    simp only [wreads, of, List.map_cons, List.map_nil, List.mem_cons, List.not_mem_nil, or_false] at hp
    rcases hp with rfl | rfl | rfl | rfl <;> subst hk
    · exact congrArg Host.Outcome.next (wordRead_trap h hx _ _)
    · exact congrArg Host.Outcome.next (wordRead_trap h hx _ _)
    · exact congrArg Host.Outcome.next (wordRead_trap h hx _ _)
    · exact sage_trap (o := sw) h hx
  have puts {x : TrapCode} (hx : t.sigTrap w c true false true id = some x) : all wwrites x := by
    intro p hp hk
    simp only [wwrites, of, List.map_cons, List.map_nil, List.mem_cons, List.not_mem_nil, or_false] at hp
    rcases hp with rfl | rfl | rfl <;> subst hk
    · exact congrArg Host.Outcome.next (wordWrite_trap h hx _)
    · exact congrArg Host.Outcome.next (wordWrite_trap h hx _)
    · exact congrArg Host.Outcome.next (wordWrite_trap h hx _)
  have both {l m : List ((Ctx → Recs) × Instr)} {x : TrapCode} (hl : all l x) (hm : all m x) : all (l ++ m) x :=
    fun p hp => (List.mem_append.mp hp).elim (hl p) (hm p)
  refine ⟨fun hw => ?_, fun hw hid => ?_, fun hw hid hsl hal => ?_, fun hw hid ho => ⟨?_, fun hsl => ?_⟩⟩
  · exact both (both (both (bits (sigTrap_illegal hw)) (sets (sigTrap_illegal hw))) (words (sigTrap_illegal hw)))
      (puts (sigTrap_illegal hw))
  · exact both (both (both (bits (sigTrap_bound hw hid)) (sets (sigTrap_bound hw hid))) (words (sigTrap_bound hw hid)))
      (puts (sigTrap_bound hw hid))
  · have align {wr : Bool} : t.sigTrap w c true sl wr id = some .align := by rw [hsl]; exact sigTrap_align hw hid hal
    exact both (bits align) (sets align)
  · exact puts (sigTrap_bus hw hid ho)
  · exact sets (hsl ▸ sigTrap_bus hw hid ho)

end Sys2Proof.Machine
end

