-- ==== Sys2Proof/Proofs/Coded.lean ====
section
-- In order, not in parallel: each parallel thread reserves its whole stack of the check's memory.
set_option Elab.async false
/-! SUPPORT. The code of the stores (R194 to R196): the check bits are linear, so the syndrome of a wrong word is the sum of
the columns of its wrong bits, and every column has odd weight. -/
namespace Sys2Proof.Machine

/-! ### Linearity of the check bits -/

theorem xorCols_zero : ∀ cs : List Byte, xorCols cs 0 = 0
  | [] => rfl
  | c :: cs => by simp [xorCols, xorCols_zero cs]

theorem xorCols_xor : ∀ (cs : List Byte) (m n : Nat), xorCols cs (m ^^^ n) = xorCols cs m ^^^ xorCols cs n
  | [], _, _ => by simp [xorCols]
  | c :: cs, m, n => by
    have hdiv : (m ^^^ n) / 2 = m / 2 ^^^ n / 2 := by
      simpa only [Nat.shiftRight_one] using Nat.shiftRight_xor_distrib (i := 1)
    have hc : (if (m ^^^ n) % 2 = 1 then c else 0) =
        (if m % 2 = 1 then c else 0) ^^^ (if n % 2 = 1 then c else 0) := by
      simp only [Nat.xor_mod_two_eq_one]
      by_cases hm : m % 2 = 1 <;> by_cases hn : n % 2 = 1 <;> simp [hm, hn]
    rw [xorCols, xorCols, xorCols, hdiv, xorCols_xor cs, hc]
    ac_rfl

/-- A single bit contributes its column. -/
theorem xorCols_two_pow : ∀ (cs : List Byte) (i : Nat), xorCols cs (2 ^ i) = cs.getD i 0
  | [], _ => rfl
  | c :: cs, 0 => by simp [xorCols, xorCols_zero]
  | c :: cs, i + 1 => by
    have hmod : 2 ^ (i + 1) % 2 ≠ 1 := by rw [Nat.pow_succ']; simp
    rw [xorCols, if_neg hmod, Nat.pow_succ', Nat.mul_div_cancel_left _ (by decide), xorCols_two_pow cs i]
    simp

/-- The 72 columns: data bits, then check bits (R194). -/
def codeCols : List Byte := dataCols ++ weight1

/-- `c` with bit `i` of its 72 bits wrong. -/
def Code.flip (c : Code) (i : Fin 72) : Code :=
  if i.val < 64 then { c with data := c.data ^^^ BitVec.ofNat 64 (2 ^ i.val) }
  else { c with chk := c.chk ^^^ BitVec.ofNat 8 (2 ^ (i.val - 64)) }

theorem checkBits_flip {i : Nat} (hi : i < 64) (d : DWord) (w : Nat) :
    checkBits (d ^^^ BitVec.ofNat 64 (2 ^ i)) w = checkBits d w ^^^ dataCols.getD i 0 := by
  have hpow : (BitVec.ofNat 64 (2 ^ i)).toNat = 2 ^ i :=
    Nat.mod_eq_of_lt (Nat.pow_lt_pow_right (by decide) hi)
  rw [checkBits, checkBits, BitVec.toNat_xor, hpow, xorCols_xor, xorCols_two_pow]
  ac_rfl

theorem column_data : ∀ i : Fin 72, i.val < 64 → codeCols.getD i.val 0 = dataCols.getD i.val 0 := by decide

theorem column_check : ∀ i : Fin 72, ¬ i.val < 64 → codeCols.getD i.val 0 = BitVec.ofNat 8 (2 ^ (i.val - 64)) := by decide

/-- A wrong bit adds its column to the syndrome. -/
theorem syndrome_flip (w : Nat) (c : Code) (i : Fin 72) :
    syndrome w (c.flip i) = syndrome w c ^^^ codeCols.getD i.val 0 := by
  unfold Code.flip syndrome
  split
  · next h => rw [checkBits_flip h, column_data i h]; ac_rfl
  · next h => rw [column_check i h]; dsimp only; ac_rfl

theorem syndrome_encodeWord (w : Nat) (d : DWord) : syndrome w (encodeWord w d) = 0#8 := by
  simp [syndrome, encodeWord]

/-- A word read at another address shows the columns of the address bits that differ. -/
theorem syndrome_other_address (w x : Nat) (d : DWord) : syndrome (w ^^^ x) (encodeWord w d) = xorCols addrCols x := by
  rw [syndrome, encodeWord, checkBits, checkBits, xorCols_xor]
  have h : ∀ a b c : Byte, a ^^^ (b ^^^ c) ^^^ (a ^^^ b) = c := by
    intro a b c
    rw [show a ^^^ (b ^^^ c) ^^^ (a ^^^ b) = (a ^^^ a) ^^^ (b ^^^ b) ^^^ c by ac_rfl]
    simp
  exact h _ _ _

theorem syndrome_poisonWord (w : Nat) : syndrome w (poisonWord w) = 0xFF := by
  rw [syndrome, poisonWord, ← BitVec.xor_assoc, BitVec.xor_self, BitVec.zero_xor]

/-! ### Classes of a word as stored, and of one with wrong bits (R195, R196) -/

@[simp] theorem encodeWord_cls (w : Nat) (d : DWord) : (encodeWord w d).cls w = .clean := by
  rw [Code.cls, syndrome_encodeWord]; rfl

theorem corrected_of_syndrome_zero {w : Nat} {c : Code} (h : syndrome w c = 0) : corrected w c = c.data := by
  rw [corrected, h]; rfl

@[simp] theorem corrected_encodeWord (w : Nat) (d : DWord) : corrected w (encodeWord w d) = d :=
  corrected_of_syndrome_zero (syndrome_encodeWord w d)

@[simp] theorem poisonWord_cls (w : Nat) : (poisonWord w).cls w = .poison := by
  rw [Code.cls, syndrome_poisonWord]; rfl

theorem classOf_column : ∀ i : Fin 72, classOf (codeCols.getD i.val 0) = .ce := by decide

theorem colIndex_column : ∀ i : Fin 72, colIndex dataCols (codeCols.getD i.val 0) = if i.val < 64 then some i.val else none := by
  decide

theorem flip_cls (w : Nat) (d : DWord) (i : Fin 72) : ((encodeWord w d).flip i).cls w = .ce := by
  rw [Code.cls, syndrome_flip, syndrome_encodeWord, BitVec.zero_xor, classOf_column]

/-- The column of a wrong data bit says where it is. -/
theorem corrected_flip (w : Nat) (d : DWord) (i : Fin 72) : corrected w ((encodeWord w d).flip i) = d := by
  rw [corrected, syndrome_flip, syndrome_encodeWord, BitVec.zero_xor, colIndex_column]
  unfold Code.flip encodeWord
  by_cases h : i.val < 64
  · simp only [if_pos h, BitVec.xor_assoc, BitVec.xor_self, BitVec.xor_zero]
  · simp only [if_neg h]

/-! ### Two wrong bits (R194) -/

/-- The number of bits that are set in a byte is odd. -/
def oddWeight (b : Byte) : Bool := (List.range 8).foldl (fun p i => p != b.getLsbD i) false

theorem oddWeight_xor (a b : Byte) : oddWeight (a ^^^ b) = (oddWeight a != oddWeight b) := by
  have fold : ∀ (l : List Nat) (p q : Bool), l.foldl (fun p i => p != (a ^^^ b).getLsbD i) (p != q) =
      (l.foldl (fun p i => p != a.getLsbD i) p != l.foldl (fun p i => p != b.getLsbD i) q) := by
    intro l
    induction l with
    | nil => exact fun _ _ => rfl
    | cons i t ih =>
      intro p q
      rw [List.foldl_cons, List.foldl_cons, List.foldl_cons, ← ih, BitVec.getLsbD_xor]
      congr 1
      cases p <;> cases q <;> cases a.getLsbD i <;> cases b.getLsbD i <;> rfl
  exact fold _ false false

theorem column_odd : ∀ i : Fin 72, oddWeight (codeCols.getD i.val 0) = true := by decide

theorem columns_nodup : codeCols.Nodup := by decide

/-- What delivers data is no error, or one column. -/
theorem classOf_ok : ∀ b : Byte, (classOf b).ok = true → b = 0 ∨ oddWeight b = true := by decide

theorem flip_flip_cls (w : Nat) (d : DWord) {i j : Fin 72} (hij : i ≠ j) :
    ((((encodeWord w d).flip i).flip j).cls w).ok = false := by
  rw [Code.cls, syndrome_flip, syndrome_flip, syndrome_encodeWord, BitVec.zero_xor]
  rw [Bool.eq_false_iff]
  intro hok
  rcases classOf_ok _ hok with h | h
  · have heq : codeCols.getD i.val 0 = codeCols.getD j.val 0 := BitVec.xor_eq_zero_iff.mp h
    rw [List.getD_eq_getElem _ _ (show i.val < codeCols.length from i.isLt),
      List.getD_eq_getElem _ _ (show j.val < codeCols.length from j.isLt)] at heq
    exact hij (Fin.ext ((List.Nodup.getElem_inj_iff columns_nodup).mp heq))
  · rw [oddWeight_xor, column_odd, column_odd] at h
    exact absurd h (by decide)

theorem classOf_address : ∀ k : Fin 23, classOf (addrCols.getD k.val 0) = .address := by decide

/-- Settles O21: each error has the syndrome of its columns. -/
theorem codedWords : Obligations.CodedWords := by
  intro d w _
  refine ⟨encodeWord_cls w d, corrected_encodeWord w d, fun i => ⟨flip_cls w d i, corrected_flip w d i⟩,
    fun i j hij => flip_flip_cls w d hij, fun k => ?_, poisonWord_cls w⟩
  rw [Code.cls, syndrome_other_address, xorCols_two_pow, classOf_address]

end Sys2Proof.Machine
end

