-- ==== Sys2Proof/Proofs/MemoryAccess.lean ====
section
-- In order, not in parallel: each parallel thread reserves its whole stack of the check's memory.
set_option Elab.async false
/-! SUPPORT. Why a correction does not always follow a read (R198, R210), and loads and stores of the coded stores (R108 to
R111, R129, R153, R156). -/
namespace Sys2Proof.Machine

/-! ### Write-backs after the stop level -/

/-- Once the masters have stopped, CE_WRITE_BACK does nothing. -/
theorem ceWriteBack_stopped {s : State} (h : s.fld Reg.PWR_STAT_STOPPING = 1) : exec .ceWriteBack s = .next s := by
  change execCeWriteBack s = _
  unfold execCeWriteBack
  split
  · rfl
  · rw [if_pos h]

/-- A module past its stop level, with one wrong data bit in the first word of Image RAM. -/
def stoppedWithError : State :=
  { State.reset with mem := State.reset.mem.put .img 0 ⟨1, (encodeWord 0 0).chk⟩ }.setFld Reg.PWR_STAT_STOPPING 1

/-- Refutes O15: the masters have stopped, so CE_WRITE_BACK does not write, and the correction goes on waiting (R210). -/
theorem not_memoryAccess : ¬ Obligations.MemoryAccess := by
  rintro ⟨-, reads, -⟩
  obtain ⟨hwb, -, u, hu, hempty, -⟩ := reads stoppedWithError .img 0 .load (by decide) (by decide) (by decide) rfl
  rw [ceWriteBack_stopped (by decide)] at hu
  cases hu
  rw [hwb] at hempty
  exact absurd hempty (by decide)

/-! ### Traps of loads and stores (R129) -/

section Access
variable {s t : State} {v : Vote} {w : Who} {c : Ctx} {o : MemOp} {n : Nat}

theorem load_trap (h : s.issues v (recMem true o) w c) (ht : (s.issueAt v (recMem true o) c).1 = t) {x : TrapCode}
    (hx : t.memTrap w o n false (effAddr c o) = some x) :
    s.load v n o = t.traps w c x (if x = .illegal then 1 else 6) := by
  rw [State.load, execCc_of_issues h]
  simp only [ht, hx, settle_trap]

theorem store_trap (h : s.issues v (recMem false o) w c) (ht : (s.issueAt v (recMem false o) c).1 = t) {x : TrapCode}
    (hx : t.memTrap w o n true (effAddr c o) = some x) : s.store v n o = t.traps w c x 1 := by
  rw [State.store, execCc_of_issues h]
  simp only [ht, hx, settle_trap]

/-! Where an address leads (R19, R20). -/

variable {slot addr : Nat} {st : Bool}

theorem decodeAddr_window (h : 0x80000000 ≤ addr ∧ addr < 0xBF000000) : decodeAddr slot addr st =
    .bridge ((addr - 0x80000000) / 0x1000000 + 1) ((addr - 0x80000000) % 0x1000000) := by
  unfold decodeAddr
  rw [if_neg (by omega), if_neg (by omega), if_neg (by omega), if_neg (by omega), if_pos h]

theorem decodeAddr_not_bridge (h : ¬ (0x80000000 ≤ addr ∧ addr < 0xBF000000)) (i off : Nat) :
    decodeAddr slot addr st ≠ .bridge i off := by
  unfold decodeAddr
  rw [if_neg h]
  dsimp only
  repeat' split
  all_goals simp

theorem decodeAddr_unmapped (h1 : 0x04400000 ≤ addr) (h2 : addr < 0x10000000) : decodeAddr slot addr st = .none := by
  unfold decodeAddr
  rw [if_neg (by omega), if_neg (by omega), if_neg (by omega), if_neg (by omega), if_neg (by omega), if_neg (by omega),
    if_neg (by omega)]

theorem decodeAddr_program_store (h1 : 0x20000000 ≤ addr) (h2 : addr < 0x21000000) :
    decodeAddr slot addr true = .none := by
  unfold decodeAddr
  rw [if_neg (by omega), if_neg (by omega), if_neg (by omega), if_pos ⟨h1, h2⟩, if_pos (Or.inl rfl)]

/-! The checks of an access, in their order. -/

theorem memTrap_odd_pair (h : o.rt.toNat % 2 = 1) : t.memTrap w o 8 st addr = some .illegal := by
  unfold State.memTrap
  exact if_pos ⟨rfl, h⟩

variable (hpair : n = 8 → o.rt.toNat % 2 = 0)
include hpair

theorem memTrap_window (h : 0x80000000 ≤ addr ∧ addr < 0xBF000000) (hw : w ≠ 7) :
    t.memTrap w o n st addr = some .bridgeInCyclic := by
  unfold State.memTrap
  rw [if_neg (fun h => by have := hpair h.1; omega), decodeAddr_window h]
  exact if_pos hw

/-- The checks of an access outside the windows. -/
theorem memTrap_outside (h : ∀ i off, decodeAddr t.slotNo addr st ≠ .bridge i off) : t.memTrap w o n st addr =
    if addr % n ≠ 0 then some .align
    else match decodeAddr t.slotNo addr st with
      | .none => some .bus
      | .alias_ _ _ _ => if n = 4 then none else some .bus
      | .page _ _ => if n = 4 then none else some .bus
      | _ => none := by
  unfold State.memTrap
  rw [if_neg (fun h => by have := hpair h.1; omega)]
  split
  · next heq => exact absurd heq (h _ _)
  · rfl

theorem memTrap_align (h : ¬ (0x80000000 ≤ addr ∧ addr < 0xBF000000)) (ha : addr % n ≠ 0) :
    t.memTrap w o n st addr = some .align := by
  rw [memTrap_outside hpair (decodeAddr_not_bridge h), if_pos ha]

theorem memTrap_bus (ha : addr % n = 0) (hd : decodeAddr t.slotNo addr st = .none) :
    t.memTrap w o n st addr = some .bus := by
  rw [memTrap_outside hpair (fun i off => by rw [hd]; exact nofun), if_neg (by simpa using ha), hd]

theorem memTrap_none {a : Arr} {x : Nat} (ha : addr % n = 0) (hd : decodeAddr t.slotNo addr st = .mem a x) :
    t.memTrap w o n st addr = none := by
  rw [memTrap_outside hpair (fun i off => by rw [hd]; exact nofun), if_neg (by simpa using ha), hd]

end Access

/-- Settles O20: the checks give the trap, and every size takes it. -/
theorem memoryTraps : Obligations.MemoryTraps := by
  intro s v w c k o h t addr window loads stores load store
  have loadTrap {n : Nat} (hn : n ∈ [1, 2, 4, 8]) {x : TrapCode} (hx : t.memTrap w o n false addr = some x) :
      load n x (if x = .illegal then 1 else 6) := by
    rintro rfl
    have hl := congrArg (Host.Outcome.next (φ := Fault) (ρ := Refusal)) (load_trap h rfl hx)
    simp only [List.mem_cons, List.not_mem_nil, or_false] at hn
    rcases hn with rfl | rfl | rfl | rfl <;> exact hl
  have storeTrap {n : Nat} (hn : n ∈ [1, 2, 4, 8]) {x : TrapCode} (hx : t.memTrap w o n true addr = some x) :
      store n x := by
    rintro rfl
    have hs := congrArg (Host.Outcome.next (φ := Fault) (ρ := Refusal)) (store_trap h rfl hx)
    simp only [List.mem_cons, List.not_mem_nil, or_false] at hn
    rcases hn with rfl | rfl | rfl | rfl <;> exact hs
  refine ⟨fun hodd => ⟨loadTrap (by decide) (memTrap_odd_pair hodd), storeTrap (by decide) (memTrap_odd_pair hodd)⟩,
    fun n hn hpair => ⟨fun hwin hw => ?_, fun hwin ha => ?_, fun ha h1 h2 => ?_, fun ha h1 h2 => ?_⟩⟩
  · exact ⟨loadTrap hn (memTrap_window hpair hwin hw), storeTrap hn (memTrap_window hpair hwin hw)⟩
  · exact ⟨loadTrap hn (memTrap_align hpair hwin ha), storeTrap hn (memTrap_align hpair hwin ha)⟩
  · exact ⟨loadTrap hn (memTrap_bus hpair ha (decodeAddr_unmapped h1 h2)),
      storeTrap hn (memTrap_bus hpair ha (decodeAddr_unmapped h1 h2))⟩
  · exact storeTrap hn (memTrap_bus hpair ha (decodeAddr_program_store h1 h2))

/-! ### Loads (R108, R153, R156, R199) -/

/-- Where no store to a word waits, a load reads the array alone. -/
theorem forwarded_none {t : State} {a : Arr} {x : Nat} (h : ∀ e ∈ t.ce.store, storeTarget e.addr ≠ some (a, x)) :
    t.forwarded a x = (0, 0) := by
  unfold State.forwarded
  generalize t.ce.store = l at h
  induction l with
  | nil => rfl
  | cons e l ih =>
    rw [List.foldl_cons, if_neg (h e List.mem_cons_self)]
    exact ih fun e he => h e (List.mem_cons_of_mem _ he)

theorem fullyBuffered_none {t : State} {a : Arr} {x : Nat} (h : ∀ e ∈ t.ce.store, storeTarget e.addr ≠ some (a, x)) :
    t.fullyBuffered a x = false :=
  List.any_eq_false.mpr fun e he => by simp [h e he]

theorem mergeBits_none (d : DWord) : mergeBits d 0 0 = d := by
  have ones : d &&& ~~~0 = d := BitVec.and_allOnes
  rw [mergeBits, ones, BitVec.and_self]
  exact BitVec.or_zero

section Load
variable {s t : State} {v : Vote} {w : Who} {c : Ctx} {o : MemOp} {n : Nat} {a : Arr} {x : Nat}

/-- A load past its traps, by what its word reads as. -/
theorem answer_load (h : s.issues v (recMem true o) w c) (ht : (s.issueAt v (recMem true o) c).1 = t)
    (hpair : n = 8 → o.rt.toNat % 2 = 0) (ha : effAddr c o % n = 0) (hd : decodeAddr t.slotNo (effAddr c o) false = .mem a x)
    (hs : ∀ e ∈ t.ce.store, storeTarget e.addr ≠ some (a, x)) :
    s.load v n o = settle w c.pc (if ((t.mem.code a x).cls x).ok then
        .done (c.loaded o.rt n (byteLane (t.readWord a x .load).2.2 (effAddr c o) n)).next 6 (t.readWord a x .load).1
      else .trap .loadUe 6 (t.readWord a x .load).1) := by
  rw [State.load, execCc_of_issues h]
  simp only [ht, memTrap_none hpair ha hd, hd, forwarded_none hs, fullyBuffered_none hs, mergeBits_none,
    Bool.false_eq_true, if_false, readWord_result]

theorem answer_load_ok (h : s.issues v (recMem true o) w c) (ht : (s.issueAt v (recMem true o) c).1 = t)
    (hp : c.pc < 0x1FFFFF) (hd : decodeAddr t.slotNo (effAddr c o) false = .mem a x)
    (hs : ∀ e ∈ t.ce.store, storeTarget e.addr ≠ some (a, x)) (hok : ((t.mem.code a x).cls x).ok = true)
    (hpair : n = 8 → o.rt.toNat % 2 = 0) (ha : effAddr c o % n = 0) {r : Ctx}
    (hr : c.loaded o.rt n (byteLane (t.readWord a x .load).2.2 (effAddr c o) n) = r) (hpc : r.pc = c.pc) :
    (.next (s.load v n o) : Out) = .next ((t.readWord a x .load).1.withRegs w 6 (r.step r.flags)) := by
  rw [answer_load h ht hpair ha hd hs, if_pos hok, hr]
  exact congrArg Host.Outcome.next (settle_next hp hpc)

end Load

theorem get64_lt (d : DWord) (lo n : Nat) : get64 d lo n < 2 ^ n := Nat.mod_lt _ (Nat.two_pow_pos n)

/-- Up to four bytes: the register gets them, zero-extended. -/
theorem loaded_part (c : Ctx) (rt : BitVec 4) (d : DWord) (addr : Nat) {n : Nat} (hn : n ≤ 4) :
    c.loaded rt n (byteLane d addr n) = c.set rt (BitVec.ofNat 32 (get64 d (8 * (addr % 8)) (8 * n))) := by
  have hlt := get64_lt d (8 * (addr % 8)) (8 * n)
  have h64 : 2 ^ (8 * n) ≤ 2 ^ 64 := Nat.pow_le_pow_right (by decide) (by omega)
  rw [Ctx.loaded, if_neg (by omega), byteLane, BitVec.toNat_ofNat, Nat.mod_eq_of_lt (a := get64 ..) (b := 2 ^ 64) (by omega),
    Nat.mod_eq_of_lt hlt]

/-- A whole word: the pair gets its halves. -/
theorem loaded_pair (c : Ctx) (rt : BitVec 4) (d : DWord) {addr : Nat} (ha : addr % 8 = 0) :
    c.loaded rt 8 (byteLane d addr 8) = (c.set rt (d.setWidth 32)).set (rt + 1) ((d >>> 32).setWidth 32) := by
  have whole : byteLane d addr 8 = d := by
    have hlt : d.toNat < 2 ^ 64 := d.isLt
    rw [byteLane, ha, get64, bitsAt, Nat.mod_eq_of_lt (by simpa using hlt)]
    simp
  rw [Ctx.loaded, if_pos rfl, whole]
  congr 1
  exact BitVec.eq_of_toNat_eq (by simp [Nat.shiftRight_eq_div_pow])

/-- Settles O18: the word is read from its array alone, and its bytes go to the registers. -/
theorem loads : Obligations.Loads := by
  intro s v w c o a x h hp t addr d u part hd hs
  refine ⟨fun hok => ⟨fun ha => ?_, fun ha => ?_, ?_, fun ha hpair => ?_⟩, fun hok ha => ?_⟩
  · exact answer_load_ok (n := 4) h rfl hp hd hs hok nofun ha (loaded_part c o.rt d addr (by decide)) rfl
  · exact answer_load_ok (n := 2) h rfl hp hd hs hok nofun ha (loaded_part c o.rt d addr (by decide)) rfl
  · exact answer_load_ok (n := 1) h rfl hp hd hs hok nofun (Nat.mod_one _) (loaded_part c o.rt d addr (by decide)) rfl
  · exact answer_load_ok h rfl hp hd hs hok (fun _ => hpair) ha (loaded_pair c o.rt d ha) rfl
  · change Host.Outcome.next (s.load v 4 o) = _
    rw [answer_load (n := 4) h rfl nofun ha hd hs, hok]
    rfl

/-! ### Stores (R109, R111, R153) -/

section Store
variable {s t : State} {v : Vote} {w : Who} {c : Ctx} {o : MemOp} {n : Nat}

/-- A store into a buffer with room joins it. -/
theorem bufferStore_room (hroom : t.ce.store.length < 8) (hcur : t.ce.cur = some w) (addr n : Nat) (d : DWord) :
    t.bufferStore w c addr n d = .done c.next 1 { t with ce.store := t.ce.store ++ [⟨addr, n, d, some w⟩] } := by
  unfold State.bufferStore
  simp [show ¬ 8 ≤ t.ce.store.length by omega, hcur]

theorem answer_store (h : s.issues v (recMem false o) w c) (ht : (s.issueAt v (recMem false o) c).1 = t)
    (hp : c.pc < 0x1FFFFF) (hd : ∃ a x, decodeAddr t.slotNo (effAddr c o) true = .mem a x)
    (hroom : t.ce.store.length < 8) (hcur : t.ce.cur = some w) (hpair : n = 8 → o.rt.toNat % 2 = 0)
    (ha : effAddr c o % n = 0) {x : Nat} (hx : (if n = 8 then (c.get o.rt).toNat + (c.get (o.rt + 1)).toNat * 2 ^ 32
      else (c.get o.rt).toNat % 2 ^ (8 * n)) = x) :
    (.next (s.store v n o) : Out) = .next (State.withRegs { t with ce.store := t.ce.store ++
      [⟨effAddr c o, n, BitVec.ofNat 64 x, some w⟩] } w 1 (c.step c.flags)) := by
  obtain ⟨a, y, hd⟩ := hd
  rw [State.store, execCc_of_issues h]
  simp only [ht, memTrap_none hpair ha hd, hd, hx, bufferStore_room hroom hcur]
  exact congrArg Host.Outcome.next (settle_next hp rfl)

end Store

/-- Settles O19: an aligned store whose buffer has room joins it with its bytes. -/
theorem stores : Obligations.Stores := by
  intro s v w c o h hp t addr lo hi puts hd hroom hcur
  have whole : lo % 2 ^ 32 = lo := Nat.mod_eq_of_lt (c.get o.rt).isLt
  refine ⟨fun ha => ?_, fun ha => ?_, ?_, fun ha hpair => ?_⟩
  · exact answer_store (n := 4) h rfl hp hd hroom hcur nofun ha whole
  · exact answer_store (n := 2) h rfl hp hd hroom hcur nofun ha rfl
  · exact answer_store (n := 1) h rfl hp hd hroom hcur nofun (Nat.mod_one _) rfl
  · exact answer_store h rfl hp hd hroom hcur (fun _ => hpair) ha rfl

end Sys2Proof.Machine
end

