-- ==== Sys2Proof/Proofs/Whole.lean ====
section
-- In order, not in parallel: each parallel thread reserves its whole stack of the check's memory.
set_option Elab.async false
/-! SUPPORT. The machine as a whole: its step, its answers, worked words and the state after reset. -/
namespace Sys2Proof.Machine

/-- Settles O1: the step by the front of the queue. -/
theorem stepRunsFront : Obligations.StepRunsFront := by
  intro s i rest h
  rw [step, h]

/-- Settles O2: every row of the dispatcher answers with a next state. -/
theorem everyCommandAnswers : Obligations.EveryCommandAnswers := by
  intro i s
  cases i <;> exact ⟨_, rfl⟩

/-- Settles O6, by evaluation of the decoder. -/
theorem workedWords : Obligations.WorkedWords := fun _ => ⟨rfl, rfl, rfl, rfl, rfl, rfl, rfl, rfl, rfl, rfl, rfl⟩

/-- Settles O31: nothing is listed, so every field and every word holds what an unlisted one holds. -/
theorem resetState : Obligations.ResetState :=
  ⟨rfl, by decide, by decide, rfl, rfl, rfl, rfl, rfl, by decide, by decide, rfl, rfl, rfl, rfl, fun _ => rfl,
    fun _ => ⟨rfl, rfl, rfl, rfl⟩⟩

end Sys2Proof.Machine
end

