-- ==== Sys2Proof/Proofs/Releases.lean ====
section
-- In order, not in parallel: each parallel thread reserves its whole stack of the check's memory.
set_option Elab.async false
/-! SUPPORT. How a release ends: END, traps, the budget abort and the overrun limit of spec/02_cycle_model.md (R43, R52 to
R57, R115, R119). -/
namespace Sys2Proof.Machine

/-! ### Single bits of register fields -/

theorem fld_setBit (s : State) (k j i : Nat) :
    (s.setBit k i).fld j = if j = k then s.fld k ||| BitVec.ofNat 32 (2 ^ i) else s.fld j := by
  simp only [State.setBit, fld_setFld]

theorem fld_setBit_other {s : State} {k j i : Nat} (h : j ≠ k) : (s.setBit k i).fld j = s.fld j := by
  rw [fld_setBit, if_neg h]

theorem bit_setBit_same (s : State) (k : Nat) {i : Nat} (hi : i < 32) : (s.setBit k i).bit k i = true := by
  simp only [State.bit, fld_setBit, if_true, BitVec.getLsbD_or, BitVec.getLsbD_ofNat, Nat.testBit_two_pow_self, hi,
    decide_true, Bool.and_true, Bool.or_true]

/-! ### The run-time records of the tasks -/

@[simp] theorem setTask_task_same (s : State) (w : Who) (t : TaskRt) : (s.setTask w t).ce.task w = t := by
  simp [State.setTask, Ce.task, Vector.get_eq_getElem]

theorem setTask_task_other (s : State) {w u : Who} (t : TaskRt) (h : u ≠ w) : (s.setTask w t).ce.task u = s.ce.task u := by
  have h' : w.val ≠ u.val := fun e => h (Fin.ext e.symm)
  simp [State.setTask, Ce.task, Vector.get_eq_getElem, h']

@[simp] theorem modTask_task_same (s : State) (w : Who) (f : TaskRt → TaskRt) :
    (s.modTask w f).ce.task w = f (s.ce.task w) := setTask_task_same s w _

theorem modTask_task_other (s : State) {w u : Who} (f : TaskRt → TaskRt) (h : u ≠ w) :
    (s.modTask w f).ce.task u = s.ce.task u := setTask_task_other s _ h

/-- A change of a task's record changes no register. -/
@[simp] theorem fld_modTask (s : State) (w : Who) (f : TaskRt → TaskRt) (k : Nat) : (s.modTask w f).fld k = s.fld k := rfl

/-! ### The store buffer, empty -/

theorem storeFront_nil {s : State} (h : s.ce.store = []) : s.storeFront = s := by
  simp only [State.storeFront, State.writeOldest, h]

theorem drain_nil {s : State} (h : s.ce.store = []) (n : Nat) : State.drain n s = s := by
  induction n with
  | zero => rfl
  | succ n ih => rw [State.drain, storeFront_nil h, ih]

theorem drainAll_nil {s : State} (h : s.ce.store = []) : s.drainAll = s := drain_nil h 8

/-! ### Dispatch with nothing in the store buffer (R43) -/

/-- The next release executes, and CE_STAT shows it. -/
def State.nextRuns (s : State) : State :=
  match s.toRun with
  | some w => if w.val < 8 then { s with ce.cur := s.toRun }.setFld Reg.CE_STAT_RUNNING (BitVec.ofNat 32 w.val)
      else { s with ce.cur := s.toRun }
  | none => { s with ce.cur := s.toRun }

theorem dispatch_nil {s : State} (h : s.ce.store = []) : s.dispatch = s.ceIdle ∨ s.dispatch = s.nextRuns.ceIdle := by
  unfold State.dispatch State.nextRuns
  split
  · exact .inl rfl
  · rw [drainAll_nil h]
    exact .inr rfl

theorem nextRuns_frame (s : State) : s.nextRuns.mode = s.mode ∧ s.nextRuns.mem = s.mem ∧
    s.nextRuns.ce.tasks = s.ce.tasks ∧ ∀ k, k ≠ Reg.CE_STAT_RUNNING → s.nextRuns.fld k = s.fld k := by
  unfold State.nextRuns
  split
  · split
    · exact ⟨rfl, rfl, rfl, fun k hk => fld_setFld_other hk⟩
    · exact ⟨rfl, rfl, rfl, fun _ _ => rfl⟩
  · exact ⟨rfl, rfl, rfl, fun _ _ => rfl⟩

theorem fld_ceIdle {s : State} {k : Nat} (h : k ≠ Reg.CE_STAT_IDLE) : s.ceIdle.fld k = s.fld k := by
  rw [State.ceIdle, fld_flag, if_neg h]

/-- With nothing in the store buffer a dispatch changes who executes, and CE_STAT. -/
theorem dispatch_nil_frame {s : State} (h : s.ce.store = []) : s.dispatch.mode = s.mode ∧ s.dispatch.mem = s.mem ∧
    s.dispatch.ce.tasks = s.ce.tasks ∧
    ∀ k, k ≠ Reg.CE_STAT_RUNNING → k ≠ Reg.CE_STAT_IDLE → s.dispatch.fld k = s.fld k := by
  obtain ⟨hm, hmem, ht, hf⟩ := nextRuns_frame s
  rcases dispatch_nil h with e | e <;> rw [e]
  · exact ⟨rfl, rfl, rfl, fun k _ hi => fld_ceIdle hi⟩
  · exact ⟨hm, hmem, ht, fun k hr hi => (fld_ceIdle hi).trans (hf k hr)⟩

/-! ### A release that is killed (R56) -/

theorem abortWd_nil {s : State} (h : s.wd = []) (p : WSrc → Bool) : s.abortWd p = s := by
  unfold State.abortWd
  simp only [h, List.filter_nil, List.foldl_nil]
  rw [← h]

section Killed
variable {s : State} (h : s.wd = []) (w : Who)
include h

/-- What killing a release changes where no dangerous write is pending. -/
theorem killRelease_eq : s.killRelease w = State.ceIdle { s with ce := { s.ce with
    store := s.ce.store.map (fun e => if e.who = some w then { e with who := none } else e)
    tasks := s.ce.tasks.set w { s.ce.task w with ready := false, waiting := none }
    cur := if s.ce.cur = some w then none else s.ce.cur } } := by
  unfold State.killRelease
  dsimp only
  rw [abortWd_nil (s := (s.orphanStores w).modTask w _) h]
  rfl

theorem killRelease_mode : (s.killRelease w).mode = s.mode := by rw [killRelease_eq h]; rfl
theorem killRelease_mem : (s.killRelease w).mem = s.mem := by rw [killRelease_eq h]; rfl
theorem killRelease_store_nil (hs : s.ce.store = []) : (s.killRelease w).ce.store = [] := by
  rw [killRelease_eq h]
  change s.ce.store.map _ = []
  rw [hs, List.map_nil]
theorem fld_killRelease {k : Nat} (hk : k ≠ Reg.CE_STAT_IDLE) : (s.killRelease w).fld k = s.fld k := by
  rw [killRelease_eq h, fld_ceIdle hk, fld_with]

theorem killRelease_task_same : (s.killRelease w).ce.task w = { s.ce.task w with ready := false, waiting := none } := by
  rw [killRelease_eq h]
  exact setTask_task_same s w _

theorem killRelease_task_other {u : Who} (hu : u ≠ w) : (s.killRelease w).ce.task u = s.ce.task u := by
  rw [killRelease_eq h]
  exact setTask_task_other s _ hu

end Killed

/-! ### CE_TRAPINFO -/

theorem fld_trapInfo_other {s : State} {n c i k : Nat} (h1 : k ≠ Reg.CE_TRAPINFO_CAUSE n)
    (h2 : k ≠ Reg.CE_TRAPINFO_INDEX n) (h3 : k ≠ Reg.CE_TRAPINFO_SLOT n) : (s.trapInfo n c i).fld k = s.fld k := by
  rw [State.trapInfo, fld_setFld_other h3, fld_setFld_other h2, fld_setFld_other h1]

/-- CE_TRAPINFO names cause, index and slot. -/
theorem fld_trapInfo (s : State) (n c i : Nat) : (s.trapInfo n c i).fld (Reg.CE_TRAPINFO_CAUSE n) = BitVec.ofNat 32 c ∧
    (s.trapInfo n c i).fld (Reg.CE_TRAPINFO_INDEX n) = BitVec.ofNat 32 i ∧
    (s.trapInfo n c i).fld (Reg.CE_TRAPINFO_SLOT n) = BitVec.ofNat 32 s.slotNo := by
  have hci : Reg.CE_TRAPINFO_CAUSE n ≠ Reg.CE_TRAPINFO_INDEX n := by simp only [Reg.CE_TRAPINFO_CAUSE, Reg.CE_TRAPINFO_INDEX, fk]; omega
  have hcs : Reg.CE_TRAPINFO_CAUSE n ≠ Reg.CE_TRAPINFO_SLOT n := by simp only [Reg.CE_TRAPINFO_CAUSE, Reg.CE_TRAPINFO_SLOT, fk]; omega
  have his : Reg.CE_TRAPINFO_INDEX n ≠ Reg.CE_TRAPINFO_SLOT n := by simp only [Reg.CE_TRAPINFO_INDEX, Reg.CE_TRAPINFO_SLOT, fk]; omega
  unfold State.trapInfo
  refine ⟨?_, ?_, fld_setFld_same _ _ _⟩
  · rw [fld_setFld_other hcs, fld_setFld_other hci, fld_setFld_same]
  · rw [fld_setFld_other his, fld_setFld_same]

/-! ### Traps, the budget abort and the overrun limit -/

theorem policyOf_eq {s t : State} {n : Nat} (h : t.fld (Reg.CE_TASKCFG_POLICY n) = s.fld (Reg.CE_TASKCFG_POLICY n)) :
    t.policyOf n = s.policyOf n := by
  unfold State.policyOf; rw [h]

theorem applyPolicy_continue {s : State} {n : Nat} (h : s.policyOf n = 0) : s.applyPolicy n = s := by
  simp only [State.applyPolicy, h, OfNat.zero_ne_ofNat, zero_ne_one, if_false]

/-- The fields of CE_TRAPINFO and CE_TASKCFG lie apart from the fields that a trap or a dispatch writes besides. -/
theorem taskKeys_apart {n : Nat} (hn : n < 8) : ∀ k ∈ [Reg.CE_TRAPINFO_CAUSE n, Reg.CE_TRAPINFO_INDEX n,
    Reg.CE_TRAPINFO_SLOT n, Reg.CE_TASKCFG_POLICY n, Reg.CE_TASKCFG_ENABLE n], logKey k = false ∧ k ≠ Reg.CE_EVT_TRAP ∧
      k ≠ Reg.CE_EVT_BUDGET ∧ k ≠ Reg.CE_BUDCNT n ∧ k ≠ Reg.CE_STAT_IDLE ∧ k ≠ Reg.CE_STAT_RUNNING ∧ k ≠ Reg.CE_STAT_STOPPED := by
  revert n; decide

theorem policyKey_ne_trapInfo {n : Nat} : Reg.CE_TASKCFG_POLICY n ≠ Reg.CE_TRAPINFO_CAUSE n ∧
    Reg.CE_TASKCFG_POLICY n ≠ Reg.CE_TRAPINFO_INDEX n ∧ Reg.CE_TASKCFG_POLICY n ≠ Reg.CE_TRAPINFO_SLOT n := by
  simp only [Reg.CE_TASKCFG_POLICY, Reg.CE_TRAPINFO_CAUSE, Reg.CE_TRAPINFO_INDEX, Reg.CE_TRAPINFO_SLOT, fk]; omega

/-- What a trap leaves before its record: the release killed, CE_TRAPINFO and the event bit written. -/
def State.trapped (s : State) (w : Who) (cause index : Nat) : State :=
  ((s.killRelease w).trapInfo w.val cause index).setBit Reg.CE_EVT_TRAP w.val

section Trapped
variable {s : State} (h : s.wd = []) {w : Who} (hw : w.val < 8) (c i : Nat)
include h hw

theorem fld_trapped_policy : (s.trapped w c i).fld (Reg.CE_TASKCFG_POLICY w.val) = s.fld (Reg.CE_TASKCFG_POLICY w.val) := by
  obtain ⟨-, ht, -, -, hi, -⟩ := taskKeys_apart hw (Reg.CE_TASKCFG_POLICY w.val) (by simp)
  obtain ⟨h1, h2, h3⟩ := @policyKey_ne_trapInfo w.val
  rw [State.trapped, fld_setBit_other ht, fld_trapInfo_other h1 h2 h3, fld_killRelease h w hi]

theorem fld_trapped_info : (s.trapped w c i).fld (Reg.CE_TRAPINFO_CAUSE w.val) = BitVec.ofNat 32 c ∧
    (s.trapped w c i).fld (Reg.CE_TRAPINFO_INDEX w.val) = BitVec.ofNat 32 i ∧
    (s.trapped w c i).fld (Reg.CE_TRAPINFO_SLOT w.val) = BitVec.ofNat 32 s.slotNo := by
  obtain ⟨h1, h2, h3⟩ := fld_trapInfo (s.killRelease w) w.val c i
  have slot : (s.killRelease w).slotNo = s.slotNo := by
    unfold State.slotNo; rw [fld_killRelease h w (by decide)]
  have apart := taskKeys_apart hw
  rw [slot] at h3
  unfold State.trapped
  rw [fld_setBit_other (apart _ (by simp)).2.1, fld_setBit_other (apart _ (by simp)).2.1,
    fld_setBit_other (apart _ (by simp)).2.1]
  exact ⟨h1, h2, h3⟩

end Trapped

/-- The record of a trap; T7 starts again after the next boundary (R57, R115). -/
def State.trapRecorded (t : State) (w : Who) (cause index : Nat) : State :=
  let r := t.report .o .fault (evCode 3 56 0) (srcNo 3 w.val) ([BitVec.ofNat 8 w.val, BitVec.ofNat 8 cause] ++ leBytes 4 index)
  if w.val = 7 then r.modTask w (fun y => { y with resumeAfter := r.time.tick }) else r

/-- A trap of a task is its release killed and shown, its record and its policy. -/
theorem trap_eq {w : Who} (h : w ≠ 8) (s : State) (x : TrapCode) (i : Nat) :
    s.trap w x i = ((s.trapped w x.code i).trapRecorded w x.code i).applyPolicy w.val := by
  unfold State.trap
  rw [if_neg h]
  rfl

section Recorded
variable (t : State) (w : Who) (c i : Nat)

theorem trapRecorded_cases : ∃ p, let r := t.report .o .fault (evCode 3 56 0) (srcNo 3 w.val) p
    t.trapRecorded w c i = r ∨ t.trapRecorded w c i = r.modTask w (fun y => { y with resumeAfter := r.time.tick }) := by
  refine ⟨[BitVec.ofNat 8 w.val, BitVec.ofNat 8 c] ++ leBytes 4 i, ?_⟩
  unfold State.trapRecorded
  split
  · exact .inr rfl
  · exact .inl rfl

theorem fld_trapRecorded {k : Nat} (hk : logKey k = false) : (t.trapRecorded w c i).fld k = t.fld k := by
  obtain ⟨p, e | e⟩ := trapRecorded_cases t w c i <;> rw [e]
  · exact fld_report _ _ _ _ _ _ _ (by decide) hk
  · exact fld_report _ _ _ _ _ _ _ (by decide) hk

theorem trapRecorded_mode : (t.trapRecorded w c i).mode = t.mode := by
  obtain ⟨p, e | e⟩ := trapRecorded_cases t w c i <;> rw [e] <;> exact report_mode ..

theorem trapRecorded_mem : (t.trapRecorded w c i).mem = t.mem := by
  obtain ⟨p, e | e⟩ := trapRecorded_cases t w c i <;> rw [e] <;> exact report_mem ..

theorem trapRecorded_ready : ((t.trapRecorded w c i).ce.task w).ready = (t.ce.task w).ready := by
  obtain ⟨p, e | e⟩ := trapRecorded_cases t w c i <;> rw [e]
  · rw [report_ce]
  · rw [modTask_task_same, report_ce]

theorem trapRecorded_task_other {u : Who} (hu : u ≠ w) : (t.trapRecorded w c i).ce.task u = t.ce.task u := by
  obtain ⟨p, e | e⟩ := trapRecorded_cases t w c i <;> rw [e]
  · rw [report_ce]
  · rw [modTask_task_other _ _ hu, report_ce]

end Recorded

/-- Under policy CONTINUE nothing follows the record of a trap (R56). -/
theorem trap_continue {s : State} (h : s.wd = []) {w : Who} (hw : w.val < 8) (hp : s.policyOf w.val = 0) (x : TrapCode)
    (i : Nat) : s.trap w x i = (s.trapped w x.code i).trapRecorded w x.code i := by
  rw [trap_eq (by rintro rfl; exact absurd hw (by decide))]
  refine applyPolicy_continue ((policyOf_eq ?_).trans hp)
  rw [fld_trapRecorded _ _ _ _ (taskKeys_apart hw _ (by simp)).1, fld_trapped_policy h hw]

theorem toNat_ofNat_lt {n k : Nat} (h : n < 2 ^ k) : (BitVec.ofNat k n).toNat = n := by
  rw [BitVec.toNat_ofNat, Nat.mod_eq_of_lt h]

theorem TrapCode.code_lt (x : TrapCode) : x.code < 2 ^ 32 := by cases x <;> decide

/-- Settles O23: the trap is the killed release with CE_TRAPINFO, the event bit and the record written, and the policy does
nothing. -/
theorem trapTaken : Obligations.TrapTaken := by
  intro s n w x i hn hi hp hwd t
  have hw : w.val < 8 := hn ▸ n.isLt
  rw [← hn] at hp ⊢
  simp only [t, trap_continue hwd hw hp, trapRecorded_mode, trapRecorded_mem, trapRecorded_ready]
  obtain ⟨cause, index, slot⟩ := fld_trapped_info hwd hw x.code i
  have apart := taskKeys_apart hw
  refine ⟨?_, ?_, ?_, ?_, killRelease_mode hwd w, killRelease_mem hwd w, ?_, fun u hu => ?_⟩
  · rw [fld_trapRecorded _ _ _ _ (apart _ (by simp)).1, cause, toNat_ofNat_lt x.code_lt]
  · rw [fld_trapRecorded _ _ _ _ (apart _ (by simp)).1, index, toNat_ofNat_lt (by omega)]
  · rw [fld_trapRecorded _ _ _ _ (apart _ (by simp)).1, slot, toNat_ofNat_lt]
    exact (s.fld Reg.CE_STAT_SLOT).isLt
  · rw [State.bit, fld_trapRecorded _ _ _ _ (by decide)]
    exact bit_setBit_same _ _ (by omega)
  · exact congrArg TaskRt.ready (killRelease_task_same hwd w)
  · rw [trapRecorded_task_other _ _ _ _ hu]
    exact killRelease_task_other hwd w hu

/-! ### END (R52, R115, R116, R162) -/

/-- What END does with the release once the store buffer is empty. -/
def State.ended (u : State) (w : Who) : State :=
  if w = 8 then u.endInit else if w = 7 then u.completeT7 else u.completeRelease w

/-- END with nothing in the store buffer takes one clock, ends what executes, and dispatches the next (R52, R162). -/
theorem exec_endRelease {s : State} {v : Vote} {w : Who} {c : Ctx} (h : s.issues v recCommit w c)
    (hs : (s.issueAt v recCommit c).1.ce.store = []) (hc : (s.issueAt v recCommit c).1.ce.cur = some w) :
    exec (.endRelease v) s = .next (((s.issueAt v recCommit c).1.withRegs w 1 (c.step c.flags)).ended w).dispatch := by
  change execEndRelease v s = _
  unfold execEndRelease
  rw [execCc_of_issues h]
  generalize (s.issueAt v recCommit c).1 = t at hs hc ⊢
  have clocks : t.endClocks = (1, t) := by simp [State.endClocks, State.drainClocks, hs]
  have drained : (t.addClocks w 1).drainAll = t.addClocks w 1 := drainAll_nil hs
  simp only [clocks, drained, if_neg (show ¬ (t.addClocks w 1).ce.cur ≠ some w from fun hn => hn hc), addClocks_ctx]
  unfold State.ended
  split
  · rfl
  · split <;> rfl

/-! ### The measure of a completed release (R44, R52) -/

theorem lastclk_ne_maxclk {n : Nat} (hn : n < 7) : Reg.CE_LASTCLK n ≠ Reg.CE_MAXCLK n := by
  revert n; decide

theorem satAdd_zero {k : Nat} (h : k < 2 ^ 32) : satAdd 0 k = BitVec.ofNat 32 k := by
  have h' : (0 : Word).toNat + k < 2 ^ 32 := by simpa using h
  rw [satAdd, if_pos h']
  simp

theorem measure_keys {n : Nat} (hn : n < 7) (s : State) {k : Nat} (hk : k < 2 ^ 32) :
    ((s.measure n k).fld (Reg.CE_LASTCLK n)).toNat = k ∧
    ((s.measure n k).fld (Reg.CE_MAXCLK n)).toNat = max k (s.fld (Reg.CE_MAXCLK n)).toNat := by
  have hne := lastclk_ne_maxclk hn
  simp only [State.measure, satAdd_zero hk, fld_setFld_other hne.symm, toNat_ofNat_lt hk]
  split
  · next h => rw [fld_setFld_other hne, fld_setFld_same, fld_setFld_same, toNat_ofNat_lt hk]; omega
  · next h => rw [fld_setFld_same, fld_setFld_other hne.symm, toNat_ofNat_lt hk]; omega

theorem measure_cases (s : State) (n k : Nat) : ∃ c, s.measure n k = s.setFld (Reg.CE_LASTCLK n) c ∨
    s.measure n k = (s.setFld (Reg.CE_LASTCLK n) c).setFld (Reg.CE_MAXCLK n) c := by
  refine ⟨satAdd 0 k, ?_⟩
  unfold State.measure
  dsimp only
  split
  · exact .inr rfl
  · exact .inl rfl

theorem measure_frame (s : State) (n k : Nat) : (s.measure n k).mode = s.mode ∧ (s.measure n k).wd = s.wd ∧
    ∀ j, j ≠ Reg.CE_LASTCLK n → j ≠ Reg.CE_MAXCLK n → (s.measure n k).fld j = s.fld j := by
  obtain ⟨c, e | e⟩ := measure_cases s n k <;> rw [e]
  · exact ⟨rfl, rfl, fun j h1 _ => fld_setFld_other h1⟩
  · exact ⟨rfl, rfl, fun j h1 h2 => by rw [fld_setFld_other h2, fld_setFld_other h1]⟩

/-- The keys that decide what a completed release does with its outputs lie apart from those it writes. -/
theorem commitKeys_apart {n : Nat} (hn : n < 7) : ∀ k ∈ [Reg.COL_STAT_STATE, Reg.CE_TASKCFG_COMMIT_AT n],
    k ≠ Reg.CE_LASTCLK n ∧ k ≠ Reg.CE_MAXCLK n ∧ k ≠ Reg.CE_STAT_IDLE := by
  revert n; decide

/-- A completed release of a BOUNDARY task is held for the next boundary (R44). -/
theorem completeRelease_held {s : State} {w : Who} (hw : w.val < 7) (hm : s.mode = .run) (hc : s.colState ≠ colSyncStandby)
    (hb : s.fld (Reg.CE_TASKCFG_COMMIT_AT w.val) = 1) (hwd : s.wd = []) :
    ((s.completeRelease w).ce.task w).held = true ∧ ((s.completeRelease w).ce.task w).ready = false := by
  obtain ⟨mode, wd, fld⟩ := measure_frame s w.val (s.ce.task w).clocks
  have apart := commitKeys_apart hw
  unfold State.completeRelease
  dsimp only
  generalize s.measure w.val (s.ce.task w).clocks = t at mode wd fld ⊢
  have hwd' : t.wd = [] := wd.trans hwd
  have killed : ∀ k ∈ [Reg.COL_STAT_STATE, Reg.CE_TASKCFG_COMMIT_AT w.val], (t.killRelease w).fld k = s.fld k := by
    intro k hk
    obtain ⟨h1, h2, h3⟩ := apart k hk
    rw [fld_killRelease hwd' w h3, fld k h1 h2]
  have commits : (t.killRelease w).commitsNow = true := by
    have hcol : (t.killRelease w).colState = s.colState := congrArg BitVec.toNat (killed _ (by simp))
    rw [State.commitsNow, hcol, if_neg hc, killRelease_mode hwd' w, mode, hm]
    decide
  rw [commits, if_neg (by decide), killed _ (by simp), if_pos hb, modTask_task_same, killRelease_task_same hwd' w]
  exact ⟨rfl, rfl⟩

/-- Settles O22: END is evaluated with nothing to drain; the counts are those of `measure`, and a held commit is that of a
BOUNDARY task in RUN. -/
theorem releaseEndsAndIsMeasured : Obligations.ReleaseEndsAndIsMeasured := by
  refine ⟨fun s v w c h hs hc => ?_, fun s n k hk => measure_keys n.isLt s hk, fun s n w hn hm hc hb hwd => ?_⟩
  · have hend := exec_endRelease h hs hc
    refine ⟨fun h7 => hend.trans ?_, fun h7 => hend.trans ?_, fun h8 => hend.trans ?_⟩
    · rw [State.ended, if_neg (by rintro rfl; exact absurd h7 (by decide)), if_neg (by rintro rfl; exact absurd h7 (by decide))]
    · subst h7; rfl
    · subst h8; rfl
  · exact completeRelease_held (hn ▸ n.isLt) hm hc (hn ▸ hb) hwd

end Sys2Proof.Machine
end

