-- ==== Sys2Proof/Proofs/Core.lean ====
section
-- In order, not in parallel: each parallel thread reserves its whole stack of the check's memory.
set_option Elab.async false
/-! SUPPORT. The core of the module, which the units around it leave alone: the modes, the Cycle Engine, the Saddle, the
supervisor, power, field and safety units and the registers of the pages SYS, CV and CE. -/
namespace Sys2Proof.Machine

/-- The parts of the state that the units around the Cycle Engine leave alone. -/
structure Core where
  mode : Mode
  pending : List Instr
  holding : Sparse Word
  wd : List WdWrite
  time : Time
  ce : Ce
  cv : Saddle
  sup : Sup
  field : FieldUnit
  sf : SafetyUnit
  pwr : Pwr
  low : Nat → Word

/-- The first key after the pages SYS, CV and CE. -/
def coreEnd : Nat := fk 0x03 0 0

/-- The core of a state. SYS_MODE.PAIR belongs to the pair. -/
def State.core (s : State) : Core :=
  ⟨s.mode, s.pending, s.holding, s.wd, s.time, s.ce, s.cv, s.sup, s.field, s.sf, s.pwr,
    fun k => if k < coreEnd ∧ k ≠ Reg.SYS_MODE_PAIR then s.fld k else 0⟩

theorem le_fk {p o l : Nat} (h : 3 ≤ p) : coreEnd ≤ fk p o l := by
  unfold coreEnd fk; omega

section Frame
variable {s t : State} (h : t.core = s.core)
include h

theorem core_mode : t.mode = s.mode := congrArg Core.mode h
theorem core_pending : t.pending = s.pending := congrArg Core.pending h
theorem core_wd : t.wd = s.wd := congrArg Core.wd h
theorem core_time : t.time = s.time := congrArg Core.time h
theorem core_ce : t.ce = s.ce := congrArg Core.ce h
theorem core_cv : t.cv = s.cv := congrArg Core.cv h
theorem core_sup : t.sup = s.sup := congrArg Core.sup h
theorem core_field : t.field = s.field := congrArg Core.field h
theorem core_sf : t.sf = s.sf := congrArg Core.sf h
theorem core_pwr : t.pwr = s.pwr := congrArg Core.pwr h
theorem core_fld {k : Nat} (hk : k < coreEnd ∧ k ≠ Reg.SYS_MODE_PAIR) : t.fld k = s.fld k := by
  simpa only [State.core, if_pos hk] using congrFun (congrArg Core.low h) k

end Frame

/-- Parts of the state outside the core. -/
@[simp] theorem core_with (x y : State) (a3 : Sparse Word) (a6 : Nat) (a8 : Mem) (a9 : Images) (a12 : Cairn) (a13 : Cmd)
    (a15 : Rings) (a16 : Fi) (a17 : Net) (a18 : Bus) (a19 : Ridge) (a20 : Col) (a24 : Trig) (a25 : List Emit) :
    State.core ⟨x.pending, x.mode, y.regs, a3, x.holding, x.wd, a6, x.time, a8, a9, x.ce, x.cv, a12, a13, x.sup, a15, a16,
      a17, a18, a19, a20, x.field, x.sf, x.pwr, a24, a25⟩ = { x.core with low := y.core.low } := rfl

theorem setFld_core (s : State) {k : Nat} (v : Word) (hk : k = Reg.SYS_MODE_PAIR ∨ coreEnd ≤ k) : (s.setFld k v).core = s.core := by
  have low : ∀ j, (if j < coreEnd ∧ j ≠ Reg.SYS_MODE_PAIR then (s.setFld k v).fld j else 0) =
      if j < coreEnd ∧ j ≠ Reg.SYS_MODE_PAIR then s.fld j else 0 := by
    intro j
    split
    · next hj =>
      rw [fld_setFld_other]
      rintro rfl
      rcases hk with rfl | hk
      · exact hj.2 rfl
      · exact absurd hj.1 (by omega)
    · rfl
  unfold State.core
  rw [funext low]
  rfl

/-! ### The keys of the units' registers -/

@[simp] theorem processImageKeys_unit :
    coreEnd ≤ Reg.PI_STAT_FORCES ∧ coreEnd ≤ Reg.PI_STAT_FORCE_ACTIVE ∧ coreEnd ≤ Reg.PI_STAT_FORCE_PENDING ∧
    coreEnd ≤ Reg.PI_STAT_LOST_SRC := by
  and_intros <;> exact le_fk (by omega)

@[simp] theorem protectedStoreKeys_unit :
    coreEnd ≤ Reg.PS_CE_ADDR_ADDR ∧ coreEnd ≤ Reg.PS_UE_ADDR_ADDR ∧ coreEnd ≤ Reg.PS_UE_INFO_KIND ∧
    coreEnd ≤ Reg.PS_UE_INFO_MASTER ∧ coreEnd ≤ Reg.PS_UE_INFO_SYNDROME ∧ coreEnd ≤ Reg.PS_UE_INFO_ARRAY ∧
    coreEnd ≤ Reg.PS_EVT_CE ∧ coreEnd ≤ Reg.PS_EVT_UE ∧ coreEnd ≤ Reg.PS_EVT_POISON ∧ coreEnd ≤ Reg.PS_CE_CNT ∧
    coreEnd ≤ Reg.PS_UE_CNT ∧ coreEnd ≤ Reg.PS_ADDRERR_CNT ∧ coreEnd ≤ Reg.PS_POISON_CNT ∧
    coreEnd ≤ Reg.PS_POISONRD_CNT ∧ coreEnd ≤ Reg.PS_STOREERR_CNT ∧ coreEnd ≤ Reg.PS_WBCANCEL_CNT ∧
    coreEnd ≤ Reg.PS_PRG_CE_CNT ∧ coreEnd ≤ Reg.PS_PRG_UE_CNT ∧ coreEnd ≤ Reg.PS_IMG_CE_CNT ∧
    coreEnd ≤ Reg.PS_IMG_UE_CNT := by
  and_intros <;> exact le_fk (by omega)

@[simp] theorem retentiveStoreKeys_unit :
    coreEnd ≤ Reg.MS_CE_ADDR_ADDR ∧ coreEnd ≤ Reg.MS_UE_ADDR_ADDR ∧ coreEnd ≤ Reg.MS_UE_INFO_KIND ∧
    coreEnd ≤ Reg.MS_UE_INFO_MASTER ∧ coreEnd ≤ Reg.MS_UE_INFO_SYNDROME ∧ coreEnd ≤ Reg.MS_EVT_CE ∧
    coreEnd ≤ Reg.MS_EVT_UE ∧ coreEnd ≤ Reg.MS_EVT_POISON ∧ coreEnd ≤ Reg.MS_CE_CNT ∧ coreEnd ≤ Reg.MS_UE_CNT ∧
    coreEnd ≤ Reg.MS_ADDRERR_CNT ∧ coreEnd ≤ Reg.MS_POISON_CNT ∧ coreEnd ≤ Reg.MS_POISONRD_CNT ∧
    coreEnd ≤ Reg.MS_STOREERR_CNT ∧ coreEnd ≤ Reg.MS_WBCANCEL_CNT := by
  and_intros <;> exact le_fk (by omega)

@[simp] theorem ringKeys_at_unit (n : Nat) :
    coreEnd ≤ Reg.RNG_STAT_HALTED n ∧ coreEnd ≤ Reg.RNG_EVT_DONE n ∧ coreEnd ≤ Reg.RNG_EVT_HALT n ∧
    coreEnd ≤ Reg.RNG_EVT2_POSTERR n ∧ coreEnd ≤ Reg.RNG_EVT2_DROP n ∧ coreEnd ≤ Reg.RNG_CFG_ENABLE n ∧
    coreEnd ≤ Reg.RNG_CFG_POLICY n ∧ coreEnd ≤ Reg.RNG_PTR_HEAD n ∧ coreEnd ≤ Reg.RNG_PTR_TAIL n ∧
    coreEnd ≤ Reg.RNG_RSTAT_HALTED n ∧ coreEnd ≤ Reg.RNG_RSTAT_CAUSE n ∧ coreEnd ≤ Reg.RNG_RSTAT_HOLD n ∧
    coreEnd ≤ Reg.RNG_HALTADDR_ADDR n ∧ coreEnd ≤ Reg.RNG_SEQ n ∧ coreEnd ≤ Reg.RNG_DROPCNT n ∧
    coreEnd ≤ Reg.RNG_TRUNCCNT n ∧ coreEnd ≤ Reg.RNG_DONECNT n := by
  and_intros <;> exact le_fk (by omega)

@[simp] theorem switchKeys_unit :
    coreEnd ≤ Reg.ESW_ETBSTAT_BACKUP := by
  exact le_fk (by omega)

@[simp] theorem switchKeys_at_unit (n : Nat) :
    coreEnd ≤ Reg.ESW_TXCNT n ∧ coreEnd ≤ Reg.ESW_DROPCNT n := by
  and_intros <;> exact le_fk (by omega)

@[simp] theorem ridgeKeys_unit :
    coreEnd ≤ Reg.RDG_IRQDROPCNT := by
  exact le_fk (by omega)

@[simp] theorem colKeys_unit :
    coreEnd ≤ Reg.COL_CTRL_ENABLE ∧ coreEnd ≤ Reg.COL_STAT_STATE ∧ coreEnd ≤ Reg.COL_STAT_LANE1_UP ∧
    coreEnd ≤ Reg.COL_STAT_LANE2_UP ∧ coreEnd ≤ Reg.COL_STAT_SWAP_PENDING ∧ coreEnd ≤ Reg.COL_STAT_EPOCH ∧
    coreEnd ≤ Reg.COL_DIRTY_PAGES ∧ coreEnd ≤ Reg.COL_EVT_JOIN_ABORT ∧ coreEnd ≤ Reg.COL_JOINFAILCNT := by
  and_intros <;> exact le_fk (by omega)

@[simp] theorem channelKeys_at_unit (n : Nat) :
    coreEnd ≤ Reg.FCH_STAT_OPEN n ∧ coreEnd ≤ Reg.FCH_STAT_EXT_VOLTAGE n ∧ coreEnd ≤ Reg.FCH_STAT_OVERLOAD n ∧
    coreEnd ≤ Reg.FCH_STAT_THERMAL n ∧ coreEnd ≤ Reg.FCH_STAT_GROUP_OVERLOAD n ∧ coreEnd ≤ Reg.FCH_DIAG_OPEN n ∧
    coreEnd ≤ Reg.FCH_DIAG_EXT_VOLTAGE n ∧ coreEnd ≤ Reg.FCH_DIAG_OVERLOAD n ∧ coreEnd ≤ Reg.FCH_DIAG_THERMAL n ∧
    coreEnd ≤ Reg.FCH_DIAG_GROUP_OVERLOAD n := by
  and_intros <;> exact le_fk (by omega)

@[simp] theorem logKeys_unit :
    coreEnd ≤ Reg.LOG_EVT_DROP_D ∧ coreEnd ≤ Reg.LOG_EVT_DROP_O ∧ coreEnd ≤ Reg.LOG_EVT_SRC_DROP ∧
    coreEnd ≤ Reg.LOG_DROPCNT_D ∧ coreEnd ≤ Reg.LOG_DROPCNT_O := by
  and_intros <;> exact le_fk (by omega)

@[simp] theorem logKeys_at_unit (n : Nat) :
    coreEnd ≤ Reg.LOG_SRCDROP n := by
  exact le_fk (by omega)

@[simp] theorem injectorKeys_unit :
    coreEnd ≤ Reg.FI_STAT_PERMIT ∧ coreEnd ≤ Reg.FI_STAT_PERMIT_LEFT ∧ coreEnd ≤ Reg.FI_EVT_PERMIT_ENDED ∧
    coreEnd ≤ Reg.FI_EVT_HELD_LOST ∧ coreEnd ≤ Reg.FI_HELDLOSTCNT := by
  and_intros <;> exact le_fk (by omega)

@[simp] theorem injectorKeys_at_unit (n : Nat) :
    coreEnd ≤ Reg.FI_CFG_KIND n ∧ coreEnd ≤ Reg.FI_CFG_SELECT n ∧ coreEnd ≤ Reg.FI_CFG_HOLDING n ∧
    coreEnd ≤ Reg.FI_CFG_HELD n ∧ coreEnd ≤ Reg.FI_NPAR n ∧ coreEnd ≤ Reg.FI_APAR n ∧ coreEnd ≤ Reg.FI_INJCNT n := by
  and_intros <;> exact le_fk (by omega)

@[simp] theorem commandKeys_unit :
    coreEnd ≤ Reg.CMD_STAT_LONG_OP ∧ coreEnd ≤ Reg.CMD_STAT_CFG_EDIT ∧ coreEnd ≤ Reg.CMD_STAT_ARMED ∧
    coreEnd ≤ Reg.CMD_STAT_LOCKED ∧ coreEnd ≤ Reg.CMD_CRCERR_CNT ∧ coreEnd ≤ Reg.CMD_AUTHFAIL_CNT ∧
    coreEnd ≤ Reg.CMD_BUSY_CNT := by
  and_intros <;> exact le_fk (by omega)

/-! ### Writes of registers of the units -/

section Units
variable (s : State) {k : Nat} (n : Nat) (v : Word) (b : Bool)

@[simp] theorem setFld_unit_core (hk : coreEnd ≤ k) : (s.setFld k v).core = s.core := setFld_core s v (.inr hk)
@[simp] theorem flag_core (hk : coreEnd ≤ k) : (s.flag k b).core = s.core := setFld_core s _ (.inr hk)
@[simp] theorem bump_core (hk : coreEnd ≤ k) : (s.bump k).core = s.core := setFld_core s _ (.inr hk)
@[simp] theorem bumpBy_core (hk : coreEnd ≤ k) : (s.bumpBy k n).core = s.core := setFld_core s _ (.inr hk)
@[simp] theorem setBit_core (hk : coreEnd ≤ k) : (s.setBit k n).core = s.core := setFld_core s _ (.inr hk)
@[simp] theorem clrBit_core (hk : coreEnd ≤ k) : (s.clrBit k n).core = s.core := setFld_core s _ (.inr hk)
@[simp] theorem putBit_core (hk : coreEnd ≤ k) : (s.putBit k n b).core = s.core := by
  unfold State.putBit; split
  · exact setBit_core s n hk
  · exact clrBit_core s n hk

end Units

@[simp] theorem dropRecord_core (s : State) (c : RecClass) : (s.dropRecord c).core = s.core := by
  cases c <;> simp [State.dropRecord]

/-- A record leaves the core alone. -/
@[simp] theorem report_core (s : State) (cls : RecClass) (sev : Severity) (code src : Nat) (p : List Byte) :
    (s.report cls sev code src p).core = s.core := by
  unfold State.report State.enqueue
  dsimp only
  split
  · rfl
  · simp


theorem foldl_fst_core {α β : Type} {f : State × β → α → State × β} (h : ∀ s x, (f s x).1.core = s.1.core) (l : List α)
    (s : State × β) : (l.foldl f s).1.core = s.1.core := by
  induction l generalizing s with
  | nil => rfl
  | cons x l ih => rw [List.foldl_cons, ih, h]

theorem coreEnd_le_of_page {k : Nat} (h : 3 ≤ keyPage k) : coreEnd ≤ k := by
  unfold coreEnd fk
  unfold keyPage at h
  omega

theorem foldl_core_mem {α : Type} {f : State → α → State} {l : List α} (h : ∀ s, ∀ x ∈ l, (f s x).core = s.core)
    (s : State) : (l.foldl f s).core = s.core := by
  induction l generalizing s with
  | nil => rfl
  | cons x l ih =>
    rw [List.foldl_cons, ih (fun s y hy => h s y (List.mem_cons_of_mem _ hy)), h s x (List.mem_cons_self ..)]

theorem foldl_core {α : Type} {f : State → α → State} (h : ∀ s x, (f s x).core = s.core) (l : List α) (s : State) :
    (l.foldl f s).core = s.core := foldl_core_mem (fun s x _ => h s x) s

/-- Staged fields of the units apply without the core. -/
theorem applyStaged_core (s : State) {p : Nat → Bool} (hp : ∀ k, p k = true → coreEnd ≤ k) : (s.applyStaged p).core = s.core :=
  foldl_core_mem (fun s e he => setFld_unit_core s e.2 (hp e.1 (List.mem_filter.mp he).2)) _

theorem ringKey_unit {n k : Nat} (h : ringKey n k = true) : coreEnd ≤ k := by
  unfold ringKey at h
  simp only [Bool.and_eq_true, beq_iff_eq] at h
  exact coreEnd_le_of_page (by omega)

@[simp] theorem unit_ueCounter (a : Arr) (c : Cls) : coreEnd ≤ ueCounter a c := by
  unfold ueCounter; split <;> simp

@[simp] theorem unit_wbCancelCounter (a : Arr) : coreEnd ≤ wbCancelCounter a := by
  unfold wbCancelCounter; split <;> simp

@[simp] theorem unit_storeErrCounter (a : Arr) : coreEnd ≤ storeErrCounter a := by
  unfold storeErrCounter; split <;> simp

@[simp] theorem unit_cond (c : Cond) (n : Nat) : coreEnd ≤ c.stat n ∧ coreEnd ≤ c.sticky n := by
  cases c <;> simp [Cond.stat, Cond.sticky]

@[simp] theorem putMapBit_core (s : State) {lo hi : Nat} (n : Nat) (b : Bool) (h1 : coreEnd ≤ lo) (h2 : coreEnd ≤ hi) :
    (s.putMapBit lo hi n b).core = s.core := by
  unfold State.putMapBit; split <;> simp [h1, h2]

@[simp] theorem setMap_core (s : State) {lo hi : Nat} (v : Nat) (h1 : coreEnd ≤ lo) (h2 : coreEnd ≤ hi) :
    (s.setMap lo hi v).core = s.core := by
  unfold State.setMap; simp [h1, h2]

@[simp] theorem setPair_core (s : State) (n : Nat) : (s.setPair n).core = s.core := by
  unfold State.setPair
  rw [flag_core _ _ (by simp), setFld_core _ _ (.inl rfl)]


/-! ### What the units do leaves the core alone -/

@[simp] theorem countCe_core (s : State) (a : Arr) (w : Nat) : (s.countCe a w).core = s.core := by
  unfold State.countCe; dsimp only; (repeat' split) <;> simp

@[simp] theorem countUe_core (s : State) (a : Arr) (w : Nat) (c : Cls) (syn : Byte) (m : Master) : (s.countUe a w c
    syn m).core = s.core := by
  simp [State.countUe, apply_ite State.core]

@[simp] theorem account_core (s : State) (a : Arr) (w : Nat) (m : Master) : (s.account a w m).core = s.core := by
  unfold State.account; dsimp only; (repeat' split) <;> simp

@[simp] theorem cancelWb_core (s : State) (a : Arr) (w : Nat) : (s.cancelWb a w).core = s.core := by
  simp [State.cancelWb, apply_ite State.core]

@[simp] theorem setDirty_core (s : State) (ps : List Nat) : (s.setDirty ps).core = s.core := by
  simp [State.setDirty]

@[simp] theorem dirtyPage_core (s : State) (key : Nat) : (s.dirtyPage key).core = s.core := by
  unfold State.dirtyPage; split <;> simp

@[simp] theorem dirtyWord_core (s : State) (a : Arr) (w : Nat) : (s.dirtyWord a w).core = s.core := by
  unfold State.dirtyWord; split <;> simp

@[simp] theorem putCode_core (s : State) (a : Arr) (w : Nat) (c : Code) : (s.putCode a w c).core = s.core := by
  simp [State.putCode]

@[simp] theorem fullWrite_core (s : State) (a : Arr) (w : Nat) (data : DWord) : (s.fullWrite a w data).core = s.core
    := by
  simp [State.fullWrite]

@[simp] theorem poison_core (s : State) (a : Arr) (w : Nat) : (s.poison a w).core = s.core := by
  simp [State.poison, apply_ite State.core]

@[simp] theorem readWord_core (s : State) (a : Arr) (w : Nat) (m : Master) : (s.readWord a w m).1.core = s.core := by
  unfold State.readWord; dsimp only; (repeat' split) <;> simp

@[simp] theorem partialWrite_core (s : State) (a : Arr) (w : Nat) (data mask : DWord) (m : Master) : (s.partialWrite a
    w data mask m).1.core = s.core := by
  unfold State.partialWrite; dsimp only; (repeat' split) <;> simp

@[simp] theorem writeWord_core (s : State) (a : Arr) (w : Nat) (data mask : DWord) (m : Master) : (s.writeWord a w
    data mask m).1.core = s.core := by
  unfold State.writeWord; split <;> simp

@[simp] theorem readMany_core : ∀ (s : State) (a : Arr) (m : Master) (a3 : List Nat), (s.readMany a m a3).1.core =
    s.core := by
  intro s a m ws; induction ws generalizing s with
    | nil => rfl
    | cons w t ih => simp [State.readMany, ih]

@[simp] theorem emit_core (s : State) (e : Emit) : (s.emit e).core = s.core := rfl

@[simp] theorem fiSelect_core (s : State) (l : Nat) : (s.fiSelect l).1.core = s.core := rfl

@[simp] theorem fiInjected_core (s : State) (l : Nat) : (s.fiInjected l).core = s.core := by
  simp [State.fiInjected]

@[simp] theorem fiLost_core (s : State) (n : Nat) : (s.fiLost n).core = s.core := by
  simp [State.fiLost, apply_ite State.core]

@[simp] theorem setHeld_core (s : State) (l : Nat) (q : List Held) : (s.setHeld l q).core = s.core := by
  simp [State.setHeld]

@[simp] theorem fiReorder_core (s : State) (l m : Nat) (rx sel : Bool) (f : LinkFrame) : (s.fiReorder l m rx sel
    f).1.core = s.core := by
  unfold State.fiReorder; dsimp only; (repeat' split) <;> simp

@[simp] theorem fiDelay_core (s : State) (l d : Nat) (rx sel : Bool) (f : LinkFrame) : (s.fiDelay l d rx sel f).1.core
    = s.core := by
  unfold State.fiDelay; dsimp only; (repeat' split) <;> simp

@[simp] theorem fiPass_core (s : State) (l : Nat) (rx : Bool) (f : LinkFrame) : (s.fiPass l rx f).1.core = s.core :=
    by
  unfold State.fiPass; dsimp only; (repeat' split) <;> simp

@[simp] theorem putOut_core (s : State) (l : Nat) (fs : List LinkFrame) : (s.putOut l fs).core = s.core := rfl

@[simp] theorem transmit_core (s : State) (l : Nat) (f : LinkFrame) : (s.transmit l f).core = s.core := by
  simp [State.transmit]

@[simp] theorem fiPermitEnd_core (s : State) : s.fiPermitEnd.core = s.core := by
  simp [State.fiPermitEnd, apply_ite State.core]

@[simp] theorem ringHalt_core (s : State) (n : Nat) (c : HaltCause) (addr : Nat) : (s.ringHalt n c addr).core = s.core
    := by
  simp [State.ringHalt]

@[simp] theorem readDesc_core (s : State) (n : Nat) : (s.readDesc n).1.core = s.core := by
  unfold State.readDesc; dsimp only; (repeat' split) <;> simp

@[simp] theorem writeDesc_core (s : State) (n : Nat) (d : Desc) (st : DescStatus) (time : Nat) : (s.writeDesc n d st
    time).core = s.core := by
  simp [State.writeDesc]

@[simp] theorem complete_core (s : State) (n : Nat) (d : Desc) (st : DescStatus) (time : Nat) : (s.complete n d st
    time).core = s.core := by
  simp [State.complete, apply_ite State.core]

@[simp] theorem setHold_core (s : State) (n : Nat) (q : List Arrival) : (s.setHold n q).core = s.core := by
  simp [State.setHold]

@[simp] theorem ringDrop_core (s : State) (n k : Nat) : (s.ringDrop n k).core = s.core := by
  simp [State.ringDrop, apply_ite State.core]

@[simp] theorem holdFrame_core (s : State) (n : Nat) (f : Arrival) : (s.holdFrame n f).core = s.core := by
  simp [State.holdFrame, apply_ite State.core]

@[simp] theorem writeFrame_core : ∀ (s : State) (d : Desc) (data : List Byte) (a3 : Nat), (s.writeFrame d data
    a3).1.core = s.core := by
  intro s d data k; induction k with
    | zero => rfl
    | succ k ih => unfold State.writeFrame; dsimp only; (repeat' split) <;> simp [ih]

@[simp] theorem holdRest_core (s : State) (n : Nat) (f : Arrival) : (s.holdRest n f).core = s.core := by
  simp [State.holdRest, apply_ite State.core]

@[simp] theorem placeFrame_core (s : State) (n : Nat) (x : Arrival) : (s.placeFrame n x).core = s.core := by
  unfold State.placeFrame; dsimp only; (repeat' split) <;> simp

@[simp] theorem pump_core : ∀ (s : State) (n a2 : Nat), (s.pump n a2).core = s.core := by
  intro s n k; induction k generalizing s with
    | zero => rfl
    | succ k ih => unfold State.pump; split <;> (try split) <;> simp [ih]

@[simp] theorem dropHold_core (s : State) (n : Nat) : (s.dropHold n).core = s.core := by
  simp [State.dropHold]

@[simp] theorem dropHand_core (s : State) (n : Nat) : (s.dropHand n).core = s.core := by
  unfold State.dropHand; split <;> simp

@[simp] theorem ringRestart_core (s : State) (n : Nat) : (s.ringRestart n).core = s.core := by
  simp [State.ringRestart]

@[simp] theorem ringIdle_core : ∀ (s : State) (n : Nat), (s.ringIdle n).core = s.core := by
  intro s n
  have h1 := applyStaged_core s (p := fun k => ringKey n k && !ringShape k) (fun k h => ringKey_unit (Bool.and_elim_left h))
  have h2 := fun t : State => applyStaged_core t (p := fun k => ringKey n k && ringShape k)
    (fun k h => ringKey_unit (Bool.and_elim_left h))
  unfold State.ringIdle
  dsimp only
  (repeat' split) <;> simp [h1, h2]

@[simp] theorem ringGo_core (s : State) (n : Nat) : (s.ringGo n).core = s.core := by
  simp [State.ringGo, apply_ite State.core, foldl_core]

@[simp] theorem arrive_core (s : State) (n : Nat) (f : AgentFrame) (err chars : Bool) (time : Nat) : (s.arrive n f err
    chars time).core = s.core := by
  simp [State.arrive, apply_ite State.core]

@[simp] theorem ringIn_core (s : State) (n agent : Nat) (f : AgentFrame) : (s.ringIn n agent f).core = s.core := by
  unfold State.ringIn; split <;> simp

@[simp] theorem post_core (s : State) (n count : Nat) : (s.post n count).core = s.core := by
  simp [State.post, apply_ite State.core]

@[simp] theorem mailPost_core (s : State) (n len : Nat) : (s.mailPost n len).core = s.core := by
  simp [State.mailPost]

@[simp] theorem fromTrig_core (s : State) (type : Nat) (payload : List Byte) : (s.fromTrig type payload).core = s.core
    := by
  simp [State.fromTrig, apply_ite State.core]

@[simp] theorem dirtyId_core (s : State) (id : Nat) : (s.dirtyId id).core = s.core := by
  simp [State.dirtyId]

@[simp] theorem sourceInvalid_core (s : State) (a : Arr) (id : Nat) : (s.sourceInvalid a id).core = s.core := by
  unfold State.sourceInvalid; split <;> simp

@[simp] theorem markInvalid_core (s : State) (a : Arr) (m : Master) (id : Nat) : (s.markInvalid a m id).core = s.core
    := by
  unfold State.markInvalid; dsimp only; (repeat' split) <;> simp [foldl_core]

@[simp] theorem patchWord_core (s : State) (a : Arr) (w : Nat) (data mask : DWord) (m : Master) : (s.patchWord a w
    data mask m).core = s.core := by
  unfold State.patchWord; dsimp only; (repeat' split) <;> simp [foldl_core]

@[simp] theorem applyPatch_core (s : State) (a : Arr) (p : Patch) (m : Master) : (s.applyPatch a p m).core = s.core :=
    by
  simp [State.applyPatch, foldl_core]

@[simp] theorem applyGroup_core (s : State) (xs : List Sample) : (s.applyGroup xs).core = s.core := by
  simp [State.applyGroup, foldl_core]

@[simp] theorem countLost_core (s : State) : s.countLost.core = s.core := by
  simp [State.countLost]

@[simp] theorem loseSource_core (s : State) (x : Src) : (s.loseSource x).core = s.core := by
  simp [State.loseSource, apply_ite State.core, foldl_core]

@[simp] theorem regainSource_core (s : State) (x : Src) : (s.regainSource x).core = s.core := by
  simp [State.regainSource, apply_ite State.core, foldl_core]

@[simp] theorem forceStat_core (s : State) : s.forceStat.core = s.core := by
  simp [State.forceStat]

@[simp] theorem removeForces_core (s : State) : s.removeForces.core = s.core := by
  simp [State.removeForces]

@[simp] theorem colSend_core (s : State) (type : Nat) (payload : List Byte) : (s.colSend type payload).core = s.core
    := by
  unfold State.colSend; split <;> simp

@[simp] theorem setColState_core (s : State) (n : Nat) : (s.setColState n).core = s.core := by
  simp [State.setColState]

@[simp] theorem putGroup_core (s : State) (x : Src) (a2 : Group) : (s.putGroup x a2).core = s.core := by
  unfold State.putGroup; split <;> simp

@[simp] theorem putGroupBytes_core (s : State) (p : List Byte) : (s.putGroupBytes p).core = s.core := by
  unfold State.putGroupBytes; split <;> simp

@[simp] theorem portBoundary_core : ∀ (s : State) (n : Nat), (s.portBoundary n).core = s.core := by
  intro s n; unfold State.portBoundary; exact applyStaged_core s (fun k h => coreEnd_le_of_page (by simp at h; omega))

@[simp] theorem sendOne_core (s : State) (e : Queued) : (s.sendOne e).core = s.core := by
  simp [State.sendOne, apply_ite State.core]

@[simp] theorem sendAll_core (s : State) (l : List Queued) : (s.sendAll l).core = s.core := by
  simp [State.sendAll, foldl_core]

@[simp] theorem countUnit_core (s : State) : s.countUnit.core = s.core := rfl

@[simp] theorem unitSend_core (s : State) (bytes : List Byte) : (s.unitSend bytes).core = s.core := by
  simp [State.unitSend]

@[simp] theorem unitUdp_core (s : State) (dst srcPort dstPort : Nat) (data : List Byte) : (s.unitUdp dst srcPort
    dstPort data).core = s.core := by
  simp [State.unitUdp]

@[simp] theorem rdgEmit_core (s : State) (east ok : Bool) (f : RidgeFrame) : (s.rdgEmit east ok f).core = s.core := by
  unfold State.rdgEmit; split <;> simp

@[simp] theorem rdgBoth_core (s : State) (f : RidgeFrame) : (s.rdgBoth f).core = s.core := by
  simp [State.rdgBoth]

@[simp] theorem setStream_core (s : State) (n : Nat) (x : Stream) : (s.setStream n x).core = s.core := rfl

@[simp] theorem rdgTo_core (s : State) (type n seq : Nat) (sync : Bool) (payload : List Byte) : (s.rdgTo type n seq
    sync payload).core = s.core := by
  simp [State.rdgTo]

@[simp] theorem streamSend_core (s : State) (n type : Nat) (payload : List Byte) (ring : Option Nat) (offset : Nat) :
    (s.streamSend n type payload ring offset).core = s.core := by
  simp [State.streamSend]

@[simp] theorem sendMsg_core (s : State) (n : Nat) (packet : List Byte) : (s.sendMsg n packet).core = s.core := by
  simp [State.sendMsg]

@[simp] theorem setDesk_core (s : State) (r : Req) (d : Desk) : (s.setDesk r d).core = s.core := by
  unfold State.setDesk; split <;> simp

@[simp] theorem send_core (s : State) (r : Reply) : (s.send r).core = s.core := by
  unfold State.send; dsimp only; (repeat' split) <;> simp

@[simp] theorem authFailed_core (s : State) (r : Req) : (s.authFailed r).core = s.core := by
  simp [State.authFailed, apply_ite State.core]

@[simp] theorem countStatus_core (s : State) (r : Req) (a2 : Status) : (s.countStatus r a2).core = s.core := by
  unfold State.countStatus; (repeat' split) <;> simp

@[simp] theorem answered_core (s : State) (op : Nat) (r : Req) : (s.answered op r).core = s.core := by
  unfold State.answered; split <;> simp

@[simp] theorem keep_core (s : State) (op : Nat) (r : Req) (st : Status) (last : Reply) : (s.keep op r st last).core =
    s.core := by
  simp [State.keep]

@[simp] theorem finishWith_core (s : State) (op : Nat) (r : Req) (session : Byte) (key : List Byte) (a : Answer) :
    (s.finishWith op r session key a).core = s.core := by
  simp [State.finishWith]

@[simp] theorem finish_core (s : State) (op : Nat) (r : Req) (a : Answer) : (s.finish op r a).core = s.core := by
  simp [State.finish]

@[simp] theorem writeEntry_core (s : State) (e : StoreEntry) : (s.writeEntry e).1.core = s.core := by
  unfold State.writeEntry; (repeat' split) <;> simp

@[simp] theorem sendIrq_core (s : State) (v : Word) : (s.sendIrq v).core = s.core := by
  simp [State.sendIrq, apply_ite State.core]

@[simp] theorem runDeferred_core (s : State) (a1 : Deferred) : (s.runDeferred a1).core = s.core := by
  unfold State.runDeferred; split <;> simp

@[simp] theorem afterStore_core (s : State) : s.afterStore.core = s.core := by
  simp [State.afterStore, foldl_core]

@[simp] theorem answerLong_core (s : State) (op : Nat) (a : Answer) : (s.answerLong op a).core = s.core := by
  unfold State.answerLong; dsimp only; (repeat' split) <;> simp

@[simp] theorem cancelSwap_core (s : State) : s.cancelSwap.core = s.core := by
  simp [State.cancelSwap]

@[simp] theorem dropStream_core (s : State) : s.dropStream.core = s.core := by
  simp [State.dropStream]

@[simp] theorem epochOver_core (s : State) (record : Bool) : (s.epochOver record).core = s.core := by
  simp [State.epochOver, apply_ite State.core]

@[simp] theorem abortJoin_core (s : State) (reason : Nat) : (s.abortJoin reason).core = s.core := by
  simp [State.abortJoin]

@[simp] theorem putOwn_core (s : State) : s.putOwn.core = s.core := by
  simp [State.putOwn, foldl_core]

@[simp] theorem keepLost_core (s : State) : s.keepLost.core = s.core := by
  unfold State.keepLost; split <;> simp

@[simp] theorem leavePair_core (s : State) (reason : Nat) : (s.leavePair reason).core = s.core := by
  simp [State.leavePair, apply_ite State.core]

@[simp] theorem pairFollows_core (s : State) : s.pairFollows.core = s.core := by
  unfold State.pairFollows; dsimp only; (repeat' split) <;> simp

@[simp] theorem injectionsFollow_core (s : State) : s.injectionsFollow.core = s.core := by
  simp [State.injectionsFollow, apply_ite State.core]

@[simp] theorem disarm_core (s : State) : s.disarm.core = s.core := by
  simp [State.disarm]

@[simp] theorem dropEdit_core (s : State) : s.dropEdit.core = s.core := by
  simp [State.dropEdit]

end Sys2Proof.Machine
end

