-- ==== Sys2Proof/Proofs/SafeEntry.lean ====
section
-- In order, not in parallel: each parallel thread reserves its whole stack of the check's memory.
set_option Elab.async false
/-! SUPPORT. Entry to SAFE (R213, R225): what it shows and leaves, and the events that lead there: the budget and the
overrun limit (R53, R55), lane verdicts (R176 to R178), re-admission and the countdown of DEGRADED (R182 to R188). -/
namespace Sys2Proof.Machine

/-! ### What the steps of a mode change keep -/

/-- What shows that a mode is in force: the mode, SYS_MODE and the cause in SYS_SAFE. -/
def State.shown (s : State) : Mode × Word × Word := (s.mode, s.fld Reg.SYS_MODE_MODE, s.fld Reg.SYS_SAFE_CAUSE)

section Shown
variable {s t : State} (h : t.shown = s.shown)
include h

theorem shown_mode : t.mode = s.mode := congrArg Prod.fst h
theorem shown_cause : t.fld Reg.SYS_SAFE_CAUSE = s.fld Reg.SYS_SAFE_CAUSE := congrArg (·.2.2) h
theorem shown_code : t.fld Reg.SYS_MODE_MODE = s.fld Reg.SYS_MODE_MODE := congrArg (·.2.1) h

end Shown

theorem shown_of_core {s t : State} (h : t.core = s.core) : t.shown = s.shown := by
  unfold State.shown
  rw [core_mode h, core_fld h (by decide), core_fld h (by decide)]

@[simp] theorem mk_shown (s : State) : (s.mode, s.shown.2) = s.shown := rfl

/-- Parts of the state besides the mode and the registers. -/
@[simp] theorem shown_with (x y : State) (a0 : List Instr) (a3 : Sparse Word) (a4 : Sparse Word) (a5 : List WdWrite)
    (a6 : Nat) (a7 : Time) (a8 : Mem) (a9 : Images) (a10 : Ce) (a11 : Saddle) (a12 : Cairn) (a13 : Cmd) (a14 : Sup)
    (a15 : Rings) (a16 : Fi) (a17 : Net) (a18 : Bus) (a19 : Ridge) (a20 : Col) (a21 : FieldUnit) (a22 : SafetyUnit)
    (a23 : Pwr) (a24 : Trig) (a25 : List Emit) : State.shown ⟨a0, x.mode, y.regs, a3, a4, a5, a6, a7, a8, a9, a10, a11,
    a12, a13, a14, a15, a16, a17, a18, a19, a20, a21, a22, a23, a24, a25⟩ = (x.mode, y.shown.2) := rfl

/-- The first key after the page SYS. -/
def sysEnd : Nat := fk 0x01 0 0

theorem sysEnd_le_fk {p o l : Nat} (h : 1 ≤ p) : sysEnd ≤ fk p o l := by
  unfold sysEnd fk; omega

@[simp] theorem setFld_shown (s : State) {k : Nat} (v : Word) (hk : sysEnd ≤ k) : (s.setFld k v).shown = s.shown := by
  have mode : Reg.SYS_MODE_MODE < sysEnd := by decide
  have cause : Reg.SYS_SAFE_CAUSE < sysEnd := by decide
  unfold State.shown
  rw [fld_setFld_other (by omega), fld_setFld_other (by omega)]
  rfl

@[simp] theorem flag_shown (s : State) {k : Nat} (b : Bool) (hk : sysEnd ≤ k) : (s.flag k b).shown = s.shown :=
  setFld_shown s _ hk
@[simp] theorem bump_shown (s : State) {k : Nat} (hk : sysEnd ≤ k) : (s.bump k).shown = s.shown := setFld_shown s _ hk

@[simp] theorem modeChangeKeys_past :
    sysEnd ≤ Reg.CE_STAT_IDLE ∧ sysEnd ≤ Reg.CE_STAT_STOPPED ∧ sysEnd ≤ Reg.CE_STAT_OP ∧ sysEnd ≤ Reg.CE_STAT_SW_PENDING ∧
    sysEnd ≤ Reg.CE_SWSTAT_STATE ∧ sysEnd ≤ Reg.CMD_STAT_LONG_OP ∧ sysEnd ≤ Reg.PS_TRAV_CTRL_ENABLE ∧
    sysEnd ≤ Reg.PWR_STAT_OP ∧ sysEnd ≤ Reg.PWR_STAT_GOP ∧ sysEnd ≤ Reg.PWR_STAT_STEP_DUE ∧
    sysEnd ≤ Reg.PWR_STAT_MARGIN_LOW ∧ sysEnd ≤ Reg.PWR_EVT_GOP_LOWERED ∧ sysEnd ≤ Reg.PWR_EVT_STEP_DUE ∧
    sysEnd ≤ Reg.PWR_EVT_MARGIN_LOW ∧ sysEnd ≤ Reg.PWR_STEPCNT := by
  and_intros <;> exact sysEnd_le_fk (by omega)

@[simp] theorem taskKeys_past (n : Nat) :
    sysEnd ≤ Reg.CE_TASKCFG_POLICY n ∧ sysEnd ≤ Reg.CE_TASKCFG_ENABLE n ∧ sysEnd ≤ Reg.CE_TASKCFG_PERIOD n ∧
    sysEnd ≤ Reg.CE_TASKCFG_PHASE n ∧ sysEnd ≤ Reg.CE_TASKCFG_COMMIT_AT n ∧ sysEnd ≤ Reg.CE_TASKCFG_OVR_LIMIT n ∧
    sysEnd ≤ Reg.CE_WCET_WCET n ∧ sysEnd ≤ Reg.FCH_STAT_DRIVE n := by
  and_intros <;> exact sysEnd_le_fk (by omega)

theorem foldl_shown {α : Type} {f : State → α → State} (h : ∀ s x, (f s x).shown = s.shown) (l : List α) (s : State) :
    (l.foldl f s).shown = s.shown := by
  induction l generalizing s with
  | nil => rfl
  | cons x l ih => rw [List.foldl_cons, ih, h]

@[simp] theorem report_shown (s : State) (cls : RecClass) (sev : Severity) (code src : Nat) (p : List Byte) :
    (s.report cls sev code src p).shown = s.shown := shown_of_core (report_core ..)
@[simp] theorem finish_shown (s : State) (op : Nat) (r : Req) (a : Answer) : (s.finish op r a).shown = s.shown :=
  shown_of_core (finish_core ..)

@[simp] theorem wdAbort_shown (s : State) (addr : Nat) (src : WSrc) : (s.wdAbort addr src).shown = s.shown := by
  unfold State.wdAbort State.shown
  rw [fld_report _ _ _ _ _ _ _ (by decide) (by decide), fld_report _ _ _ _ _ _ _ (by decide) (by decide), report_mode,
    fld_bump, if_neg (by decide), fld_flag, if_neg (by decide), fld_bump, if_neg (by decide), fld_flag, if_neg (by decide)]
  rfl

@[simp] theorem abortWd_shown (s : State) (p : WSrc → Bool) : (s.abortWd p).shown = s.shown :=
  foldl_shown (fun _ _ => wdAbort_shown ..) _ _

@[simp] theorem writeOldest_shown (s : State) : s.writeOldest.1.shown = s.shown := by
  unfold State.writeOldest
  split
  · rfl
  · exact (shown_of_core ((afterStore_core _).trans (writeEntry_core _ _))).trans (shown_with ..)

@[simp] theorem flush_shown (n : Nat) (s : State) : (State.flush n s).shown = s.shown := by
  induction n generalizing s with
  | zero => rfl
  | succ n ih => exact (ih _).trans (writeOldest_shown s)

@[simp] theorem ceIdle_shown (s : State) : s.ceIdle.shown = s.shown := by simp [State.ceIdle]

@[simp] theorem abandonCycle_shown (s : State) : s.abandonCycle.shown = s.shown := by
  unfold State.abandonCycle
  exact (ceIdle_shown _).trans (flush_shown 8 s)

@[simp] theorem stopInit_shown (s : State) : s.stopInit.shown = s.shown := flush_shown 8 s

@[simp] theorem endModeWait_shown (s : State) : s.endModeWait.shown = s.shown := by
  unfold State.endModeWait
  split
  · rfl
  · dsimp only
    split
    · exact (finish_shown ..).trans (stopInit_shown s)
    · exact stopInit_shown s

@[simp] theorem endLongOp_shown (s : State) : s.endLongOp.shown = s.shown := by
  have swap : ∀ t : State, t.cancelSwap.shown = t.shown := fun t => shown_of_core (cancelSwap_core t)
  unfold State.endLongOp
  split
  · rfl
  · split
    · rfl
    · dsimp only
      rw [finish_shown]
      (repeat' split) <;> simp [swap]

/-! ### The Cycle Engine after an abandoned cycle (R214) -/

/-- Nothing executes, no release goes on and no store waits. -/
def State.quiet (s : State) : Prop := s.ce.cur = none ∧ s.ce.store = [] ∧ ∀ w, s.ce.task w = TaskRt.idle

theorem quiet_of_core {s t : State} (h : t.core = s.core) (hq : s.quiet) : t.quiet := by
  unfold State.quiet at *
  rw [core_ce h]; exact hq

theorem abandonCycle_quiet (s : State) : s.abandonCycle.quiet := by
  refine ⟨rfl, rfl, fun w => ?_⟩
  exact (Vector.get_eq_getElem ..).trans (Vector.getElem_replicate ..)

theorem wdAbort_ce (s : State) (addr : Nat) (src : WSrc) : (s.wdAbort addr src).ce = s.ce := by simp [State.wdAbort]

theorem abortWd_ce (s : State) (p : WSrc → Bool) : (s.abortWd p).ce = s.ce := by
  unfold State.abortWd
  generalize s.wd.filter (fun x => p x.src) = l
  have : ∀ t : State, (l.foldl (fun s x => s.wdAbort (regAddr x.page x.off) x.src) t).ce = t.ce := by
    induction l with
    | nil => exact fun _ => rfl
    | cons x l ih => exact fun t => (ih _).trans (wdAbort_ce ..)
  exact this _

theorem flush_nil {s : State} (h : s.ce.store = []) (n : Nat) : State.flush n s = s := by
  induction n with
  | zero => rfl
  | succ n ih => simp only [State.flush, State.writeOldest, h, ih]

theorem stopInit_quiet {s : State} (h : s.quiet) : s.stopInit.quiet := by
  obtain ⟨hc, hs, ht⟩ := h
  unfold State.stopInit
  rw [flush_nil hs]
  refine ⟨by simp [hc], hs, fun w => ?_⟩
  have idle : ({ s.ce.tasks.get 8 with ready := false } : TaskRt) = TaskRt.idle := by
    have := ht 8
    unfold Ce.task at this
    rw [this]; rfl
  by_cases hw : w = 8
  · subst hw
    exact (setTask_task_same s 8 _).trans idle
  · exact (setTask_task_other s _ hw).trans (ht w)

theorem endModeWait_quiet {s : State} (h : s.quiet) : s.endModeWait.quiet := by
  unfold State.endModeWait
  split
  · exact h
  · dsimp only
    split
    · exact quiet_of_core (finish_core ..) (stopInit_quiet h)
    · exact stopInit_quiet h

theorem endLongOp_quiet {s : State} (h : s.quiet) : s.endLongOp.quiet := by
  unfold State.endLongOp
  split
  · exact h
  · split
    · exact h
    · dsimp only
      refine quiet_of_core (finish_core ..) ?_
      split
      · exact h
      · split
        · exact quiet_of_core (cancelSwap_core _) h
        · exact h

/-! ### Entry into STOPPED, and the field outputs -/

@[simp] theorem loadTask_shown (s : State) (n : Nat) (d : TaskDef) (b : Bool) : (s.loadTask n d b).shown = s.shown := by
  unfold State.loadTask
  dsimp only
  split <;> simp

@[simp] theorem loadTasks_shown (s : State) (p : Image) : (s.loadTasks p).shown = s.shown :=
  foldl_shown (fun _ _ => loadTask_shown ..) _ _

@[simp] theorem lowerGop_shown (s : State) (n : Nat) : (s.lowerGop n).shown = s.shown := by
  unfold State.lowerGop
  dsimp only
  (repeat' split) <;> simp

@[simp] theorem marginFlags_shown (s : State) (b : Bool) : (s.marginFlags b).shown = s.shown := by
  unfold State.marginFlags
  dsimp only
  (repeat' split) <;> simp

@[simp] theorem takeStep_shown (s : State) : s.takeStep.shown = s.shown := by
  unfold State.takeStep State.stepTo State.setOp
  dsimp only
  (repeat' split) <;> simp

@[simp] theorem enterStopped_shown (s : State) : s.enterStopped.shown = s.shown := by
  unfold State.enterStopped
  dsimp only
  split <;> simp

theorem outputsOff_ce (s : State) : s.outputsOff.ce = s.ce := by
  have drive : ∀ (t : State) (i : Nat), (t.drive (i + 1) false).ce = t.ce := by
    intro t i
    unfold State.drive
    split <;> rfl
  unfold State.outputsOff
  generalize List.range 64 = l
  induction l generalizing s with
  | nil => rfl
  | cons x l ih => exact (ih _).trans (drive s x)

@[simp] theorem outputsOff_shown (s : State) : s.outputsOff.shown = s.shown := by
  refine foldl_shown (fun s i => ?_) _ _
  unfold State.drive State.setChan
  split <;> simp

/-! ### The change of mode as a whole (R214, R217, R240, R248, R267) -/

/-- What a mode change ends leaves the mode and the cause in SYS_SAFE as they are. -/
@[simp] theorem afterMode_shown (s : State) (old : Mode) : (s.afterMode old).shown = s.shown := by
  have disarm : ∀ t : State, t.disarm.shown = t.shown := fun t => shown_of_core (disarm_core t)
  have forces : ∀ t : State, t.removeForces.shown = t.shown := fun t => shown_of_core (removeForces_core t)
  have edit : ∀ t : State, t.dropEdit.shown = t.shown := fun t => shown_of_core (dropEdit_core t)
  have follows : ∀ t : State, t.pairFollows.injectionsFollow.shown = t.shown := fun t =>
    shown_of_core ((injectionsFollow_core _).trans (pairFollows_core t))
  unfold State.afterMode
  simp only [endLongOp_shown, follows, apply_ite State.shown, edit, enterStopped_shown, abandonCycle_shown, forces,
    endModeWait_shown, disarm, abortWd_shown, ite_self]

/-- In SAFE a mode change keeps a quiet Cycle Engine quiet. -/
theorem afterMode_quiet {s : State} (old : Mode) (h : s.mode = .safe) (hq : s.quiet) : (s.afterMode old).quiet := by
  unfold State.afterMode
  refine endLongOp_quiet (quiet_of_core ((injectionsFollow_core _).trans (pairFollows_core _)) ?_)
  have aborted : (s.abortWd (fun _ => true)).quiet := by
    unfold State.quiet at *
    rw [abortWd_ce]; exact hq
  have ended := endModeWait_quiet (quiet_of_core (disarm_core _) aborted)
  have mode : (s.abortWd (fun _ => true)).disarm.endModeWait.mode = .safe :=
    (shown_mode ((endModeWait_shown _).trans ((shown_of_core (disarm_core _)).trans (abortWd_shown s _)))).trans h
  generalize (s.abortWd (fun _ => true)).disarm.endModeWait = t at ended mode ⊢
  have forces : ∀ (c : Prop) [Decidable c], (if c then t.removeForces else t).quiet ∧ (if c then t.removeForces else t).mode = .safe := by
    intro c _
    split
    · exact ⟨quiet_of_core (removeForces_core t) ended, (core_mode (removeForces_core t)).trans mode⟩
    · exact ⟨ended, mode⟩
  obtain ⟨hq1, hm1⟩ := forces (old = .test ∧ t.mode ≠ .test)
  generalize (if old = .test ∧ t.mode ≠ .test then t.removeForces else t) = u at hq1 hm1 ⊢
  have cycle : ∀ (c : Prop) [Decidable c], (if c then u.abandonCycle else u).quiet ∧ (if c then u.abandonCycle else u).mode = .safe := by
    intro c _
    split
    · exact ⟨abandonCycle_quiet u, (shown_mode (abandonCycle_shown u)).trans hm1⟩
    · exact ⟨hq1, hm1⟩
  obtain ⟨hq2, hm2⟩ := cycle (old.cycles ∧ ¬ u.mode.cycles)
  generalize (if old.cycles ∧ ¬ u.mode.cycles then u.abandonCycle else u) = x at hq2 hm2 ⊢
  rw [if_neg (show x.mode ≠ .stopped by rw [hm2]; decide)]
  split
  · exact quiet_of_core (dropEdit_core x) hq2
  · exact hq2

/-! ### Entry to SAFE (R225) -/

theorem enterSafe_idle {s : State} (h : s.mode = .safe ∨ s.mode = .recovery) (c : Nat) : s.enterSafe c = s := if_pos h

section Enters
variable {s : State} (h1 : s.mode ≠ .safe) (h2 : s.mode ≠ .recovery) (c : Nat)
include h1 h2

/-- The state in which SAFE is in force and nothing has ended yet. -/
theorem enterSafe_eq : ∃ x : State, s.enterSafe c = x.abandonCycle.afterMode s.mode ∧
    x.shown = (.safe, 0xB, BitVec.ofNat 32 c) := by
  refine ⟨_, if_neg (by simp [h1, h2]), ?_⟩
  simp only [report_shown, shown_with]
  refine (outputsOff_shown _).trans ?_
  unfold State.shown State.putMode
  rw [fld_setFld_same, fld_setFld_other (by decide), fld_setFld_same]
  rfl

theorem enterSafe_shown : (s.enterSafe c).shown = (.safe, 0xB, BitVec.ofNat 32 c) := by
  obtain ⟨x, e, hx⟩ := enterSafe_eq h1 h2 c
  rw [e, afterMode_shown, abandonCycle_shown, hx]

theorem enterSafe_mode : (s.enterSafe c).mode = .safe := congrArg Prod.fst (enterSafe_shown h1 h2 c)

theorem enterSafe_cause : (s.enterSafe c).fld Reg.SYS_SAFE_CAUSE = BitVec.ofNat 32 c :=
  congrArg (·.2.2) (enterSafe_shown h1 h2 c)

theorem enterSafe_quiet : (s.enterSafe c).quiet := by
  obtain ⟨x, e, hx⟩ := enterSafe_eq h1 h2 c
  rw [e]
  exact afterMode_quiet _ ((shown_mode (abandonCycle_shown x)).trans (congrArg Prod.fst hx)) (abandonCycle_quiet x)

end Enters

/-! ### The budget abort and the overrun limit (R53, R55) -/

theorem store_nil_of_quiet {s : State} (h : s.quiet) : s.ce.store = [] := h.2.1

/-- What the budget abort leaves before its policy and the dispatch. -/
def State.overspent (s : State) (w : Who) : State :=
  let i := (s.ce.task w).ctx.pc
  ((((s.killRelease w).trapInfo w.val 0xFF i).bump (Reg.CE_BUDCNT w.val)).setBit Reg.CE_EVT_BUDGET w.val).report .o .fault
    (evCode 3 53 0) (srcNo 3 w.val) ([BitVec.ofNat 8 w.val] ++ leBytes 4 i)

theorem exec_budgetAbort {s : State} {w : Who} (hc : s.ce.cur = some w) (hb : s.overBudget w = true) :
    exec .budgetAbort s = .next ((s.overspent w).applyPolicy w.val).dispatch := by
  change execBudgetAbort s = _
  unfold execBudgetAbort
  simp only [hc, hb]
  rfl

theorem budcnt_apart {n : Nat} (hn : n < 7) : logKey (Reg.CE_BUDCNT n) = false ∧ Reg.CE_BUDCNT n ≠ Reg.CE_EVT_BUDGET ∧
    Reg.CE_BUDCNT n ≠ Reg.CE_STAT_IDLE ∧ Reg.CE_BUDCNT n ≠ Reg.CE_STAT_RUNNING ∧ Reg.CE_BUDCNT n ≠ Reg.CE_TRAPINFO_CAUSE n ∧
    Reg.CE_BUDCNT n ≠ Reg.CE_TRAPINFO_INDEX n ∧ Reg.CE_BUDCNT n ≠ Reg.CE_TRAPINFO_SLOT n := by
  revert n; decide

/-- The fields of the task in question after a budget abort. -/
theorem fld_overspent {s : State} {w : Who} (hw : w.val < 7) {k : Nat} (hk : k ∈ [Reg.CE_TRAPINFO_CAUSE w.val, Reg.CE_TRAPINFO_INDEX w.val, Reg.CE_TASKCFG_POLICY w.val]) :
    (s.overspent w).fld k = ((s.killRelease w).trapInfo w.val 0xFF (s.ce.task w).ctx.pc).fld k := by
  obtain ⟨hl, -, hb, hc, -⟩ := taskKeys_apart (n := w.val) (by omega) k (by simp at hk; rcases hk with rfl | rfl | rfl <;> simp)
  unfold State.overspent
  rw [fld_report _ _ _ _ _ _ _ (by decide) hl, fld_setBit_other hb, fld_bump, if_neg hc]

theorem overspent_frame {s : State} (h : s.wd = []) (w : Who) : (s.overspent w).mem = s.mem ∧ ((s.overspent w).ce.task w).ready = false ∧
    (s.ce.store = [] → (s.overspent w).ce.store = []) := by
  have mem := killRelease_mem h w
  have ready := congrArg TaskRt.ready (killRelease_task_same h w)
  have store := killRelease_store_nil h w
  unfold State.overspent
  rw [report_mem, report_ce]
  generalize s.killRelease w = k at mem ready store
  exact ⟨mem, ready, store⟩

section Overspent
variable {s : State} (h : s.wd = []) {w : Who} (hw : w.val < 7)
include h hw

theorem fld_overspent_count : (s.overspent w).fld (Reg.CE_BUDCNT w.val) = satAdd (s.fld (Reg.CE_BUDCNT w.val)) 1 := by
  obtain ⟨hl, hb, hi, -, h1, h2, h3⟩ := budcnt_apart hw
  unfold State.overspent
  rw [fld_report _ _ _ _ _ _ _ (by decide) hl, fld_setBit_other hb, fld_bump_same, fld_trapInfo_other h1 h2 h3,
    fld_killRelease h w hi]

theorem overspent_policy : (s.overspent w).policyOf w.val = s.policyOf w.val := by
  obtain ⟨-, -, -, -, hi, -⟩ := taskKeys_apart (n := w.val) (by omega) (Reg.CE_TASKCFG_POLICY w.val) (by simp)
  obtain ⟨h1, h2, h3⟩ := @policyKey_ne_trapInfo w.val
  refine policyOf_eq ?_
  rw [fld_overspent hw (by simp), fld_trapInfo_other h1 h2 h3, fld_killRelease h w hi]

end Overspent

/-- BUDGET_ABORT under policy CONTINUE (R53, R56). -/
theorem budgetAbort_continue {s : State} {w : Who} (hw : w.val < 7) (hc : s.ce.cur = some w) (hwd : s.wd = [])
    (hs : s.ce.store = []) (hb : (s.fld (Reg.CE_WCET_WCET w.val)).toNat < (s.ce.task w).clocks)
    (hi : (s.ce.task w).ctx.pc < 2 ^ 21) (hp : s.policyOf w.val = 0) :
    ∃ t, exec .budgetAbort s = .next t ∧ t.fld (Reg.CE_BUDCNT w.val) = satAdd (s.fld (Reg.CE_BUDCNT w.val)) 1 ∧
       t.fld (Reg.CE_TRAPINFO_CAUSE w.val) = 0xFF ∧
       (t.fld (Reg.CE_TRAPINFO_INDEX w.val)).toNat = (s.ce.task w).ctx.pc ∧ t.bit Reg.CE_EVT_BUDGET w.val = true ∧
       (t.ce.task w).ready = false ∧ t.mem = s.mem := by
  have late : s.overBudget w = true := by simp [State.overBudget, hw, hb]
  obtain ⟨mem, ready, store⟩ := overspent_frame hwd w
  obtain ⟨-, dmem, dtasks, dfld⟩ := dispatch_nil_frame (store hs)
  obtain ⟨cause, index, -⟩ := fld_trapInfo (s.killRelease w) w.val 0xFF (s.ce.task w).ctx.pc
  have apart := taskKeys_apart (n := w.val) (by omega)
  refine ⟨_, exec_budgetAbort hc late, ?_⟩
  rw [applyPolicy_continue ((overspent_policy hwd hw).trans hp)]
  refine ⟨?_, ?_, ?_, ?_, ?_, dmem.trans mem⟩
  · rw [dfld _ (budcnt_apart hw).2.2.2.1 (budcnt_apart hw).2.2.1, fld_overspent_count hwd hw]
  · rw [dfld _ (apart _ (by simp)).2.2.2.2.2.1 (apart _ (by simp)).2.2.2.2.1, fld_overspent hw (by simp), cause]
    rfl
  · rw [dfld _ (apart _ (by simp)).2.2.2.2.2.1 (apart _ (by simp)).2.2.2.2.1, fld_overspent hw (by simp), index,
      toNat_ofNat_lt (by omega)]
  · rw [State.bit, dfld _ (by decide) (by decide)]
    unfold State.overspent
    rw [fld_report _ _ _ _ _ _ _ (by decide) (by decide)]
    exact bit_setBit_same _ _ (by omega)
  · rw [Ce.task, dtasks]
    exact ready

/-- What the overrun limit does before the policy (R55). -/
def State.overrunNoted (s : State) (w : Who) : State :=
  (s.report .o .fault (evCode 3 55 0) (srcNo 3 w.val) [BitVec.ofNat 8 w.val]).modTask w (fun t => { t with overruns := 0 })

theorem exec_overrunLimit {s : State} {n : Fin 7} {w : Who} (hn : w.val = n.val)
    (hl : (s.fld (Reg.CE_TASKCFG_OVR_LIMIT n.val)).toNat + 1 ≤ (s.ce.task w).overruns) :
    exec (.overrunLimit n) s = .next (
      if (s.overrunNoted w).policyOf n.val = 1 ∨ (s.overrunNoted w).policyOf n.val = 2 then
        (((s.overrunNoted w).killRelease w).applyPolicy n.val).dispatch else s.overrunNoted w) := by
  obtain rfl : w = ⟨n.val, Nat.lt_trans n.isLt (by decide)⟩ := Fin.ext hn
  have due : s.overrunDue ⟨n.val, Nat.lt_trans n.isLt (by decide)⟩ = true := by
    simp only [State.overrunDue, Bool.and_eq_true, decide_eq_true_eq]
    exact ⟨n.isLt, hl⟩
  change execOverrunLimit n s = _
  unfold execOverrunLimit
  simp only [due]
  rfl

section Noted
variable (s : State) (w : Who)

theorem fld_overrunNoted {k : Nat} (hk : logKey k = false) : (s.overrunNoted w).fld k = s.fld k :=
  fld_report _ _ _ _ _ _ _ (by decide) hk

theorem overrunNoted_task_same : ((s.overrunNoted w).ce.task w).overruns = 0 :=
  congrArg TaskRt.overruns (modTask_task_same ..)

theorem overrunNoted_task_other {u : Who} (h : u ≠ w) : (s.overrunNoted w).ce.task u = s.ce.task u :=
  (modTask_task_other _ _ h).trans (by rw [report_ce])

theorem overrunNoted_mode : (s.overrunNoted w).mode = s.mode := report_mode ..
theorem overrunNoted_wd : (s.overrunNoted w).wd = s.wd := report_wd ..
theorem overrunNoted_store : (s.overrunNoted w).ce.store = s.ce.store := by
  change (s.report ..).ce.store = _
  rw [report_ce]

end Noted

/-- STOP_TASK clears ENABLE and sets STOPPED (R56). -/
theorem applyPolicy_stop {s : State} {n : Nat} (hn : n < 8) (h : s.policyOf n = 1) : (s.applyPolicy n).ce = s.ce ∧
    (s.applyPolicy n).fld (Reg.CE_TASKCFG_ENABLE n) = 0 ∧ (s.applyPolicy n).bit Reg.CE_STAT_STOPPED n = true := by
  unfold State.applyPolicy
  rw [if_pos h]
  refine ⟨rfl, ?_, bit_setBit_same _ _ (by omega)⟩
  rw [fld_setBit_other (taskKeys_apart hn _ (by simp)).2.2.2.2.2.2, fld_flag_same]
  rfl

/-- Policy SAFE leaves no overrun counted and nothing in the store buffer: the engine is quiet, or SAFE was in force (R56). -/
theorem applyPolicy_safe {s : State} {n : Nat} {w : Who} (h : s.policyOf n = 2) (ho : (s.ce.task w).overruns = 0)
    (hs : s.ce.store = []) : ((s.applyPolicy n).ce.task w).overruns = 0 ∧ (s.applyPolicy n).ce.store = [] := by
  have safe : s.applyPolicy n = s.enterSafe 7 := by
    unfold State.applyPolicy
    rw [if_neg (by omega), if_pos h]
  rw [safe]
  by_cases hm : s.mode = .safe ∨ s.mode = .recovery
  · rw [enterSafe_idle hm]
    exact ⟨ho, hs⟩
  · obtain ⟨-, store, tasks⟩ := enterSafe_quiet (s := s) (fun e => hm (.inl e)) (fun e => hm (.inr e)) 7
    rw [tasks w]
    exact ⟨rfl, store⟩

/-- Settles O24: BUDGET_ABORT is `budgetAbort_continue`; OVERRUN_LIMIT goes by the policy of the task. -/
theorem budgetAndOverrun : Obligations.BudgetAndOverrun := by
  refine ⟨fun s n w hn hc hwd hs hb hi hp => ?_, fun s n w hn hwd hs hl => ⟨_, exec_overrunLimit hn hl, ?_⟩⟩
  · rw [← hn] at hb hp ⊢
    exact budgetAbort_continue (hn ▸ n.isLt) hc hwd hs hb hi hp
  have hw : w.val < 8 := by omega
  have policy : (s.overrunNoted w).policyOf n.val = s.policyOf n.val :=
    policyOf_eq (fld_overrunNoted s w (hn ▸ (taskKeys_apart hw _ (by simp)).1))
  have wd : (s.overrunNoted w).wd = [] := (overrunNoted_wd s w).trans hwd
  have killedTask := killRelease_task_same wd w
  have killedPolicy : ((s.overrunNoted w).killRelease w).policyOf n.val = s.policyOf n.val :=
    (policyOf_eq (fld_killRelease wd w (hn ▸ (taskKeys_apart hw _ (by simp)).2.2.2.2.1))).trans policy
  have killedStore := killRelease_store_nil wd w ((overrunNoted_store s w).trans hs)
  have killedCount : (((s.overrunNoted w).killRelease w).ce.task w).overruns = 0 := by
    rw [killedTask]; exact overrunNoted_task_same s w
  rw [policy]
  by_cases h1 : s.policyOf n.val = 1
  · obtain ⟨ce, enable, stopped⟩ := applyPolicy_stop (hn ▸ hw) (killedPolicy.trans h1)
    obtain ⟨-, -, tasks, fld⟩ := dispatch_nil_frame ((congrArg Ce.store ce).trans killedStore)
    have apart := taskKeys_apart (hn ▸ hw) (Reg.CE_TASKCFG_ENABLE n.val) (by simp)
    rw [if_pos (.inl h1), Ce.task, tasks, ce]
    refine ⟨killedCount, fun h0 => absurd h0 (by omega), fun _ => ⟨?_, ?_, ?_⟩⟩
    · rw [fld _ apart.2.2.2.2.2.1 apart.2.2.2.2.1, enable]
    · rw [State.bit, fld _ (by decide) (by decide)]; exact stopped
    · exact congrArg TaskRt.ready killedTask
  by_cases h2 : s.policyOf n.val = 2
  · obtain ⟨count, store⟩ := applyPolicy_safe (killedPolicy.trans h2) killedCount killedStore
    obtain ⟨-, -, tasks, -⟩ := dispatch_nil_frame store
    rw [if_pos (.inr h2), Ce.task, tasks]
    exact ⟨count, fun h0 => absurd h0 (by omega), fun h => absurd h h1⟩
  · rw [if_neg (by omega)]
    exact ⟨overrunNoted_task_same s w, fun _ => ⟨overrunNoted_mode s w, fun u hu => overrunNoted_task_other s w hu⟩,
      fun h => absurd h h1⟩

end Sys2Proof.Machine
end

