-- ==== Sys2Proof/Proofs/Lanes.lean ====
section
-- In order, not in parallel: each parallel thread reserves its whole stack of the check's memory.
set_option Elab.async false
/-! SUPPORT. Lanes (spec/06_triad_and_voting.md): a minority halts its lane, a lost majority leads to SAFE (R176 to R178),
and a halted lane comes back or is halted again (R182 to R186). -/
namespace Sys2Proof.Machine

/-! ### The lanes' registers -/

theorem voters_three {s : State} (h : s.voters = 3) (l : Lane) : s.votes l = true := by
  have all := List.countP_eq_length.mp (h : [Lane.a, .b, .c].countP s.votes = [Lane.a, .b, .c].length)
  exact all l (by cases l <;> simp)

theorem stat_ne {l m : Lane} (h : m ≠ l) : m.stat ≠ l.stat := by
  revert h; cases l <;> cases m <;> decide

/-- The fields of CV_STAT that follow the lane states are none of the lanes'. -/
theorem stat_apart (l : Lane) : l.stat ≠ Reg.CV_STAT_TWO_LANE ∧ l.stat ≠ Reg.CV_STAT_FETCH_LANE ∧
    l.stat ≠ Reg.CV_STAT_LAST_MIN ∧ logKey l.stat = false := by
  cases l <;> decide

theorem fld_laneStat {s : State} {k : Nat} (h1 : k ≠ Reg.CV_STAT_TWO_LANE) (h2 : k ≠ Reg.CV_STAT_FETCH_LANE) :
    s.laneStat.fld k = s.fld k := by
  rw [State.laneStat, fld_flag, if_neg h2, fld_flag, if_neg h1]

theorem fld_setLane {s : State} {l : Lane} {v k : Nat} (h : k ≠ l.stat) (h1 : k ≠ Reg.CV_STAT_TWO_LANE)
    (h2 : k ≠ Reg.CV_STAT_FETCH_LANE) : (s.setLane l v).fld k = s.fld k := by
  rw [State.setLane, fld_laneStat h1 h2, fld_setFld_other h]

/-- Two states agree on the lane states. -/
theorem voters_congr {s t : State} (h : ∀ l, t.laneState l = s.laneState l) : t.voters = s.voters := by
  unfold State.voters
  congr 1
  funext l
  rw [State.votes, State.votes, h]

theorem laneState_setLane_same (s : State) (l : Lane) {v : Nat} (hv : v < 2 ^ 32) : (s.setLane l v).laneState l = v := by
  obtain ⟨h1, h2, -⟩ := stat_apart l
  rw [State.laneState, State.setLane, fld_laneStat h1 h2, fld_setFld_same, toNat_ofNat_lt hv]

theorem laneState_setLane_other (s : State) {l m : Lane} (v : Nat) (h : m ≠ l) : (s.setLane l v).laneState m = s.laneState m := by
  obtain ⟨h1, h2, -⟩ := stat_apart m
  rw [State.laneState, fld_setLane (stat_ne h) h1 h2, State.laneState]

/-- TWO_LANE follows the lane states. -/
theorem twoLane_setLane (s : State) (l : Lane) (v : Nat) :
    (s.setLane l v).fld Reg.CV_STAT_TWO_LANE = b2w (decide ((s.setLane l v).voters < 3)) := by
  have same : (s.setLane l v).voters = (s.setFld l.stat (BitVec.ofNat 32 v)).voters := by
    refine voters_congr fun m => ?_
    obtain ⟨h1, h2, -⟩ := stat_apart m
    rw [State.laneState, State.setLane, fld_laneStat h1 h2, State.laneState]
  rw [same, State.setLane, State.laneStat, fld_flag, if_neg (by decide), fld_flag_same]

theorem setLane_mode (s : State) (l : Lane) (v : Nat) : (s.setLane l v).mode = s.mode := rfl
theorem setLane_mem (s : State) (l : Lane) (v : Nat) : (s.setLane l v).mem = s.mem := rfl
theorem setLane_ce (s : State) (l : Lane) (v : Nat) : (s.setLane l v).ce = s.ce := rfl

/-! ### A verdict against one lane (R177) -/

theorem fld_lastMis_kind (s : State) (kind : RecKind) (lane i : Nat) :
    ((s.lastMis kind lane i).fld Reg.CV_LASTMIS_KIND).toNat = kind.code := by
  have hk : kind.code < 2 ^ 32 := by cases kind <;> decide
  unfold State.lastMis State.flag
  rw [fld_setFld_other (by decide), fld_setFld_other (by decide), fld_setFld_other (by decide),
    fld_setFld_other (by decide), fld_setFld_other (by decide), fld_setFld_same, toNat_ofNat_lt hk]

/-- CV_LASTMIS after a verdict. -/
theorem fld_lastMis (s : State) {kind : RecKind} {lane i : Nat} (hl : lane < 4) (hi : i < 2 ^ 21) :
    ((s.lastMis kind lane i).fld Reg.CV_LASTMIS_LANE).toNat = lane ∧
    ((s.lastMis kind lane i).fld Reg.CV_LASTMIS_INDEX).toNat = i := by
  unfold State.lastMis State.flag
  refine ⟨?_, ?_⟩
  · rw [fld_setFld_other (by decide), fld_setFld_other (by decide), fld_setFld_other (by decide),
      fld_setFld_other (by decide), fld_setFld_same, toNat_ofNat_lt (by omega)]
  · rw [fld_setFld_other (by decide), fld_setFld_other (by decide), fld_setFld_other (by decide), fld_setFld_same,
      toNat_ofNat_lt (by omega)]

/-- The fields of CV_LASTMIS and CV_LASTTICK. -/
def lastMisKey (k : Nat) : Bool :=
  [Reg.CV_LASTMIS_KIND, Reg.CV_LASTMIS_LANE, Reg.CV_LASTMIS_INDEX, Reg.CV_LASTMIS_SLOT, Reg.CV_LASTMIS_RETIRED,
    Reg.CV_LASTTICK_TICK].contains k

theorem fld_lastMis_other {s : State} {kind : RecKind} {lane i k : Nat} (h : lastMisKey k = false) :
    (s.lastMis kind lane i).fld k = s.fld k := by
  have ne : ∀ j, lastMisKey j = true → k ≠ j := fun j hj e => by subst e; simp [hj] at h
  unfold State.lastMis State.flag
  rw [fld_setFld_other (ne _ (by decide)), fld_setFld_other (ne _ (by decide)), fld_setFld_other (ne _ (by decide)),
    fld_setFld_other (ne _ (by decide)), fld_setFld_other (ne _ (by decide)), fld_setFld_other (ne _ (by decide))]

/-- What a verdict against a lane does before its record. -/
def State.misjudged (s : State) (l : Lane) (kind : RecKind) (index : Nat) : State :=
  let s := ((s.bump Reg.CV_MISMATCH_CNT).bump l.misCnt).lastMis kind l.code index
  if kind = .dlypar then s.bump Reg.CV_DLYPAR_CNT else s

theorem misjudged_cases (s : State) (l : Lane) (kind : RecKind) (index : Nat) :
    let t := ((s.bump Reg.CV_MISMATCH_CNT).bump l.misCnt).lastMis kind l.code index
    s.misjudged l kind index = t ∨ s.misjudged l kind index = t.bump Reg.CV_DLYPAR_CNT := by
  unfold State.misjudged
  dsimp only
  split
  · exact .inr rfl
  · exact .inl rfl

/-- The counters of a lane's verdicts. -/
theorem misCnt_apart (l : Lane) : lastMisKey l.misCnt = false ∧ l.misCnt ≠ Reg.CV_DLYPAR_CNT ∧
    l.misCnt ≠ Reg.CV_MISMATCH_CNT ∧ logKey l.misCnt = false ∧ l.misCnt ≠ Reg.CV_STAT_LAST_MIN ∧
    l.misCnt ≠ Reg.CV_STAT_TWO_LANE ∧ l.misCnt ≠ Reg.CV_STAT_FETCH_LANE ∧ ∀ m : Lane, l.misCnt ≠ m.stat := by
  cases l <;> exact ⟨by decide, by decide, by decide, by decide, by decide, by decide, by decide,
    fun m => by cases m <;> decide⟩

/-- The fields a verdict leaves as its counters and CV_LASTMIS do. -/
def verdictKey (k : Nat) : Bool := logKey k || k == Reg.CV_STAT_LAST_MIN || k == Reg.CV_STAT_TWO_LANE ||
  k == Reg.CV_STAT_FETCH_LANE || k == Lane.a.stat || k == Lane.b.stat || k == Lane.c.stat

/-- A lane against which a verdict goes, halted and reported. -/
def State.halted (s : State) (l : Lane) (kind : RecKind) (index : Nat) : State :=
  let s := ((s.misjudged l kind index).setLane l 1).setFld Reg.CV_STAT_LAST_MIN (BitVec.ofNat 32 l.code)
  let s := { s with cv.haltedAt := s.cv.haltedAt.setIfInBounds l.code s.time.tick }
  s.report .d .warn (evCode 2 177 0) (srcNo 2 l.code) ([BitVec.ofNat 8 l.code, BitVec.ofNat 8 kind.code] ++ leBytes 4 index)

/-- The record in MRAM of the verdict that halts a lane (R185). -/
def State.noteVerdict (s : State) (l : Lane) (kind : RecKind) (index : Nat) : State :=
  s.setLaneLog l { s.cv.log l with last := some ⟨index, s.slotNo, kind, s.opSec⟩ }

theorem haltLane_eq (s : State) (l : Lane) (kind : RecKind) (index : Nat) : s.haltLane l kind index =
    if s.isFailed l kind index then ((s.halted l kind index).noteVerdict l kind index).failedReadmission l index
    else (s.halted l kind index).noteVerdict l kind index := rfl

@[simp] theorem fld_setLaneLog (s : State) (l : Lane) (x : LaneLog) (k : Nat) : (s.setLaneLog l x).fld k = s.fld k := by
  cases l <;> rfl
@[simp] theorem setLaneLog_mode (s : State) (l : Lane) (x : LaneLog) : (s.setLaneLog l x).mode = s.mode := by cases l <;> rfl
@[simp] theorem setLaneLog_mem (s : State) (l : Lane) (x : LaneLog) : (s.setLaneLog l x).mem = s.mem := by cases l <;> rfl
@[simp] theorem setLaneLog_ce (s : State) (l : Lane) (x : LaneLog) : (s.setLaneLog l x).ce = s.ce := by cases l <;> rfl

section Halted
variable (s : State) (l : Lane) (kind : RecKind) (index : Nat)

theorem misjudged_frame : (s.misjudged l kind index).mode = s.mode ∧ (s.misjudged l kind index).mem = s.mem ∧
    (s.misjudged l kind index).ce = s.ce := by
  rcases misjudged_cases s l kind index with e | e <;> rw [e] <;> simp [State.lastMis]

theorem fld_misjudged_of_lastMis {k : Nat} (h : k ≠ Reg.CV_DLYPAR_CNT) : (s.misjudged l kind index).fld k =
    (((s.bump Reg.CV_MISMATCH_CNT).bump l.misCnt).lastMis kind l.code index).fld k := by
  rcases misjudged_cases s l kind index with e | e <;> rw [e]
  rw [fld_bump, if_neg h]

theorem halted_frame : (s.halted l kind index).mode = s.mode ∧ (s.halted l kind index).mem = s.mem ∧
    (s.halted l kind index).ce = s.ce := by
  obtain ⟨mode, mem, ce⟩ := misjudged_frame s l kind index
  unfold State.halted
  simp only [report_mode, report_mem, report_ce, setFld_mode, setFld_mem, setFld_ce, setLane_mode, setLane_mem, setLane_ce]
  exact ⟨mode, mem, ce⟩

/-- Outside the LOG page, a halt shows what putting the lane into HALTED does, and LAST_MIN. -/
theorem fld_halted {k : Nat} (hl : logKey k = false) (hm : k ≠ Reg.CV_STAT_LAST_MIN) :
    (s.halted l kind index).fld k = ((s.misjudged l kind index).setLane l 1).fld k := by
  unfold State.halted
  rw [fld_report _ _ _ _ _ _ _ (by decide) hl, fld_with, fld_setFld_other hm]

theorem fld_halted_verdict {k : Nat} (h : verdictKey k = false) : (s.halted l kind index).fld k = (s.misjudged l kind index).fld k := by
  simp only [verdictKey, Bool.or_eq_false_iff, beq_eq_false_iff_ne] at h
  obtain ⟨⟨⟨⟨⟨⟨hl, hm⟩, h2⟩, hf⟩, ha⟩, hb⟩, hc⟩ := h
  rw [fld_halted s l kind index hl hm, fld_setLane (by cases l <;> assumption) h2 hf]

theorem laneState_halted (m : Lane) : (s.halted l kind index).laneState m = ((s.misjudged l kind index).setLane l 1).laneState m := by
  obtain ⟨-, -, h3, h4⟩ := stat_apart m
  rw [State.laneState, fld_halted s l kind index h4 h3, State.laneState]

theorem laneState_misjudged (m : Lane) : (s.misjudged l kind index).laneState m = s.laneState m := by
  have h : lastMisKey m.stat = false ∧ m.stat ≠ l.misCnt ∧ m.stat ≠ Reg.CV_MISMATCH_CNT ∧ m.stat ≠ Reg.CV_DLYPAR_CNT := by
    cases m <;> cases l <;> decide
  obtain ⟨h1, h2, h3, h4⟩ := h
  rw [State.laneState, fld_misjudged_of_lastMis s l kind index h4, fld_lastMis_other h1, fld_bump, if_neg h2, fld_bump,
    if_neg h3, State.laneState]

/-- The lane against which a verdict goes is halted, and the others stay as they are. -/
theorem laneState_halted_same : (s.halted l kind index).laneState l = 1 := by
  rw [laneState_halted, laneState_setLane_same _ _ (by decide)]

theorem laneState_halted_other {m : Lane} (h : m ≠ l) : (s.halted l kind index).laneState m = s.laneState m := by
  rw [laneState_halted, laneState_setLane_other _ _ h, laneState_misjudged]

/-- The counts of a verdict. -/
theorem fld_halted_counts : (s.halted l kind index).fld l.misCnt = satAdd (s.fld l.misCnt) 1 ∧
    (s.halted l kind index).fld Reg.CV_MISMATCH_CNT = satAdd (s.fld Reg.CV_MISMATCH_CNT) 1 := by
  have keys : verdictKey l.misCnt = false := by cases l <;> decide
  obtain ⟨h1, h2, h3, -⟩ := misCnt_apart l
  refine ⟨?_, ?_⟩
  · rw [fld_halted_verdict _ _ _ _ keys, fld_misjudged_of_lastMis _ _ _ _ h2, fld_lastMis_other h1, fld_bump_same,
      fld_bump, if_neg h3]
  · rw [fld_halted_verdict _ _ _ _ (by decide), fld_misjudged_of_lastMis _ _ _ _ (by decide),
      fld_lastMis_other (by decide), fld_bump, if_neg h3.symm, fld_bump_same]

theorem fld_halted_kind : ((s.halted l kind index).fld Reg.CV_LASTMIS_KIND).toNat = kind.code := by
  rw [fld_halted_verdict _ _ _ _ (by decide), fld_misjudged_of_lastMis _ _ _ _ (by decide), fld_lastMis_kind]

/-- CV_LASTMIS of a verdict. -/
theorem fld_halted_lastMis (hi : index < 2 ^ 21) :
    ((s.halted l kind index).fld Reg.CV_LASTMIS_LANE).toNat = l.code ∧
    ((s.halted l kind index).fld Reg.CV_LASTMIS_INDEX).toNat = index := by
  have hl : l.code < 4 := by cases l <;> decide
  rw [fld_halted_verdict _ _ _ _ (by decide), fld_halted_verdict _ _ _ _ (by decide),
    fld_misjudged_of_lastMis _ _ _ _ (by decide), fld_misjudged_of_lastMis _ _ _ _ (by decide)]
  exact fld_lastMis _ hl hi

theorem twoLane_halted : (s.halted l kind index).fld Reg.CV_STAT_TWO_LANE = b2w (decide ((s.halted l kind index).voters < 3)) := by
  rw [fld_halted _ _ _ _ (by decide) (by decide), twoLane_setLane, voters_congr (laneState_halted s l kind index)]

/-- One lane among three is halted: two vote. -/
theorem voters_halted (h : s.voters = 3) : (s.halted l kind index).voters = 2 := by
  have votes : ∀ m, (s.halted l kind index).votes m = decide (m ≠ l) := by
    intro m
    by_cases hm : m = l
    · subst hm
      simp [State.votes, laneState_halted_same]
    · simpa [State.votes, laneState_halted_other s l kind index hm, hm] using voters_three h m
  unfold State.voters
  rw [show (s.halted l kind index).votes = fun m => decide (m ≠ l) from funext votes]
  cases l <;> rfl

end Halted

/-- Settles O28: a verdict against one of three lanes is `halted`; the other findings enter SAFE with their cause. -/
theorem laneVoting : Obligations.LaneVoting := by
  refine ⟨fun s l k i h3 hf hi => ?_, fun s k i h1 h2 => ?_⟩
  · have eq : s.minority l k i = (s.halted l k i).noteVerdict l k i := by
      unfold State.minority
      rw [voters_three h3 l, if_neg (by decide), if_pos h3, haltLane_eq, hf, if_neg (by decide)]
    obtain ⟨mode, mem, ce⟩ := halted_frame s l k i
    obtain ⟨mis, all⟩ := fld_halted_counts s l k i
    have kind := fld_halted_kind s l k i
    obtain ⟨lane, index⟩ := fld_halted_lastMis s l k i hi
    have voters : ((s.halted l k i).noteVerdict l k i).voters = 2 := by
      rw [voters_congr (s := s.halted l k i) (fun m => by simp [State.noteVerdict, State.laneState]), voters_halted s l k i h3]
    simp only [eq]
    refine ⟨?_, voters, ?_, ?_, ?_, ?_, ?_, ?_, ?_, ?_, ?_⟩ <;> simp only [State.noteVerdict, State.laneState, fld_setLaneLog,
      setLaneLog_mode, setLaneLog_mem, setLaneLog_ce]
    · exact laneState_halted_same s l k i
    · rw [twoLane_halted, voters_halted s l k i h3]; rfl
    all_goals assumption
  · have counted : ((s.bump Reg.CV_MISMATCH_CNT).lastMis k 3 i).mode = s.mode := by simp [State.lastMis]
    have told := report_mode s .o .critical (evCode 2 178 0) (srcNo 2 0) ([BitVec.ofNat 8 k.code] ++ leBytes 4 i)
    refine ⟨enterSafe_mode (by rwa [counted]) (by rwa [counted]) _, enterSafe_mode (by rwa [told]) (by rwa [told]) _, ?_,
      enterSafe_cause (by rwa [told]) (by rwa [told]) _⟩
    refine (enterSafe_cause (by rwa [counted]) (by rwa [counted]) _).trans ?_
    split <;> rfl

end Sys2Proof.Machine
end

