-- ==== Sys2Proof/Proofs/Readmission.lean ====
section
-- In order, not in parallel: each parallel thread reserves its whole stack of the check's memory.
set_option Elab.async false
/-! SUPPORT. Re-admission of lanes and the countdown of DEGRADED (R182 to R188). -/
namespace Sys2Proof.Machine

/-! ### The beginning of a reload (R183) -/

/-- With nothing in the store buffer the beginning of a reload is the lane's state alone. -/
theorem beginReload_nil {s : State} (h : s.ce.store = []) (l : Lane) : s.beginReload l = s.setLane l 2 := by
  rw [State.beginReload, drainAll_nil h]

/-! ### The end of a reload that comes out right (R183, R184) -/

section Readmit
variable (s : State) (l : Lane)

/-- A lane that comes back, before its record. -/
def State.votesAgain (s : State) (l : Lane) : State :=
  (State.setLane { s with cv.readmitted := s.cv.readmitted.setIfInBounds l.code (some s.time.tick) } l 0).bump Reg.CV_READMIT_CNT

theorem readmit_eq : ∃ p, s.readmit l = (s.votesAgain l).report .d .info (evCode 2 184 0) (srcNo 2 l.code) p := ⟨_, rfl⟩

theorem fld_readmit {k : Nat} (hl : logKey k = false) : (s.readmit l).fld k = (s.votesAgain l).fld k :=
  fld_report _ _ _ _ _ _ _ (by decide) hl

theorem readmit_frame : (s.readmit l).mem = s.mem ∧ (s.readmit l).ce = s.ce ∧ (s.readmit l).cmd = s.cmd := by
  obtain ⟨p, e⟩ := readmit_eq s l
  simp only [e, report_mem, report_ce, report_cmd, State.votesAgain, bump_mem, bump_ce, bump_cmd, setLane_mem, setLane_ce]
  exact ⟨trivial, trivial, rfl⟩

theorem laneState_readmit (m : Lane) : (s.readmit l).laneState m =
    (State.setLane { s with cv.readmitted := s.cv.readmitted.setIfInBounds l.code (some s.time.tick) } l 0).laneState m := by
  have key : m.stat ≠ Reg.CV_READMIT_CNT := by cases m <;> decide
  rw [State.laneState, fld_readmit s l (stat_apart m).2.2.2, State.votesAgain, fld_bump, if_neg key, State.laneState]

theorem fld_readmit_count : (s.readmit l).fld Reg.CV_READMIT_CNT = satAdd (s.fld Reg.CV_READMIT_CNT) 1 := by
  rw [fld_readmit s l (by decide), State.votesAgain, fld_bump_same, fld_setLane (by cases l <;> decide) (by decide) (by decide),
    fld_with]

theorem twoLane_readmit : (s.readmit l).fld Reg.CV_STAT_TWO_LANE = b2w (decide ((s.readmit l).voters < 3)) := by
  rw [fld_readmit s l (by decide), State.votesAgain, fld_bump, if_neg (by decide), twoLane_setLane,
    voters_congr (laneState_readmit s l)]

end Readmit

/-! ### The end of a reload that fails (R185, R186) -/

section Retire
variable (s : State) (l : Lane)

/-- A retired lane, before its record. -/
def State.retired (s : State) (l : Lane) : State :=
  let s := if s.anyRetired then s else s.setDegLeft s.degLimit
  let s := s.setLaneLog l { s.cv.log l with retired := true, retiredAt := (s.fld Reg.SYS_PWRCYC).toNat }
  (s.setLane l 3).flag Reg.CV_LASTMIS_RETIRED true

/-- What the modes make of a retirement: DEGRADED is due, or RIDETHRU returns to it (R186, R224). -/
def State.degradeNext (s : State) : State :=
  match s.mode with
  | .run | .test | .standby | .joining => { s with cv.degradeDue := true }
  | .ridethru => if s.sup.rideFrom = .standby then { s with cv.degradeDue := true } else { s with sup.rideFrom := .degraded }
  | _ => s

theorem retire_eq : s.retire l = ((s.retired l).report .o .critical (evCode 2 186 0) (srcNo 2 l.code)
    [BitVec.ofNat 8 l.code]).degradeNext := rfl

theorem degradeNext_frame : s.degradeNext.mem = s.mem ∧ s.degradeNext.ce = s.ce ∧ ∀ k, s.degradeNext.fld k = s.fld k := by
  unfold State.degradeNext
  (repeat' split) <;> exact ⟨rfl, rfl, fun _ => rfl⟩

/-- Outside the LOG page, a retirement shows what `retired` does. -/
theorem retire_frame : (s.retire l).mem = (s.retired l).mem ∧ (s.retire l).ce = (s.retired l).ce ∧
    ∀ k, logKey k = false → (s.retire l).fld k = (s.retired l).fld k := by
  obtain ⟨mem, ce, fld⟩ := degradeNext_frame ((s.retired l).report .o .critical (evCode 2 186 0) (srcNo 2 l.code)
    [BitVec.ofNat 8 l.code])
  rw [retire_eq, mem, ce, report_mem, report_ce]
  exact ⟨rfl, rfl, fun k hk => (fld k).trans (fld_report _ _ _ _ _ _ _ (by decide) hk)⟩

theorem retired_frame : (s.retired l).mem = s.mem ∧ (s.retired l).ce = s.ce := by
  unfold State.retired
  dsimp only
  split <;> simp [State.setDegLeft, setLane_mem, setLane_ce]

theorem fld_retired {k : Nat} (h1 : k ≠ Reg.CV_LASTMIS_RETIRED) (h2 : k ≠ Reg.CV_STAT_TWO_LANE)
    (h3 : k ≠ Reg.CV_STAT_FETCH_LANE) (h4 : k ≠ l.stat) (h5 : k ≠ Reg.CV_DEGLEFT_SECONDS) : (s.retired l).fld k = s.fld k := by
  unfold State.retired
  dsimp only
  rw [fld_flag, if_neg h1, fld_setLane h4 h2 h3, fld_setLaneLog]
  split
  · rfl
  · rw [State.setDegLeft, fld_setFld_other h5, fld_with]

theorem laneState_retired : (s.retired l).laneState l = 3 := by
  have key : l.stat ≠ Reg.CV_LASTMIS_RETIRED := by cases l <;> decide
  unfold State.retired
  dsimp only
  rw [State.laneState, fld_flag, if_neg key]
  exact laneState_setLane_same _ l (by decide)

end Retire

section Failed
variable (s : State) (l : Lane) (index : Nat)

/-- A failed re-admission counted and reported. -/
def State.failureNoted (s : State) (l : Lane) (index : Nat) : State :=
  let x := s.cv.log l
  let s := s.setLaneLog l { x with fails := (s.opSec :: x.fails).take 3 }
  ((s.bump Reg.CV_READMIT_FAIL_CNT).report .d .fault (evCode 2 185 0) (srcNo 2 l.code)
    ([BitVec.ofNat 8 l.code] ++ leBytes 4 index)).failWindow l

/-- The third failure within an hour retires the lane (R186). -/
theorem failedReadmission_cases : s.failedReadmission l index = s.failureNoted l index ∨
    s.failedReadmission l index = (s.failureNoted l index).retire l := by
  unfold State.failedReadmission
  dsimp only
  split
  · split
    · exact .inr rfl
    · exact .inl rfl
  · exact .inl rfl

theorem failureNoted_frame : (s.failureNoted l index).mem = s.mem ∧ (s.failureNoted l index).ce = s.ce := by
  simp [State.failureNoted, State.failWindow]

theorem fld_failureNoted {k : Nat} (h1 : k ≠ l.failWin) (h2 : logKey k = false) :
    (s.failureNoted l index).fld k = if k = Reg.CV_READMIT_FAIL_CNT then satAdd (s.fld Reg.CV_READMIT_FAIL_CNT) 1 else s.fld k := by
  unfold State.failureNoted State.failWindow
  dsimp only
  rw [fld_setFld_other h1, fld_report _ _ _ _ _ _ _ (by decide) h2, fld_bump, fld_setLaneLog, fld_setLaneLog]

/-- A failed re-admission leaves memory and engine alone, counts, and leaves the verdict in CV_LASTMIS. -/
theorem failedReadmission_frame : (s.failedReadmission l index).mem = s.mem ∧ (s.failedReadmission l index).ce = s.ce ∧
    (s.failedReadmission l index).fld Reg.CV_READMIT_FAIL_CNT = satAdd (s.fld Reg.CV_READMIT_FAIL_CNT) 1 ∧
    (s.failedReadmission l index).fld Reg.CV_LASTMIS_KIND = s.fld Reg.CV_LASTMIS_KIND ∧
    (s.laneState l ≠ 0 → (s.failedReadmission l index).laneState l ≠ 0) := by
  have keys : Reg.CV_READMIT_FAIL_CNT ≠ l.failWin ∧ Reg.CV_LASTMIS_KIND ≠ l.failWin ∧ l.stat ≠ l.failWin ∧
      l.stat ≠ Reg.CV_READMIT_FAIL_CNT ∧ Reg.CV_READMIT_FAIL_CNT ≠ l.stat ∧ Reg.CV_LASTMIS_KIND ≠ l.stat := by
    cases l <;> decide
  obtain ⟨w1, w2, w3, w4, s1, s2⟩ := keys
  obtain ⟨mem, ce⟩ := failureNoted_frame s l index
  have count := fld_failureNoted s l index w1 (by decide)
  have kind := fld_failureNoted s l index w2 (by decide)
  have lane := fld_failureNoted s l index w3 (stat_apart l).2.2.2
  rw [if_pos rfl] at count
  rw [if_neg (by decide)] at kind
  rw [if_neg w4] at lane
  rcases failedReadmission_cases s l index with e | e <;> rw [e]
  · exact ⟨mem, ce, count, kind, fun h => by rwa [State.laneState, lane]⟩
  · obtain ⟨rmem, rce, rfld⟩ := retire_frame (s.failureNoted l index) l
    obtain ⟨dmem, dce⟩ := retired_frame (s.failureNoted l index) l
    refine ⟨rmem.trans (dmem.trans mem), rce.trans (dce.trans ce), ?_, ?_, fun _ => ?_⟩
    · rw [rfld _ (by decide), fld_retired _ _ (by decide) (by decide) (by decide) s1 (by decide), count]
    · rw [rfld _ (by decide), fld_retired _ _ (by decide) (by decide) (by decide) s2 (by decide), kind]
    · rw [State.laneState, rfld _ (stat_apart l).2.2.2]
      exact (laneState_retired _ l).trans_ne (by decide)

/-- A reload that fails its check halts the lane again, and is counted (R183, R185). -/
theorem haltLane_reload : (s.haltLane l .reload index).mem = s.mem ∧ (s.haltLane l .reload index).ce = s.ce ∧
    (s.haltLane l .reload index).fld Reg.CV_READMIT_FAIL_CNT = satAdd (s.fld Reg.CV_READMIT_FAIL_CNT) 1 ∧
    ((s.haltLane l .reload index).fld Reg.CV_LASTMIS_KIND).toNat = RecKind.reload.code ∧
    (s.haltLane l .reload index).laneState l ≠ 0 := by
  have failed : s.isFailed l .reload index = true := rfl
  obtain ⟨-, mem, ce⟩ := halted_frame s l .reload index
  obtain ⟨fmem, fce, count, kind, lane⟩ := failedReadmission_frame ((s.halted l .reload index).noteVerdict l .reload index) l index
  have noted : ∀ k, ((s.halted l .reload index).noteVerdict l .reload index).fld k = (s.halted l .reload index).fld k :=
    fun k => fld_setLaneLog ..
  have counted : (s.halted l .reload index).fld Reg.CV_READMIT_FAIL_CNT = s.fld Reg.CV_READMIT_FAIL_CNT := by
    have key : Reg.CV_READMIT_FAIL_CNT ≠ l.misCnt := by cases l <;> decide
    rw [fld_halted_verdict _ _ _ _ (by decide), fld_misjudged_of_lastMis _ _ _ _ (by decide),
      fld_lastMis_other (by decide), fld_bump, if_neg key, fld_bump, if_neg (by decide)]
  rw [haltLane_eq, failed, if_pos rfl]
  refine ⟨fmem.trans ((setLaneLog_mem ..).trans mem), fce.trans ((setLaneLog_ce ..).trans ce), ?_, ?_, lane ?_⟩
  · rw [count, noted, counted]
  · rw [kind, noted, fld_halted_kind]
  · rw [State.laneState, noted]
    exact (laneState_halted_same s l .reload index).trans_ne (by decide)

end Failed

/-! ### The commands (R182 to R188) -/

theorem exec_laneReadmission {s : State} (h : s.mayReload = true) (l : Lane) (c : Copies) (ok : Bool) :
    exec (.laneReadmission l c ok) s = .next (if s.laneState l = 2 then s.endReload l c ok
      else if s.laneState l = 1 ∧ !s.reloading ∧ s.bestCyclic = none then s.beginReload l else s) := by
  change execLaneReadmission l c ok s = _
  unfold execLaneReadmission
  rw [h]; rfl

theorem exec_forcedReadmission {s : State} (h : s.mayReload = true) (l : Lane) (c : Copies) (ok : Bool) :
    exec (.forcedReadmission l c ok) s = .next (if s.laneState l = 2 then s.endReload l c ok
      else if s.laneState l = 1 ∧ !s.reloading ∧ s.cv.haltedAt.toList.getD l.code 0 + 4000 ≤ s.time.tick then
        (s.bump Reg.CV_FORCED_CNT).beginReload l else s) := by
  change execForcedReadmission l c ok s = _
  unfold execForcedReadmission
  rw [h]; rfl

/-- How a reload ends (R183 to R185). -/
theorem endReload_cases {s : State} (hm : s.mode ≠ .safe ∧ s.mode ≠ .recovery) (l : Lane) (c : Copies) (ok : Bool) :
    (c = .agree → ok = true → s.cmd.longOp = none → s.endReload l c ok = s.readmit l) ∧
    (c = .agree → ok = false → s.endReload l c ok = s.haltLane l .reload s.reloadIndex) ∧
    (c ≠ .agree → (s.endReload l c ok).mode = .safe) := by
  have set : (s.setLane l 1).mode = s.mode := rfl
  refine ⟨?_, ?_, ?_⟩
  · rintro rfl rfl hl
    have none : (s.readmit l).cmd.longOp = none := by rw [(readmit_frame s l).2.2]; exact hl
    simp only [State.endReload, if_true, State.answerLong, none]
  · rintro rfl rfl
    rfl
  · intro hc
    cases c with
    | agree => exact absurd rfl hc
    | differ =>
      have counted : (((s.setLane l 1).bump Reg.CV_MISMATCH_CNT).lastMis .reload 3 s.reloadIndex).mode = s.mode := by
        simp [State.lastMis, set]
      exact enterSafe_mode (by rw [counted]; exact hm.1) (by rw [counted]; exact hm.2) _
    | split =>
      have told := fun p => (report_mode (s.setLane l 1) .o .critical (evCode 2 178 0) (srcNo 2 0) p).trans set
      exact enterSafe_mode (by rw [told]; exact hm.1) (by rw [told]; exact hm.2) _

/-- The countdown of DEGRADED (R187, R188). -/
theorem exec_degleftCountdown {s : State} (h1 : s.anyRetired = true) (h2 : s.sup.powered = true) :
    exec .degleftCountdown s = .next (if s.cv.degLeft - 1 = 0 ∧ s.mode = .degraded then
      ((s.setDegLeft (s.cv.degLeft - 1)).report .o .critical (evCode 2 188 0) (srcNo 2 0) []).enterSafe 0x06
      else s.setDegLeft (s.cv.degLeft - 1)) := by
  change execDegleftCountdown s = _
  unfold execDegleftCountdown
  rw [h1, h2]; rfl

/-- Settles O27: a reload begins with the lane's state and ends as `endReload_cases` says; the countdown enters SAFE at
zero. -/
theorem readmissionAndCountdown : Obligations.ReadmissionAndCountdown := by
  refine ⟨fun s l c ok hr hs => ⟨fun h1 hn => ⟨fun hb => ?_, fun ht => ?_⟩, fun h2 i hi => ?_⟩,
    fun s h1 h2 => ⟨fun hd h0 => ?_, fun hd hm => ?_⟩⟩
  · refine ⟨s.setLane l 2, ?_, laneState_setLane_same s l (by decide), setLane_mem .., setLane_ce ..⟩
    rw [exec_laneReadmission hr, if_neg (by omega), if_pos ⟨h1, by simp [hn], hb⟩, beginReload_nil hs]
  · refine ⟨(s.bump Reg.CV_FORCED_CNT).setLane l 2, ?_, laneState_setLane_same _ l (by decide), ?_, setLane_mem .., setLane_ce ..⟩
    · rw [exec_forcedReadmission hr, if_neg (by omega), if_pos ⟨h1, by simp [hn], ht⟩, beginReload_nil (by exact hs)]
    · rw [fld_setLane (by cases l <;> decide) (by decide) (by decide), fld_bump_same]
  · have modes : s.mode ≠ .safe ∧ s.mode ≠ .recovery := by
      simp only [State.mayReload, Bool.and_eq_true, decide_eq_true_eq] at hr
      exact ⟨hr.2.2.2.2, hr.2.2.2.1⟩
    have ends : exec i s = .next (s.endReload l c ok) := by
      simp only [List.mem_cons, List.not_mem_nil, or_false] at hi
      rcases hi with rfl | rfl
      · rw [exec_laneReadmission hr, if_pos h2]
      · rw [exec_forcedReadmission hr, if_pos h2]
    obtain ⟨right, wrong, safe⟩ := endReload_cases modes l c ok
    refine ⟨_, ends, fun hc hok hl => ?_, fun hc hok => ?_, safe⟩
    · obtain ⟨mem, ce, -⟩ := readmit_frame s l
      rw [right hc hok hl]
      refine ⟨?_, fld_readmit_count s l, twoLane_readmit s l, mem, ce⟩
      rw [laneState_readmit, laneState_setLane_same _ l (by decide)]
    · obtain ⟨mem, ce, count, kind, lane⟩ := haltLane_reload s l s.reloadIndex
      rw [wrong hc hok]
      exact ⟨lane, count, kind, mem, ce⟩
  · refine ⟨_, exec_degleftCountdown h1 h2, ?_⟩
    have stays : ¬ (s.cv.degLeft - 1 = 0 ∧ s.mode = .degraded) := by
      rintro ⟨hz, hm⟩
      rcases hd with hd | hd
      · omega
      · exact hd hm
    rw [if_neg stays]
    exact ⟨rfl, fld_setFld_same .., rfl⟩
  · refine ⟨_, exec_degleftCountdown h1 h2, ?_⟩
    have told : ((s.setDegLeft (s.cv.degLeft - 1)).report .o .critical (evCode 2 188 0) (srcNo 2 0) []).mode = .degraded :=
      (report_mode ..).trans hm
    rw [if_pos ⟨by omega, hm⟩]
    exact ⟨enterSafe_mode (by rw [told]; decide) (by rw [told]; decide) _,
      enterSafe_cause (by rw [told]; decide) (by rw [told]; decide) _⟩

end Sys2Proof.Machine
end

