-- ==== Sys2Proof/Proofs/SafeOutputs.lean ====
section
-- In order, not in parallel: each parallel thread reserves its whole stack of the check's memory.
set_option Elab.async false
/-! SUPPORT. Entry to SAFE in a state that no run reaches: a post to a ring that does not exist waits for the store buffer,
and what its idle point applies lies on the page of the field channels (R225, R258, R281). -/
namespace Sys2Proof.Machine

/-- RUN with a store and a post to ring 208 behind it, and a staged value for the output of channel 5. -/
def strayPost : State := { State.reset with
  mode := .run, ce.store := [⟨0x04400000, 4, 0, none⟩], ring.deferred := [(1, .post 208 0)],
  staged := [(Reg.FCH_STAT_DRIVE 5, 1)] }

/-- The store buffer empties after the outputs went off, and the post's ring applies the staged value. -/
theorem strayPost_output_on : (strayPost.enterSafe 1).fieldOff = false := by decide +kernel

/-- Refutes O30: entry to SAFE switches the outputs off before it empties the store buffer, so in `strayPost` an output
comes on again. -/
theorem not_safeEntryAndSupervisor : ¬ Obligations.SafeEntryAndSupervisor := by
  rintro ⟨h, -⟩
  obtain ⟨-, -, -, off, -⟩ := h strayPost 1 (by decide) (by decide) (by decide)
  exact absurd off (by rw [strayPost_output_on]; decide)

end Sys2Proof.Machine
end

