-- ==== Sys2Proof/Proofs/Scrub.lean ====
section
-- In order, not in parallel: each parallel thread reserves its whole stack of the check's memory.
set_option Elab.async false
/-! SUPPORT. Traverse and the scrub of Program RAM (spec/07_protected_store.md, R203 to R207). -/
namespace Sys2Proof.Machine

/-! ### Traverse (R203 to R206) -/

/-- Two memories with the same words, and the same write-backs waiting. -/
def SameWords (m n : Mem) : Prop := n.wb = m.wb ∧ ∀ b x, n.code b x = m.code b x

theorem SameWords.refl (m : Mem) : SameWords m m := ⟨rfl, fun _ _ => rfl⟩

/-- Where Traverse is does not matter to the words. -/
theorem sameWords_trav {m n : Mem} (h : SameWords m n) (r w k : Nat) :
    SameWords m { n with travRange := r, travWord := w, travStart := k } :=
  ⟨h.1, fun b x => (by cases b <;> rfl : _ = n.code b x).trans (h.2 b x)⟩

@[simp] theorem applyStaged_mem (s : State) (p : Nat → Bool) : (s.applyStaged p).mem = s.mem := by
  unfold State.applyStaged
  generalize s.staged.filter (fun e => p e.1) = l
  have : ∀ t : State, (l.foldl (fun s e => s.setFld e.1 e.2) t).mem = t.mem := by
    induction l with
    | nil => exact fun _ => rfl
    | cons x l ih => exact fun t => ih _
  exact this _

theorem lapBegin_words {m : Mem} {s : State} (h : SameWords m s.mem) : SameWords m s.lapBegin.mem := by
  have staged : ((s.applyStaged (fun k => keyPage k == 0x04)).flag Reg.PS_STAT_TRAV_STAGED false).mem = s.mem := by simp
  unfold State.lapBegin
  dsimp only
  split
  · exact sameWords_trav (n := State.mem _) (by rw [flag_mem, staged]; exact h) _ _ _
  · exact sameWords_trav (n := State.mem _) (by rw [staged]; exact h) _ _ _

theorem lapEnd_words {m : Mem} {s : State} (h : SameWords m s.mem) : SameWords m s.lapEnd.mem := by
  unfold State.lapEnd
  dsimp only
  refine lapBegin_words ?_
  split <;> simpa using h

theorem scrubStep_words {m : Mem} {s : State} (h : SameWords m s.mem) (n first w : Nat) : SameWords m (s.scrubStep n first w).mem := by
  have moved := sameWords_trav h n (w + 1 - first) s.mem.travStart
  unfold State.scrubStep
  dsimp only
  split
  · exact moved
  · exact lapEnd_words moved

@[simp] theorem scrubShow_mem (s : State) : s.scrubShow.mem = s.mem := by
  unfold State.scrubShow; split <;> rfl

/-- What Traverse reads stays as it is; a word to be corrected or poisoned waits for it (R205). -/
theorem scrubWord_words (s : State) (a : Arr) (w : Nat) : (s.scrubWord a w).mem.wb = s.mem.wb ++
      (match (s.mem.code a w).cls w with
        | .ce => [⟨a, w, false, corrected w (s.mem.code a w)⟩]
        | .ue => [⟨a, w, true, 0⟩]
        | _ => []) ∧ ∀ b x, (s.scrubWord a w).mem.code b x = s.mem.code b x := by
  unfold State.scrubWord
  dsimp only
  split <;> rename_i e <;> simp only [e, countCe_mem, countUe_mem, bump_mem, List.append_nil, true_and, implies_true]
  · intro b x; cases b <;> rfl
  · intro b x; cases b <;> rfl

theorem exec_traverse {s : State} (h : s.travRuns = true) (h0 : 0 < s.mem.travWord) {n w : Nat} {a : Arr}
    (hn : s.scrubNext s.mem.travRange s.mem.travWord = some (n, a, w)) :
    ∃ first, exec .traverseScrubRead s = .next ((s.scrubWord a w).scrubStep n first w).scrubShow := by
  refine ⟨match s.scrubRange n with | some r => r.2.1 | none => w, ?_⟩
  change execTraverseScrubRead s = _
  have begun : ¬ (s.mem.travRange = 0 ∧ s.mem.travWord = 0) := by omega
  unfold execTraverseScrubRead
  simp only [h, begun, if_false, hn, Bool.not_true, Bool.false_eq_true] <;> rfl

/-! ### Program RAM (R207) -/

/-- What the scrub makes of a code word. -/
def scrubCode (w : Nat) (c : Code) : Code :=
  match c.cls w with
  | .ce => encodeWord w (corrected w c)
  | .ue => poisonWord w
  | _ => c

/-- The class of a scrubbed word. -/
theorem scrubCode_cls (w : Nat) (c : Code) : (scrubCode w c).cls w = match c.cls w with
    | .ce => .clean
    | .ue => .poison
    | k => k := by
  unfold scrubCode
  split <;> rename_i e <;> simp [e]

/-- A scrubbed word is scrubbed. -/
theorem scrubCode_idem (w : Nat) (c : Code) : scrubCode w (scrubCode w c) = scrubCode w c := by
  have h := scrubCode_cls w c
  have stays : ∀ d : Code, d.cls w ≠ .ce → d.cls w ≠ .ue → scrubCode w d = d := by
    intro d h1 h2
    unfold scrubCode
    split <;> simp_all
  refine stays _ ?_ ?_ <;> rw [h] <;> split <;> simp_all

theorem cancelWb_code (s : State) (a b : Arr) (w x : Nat) : (s.cancelWb a w).mem.code b x = s.mem.code b x := by
  unfold State.cancelWb
  dsimp only
  split
  · cases b <;> rfl
  · rfl

theorem dirtyWord_mem (s : State) (a : Arr) (w : Nat) : (s.dirtyWord a w).mem = s.mem := by
  unfold State.dirtyWord State.dirtyPage State.setDirty
  (repeat' split) <;> simp

/-- A code word stored is the one that is read, and no other changes. -/
theorem putCode_code (s : State) (a b : Arr) (w x : Nat) (c : Code) :
    (s.putCode a w c).mem.code b x = if (b, x) = (a, w) then c else s.mem.code b x := by
  unfold State.putCode
  dsimp only
  rw [dirtyWord_mem]
  split
  · next h =>
    obtain ⟨rfl, rfl⟩ := Prod.mk.inj h
    exact code_put_same ..
  · next h => rw [code_put_other _ _ _ _ _ _ h, cancelWb_code]

theorem fullWrite_code (s : State) (a b : Arr) (w x : Nat) (d : DWord) :
    (s.fullWrite a w d).mem.code b x = if (b, x) = (a, w) then encodeWord w d else s.mem.code b x := putCode_code ..

theorem poison_code (s : State) (a b : Arr) (w x : Nat) :
    (s.poison a w).mem.code b x = if (b, x) = (a, w) then poisonWord w else s.mem.code b x := by
  unfold State.poison
  dsimp only
  split <;> simp only [flag_mem, bump_mem, putCode_code]

/-- What the scrub does with one listed word. -/
def State.scrubPrg (s : State) (w : Nat) : State :=
  let c := s.mem.code .prg w
  let k := c.cls w
  let s := s.account .prg w .supervisor
  match k with
  | .ce => s.fullWrite .prg w (corrected w c)
  | .ue => s.poison .prg w
  | _ => s

theorem scrubPrg_code (s : State) (w x : Nat) : (s.scrubPrg w).mem.code .prg x =
    if x = w then scrubCode w (s.mem.code .prg w) else s.mem.code .prg x := by
  unfold State.scrubPrg scrubCode
  dsimp only
  split <;> rename_i e <;> simp only [fullWrite_code, poison_code, account_mem, Prod.mk.injEq, true_and]
  split
  · next h => rw [h]
  · rfl

/-- A run over listed words scrubs each of them. -/
theorem scrub_run_code (l : List (Nat × Code)) (s : State) (x : Nat) :
    (l.foldl (fun s e => s.scrubPrg e.1) s).mem.code .prg x =
      if x ∈ l.map (·.1) then scrubCode x (s.mem.code .prg x) else s.mem.code .prg x := by
  induction l generalizing s with
  | nil => rfl
  | cons e l ih =>
    rw [List.foldl_cons, ih, scrubPrg_code]
    by_cases hx : x = e.1
    · subst hx
      simp [scrubCode_idem]
    · rw [if_neg hx]
      exact if_congr (by rw [List.map_cons, List.mem_cons, or_iff_right hx]) rfl rfl

theorem sget_none_of_not_mem {α : Type} {m : Sparse α} {x : Nat} (h : x ∉ m.map (·.1)) : sget m x = none := by
  induction m with
  | nil => rfl
  | cons p t ih =>
    simp only [List.map_cons, List.mem_cons, not_or] at h
    rw [sget, if_neg (Ne.symm h.1), ih h.2]

/-- Every word of Program RAM is scrubbed: one that is not listed is clean. -/
theorem scrub_all_cls (s : State) (w : Nat) : ((s.mem.prg.foldl (fun s e => s.scrubPrg e.1) s).mem.code .prg w).cls w =
    match (s.mem.code .prg w).cls w with
    | .ce => .clean
    | .ue => .poison
    | k => k := by
  rw [scrub_run_code]
  split
  · exact scrubCode_cls _ _
  · next h =>
    have clean : s.mem.code .prg w = encodeWord w 0 := by
      rw [Mem.code, show s.mem.list .prg = s.mem.prg from rfl, sget_none_of_not_mem h]; rfl
    rw [clean, encodeWord_cls]

/-- Settles O29: Traverse stands still where it does not run, else its word decides what waits; Program RAM is scrubbed word
by word. -/
theorem scrubbing : Obligations.Scrubbing := by
  refine ⟨fun s h => ?_, fun s n w a h h0 hn => ?_, fun s h1 h2 h3 _ => ?_⟩
  · have off : s.travRuns = false := by simp [State.travRuns, h]
    refine ⟨?_, ?_⟩
    · change execTraverseScrubRead s = _
      unfold execTraverseScrubRead
      rw [off]; rfl
    · rw [State.get, if_neg (by decide), if_neg (by decide), if_neg (by decide), if_pos rfl, off]; rfl
  · obtain ⟨first, e⟩ := exec_traverse h h0 hn
    obtain ⟨wb, code⟩ := scrubWord_words s a w
    obtain ⟨swb, scode⟩ := scrubStep_words (SameWords.refl (s.scrubWord a w).mem) n first w
    refine ⟨_, e, fun b x => ?_, ?_⟩
    · rw [scrubShow_mem, scode, code]
    · rw [scrubShow_mem, swb]
      exact wb
  · refine ⟨_, ?_, scrub_all_cls s⟩
    change execProgramRamScrub s = _
    unfold execProgramRamScrub
    rw [if_neg (by rw [h3]; simp [h1, h2])]
    rfl

end Sys2Proof.Machine
end

