-- ==== Sys2Proof/Proofs/Power.lean ====
section
-- In order, not in parallel: each parallel thread reserves its whole stack of the check's memory.
set_option Elab.async false
/-! SUPPORT. Feeds, hold-up store, ageing monitors and operating points (R455 to R470). -/
namespace Sys2Proof.Machine

theorem fld_flag_other {s : State} {k j : Nat} {b : Bool} (h : j ≠ k) : (s.flag k b).fld j = s.fld j := fld_setFld_other h
theorem fld_bump_other {s : State} {k j : Nat} (h : j ≠ k) : (s.bump k).fld j = s.fld j := fld_setFld_other h

/-! ### Feeds (R455, R456) -/

/-- What a feed event leaves: everything but registers, records and the stress counts. -/
def sameUnits (s t : State) : Prop := t.mode = s.mode ∧ t.mem = s.mem ∧ t.ce = s.ce ∧ t.field = s.field

theorem sameUnits.trans {s t u : State} (h : sameUnits s t) (k : sameUnits t u) : sameUnits s u :=
  ⟨k.1.trans h.1, k.2.1.trans h.2.1, k.2.2.1.trans h.2.2.1, k.2.2.2.trans h.2.2.2⟩

theorem feedComes_same (s : State) (f : Bool) : sameUnits s (s.feedComes f) := by
  unfold State.feedComes
  dsimp only
  split
  · exact ⟨rfl, rfl, rfl, rfl⟩
  · split <;> exact ⟨rfl, rfl, rfl, rfl⟩

theorem feedComes_good (s : State) (f : Bool) : (s.feedComes f).fld (feedGoodKey f) = 1 := by
  unfold State.feedComes
  dsimp only
  split
  · cases f <;> simp [b2w]
  · split <;> cases f <;> simp (disch := decide) [feedGoodKey, fld_flag_other, fld_bump_other, b2w]

theorem feedComes_return {s : State} (h : s.noFeed = true) (hs : s.fld Reg.PWR_STAT_STOPPING = 0) (f : Bool) :
    (s.feedComes f).fld Reg.PWR_EVT_RIDETHRU_RETURN = 1 ∧
    (s.mode = .ridethru → (s.feedComes f).fld Reg.PWR_RETURNCNT = satAdd (s.fld Reg.PWR_RETURNCNT) 1) := by
  have key : Reg.PWR_RETURNCNT ≠ feedGoodKey f := by cases f <;> decide
  unfold State.feedComes
  by_cases hm : s.mode = .ridethru <;>
    simp (disch := decide) [h, hs, hm, fld_flag_other, fld_bump_other, fld_flag_other key, b2w]

/-- The state in which a lost feed is counted, before both feeds are looked at (R456). -/
def State.feedCounted (s : State) (f : Bool) : State :=
  let p := (s.pwr.setDip f false).stress f (fun x => { x with losses := x.losses + 1 })
  (((State.flag { s with pwr := p } (feedGoodKey f) false).flag
    (if f then Reg.PWR_EVT_FEED2_LOST else Reg.PWR_EVT_FEED1_LOST) true).bump
    (if f then Reg.PWR_LOSSCNT2 else Reg.PWR_LOSSCNT1)).report .d .warn 0x0F01 (srcNo 15 (feedNo f)) []

/-- The keys that a lost feed writes. -/
def feedLossKeys (f : Bool) : List Nat :=
  [feedGoodKey f, if f then Reg.PWR_EVT_FEED2_LOST else Reg.PWR_EVT_FEED1_LOST, if f then Reg.PWR_LOSSCNT2 else Reg.PWR_LOSSCNT1]

theorem fld_feedCounted_other {s : State} {f : Bool} {k : Nat} (hl : logKey k = false) (hk : k ∉ feedLossKeys f) :
    (s.feedCounted f).fld k = s.fld k := by
  simp only [feedLossKeys, List.mem_cons, List.not_mem_nil, or_false, not_or] at hk
  obtain ⟨h1, h2, h3⟩ := hk
  unfold State.feedCounted
  rw [fld_report _ _ _ _ _ _ _ (by decide) hl, fld_bump_other h3, fld_flag_other h2, fld_flag_other h1, fld_with]

theorem feedCounted_fields (s : State) (f : Bool) : (s.feedCounted f).fld (feedGoodKey f) = 0 ∧
    (s.feedCounted f).fld (if f then Reg.PWR_EVT_FEED2_LOST else Reg.PWR_EVT_FEED1_LOST) = 1 ∧
    (s.feedCounted f).fld (if f then Reg.PWR_LOSSCNT2 else Reg.PWR_LOSSCNT1) =
      satAdd (s.fld (if f then Reg.PWR_LOSSCNT2 else Reg.PWR_LOSSCNT1)) 1 := by
  unfold State.feedCounted
  cases f <;> refine ⟨?_, ?_, ?_⟩ <;> rw [fld_report _ _ _ _ _ _ _ (by decide) (by decide)] <;>
    simp (disch := decide) [feedGoodKey, fld_flag_other, fld_bump_other, b2w]

/-- With the second feed the supply is interrupted (R461). -/
def State.feedsLost (t : State) : State :=
  ((State.flag { t with pwr.bothLost := t.pwr.bothLost + 1 } Reg.PWR_EVT_BOTH_LOST true).bump Reg.PWR_INTCNT).flag
    Reg.PWR_STAT_HOLDUP_READY false

theorem feedGoes_eq (s : State) (f : Bool) :
    s.feedGoes f = if (s.feedCounted f).noFeed then (s.feedCounted f).feedsLost else s.feedCounted f := rfl

theorem feedCounted_noFeed (s : State) (f : Bool) : (s.feedCounted f).noFeed = !s.feedGood (!f) := by
  have lost := (feedCounted_fields s f).1
  have other : (s.feedCounted f).feedGood (!f) = s.feedGood (!f) := by
    unfold State.feedGood
    rw [fld_feedCounted_other (by cases f <;> decide) (by cases f <;> decide)]
  have here : (s.feedCounted f).feedGood f = false := by simp [State.feedGood, lost]
  cases f <;> simp_all [State.noFeed]

theorem feedCounted_pwr (s : State) (f : Bool) : (s.feedCounted f).pwr =
    (s.pwr.setDip f false).stress f (fun x => { x with losses := x.losses + 1 }) := by
  unfold State.feedCounted
  rw [report_pwr]
  rfl

theorem feedsLost_same (s : State) : sameUnits s s.feedsLost := ⟨rfl, rfl, rfl, rfl⟩

theorem feedCounted_same (s : State) (f : Bool) : sameUnits s (s.feedCounted f) := by
  simp [State.feedCounted, sameUnits]

theorem feedGoes_same (s : State) (f : Bool) : sameUnits s (s.feedGoes f) := by
  have h := feedCounted_same s f
  rw [feedGoes_eq]
  split
  · exact h.trans (feedsLost_same _)
  · exact h

/-- What both feeds being lost adds leaves every other field. -/
theorem fld_feedGoes {s : State} {f : Bool} {k : Nat} (h1 : k ≠ Reg.PWR_EVT_BOTH_LOST) (h2 : k ≠ Reg.PWR_INTCNT)
    (h3 : k ≠ Reg.PWR_STAT_HOLDUP_READY) : (s.feedGoes f).fld k = (s.feedCounted f).fld k := by
  rw [feedGoes_eq]
  split
  · rw [State.feedsLost, fld_flag_other h3, fld_bump_other h2, fld_flag_other h1, fld_with]
  · rfl

theorem feedGoes_fields (s : State) (f : Bool) : (s.feedGoes f).fld (feedGoodKey f) = 0 ∧
    (s.feedGoes f).fld (if f then Reg.PWR_EVT_FEED2_LOST else Reg.PWR_EVT_FEED1_LOST) = 1 ∧
    (s.feedGoes f).fld (if f then Reg.PWR_LOSSCNT2 else Reg.PWR_LOSSCNT1) =
      satAdd (s.fld (if f then Reg.PWR_LOSSCNT2 else Reg.PWR_LOSSCNT1)) 1 := by
  have apart : ∀ k ∈ feedLossKeys f, k ≠ Reg.PWR_EVT_BOTH_LOST ∧ k ≠ Reg.PWR_INTCNT ∧ k ≠ Reg.PWR_STAT_HOLDUP_READY := by
    cases f <;> decide
  have keep : ∀ k ∈ feedLossKeys f, (s.feedGoes f).fld k = (s.feedCounted f).fld k := fun k hk =>
    fld_feedGoes (apart k hk).1 (apart k hk).2.1 (apart k hk).2.2
  have h := feedCounted_fields s f
  rwa [← keep _ (by simp [feedLossKeys]), ← keep _ (by simp [feedLossKeys]), ← keep _ (by simp [feedLossKeys])] at h

/-- The stress record of a feed (R466). -/
def State.stressOf (s : State) (f : Bool) : FeedStress := if f then s.pwr.feed2 else s.pwr.feed1

theorem feedsLost_stressOf (s : State) (f : Bool) : s.feedsLost.stressOf f = s.stressOf f := rfl

theorem feedGoes_stress (s : State) (f : Bool) : (s.feedGoes f).stressOf f =
    { s.stressOf f with losses := (s.stressOf f).losses + 1 } := by
  have h : (s.feedCounted f).stressOf f = { s.stressOf f with losses := (s.stressOf f).losses + 1 } := by
    unfold State.stressOf
    rw [feedCounted_pwr]
    cases f <;> rfl
  rw [feedGoes_eq]
  split
  · rw [feedsLost_stressOf, h]
  · exact h

/-- The second feed to be lost interrupts the supply; the first does not (R461). -/
theorem feedGoes_interruption (s : State) (f : Bool) :
    (s.feedGood (!f) = false → (s.feedGoes f).fld Reg.PWR_EVT_BOTH_LOST = 1 ∧ (s.feedGoes f).fld Reg.PWR_STAT_HOLDUP_READY = 0 ∧
      (s.feedGoes f).fld Reg.PWR_INTCNT = satAdd (s.fld Reg.PWR_INTCNT) 1 ∧ (s.feedGoes f).pwr.bothLost = s.pwr.bothLost + 1) ∧
    (s.feedGood (!f) = true → (s.feedGoes f).fld Reg.PWR_INTCNT = s.fld Reg.PWR_INTCNT ∧
      (s.feedGoes f).pwr.bothLost = s.pwr.bothLost) := by
  have none := feedCounted_noFeed s f
  have count : (s.feedCounted f).fld Reg.PWR_INTCNT = s.fld Reg.PWR_INTCNT :=
    fld_feedCounted_other (by decide) (by cases f <;> decide)
  have lost : (s.feedCounted f).pwr.bothLost = s.pwr.bothLost := by
    rw [feedCounted_pwr]
    cases f <;> rfl
  rw [feedGoes_eq]
  refine ⟨fun h => ?_, fun h => ?_⟩
  · rw [h] at none
    simp (disch := decide) [none, State.feedsLost, fld_flag_other, fld_bump_other, count, lost, b2w]
  · rw [h] at none
    simp [none, count, lost]

/-! The rest of FEED_DIP, FEED_SURGE and FEED_OVERVOLTAGE (R455). -/

/-- An event of a feed is counted in its stress record, in a register and as an event bit. -/
def State.feedNoted (s : State) (p : Pwr) (evt cnt : Nat) : State := (State.flag { s with pwr := p } evt true).bump cnt

theorem feedNoted_fields {s : State} {p : Pwr} {evt cnt : Nat} (h : evt ≠ cnt) : sameUnits s (s.feedNoted p evt cnt) ∧
    (s.feedNoted p evt cnt).fld evt = 1 ∧ (s.feedNoted p evt cnt).fld cnt = satAdd (s.fld cnt) 1 ∧
    (s.feedNoted p evt cnt).pwr = p := by
  refine ⟨⟨rfl, rfl, rfl, rfl⟩, ?_, ?_, rfl⟩
  · rw [State.feedNoted, fld_bump_other h, fld_flag_same]
    rfl
  · rw [State.feedNoted, fld_bump_same, fld_flag_other h.symm, fld_with]

/-- A feed is disconnected for overvoltage, before it counts as lost. -/
def State.feedOpened (s : State) (f : Bool) : State :=
  (((State.flag { s with pwr := s.pwr.stress f (fun x => { x with ovv := x.ovv + 1 }) } (feedOvvKey f) true).flag
    Reg.PWR_EVT_OVV_DISC true).bump Reg.PWR_OVVCNT)

theorem feedOpened_fields (s : State) (f : Bool) : (s.feedOpened f).fld (feedOvvKey f) = 1 ∧
    (s.feedOpened f).fld Reg.PWR_EVT_OVV_DISC = 1 ∧ (s.feedOpened f).fld Reg.PWR_OVVCNT = satAdd (s.fld Reg.PWR_OVVCNT) 1 ∧
    (s.feedOpened f).feedGood f = s.feedGood f ∧ ((s.feedOpened f).stressOf f).ovv = (s.stressOf f).ovv + 1 := by
  unfold State.feedOpened State.feedGood
  cases f <;> refine ⟨?_, ?_, ?_, ?_, rfl⟩ <;>
    simp (disch := decide) [feedOvvKey, feedGoodKey, fld_flag_other, fld_bump_other, b2w]

theorem exec_feedOvervoltage {s : State} (hp : s.sup.powered = true) {f : Bool} (h : s.feedOvv f = false) :
    exec (.feedOvervoltage f) s = .next (if s.feedGood f then (s.feedOpened f).feedGoes f else s.feedOpened f) := by
  rw [← (feedOpened_fields s f).2.2.2.1]
  change execFeedOvervoltage f s = _
  unfold execFeedOvervoltage
  rw [if_neg (by simp [hp, h])]
  rfl

/-- FEED_OVERVOLTAGE (R455): whether or not the feed was good, what is counted stays. -/
theorem feedOvervoltage_fields {s t : State} {f : Bool}
    (ht : t = if s.feedGood f then (s.feedOpened f).feedGoes f else s.feedOpened f) : sameUnits s t ∧ t.fld (feedOvvKey f) = 1 ∧
    t.fld Reg.PWR_EVT_OVV_DISC = 1 ∧ t.fld Reg.PWR_OVVCNT = satAdd (s.fld Reg.PWR_OVVCNT) 1 ∧
    (t.stressOf f).ovv = (s.stressOf f).ovv + 1 ∧ (s.feedGood f = true → t.fld (feedGoodKey f) = 0) := by
  obtain ⟨ovv, evt, count, -, stress⟩ := feedOpened_fields s f
  have same : sameUnits s (s.feedOpened f) := ⟨rfl, rfl, rfl, rfl⟩
  have keep : ∀ k ∈ [feedOvvKey f, Reg.PWR_EVT_OVV_DISC, Reg.PWR_OVVCNT],
      ((s.feedOpened f).feedGoes f).fld k = (s.feedOpened f).fld k := by
    intro k hk
    have apart : k ≠ Reg.PWR_EVT_BOTH_LOST ∧ k ≠ Reg.PWR_INTCNT ∧ k ≠ Reg.PWR_STAT_HOLDUP_READY ∧ logKey k = false ∧
        k ∉ feedLossKeys f := by
      revert k
      cases f <;> decide
    obtain ⟨h1, h2, h3, h4, h5⟩ := apart
    rw [fld_feedGoes h1 h2 h3, fld_feedCounted_other h4 h5]
  subst ht
  split
  · refine ⟨same.trans (feedGoes_same _ f), ?_, ?_, ?_, ?_, fun _ => (feedGoes_fields _ f).1⟩
    · rw [keep _ (by simp), ovv]
    · rw [keep _ (by simp), evt]
    · rw [keep _ (by simp), count]
    · rw [feedGoes_stress]
      exact stress
  · next hg => exact ⟨same, ovv, evt, count, stress, fun h => absurd h hg⟩

/-- Settles O34, one event at a time. -/
theorem feedEvents : Obligations.FeedEvents := by
  intro s f hp
  refine ⟨fun h => ?_, fun h => ?_, fun h => ?_, fun h h' => ?_, fun h => ?_, fun h => ?_, ?_⟩
  · refine ⟨s.feedComes f, ?_, feedComes_same s f, feedComes_good s f, fun hn hs => feedComes_return hn hs f⟩
    change execFeedGood f s = _
    simp [execFeedGood, hp, h]
  · obtain ⟨good, evt, count⟩ := feedGoes_fields s f
    obtain ⟨both, one⟩ := feedGoes_interruption s f
    refine ⟨s.feedGoes f, ?_, feedGoes_same s f, good, evt, count, congrArg FeedStress.losses (feedGoes_stress s f), both, one⟩
    change execFeedLost f s = _
    simp [execFeedLost, hp, h]
  · let p := (s.pwr.setDip f true).stress f (fun x => { x with dips := x.dips + 1 })
    obtain ⟨same, evt, count, pwr⟩ := feedNoted_fields (s := s) (p := p) (evt := Reg.PWR_EVT_DIP) (cnt := Reg.PWR_DIPCNT) (by decide)
    refine ⟨s.feedNoted p Reg.PWR_EVT_DIP Reg.PWR_DIPCNT, ?_, same, evt, count, ?_, ?_⟩
    · change execFeedDip f s = _
      simp [execFeedDip, hp, h, State.feedNoted, p]
    · cases f <;> rfl
    · cases f <;> rfl
  · have run : execFeedStress f s = _ := congrArg Host.Outcome.next (if_pos ⟨hp, h, h'⟩)
    refine ⟨_, run, ?_, ?_⟩
    · exact ⟨report_mode .., report_mem .., report_ce .., report_field ..⟩
    · simp only [report_pwr]
      cases f <;> rfl
  · let p := s.pwr.stress f (fun x => { x with surges := x.surges + 1 })
    obtain ⟨same, evt, count, pwr⟩ := feedNoted_fields (s := s) (p := p) (evt := Reg.PWR_EVT_SURGE) (cnt := Reg.PWR_SURGECNT) (by decide)
    refine ⟨s.feedNoted p Reg.PWR_EVT_SURGE Reg.PWR_SURGECNT, ?_, same, evt, count, ?_⟩
    · change execFeedSurge f s = _
      simp [execFeedSurge, hp, h, State.feedNoted, p]
    · cases f <;> rfl
  · exact ⟨_, exec_feedOvervoltage hp h, feedOvervoltage_fields rfl⟩
  · refine ⟨s.flag (feedOvvKey f) false, ?_, ⟨rfl, rfl, rfl, rfl⟩, by simp [b2w]⟩
    change execFeedReconnect f s = _
    simp [execFeedReconnect, hp]

/-! ### The power-down (R461) -/

/-- `strayPost` with the module powered and both feeds lost. -/
def strayPostPowered : State := { strayPost with sup.powered := true }

/-- The store buffer empties after the outputs went off, and the post's ring applies the staged value. -/
theorem strayPostPowered_output_on : strayPostPowered.stopLevel.fieldOff = false := by decide +kernel

/-- Refutes O35: the stop level switches the outputs off before it empties the store buffer, so in `strayPostPowered` an
output comes on again. -/
theorem not_holdUp : ¬ Obligations.HoldUp := by
  rintro ⟨h, -⟩
  have stopping : strayPostPowered.fld Reg.PWR_STAT_STOPPING = 0 := by decide +kernel
  obtain ⟨t, ht, -, off, -⟩ := h strayPostPowered rfl (by decide +kernel) stopping
  have run : execStopLevel strayPostPowered = .next strayPostPowered.stopLevel :=
    congrArg Host.Outcome.next (if_pos ⟨rfl, by decide +kernel, stopping⟩)
  have same : strayPostPowered.stopLevel = t := Host.Outcome.next.inj (run.symm.trans ht)
  rw [← same, strayPostPowered_output_on] at off
  exact absurd off (by decide)

/-! ### Ageing and operating points (R462 to R472) -/

/-- What the measurements and the plan leave: the mode, the memory, the lanes and what has been measured. -/
def State.gauged (s : State) : Mode × Mem × Saddle × Nat × List Nat × List Int :=
  (s.mode, s.mem, s.cv, s.pwr.op, s.pwr.canary, s.pwr.drift)

section Gauged
variable {s t : State} (h : t.gauged = s.gauged)
include h

theorem gauged_mode : t.mode = s.mode := congrArg Prod.fst h
theorem gauged_mem : t.mem = s.mem := congrArg (·.2.1) h
theorem gauged_cv : t.cv = s.cv := congrArg (·.2.2.1) h
theorem gauged_op : t.pwr.op = s.pwr.op := congrArg (·.2.2.2.1) h
theorem gauged_canary : t.pwr.canary = s.pwr.canary := congrArg (·.2.2.2.2.1) h
theorem gauged_drift : t.pwr.drift = s.pwr.drift := congrArg (·.2.2.2.2.2) h

theorem gauged_d85 : t.d85 = s.d85 := by
  have retired : t.retiredNo = s.retiredNo := by
    funext l
    unfold State.retiredNo
    rw [gauged_cv h]
  unfold State.d85 State.laneD85
  rw [gauged_canary h, retired]

end Gauged

/-- The fields that the flags of the margin and the lowering of GOP write. -/
def marginKeys : List Nat := [Reg.PWR_EVT_STEP_DUE, Reg.PWR_STAT_STEP_DUE, Reg.PWR_EVT_MARGIN_LOW, Reg.PWR_STAT_MARGIN_LOW,
  Reg.PWR_STAT_GOP, Reg.PWR_EVT_GOP_LOWERED]

section MarginKeys
variable {k : Nat} (hl : logKey k = false) (hk : k ∉ marginKeys)
include hl hk

theorem fld_marginFlags (s : State) (b : Bool) : (s.marginFlags b).fld k = s.fld k := by
  simp only [marginKeys, List.mem_cons, List.not_mem_nil, or_false, not_or] at hk
  obtain ⟨h1, h2, h3, h4, -, -⟩ := hk
  have rep : ∀ (x : State) p, (x.report .o .critical 0x0F08 (srcNo 15 0) p).fld k = x.fld k :=
    fun x p => fld_report x _ _ _ _ _ p (by decide) hl
  unfold State.marginFlags
  dsimp only
  split <;> split <;> simp only [rep, fld_with, fld_flag_other h1, fld_flag_other h2, fld_flag_other h3, fld_flag_other h4]

theorem fld_lowerGop (s : State) (n : Nat) : (s.lowerGop n).fld k = s.fld k := by
  simp only [marginKeys, List.mem_cons, List.not_mem_nil, or_false, not_or] at hk
  obtain ⟨-, -, -, -, h5, h6⟩ := hk
  have rep : ∀ (x : State) code p, (x.report .o .warn code (srcNo 15 0) p).fld k = x.fld k :=
    fun x _ p => fld_report x _ _ _ _ _ p (by decide) hl
  have rep' : ∀ (x : State) code p, (x.report .o .warn code (srcNo 3 0) p).fld k = x.fld k :=
    fun x _ p => fld_report x _ _ _ _ _ p (by decide) hl
  unfold State.lowerGop
  dsimp only
  split
  · rfl
  · split
    · simp only [rep, fld_with, fld_flag_other h6, fld_setFld_other h5]
    · split <;> simp only [rep, rep', fld_with, fld_flag_other h6, fld_setFld_other h5]

end MarginKeys

theorem marginFlags_gauged (s : State) (b : Bool) : (s.marginFlags b).gauged = s.gauged := by
  unfold State.marginFlags
  dsimp only
  split <;> split <;> simp [State.gauged]

theorem lowerGop_gauged (s : State) (n : Nat) : (s.lowerGop n).gauged = s.gauged := by
  unfold State.lowerGop
  dsimp only
  split
  · rfl
  · split
    · simp [State.gauged]
    · split <;> simp [State.gauged]

theorem lowerGop_gop (s : State) (n : Nat) : (s.lowerGop n).pwr.gop = max n s.pwr.gop := by
  unfold State.lowerGop
  dsimp only
  split
  · next h => rw [Nat.max_eq_right h]
  · next h =>
    rw [Nat.max_eq_left (by omega)]
    split
    · simp
    · split <;> simp

theorem lowerGop_planAt (s : State) (n : Nat) : (s.lowerGop n).pwr.planAt = s.pwr.planAt := by
  unfold State.lowerGop
  dsimp only
  split
  · rfl
  · split
    · simp
    · split <;> simp

theorem marginFlags_plan (s : State) (b : Bool) : (s.marginFlags b).pwr.gop = s.pwr.gop ∧
    (s.marginFlags b).pwr.planAt = s.pwr.planAt := by
  unfold State.marginFlags
  dsimp only
  split <;> split <;> simp

/-! #### Samples (R466) -/

theorem laneAhead_gauged (s : State) (l : Nat) : (s.laneAhead l).gauged = s.gauged := by
  unfold State.laneAhead
  dsimp only
  split <;> simp [State.gauged]

theorem fld_laneAhead {k : Nat} (hl : logKey k = false) (s : State) (l : Nat) : (s.laneAhead l).fld k = s.fld k := by
  unfold State.laneAhead
  dsimp only
  split
  · rw [fld_report _ _ _ _ _ _ _ (by decide) hl, fld_with]
  · rw [fld_with]

/-- The state in which the canaries have been taken, before lanes and margin are judged (R466). -/
def State.canariesTaken (s : State) (canary : List Nat) (drift : List Int) : State :=
  let s := { s with pwr.canary := canary, pwr.drift := drift }
  let s := { s with pwr.daily := dailyMax s.pwr.daily (s.opSec / 86400) s.d85 }
  s.setFld Reg.PWR_MARGIN_D85 (BitVec.ofNat 32 (min 0xFFFF s.d85))

/-- Lanes and margin are judged at what the canaries show. -/
def State.marginJudged (s : State) : State :=
  let s := [0, 1, 2].foldl (fun (s : State) l => s.laneAhead l) s
  s.marginFlags s.mode.cycles

theorem marginJudged_gauged (s : State) : s.marginJudged.gauged = s.gauged := by
  simp only [State.marginJudged, List.foldl_cons, List.foldl_nil, marginFlags_gauged, laneAhead_gauged]

theorem fld_marginJudged {k : Nat} (hl : logKey k = false) (hk : k ∉ marginKeys) (s : State) : s.marginJudged.fld k = s.fld k := by
  simp only [State.marginJudged, List.foldl_cons, List.foldl_nil, fld_marginFlags hl hk, fld_laneAhead hl]

theorem exec_ageingSample {s : State} (hp : s.sup.powered = true) (h1 : s.mode ≠ .selftest) (h2 : s.mode ≠ .recovery)
    (canary : Vector Nat 12) (drift : Vector Int 3) : exec (.ageingSample canary drift) s =
    .next (s.canariesTaken canary.toList drift.toList).marginJudged := by
  change execAgeingSample canary drift s = _
  unfold execAgeingSample State.marginJudged State.canariesTaken
  exact congrArg Host.Outcome.next (if_neg (by simp [hp, h1, h2]))

theorem ageingSample_settled {s : State} (hp : s.sup.powered = true) (h1 : s.mode ≠ .selftest) (h2 : s.mode ≠ .recovery)
    (canary : Vector Nat 12) (drift : Vector Int 3) : ∃ t, exec (.ageingSample canary drift) s = .next t ∧
    t.pwr.canary = canary.toList ∧ t.pwr.drift = drift.toList ∧ t.fld Reg.PWR_MARGIN_D85 = BitVec.ofNat 32 (min 0xFFFF t.d85) ∧
    t.mode = s.mode ∧ t.mem = s.mem ∧ t.pwr.op = s.pwr.op := by
  refine ⟨_, exec_ageingSample hp h1 h2 canary drift, ?_⟩
  generalize hu : s.canariesTaken canary.toList drift.toList = u
  have gauged := marginJudged_gauged u
  rw [gauged_canary gauged, gauged_drift gauged, gauged_d85 gauged, gauged_mode gauged, gauged_mem gauged, gauged_op gauged,
    fld_marginJudged (by decide) (by decide), ← hu]
  exact ⟨rfl, rfl, fld_setFld_same .., rfl, rfl, rfl⟩

/-! #### The plan (R467, R468) -/

theorem compareHoldup_gauged (s : State) (b : Bool) : (s.compareHoldup b).gauged = s.gauged ∧
    (s.compareHoldup b).pwr = s.pwr := by
  unfold State.compareHoldup
  dsimp only
  generalize (if s.pwr.tested then s.pwr.testClass else (s.fld Reg.PWR_STAT_HOLDUP_NOW).toNat) = now
  split <;> simp [State.gauged]

theorem planHoldup_gauged (s : State) : s.planHoldup.gauged = s.gauged ∧ s.planHoldup.pwr.gop = s.pwr.gop ∧
    s.planHoldup.pwr.planAt = s.pwr.planAt := by
  unfold State.planHoldup
  dsimp only
  split
  · exact ⟨rfl, rfl, rfl⟩
  · rw [(compareHoldup_gauged _ _).1, (compareHoldup_gauged _ _).2]
    split <;> exact ⟨rfl, rfl, rfl⟩

theorem planCore_gauged (s : State) : s.planCore.gauged = s.gauged ∧ s.pwr.gop ≤ s.planCore.pwr.gop ∧
    s.planCore.pwr.planAt = s.opSec := by
  unfold State.planCore
  dsimp only
  rw [lowerGop_gauged, lowerGop_gop, lowerGop_planAt]
  exact ⟨rfl, Nat.le_max_right _ _, rfl⟩

theorem plan_gauged (s : State) (b : Bool) : (s.plan b).gauged = s.gauged ∧ s.pwr.gop ≤ (s.plan b).pwr.gop ∧
    (s.plan b).pwr.planAt = s.opSec := by
  obtain ⟨core, gop, planAt⟩ := planCore_gauged s
  obtain ⟨holdup, gop', planAt'⟩ := planHoldup_gauged s.planCore
  obtain ⟨gop'', planAt''⟩ := marginFlags_plan s.planCore.planHoldup b
  refine ⟨(marginFlags_gauged _ b).trans (holdup.trans core), ?_, planAt''.trans (planAt'.trans planAt)⟩
  exact gop.trans_eq (gop'.symm.trans gop''.symm)

/-! #### Steps (R469, R471) -/

/-- The state in which the new point is in force and reported, before GOP and flags follow. -/
def State.stepped (s : State) (n : Nat) : State :=
  ((s.setOp n).report .o .info 0x0F03 (srcNo 15 0) [BitVec.ofNat 8 s.pwr.op, BitVec.ofNat 8 n]).bump Reg.PWR_STEPCNT

theorem stepTo_eq (s : State) (n : Nat) : s.stepTo n = ((s.stepped n).lowerGop n).marginFlags false := rfl

theorem stepped_fields (s : State) (n : Nat) : (s.stepped n).pwr = { s.pwr with op := n } ∧ (s.stepped n).mode = s.mode ∧
    (s.stepped n).mem = s.mem ∧ (s.stepped n).fld Reg.PWR_STAT_OP = BitVec.ofNat 32 n ∧
    (s.stepped n).fld Reg.CE_STAT_OP = BitVec.ofNat 32 n ∧
    (s.stepped n).fld Reg.PWR_STEPCNT = satAdd (s.fld Reg.PWR_STEPCNT) 1 := by
  unfold State.stepped
  refine ⟨by simp [State.setOp], by simp [State.setOp], by simp [State.setOp], ?_, ?_, ?_⟩
  · rw [fld_bump_other (by decide), fld_report _ _ _ _ _ _ _ (by decide) (by decide), State.setOp, fld_setFld_same]
  · rw [fld_bump_other (by decide), fld_report _ _ _ _ _ _ _ (by decide) (by decide), State.setOp,
      fld_setFld_other (by decide), fld_setFld_same]
  · rw [fld_bump_same, fld_report _ _ _ _ _ _ _ (by decide) (by decide), State.setOp, fld_setFld_other (by decide),
      fld_setFld_other (by decide), fld_with]

theorem stepTo_settled (s : State) {n : Nat} (hn : n ≤ 3) : (s.stepTo n).pwr.op = n ∧
    ((s.stepTo n).fld Reg.PWR_STAT_OP).toNat = n ∧ ((s.stepTo n).fld Reg.CE_STAT_OP).toNat = n ∧
    (s.stepTo n).fld Reg.PWR_STEPCNT = satAdd (s.fld Reg.PWR_STEPCNT) 1 ∧ (s.stepTo n).pwr.gop = max n s.pwr.gop ∧
    (s.stepTo n).mode = s.mode ∧ (s.stepTo n).mem = s.mem := by
  obtain ⟨pwr, mode, mem, stat, ceStat, count⟩ := stepped_fields s n
  have gauged : (s.stepTo n).gauged = (s.stepped n).gauged := (marginFlags_gauged _ _).trans (lowerGop_gauged _ _)
  have keep : ∀ k ∈ [Reg.PWR_STAT_OP, Reg.CE_STAT_OP, Reg.PWR_STEPCNT], (s.stepTo n).fld k = (s.stepped n).fld k := by
    intro k hk
    have apart : logKey k = false ∧ k ∉ marginKeys := by
      revert k
      decide
    rw [stepTo_eq, fld_marginFlags apart.1 apart.2, fld_lowerGop apart.1 apart.2]
  refine ⟨?_, ?_, ?_, ?_, ?_, ?_, ?_⟩
  · rw [gauged_op gauged, pwr]
  · rw [keep _ (by simp), stat, toNat_ofNat_lt (by omega)]
  · rw [keep _ (by simp), ceStat, toNat_ofNat_lt (by omega)]
  · rw [keep _ (by simp), count]
  · rw [stepTo_eq, (marginFlags_plan _ _).1, lowerGop_gop, pwr]
  · rw [gauged_mode gauged, mode]
  · rw [gauged_mem gauged, mem]

/-! #### The 1 s sample (R466) -/

/-- The state in which the operating seconds, the temperature and the histogram have counted on. -/
def State.secondTaken (s : State) (h : Health) : State :=
  let s := State.bump { s with time.subNs := 0 } Reg.SYS_OPSEC
  let p := s.pwr.temperature h.edge
  { s with pwr := { p with hist := p.hist.set (histBin h.edge) (p.hist.getD (histBin h.edge) 0 + 1),
                           dipSec := p.dipSec + b2n (p.dip1 || p.dip2) } }

/-- The limits of the temperatures are judged. -/
def State.heatJudged (s : State) (h : Health) : State :=
  let s := if 850 < h.edge then s.report .o .warn 0x0F09 (srcNo 15 0) (leBytes 2 (h.edge % 65536).toNat) else s
  if 1100 < h.hotspot then s.report .o .fault 0x0F0A (srcNo 15 0) (leBytes 2 (h.hotspot % 65536).toNat) else s

theorem execThermalSample_eq {s : State} (hp : s.sup.powered = true) (h : Health) :
    execThermalSample h s = .next (((s.secondTaken h).healthRegs h).permitLeft.calendarSample.heatJudged h) := by
  have on : ¬ (!s.sup.powered) = true := by simp [hp]
  simp only [execThermalSample, State.heatJudged, State.secondTaken, if_neg on]

theorem temperature_hist (p : Pwr) (x : Int) : (p.temperature x).hist = p.hist := by
  unfold Pwr.temperature
  split
  · rfl
  · split
    · rfl
    · split
      · rfl
      · dsimp only
        split <;> rfl

/-- The mode, the memory, the time within the second and the histogram. -/
def State.sampled (s : State) : Mode × Mem × Nat × List Nat := (s.mode, s.mem, s.time.subNs, s.pwr.hist)

theorem heatJudged_sampled (s : State) (h : Health) : (s.heatJudged h).sampled = s.sampled := by
  unfold State.heatJudged
  dsimp only
  split <;> split <;> simp [State.sampled]

theorem sampled_of_calendar (s : State) (l : List (Nat × Nat)) : State.sampled { s with pwr.calendar := l } = s.sampled := rfl

theorem setFld_sampled (s : State) (k : Nat) (v : Word) : (s.setFld k v).sampled = s.sampled := rfl

theorem calendarSample_sampled (s : State) : s.calendarSample.sampled = s.sampled ∧ s.calendarSample.regs = s.regs := by
  unfold State.calendarSample
  split
  · exact ⟨rfl, rfl⟩
  · exact ⟨sampled_of_calendar _ _, rfl⟩

theorem permitLeft_sampled (s : State) : s.permitLeft.sampled = s.sampled := by
  unfold State.permitLeft
  split
  · exact setFld_sampled ..
  · rfl

theorem fld_permitLeft {s : State} {k : Nat} (hk : k ≠ Reg.FI_STAT_PERMIT_LEFT) : s.permitLeft.fld k = s.fld k := by
  unfold State.permitLeft
  split
  · exact fld_setFld_other hk
  · rfl

theorem fld_heatJudged {s : State} {h : Health} {k : Nat} (hl : logKey k = false) : (s.heatJudged h).fld k = s.fld k := by
  unfold State.heatJudged
  dsimp only
  have rep : ∀ (x : State) sev code p, (x.report .o sev code (srcNo 15 0) p).fld k = x.fld k :=
    fun x _ _ p => fld_report x _ _ _ _ _ p (by decide) hl
  split <;> split <;> simp only [rep]

theorem healthRegs_fields (s : State) (h : Health) : (s.healthRegs h).sampled = s.sampled ∧
    (s.healthRegs h).fld Reg.SYS_OPSEC = s.fld Reg.SYS_OPSEC ∧ (s.healthRegs h).fld Reg.PWR_TEMP_EDGE = word16 h.edge ∧
    (s.healthRegs h).fld Reg.PWR_TEMP_HOTSPOT = word16 h.hotspot := by
  unfold State.healthRegs
  refine ⟨rfl, ?_, ?_, ?_⟩ <;> simp (disch := decide) [fld_setFld_other]

theorem thermalSample_settled {s : State} (hp : s.sup.powered = true) (h : Health) : ∃ t, exec (.thermalSample h) s = .next t ∧
    t.fld Reg.SYS_OPSEC = satAdd (s.fld Reg.SYS_OPSEC) 1 ∧ t.fld Reg.PWR_TEMP_EDGE = word16 h.edge ∧
    t.fld Reg.PWR_TEMP_HOTSPOT = word16 h.hotspot ∧ t.time.subNs = 0 ∧
    t.pwr.hist = s.pwr.hist.set (histBin h.edge) (s.pwr.hist.getD (histBin h.edge) 0 + 1) ∧ t.mode = s.mode ∧ t.mem = s.mem := by
  refine ⟨_, execThermalSample_eq hp h, ?_⟩
  have taken : (s.secondTaken h).sampled =
      (s.mode, s.mem, 0, s.pwr.hist.set (histBin h.edge) (s.pwr.hist.getD (histBin h.edge) 0 + 1)) := by
    simp [State.sampled, State.secondTaken, temperature_hist]
  have second : (s.secondTaken h).fld Reg.SYS_OPSEC = satAdd (s.fld Reg.SYS_OPSEC) 1 := by
    simp [State.secondTaken]
  generalize s.secondTaken h = u at taken second
  obtain ⟨same, sec, edge, hotspot⟩ := healthRegs_fields u h
  have sampled := ((((heatJudged_sampled _ h).trans (calendarSample_sampled _).1).trans (permitLeft_sampled _)).trans same).trans taken
  have keep : ∀ k ∈ [Reg.SYS_OPSEC, Reg.PWR_TEMP_EDGE, Reg.PWR_TEMP_HOTSPOT],
      ((u.healthRegs h).permitLeft.calendarSample.heatJudged h).fld k = (u.healthRegs h).fld k := by
    intro k hk
    have apart : logKey k = false ∧ k ≠ Reg.FI_STAT_PERMIT_LEFT := by
      revert k
      decide
    rw [fld_heatJudged apart.1, fld_eq_of_regs (calendarSample_sampled _).2, fld_permitLeft apart.2]
  refine ⟨?_, ?_, ?_, congrArg (·.2.2.1) sampled, congrArg (·.2.2.2) sampled, congrArg (·.1) sampled, congrArg (·.2.1) sampled⟩
  · rw [keep _ (by simp), sec, second]
  · rw [keep _ (by simp), edge]
  · rw [keep _ (by simp), hotspot]

theorem marginPlanUpdate_settled {s : State} (hp : s.sup.powered = true) :
    (s.pwr.planAt + 86400 ≤ s.opSec → ∃ t, exec .marginPlanUpdate s = .next t ∧ t.pwr.planAt = s.opSec ∧ s.pwr.gop ≤ t.pwr.gop ∧
      t.pwr.op = s.pwr.op ∧ t.mode = s.mode ∧ t.mem = s.mem) ∧
    (s.opSec < s.pwr.planAt + 86400 → exec .marginPlanUpdate s = .next s) := by
  obtain ⟨gauged, gop, planAt⟩ := plan_gauged s s.mode.cycles
  refine ⟨fun h => ⟨_, congrArg Host.Outcome.next (if_pos ⟨hp, h⟩), planAt, gop, gauged_op gauged, gauged_mode gauged,
    gauged_mem gauged⟩, fun h => congrArg Host.Outcome.next (if_neg fun x => ?_)⟩
  exact absurd h (by simpa using x.2)

theorem usable_iff (d : Nat) : (usable 0 d 1 = true ↔ 3 * (d + 190) ≤ 5000) ∧ (usable 1 d 1 = true ↔ 3 * (d + 190) ≤ 5500) ∧
    (usable 2 d 1 = true ↔ d + 190 ≤ 2000) ∧ (usable 3 d 1 = true ↔ 3 * (d + 190) ≤ 6500) := by
  simp only [usable, periodThirds, decide_eq_true_eq, Nat.mul_one, true_and, and_true]
  omega

/-- Settles O36, one sample at a time. -/
theorem ageingAndOperatingPoints : Obligations.AgeingAndOperatingPoints :=
  ⟨⟨fun _ canary drift hp h1 h2 => ageingSample_settled hp h1 h2 canary drift, fun _ h hp => thermalSample_settled hp h,
    fun _ hp => marginPlanUpdate_settled hp⟩, usable_iff, fun s _ hn _ => stepTo_settled s hn⟩

end Sys2Proof.Machine
end

