-- ==== Sys2Proof/Proofs/Anchor.lean ====
section
-- In order, not in parallel: each parallel thread reserves its whole stack of the check's memory.
set_option Elab.async false
/-! SUPPORT. What the power-down and a start keep while Cairn stores what waits: the Retentive Store, the configuration and
Trig (R201, R219, R461). -/
namespace Sys2Proof.Machine

/-- The Retentive Store, the contents number of the Protected Store, the command unit and Trig. -/
def State.anchor (s : State) : Sparse Code × Nat × Cmd × Trig := (s.mem.rs, s.mem.era, s.cmd, s.trig)

/-- Other parts of the state. -/
@[simp] theorem anchor_with (x : State) (a0 : List Instr) (a1 : Mode) (a2 a3 a4 : Sparse Word) (a5 : List WdWrite) (a6 : Nat)
    (a7 : Time) (a9 : Images) (a10 : Ce) (a11 : Saddle) (a12 : Cairn) (a14 : Sup) (a15 : Rings) (a16 : Fi) (a17 : Net)
    (a18 : Bus) (a19 : Ridge) (a20 : Col) (a21 : FieldUnit) (a22 : SafetyUnit) (a23 : Pwr) (a25 : List Emit) :
    State.anchor ⟨a0, a1, a2, a3, a4, a5, a6, a7, x.mem, a9, a10, a11, a12, x.cmd, a14, a15, a16, a17, a18, a19, a20, a21, a22,
      a23, x.trig, a25⟩ = x.anchor := rfl

theorem foldl_anchor {α : Type} {f : State → α → State} (h : ∀ s x, (f s x).anchor = s.anchor) (l : List α) (s : State) :
    (l.foldl f s).anchor = s.anchor := by
  induction l generalizing s with
  | nil => rfl
  | cons x l ih => rw [List.foldl_cons, ih, h]

section Fields
variable (s : State) (k n : Nat) (v : Word) (b : Bool)

@[simp] theorem setFld_anchor : (s.setFld k v).anchor = s.anchor := rfl
@[simp] theorem flag_anchor : (s.flag k b).anchor = s.anchor := rfl
@[simp] theorem bump_anchor : (s.bump k).anchor = s.anchor := rfl
@[simp] theorem bumpBy_anchor : (s.bumpBy k n).anchor = s.anchor := rfl

end Fields

@[simp] theorem report_anchor (s : State) (cls : RecClass) (sev : Severity) (code src : Nat) (p : List Byte) :
    (s.report cls sev code src p).anchor = s.anchor := by simp [State.anchor]

@[simp] theorem cancelWb_anchor (s : State) (a : Arr) (w : Nat) : (s.cancelWb a w).anchor = s.anchor := by
  unfold State.cancelWb
  dsimp only
  split
  · exact bumpBy_anchor ..
  · rfl

@[simp] theorem dirtyWord_anchor (s : State) (a : Arr) (w : Nat) : (s.dirtyWord a w).anchor = s.anchor := by
  unfold State.dirtyWord State.dirtyPage
  split
  · split
    · exact setFld_anchor ..
    · rfl
  · rfl

@[simp] theorem putCode_anchor (s : State) (w : Nat) (c : Code) : (s.putCode .ps w c).anchor = s.anchor :=
  (dirtyWord_anchor _ .ps w).trans (cancelWb_anchor s .ps w)

@[simp] theorem fullWrite_anchor (s : State) (w : Nat) (d : DWord) : (s.fullWrite .ps w d).anchor = s.anchor :=
  putCode_anchor ..

@[simp] theorem poison_anchor (s : State) (w : Nat) : (s.poison .ps w).anchor = s.anchor := by
  unfold State.poison
  rw [if_neg (by decide), flag_anchor, bump_anchor, putCode_anchor]

@[simp] theorem countCe_anchor (s : State) (a : Arr) (w : Nat) : (s.countCe a w).anchor = s.anchor := by
  unfold State.countCe
  cases a <;> simp

@[simp] theorem countUe_anchor (s : State) (a : Arr) (w : Nat) (c : Cls) (y : Byte) (m : Master) :
    (s.countUe a w c y m).anchor = s.anchor := by
  unfold State.countUe
  dsimp only
  rw [report_anchor]
  split <;> split <;> simp

@[simp] theorem account_anchor (s : State) (a : Arr) (w : Nat) (m : Master) : (s.account a w m).anchor = s.anchor := by
  unfold State.account
  dsimp only
  split <;> simp

@[simp] theorem partialWrite_anchor (s : State) (w : Nat) (d mask : DWord) (m : Master) :
    (s.partialWrite .ps w d mask m).1.anchor = s.anchor := by
  unfold State.partialWrite
  dsimp only
  split <;> simp

@[simp] theorem writeWord_anchor (s : State) (w : Nat) (d mask : DWord) (m : Master) :
    (s.writeWord .ps w d mask m).1.anchor = s.anchor := by
  unfold State.writeWord
  split <;> simp

@[simp] theorem readWord_anchor (s : State) (a : Arr) (w : Nat) (m : Master) : (s.readWord a w m).1.anchor = s.anchor := by
  have h := account_anchor s a w m
  unfold State.readWord
  dsimp only
  split
  · exact h
  · exact h

/-! ### Rings, through which records are streamed -/

@[simp] theorem setBit_anchor (s : State) (k i : Nat) : (s.setBit k i).anchor = s.anchor := rfl

@[simp] theorem applyStaged_anchor (s : State) (p : Nat → Bool) : (s.applyStaged p).anchor = s.anchor := by
  unfold State.applyStaged; exact foldl_anchor (fun _ _ => by simp) _ _

@[simp] theorem dropRecord_anchor (s : State) (a1 : RecClass) : (s.dropRecord a1).anchor = s.anchor := by
  unfold State.dropRecord; split <;> simp

@[simp] theorem readMany_anchor : ∀ (s : State) (a : Arr) (m : Master) (a3 : List Nat), (s.readMany a m a3).1.anchor =
    s.anchor := by
  intro s a m ws; induction ws generalizing s with
    | nil => rfl
    | cons w t ih => simp [State.readMany, ih]

@[simp] theorem ringHalt_anchor (s : State) (n : Nat) (c : HaltCause) (addr : Nat) : (s.ringHalt n c addr).anchor =
    s.anchor := by
  simp [State.ringHalt]

@[simp] theorem readDesc_anchor (s : State) (n : Nat) : (s.readDesc n).1.anchor = s.anchor := by
  unfold State.readDesc; dsimp only; (repeat' split) <;> simp

@[simp] theorem writeDesc_anchor (s : State) (n : Nat) (d : Desc) (st : DescStatus) (time : Nat) : (s.writeDesc n d st
    time).anchor = s.anchor := by
  simp [State.writeDesc]

@[simp] theorem complete_anchor (s : State) (n : Nat) (d : Desc) (st : DescStatus) (time : Nat) : (s.complete n d st
    time).anchor = s.anchor := by
  simp [State.complete, apply_ite State.anchor]

@[simp] theorem setHold_anchor (s : State) (n : Nat) (q : List Arrival) : (s.setHold n q).anchor = s.anchor := rfl

@[simp] theorem ringDrop_anchor (s : State) (n k : Nat) : (s.ringDrop n k).anchor = s.anchor := by
  unfold State.ringDrop; split <;> simp

@[simp] theorem holdFrame_anchor (s : State) (n : Nat) (f : Arrival) : (s.holdFrame n f).anchor = s.anchor := by
  simp [State.holdFrame, apply_ite State.anchor]

@[simp] theorem writeFrame_anchor : ∀ (s : State) (d : Desc) (data : List Byte) (a3 : Nat), (s.writeFrame d data
    a3).1.anchor = s.anchor := by
  intro s d data k; induction k with
    | zero => rfl
    | succ k ih => unfold State.writeFrame; dsimp only; (repeat' split) <;> simp [ih]

@[simp] theorem holdRest_anchor (s : State) (n : Nat) (f : Arrival) : (s.holdRest n f).anchor = s.anchor := by
  simp [State.holdRest, apply_ite State.anchor]

@[simp] theorem placeFrame_anchor (s : State) (n : Nat) (x : Arrival) : (s.placeFrame n x).anchor = s.anchor := by
  unfold State.placeFrame; dsimp only; (repeat' split) <;> simp

@[simp] theorem pump_anchor : ∀ (s : State) (n a2 : Nat), (s.pump n a2).anchor = s.anchor := by
  intro s n k; induction k generalizing s with
    | zero => rfl
    | succ k ih => unfold State.pump; split <;> (try split) <;> simp [ih]

@[simp] theorem dropHold_anchor (s : State) (n : Nat) : (s.dropHold n).anchor = s.anchor := by
  simp [State.dropHold]

@[simp] theorem dropHand_anchor (s : State) (n : Nat) : (s.dropHand n).anchor = s.anchor := by
  unfold State.dropHand; split <;> simp

@[simp] theorem ringRestart_anchor (s : State) (n : Nat) : (s.ringRestart n).anchor = s.anchor := by
  simp [State.ringRestart]

@[simp] theorem ringIdle_anchor (s : State) (n : Nat) : (s.ringIdle n).anchor = s.anchor := by
  simp [State.ringIdle, apply_ite State.anchor]

@[simp] theorem ringGo_anchor (s : State) (n : Nat) : (s.ringGo n).anchor = s.anchor := by
  simp [State.ringGo, apply_ite State.anchor, foldl_anchor]

@[simp] theorem arrive_anchor (s : State) (n : Nat) (f : AgentFrame) (err chars : Bool) (time : Nat) : (s.arrive n f
    err chars time).anchor = s.anchor := by
  simp [State.arrive, apply_ite State.anchor]

@[simp] theorem ringIn_anchor (s : State) (n agent : Nat) (f : AgentFrame) : (s.ringIn n agent f).anchor = s.anchor :=
    by
  unfold State.ringIn; split <;> simp

@[simp] theorem setCairn_anchor (s : State) (k : RecClass) (c : CairnClass) : (s.setCairn k c).anchor = s.anchor := by
  unfold State.setCairn; split <;> simp

@[simp] theorem streamRecord_anchor (s : State) (r : Record) (closed : Bool) : (s.streamRecord r closed).anchor =
    s.anchor := by
  unfold State.streamRecord; dsimp only; (repeat' split) <;> simp

@[simp] theorem closeOpen_anchor (s : State) (k : RecClass) : (s.closeOpen k).anchor = s.anchor := by
  unfold State.closeOpen; dsimp only; (repeat' split) <;> simp

@[simp] theorem newRecord_anchor (s : State) (r : Report) : (s.newRecord r).anchor = s.anchor := by
  unfold State.newRecord; dsimp only; (repeat' split) <;> simp

@[simp] theorem takeRecord_anchor (s : State) (r : Report) : (s.takeRecord r).anchor = s.anchor := by
  unfold State.takeRecord; dsimp only; (repeat' split) <;> simp

@[simp] theorem intakeOne_anchor (s : State) : s.intakeOne.anchor = s.anchor := by
  unfold State.intakeOne; split <;> simp

@[simp] theorem intakeAll_anchor : ∀ (s : State), s.intakeAll.anchor = s.anchor := by
  intro s; unfold State.intakeAll; generalize (s.cairn.intake.foldl (fun n e => n + e.2.length) 0) = n; induction n with
    | zero => rfl
    | succ n ih => rw [Nat.repeat, intakeOne_anchor, ih]

@[simp] theorem imageLost_anchor (s : State) : s.imageLost.anchor = s.anchor := by
  unfold State.imageLost; split <;> simp

/-! ### Records leave the core -/

@[simp] theorem recordKeys_unit :
    coreEnd ≤ Reg.LOG_SEQD ∧ coreEnd ≤ Reg.LOG_OLDD ∧ coreEnd ≤ Reg.LOG_STAT_FULL_D ∧ coreEnd ≤ Reg.LOG_SEQO ∧
    coreEnd ≤ Reg.LOG_OLDO ∧ coreEnd ≤ Reg.LOG_STAT_FULL_O ∧ coreEnd ≤ Reg.LOG_REPCNT := by
  and_intros <;> exact le_fk (by omega)

@[simp] theorem setCairn_core (s : State) (k : RecClass) (c : CairnClass) : (s.setCairn k c).core = s.core := by
  unfold State.setCairn; dsimp only; split <;> simp

@[simp] theorem streamRecord_core (s : State) (r : Record) (closed : Bool) : (s.streamRecord r closed).core = s.core
    := by
  unfold State.streamRecord; dsimp only; (repeat' split) <;> simp

@[simp] theorem closeOpen_core (s : State) (k : RecClass) : (s.closeOpen k).core = s.core := by
  unfold State.closeOpen; dsimp only; (repeat' split) <;> simp

@[simp] theorem newRecord_core (s : State) (r : Report) : (s.newRecord r).core = s.core := by
  unfold State.newRecord; dsimp only; (repeat' split) <;> simp

@[simp] theorem takeRecord_core (s : State) (r : Report) : (s.takeRecord r).core = s.core := by
  unfold State.takeRecord; dsimp only; (repeat' split) <;> simp

@[simp] theorem intakeOne_core (s : State) : s.intakeOne.core = s.core := by
  unfold State.intakeOne; split <;> simp

@[simp] theorem intakeAll_core : ∀ (s : State), s.intakeAll.core = s.core := by
  intro s; unfold State.intakeAll; generalize (s.cairn.intake.foldl (fun n e => n + e.2.length) 0) = n; induction n with
    | zero => rfl
    | succ n ih => rw [Nat.repeat, intakeOne_core, ih]

@[simp] theorem imageLost_core (s : State) : s.imageLost.core = s.core := by
  unfold State.imageLost; split <;> simp

end Sys2Proof.Machine
end

