-- ==== Sys2Proof/Proofs/Starts.lean ====
section
-- In order, not in parallel: each parallel thread reserves its whole stack of the check's memory.
set_option Elab.async false
/-! SUPPORT. Restart, power-up and power-down (R201, R219, R228 to R230, R455, R461). -/
namespace Sys2Proof.Machine

/-! ### The registers that a start keeps -/

theorem sget_filter {α : Type} (m : Sparse α) (p : Nat → Bool) (k : Nat) :
    sget (m.filter (fun e => p e.1)) k = if p k then sget m k else none := by
  induction m with
  | nil => simp [sget]
  | cons e t ih =>
    obtain ⟨j, v⟩ := e
    rw [List.filter_cons]
    by_cases hj : j = k
    · subst hj
      by_cases hp : p j = true <;> simp [hp, sget, ih]
    · by_cases hp : p j = true <;> simp [hp, sget, ih, hj]

theorem fld_cleared (s : State) (b : Bool) (k : Nat) :
    (s.cleared b).fld k = if keptField b k then s.imageLost.intakeAll.fld k else resetOf k := by
  change sgetD (resetOf k) (s.imageLost.intakeAll.regs.filter (fun e => keptField b e.1)) k = _
  unfold sgetD
  rw [sget_filter]
  split <;> rfl

theorem fld_cleared_reset {s : State} {b : Bool} {k : Nat} (h : keptField b k = false) : (s.cleared b).fld k = resetOf k := by
  rw [fld_cleared, if_neg (by simp [h])]

/-- t0 of a start writes the registers of the supervisor alone. -/
theorem fld_begin {s : State} {x : Straps} {k : Nat} (h1 : k ≠ Reg.SYS_PWRCYC) (h2 : k ≠ Reg.SYS_HWINFO_SLOT)
    (h3 : k ≠ Reg.SYS_HWINFO_BOOTSEL) : (s.begin x).fld k = s.fld k := by
  unfold State.begin
  rw [fld_flag_other h3, fld_with, fld_setFld_other h2, fld_bump_other h1]

theorem driveKeys_reset (b : Bool) : ∀ n ∈ upTo 64, keptField b (Reg.FCH_STAT_DRIVE n) = false ∧
    resetOf (Reg.FCH_STAT_DRIVE n) = 0 ∧ Reg.FCH_STAT_DRIVE n ≠ Reg.SYS_PWRCYC ∧
    Reg.FCH_STAT_DRIVE n ≠ Reg.SYS_HWINFO_SLOT ∧ Reg.FCH_STAT_DRIVE n ≠ Reg.SYS_HWINFO_BOOTSEL := by
  revert b
  decide +kernel

theorem cleared_fieldOff (s : State) (b : Bool) : (s.cleared b).fieldOff = true := by
  simp only [State.fieldOff, List.all_eq_true, beq_iff_eq]
  intro n hn
  obtain ⟨kept, zero, -⟩ := driveKeys_reset b n hn
  rw [fld_cleared_reset kept, zero]

theorem begin_fieldOff {s : State} (h : s.fieldOff = true) (x : Straps) : (s.begin x).fieldOff = true := by
  simp only [State.fieldOff, List.all_eq_true, beq_iff_eq] at h ⊢
  intro n hn
  obtain ⟨-, -, h1, h2, h3⟩ := driveKeys_reset false n hn
  rw [fld_begin h1 h2 h3, h n hn]

/-! ### What begins at t0 -/

theorem restart_eq (s : State) (x : Straps) : ∃ u : State, s.restart x = (u.cleared true).begin x := ⟨_, rfl⟩

theorem begin_frame (s : State) (x : Straps) : (s.begin x).mode = s.mode ∧ (s.begin x).ce = s.ce ∧ (s.begin x).mem = s.mem ∧
    (s.begin x).wd = s.wd ∧ (s.begin x).staged = s.staged ∧ (s.begin x).cmd = s.cmd ∧ (s.begin x).sup.powered = true ∧
    (s.begin x).sup.slot = x.slot.toNat ∧ (s.begin x).sup.bootsel = x.bootsel :=
  ⟨rfl, rfl, rfl, rfl, rfl, rfl, rfl, rfl, rfl⟩

theorem fld_begin_bootsel (s : State) (x : Straps) : (s.begin x).fld Reg.SYS_HWINFO_BOOTSEL = b2w x.bootsel := fld_flag_same ..

theorem fld_begin_pwrcyc (s : State) (x : Straps) : (s.begin x).fld Reg.SYS_PWRCYC = satAdd (s.fld Reg.SYS_PWRCYC) 1 := by
  unfold State.begin
  rw [fld_flag_other (by decide), fld_with, fld_setFld_other (by decide), fld_bump_same]

theorem cleared_frame (s : State) (b : Bool) : (s.cleared b).mode = .selftest ∧ (s.cleared b).ce = Ce.reset ∧
    (s.cleared b).wd = [] ∧ (s.cleared b).staged = [] ∧ (s.cleared b).cmd.desk = Desk.zero ∧ (s.cleared b).mem.prg = [] ∧
    (s.cleared b).sup.powered = false :=
  ⟨rfl, rfl, rfl, rfl, rfl, rfl, rfl⟩

/-- Cairn's intake and the loss of an image leave what is stored, configured and measured. -/
theorem cleared_keeps (s : State) (b : Bool) : (s.cleared b).mem.rs = s.mem.rs ∧ (s.cleared b).cmd.config = s.cmd.config ∧
    (s.cleared b).trig = s.trig ∧ (s.cleared b).mem.era = s.mem.era := by
  have h : s.imageLost.intakeAll.anchor = s.anchor := by simp
  refine ⟨congrArg Prod.fst h, congrArg (fun a => a.2.2.1.config) h, congrArg (fun a => a.2.2.2) h, congrArg (fun a => a.2.1) h⟩

theorem fld_cleared_pwrcyc (s : State) (b : Bool) : (s.cleared b).fld Reg.SYS_PWRCYC = s.fld Reg.SYS_PWRCYC := by
  have h : s.imageLost.intakeAll.core = s.core := by simp
  rw [fld_cleared, if_pos (by revert b; decide +kernel), core_fld h (by decide)]

/-! ### Trig starts with the supply (R410, R417) -/

/-- The fields that show Trig. -/
def trigPageKeys : List Nat := [Reg.EMP_STAT_RUNNING, Reg.EMP_STAT_FAULT, Reg.EMP_STAT_SEAL_OPEN, Reg.EMP_STAT_TIME_VALID,
  Reg.EMP_STAT_POS_VALID, Reg.EMP_STAT_LOG_NEAR_FULL, Reg.EMP_STAT_LOG_FULL, Reg.EMP_STAT_OVERRANGE, Reg.EMP_STAT_SYSTEM,
  Reg.EMP_STAT_MBOX_ERR, Reg.EMP_SEALCNT, Reg.EMP_FWVER, Reg.SYS_TRIGVER_VERSION, Reg.EMP_FWCTR, Reg.EMP_SWID,
  Reg.EMP_PARCHK, Reg.EMP_LOGHEAD, Reg.EMP_LOGACK, Reg.EMP_LOGFREE, Reg.EMP_CUMCONS, Reg.EMP_CUMREGEN]

theorem fld_trigPage {k : Nat} (hk : k ∉ trigPageKeys) (s : State) : s.trigPage.fld k = s.fld k := by
  simp only [trigPageKeys, List.mem_cons, List.not_mem_nil, or_false, not_or] at hk
  unfold State.trigPage
  simp only [fld_setFld_other, fld_flag_other, hk, ne_eq, not_false_eq_true]

/-- A frame on a link whose injection does not act goes out as it is (R474). -/
theorem transmit_idle {s : State} {l : Nat} (h : s.fiActs l false = false) (f : LinkFrame) : s.transmit l f = s.putOut l [f] := by
  unfold State.transmit State.fiPass
  simp [h]

/-- The mode, the supervisor, the Cycle Engine, the memory and the command unit. -/
def State.started (s : State) : Mode × Sup × Ce × Mem × Cmd := (s.mode, s.sup, s.ce, s.mem, s.cmd)

theorem trigStart_cases {s : State} {go : Trig → Trig} (hi : ∀ t, (go t).inbox = []) : s.trigStart go = s ∨
    ∃ t f, s.trigStart go = (State.trigPage { s with trig := t }).transmit linkConsole f := by
  unfold State.trigStart
  split
  · exact .inl rfl
  · next one _ =>
    refine .inr ⟨{ go { s.trig.runBank one with running := true, fault := false } with inbox := [] },
      ⟨hexDigits (go { s.trig.runBank one with running := true, fault := false }).swid, true⟩, ?_⟩
    exact congrArg (List.foldl _ _) (hi _)

@[simp] theorem setFld_started (s : State) (k : Nat) (v : Word) : (s.setFld k v).started = s.started := rfl
@[simp] theorem flag_started (s : State) (k : Nat) (b : Bool) : (s.flag k b).started = s.started := rfl

theorem trigPage_started (s : State) : s.trigPage.started = s.started := by simp [State.trigPage]

theorem putOut_started (s : State) (l : Nat) (fs : List LinkFrame) : (s.putOut l fs).started = s.started := rfl

/-- Trig's start with nothing waiting changes what shows Trig alone. -/
theorem trigStart_idle {s : State} {go : Trig → Trig} (hi : ∀ t, (go t).inbox = [])
    (hf : s.fld (Reg.FI_CFG_ARMED linkConsole) = 0) :
    (s.trigStart go).started = s.started ∧ ∀ k ∉ trigPageKeys, (s.trigStart go).fld k = s.fld k := by
  rcases trigStart_cases (s := s) hi with h | ⟨t, f, h⟩
  · rw [h]
    exact ⟨rfl, fun _ _ => rfl⟩
  · have idle : (State.trigPage { s with trig := t }).fiActs linkConsole false = false := by
      rw [State.fiActs, State.fiArmed, fld_trigPage (by decide), fld_with, hf]
      rfl
    rw [h, transmit_idle idle]
    refine ⟨(putOut_started ..).trans (trigPage_started _), fun k hk => ?_⟩
    rw [State.putOut, fld_with, fld_trigPage hk, fld_with]

/-- The state of a power-up before Trig starts. -/
def State.poweredUp (s : State) (feed2 : Bool) (x : Straps) : State :=
  let u := (s.cleared false).begin x
  { u with mem := { u.mem with ps := [], era := u.mem.era + 1 } }.flag (feedGoodKey feed2) true

theorem exec_powerUp {s : State} (h : s.sup.powered = false) (feed2 : Bool) (x : Straps) :
    exec (.powerUp feed2 x) s = .next ((s.poweredUp feed2 x).trigStart Trig.powerUp) :=
  congrArg Host.Outcome.next (if_neg (by simp [h]))

theorem powerUp_inbox (t : Trig) : t.powerUp.inbox = [] := rfl

theorem fld_poweredUp {s : State} {feed2 : Bool} {x : Straps} {k : Nat} (h : k ≠ feedGoodKey feed2) :
    (s.poweredUp feed2 x).fld k = ((s.cleared false).begin x).fld k := by
  unfold State.poweredUp
  rw [fld_flag_other h, fld_with]

theorem poweredUp_console (s : State) (feed2 : Bool) (x : Straps) : (s.poweredUp feed2 x).fld (Reg.FI_CFG_ARMED linkConsole) = 0 := by
  rw [fld_poweredUp (by cases feed2 <;> decide), fld_begin (by decide) (by decide) (by decide),
    fld_cleared_reset (by decide +kernel)]
  decide +kernel

theorem powerUp_settled {s : State} (h : s.sup.powered = false) (feed2 : Bool) (x : Straps) :
    ∃ t, exec (.powerUp feed2 x) s = .next t ∧ t.mode = .selftest ∧ t.sup.powered = true ∧
      t.fld Reg.SYS_PWRCYC = satAdd (s.fld Reg.SYS_PWRCYC) 1 ∧ t.fld (feedGoodKey feed2) = 1 ∧ t.mem.rs = s.mem.rs ∧
      t.mem.ps = [] ∧ t.mem.era = s.mem.era + 1 ∧ t.mem.prg = [] ∧ t.cmd.config = s.cmd.config ∧ t.ce = Ce.reset := by
  obtain ⟨started, keep⟩ := trigStart_idle powerUp_inbox (poweredUp_console s feed2 x)
  obtain ⟨rs, config, -, era⟩ := cleared_keeps s false
  refine ⟨_, exec_powerUp h feed2 x, ?_⟩
  generalize (s.poweredUp feed2 x).trigStart Trig.powerUp = t at started keep
  have mode : t.mode = .selftest := congrArg Prod.fst started
  have sup : t.sup.powered = true := congrArg (fun a => a.2.1.powered) started
  have ce : t.ce = Ce.reset := congrArg (fun a => a.2.2.1) started
  have mem : t.mem = (s.poweredUp feed2 x).mem := congrArg (fun a => a.2.2.2.1) started
  have cmd : t.cmd = (s.cleared false).cmd := congrArg (fun a => a.2.2.2.2) started
  refine ⟨mode, sup, ?_, ?_, ?_, ?_, ?_, ?_, ?_, ce⟩
  · rw [keep _ (by decide), fld_poweredUp (by cases feed2 <;> decide), fld_begin_pwrcyc, fld_cleared_pwrcyc]
  · rw [keep _ (by cases feed2 <;> decide)]
    exact fld_flag_same ..
  · exact (congrArg Mem.rs mem).trans rs
  · exact congrArg Mem.ps mem
  · exact (congrArg Mem.era mem).trans (congrArg (· + 1) era)
  · exact congrArg Mem.prg mem
  · exact (congrArg Cmd.config cmd).trans config

/-! ### The obligation -/

theorem restart_settled (s : State) (x : Straps) : (s.restart x).mode = .selftest ∧ (s.restart x).ce = Ce.reset ∧
    (s.restart x).sup.powered = true ∧ (s.restart x).sup.slot = x.slot.toNat ∧ (s.restart x).sup.bootsel = x.bootsel ∧
    (s.restart x).fld Reg.SYS_HWINFO_BOOTSEL = b2w x.bootsel ∧ (s.restart x).wd = [] ∧ (s.restart x).staged = [] ∧
    (s.restart x).cmd.desk = Desk.zero ∧ (s.restart x).mem.prg = [] ∧ (s.restart x).fieldOff = true := by
  obtain ⟨u, h⟩ := restart_eq s x
  obtain ⟨mode, ce, mem, wd, staged, cmd, powered, slot, bootsel⟩ := begin_frame (u.cleared true) x
  obtain ⟨mode', ce', wd', staged', desk', prg', -⟩ := cleared_frame u true
  rw [h]
  exact ⟨mode.trans mode', ce.trans ce', powered, slot, bootsel, fld_begin_bootsel _ x, wd.trans wd', staged.trans staged',
    (congrArg Cmd.desk cmd).trans desk', (congrArg Mem.prg mem).trans prg', begin_fieldOff (cleared_fieldOff u true) x⟩

theorem converterStop_settled {s : State} (hp : s.sup.powered = true) (hf : s.noFeed = true) :
    ∃ t, exec .converterStop s = .next t ∧ t.sup.powered = false ∧ t.mode = .selftest ∧ t.mem.rs = s.mem.rs ∧
      t.cmd.config = s.cmd.config ∧ t.fieldOff = true ∧ t.trig.running = false := by
  obtain ⟨mode, -, -, -, -, -, powered⟩ := cleared_frame (s.onTrig Trig.stop) false
  obtain ⟨rs, config, trig, -⟩ := cleared_keeps (s.onTrig Trig.stop) false
  have run : execConverterStop s = .next ((s.onTrig Trig.stop).cleared false) :=
    congrArg Host.Outcome.next (if_pos ⟨hp, .inl hf⟩)
  exact ⟨_, run, powered, mode, rs, config, cleared_fieldOff _ false, congrArg Trig.running trig⟩

/-- Settles O32: a restart and a power-up both begin from what `State.cleared` leaves. -/
theorem restartAndPowerCycle : Obligations.RestartAndPowerCycle := by
  refine ⟨⟨restart_settled, fun s ms x hp ha h1 h2 => ?_, fun s ms x h => ?_, fun s x h => ?_, fun s x hp => ?_, fun s hp => ?_,
    fun s hp => ?_⟩, fun s feed2 x h => powerUp_settled h feed2 x, fun s hp hf => converterStop_settled hp hf⟩
  · exact congrArg Host.Outcome.next (if_pos ⟨hp, ha, h1, h2⟩)
  · exact congrArg Host.Outcome.next (if_neg (by rintro ⟨-, -, h1, h2⟩; omega))
  · exact congrArg Host.Outcome.next (if_pos h)
  · exact congrArg Host.Outcome.next (if_pos hp)
  · exact ⟨_, congrArg Host.Outcome.next (if_pos hp), rfl, rfl, rfl, rfl⟩
  · refine ⟨_, congrArg Host.Outcome.next (if_neg (by simp [hp])), ?_⟩
    rw [report_sup, report_mode, report_mem]
    exact ⟨rfl, rfl, rfl, rfl⟩

end Sys2Proof.Machine
end

