-- ==== Sys2Proof/Proofs/AutoStart.lean ====
section
-- In order, not in parallel: each parallel thread reserves its whole stack of the check's memory.
set_option Elab.async false
/-! SUPPORT. The end of SELFTEST and the auto-start (R202, R218, R221, R230, R505). -/
namespace Sys2Proof.Machine

/-! ### What loading and activating an image leaves -/

@[simp] theorem slotBytes_core (s : State) (n len : Nat) : (s.slotBytes n len).1.core = s.core := by
  unfold State.slotBytes; dsimp only; (repeat' split) <;> simp

@[simp] theorem writePiece_core (s : State) (n off : Nat) (b : List Byte) : (s.writePiece n off b).1.core = s.core :=
    by
  simp [State.writePiece]

@[simp] theorem writeSlot_core : ∀ (s : State) (n a2 a3 : Nat) (a4 : List Byte), (s.writeSlot n a2 a3 a4).1.core =
    s.core := by
  intro s n k; induction k generalizing s with
    | zero => intros; rfl
    | succ k ih => intro off b; unfold State.writeSlot; (repeat' split) <;> (try dsimp only) <;> (repeat' split) <;> simp [ih]

@[simp] theorem zeroSlot_core (s : State) (n : Nat) : (s.zeroSlot n).core = s.core := rfl

/-- Whether a partner serves depends on this. -/
def State.partnerView (s : State) : Word × Option Hello := (s.fld Reg.COL_CTRL_ENABLE, s.col.partner)

theorem partnerServes_of_view {s t : State} (h : t.partnerView = s.partnerView) : t.partnerServes = s.partnerServes := by
  have enable : t.fld Reg.COL_CTRL_ENABLE = s.fld Reg.COL_CTRL_ENABLE := congrArg Prod.fst h
  have partner : t.col.partner = s.col.partner := congrArg Prod.snd h
  rw [State.partnerServes, State.partnerServes, enable, partner]

theorem foldl_partnerView_mem {α : Type} {f : State → α → State} {l : List α}
    (h : ∀ s, ∀ x ∈ l, (f s x).partnerView = s.partnerView) (s : State) : (l.foldl f s).partnerView = s.partnerView := by
  induction l generalizing s with
  | nil => rfl
  | cons x l ih =>
    rw [List.foldl_cons, ih (fun s y hy => h s y (List.mem_cons_of_mem _ hy)), h s x (List.mem_cons_self ..)]

theorem foldl_partnerView {α : Type} {f : State → α → State} (h : ∀ s x, (f s x).partnerView = s.partnerView) (l : List α)
    (s : State) : (l.foldl f s).partnerView = s.partnerView := foldl_partnerView_mem (fun s x _ => h s x) s

section Fields
variable (s : State) {k : Nat} (n : Nat) (v : Word) (b : Bool)

@[simp] theorem setFld_partnerView (h : Reg.COL_CTRL_ENABLE ≠ k) : (s.setFld k v).partnerView = s.partnerView := by
  unfold State.partnerView
  rw [fld_setFld_other h]
  rfl

@[simp] theorem flag_partnerView (h : Reg.COL_CTRL_ENABLE ≠ k) : (s.flag k b).partnerView = s.partnerView := setFld_partnerView s _ h
@[simp] theorem bump_partnerView (h : Reg.COL_CTRL_ENABLE ≠ k) : (s.bump k).partnerView = s.partnerView := setFld_partnerView s _ h
@[simp] theorem bumpBy_partnerView (h : Reg.COL_CTRL_ENABLE ≠ k) : (s.bumpBy k n).partnerView = s.partnerView :=
  setFld_partnerView s _ h

end Fields

@[simp] theorem report_partnerView (s : State) (cls : RecClass) (sev : Severity) (code sub inst : Nat) (p : List Byte) (h : sub ≤ 255) :
    (s.report cls sev code (srcNo sub inst) p).partnerView = s.partnerView := by
  unfold State.partnerView
  rw [fld_report _ _ _ _ _ _ _ h (by decide), report_col]

/-- Other parts of the state. -/
@[simp] theorem partnerView_with (x y : State) (a0 : List Instr) (a1 : Mode) (a3 a4 : Sparse Word) (a5 : List WdWrite) (a6 : Nat)
    (a7 : Time) (a8 : Mem) (a9 : Images) (a10 : Ce) (a11 : Saddle) (a12 : Cairn) (a13 : Cmd) (a14 : Sup) (a15 : Rings) (a16 : Fi)
    (a17 : Net) (a18 : Bus) (a19 : Ridge) (a21 : FieldUnit) (a22 : SafetyUnit) (a23 : Pwr) (a24 : Trig) (a25 : List Emit) :
    State.partnerView ⟨a0, a1, y.regs, a3, a4, a5, a6, a7, a8, a9, a10, a11, a12, a13, a14, a15, a16, a17, a18, a19, x.col, a21,
      a22, a23, a24, a25⟩ = (y.partnerView.1, x.partnerView.2) := rfl

@[simp] theorem storeKeys_apart (a : Arr) (c : Cls) : Reg.COL_CTRL_ENABLE ≠ ueCounter a c ∧ Reg.COL_CTRL_ENABLE ≠ wbCancelCounter a := by
  cases a <;> cases c <;> decide

@[simp] theorem countCe_partnerView (s : State) (a : Arr) (w : Nat) : (s.countCe a w).partnerView = s.partnerView := by
  unfold State.countCe; split <;> simp (disch := decide) []

@[simp] theorem countUe_partnerView (s : State) (a : Arr) (w : Nat) (c : Cls) (syn : Byte) (m : Master) :
    (s.countUe a w c syn m).partnerView = s.partnerView := by
  have key := (storeKeys_apart a c).1
  unfold State.countUe
  dsimp only
  rw [report_partnerView _ _ _ _ _ _ _ (by decide)]
  split <;> split <;> (simp (disch := decide) only [flag_partnerView, setFld_partnerView]; exact bump_partnerView s key)

@[simp] theorem account_partnerView (s : State) (a : Arr) (w : Nat) (m : Master) : (s.account a w m).partnerView = s.partnerView := by
  unfold State.account; dsimp only; (repeat' split) <;> simp (disch := decide) []

@[simp] theorem cancelWb_partnerView (s : State) (a : Arr) (w : Nat) : (s.cancelWb a w).partnerView = s.partnerView := by
  unfold State.cancelWb
  dsimp only
  split
  · exact bumpBy_partnerView _ _ (storeKeys_apart a .clean).2
  · rfl

@[simp] theorem setDirty_partnerView (s : State) (ps : List Nat) : (s.setDirty ps).partnerView = s.partnerView :=
  setFld_partnerView _ _ (by decide)

@[simp] theorem dirtyPage_partnerView (s : State) (key : Nat) : (s.dirtyPage key).partnerView = s.partnerView := by
  unfold State.dirtyPage; split <;> simp (disch := decide) []

@[simp] theorem dirtyWord_partnerView (s : State) (a : Arr) (w : Nat) : (s.dirtyWord a w).partnerView = s.partnerView := by
  unfold State.dirtyWord; split <;> simp (disch := decide) []

@[simp] theorem putCode_partnerView (s : State) (a : Arr) (w : Nat) (c : Code) : (s.putCode a w c).partnerView = s.partnerView := by
  simp (disch := decide) [State.putCode]

@[simp] theorem fullWrite_partnerView (s : State) (a : Arr) (w : Nat) (data : DWord) : (s.fullWrite a w data).partnerView = s.partnerView := by
  simp (disch := decide) [State.fullWrite]

@[simp] theorem poison_partnerView (s : State) (a : Arr) (w : Nat) : (s.poison a w).partnerView = s.partnerView := by
  unfold State.poison; split <;> simp (disch := decide) []

@[simp] theorem readWord_partnerView (s : State) (a : Arr) (w : Nat) (m : Master) : (s.readWord a w m).1.partnerView = s.partnerView := by
  unfold State.readWord; dsimp only; (repeat' split) <;> simp (disch := decide) []

@[simp] theorem readMany_partnerView : ∀ (s : State) (a : Arr) (m : Master) (a3 : List Nat), (s.readMany a m a3).1.partnerView = s.partnerView :=
    by
  intro s a m ws; induction ws generalizing s with
    | nil => rfl
    | cons w t ih => simp (disch := decide) [State.readMany, ih]

@[simp] theorem forceStat_partnerView (s : State) : s.forceStat.partnerView = s.partnerView := by
  simp (disch := decide) [State.forceStat]

theorem taskKeys_ne_enable : ∀ n < 8, Reg.COL_CTRL_ENABLE ≠ Reg.CE_TASKCFG_POLICY n ∧
    Reg.COL_CTRL_ENABLE ≠ Reg.CE_TASKCFG_ENABLE n ∧ Reg.COL_CTRL_ENABLE ≠ Reg.CE_TASKCFG_PERIOD n ∧
    Reg.COL_CTRL_ENABLE ≠ Reg.CE_TASKCFG_PHASE n ∧ Reg.COL_CTRL_ENABLE ≠ Reg.CE_TASKCFG_COMMIT_AT n ∧
    Reg.COL_CTRL_ENABLE ≠ Reg.CE_TASKCFG_OVR_LIMIT n ∧ Reg.COL_CTRL_ENABLE ≠ Reg.CE_WCET_WCET n := by decide

theorem loadTask_partnerView (s : State) {n : Nat} (hn : n < 8) (d : TaskDef) (stopped : Bool) :
    (s.loadTask n d stopped).partnerView = s.partnerView := by
  obtain ⟨h1, h2, h3, h4, h5, h6, h7⟩ := taskKeys_ne_enable n hn
  unfold State.loadTask
  dsimp only
  split
  · rw [flag_partnerView _ _ h2, setFld_partnerView _ _ h1]
  · rw [setFld_partnerView _ _ h7, setFld_partnerView _ _ h6, flag_partnerView _ _ h5, setFld_partnerView _ _ h4,
      setFld_partnerView _ _ h3, flag_partnerView _ _ h2, setFld_partnerView _ _ h1]

@[simp] theorem loadTasks_partnerView (s : State) (p : Image) : (s.loadTasks p).partnerView = s.partnerView :=
  foldl_partnerView_mem (fun s _ hn => loadTask_partnerView s (List.mem_range.mp hn) _ _) s

@[simp] theorem carryWord_partnerView (s : State) (a : Arr) (w : Nat) (e : Cls × DWord) : (s.carryWord a w e).partnerView = s.partnerView := by
  unfold State.carryWord; split <;> simp (disch := decide) []

@[simp] theorem carryEntry_partnerView (s : State) (c : Carry) : (s.carryEntry c).partnerView = s.partnerView := by
  unfold State.carryEntry
  dsimp only
  split
  · rfl
  · split
    · split
      · rfl
      · rw [foldl_partnerView (fun _ _ => carryWord_partnerView ..), readMany_partnerView]
    · exact foldl_partnerView (fun _ _ => fullWrite_partnerView ..) _ _

@[simp] theorem carryAll_partnerView (s : State) (b : Option (List Byte)) : (s.carryAll b).partnerView = s.partnerView := by
  unfold State.carryAll
  split
  · exact foldl_partnerView (fun _ _ => carryEntry_partnerView ..) _ _
  · rfl

@[simp] theorem checkForces_partnerView (s : State) (p : Image) : (s.checkForces p).partnerView = s.partnerView := by
  unfold State.checkForces
  dsimp only
  refine (foldl_partnerView (fun u f => ?_) _ _).trans ?_
  · rw [report_partnerView _ _ _ _ _ _ _ (by decide), bump_partnerView _ (by decide), flag_partnerView _ _ (by decide)]
  · rw [forceStat_partnerView]
    rfl

theorem modTask_partnerView (s : State) (w : Who) (f : TaskRt → TaskRt) : (s.modTask w f).partnerView = s.partnerView := rfl

theorem makeActive_partnerView (s : State) (p : Image) : (s.makeActive p).partnerView = s.partnerView := by
  unfold State.makeActive
  generalize hu : (s.carryAll p.carry).checkForces p = u
  have view : u.partnerView = s.partnerView := by
    rw [← hu, checkForces_partnerView, carryAll_partnerView]
  dsimp only
  rw [foldl_partnerView (fun _ _ => modTask_partnerView ..), loadTasks_partnerView, ← view]
  exact flag_partnerView u (k := Reg.CE_STAT_SLOT) _ (by decide)

theorem switchNow_partnerView (s : State) (p : Image) : (s.switchNow p).partnerView = s.partnerView := by
  unfold State.switchNow
  rw [flag_partnerView _ _ (by decide), setFld_partnerView _ _ (by decide), makeActive_partnerView]

/-! ### The first step of the auto-start -/

theorem setSlot_active (s : State) (n : Nat) (x : Slot) : (s.setSlot n x).ce.active = s.ce.active := rfl
theorem setResult_active (s : State) (n : Nat) (x : Slot) : (s.setResult n x).ce.active = s.ce.active := rfl

theorem loadSlot_active (s : State) (n : Nat) (id : Word) (b : List Byte) : (s.loadSlot n id b).ce.active = s.ce.active := by
  unfold State.loadSlot
  dsimp only
  rw [setSlot_active, core_ce (writeSlot_core ..)]
  rfl

theorem verifySlot_active (s : State) (id : Word) (p : Image) : (s.verifySlot id p).1.ce.active = s.ce.active := by
  unfold State.verifySlot
  dsimp only
  split
  · exact setResult_active ..
  · split
    · exact setResult_active ..
    · split
      · exact setResult_active ..
      · have bytes : ∀ n len, (s.slotBytes n len).1.ce = s.ce := fun n len => core_ce (slotBytes_core s n len)
        split <;> (rw [setFld_ce, setResult_active, bytes])

/-- Reading and checking the start image leaves what is active (R505). -/
theorem loadStart_active {s u : State} {img i : Image} (h : s.loadStart img = some (u, i)) : u.ce.active = s.ce.active := by
  unfold State.loadStart at h
  split at h
  · cases h
  · next id b _ =>
    dsimp only at h
    split at h
    · cases h
    · obtain ⟨rfl, rfl⟩ : _ = u ∧ _ = i := by simpa using h
      rw [verifySlot_active, loadSlot_active, flag_ce]
    · cases h

theorem autoRefused_fields (s : State) (n : Nat) : (s.autoRefused n).mode = s.mode ∧ (s.autoRefused n).sup.autoOpen = false ∧
    (s.autoRefused n).sup.autoReason = n ∧ (s.autoRefused n).ce = s.ce := by
  unfold State.autoRefused
  rw [report_mode, report_sup, report_ce]
  exact ⟨rfl, rfl, rfl, rfl⟩

theorem exec_autostart {s : State} (hm : s.mode = .stopped) (ho : s.sup.autoOpen = true) (hw : s.sup.modeWait = none)
    (img : Image) : exec (.autostart img) s = .next (s.autoStart img) :=
  congrArg Host.Outcome.next (if_neg (by simp [hm, ho, hw]))

theorem autoGo_init {s : State} {i : Image} (hb : s.autoBar = none) (hp : s.partnerServes = false) : s.autoGo i =
    (State.switchNow { s with sup.autoImage := none } i).startInit ⟨.run, none, true, .autostart⟩ := by
  have serves : (State.switchNow { s with sup.autoImage := none } i).partnerServes = s.partnerServes :=
    partnerServes_of_view ((switchNow_partnerView _ i).trans rfl)
  unfold State.autoGo
  rw [hb]
  dsimp only
  rw [if_neg (by simp [serves, hp])]

/-! ### SELFTEST -/

theorem sget_append {α : Type} (a b : Sparse α) (k : Nat) : sget (a ++ b) k = (sget a k).or (sget b k) := by
  induction a with
  | nil => simp [sget]
  | cons e t ih =>
    obtain ⟨j, v⟩ := e
    by_cases h : j = k <;> simp [sget, h, ih]

/-- A row of consecutive words. -/
theorem sget_row {α : Type} (c : Nat) (l : List α) (m k : Nat) :
    sget (((List.range' m l.length).zip l).map (fun e => (c + e.1, e.2))) k = if c + m ≤ k then l[k - (c + m)]? else none := by
  induction l generalizing m with
  | nil => simp [sget]
  | cons x t ih =>
    rw [List.length_cons, List.range'_succ, List.zip_cons_cons, List.map_cons, sget, ih]
    by_cases h : c + m = k
    · subst h
      simp
    · rw [if_neg h]
      by_cases h' : c + m ≤ k
      · obtain ⟨j, rfl⟩ : ∃ j, k = c + m + 1 + j := ⟨k - (c + m + 1), by omega⟩
        rw [if_pos (by omega), if_pos h', show c + m + 1 + j - (c + (m + 1)) = j by omega,
          show c + m + 1 + j - (c + m) = j + 1 by omega, List.getElem?_cons_succ]
      · rw [if_neg (by omega), if_neg h']

theorem rowContent_length : rowContent.length = 64 := by decide +kernel

theorem rowPasses_true : rowPasses = true := by decide +kernel

/-- The test rows of the first `n` arrays. -/
theorem sget_rows (n k : Nat) : sget ((List.range n).flatMap (fun a =>
    ((List.range rowWords).zip rowContent).map (fun e => (a * rowWords + e.1, e.2)))) k =
    if k < 64 * n then rowContent[k % 64]? else none := by
  induction n with
  | zero => simp [sget]
  | succ n ih =>
    have row := sget_row (n * rowWords) rowContent 0 k
    rw [rowContent_length, ← List.range_eq_range'] at row
    rw [List.range_succ, List.flatMap_append, sget_append, ih, List.flatMap_singleton]
    change Option.or _ (sget (((List.range 64).zip rowContent).map (fun e => (n * rowWords + e.1, e.2))) k) = _
    rw [row, show rowWords = 64 from rfl, Nat.add_zero]
    by_cases h : k < 64 * n
    · have filled : k % 64 < rowContent.length := by rw [rowContent_length]; omega
      rw [if_pos h, if_pos (show k < 64 * (n + 1) by omega), List.getElem?_eq_getElem filled]
      rfl
    · rw [if_neg h, Option.none_or]
      by_cases h' : k < 64 * (n + 1)
      · rw [if_pos h', if_pos (show n * 64 ≤ k by omega), show k - n * 64 = k % 64 by omega]
      · rw [if_neg h', if_pos (show n * 64 ≤ k by omega), List.getElem?_eq_none (by rw [rowContent_length]; omega)]

theorem testStores_fields (s : State) (fault : Option Nat) : (s.testStores fault).2 = fault ∧
    (s.testStores fault).1.mode = s.mode ∧ ∀ i < 1024, sget (s.testStores fault).1.mem.test i = rowContent[i % 64]? := by
  unfold State.testStores
  refine ⟨by rw [if_pos rowPasses_true], rfl, fun i hi => (sget_rows testArrays i).trans (if_pos ?_)⟩
  unfold testArrays
  omega

theorem retire_mode (s : State) (l : Lane) : (s.retire l).mode = s.mode := by
  unfold State.retire
  dsimp only
  split <;> (try split) <;> (try split) <;> cases l <;> simp [State.setLane, State.laneStat, State.setLaneLog, State.setDegLeft]

theorem testLane_mode (s : State) (l : Lane) (fails : Bool) : (s.testLane l fails).mode = s.mode := by
  unfold State.testLane
  split
  · exact setLane_mode ..
  · split
    · exact retire_mode ..
    · exact setLane_mode ..

theorem slotCheck_mode (s : State) : s.slotCheck.mode = s.mode := by
  unfold State.slotCheck
  dsimp only
  split
  · rw [report_mode, flag_mode]
  · exact flag_mode ..

theorem runTests_fields (s : State) (x : SelfTest) : (s.runTests x).1.mode = s.mode ∧ (s.runTests x).2 = x.array ∧
    ∀ i < 1024, sget (s.runTests x).1.mem.test i = rowContent[i % 64]? := by
  unfold State.runTests
  dsimp only
  generalize hu : (((((s.closeOpen .d).closeOpen .o).slotCheck.confRo 0x01 0x010 0 8).testLane .a x.laneA).testLane .b
    x.laneB).testLane .c x.laneC = u
  have mode : u.mode = s.mode := by
    rw [← hu, testLane_mode, testLane_mode, testLane_mode, State.confRo, setFld_mode, slotCheck_mode, core_mode (closeOpen_core ..),
      core_mode (closeOpen_core ..)]
  obtain ⟨array, same, test⟩ := testStores_fields u x.array
  generalize u.testStores x.array = q at array same test
  split
  · rw [report_mode, report_mem]
    exact ⟨same.trans mode, array, test⟩
  · exact ⟨same.trans mode, array, test⟩

theorem owedRecords_mode (s : State) : s.owedRecords.mode = s.mode := by
  unfold State.owedRecords
  dsimp only
  have down : (if s.pwr.downDue then State.report { s with pwr.downDue := false } .o .warn 0x0F02 (srcNo 15 0) [] else s).mode =
      s.mode := by
    split
    · exact report_mode ..
    · rfl
  generalize (if s.pwr.downDue then State.report { s with pwr.downDue := false } .o .warn 0x0F02 (srcNo 15 0) [] else s) = u at down
  have clock : (if u.pwr.clockDue then State.report { u with pwr.clockDue := false } .o .critical 0x0F06 (srcNo 15 0) [] else u).mode =
      s.mode := by
    split
    · exact (report_mode ..).trans down
    · exact down
  generalize (if u.pwr.clockDue then State.report { u with pwr.clockDue := false } .o .critical 0x0F06 (srcNo 15 0) [] else u) = v at clock
  split <;> split <;> simp [clock]

theorem changeMode_fields (s : State) (m : Mode) (t : Trigger) : (s.changeMode m t).mode = m ∧
    (s.changeMode m t).fld Reg.SYS_MODE_MODE = BitVec.ofNat 32 m.code := by
  unfold State.changeMode
  dsimp only
  generalize hu : (s.putMode m).report .o .info 0x0501 (srcNo 5 0)
    [BitVec.ofNat 8 s.mode.code, BitVec.ofNat 8 m.code, BitVec.ofNat 8 t.code] = u
  have put : u.mode = m ∧ u.fld Reg.SYS_MODE_MODE = BitVec.ofNat 32 m.code := by
    rw [← hu, report_mode, fld_report _ _ _ _ _ _ _ (by decide) (by decide)]
    exact ⟨rfl, fld_setFld_same ..⟩
  have shown : ∀ v : State, v.shown = u.shown → (v.afterMode s.mode).mode = m ∧
      (v.afterMode s.mode).fld Reg.SYS_MODE_MODE = BitVec.ofNat 32 m.code := by
    intro v hv
    have h := (afterMode_shown v s.mode).trans hv
    exact ⟨(shown_mode h).trans put.1, (shown_code h).trans put.2⟩
  split
  · exact shown _ (by simp)
  · exact shown _ rfl

theorem exec_selftestEnd {s : State} (hm : s.mode = .selftest) (hp : s.sup.powered = true) (x : SelfTest) :
    exec (.selftestEnd x) s = .next (s.endSelftest x) :=
  congrArg Host.Outcome.next (if_neg (by simp [hm, hp]))

theorem endSelftest_failed {s : State} (hm : s.mode = .selftest) {x : SelfTest} (h : x.loader = true ∨ x.array.isSome = true) :
    (s.endSelftest x).mode = .safe ∧ (s.endSelftest x).fld Reg.SYS_SAFE_CAUSE = 9 := by
  obtain ⟨mode, array, -⟩ := runTests_fields s x
  unfold State.endSelftest
  dsimp only
  rw [if_pos (by rw [array]; rcases h with h | h <;> simp [h])]
  have selftest : (s.runTests x).1.owedRecords.mode = .selftest := by rw [owedRecords_mode, mode, hm]
  exact ⟨enterSafe_mode (by simp [selftest]) (by simp [selftest]) 9, enterSafe_cause (by simp [selftest]) (by simp [selftest]) 9⟩

/-- Every test has passed, and two lanes are sound (R218). -/
def SelfTest.good (x : SelfTest) (s : State) : Prop :=
  x.loader = false ∧ x.comparators = false ∧ x.array = none ∧ x.clock = false ∧ 2 ≤ s.sound

theorem endSelftest_good {s : State} {x : SelfTest} (h : x.good (s.runTests x).1) : s.endSelftest x =
    let u := (s.runTests x).1
    let f := if u.firmwareTest.1 = 0 then x.read.getD (0, 0) else u.firmwareTest
    if u.sup.bootsel then State.changeMode { u with sup.recovery := some (1, 0, 0) } .recovery .selftest
    else if f.1 ≠ 0 then
      State.changeMode { u with sup.recovery := some (2, f.1, if f.1 = 4 then f.2 else 0) } .recovery .selftest
    else u.startStopped .selftest true := by
  obtain ⟨loader, comparators, none, clock, sound⟩ := h
  have array := (runTests_fields s x).2.1
  exact if_neg (by rw [array]; simp [loader, comparators, none, clock]; omega)

/-- The state in which the configuration is in force, the plan made, and the due step taken. -/
def State.startPlanned (s : State) : State :=
  let s := s.scanRetained
  let s := (s.applyConfig).applyStaged (fun _ => true)
  let s := (s.putConfirmed s.sf.confirmed).setDegLeft (if s.anyRetired then s.cv.degLeft else s.degLimit)
  let s := (s.setOp s.pwr.op).setFld Reg.PWR_STAT_GOP (BitVec.ofNat 32 s.pwr.gop)
  s.runFirmware.owedRecords.plan false

theorem startStopped_eq (s : State) (w : Trigger) (auto : Bool) : s.startStopped w auto =
    State.changeMode { s.startPlanned with sup.autoOpen := auto, sup.noAuto := !auto } .stopped w := rfl

theorem startStopped_fields (s : State) (w : Trigger) (auto : Bool) : (s.startStopped w auto).mode = .stopped ∧
    (s.startStopped w auto).fld Reg.SYS_MODE_MODE = 3 := by
  rw [startStopped_eq]
  exact changeMode_fields ..

theorem selftest_settled {s : State} (hm : s.mode = .selftest) (hp : s.sup.powered = true) (x : SelfTest) :
    let lanes := (s.runTests x).1
    let good := x.loader = false ∧ x.comparators = false ∧ x.array = none ∧ x.clock = false ∧ 2 ≤ lanes.sound
    ((s.runTests x).2 = x.array ∧ ∀ i < 1024, sget lanes.mem.test i = rowContent[i % 64]?) ∧
    (x.loader = true ∨ x.array.isSome = true → ∃ t, exec (.selftestEnd x) s = .next t ∧ t.mode = .safe ∧
      t.fld Reg.SYS_SAFE_CAUSE = 9) ∧
    (good → lanes.sup.bootsel = true → ∃ t, exec (.selftestEnd x) s = .next t ∧ t.mode = .recovery ∧
      t.fld Reg.SYS_MODE_MODE = 1) ∧
    (good → lanes.sup.bootsel = false → lanes.firmwareTest.1 ≠ 0 → ∃ t, exec (.selftestEnd x) s = .next t ∧ t.mode = .recovery) ∧
    (good → lanes.sup.bootsel = false → lanes.firmwareTest.1 = 0 → x.read = none →
      ∃ t, exec (.selftestEnd x) s = .next t ∧ t.mode = .stopped ∧ t.fld Reg.SYS_MODE_MODE = 3) := by
  obtain ⟨-, array, test⟩ := runTests_fields s x
  have run := exec_selftestEnd hm hp x
  refine ⟨⟨array, test⟩, fun h => ⟨_, run, endSelftest_failed hm h⟩, fun h hb => ⟨_, run, ?_⟩, fun h hb hf => ⟨_, run, ?_⟩,
    fun h hb hf hr => ⟨_, run, ?_⟩⟩
  · rw [endSelftest_good h]
    dsimp only
    rw [if_pos hb]
    exact changeMode_fields ..
  · rw [endSelftest_good h]
    dsimp only
    rw [if_neg (by simp [hb]), if_neg hf, if_pos hf]
    exact (changeMode_fields ..).1
  · rw [endSelftest_good h]
    dsimp only
    rw [if_neg (by simp [hb]), if_pos hf, hr, if_neg (by simp)]
    exact startStopped_fields ..

/-- Settles O33: SELFTEST by what its tests leave, the auto-start step by step. -/
theorem selftestAndAutoStart : Obligations.SelftestAndAutoStart := by
  refine ⟨fun s x hm hp => selftest_settled hm hp x, fun s img hm ho hw => ?_⟩
  have run := exec_autostart hm ho hw img
  refine ⟨fun u i hn hc hl => ⟨?_, loadStart_active hl⟩, fun i hi hb hs => ?_, fun i n hi hb => ?_, fun hn hc => ?_⟩
  · rw [run, State.autoStart, hn]
    dsimp only
    rw [State.autoRead, if_neg (by simp [hc]), hl]
  · rw [run, State.autoStart, hi]
    exact congrArg _ (autoGo_init hb hs)
  · obtain ⟨-, open_, reason, ce⟩ := autoRefused_fields s n
    refine ⟨s.autoRefused n, ?_, open_, reason, congrArg Ce.active ce⟩
    rw [run, State.autoStart, hi]
    dsimp only
    rw [State.autoGo, hb]
  · obtain ⟨mode, open_, reason, -⟩ := autoRefused_fields s 1
    refine ⟨s.autoRefused 1, ?_, mode.trans hm, open_, reason⟩
    rw [run, State.autoStart, hn]
    dsimp only
    rw [State.autoRead, if_pos hc]

end Sys2Proof.Machine
end

