-- ==== Sys2Proof/Proofs/Replies.lean ====
section
-- In order, not in parallel: each parallel thread reserves its whole stack of the check's memory.
set_option Elab.async false
/-! SUPPORT. What sending a reply leaves alone, and the gate of a request (R234, R236 to R238, R245 to R247). -/
namespace Sys2Proof.Machine

/-! ### A frame that is sent leaves the memory -/

theorem foldl_mem {α : Type} {f : State → α → State} (h : ∀ s x, (f s x).mem = s.mem) (l : List α) (s : State) :
    (l.foldl f s).mem = s.mem := by
  induction l generalizing s with
  | nil => rfl
  | cons x l ih => rw [List.foldl_cons, ih, h]

@[simp] theorem fiSelect_mem (s : State) (l : Nat) : (s.fiSelect l).1.mem = s.mem := rfl

@[simp] theorem fiInjected_mem (s : State) (l : Nat) : (s.fiInjected l).mem = s.mem := by
  simp [State.fiInjected]

@[simp] theorem fiLost_mem (s : State) (n : Nat) : (s.fiLost n).mem = s.mem := by
  unfold State.fiLost; split <;> simp

@[simp] theorem setHeld_mem (s : State) (l : Nat) (q : List Held) : (s.setHeld l q).mem = s.mem := rfl

@[simp] theorem fiReorder_mem (s : State) (l m : Nat) (rx sel : Bool) (f : LinkFrame) : (s.fiReorder l m rx sel
    f).1.mem = s.mem := by
  unfold State.fiReorder; dsimp only; (repeat' split) <;> simp 

@[simp] theorem fiDelay_mem (s : State) (l d : Nat) (rx sel : Bool) (f : LinkFrame) : (s.fiDelay l d rx sel f).1.mem =
    s.mem := by
  unfold State.fiDelay; dsimp only; (repeat' split) <;> simp 

@[simp] theorem fiPass_mem (s : State) (l : Nat) (rx : Bool) (f : LinkFrame) : (s.fiPass l rx f).1.mem = s.mem := by
  unfold State.fiPass; dsimp only; (repeat' split) <;> simp 

@[simp] theorem putOut_mem (s : State) (l : Nat) (fs : List LinkFrame) : (s.putOut l fs).mem = s.mem := rfl

@[simp] theorem transmit_mem (s : State) (l : Nat) (f : LinkFrame) : (s.transmit l f).mem = s.mem := by
  simp [State.transmit]

@[simp] theorem colSend_mem (s : State) (type : Nat) (payload : List Byte) : (s.colSend type payload).mem = s.mem := by
  unfold State.colSend; split <;> simp

@[simp] theorem portBoundary_mem (s : State) (n : Nat) : (s.portBoundary n).mem = s.mem := by
  simp [State.portBoundary]

@[simp] theorem sendOne_mem (s : State) (e : Queued) : (s.sendOne e).mem = s.mem := by
  simp [State.sendOne, apply_ite State.mem]

@[simp] theorem sendAll_mem (s : State) (l : List Queued) : (s.sendAll l).mem = s.mem := by
  simp [State.sendAll, foldl_mem]

@[simp] theorem countUnit_mem (s : State) : s.countUnit.mem = s.mem := rfl

@[simp] theorem unitSend_mem (s : State) (bytes : List Byte) : (s.unitSend bytes).mem = s.mem := by
  simp [State.unitSend]

@[simp] theorem unitUdp_mem (s : State) (dst srcPort dstPort : Nat) (data : List Byte) : (s.unitUdp dst srcPort
    dstPort data).mem = s.mem := by
  simp [State.unitUdp]

@[simp] theorem rdgEmit_mem (s : State) (east ok : Bool) (f : RidgeFrame) : (s.rdgEmit east ok f).mem = s.mem := by
  unfold State.rdgEmit; split <;> simp

@[simp] theorem rdgBoth_mem (s : State) (f : RidgeFrame) : (s.rdgBoth f).mem = s.mem := by
  simp [State.rdgBoth]

@[simp] theorem setStream_mem (s : State) (n : Nat) (x : Stream) : (s.setStream n x).mem = s.mem := rfl

@[simp] theorem rdgTo_mem (s : State) (type n seq : Nat) (sync : Bool) (payload : List Byte) : (s.rdgTo type n seq
    sync payload).mem = s.mem := by
  simp [State.rdgTo]

@[simp] theorem streamSend_mem (s : State) (n type : Nat) (payload : List Byte) (ring : Option Nat) (offset : Nat) :
    (s.streamSend n type payload ring offset).mem = s.mem := by
  simp [State.streamSend]

@[simp] theorem sendMsg_mem (s : State) (n : Nat) (packet : List Byte) : (s.sendMsg n packet).mem = s.mem := by
  simp [State.sendMsg]

/-! ### Sending leaves the command unit -/

theorem foldl_cmd {α : Type} {f : State → α → State} (h : ∀ s x, (f s x).cmd = s.cmd) (l : List α) (s : State) :
    (l.foldl f s).cmd = s.cmd := by
  induction l generalizing s with
  | nil => rfl
  | cons x l ih => rw [List.foldl_cons, ih, h]

@[simp] theorem setBit_cmd (s : State) (k i : Nat) : (s.setBit k i).cmd = s.cmd := rfl

@[simp] theorem applyStaged_cmd (s : State) (p : Nat → Bool) : (s.applyStaged p).cmd = s.cmd := by
  unfold State.applyStaged; exact foldl_cmd (fun _ _ => by simp) _ _

@[simp] theorem countCe_cmd (s : State) (a : Arr) (w : Nat) : (s.countCe a w).cmd = s.cmd := by
  unfold State.countCe; split <;> simp

@[simp] theorem countUe_cmd (s : State) (a : Arr) (w : Nat) (c : Cls) (syn : Byte) (m : Master) : (s.countUe a w c syn
    m).cmd = s.cmd := by
  simp [State.countUe, apply_ite State.cmd]

@[simp] theorem account_cmd (s : State) (a : Arr) (w : Nat) (m : Master) : (s.account a w m).cmd = s.cmd := by
  unfold State.account; dsimp only; (repeat' split) <;> simp

@[simp] theorem cancelWb_cmd (s : State) (a : Arr) (w : Nat) : (s.cancelWb a w).cmd = s.cmd := by
  simp [State.cancelWb, apply_ite State.cmd]

@[simp] theorem setDirty_cmd (s : State) (ps : List Nat) : (s.setDirty ps).cmd = s.cmd := rfl

@[simp] theorem dirtyPage_cmd (s : State) (key : Nat) : (s.dirtyPage key).cmd = s.cmd := by
  unfold State.dirtyPage; split <;> simp

@[simp] theorem dirtyWord_cmd (s : State) (a : Arr) (w : Nat) : (s.dirtyWord a w).cmd = s.cmd := by
  unfold State.dirtyWord; split <;> simp

@[simp] theorem putCode_cmd (s : State) (a : Arr) (w : Nat) (c : Code) : (s.putCode a w c).cmd = s.cmd := by
  simp [State.putCode]

@[simp] theorem fullWrite_cmd (s : State) (a : Arr) (w : Nat) (data : DWord) : (s.fullWrite a w data).cmd = s.cmd := by
  simp [State.fullWrite]

@[simp] theorem poison_cmd (s : State) (a : Arr) (w : Nat) : (s.poison a w).cmd = s.cmd := by
  unfold State.poison; split <;> simp

@[simp] theorem readWord_cmd (s : State) (a : Arr) (w : Nat) (m : Master) : (s.readWord a w m).1.cmd = s.cmd := by
  unfold State.readWord; dsimp only; (repeat' split) <;> simp

@[simp] theorem partialWrite_cmd (s : State) (a : Arr) (w : Nat) (data mask : DWord) (m : Master) : (s.partialWrite a
    w data mask m).1.cmd = s.cmd := by
  unfold State.partialWrite; dsimp only; (repeat' split) <;> simp

@[simp] theorem writeWord_cmd (s : State) (a : Arr) (w : Nat) (data mask : DWord) (m : Master) : (s.writeWord a w data
    mask m).1.cmd = s.cmd := by
  unfold State.writeWord; split <;> simp

@[simp] theorem readMany_cmd : ∀ (s : State) (a : Arr) (m : Master) (a3 : List Nat), (s.readMany a m a3).1.cmd = s.cmd
    := by
  intro s a m ws; induction ws generalizing s with
    | nil => rfl
    | cons w t ih => simp [State.readMany, ih]

@[simp] theorem fiSelect_cmd (s : State) (l : Nat) : (s.fiSelect l).1.cmd = s.cmd := rfl

@[simp] theorem fiInjected_cmd (s : State) (l : Nat) : (s.fiInjected l).cmd = s.cmd := by
  simp [State.fiInjected]

@[simp] theorem fiLost_cmd (s : State) (n : Nat) : (s.fiLost n).cmd = s.cmd := by
  unfold State.fiLost; split <;> simp

@[simp] theorem setHeld_cmd (s : State) (l : Nat) (q : List Held) : (s.setHeld l q).cmd = s.cmd := rfl

@[simp] theorem fiReorder_cmd (s : State) (l m : Nat) (rx sel : Bool) (f : LinkFrame) : (s.fiReorder l m rx sel
    f).1.cmd = s.cmd := by
  unfold State.fiReorder; dsimp only; (repeat' split) <;> simp

@[simp] theorem fiDelay_cmd (s : State) (l d : Nat) (rx sel : Bool) (f : LinkFrame) : (s.fiDelay l d rx sel f).1.cmd =
    s.cmd := by
  unfold State.fiDelay; dsimp only; (repeat' split) <;> simp

@[simp] theorem fiPass_cmd (s : State) (l : Nat) (rx : Bool) (f : LinkFrame) : (s.fiPass l rx f).1.cmd = s.cmd := by
  unfold State.fiPass; dsimp only; (repeat' split) <;> simp

@[simp] theorem putOut_cmd (s : State) (l : Nat) (fs : List LinkFrame) : (s.putOut l fs).cmd = s.cmd := rfl

@[simp] theorem transmit_cmd (s : State) (l : Nat) (f : LinkFrame) : (s.transmit l f).cmd = s.cmd := by
  simp [State.transmit]

@[simp] theorem ringHalt_cmd (s : State) (n : Nat) (c : HaltCause) (addr : Nat) : (s.ringHalt n c addr).cmd = s.cmd := by
  simp [State.ringHalt]

@[simp] theorem readDesc_cmd (s : State) (n : Nat) : (s.readDesc n).1.cmd = s.cmd := by
  unfold State.readDesc; dsimp only; (repeat' split) <;> simp

@[simp] theorem writeDesc_cmd (s : State) (n : Nat) (d : Desc) (st : DescStatus) (time : Nat) : (s.writeDesc n d st
    time).cmd = s.cmd := by
  simp [State.writeDesc]

@[simp] theorem complete_cmd (s : State) (n : Nat) (d : Desc) (st : DescStatus) (time : Nat) : (s.complete n d st
    time).cmd = s.cmd := by
  simp [State.complete, apply_ite State.cmd]

@[simp] theorem setHold_cmd (s : State) (n : Nat) (q : List Arrival) : (s.setHold n q).cmd = s.cmd := rfl

@[simp] theorem ringDrop_cmd (s : State) (n k : Nat) : (s.ringDrop n k).cmd = s.cmd := by
  unfold State.ringDrop; split <;> simp

@[simp] theorem holdFrame_cmd (s : State) (n : Nat) (f : Arrival) : (s.holdFrame n f).cmd = s.cmd := by
  simp [State.holdFrame, apply_ite State.cmd]

@[simp] theorem writeFrame_cmd : ∀ (s : State) (d : Desc) (data : List Byte) (a3 : Nat), (s.writeFrame d data
    a3).1.cmd = s.cmd := by
  intro s d data k; induction k with
    | zero => rfl
    | succ k ih => unfold State.writeFrame; dsimp only; (repeat' split) <;> simp [ih]

@[simp] theorem holdRest_cmd (s : State) (n : Nat) (f : Arrival) : (s.holdRest n f).cmd = s.cmd := by
  simp [State.holdRest, apply_ite State.cmd]

@[simp] theorem placeFrame_cmd (s : State) (n : Nat) (x : Arrival) : (s.placeFrame n x).cmd = s.cmd := by
  unfold State.placeFrame; dsimp only; (repeat' split) <;> simp

@[simp] theorem pump_cmd : ∀ (s : State) (n a2 : Nat), (s.pump n a2).cmd = s.cmd := by
  intro s n k; induction k generalizing s with
    | zero => rfl
    | succ k ih => unfold State.pump; split <;> (try split) <;> simp [ih]

@[simp] theorem dropHold_cmd (s : State) (n : Nat) : (s.dropHold n).cmd = s.cmd := by
  simp [State.dropHold]

@[simp] theorem dropHand_cmd (s : State) (n : Nat) : (s.dropHand n).cmd = s.cmd := by
  unfold State.dropHand; split <;> simp

@[simp] theorem ringRestart_cmd (s : State) (n : Nat) : (s.ringRestart n).cmd = s.cmd := by
  simp [State.ringRestart]

@[simp] theorem ringIdle_cmd (s : State) (n : Nat) : (s.ringIdle n).cmd = s.cmd := by
  simp [State.ringIdle, apply_ite State.cmd]

@[simp] theorem ringGo_cmd (s : State) (n : Nat) : (s.ringGo n).cmd = s.cmd := by
  simp [State.ringGo, apply_ite State.cmd, foldl_cmd]

@[simp] theorem arrive_cmd (s : State) (n : Nat) (f : AgentFrame) (err chars : Bool) (time : Nat) : (s.arrive n f err
    chars time).cmd = s.cmd := by
  simp [State.arrive, apply_ite State.cmd]

@[simp] theorem ringIn_cmd (s : State) (n agent : Nat) (f : AgentFrame) : (s.ringIn n agent f).cmd = s.cmd := by
  unfold State.ringIn; split <;> simp

@[simp] theorem colSend_cmd (s : State) (type : Nat) (payload : List Byte) : (s.colSend type payload).cmd = s.cmd := by
  unfold State.colSend; split <;> simp

@[simp] theorem portBoundary_cmd (s : State) (n : Nat) : (s.portBoundary n).cmd = s.cmd := by
  simp [State.portBoundary]

@[simp] theorem sendOne_cmd (s : State) (e : Queued) : (s.sendOne e).cmd = s.cmd := by
  simp [State.sendOne, apply_ite State.cmd]

@[simp] theorem sendAll_cmd (s : State) (l : List Queued) : (s.sendAll l).cmd = s.cmd := by
  simp [State.sendAll, foldl_cmd]

@[simp] theorem countUnit_cmd (s : State) : s.countUnit.cmd = s.cmd := rfl

@[simp] theorem unitSend_cmd (s : State) (bytes : List Byte) : (s.unitSend bytes).cmd = s.cmd := by
  simp [State.unitSend]

@[simp] theorem unitUdp_cmd (s : State) (dst srcPort dstPort : Nat) (data : List Byte) : (s.unitUdp dst srcPort
    dstPort data).cmd = s.cmd := by
  simp [State.unitUdp]

@[simp] theorem rdgEmit_cmd (s : State) (east ok : Bool) (f : RidgeFrame) : (s.rdgEmit east ok f).cmd = s.cmd := by
  unfold State.rdgEmit; split <;> simp

@[simp] theorem rdgBoth_cmd (s : State) (f : RidgeFrame) : (s.rdgBoth f).cmd = s.cmd := by
  simp [State.rdgBoth]

@[simp] theorem setStream_cmd (s : State) (n : Nat) (x : Stream) : (s.setStream n x).cmd = s.cmd := rfl

@[simp] theorem rdgTo_cmd (s : State) (type n seq : Nat) (sync : Bool) (payload : List Byte) : (s.rdgTo type n seq
    sync payload).cmd = s.cmd := by
  simp [State.rdgTo]

@[simp] theorem streamSend_cmd (s : State) (n type : Nat) (payload : List Byte) (ring : Option Nat) (offset : Nat) :
    (s.streamSend n type payload ring offset).cmd = s.cmd := by
  simp [State.streamSend]

@[simp] theorem sendMsg_cmd (s : State) (n : Nat) (packet : List Byte) : (s.sendMsg n packet).cmd = s.cmd := by
  simp [State.sendMsg]

/-! ### Completing a request (R234, R246) -/

theorem desk_of_supervisor {s : State} {r : Req} (h : r.target = 0) : s.desk r = s.cmd.desk := by
  simp [State.desk, Req.atTrig, h]

theorem setDesk_of_supervisor {s : State} {r : Req} (h : r.target = 0) (d : Desk) :
    s.setDesk r d = { s with cmd.desk := d } := by
  simp [State.setDesk, Req.atTrig, h]

theorem answered_of_supervisor {s : State} {r : Req} (h : r.target = 0) (op : Nat) : s.answered op r = s := by
  simp [State.answered, Req.atTrig, h]

/-- A reply joins the outbox, whatever way it leaves. -/
theorem send_cmd (s : State) {p : Reply} (h : p.target = 0) : (s.send p).cmd = { s.cmd with outbox := s.cmd.outbox ++ [p] } := by
  unfold State.send
  rw [if_neg (by simp [h])]
  dsimp only
  split <;> simp

/-- A reply leaves the memory, but through ring 1. -/
theorem send_mem {s : State} {p : Reply} (h : p.target = 0) (hr : p.transport ≠ 0 ∨ s.ringOn 1 = false) :
    (s.send p).mem = s.mem := by
  unfold State.send
  rw [if_neg (by simp [h])]
  dsimp only
  split
  · next h0 =>
    have off : s.ringOn 1 = false := hr.resolve_left (by simp [h0])
    unfold State.ringIn State.arrive
    split
    · rw [if_pos]
      rw [show State.ringOn { s with cmd.outbox := s.cmd.outbox ++ [p] } 1 = s.ringOn 1 from rfl, off]
      rfl
    · rfl
  all_goals simp

theorem authFailed_frame {s : State} {r : Req} (h : r.target = 0) : (s.authFailed r).cmd.outbox = s.cmd.outbox ∧
    (s.authFailed r).mem = s.mem ∧ (s.authFailed r).ringOn 1 = s.ringOn 1 := by
  have sup : r.atTrig = false := by simp [Req.atTrig, h]
  unfold State.authFailed State.ringOn
  simp only [sup, Bool.false_eq_true, if_false, setDesk_of_supervisor h]
  split
  · rw [report_cmd, report_mem, report_bus, fld_report _ _ _ _ _ _ _ (by decide) (by decide), fld_setBit_other (by decide),
      fld_with, fld_bump_other (by decide)]
    exact ⟨rfl, rfl, rfl⟩
  · rw [fld_with, fld_bump_other (by decide)]
    exact ⟨rfl, rfl, rfl⟩

theorem countStatus_frame {s : State} {r : Req} (h : r.target = 0) (st : Status) :
    (s.countStatus r st).cmd.outbox = s.cmd.outbox ∧ (s.countStatus r st).mem = s.mem ∧
    (s.countStatus r st).ringOn 1 = s.ringOn 1 := by
  have sup : r.atTrig = false := by simp [Req.atTrig, h]
  unfold State.countStatus
  simp only [sup, Bool.false_eq_true, if_false]
  split
  · exact authFailed_frame h
  · refine ⟨rfl, rfl, ?_⟩
    unfold State.ringOn
    rw [fld_bump_other (by decide)]
    rfl
  · refine ⟨rfl, rfl, ?_⟩
    unfold State.ringOn
    rw [fld_bump_other (by decide)]
    rfl
  · exact ⟨rfl, rfl, rfl⟩

theorem transport_setTransport (d : Desk) {n : Nat} (h : n < 8) (x : Transport) : (d.setTransport n x).transport n = x := by
  unfold Desk.transport Desk.setTransport
  simp [List.getD, h]

theorem transport_modSession (d : Desk) (num n : Nat) (f : Session → Session) :
    (d.modSession num f).transport n = d.transport n := rfl

/-- What is kept of a completed request (R246, R257). -/
theorem keep_frame {s : State} {r : Req} (h : r.target = 0) (ht : r.transport < 8) (op : Nat) (st : Status) (p : Reply) :
    (s.keep op r st p).cmd.outbox = s.cmd.outbox ∧ (s.keep op r st p).mem = s.mem ∧
    ((s.keep op r st p).cmd.desk.transport r.transport).last = some (r.tag, st.code, op, r.session) := by
  unfold State.keep
  dsimp only
  rw [setDesk_of_supervisor h, desk_of_supervisor h]
  refine ⟨rfl, rfl, ?_⟩
  dsimp only
  split
  · rw [transport_setTransport _ ht]
  · rw [transport_modSession, transport_setTransport _ ht]

theorem finish_supervisor {s : State} {r : Req} (h : r.target = 0) (ht : r.transport < 8) (op : Nat) (a : Answer) :
    let p := mkReply r op r.session (s.keyOf op r) false a.payload
    (s.finish op r a).cmd.outbox = s.cmd.outbox ++ [p] ∧
    ((s.finish op r a).cmd.desk.transport r.transport).last = some (r.tag, a.status.code, op, r.session) ∧
    (r.transport ≠ 0 ∨ s.ringOn 1 = false → (s.finish op r a).mem = s.mem) := by
  intro p
  obtain ⟨outbox, mem, on⟩ := countStatus_frame h (s := s) a.status
  have hp : p.target = 0 := h
  obtain ⟨outbox', mem', last⟩ := keep_frame (s := (s.countStatus r a.status).send p) h ht op a.status p
  have eq : s.finish op r a = ((s.countStatus r a.status).send p).keep op r a.status p := by
    unfold State.finish State.finishWith
    dsimp only
    rw [answered_of_supervisor h]
  rw [eq]
  refine ⟨?_, last, fun hr => ?_⟩
  · rw [outbox', send_cmd _ hp, outbox]
  · rw [mem', send_mem hp (by rw [on]; exact hr), mem]

/-! ### The gate (R237, R238, R245 to R247) -/

theorem gate_program {s : State} {op : Nat} {r : Req} (hs : r.session = 0) (ht : r.transport = 0) (h : r.target = 0)
    (ha : r.auth = false) (ho : op ≠ 0x0020) : s.gate op r =
    s.tagGate op r (s.cmd.desk.transport 0).kept none id (fun s => .pass (s.bump Reg.CMD_RXCNT) (some s.programRole) none) := by
  have sup : r.atTrig = false := by simp [Req.atTrig, h]
  unfold State.gate
  simp only [hs, ht, sup, ha, desk_of_supervisor h, ho]
  simp

/-- Settles O37, clause by clause. -/
theorem requestGate : Obligations.RequestGate := by
  refine ⟨fun s op r hs ht h ha ho hp hk => ?_, fun s op r hs hd h => ?_, fun s op r x hs hd h hx ha => ?_,
    fun s op r k hs ht h ha ho hp hk ht' hop hc => ?_, fun s op r a h ht => ?_⟩
  · rw [gate_program hs ht h ha ho, hk, State.tagGate, if_neg (by simp [hp])]
    rfl
  · unfold State.gate
    rw [desk_of_supervisor h]
    simp only [if_neg hs, hd]
    rfl
  · unfold State.gate
    rw [desk_of_supervisor h]
    simp only [if_neg hs, hd]
    simp [hx, ha, State.deny]
  · have sup : r.atTrig = false := by simp [Req.atTrig, h]
    rw [gate_program hs ht h ha ho, hk, State.tagGate, if_neg (by simp [hp])]
    simp [Option.filter_some, ht', hop, hc, sup, answered_of_supervisor h]
  · obtain ⟨outbox, last, mem⟩ := finish_supervisor (s := s) h ht op a
    exact ⟨outbox, rfl, rfl, rfl, last, core_ce (finish_core ..), mem⟩

end Sys2Proof.Machine
end

