-- ==== Sys2Proof/Proofs/Reading.lean ====
section
-- In order, not in parallel: each parallel thread reserves its whole stack of the check's memory.
set_option Elab.async false
/-! SUPPORT. The requests that read, each past its gate (R249 to R257, R272, R353, R404, R437, R438, R472, R473). -/
namespace Sys2Proof.Machine

section Acts
variable {s u : State} {c : CmdSpec} {r : Req} {role : Option Role} {armed : Option Armed} (h : s.acts c r u role armed)
include h

/-- A request that is answered from the state past the gate. -/
theorem next_serveAnswer {f : State → State × Answer} {x : State} {a : Answer} (hf : f u = (x, a)) :
    Host.Outcome.next (s.serveAnswer c r f) = (.next (x.finish c.op r a) : Out) := by
  rw [serveAnswer_of_acts h, hf]

/-- A request that acts on the state past the gate. -/
theorem next_serve {f : State → State} {x : State} (hf : f u = x) : Host.Outcome.next (s.serve c r f) = (.next x : Out) := by
  rw [serve_of_acts h, hf]

/-- A request whose action asks for the role or the armed command. -/
theorem next_serveWith {f : Option Role → Option Armed → State → State} {x : State} (hf : f role armed u = x) :
    Host.Outcome.next (s.serveWith c r f) = (.next x : Out) := by
  rw [serveWith_of_acts h, hf]

end Acts

/-- Keys are never read out (R252). -/
theorem readConf_key (c : Sparse Byte) {off : Nat} (h : off ≠ 0) : readConf c 0x81 off = 0 := by
  unfold readConf
  rw [if_neg (by simp [blkKeys]), if_pos h]

/-- KEY_SET tells no more than which keys are set. -/
theorem readConf_keySet {c d : Sparse Byte} (h : ∀ o ∈ [0x20, 0x40, 0x60], (confNat c 0x81 o 32 = 0 ↔ confNat d 0x81 o 32 = 0))
    (off : Nat) : readConf c 0x81 off = readConf d 0x81 off := by
  by_cases ho : off = 0
  · have set : ∀ o ∈ [0x20, 0x40, 0x60], (confNat c 0x81 o 32 != 0) = (confNat d 0x81 o 32 != 0) := by
      intro o hm
      rw [Bool.eq_iff_iff]
      simpa using not_congr (h o hm)
    unfold readConf
    dsimp only
    rw [if_neg (by simp [blkKeys]), if_neg (by simp [ho]), if_neg (by simp [blkKeys]), if_neg (by simp [ho])]
    rw [show blkKeys = 0x81 from rfl, set 0x20 (by simp), set 0x40 (by simp), set 0x60 (by simp)]
  · rw [readConf_key c ho, readConf_key d ho]

/-- Settles O38: each request past its gate, and what CFG_READ shows of the keys. -/
theorem readingRequestsAndKeys : Obligations.ReadingRequestsAndKeys := by
  refine ⟨fun s r u role a => ?_, fun c _ ho => readConf_key c ho, fun _ _ off h => readConf_keySet h off⟩
  refine ⟨fun h => next_serveAnswer h rfl, fun h => next_serveAnswer h rfl, fun h => next_serveAnswer h rfl,
    fun h => next_serveAnswer h rfl, fun hl h => next_serveAnswer h (if_pos hl), fun hl h => next_serveAnswer h (if_neg hl),
    fun hn hk h => ?_, fun arr n hi hn h0 h1 h2 h => ?_, fun h => next_serve h rfl, fun h => next_serveAnswer h rfl,
    fun h2 h0 h1 hr h => ?_, fun h => next_serveAnswer h rfl, fun h1 h0 h2 h => ?_, fun h => next_serve h rfl,
    fun h => next_serveAnswer h rfl, fun h => next_serveAnswer h rfl⟩
  · refine next_serveAnswer h ?_
    simp [hn, hk]
  · refine next_serveAnswer h ?_
    subst hn
    dsimp only
    rw [hi]
    exact if_neg (by omega)
  · refine next_serveAnswer h ?_
    dsimp only
    rw [if_neg (by simp [h2, hr]; omega), if_pos h2]
  · refine next_serveAnswer h ?_
    dsimp only
    rw [if_neg (by omega)]
    split <;> rfl

end Sys2Proof.Machine
end

