-- ==== Sys2Proof/Proofs/Changing.lean ====
section
-- In order, not in parallel: each parallel thread reserves its whole stack of the check's memory.
set_option Elab.async false
/-! SUPPORT. The requests that change something, each past its gate (R84, R215, R216, R239, R241, R250, R252, R360, R403, R405,
R471). -/
namespace Sys2Proof.Machine

/-- Without an auto-start there is nothing to supersede (R505). -/
theorem supersede_closed {s : State} (h : s.sup.autoOpen = false) : s.supersede = s := if_neg (by simp [h])

section Requests
variable {s u : State} {r : Req} {role : Option Role} {a : Option Armed}

/-- A REG_WRITE of one register lists one write. -/
theorem writes_one (h : r.nat 0 2 = 1) : r.writes = [(r.nat 4 4, r.nat 8 4)] := by
  simp [Req.writes, h]

theorem regWrite_one (h : s.acts ⟨0x0011, rMI, lenBetween 12 4060, allModes, false⟩ r u role a) (hl : r.payload.length = 12)
    (hn : r.nat 0 2 = 1) (ha : regAddrOk (r.nat 4 4) = true) (hs : sealedPage (pageOf (r.nat 4 4)) = false) :
    let page := pageOf (r.nat 4 4)
    let off := offOf (r.nat 4 4)
    let v := BitVec.ofNat 32 (r.nat 8 4)
    let w := u.regWrite .packet page off v
    (u.ringClaim page off v 0xFFFFFFFF = none → exec (.regWrite r) s =
      .next (((if w.mode = u.mode then w else u.supersede.regWrite .packet page off v).abortWd
        (fun x => x = .packet)).finish 0x0011 r .done)) ∧
    (∀ n, u.ringClaim page off v 0xFFFFFFFF = some n →
      exec (.regWrite r) s = .next (u.finish 0x0011 r (.conflict 0x02 n))) := by
  have open_ : [(r.nat 4 4, r.nat 8 4)].find? (fun w => sealedPage (pageOf w.1)) = none := by simp [hs]
  have claims : [(r.nat 4 4, r.nat 8 4)].findSome?
      (fun w => u.ringClaim (pageOf w.1) (offOf w.1) (BitVec.ofNat 32 w.2) 0xFFFFFFFF) =
      u.ringClaim (pageOf (r.nat 4 4)) (offOf (r.nat 4 4)) (BitVec.ofNat 32 (r.nat 8 4)) 0xFFFFFFFF := by simp
  refine ⟨fun hc => next_serveAnswer h ?_, fun n hc => next_serveAnswer h ?_⟩
  · dsimp only
    rw [writes_one hn, if_neg (by simp [hl, ha]), open_, claims, hc]
    rfl
  · dsimp only
    rw [writes_one hn, if_neg (by simp [hl, ha]), open_, claims, hc]

theorem modeReq_accepted (h : s.acts ⟨0x0100, .any, fixedLen 4, allModes, false⟩ r u role a) {t : Mode}
    (ht : targetMode (r.nat 0 1) = some t) (hw : t = .safe ∨ u.sup.modeWait = none) (hr : u.modeRefusal t role = none) :
    exec (.modeReq r) s = .next (u.supersede.modeGo t r) := by
  refine next_serveWith h ?_
  unfold State.modeReq
  simp only [ht]
  rw [if_neg (by rcases hw with hw | hw <;> simp [hw]), hr]

theorem cfgWrite_accepted (h : s.acts ⟨0x0201, rMI, lenBetween 9 4064, modesOf [.config], false⟩ r u role a)
    (ho : u.ownsEdit r = true) (hl : u.cmd.longOp = none)
    (hb : confRangeBad (r.nat 0 2) (r.nat 4 4) (r.payload.length - 8) = false)
    (hr : r.nat 0 2 ≠ 0x81 ∧ r.nat 0 2 ≠ 0x82 ∨ role = some .integrator) :
    exec (.cfgWrite r) s = .next ((u.editBytes (r.nat 0 2) (r.nat 4 4) (r.payload.drop 8)).finish 0x0201 r .done) := by
  refine next_serveWith h ?_
  dsimp only
  rw [if_neg (by simp [ho]), if_neg (by simp [hl]), if_neg (by simp [hb]), if_neg]
  rintro ⟨hk, hi⟩
  rcases hr with ⟨h1, h2⟩ | hr
  · exact hk.elim h1 h2
  · exact hi hr

theorem pairRole_accepted (h : s.acts ⟨0x0800, rMI, fixedLen 4, modesOf [.stopped], true⟩ r u role a)
    (hr : u.pairRoleRefusal (r.nat 0 1) = none) (ha : u.sup.autoOpen = false) (hp : u.col.partner.isSome = true) :
    exec (.pairRole r) s = .next (u.beginLong 0x0800 r false .done).pairRoleGo := by
  refine next_serve h ?_
  have known : (u.beginLong 0x0800 r false .done).col.partner.isNone = false := by
    rw [Option.isNone_eq_false_iff]
    exact hp
  dsimp only
  rw [hr]
  dsimp only
  rw [supersede_closed ha, if_neg (by simp [known])]

theorem marginStep_accepted (h : s.acts ⟨0x0902, rI, fixedLen 0, modesOf [.stopped], true⟩ r u role a) (hp : u.pwr.op < 3)
    (ha : u.sup.autoOpen = false) : exec (.marginStep r) s = .next ((u.stepTo (u.pwr.op + 1)).beginLong 0x0902 r true
      (.okWith [BitVec.ofNat 8 (u.pwr.op + 1), 0, 0, 0])) := by
  refine next_serve h ?_
  dsimp only
  rw [if_neg (by omega), supersede_closed ha]

end Requests

/-- Settles O39, request by request. -/
theorem changingRequests : Obligations.ChangingRequests := by
  intro s r u role a
  refine ⟨fun h hl hn ha hs => regWrite_one h hl hn ha hs, fun h => next_serve h rfl, fun h => next_serve h rfl,
    fun h t ht hw hr => modeReq_accepted h ht hw hr, fun h hm => next_serve h (if_neg (by simp [hm])),
    fun h ho hl hb hr => cfgWrite_accepted h ho hl hb hr, fun flash e h he ho => next_serve h ?_, fun h => ?_,
    fun h => next_serveAnswer h rfl, fun h => ⟨fun hv => next_serveAnswer h (if_neg (by simp [hv])),
      fun hv => next_serveAnswer h (if_pos hv)⟩, fun h hr hn => next_serveAnswer h ?_,
    fun h hr ha hp => pairRole_accepted h hr ha hp, fun h hp ha => marginStep_accepted h hp ha⟩
  · simp only [he, ho]
    rfl
  · intro id word hf
    refine next_serveWith h ?_
    dsimp only
    rw [hf]
  · dsimp only
    rw [hr, if_neg hn]

end Sys2Proof.Machine
end

