-- ==== Sys2Proof/Proofs/Loading.lean ====
section
-- In order, not in parallel: each parallel thread reserves its whole stack of the check's memory.
set_option Elab.async false
/-! SUPPORT. The requests that load programs and firmware, and the dangerous ones, each past its gate (R58 to R66, R189, R248,
R373, R445 to R448, R474 to R481). -/
namespace Sys2Proof.Machine

section Requests
variable {s u : State} {r : Req} {role : Option Role} {a : Option Armed}

theorem prgBegin_accepted (flash : Bool) (h : s.acts ⟨0x0300, rMI, fixedLen 12, prgModes, r.nat 9 1 != 0⟩ r u role a)
    (hd : r.nat 8 1 = 0) (hs : r.nat 9 1 = 0) (h0 : 0 < r.nat 4 4) (h1 : r.nat 4 4 ≤ 8 * slotWords) (hb : u.slotBusy = none) :
    exec (.prgBegin r flash) s = .next ((u.supersede.beginHost (BitVec.ofNat 32 (r.nat 0 4)) (r.nat 4 4) 0).finish 0x0300 r
      .done) := by
  refine next_serve h ?_
  dsimp only
  rw [hd, hs, if_neg (by simp; omega), hb]
  simp

theorem prgBlock_accepted (flash : Bool) (h : s.acts ⟨0x0301, rMI, lenBetween 8 4060, prgModes, false⟩ r u role a)
    (ho : r.nat 0 4 % 4 = 0) (hl : r.payload.length % 4 = 0) (hb : u.slotBusy = none) (hf : u.sup.flashLoad = none) :
    let q := u.slotBlock (r.nat 0 4) (r.payload.drop 4)
    exec (.prgBlock r flash) s = .next (q.1.finish 0x0301 r q.2) := by
  refine next_serve h ?_
  dsimp only
  rw [if_neg (by rw [List.length_drop]; omega), hb, hf]

theorem prgSwitch_stopped (standby : Option Word) (h : s.acts ⟨0x0303, rMI, fixedLen 4, prgModes, true⟩ r u role a)
    (hr : u.switchRefusal (BitVec.ofNat 32 (r.nat 0 4)) = none)
    (hm : u.standbyMissing standby (BitVec.ofNat 32 (r.nat 0 4)) = false) {p : Image} (hs : u.mode = .stopped)
    (ha : u.sup.autoOpen = false) (hp : (u.slot u.otherSlot).image = some p) :
    exec (.prgSwitch r standby) s = .next ((u.switchNow p).beginLong 0x0303 r true .done) := by
  refine next_serve h ?_
  dsimp only
  rw [hr]
  dsimp only
  rw [if_neg (by simp [hm]), if_pos hs, supersede_closed ha, hp]

/-- A switch outside STOPPED waits for the first quiet boundary (R61). -/
theorem prgSwitch_waits (standby : Option Word) (h : s.acts ⟨0x0303, rMI, fixedLen 4, prgModes, true⟩ r u role a)
    (hr : u.switchRefusal (BitVec.ofNat 32 (r.nat 0 4)) = none)
    (hm : u.standbyMissing standby (BitVec.ofNat 32 (r.nat 0 4)) = false) (hs : u.mode ≠ .stopped) :
    ∃ t, exec (.prgSwitch r standby) s = .next t ∧ t.fld Reg.CE_STAT_SW_PENDING = 1 ∧ t.fld Reg.CE_SWSTAT_STATE = 2 ∧
      t.ce.switchSince = some u.time.tick ∧ t.cmd.longOp.isSome = true ∧ t.ce.active = u.ce.active := by
  let x := (u.flag Reg.CE_STAT_SW_PENDING true).setFld Reg.CE_SWSTAT_STATE 2
  refine ⟨State.beginLong { x with ce.switchSince := some u.time.tick } 0x0303 r false .done, next_serve h ?_, ?_, ?_, rfl, rfl, rfl⟩
  · dsimp only
    rw [hr]
    dsimp only
    rw [if_neg (by simp [hm]), if_neg hs]
    rfl
  · unfold State.beginLong
    rw [fld_flag_other (by decide), fld_with, fld_with, fld_setFld_other (by decide), fld_flag_same]
    rfl
  · unfold State.beginLong
    rw [fld_flag_other (by decide), fld_with, fld_with, fld_setFld_same]

theorem updBegin_recovery (h : s.acts ⟨0x0700, rI, fixedLen 2048, updModes .stopped, false⟩ r u role a)
    (hu : u.sup.update = none) (hb : beginRefusal u.supRules r.payload = none) (hm : u.mode = .recovery)
    (ha : u.sup.autoOpen = false) :
    exec (.updBegin r) s = .next (State.finish { u with sup.update := some ⟨r.session, r.transport, r.payload, []⟩ } 0x0700 r
      (.okWith (leBytes 1 u.sup.fwCounter ++ leBytes 1 (hdrSvn r.payload) ++ [0, 0]))) := by
  refine next_serve h ?_
  dsimp only
  rw [if_neg (by simp [hu]), hb]
  dsimp only
  rw [supersede_closed ha, if_neg (by simp [hm])]

theorem updBlock_erased {x : Update} (h : s.acts ⟨0x0701, rI, lenBetween 5 4036, updModes .update, false⟩ r u role a)
    (hu : u.sup.update = some x) (ho : ownsUpdate u.sup.update r = true)
    (hc : chunkBad x (r.nat 0 4) (r.payload.drop 4) = false) (hf : u.sup.fwStore = .erased) :
    let q := appendChunk x (r.payload.drop 4)
    exec (.updBlock r true) s = .next (State.finish { u with sup.update := some q.1 } 0x0701 r q.2) := by
  refine next_serve h ?_
  dsimp only
  rw [ho, hu]
  dsimp only
  rw [hc]
  simp [hf]

/-- UPD_ACTIVATE at its second step: the image is in force at the restart that follows (R447). -/
theorem updActivate_confirmed {x : Update} (h : s.acts ⟨0x0702, rI, fixedLen 4, updModes .update, true⟩ r u role a)
    (hu : u.sup.update = some x) (ho : ownsUpdate u.sup.update r = true) (hr : activateRefusal u.supRules x 0x0701 = none)
    (hc : u.confirms 0x0702 r a) :
    ∃ t, exec (.updActivate r true) s = .next t ∧ t.sup.fwStore = .image x.header x.body ∧
      t.cmd.longOp = some ⟨0x0702, r, 0, 0, 0, [], true⟩ ∧ t.sup.update = none := by
  have go : u.twoSteps 0x0702 r a (fun s => (none, s)) (fun s =>
      if true then s.activate r else s.finish 0x0702 r (.no .storeError 0x0002)) = u.activate r :=
    (twoSteps_of_confirms hc rfl _).trans (if_pos rfl)
  refine ⟨u.activate r, next_serveWith h ?_, ?_⟩
  · dsimp only
    rw [ho, hu]
    dsimp only
    rw [hr, if_neg (by simp), go]
  · unfold State.activate
    rw [hu]
    exact ⟨rfl, rfl, rfl⟩

theorem pairSwap_confirmed (h : s.acts ⟨0x0801, rMI, fixedLen 4, modesOf [.run, .standby], true⟩ r u role a)
    (hp : partnerSwap r = false) (hc : u.confirms 0x0801 r a) (hi : u.inPair = true) (hs : u.colState = colSyncActive) :
    exec (.pairSwap r) s = .next (u.beginLong 0x0801 r false .done).setSwap := by
  have state : (u.beginLong 0x0801 r false .done).colState = colSyncActive := by
    rw [← hs]
    unfold State.colState State.beginLong
    rw [fld_flag_other (by decide), fld_with]
  have go : u.twoSteps 0x0801 r a (fun s => (if s.inPair then none else some (.no .notInMode 0x0808), s)) (fun s => s.swapGo r) =
      (u.beginLong 0x0801 r false .done).setSwap := by
    rw [twoSteps_of_confirms hc (by simp [hi])]
    exact if_pos state
  have run : execPairSwap r s = .next (s.serveWith ⟨0x0801, rMI, fixedLen 4, modesOf [.run, .standby], true⟩ r (fun _ armed s =>
      s.twoSteps 0x0801 r armed (fun s => (if s.inPair then none else some (.no .notInMode 0x0808), s)) (fun s => s.swapGo r))) :=
    congrArg Host.Outcome.next (if_neg (by simp [hp]))
  exact run.trans (next_serveWith h go)

theorem laneRestore_confirmed {l : Lane} (h : s.acts ⟨0x0802, rI, fixedLen 8, modesOf [.stopped], true⟩ r u role a)
    (hc : u.confirms 0x0802 r a) (hl : laneOf (r.nat 4 1) = some l) (hr : u.restoreRefusal (r.nat 4 1) = none)
    (ha : u.sup.autoOpen = false) :
    exec (.laneRestore r) s = .next ((u.restoreLane l).beginLong 0x0802 r false .done) := by
  refine next_serveWith h ?_
  rw [twoSteps_of_confirms hc (by rw [hr]), hl, supersede_closed ha]

theorem fiSet_accepted (h : s.acts ⟨0x0A00, rMI, fixedLen 16, modesOf [.test, .run], false⟩ r u role a)
    (hm : u.mode = .test ∨ u.fi.permitEnd.isSome) (hl : r.nat 0 1 < linkCount) (h1 : 1 ≤ r.nat 2 1) (h3 : r.nat 2 1 ≤ 3)
    (ha : actionOk (r.nat 0 1) (r.nat 1 1) (r.nat 8 4) = true) (hs : r.nat 3 1 = 0) (hn : 1 ≤ r.nat 4 4)
    (hx : r.nat 4 4 ≤ 65535) (hc : u.fiClaimed r (r.nat 0 1) = false) :
    exec (.fiSet r) s = .next (((u.fiArm (r.nat 0 1) (r.nat 1 1) (r.nat 2 1) 0 (r.nat 4 4) (r.nat 8 4) 0 r.payload).finish
      0x0A00 r .done).deliverReleased) := by
  have selector : selectorOk 0 (r.nat 4 4) (r.nat 12 4) = true := by
    simp [selectorOk, hx]
    omega
  refine next_serve h ?_
  dsimp only
  rw [hs, selector, ha, if_neg, if_neg, if_neg (by simp [hc])]
  · rfl
  · simp
    omega
  · rintro ⟨hrun, hnone⟩
    rcases hm with hm | hm
    · rw [hm] at hrun
      cases hrun
    · simp [hnone] at hm

theorem fiClear_link (h : s.acts ⟨0x0A01, rMI, fixedLen 4, allModes, false⟩ r u role a) (hl : r.nat 0 1 < linkCount) :
    exec (.fiClear r) s = .next (((u.fiRemove (r.nat 0 1) 1).finish 0x0A01 r .done).deliverReleased) := by
  have links : linkCount = 48 := rfl
  refine next_serve h ?_
  dsimp only
  rw [if_neg (by omega), if_neg (by omega)]

end Requests

/-- Settles O40, request by request. -/
theorem loadingRequests : Obligations.LoadingRequests := by
  intro s r u role a
  exact ⟨fun flash h hd hs h0 h1 hb => prgBegin_accepted flash h hd hs h0 h1 hb,
    fun flash h ho hl hb hf => prgBlock_accepted flash h ho hl hb hf, fun im h => next_serve h rfl,
    fun standby h hr hm => ⟨fun p hs ha hp => prgSwitch_stopped standby h hr hm hs ha hp,
      fun hs => prgSwitch_waits standby h hr hm hs⟩,
    fun h hu hb hm ha => updBegin_recovery h hu hb hm ha, fun x h hu ho hc hf => updBlock_erased h hu ho hc hf,
    fun x h hu ho hr hc => updActivate_confirmed h hu ho hr hc, fun h hp hc hi hs => pairSwap_confirmed h hp hc hi hs,
    fun l h hc hl hr ha => laneRestore_confirmed h hc hl hr ha,
    fun h hm hl h1 h3 ha hs hn hx hc => fiSet_accepted h hm hl h1 h3 ha hs hn hx hc,
    fun h => ⟨fun hl => next_serve h (if_pos hl), fun hl => fiClear_link h hl⟩,
    fun h hc => next_serveWith h (twoSteps_of_confirms hc rfl _)⟩

end Sys2Proof.Machine
end

