-- ==== Sys2Proof/Proofs/TrigServes.lean ====
section
-- In order, not in parallel: each parallel thread reserves its whole stack of the check's memory.
set_option Elab.async false
/-! SUPPORT. The requests that Trig serves, each past its gate (R426 to R428, R452). -/
namespace Sys2Proof.Machine

section Requests
variable {s u : State} {r : Req} {a : Option Armed}

/-- A row of Trig's opcode table, once the request has come to Trig. -/
theorem next_empRow {op : Nat} {roles : Roles} {len : Nat → Option Nat} (h : s.actsAtTrig op roles len r u a)
    {row : State → Req → State} {act : Option Armed → State → State} {x : State}
    (hop : ∀ t : State, t.trig.running = true → t.trigRequest op r = row t r)
    (hrow : ∀ t : State, row t r = t.trigServe op roles len r act) (hx : act a u = x) :
    Host.Outcome.next (s.empRow op r) = (.next x : Out) := by
  obtain ⟨come, running, serves⟩ := empRow_of_acts h
  rw [come, hop _ running, hrow, serves, hx]

theorem trigRequest_running {t : State} (h : t.trig.running = true) (op : Nat) : t.trigRequest op r = match op with
    | 0x0020 => t.trigServe op .none (fixedLen 20) r (fun _ s => s.sessOpen r)
    | 0x0021 => t.trigServe op .any (fixedLen 0) r (fun _ s => s.sessClose r)
    | 0x0B00 => t.empStatus r
    | 0x0B01 => t.empRead r
    | 0x0B02 => t.empAck r
    | 0x0B03 => t.empParam r
    | 0x0B04 => t.empSwid r
    | 0x0B05 => t.empUpdBegin r
    | 0x0B06 => t.empUpdBlock r
    | 0x0B07 => t.empUpdActivate r
    | _ => t.unassigned op r := if_neg (by simp [h])

theorem empUpdBegin_open (h : s.actsAtTrig 0x0B05 rT (fixedLen 2048) r u a) (ho : u.trig.sealOpen = true)
    (hu : u.trig.update = none) (hb : beginRefusal u.trig.rules r.payload = none) :
    exec (.empUpdBegin r) s = .next ((u.onTrig (fun t => { t with update := some ⟨r.session, r.transport, r.payload, []⟩ })).finish
      0x0B05 r (.okWith (leBytes 1 u.trig.fwCounter ++ leBytes 1 (hdrSvn r.payload) ++ [0, 0]))) := by
  refine next_empRow h (row := State.empUpdBegin) (fun t ht => trigRequest_running ht _) (fun t => rfl) ?_
  unfold State.sealed
  dsimp only
  rw [if_pos ho, if_neg (by simp [hu]), hb]

theorem empUpdBlock_open {x : Update} (h : s.actsAtTrig 0x0B06 rT (lenBetween 5 4036) r u a) (ho : u.trig.sealOpen = true)
    (hu : u.trig.update = some x) (hw : ownsUpdate u.trig.update r = true)
    (hc : chunkBad x (r.nat 0 4) (r.payload.drop 4) = false) :
    let q := appendChunk x (r.payload.drop 4)
    exec (.empUpdBlock r) s = .next ((u.onTrig (fun t => { t.setBank (!t.active1) .erased with update := some q.1 })).finish
      0x0B06 r q.2) := by
  refine next_empRow h (row := State.empUpdBlock) (fun t ht => trigRequest_running ht _) (fun t => rfl) ?_
  unfold State.sealed
  dsimp only
  rw [if_pos ho, hw, hu]
  dsimp only
  rw [if_neg (by simp), if_neg (by simp [hc])]

theorem empUpdActivate_confirmed {x : Update} (h : s.actsAtTrig 0x0B07 rT (fixedLen 4) r u a) (ho : u.trig.sealOpen = true)
    (hu : u.trig.update = some x) (hw : ownsUpdate u.trig.update r = true)
    (hr : activateRefusal u.trig.rules x 0x0B06 = none) (hc : u.confirms 0x0B07 r a) :
    exec (.empUpdActivate r) s = .next ((((((u.onTrig (fun t => t.endEarly 0)).trigPeriod 0).onTrig
      (fun t => t.activate x)).finish 0x0B07 r .done).onTrig Trig.stop).trigPage) := by
  refine next_empRow h (row := State.empUpdActivate) (fun t ht => trigRequest_running ht _) (fun t => rfl) ?_
  dsimp only
  rw [if_neg (by simp [ho]), hw, hu]
  dsimp only
  rw [if_neg (by simp), twoSteps_of_confirms hc (by rw [hr])]

theorem empUpdBegin_closed (h : s.actsAtTrig 0x0B05 rT (fixedLen 2048) r u a) (ho : u.trig.sealOpen = false) :
    exec (.empUpdBegin r) s = .next (u.finish 0x0B05 r (.no .sealed 0x0001)) := by
  refine next_empRow h (row := State.empUpdBegin) (fun t ht => trigRequest_running ht _) (fun t => rfl) ?_
  unfold State.sealed
  dsimp only
  rw [if_neg (by simp [ho])]

theorem empUpdActivate_closed (h : s.actsAtTrig 0x0B07 rT (fixedLen 4) r u a) (ho : u.trig.sealOpen = false) :
    exec (.empUpdActivate r) s = .next (u.finish 0x0B07 r (.no .sealed 0x0001)) :=
  next_empRow h (row := State.empUpdActivate) (fun t ht => trigRequest_running ht _) (fun t => rfl) (if_pos (by simp [ho]))

theorem empRead_answers (h : s.actsAtTrig 0x0B01 rOT (fixedLen 8) r u a) (h0 : 0 < r.nat 4 2) (h1 : r.nat 4 2 ≤ 31) :
    exec (.empRead r) s = .next (u.finish 0x0B01 r (.okWith (u.trig.read (r.nat 0 4) (r.nat 4 2)))) := by
  refine next_empRow h (row := State.empRead) (fun t ht => trigRequest_running ht _) (fun t => rfl) ?_
  dsimp only
  rw [if_neg (by omega)]

theorem empAck_answers (h : s.actsAtTrig 0x0B02 rOT (fixedLen 4) r u a) (hn : r.nat 0 4 < u.trig.nextSeq) :
    let t := (u.onTrig (fun t => t.ack (r.nat 0 4))).trigPage
    exec (.empAck r) s = .next (t.finish 0x0B02 r (.okWith (leBytes 4 t.trig.acked))) := by
  refine next_empRow h (row := State.empAck) (fun t ht => trigRequest_running ht _) (fun t => rfl) ?_
  dsimp only
  rw [if_neg (by omega)]

end Requests

/-- Settles O41, request by request. -/
theorem trigRequests : Obligations.TrigRequests := by
  intro s r u a
  refine ⟨fun h => next_empRow h (row := State.empStatus) (fun t ht => trigRequest_running ht _) (fun t => rfl) rfl, fun h h0 h1 => empRead_answers h h0 h1,
    fun h hn => empAck_answers h hn, fun h => next_empRow h (row := State.empParam) (fun t ht => trigRequest_running ht _) (fun t => rfl) rfl,
    fun h => next_empRow h (row := State.empSwid) (fun t ht => trigRequest_running ht _) (fun t => rfl) rfl,
    fun h ho hu hb => empUpdBegin_open h ho hu hb, fun x h ho hu hw hc => empUpdBlock_open h ho hu hw hc,
    fun x h ho hu hw hr hc => empUpdActivate_confirmed h ho hu hw hr hc, fun i hi ho => ?_⟩
  rcases hi with ⟨rfl, h⟩ | ⟨rfl, h⟩
  · exact ⟨_, _, empUpdBegin_closed h ho, rfl⟩
  · exact ⟨_, _, empUpdActivate_closed h ho, rfl⟩

end Sys2Proof.Machine
end

