-- ==== Sys2Proof/Proofs/Packets.lean ====
section
-- In order, not in parallel: each parallel thread reserves its whole stack of the check's memory.
set_option Elab.async false
/-! SUPPORT. Packets refused or forwarded, what times out, and the end of a long operation (R237, R238, R241, R244, R248). -/
namespace Sys2Proof.Machine

section Rejects
variable {s : State} {t n : Nat} {f : Bool} {b : List Byte}

/-- Step 1 of R238: bytes without a header or the magic. -/
theorem framing_discard (h : b.length < 16 ∨ fieldAt b 0 2 ≠ 0xDA5E) : framing t n f b = .discard :=
  if_pos (h.imp_right .inl)

/-- Step 4 of R238: the packet has its lengths and a wrong check code. -/
theorem framing_badCrc (h16 : 16 ≤ b.length) (hm : fieldAt b 0 2 = 0xDA5E) (hr : bitAt (fieldAt b 3 1) 0 = 0)
    (hl : fieldAt b 10 2 ≤ 4064) (hb : b.length = fieldAt b 10 2 + 16 + 16 * b2n (reqOf t n f b).auth)
    (hc : (crc32c (b.take (12 + fieldAt b 10 2))).toNat ≠ fieldAt b (12 + fieldAt b 10 2) 4) :
    framing t n f b = .refused (fieldAt b 4 2) (reqOf t n f b) (.no .badCrc 0) := by
  unfold framing
  dsimp only
  rw [if_neg, if_neg, if_pos hc]
  · exact not_or.mpr ⟨Nat.not_lt.mpr hl, not_not.mpr hb⟩
  · exact not_or.mpr ⟨Nat.not_lt.mpr h16, not_or.mpr ⟨not_not.mpr hm, by rw [hr]; decide⟩⟩

theorem packetReject_discard (hd : s.deaf t f = false) (hq : (s.arrival t n f b).2 = .here) (hf : framing t n f b = .discard) :
    exec (.packetReject t n f b) s = .next ((s.arrival t n f b).1.bump Reg.CMD_FRAMEERR_CNT) := by
  refine congrArg Host.Outcome.next ((if_neg (by simp [hd])).trans ?_)
  dsimp only
  rw [hq, hf]

theorem packetReject_refused (hd : s.deaf t f = false) (hq : (s.arrival t n f b).2 = .here) {op : Nat} {r : Req} {a : Answer}
    (hf : framing t n f b = .refused op r a) :
    exec (.packetReject t n f b) s = .next ((s.arrival t n f b).1.refuse op r a) := by
  refine congrArg Host.Outcome.next ((if_neg (by simp [hd])).trans ?_)
  dsimp only
  rw [hq, hf]

theorem packetReject_full (hd : s.deaf t f = false) (hq : (s.arrival t n f b).2 = .full) {op : Nat} {r : Req}
    (hf : framing t n f b = .passed op r) :
    exec (.packetReject t n f b) s = .next ((s.arrival t n f b).1.refuse op r (.no .busy 0xFFFC)) := by
  refine congrArg Host.Outcome.next ((if_neg (by simp [hd])).trans ?_)
  dsimp only
  rw [hq, hf]

end Rejects

/-- A packet for another target leaves at step 6 of R238, or a reserved target is refused (R237). -/
theorem packetForward_away {s : State} {op : Nat} {r : Req} (h : s.receives op r) (hf : r.forwarded = false) (ht : r.target ≠ 0)
    (h1 : (s.received op r).mode ≠ .selftest) (h2 : (s.received op r).mode ≠ .recovery) :
    exec (.packetForward op r) s = .next (if targetKnown r.target then (s.received op r).forwardPacket op r
      else (s.received op r).refuse op r (.no .badOpcode 0xFF03)) := by
  refine congrArg Host.Outcome.next ((if_neg (not_or.mpr ⟨by simp [hf], ht⟩)).trans ((withPacket_of_receives h _).trans ?_))
  unfold State.sendAway
  cases targetKnown r.target with
  | false => rfl
  | true =>
    rw [if_neg (by simp), if_neg (by simp [h1, h2])]
    rfl

/-! ### What times out -/

theorem fld_cmdStat_armed (s : State) :
    s.cmdStat.fld Reg.CMD_STAT_ARMED = b2w (s.cmd.desk.sessions.any (fun x => x.armed.isSome)) := fld_flag_same ..

theorem fld_cmdStat_sessions (s : State) :
    s.cmdStat.fld Reg.CMD_STAT_SESSIONS = BitVec.ofNat 32 s.cmd.desk.sessions.length :=
  (fld_flag_other (by decide)).trans (fld_setFld_same ..)

theorem bit_clrBit_same (s : State) (k : Nat) {i : Nat} (h : i < 32) : (s.clrBit k i).bit k i = false := by
  unfold State.bit State.clrBit
  rw [fld_setFld_same, BitVec.getLsbD_and, BitVec.getLsbD_not, BitVec.getLsbD_ofNat, Nat.testBit_two_pow_self]
  simp [h]

theorem modSession_single {d : Desk} {x : Session} (h : d.sessions = [x]) (f : Session → Session) :
    (d.modSession x.num f).sessions = [f x] := by
  unfold Desk.modSession
  simp [h]

theorem dangerousArmTimeout_disarms {s : State} {x : Session} {p : Armed} (hs : s.cmd.desk.sessions = [x]) (hp : x.armed = some p)
    (ht : p.at_ + 10000000000 < s.opNs) :
    exec (.dangerousArmTimeout false x.num) s = .next ({ s with
      cmd.desk := s.cmd.desk.modSession x.num (fun y => { y with armed := none }) } : State).cmdStat := by
  have late : s.cmd.desk.sessions.any
      (fun y => y.num == x.num && y.armed.any (fun a => decide (a.at_ + 10000000000 < s.opNs))) = true := by
    rw [hs, List.any_cons, hp, Option.any_some, decide_eq_true ht, beq_self_eq_true]
    rfl
  exact congrArg Host.Outcome.next (if_pos late)

/-- What the end of a session leaves, by the number of the session. -/
def Desk.without (d : Desk) (num : Nat) : Desk := { d with sessions := d.sessions.filter (fun x => x.num != num) }

theorem without_single {d : Desk} {x : Session} (h : d.sessions = [x]) : (d.without x.num).sessions = [] := by
  unfold Desk.without
  simp [h]

/-- A session that owns neither an edit nor an update ends alone. -/
theorem endSession_alone {s : State} (he : s.cmd.edit = none) (hu : s.sup.update = none) (num : Nat) :
    s.endSession false num = ({ s with cmd.desk := s.cmd.desk.without num } : State).cmdStat := by
  have owned (f : Update → Bool) (x : State) (h : x.sup.update = none) :
      (if x.sup.update.any f then x.leaveUpdate else x) = x := by rw [h]; rfl
  have edits (f : Edit → Bool) (x y : State) (h : x.cmd.edit = none) :
      (if x.cmd.edit.any f then y else x) = x := by rw [h]; rfl
  unfold State.endSession
  rw [if_neg (by simp)]
  have ended := edits (fun e => e.owner.toNat == num) ({ s with cmd.desk := s.cmd.desk.without num } : State).cmdStat
  exact (owned _ _ ((congrArg (fun x : State => x.sup.update) (ended _ he)).trans hu)).trans (ended _ he)

theorem sessionIdleTimeout_ends {s : State} {x : Session} (hs : s.cmd.desk.sessions = [x])
    (hi : x.lastUsed + s.sessionIdle false * 1000000000 ≤ s.opNs) :
    exec (.sessionIdleTimeout false x.num) s = .next (s.endSession false x.num) := by
  have idle : s.cmd.desk.sessions.any
      (fun y => y.num == x.num && decide (y.lastUsed + s.sessionIdle false * 1000000000 ≤ s.opNs)) = true := by
    simp [hs, hi]
  exact congrArg Host.Outcome.next (if_pos idle)

theorem authLockExpiry_locked {s : State} {n : Fin 8} {k : Nat} (hk : (s.cmd.desk.transport n.val).lockedAt = some k) :
    exec (.authLockExpiry false n) s = .next (if s.opNs < k + 60000000000 then s else
      ({ s with cmd.desk := s.cmd.desk.setTransport n.val { s.cmd.desk.transport n.val with lockedAt := none } } : State).clrBit
        Reg.CMD_STAT_LOCKED n.val) := by
  refine congrArg Host.Outcome.next ?_
  unfold State.deskOf State.putDesk
  dsimp only [Bool.false_eq_true, if_false]
  rw [if_neg (by simp), hk]
  rfl

/-! ### The end of a long operation -/

theorem longOperationComplete_background {s : State} {l : LongOp} (hl : s.cmd.longOp = some l) (hb : l.background = true) :
    let t := (State.flag { s with cmd.longOp := none } Reg.CMD_STAT_LONG_OP false).finish l.opcode l.req
      ⟨statusOf l.status, l.detail, l.ext, l.payload⟩
    exec .longOperationComplete s = .next (if l.opcode = 0x0203 ∧ l.status = 0 then t.commitEdit
      else if l.opcode = 0x0702 ∧ l.status = 0 then { t with sup.restartDue := true } else t) := by
  refine congrArg Host.Outcome.next ?_
  rw [hl]
  dsimp only
  rw [if_neg (by simp [hb])]

/-- Settles O42, clause by clause. -/
theorem packetsAndTimeouts : Obligations.PacketsAndTimeouts := by
  refine ⟨fun s t n f b hd hq => ⟨fun h => packetReject_discard hd hq (framing_discard h), fun h16 hm hr hl hb hc =>
    packetReject_refused hd hq (framing_badCrc h16 hm hr hl hb hc)⟩, fun s t n b op r hd hq hf => packetReject_full hd hq hf,
    fun s op r h hf ht h1 h2 => packetForward_away h hf ht h1 h2, fun s x p hs hp ht => ?_, fun s x hs hi he hu => ?_,
    fun s n k hk => ?_, fun s l hl hb => ?_⟩
  · refine ⟨_, dangerousArmTimeout_disarms hs hp ht, modSession_single hs _, ?_, rfl, rfl⟩
    rw [fld_cmdStat_armed]
    dsimp only
    rw [modSession_single hs]
    rfl
  · refine ⟨_, sessionIdleTimeout_ends hs hi, ?_⟩
    rw [endSession_alone he hu]
    refine ⟨without_single hs, ?_, rfl, rfl⟩
    rw [fld_cmdStat_sessions]
    dsimp only
    rw [without_single hs]
    rfl
  · refine ⟨fun h => (authLockExpiry_locked hk).trans (congrArg Host.Outcome.next (if_pos h)), fun h =>
      ⟨_, (authLockExpiry_locked hk).trans (congrArg Host.Outcome.next (if_neg (by omega))), ?_, bit_clrBit_same _ _ (by omega)⟩⟩
    exact congrArg Transport.lockedAt (transport_setTransport _ n.isLt _)
  · refine ⟨fun h => ?_, fun h h0 => ?_, fun h h0 => ?_⟩ <;>
      refine (longOperationComplete_background hl hb).trans (congrArg Host.Outcome.next ?_)
    · rw [if_neg (by omega), if_neg (by omega)]
    · rw [if_pos ⟨h, h0⟩]
    · rw [if_neg (by omega), if_pos ⟨h, h0⟩]

end Sys2Proof.Machine
end

