-- ==== Sys2Proof/Proofs/CanRecovery.lean ====
section
-- In order, not in parallel: each parallel thread reserves its whole stack of the check's memory.
set_option Elab.async false
/-! SUPPORT. CAN_RECOVER in a state that no run reaches: a staged value lies under the key of a channel's error counter, which
is no staged field, and the write's settling applies it after the counters went to 0 (R263, R319). -/
namespace Sys2Proof.Machine

/-- CAN channel 1 bus-off and disabled, with a value staged for its transmit error counter. -/
def strayCounter : State := State.setFld { State.reset with staged := [(Reg.CAN_ECR_TEC 1, 5)] } Reg.CAN_STAT_BUSOFF 1

theorem strayCounter_recovered (v : State) (h : execCanRecover .supervisor 1 strayCounter = .next v) :
    v.fld (Reg.CAN_ECR_TEC 1) = 5 := by
  have run : execCanRecover .supervisor 1 strayCounter = .next (strayCounter.regWrite .supervisor 0x0C 0x50 1) := rfl
  have same : strayCounter.regWrite .supervisor 0x0C 0x50 1 = v := Host.Outcome.next.inj (run.symm.trans h)
  have counter : (strayCounter.regWrite .supervisor 0x0C 0x50 1).fld (Reg.CAN_ECR_TEC 1) = 5 := by decide +kernel
  rw [← same, counter]

/-- Refutes O43: in `strayCounter` a recovered channel's transmit error counter takes the staged value. -/
theorem not_registerAccessAndCommands : ¬ Obligations.RegisterAccessAndCommands := by
  rintro ⟨-, -, h, -⟩
  obtain ⟨-, -, -, -, -, recover⟩ := h strayCounter .supervisor 1 rfl
  obtain ⟨t, ht, -, cleared, -⟩ := recover 1 (by decide) (by decide) (by decide +kernel)
  exact absurd ((strayCounter_recovered t ht).symm.trans cleared) (by decide)

end Sys2Proof.Machine
end

