-- ==== Sys2Proof/Proofs/RegWrites.lean ====
section
-- In order, not in parallel: each parallel thread reserves its whole stack of the check's memory.
set_option Elab.async false
/-! SUPPORT. A register write by a source, and the value of a dangerous register that waits for its complement (R260 to R267). -/
namespace Sys2Proof.Machine

section Writes
variable {s : State} {src : WSrc} {page off : Nat} {v w : Word}

theorem srcWrite_allowed (h : mayWrite src page = true) : s.srcWrite src page off v = s.regWrite src page off v := if_pos h

theorem srcWrite_denied (h : mayWrite src page = false) : s.srcWrite src page off v = s := if_neg (by simp [h])

/-- Every source may write a page that is neither sealed nor unassigned (R250, R345). -/
theorem mayWrite_open (hp : (pageRows page).isSome = true) (hs : sealedPage page = false) : mayWrite src page = true := by
  unfold mayWrite
  cases src <;> simp [hp, hs]

/-- A source with no dangerous write pending has nothing judged (R267). -/
theorem judgeWd_idle (h : s.wd = []) (a : Bool) : s.judgeWd src page off a v = (s, false) := by
  unfold State.judgeWd
  rw [h]
  rfl

/-- A write to the primary area by a source with no dangerous write pending. -/
theorem regWrite_primary (h : s.wd = []) (ho : off < 0x400) :
    s.regWrite src page off v = s.writePrimary src page off v 0xFFFFFFFF := by
  unfold State.regWrite
  rw [judgeWd_idle h]
  dsimp only
  rw [if_neg (by simp), if_neg (by omega), if_neg (by omega)]

/-- The complement at the complement address uses the pending write up (R266). -/
theorem regWrite_complement {x : Word} (h : s.wd = [⟨src, page, off, x⟩]) (hv : v = ~~~ x) :
    s.regWrite src page (off + 0x400) v = ({ s with wd := [] } : State).applyWd page off x := by
  unfold State.regWrite State.judgeWd
  simp [h, hv]

/-- Anything else at the complement address ends the pending write unapplied (R267). -/
theorem regWrite_wrongComplement {x : Word} (h : s.wd = [⟨src, page, off, x⟩]) (ho : off < 0x400) (hv : v ≠ ~~~ x) :
    s.regWrite src page (off + 0x400) v = ({ s with wd := [] } : State).wdAbort (regAddr page off) src := by
  unfold State.regWrite State.judgeWd
  simp [h, hv, ho]

/-- A page without COMPAT has no write refused for it (R265). -/
theorem badCompat_plain (h : compatPage page = false) (m : Word) : s.badCompat page off v m = false := by
  unfold State.badCompat
  simp [h]

/-- A register of no instance claims no ring (R274). -/
theorem ringClaim_plain (h : instOf page off = none) (m : Word) : s.ringClaim page off v m = none := by
  unfold State.ringClaim
  rw [h]

/-- A dangerous field takes no value by a write of its register (R266). -/
theorem writeField_dangerous {f : Field} (h : f.acc = .wd) (on : Option Bool) (m : Word) : s.writeField page off on v m f = s := by
  unfold State.writeField
  simp [h]

/-- A register of one dangerous field outside any instance holds the value back (R266). -/
theorem writePrimary_dangerous {f : Field} (hf : fieldsAt page off = [f]) (hd : f.acc = .wd) (hi : instOf page off = none)
    (hc : compatPage page = false) (h4 : page ≠ 4) :
    s.writePrimary src page off v 0xFFFFFFFF = { s with wd := s.wd ++ [⟨src, page, off, v⟩] } := by
  have rest : [f].filter (fun g => decide (g.acc = .rws)) = [] ∧ [f].filter (fun g => decide (g.acc ≠ .rws)) = [f] ∧
      hasAcc [f] .wo = false ∧ hasAcc [f] .wd = true := by simp [hasAcc, hd]
  obtain ⟨rws, others, wo, wd⟩ := rest
  unfold State.writePrimary
  dsimp only
  rw [badCompat_plain hc, ringClaim_plain hi, hf, hi, rws, others, wo, wd, List.foldl_nil, List.foldl_cons, List.foldl_nil,
    writeField_dangerous hd]
  simp only [Bool.false_eq_true, Option.isSome_none, and_self, if_true, if_false, h4]

end Writes

/-! ### Dangerous registers (R266, R267) -/

section Dangerous
variable {s : State} {src : WSrc} {v w : Word}

theorem sysSafereq_held (h : s.wd = []) : exec (.sysSafereq src false v) s = .next { s with wd := [⟨src, 0, 0x40, v⟩] } := by
  refine congrArg Host.Outcome.next ((srcWrite_allowed (mayWrite_open rfl rfl)).trans ((regWrite_primary h (by decide)).trans ?_))
  rw [writePrimary_dangerous (f := ⟨0, 32, .wd, 0⟩) rfl rfl rfl rfl (by decide), h]
  rfl

theorem sysSafereq_complement {x : Word} (h : s.wd = [⟨src, 0, 0x40, x⟩]) (hw : w = ~~~ x) :
    exec (.sysSafereq src true w) s = .next (({ s with wd := [] } : State).applyWd 0 0x40 x) :=
  congrArg Host.Outcome.next ((srcWrite_allowed (mayWrite_open rfl rfl)).trans (regWrite_complement h hw))

theorem sysSafereq_wrong {x : Word} (h : s.wd = [⟨src, 0, 0x40, x⟩]) (hw : w ≠ ~~~ x) :
    exec (.sysSafereq src true w) s = .next (({ s with wd := [] } : State).wdAbort (regAddr 0 0x40) src) :=
  congrArg Host.Outcome.next ((srcWrite_allowed (mayWrite_open rfl rfl)).trans (regWrite_wrongComplement h (by decide) hw))

theorem sfStopreq_held (hm : mayWrite src 0x15 = true) (h : s.wd = []) :
    exec (.sfStopreq src false v) s = .next { s with wd := [⟨src, 0x15, 0x40, v⟩] } := by
  refine congrArg Host.Outcome.next ((srcWrite_allowed hm).trans ((regWrite_primary h (by decide)).trans ?_))
  rw [writePrimary_dangerous (f := ⟨0, 4, .wd, 0⟩) rfl rfl rfl rfl (by decide), h]
  rfl

theorem sfStopreq_complement (hm : mayWrite src 0x15 = true) (h : s.wd = [⟨src, 0x15, 0x40, v⟩]) (hw : w = ~~~ v) :
    exec (.sfStopreq src true w) s = .next (({ s with wd := [] } : State).applyWd 0x15 0x40 v) :=
  congrArg Host.Outcome.next ((srcWrite_allowed hm).trans (regWrite_complement h hw))

theorem applyWd_safereq (s : State) : ∃ x : Word, s.applyWd 0 0x40 0x00005AFE = (s.setFld Reg.SYS_SAFEREQ_KEY x).enterSafe 0x0A :=
  ⟨bitsOf ⟨0, 32, .wd, 0⟩ 0x00005AFE 0xFFFFFFFF, by unfold State.applyWd; rw [if_pos ⟨rfl, rfl, rfl⟩]; rfl⟩

/-- What a request of SAFE that applies leaves. -/
theorem safereq_fields (h1 : s.mode ≠ .safe) (h2 : s.mode ≠ .recovery) (x : Word) :
    let t := (({ s with wd := [] } : State).setFld Reg.SYS_SAFEREQ_KEY x).enterSafe 0x0A
    t.mode = .safe ∧ t.fld Reg.SYS_SAFE_CAUSE = 0x0A := by
  have same : (({ s with wd := [] } : State).setFld Reg.SYS_SAFEREQ_KEY x).mode = s.mode := setFld_mode ..
  exact ⟨enterSafe_mode (same ▸ h1) (same ▸ h2) _, enterSafe_cause (same ▸ h1) (same ▸ h2) _⟩

theorem applyWd_stopreq (s : State) (v : Word) : s.applyWd 0x15 0x40 v = s.setFld Reg.SF_STOPREQ_REQ (v &&& 0xF) := by
  have value : bitsOf ⟨0, 4, .wd, 0⟩ v 0xFFFFFFFF = v &&& 0xF := by
    unfold bitsOf bitMerge
    simp
  unfold State.applyWd
  rw [if_neg (by simp)]
  exact congrArg (s.setFld Reg.SF_STOPREQ_REQ) value

/-- What a demand that applies leaves. -/
theorem stopreq_fields (s : State) (x : Word) : let t := ({ s with wd := [] } : State).setFld Reg.SF_STOPREQ_REQ x
    t.wd = [] ∧ t.fld Reg.SF_STOPREQ_REQ = x ∧ t.mode = s.mode ∧ t.mem = s.mem := ⟨rfl, fld_setFld_same .., rfl, rfl⟩

theorem wdAbort_fields (s : State) (addr : Nat) (src : WSrc) : (s.wdAbort addr src).mode = s.mode ∧ (s.wdAbort addr src).wd = s.wd ∧
    (s.wdAbort addr src).mem = s.mem ∧ (s.wdAbort addr src).fld Reg.SYS_EVT_WD_ABORT = 1 ∧
    (s.wdAbort addr src).fld Reg.SYS_WDABORT_CNT = satAdd (s.fld Reg.SYS_WDABORT_CNT) 1 := by
  unfold State.wdAbort
  refine ⟨report_mode .., report_wd .., report_mem .., ?_, ?_⟩
  · rw [fld_report _ _ _ _ _ _ _ (by decide) (by decide), fld_bump_other (by decide), fld_flag_same]
    rfl
  · rw [fld_report _ _ _ _ _ _ _ (by decide) (by decide), fld_bump_same, fld_flag_other (by decide)]

end Dangerous

/-- Settles O44, clause by clause. -/
theorem dangerousRegisters : Obligations.DangerousRegisters := by
  refine fun s src v w => ⟨sysSafereq_held, fun h h1 h2 hw => ?_, fun h hw => ?_, fun hm => ⟨sfStopreq_held hm, fun h hw => ?_⟩,
    fun hm => congrArg Host.Outcome.next (srcWrite_denied hm)⟩
  · obtain ⟨x, hx⟩ := applyWd_safereq { s with wd := [] }
    exact ⟨_, (sysSafereq_complement h hw).trans (congrArg Host.Outcome.next hx), safereq_fields h1 h2 x⟩
  · obtain ⟨hmode, hwd, hmem, event, count⟩ := wdAbort_fields { s with wd := [] } (regAddr 0 0x40) src
    exact ⟨_, sysSafereq_wrong h hw, hmode, hwd, event, count, hmem⟩
  · refine ⟨_, sfStopreq_complement hm h hw, ?_⟩
    rw [applyWd_stopreq]
    exact stopreq_fields s _

end Sys2Proof.Machine
end

-- ==== Sys2Proof/Proofs/Canonical.lean ====

section
-- In order, not in parallel: each parallel thread reserves its whole stack of the check's memory.
set_option Elab.async false

/-! SUPPORT. The canonical form of the memory under the operations of the model: what writes the memory keeps the form, and
the rest leaves the memory alone. -/

namespace Sys2Proof.Machine

/-! ### What the canonical form depends on -/

/-- What waits, what Traverse does and the test rows are no part of the canonical form. -/
@[simp] theorem wf_with (m : Mem) (era : Nat) (test : Sparse Code) (wb : List WriteBack) (r w b : Nat) :
    Mem.wf ⟨m.ps, era, m.rs, m.prg, m.img, m.live, m.com, test, wb, r, w, b⟩ = m.wf := rfl

theorem sorted_filter {α : Type} (p : Nat × α → Bool) {m : Sparse α} (h : sorted m = true) : sorted (m.filter p) = true := by
  induction m with
  | nil => rfl
  | cons e m ih =>
    have rest := ih (sorted_tail h)
    rw [List.filter_cons]
    split
    · exact sorted_cons rest fun q hq => sorted_head_lt h (List.mem_filter.mp hq).1
    · exact rest

theorem canonical_filter {α : Type} [DecidableEq α] {d : Nat → α} (p : Nat × α → Bool) {m : Sparse α} (h : canonical d m = true) :
    canonical d (m.filter p) = true := by
  simp only [canonical, Bool.and_eq_true, List.all_eq_true] at *
  exact ⟨sorted_filter p h.1, fun e he => h.2 e (List.mem_filter.mp he).1⟩

theorem canonical_nil {α : Type} [DecidableEq α] (d : Nat → α) : canonical d [] = true := rfl

/-- Whatever a command answers with, its memory is in canonical form. -/
def keepsWf (o : Out) : Prop := ∀ t, o = .next t → t.mem.wf = true

theorem keepsWf_next {t : State} (h : t.mem.wf = true) : keepsWf (.next t) := fun _ e => Host.Outcome.next.inj e ▸ h

/-! ### Operations that leave the memory alone -/

@[simp] theorem mem_setLane (s : State) (l : Lane) (v : Nat) : (s.setLane l v).mem = s.mem := rfl

@[simp] theorem mem_dirtyWord (s : State) (a : Arr) (w : Nat) : (s.dirtyWord a w).mem = s.mem := dirtyWord_mem s a w

/-! ### The operations that write the memory -/

section Writes
variable {s : State} (h : s.mem.wf = true)
include h

@[simp] theorem cancelWb_wf (a : Arr) (w : Nat) : (s.cancelWb a w).mem.wf = true := by
  unfold State.cancelWb
  dsimp only
  split
  · exact h
  · exact h

@[simp] theorem putCode_wf (a : Arr) (w : Nat) (c : Code) : (s.putCode a w c).mem.wf = true := by
  unfold State.putCode
  dsimp only
  refine wf_put ?_ a w c
  rw [dirtyWord_mem]
  exact cancelWb_wf h a w

@[simp] theorem readWord_wf (a : Arr) (w : Nat) (m : Master) : (s.readWord a w m).1.mem.wf = true := by
  unfold State.readWord
  dsimp only
  split <;> simp [h]

@[simp] theorem readMany_wf (a : Arr) (m : Master) (ws : List Nat) : (s.readMany a m ws).1.mem.wf = true := by
  induction ws generalizing s with
  | nil => exact h
  | cons w ws ih => exact ih (readWord_wf h a w m)

@[simp] theorem cancelAll_wf (p : Arr → Bool) : (s.cancelAll p).mem.wf = true := h

@[simp] theorem clearImages_wf : s.clearImages.mem.wf = true := by
  rw [wf_iff] at *
  intro a
  have ha := h a
  cases a with
  | img | live | com => exact canonical_nil _
  | ps | rs | prg => exact ha

@[simp] theorem clearForRun_wf : s.clearForRun.mem.wf = true := by
  rw [wf_iff] at *
  intro a
  have ha := h a
  cases a with
  | img | com => exact canonical_nil _
  | ps | rs | prg | live => exact ha

@[simp] theorem zeroSlot_wf (n : Nat) : (s.zeroSlot n).mem.wf = true := by
  rw [wf_iff] at *
  intro a
  have ha := h a
  cases a with
  | prg => exact canonical_filter _ ha
  | ps | rs | img | live | com => exact ha

@[simp] theorem scrubWord_wf (a : Arr) (w : Nat) : (s.scrubWord a w).mem.wf = true := by
  unfold State.scrubWord
  dsimp only
  split <;> simp [h]

@[simp] theorem lapBegin_wf : s.lapBegin.mem.wf = true := by
  unfold State.lapBegin
  dsimp only
  split <;> simp [h]

@[simp] theorem testStores_wf (fault : Option Nat) : (s.testStores fault).1.mem.wf = true := h

end Writes


theorem foldl_wf {α : Type} {f : State → α → State} (hf : ∀ s x, s.mem.wf = true → (f s x).mem.wf = true) (l : List α) (s : State)
    (h : s.mem.wf = true) : (l.foldl f s).mem.wf = true := by
  induction l generalizing s with
  | nil => exact h
  | cons x l ih => exact ih _ (hf s x h)

theorem foldl_fst_wf {α β : Type} {f : State × β → α → State × β} (hf : ∀ s x, s.1.mem.wf = true → (f s x).1.mem.wf = true)
    (l : List α) (s : State × β) (h : s.1.mem.wf = true) : (l.foldl f s).1.mem.wf = true := by
  induction l generalizing s with
  | nil => exact h
  | cons x l ih => exact ih _ (hf s x h)

theorem foldl_fst_mem {α β : Type} {f : State × β → α → State × β} (h : ∀ s x, (f s x).1.mem = s.1.mem) (l : List α)
    (s : State × β) : (l.foldl f s).1.mem = s.1.mem := by
  induction l generalizing s with
  | nil => rfl
  | cons x l ih => exact (ih _).trans (h s x)

/-- The state with which a gate goes on or stops. -/
def Gate.state : Gate → State
  | .stop s => s
  | .pass s _ _ => s

/-- The state in which an operation leaves the machine. -/
def CcRes.state : CcRes → State
  | .done _ _ s => s
  | .trap _ _ s => s
  | .gone s => s

@[simp] theorem setBit_mem (s : State) (k i : Nat) : (s.setBit k i).mem = s.mem := rfl

@[simp] theorem clrBit_mem (s : State) (k i : Nat) : (s.clrBit k i).mem = s.mem := rfl

@[simp] theorem putBit_mem (s : State) (k i : Nat) (b : Bool) : (s.putBit k i b).mem = s.mem := by
  unfold State.putBit
  split <;> simp

@[simp] theorem setDirty_mem (s : State) (ps : List Nat) : (s.setDirty ps).mem = s.mem := rfl

@[simp] theorem dirtyPage_mem (s : State) (key : Nat) : (s.dirtyPage key).mem = s.mem := by
  unfold State.dirtyPage
  split <;> simp

@[simp] theorem fullWrite_wf (s : State) (a : Arr) (w : Nat) (data : DWord) (h : s.mem.wf = true) :
    (s.fullWrite a w data).mem.wf = true := by
  simp [h, State.fullWrite]

@[simp] theorem poison_wf (s : State) (a : Arr) (w : Nat) (h : s.mem.wf = true) : (s.poison a w).mem.wf = true := by
  unfold State.poison
  split <;> simp [h]

@[simp] theorem partialWrite_wf (s : State) (a : Arr) (w : Nat) (data mask : DWord) (m : Master) (h : s.mem.wf = true) :
    (s.partialWrite a w data mask m).1.mem.wf = true := by
  unfold State.partialWrite
  dsimp only
  (repeat' split) <;> simp [h]

@[simp] theorem writeWord_wf (s : State) (a : Arr) (w : Nat) (data mask : DWord) (m : Master) (h : s.mem.wf = true) :
    (s.writeWord a w data mask m).1.mem.wf = true := by
  unfold State.writeWord
  split <;> simp [h]

@[simp] theorem draw_mem (s : State) (f : Nat → Nat) (n : Nat) : (s.draw f n).2.mem = s.mem := rfl

@[simp] theorem emit_mem (s : State) (e : Emit) : (s.emit e).mem = s.mem := rfl

@[simp] theorem receive_mem (s : State) (l : Nat) (f : LinkFrame) (act : State → LinkFrame → State) (h : ∀ x y1, (act x
    y1).mem = x.mem) : (s.receive l f act).mem = s.mem := by
  simp [h, State.receive, foldl_mem]

@[simp] theorem fiRelease_mem (s : State) (l : Nat) (hs : List Held) : (s.fiRelease l hs).mem = s.mem := rfl

@[simp] theorem fiAny_mem (s : State) : s.fiAny.mem = s.mem := rfl

@[simp] theorem fiArmBit_mem (s : State) (l : Nat) (b : Bool) : (s.fiArmBit l b).mem = s.mem := by
  unfold State.fiArmBit
  split <;> simp

@[simp] theorem fiConfig_mem (s : State) (l kind dir select npar apar : Nat) :
    (s.fiConfig l kind dir select npar apar).mem = s.mem := by
  simp [State.fiConfig]

@[simp] theorem fiRemove_mem (s : State) (l cause : Nat) : (s.fiRemove l cause).mem = s.mem := by
  unfold State.fiRemove
  split <;> simp

@[simp] theorem fiRemoveAll_mem (s : State) (cause : Nat) : (s.fiRemoveAll cause).mem = s.mem := by
  simp [State.fiRemoveAll, foldl_mem]

@[simp] theorem fiLinkDown_mem (s : State) (l : Nat) : (s.fiLinkDown l).mem = s.mem := by
  simp [State.fiLinkDown, apply_ite State.mem]

@[simp] theorem fiPermitEnd_mem (s : State) : s.fiPermitEnd.mem = s.mem := by
  unfold State.fiPermitEnd
  split <;> simp

@[simp] theorem ringHalt_mem (s : State) (n : Nat) (c : HaltCause) (addr : Nat) : (s.ringHalt n c addr).mem = s.mem := by
  simp [State.ringHalt]

@[simp] theorem readDesc_wf (s : State) (n : Nat) (h : s.mem.wf = true) : (s.readDesc n).1.mem.wf = true := by
  unfold State.readDesc
  dsimp only
  (repeat' split) <;> simp [h]

@[simp] theorem writeDesc_wf (s : State) (n : Nat) (d : Desc) (st : DescStatus) (time : Nat) (h : s.mem.wf = true) :
    (s.writeDesc n d st time).mem.wf = true := by
  unfold State.writeDesc
  exact fullWrite_wf _ _ _ _ (fullWrite_wf _ _ _ _ (fullWrite_wf _ _ _ _ (fullWrite_wf _ _ _ _ h)))

@[simp] theorem complete_wf (s : State) (n : Nat) (d : Desc) (st : DescStatus) (time : Nat) (h : s.mem.wf = true) :
    (s.complete n d st time).mem.wf = true := by
  unfold State.complete
  dsimp only
  (repeat' split) <;> simp [h]

@[simp] theorem setHold_mem (s : State) (n : Nat) (q : List Arrival) : (s.setHold n q).mem = s.mem := rfl

@[simp] theorem ringDrop_mem (s : State) (n k : Nat) : (s.ringDrop n k).mem = s.mem := by
  unfold State.ringDrop
  split <;> simp

@[simp] theorem holdFrame_mem (s : State) (n : Nat) (f : Arrival) : (s.holdFrame n f).mem = s.mem := by
  simp [State.holdFrame, apply_ite State.mem]

@[simp] theorem writeFrame_wf (s : State) (d : Desc) (data : List Byte) (k : Nat) (h : s.mem.wf = true) :
    (s.writeFrame d data k).1.mem.wf = true := by
  induction k with
  | zero => exact h
  | succ k ih => unfold State.writeFrame; dsimp only; (repeat' split) <;> simp [ih]

@[simp] theorem holdRest_mem (s : State) (n : Nat) (f : Arrival) : (s.holdRest n f).mem = s.mem := by
  simp [State.holdRest, apply_ite State.mem]

@[simp] theorem placeFrame_wf (s : State) (n : Nat) (x : Arrival) (h : s.mem.wf = true) :
    (s.placeFrame n x).mem.wf = true := by
  unfold State.placeFrame
  dsimp only
  split
  · simp [h]
  · next d _ =>
    have hq := writeFrame_wf _ d (x.frame.data.take d.bufLen) (((x.frame.data.take d.bufLen).length + 7) / 8) (readDesc_wf _ n h)
    split
    · rw [ringHalt_mem]
      exact hq
    · generalize (State.writeFrame _ _ _ _) = q at *
      split <;> split <;> simp [hq]

@[simp] theorem pump_wf (s : State) (n k : Nat) (h : s.mem.wf = true) : (s.pump n k).mem.wf = true := by
  induction k generalizing s with
  | zero => exact h
  | succ k ih =>
    unfold State.pump
    split
    · exact h
    · split
      · exact ih _ (placeFrame_wf _ _ _ (by simp [h]))
      · exact h

@[simp] theorem dropHold_mem (s : State) (n : Nat) : (s.dropHold n).mem = s.mem := by
  simp [State.dropHold]

@[simp] theorem dropHand_mem (s : State) (n : Nat) : (s.dropHand n).mem = s.mem := by
  unfold State.dropHand
  split <;> simp

@[simp] theorem ringRestart_mem (s : State) (n : Nat) : (s.ringRestart n).mem = s.mem := by
  simp [State.ringRestart]

@[simp] theorem ringIdle_mem (s : State) (n : Nat) : (s.ringIdle n).mem = s.mem := by
  simp [State.ringIdle, apply_ite State.mem]

@[simp] theorem ringGo_wf (s : State) (n : Nat) (h : s.mem.wf = true) : (s.ringGo n).mem.wf = true := by
  unfold State.ringGo
  dsimp only
  (repeat' split) <;> simp +contextual [h, foldl_wf]

@[simp] theorem arrive_wf (s : State) (n : Nat) (f : AgentFrame) (err chars : Bool) (time : Nat) (h : s.mem.wf = true) :
    (s.arrive n f err chars time).mem.wf = true := by
  unfold State.arrive
  dsimp only
  (repeat' split) <;> simp [h]

@[simp] theorem ringIn_wf (s : State) (n agent : Nat) (f : AgentFrame) (h : s.mem.wf = true) :
    (s.ringIn n agent f).mem.wf = true := by
  unfold State.ringIn
  split <;> simp [h]

@[simp] theorem takeOut_wf (s : State) (n : Nat) (h : s.mem.wf = true) : (s.takeOut n).1.mem.wf = true := by
  unfold State.takeOut
  dsimp only
  (repeat' split) <;> simp [h]

@[simp] theorem startOut_mem (s : State) (n : Nat) (f : AgentFrame) (d : Desc) : (s.startOut n f d).mem = s.mem := rfl

@[simp] theorem completeOut_wf (s : State) (n : Nat) (st : DescStatus) (h : s.mem.wf = true) :
    (s.completeOut n st).mem.wf = true := by
  unfold State.completeOut
  split <;> simp [h]

@[simp] theorem post_wf (s : State) (n count : Nat) (h : s.mem.wf = true) : (s.post n count).mem.wf = true := by
  unfold State.post
  split <;> simp [h]

@[simp] theorem ringResume_mem (s : State) (n : Nat) : (s.ringResume n).mem = s.mem := rfl

@[simp] theorem resume_wf (s : State) (n : Nat) (h : s.mem.wf = true) : (s.resume n).mem.wf = true := by
  unfold State.resume
  dsimp only
  (repeat' split) <;> simp [h]

@[simp] theorem skip_wf (s : State) (n : Nat) (h : s.mem.wf = true) : (s.skip n).mem.wf = true := by
  unfold State.skip
  split <;> simp [h]

@[simp] theorem mailPost_wf (s : State) (n len : Nat) (h : s.mem.wf = true) : (s.mailPost n len).mem.wf = true := by
  unfold State.mailPost
  exact post_wf _ _ _ (fullWrite_wf _ _ _ _ (fullWrite_wf _ _ _ _ h))

@[simp] theorem toTrig_wf (s : State) (ty : Nat) (p : List Byte) (h : s.mem.wf = true) : (s.toTrig ty p).mem.wf = true := by
  unfold State.toTrig
  dsimp only
  have h1 := writeFrame_wf s (s.rawDescAt 28 (s.ringTail 28)) (mailMessage ty p) (((mailMessage ty p).length + 7) / 8) h
  have hr := takeOut_wf _ 28 (mailPost_wf _ 28 (mailMessage ty p).length h1)
  generalize State.takeOut _ 28 = r at *
  split
  · split <;> simp [hr]
  · simp [h]

@[simp] theorem fromTrig_wf (s : State) (type : Nat) (payload : List Byte) (h : s.mem.wf = true) :
    (s.fromTrig type payload).mem.wf = true := by
  unfold State.fromTrig
  dsimp only
  (repeat' split) <;> simp [h]

@[simp] theorem dirtyId_mem (s : State) (id : Nat) : (s.dirtyId id).mem = s.mem := by
  simp [State.dirtyId]

@[simp] theorem sourceInvalid_mem (s : State) (a : Arr) (id : Nat) : (s.sourceInvalid a id).mem = s.mem := by
  unfold State.sourceInvalid
  split <;> simp

@[simp] theorem markInvalid_wf (s : State) (a : Arr) (m : Master) (id : Nat) (h : s.mem.wf = true) :
    (s.markInvalid a m id).mem.wf = true := by
  unfold State.markInvalid
  dsimp only
  (repeat' split) <;> simp +contextual [h, foldl_wf]

@[simp] theorem patchWord_wf (s : State) (a : Arr) (w : Nat) (data mask : DWord) (m : Master) (h : s.mem.wf = true) :
    (s.patchWord a w data mask m).mem.wf = true := by
  unfold State.patchWord
  dsimp only
  (repeat' split) <;> simp +contextual [h, foldl_wf]

@[simp] theorem applyPatch_wf (s : State) (a : Arr) (p : Patch) (m : Master) (h : s.mem.wf = true) :
    (s.applyPatch a p m).mem.wf = true := by
  unfold State.applyPatch
  exact foldl_wf (fun s x h => by simp [h]) _ _ h

@[simp] theorem applyGroup_wf (s : State) (xs : List Sample) (h : s.mem.wf = true) : (s.applyGroup xs).mem.wf = true := by
  unfold State.applyGroup
  dsimp only
  refine foldl_wf (fun s x h => ?_) _ _ ?_ <;> simp [h]

@[simp] theorem countLost_mem (s : State) : s.countLost.mem = s.mem := rfl

@[simp] theorem loseSource_wf (s : State) (x : Src) (h : s.mem.wf = true) : (s.loseSource x).mem.wf = true := by
  unfold State.loseSource
  dsimp only
  (repeat' split) <;> simp +contextual [h, foldl_wf]

@[simp] theorem regainSource_wf (s : State) (x : Src) (h : s.mem.wf = true) : (s.regainSource x).mem.wf = true := by
  unfold State.regainSource
  dsimp only
  (repeat' split) <;> simp +contextual [h, foldl_wf]

@[simp] theorem latchRange_wf (s : State) (p : Image) (n : Nat) (r : Range) (h : s.mem.wf = true) :
    (s.latchRange p n r).mem.wf = true := by
  unfold State.latchRange
  dsimp only
  refine foldl_wf (fun s x h => ?_) _ _ ?_ <;> (repeat' split) <;> simp [h]

@[simp] theorem latch_wf (s : State) (p : Image) (n : Nat) (h : s.mem.wf = true) : (s.latch p n).mem.wf = true := by
  unfold State.latch
  exact foldl_wf (fun s x h => by simp [h]) _ _ h

@[simp] theorem commitRange_wf (s : State) (p : Image) (r : Range) (h : s.mem.wf = true) :
    (s.commitRange p r).mem.wf = true := by
  simp [h, State.commitRange]

@[simp] theorem commit_wf (s : State) (p : Image) (n : Nat) (h : s.mem.wf = true) : (s.commit p n).mem.wf = true := by
  unfold State.commit
  exact foldl_wf (fun s x h => by simp [h]) _ _ h

@[simp] theorem forceStat_mem (s : State) : s.forceStat.mem = s.mem := rfl

@[simp] theorem applyForces_mem (s : State) : s.applyForces.mem = s.mem := by
  simp [State.applyForces, apply_ite State.mem, foldl_mem]

@[simp] theorem removeForces_mem (s : State) : s.removeForces.mem = s.mem := by
  simp [State.removeForces]

@[simp] theorem buildData_wf (s : State) (fs : List FieldEntry) (len : Nat) (big off : Bool) (h : s.mem.wf = true) :
    (s.buildData fs len big off).1.mem.wf = true := by
  unfold State.buildData
  split <;> simp [h]

@[simp] theorem setColState_mem (s : State) (n : Nat) : (s.setColState n).mem = s.mem := rfl

@[simp] theorem putGroup_wf (s : State) (x : Src) (a2 : Group) (h : s.mem.wf = true) : (s.putGroup x a2).mem.wf = true := by
  unfold State.putGroup
  split <;> simp [h]

@[simp] theorem putGroupBytes_wf (s : State) (p : List Byte) (h : s.mem.wf = true) : (s.putGroupBytes p).mem.wf = true := by
  unfold State.putGroupBytes
  split <;> simp [h]

@[simp] theorem streamGroup_wf (s : State) (x : Src) (g : Group) (h : s.mem.wf = true) :
    (s.streamGroup x g).mem.wf = true := by
  unfold State.streamGroup
  dsimp only
  (repeat' split) <;> simp [h]

@[simp] theorem acquire_wf (s : State) (x : Src) (g : Group) (h : s.mem.wf = true) : (s.acquire x g).mem.wf = true := by
  unfold State.acquire
  dsimp only
  (repeat' split) <;> simp [h]

@[simp] theorem deliver_wf (s : State) (x : Src) (xs : List Sample) (h : s.mem.wf = true) :
    (s.deliver x xs).mem.wf = true := by
  simp [h, State.deliver]

@[simp] theorem feedDigest_mem (s : State) (n : Nat) (rs : List Range) : (s.feedDigest n rs).mem = s.mem := rfl

@[simp] theorem turnDigest_mem (s : State) (next : Nat) : (s.turnDigest next).mem = s.mem := rfl

@[simp] theorem setChan_mem (s : State) (n : Nat) (c : ChanRt) : (s.setChan n c).mem = s.mem := rfl

@[simp] theorem onset_mem (s : State) (n : Nat) (c : Cond) : (s.onset n c).mem = s.mem := by
  unfold State.onset
  dsimp only
  simp

@[simp] theorem groupLatch_mem (s : State) (g : Nat) : (s.groupLatch g).mem = s.mem := by
  simp [State.groupLatch]

@[simp] theorem drive_mem (s : State) (n : Nat) (on : Bool) : (s.drive n on).mem = s.mem := by
  unfold State.drive
  split <;> simp

@[simp] theorem outputsOff_mem (s : State) : s.outputsOff.mem = s.mem := by
  simp [State.outputsOff, foldl_mem]

@[simp] theorem sampleChan_mem (s : State) (n : Nat) (p : Pin) : (s.sampleChan n p).mem = s.mem := by
  simp [State.sampleChan, apply_ite State.mem]

@[simp] theorem outputCmd_wf (s : State) (n : Nat) (h : s.mem.wf = true) : (s.outputCmd n).1.mem.wf = true := by
  unfold State.outputCmd
  dsimp only
  (repeat' split) <;> simp [h]

@[simp] theorem unlatch_mem (s : State) (n : Nat) : (s.unlatch n).mem = s.mem := by
  unfold State.unlatch
  split <;> simp

@[simp] theorem driveChan_wf (s : State) (n : Nat) (h : s.mem.wf = true) : (s.driveChan n).mem.wf = true := by
  unfold State.driveChan
  dsimp only
  (repeat' split) <;> simp [h]

@[simp] theorem commitSeen_mem (s : State) (rs : List Range) : (s.commitSeen rs).mem = s.mem := by
  unfold State.commitSeen
  exact foldl_mem (fun _ _ => by dsimp only; (repeat' split) <;> simp) _ _

@[simp] theorem writeGroup_wf (s : State) (g : Nat) (h : s.mem.wf = true) : (s.writeGroup g).mem.wf = true := by
  unfold State.writeGroup
  exact acquire_wf _ _ _ (foldl_wf (fun s n h => acquire_wf _ _ _ h) _ _ h)

@[simp] theorem loseChan_wf (s : State) (n : Nat) (h : s.mem.wf = true) : (s.loseChan n).mem.wf = true := by
  unfold State.loseChan
  split <;> simp [h]

@[simp] theorem sampleSupply_mem (s : State) (g : Nat) (p : Supply) : (s.sampleSupply g p).mem = s.mem := by
  simp [State.sampleSupply, apply_ite State.mem]

@[simp] theorem groupBits_mem (s : State) (g : Nat) : (s.groupBits g).mem = s.mem := by
  unfold State.groupBits
  exact foldl_mem (fun _ _ => by dsimp only; simp) _ _

@[simp] theorem sampleLine_mem (s : State) (i : Nat) (mv : Int) : (s.sampleLine i mv).mem = s.mem := by
  simp [State.sampleLine, apply_ite State.mem]

@[simp] theorem scanLines_wf (s : State) (t : Nat) (mvs : List Int) (h : s.mem.wf = true) :
    (s.scanLines t mvs).mem.wf = true := by
  unfold State.scanLines
  dsimp only
  (repeat' split) <;> simp +contextual [h, foldl_wf]

@[simp] theorem pdSend_wf (s : State) (i k : Nat) (h : s.mem.wf = true) : (s.pdSend i k).1.mem.wf = true := by
  unfold State.pdSend
  dsimp only
  (repeat' split) <;> simp [h]

@[simp] theorem pdSendAll_wf (s : State) (l : List (Nat × Nat)) (h : s.mem.wf = true) : (s.pdSendAll l).mem.wf = true := by
  unfold State.pdSendAll
  dsimp only
  simp +contextual [h, foldl_fst_wf]

@[simp] theorem pdPublish_wf (s : State) (k : Nat) (h : s.mem.wf = true) : (s.pdPublish k).mem.wf = true := by
  unfold State.pdPublish
  dsimp only
  (repeat' split) <;> simp [h]

@[simp] theorem supervise_mem (s : State) (k : Nat) (pub : Bool) : (s.supervise k pub).mem = s.mem := by
  simp [State.supervise, apply_ite State.mem]

@[simp] theorem supervisePub_mem (s : State) (k : Nat) : (s.supervisePub k).mem = s.mem := by
  simp [State.supervisePub, apply_ite State.mem, foldl_mem]

@[simp] theorem mvbRebuild_wf (s : State) (rs : List Range) (h : s.mem.wf = true) : (s.mvbRebuild rs).mem.wf = true := by
  unfold State.mvbRebuild
  exact foldl_wf (fun s x h => by dsimp only; (repeat' split) <;> simp [h]) _ _ h

@[simp] theorem commitOut_wf (s : State) (p : Image) (n : Nat) (h : s.mem.wf = true) : (s.commitOut p n).mem.wf = true := by
  simp [h, State.commitOut]

@[simp] theorem nodeAdd_mem (s : State) (e : NodeEntry) : (s.nodeAdd e).mem = s.mem := by
  unfold State.nodeAdd
  split <;> simp

@[simp] theorem redAccept_mem (s : State) (k mac seq : Nat) : (s.redAccept k mac seq).1.mem = s.mem := by
  unfold State.redAccept
  dsimp only
  (repeat' split) <;> simp

@[simp] theorem redCheck_mem (s : State) (n : Nat) (bs : List Byte) : (s.redCheck n bs).1.mem = s.mem := by
  unfold State.redCheck
  dsimp only
  (repeat' split) <;> simp

@[simp] theorem learn_mem (s : State) (mac port : Nat) : (s.learn mac port).mem = s.mem := by
  unfold State.learn
  split <;> simp

@[simp] theorem snoop_mem (s : State) (port : Nat) (bs : List Byte) : (s.snoop port bs).mem = s.mem := by
  simp [State.snoop, apply_ite State.mem]

@[simp] theorem toInbox_mem (s : State) (m : NetMsg) : (s.toInbox m).mem = s.mem := rfl

@[simp] theorem unsupported_mem (s : State) : s.unsupported.mem = s.mem := rfl

@[simp] theorem packetWaits_mem (s : State) (transport source : Nat) (b : List Byte) :
    (s.packetWaits transport source b).mem = s.mem := by
  unfold State.packetWaits
  split <;> simp

@[simp] theorem datagram_mem (s : State) (n : Nat) (d : Datagram) : (s.datagram n d).mem = s.mem := by
  unfold State.datagram
  (repeat' split) <;> simp

@[simp] theorem toModule_mem (s : State) (n : Nat) (bs : List Byte) : (s.toModule n bs).mem = s.mem := by
  unfold State.toModule
  dsimp only
  (repeat' split) <;> simp

@[simp] theorem relay_mem (s : State) (c : Nat × Nat) (ps : List Nat) (bs : List Byte) : (s.relay c ps bs).mem = s.mem := by
  simp [State.relay]

@[simp] theorem etbFrame_mem (s : State) (n : Nat) (bs : List Byte) : (s.etbFrame n bs).mem = s.mem := by
  unfold State.etbFrame
  dsimp only
  (repeat' split) <;> simp

@[simp] theorem forward_mem (s : State) (n : Nat) (bs : List Byte) : (s.forward n bs).mem = s.mem := by
  unfold State.forward
  dsimp only
  (repeat' split) <;> simp

@[simp] theorem ethIn_mem (s : State) (n : Nat) (f : LinkFrame) : (s.ethIn n f).mem = s.mem := by
  simp [State.ethIn, apply_ite State.mem]

@[simp] theorem setRdg_mem (s : State) (n : Nat) : (s.setRdg n).mem = s.mem := rfl

@[simp] theorem rdgForward_mem (s : State) (east ok : Bool) (f : RidgeFrame) : (s.rdgForward east ok f).mem = s.mem := by
  simp [State.rdgForward, apply_ite State.mem]

@[simp] theorem putMapBit_mem (s : State) (lo hi n : Nat) (b : Bool) : (s.putMapBit lo hi n b).mem = s.mem := by
  unfold State.putMapBit
  split <;> simp

@[simp] theorem setOnline_mem (s : State) (n : Nat) (b : Bool) : (s.setOnline n b).mem = s.mem := by
  simp [State.setOnline]

@[simp] theorem setMap_mem (s : State) (lo hi v : Nat) : (s.setMap lo hi v).mem = s.mem := rfl

@[simp] theorem ctxStat_mem (s : State) (n : Nat) : (s.ctxStat n).mem = s.mem := by
  unfold State.ctxStat
  split <;> simp

@[simp] theorem setBctx_mem (s : State) (n : Nat) (x : BridgeCtx) : (s.setBctx n x).mem = s.mem := by
  simp [State.setBctx]

@[simp] theorem farError_mem (s : State) (n off code : Nat) (write : Bool) : (s.farError n off code write).mem = s.mem := by
  unfold State.farError
  split <;> simp

@[simp] theorem endLoad_mem (s : State) (n st : Nat) (d : DWord) : (s.endLoad n st d).mem = s.mem := by
  unfold State.endLoad
  dsimp only
  (repeat' split) <;> simp

@[simp] theorem dropLine_mem (s : State) (n : Nat) : (s.dropLine n).mem = s.mem := by
  unfold State.dropLine
  dsimp only
  (repeat' split) <;> simp

@[simp] theorem sendStores_mem (s : State) (n : Nat) : (s.sendStores n).mem = s.mem := by
  unfold State.sendStores
  dsimp only
  (repeat' split) <;> simp

@[simp] theorem streamAck_wf (s : State) (n : Nat) (f : RidgeFrame) (h : s.mem.wf = true) :
    (s.streamAck n f).mem.wf = true := by
  unfold State.streamAck
  split
  · exact h
  · dsimp only
    rw [ctxStat_mem, sendStores_mem]
    exact foldl_wf (fun s g h => by split <;> simp [h]) _ _ (by simp [h])

@[simp] theorem streamTake_mem (s : State) (n : Nat) (f : RidgeFrame) : (s.streamTake n f).1.mem = s.mem := by
  unfold State.streamTake
  dsimp only
  (repeat' split) <;> simp

@[simp] theorem setDesk_mem (s : State) (r : Req) (d : Desk) : (s.setDesk r d).mem = s.mem := by
  unfold State.setDesk
  split <;> simp

@[simp] theorem send_wf (s : State) (r : Reply) (h : s.mem.wf = true) : (s.send r).mem.wf = true := by
  unfold State.send
  dsimp only
  (repeat' split) <;> simp [h]

@[simp] theorem authFailed_mem (s : State) (r : Req) : (s.authFailed r).mem = s.mem := by
  simp [State.authFailed, apply_ite State.mem]

@[simp] theorem countStatus_mem (s : State) (r : Req) (a2 : Status) : (s.countStatus r a2).mem = s.mem := by
  unfold State.countStatus
  (repeat' split) <;> simp

@[simp] theorem answered_mem (s : State) (op : Nat) (r : Req) : (s.answered op r).mem = s.mem := by
  unfold State.answered
  split <;> simp

@[simp] theorem refuse_wf (s : State) (op : Nat) (r : Req) (a : Answer) (h : s.mem.wf = true) :
    (s.refuse op r a).mem.wf = true := by
  simp [h, State.refuse]

@[simp] theorem keep_mem (s : State) (op : Nat) (r : Req) (st : Status) (last : Reply) :
    (s.keep op r st last).mem = s.mem := by
  simp [State.keep]

@[simp] theorem finishWith_wf (s : State) (op : Nat) (r : Req) (session : Byte) (key : List Byte) (a : Answer) (h : s.mem.wf
    = true) : (s.finishWith op r session key a).mem.wf = true := by
  simp [h, State.finishWith]

@[simp] theorem finish_wf (s : State) (op : Nat) (r : Req) (a : Answer) (h : s.mem.wf = true) :
    (s.finish op r a).mem.wf = true := by
  simp [h, State.finish]

@[simp] theorem finishChain_wf (s : State) (op : Nat) (r : Req) (l : List (List Byte)) (h : s.mem.wf = true) :
    (s.finishChain op r l).mem.wf = true := by
  induction l generalizing s with
  | nil => exact finish_wf _ _ _ _ h
  | cons d t ih =>
    cases t with
    | nil => exact finish_wf _ _ _ _ h
    | cons e t => exact ih _ (send_wf _ _ h)

@[simp] theorem relayReply_wf (s : State) (b : List Byte) (h : s.mem.wf = true) : (s.relayReply b).mem.wf = true := by
  unfold State.relayReply
  dsimp only
  (repeat' split) <;> simp [h]

@[simp] theorem targetLost_wf (s : State) (target : Byte) (detail : Nat) (h : s.mem.wf = true) :
    (s.targetLost target detail).mem.wf = true := by
  unfold State.targetLost
  exact foldl_wf (fun s x h => by simp [h]) _ _ h

@[simp] theorem endStream_wf (s : State) (n : Nat) (h : s.mem.wf = true) : (s.endStream n).mem.wf = true := by
  unfold State.endStream
  exact foldl_wf (fun s x h => by (repeat' split) <;> simp [h]) _ _ h

@[simp] theorem loseStation_wf (s : State) (n : Nat) (h : s.mem.wf = true) : (s.loseStation n).mem.wf = true := by
  unfold State.loseStation
  extract_lets _ s2 s3 s4 s5 s6 s7 s8 _ s9
  have h4 : s4.mem.wf = true := by unfold s4 s3 s2; rw [report_mem, flag_mem, bump_mem]; simp [h]
  have h5 : s5.mem.wf = true := endStream_wf _ _ (acquire_wf _ _ _ h4)
  have h6 : s6.mem.wf = true := targetLost_wf _ _ _ h5
  have h9 : s9.mem.wf = true := by
    unfold s9 s8 s7
    rw [setBctx_mem, foldl_mem (fun s e => by simp), endLoad_mem, dropLine_mem]
    exact h6
  split
  · split <;> simp [h9]
  · exact h6

@[simp] theorem countMissed_mem (s : State) (ns : List Nat) : (s.countMissed ns).mem = s.mem := by
  simp [State.countMissed, apply_ite State.mem, foldl_mem]

@[simp] theorem sendSlot_wf (s : State) (n : Nat) (inward : Bool) (dst seq : Nat) (h : s.mem.wf = true) :
    (s.sendSlot n inward dst seq).mem.wf = true := by
  simp [h, State.sendSlot]

@[simp] theorem sendCycle_wf (s : State) (h : s.mem.wf = true) : s.sendCycle.mem.wf = true := by
  unfold State.sendCycle
  dsimp only
  (repeat' split) <;> simp +contextual [h, foldl_wf]

@[simp] theorem dupManager_mem (s : State) : s.dupManager.mem = s.mem := by
  unfold State.dupManager
  split <;> simp

@[simp] theorem noteRefused_mem (s : State) : s.noteRefused.mem = s.mem := by
  unfold State.noteRefused
  split <;> simp

@[simp] theorem cycleIn_wf (s : State) (f : RidgeFrame) (h : s.mem.wf = true) : (s.cycleIn f).mem.wf = true := by
  unfold State.cycleIn
  dsimp only
  (repeat' split) <;> simp [h]

@[simp] theorem slotIn_wf (s : State) (late : Bool) (f : RidgeFrame) (h : s.mem.wf = true) :
    (s.slotIn late f).mem.wf = true := by
  unfold State.slotIn
  dsimp only
  (repeat' split) <;> simp [h]

@[simp] theorem sendDiscover_mem (s : State) : s.sendDiscover.mem = s.mem := by
  simp [State.sendDiscover, apply_ite State.mem]

@[simp] theorem mergeRing_mem (s : State) : s.mergeRing.mem = s.mem := by
  simp [State.mergeRing, apply_ite State.mem]

@[simp] theorem discoverIn_mem (s : State) (east : Bool) (f : RidgeFrame) : (s.discoverIn east f).mem = s.mem := by
  simp [State.discoverIn, apply_ite State.mem]

@[simp] theorem linkIn_wf (s : State) (ring agent l : Nat) (f : AgentFrame) (err chars : Bool) (h : s.mem.wf = true) :
    (s.linkIn ring agent l f err chars).mem.wf = true := by
  unfold State.linkIn
  (repeat' split) <;> simp [h]

@[simp] theorem setTunnelQ_mem (s : State) (l : Nat) (q : List AgentFrame) : (s.setTunnelQ l q).mem = s.mem := rfl

@[simp] theorem writeEntry_wf (s : State) (e : StoreEntry) (h : s.mem.wf = true) : (s.writeEntry e).1.mem.wf = true := by
  unfold State.writeEntry
  (repeat' split) <;> simp [h]

@[simp] theorem sendIrq_mem (s : State) (v : Word) : (s.sendIrq v).mem = s.mem := by
  unfold State.sendIrq
  split <;> simp

@[simp] theorem runDeferred_wf (s : State) (a1 : Deferred) (h : s.mem.wf = true) : (s.runDeferred a1).mem.wf = true := by
  unfold State.runDeferred
  split <;> simp [h]

@[simp] theorem afterStore_wf (s : State) (h : s.mem.wf = true) : s.afterStore.mem.wf = true := by
  unfold State.afterStore
  exact foldl_wf (fun s x h => by simp [h]) _ _ h

@[simp] theorem deferWrite_wf (s : State) (who : Option Who) (d : Deferred) (h : s.mem.wf = true) :
    (s.deferWrite who d).mem.wf = true := by
  unfold State.deferWrite
  dsimp only
  (repeat' split) <;> simp [h]

@[simp] theorem writeOldest_wf (s : State) (h : s.mem.wf = true) : s.writeOldest.1.mem.wf = true := by
  unfold State.writeOldest
  split <;> simp [h]

@[simp] theorem flush_wf (k : Nat) (s : State) (h : s.mem.wf = true) : (State.flush k s).mem.wf = true := by
  induction k generalizing s with
  | zero => exact h
  | succ k ih => exact ih _ (writeOldest_wf _ h)

@[simp] theorem setPair_mem (s : State) (n : Nat) : (s.setPair n).mem = s.mem := rfl

@[simp] theorem answerLong_wf (s : State) (op : Nat) (a : Answer) (h : s.mem.wf = true) :
    (s.answerLong op a).mem.wf = true := by
  unfold State.answerLong
  dsimp only
  (repeat' split) <;> simp [h]

@[simp] theorem cancelSwap_mem (s : State) : s.cancelSwap.mem = s.mem := rfl

@[simp] theorem dropStream_mem (s : State) : s.dropStream.mem = s.mem := rfl

@[simp] theorem epochOver_mem (s : State) (record : Bool) : (s.epochOver record).mem = s.mem := by
  unfold State.epochOver
  split <;> simp

@[simp] theorem abortJoin_mem (s : State) (reason : Nat) : (s.abortJoin reason).mem = s.mem := by
  simp [State.abortJoin]

@[simp] theorem putOwn_wf (s : State) (h : s.mem.wf = true) : s.putOwn.mem.wf = true := by
  unfold State.putOwn
  exact foldl_wf (fun s x h => by simp [h]) _ _ h

@[simp] theorem keepLost_mem (s : State) : s.keepLost.mem = s.mem := by
  unfold State.keepLost
  split <;> simp

@[simp] theorem leavePair_wf (s : State) (reason : Nat) (h : s.mem.wf = true) : (s.leavePair reason).mem.wf = true := by
  unfold State.leavePair
  dsimp only
  (repeat' split) <;> simp [h]

@[simp] theorem pairFollows_wf (s : State) (h : s.mem.wf = true) : s.pairFollows.mem.wf = true := by
  unfold State.pairFollows
  dsimp only
  (repeat' split) <;> simp [h]

@[simp] theorem injectionsFollow_mem (s : State) : s.injectionsFollow.mem = s.mem := by
  simp [State.injectionsFollow, apply_ite State.mem]

@[simp] theorem setOp_mem (s : State) (n : Nat) : (s.setOp n).mem = s.mem := rfl

@[simp] theorem lowerGop_mem (s : State) (n : Nat) : (s.lowerGop n).mem = s.mem := by
  unfold State.lowerGop
  dsimp only
  (repeat' split) <;> simp

@[simp] theorem marginFlags_mem (s : State) (cycles : Bool) : (s.marginFlags cycles).mem = s.mem := by
  simp [State.marginFlags, apply_ite State.mem]

@[simp] theorem stepTo_mem (s : State) (n : Nat) : (s.stepTo n).mem = s.mem := by
  simp [State.stepTo]

@[simp] theorem takeStep_mem (s : State) : s.takeStep.mem = s.mem := by
  simp [State.takeStep, apply_ite State.mem]

@[simp] theorem compareHoldup_mem (s : State) (drop : Bool) : (s.compareHoldup drop).mem = s.mem := by
  simp [State.compareHoldup, apply_ite State.mem]

@[simp] theorem planHoldup_mem (s : State) : s.planHoldup.mem = s.mem := by
  simp [State.planHoldup, apply_ite State.mem]

@[simp] theorem planCore_mem (s : State) : s.planCore.mem = s.mem := by
  simp [State.planCore]

@[simp] theorem plan_mem (s : State) (cycles : Bool) : (s.plan cycles).mem = s.mem := by
  simp [State.plan]

@[simp] theorem wdAbort_mem (s : State) (addr : Nat) (src : WSrc) : (s.wdAbort addr src).mem = s.mem := by
  simp [State.wdAbort]

@[simp] theorem abortWd_mem (s : State) (p : WSrc → Bool) : (s.abortWd p).mem = s.mem := by
  simp [State.abortWd, foldl_mem]

@[simp] theorem putMode_mem (s : State) (m : Mode) : (s.putMode m).mem = s.mem := rfl

@[simp] theorem ceIdle_mem (s : State) : s.ceIdle.mem = s.mem := rfl

@[simp] theorem abandonCycle_wf (s : State) (h : s.mem.wf = true) : s.abandonCycle.mem.wf = true := by
  simp [h, State.abandonCycle]

@[simp] theorem loadTask_mem (s : State) (n : Nat) (d : TaskDef) (stopped : Bool) :
    (s.loadTask n d stopped).mem = s.mem := by
  unfold State.loadTask
  split <;> simp

@[simp] theorem loadTasks_mem (s : State) (p : Image) : (s.loadTasks p).mem = s.mem := by
  simp [State.loadTasks, foldl_mem]

@[simp] theorem enterStopped_mem (s : State) : s.enterStopped.mem = s.mem := by
  unfold State.enterStopped
  dsimp only
  (repeat' split) <;> simp

@[simp] theorem endLongOp_wf (s : State) (h : s.mem.wf = true) : s.endLongOp.mem.wf = true := by
  unfold State.endLongOp
  dsimp only
  (repeat' split) <;> simp [h]

@[simp] theorem disarm_mem (s : State) : s.disarm.mem = s.mem := rfl

@[simp] theorem dropEdit_mem (s : State) : s.dropEdit.mem = s.mem := rfl

@[simp] theorem stopInit_wf (s : State) (h : s.mem.wf = true) : s.stopInit.mem.wf = true := by
  simp [h, State.stopInit]

@[simp] theorem endModeWait_wf (s : State) (h : s.mem.wf = true) : s.endModeWait.mem.wf = true := by
  unfold State.endModeWait
  dsimp only
  (repeat' split) <;> simp [h]

@[simp] theorem afterMode_wf (s : State) (old : Mode) (h : s.mem.wf = true) : (s.afterMode old).mem.wf = true := by
  unfold State.afterMode
  extract_lets s1 s2 s3 s4 s5 s6 s7
  have h3 : s3.mem.wf = true := by unfold s3 s2 s1; split <;> simp [h]
  have h4 : s4.mem.wf = true := by unfold s4; split <;> simp [h3]
  have h5 : s5.mem.wf = true := by unfold s5; split <;> simp [h4]
  have h6 : s6.mem.wf = true := by unfold s6; split <;> simp [h5]
  exact endLongOp_wf _ (by unfold s7; simp [h6])

@[simp] theorem changeMode_wf (s : State) (m : Mode) (t : Trigger) (h : s.mem.wf = true) :
    (s.changeMode m t).mem.wf = true := by
  unfold State.changeMode
  split <;> simp [h]

@[simp] theorem countStartLoop_mem (s : State) : s.countStartLoop.mem = s.mem := by
  unfold State.countStartLoop
  dsimp only
  (repeat' split) <;> simp

@[simp] theorem enterSafe_wf (s : State) (cause : Nat) (h : s.mem.wf = true) : (s.enterSafe cause).mem.wf = true := by
  unfold State.enterSafe
  split <;> simp [h]

@[simp] theorem modTask_mem (s : State) (w : Who) (f : TaskRt → TaskRt) : (s.modTask w f).mem = s.mem := rfl

@[simp] theorem trapInfo_mem (s : State) (n cause index : Nat) : (s.trapInfo n cause index).mem = s.mem := rfl

@[simp] theorem orphanStores_mem (s : State) (w : Who) : (s.orphanStores w).mem = s.mem := rfl

@[simp] theorem mem_killRelease (s : State) (w : Who) : (s.killRelease w).mem = s.mem := by
  simp [State.killRelease]

@[simp] theorem applyPolicy_wf (s : State) (n : Nat) (h : s.mem.wf = true) : (s.applyPolicy n).mem.wf = true := by
  unfold State.applyPolicy
  (repeat' split) <;> simp [h]

@[simp] theorem autoRefused_mem (s : State) (reason : Nat) : (s.autoRefused reason).mem = s.mem := by
  simp [State.autoRefused]

@[simp] theorem initFailed_wf (s : State) (code : Nat) (h : s.mem.wf = true) : (s.initFailed code).mem.wf = true := by
  unfold State.initFailed
  dsimp only
  (repeat' split) <;> simp [h]

@[simp] theorem trap_wf (s : State) (w : Who) (t : TrapCode) (index : Nat) (h : s.mem.wf = true) :
    (s.trap w t index).mem.wf = true := by
  unfold State.trap
  dsimp only
  (repeat' split) <;> simp [h]

@[simp] theorem storeFront_wf (s : State) (h : s.mem.wf = true) : s.storeFront.mem.wf = true := by
  unfold State.storeFront
  dsimp only
  (repeat' split) <;> simp [h]

@[simp] theorem drain_wf (k : Nat) (s : State) (h : s.mem.wf = true) : (State.drain k s).mem.wf = true := by
  induction k generalizing s with
  | zero => exact h
  | succ k ih => exact ih _ (storeFront_wf _ h)

@[simp] theorem drainAll_wf (s : State) (h : s.mem.wf = true) : s.drainAll.mem.wf = true := by
  simp [h, State.drainAll]

@[simp] theorem dispatch_wf (s : State) (h : s.mem.wf = true) : s.dispatch.mem.wf = true := by
  unfold State.dispatch
  dsimp only
  (repeat' split) <;> simp [h]

@[simp] theorem measure_mem (s : State) (n clocks : Nat) : (s.measure n clocks).mem = s.mem := by
  simp [State.measure, apply_ite State.mem]

@[simp] theorem completeRelease_wf (s : State) (w : Who) (h : s.mem.wf = true) : (s.completeRelease w).mem.wf = true := by
  unfold State.completeRelease
  extract_lets n u v
  have hv : v.mem.wf = true := by unfold v u; rw [mem_killRelease, measure_mem]; exact h
  split
  · exact hv
  · split
    · rw [modTask_mem]
      exact hv
    · exact commitOut_wf _ _ _ hv

@[simp] theorem completeInit_mem (s : State) : s.completeInit.mem = s.mem := by
  unfold State.completeInit
  dsimp only
  (repeat' split) <;> simp

@[simp] theorem endInit_mem (s : State) : s.endInit.mem = s.mem := by
  unfold State.endInit
  split <;> simp

@[simp] theorem completeT7_mem (s : State) : s.completeT7.mem = s.mem := by
  simp [State.completeT7]

@[simp] theorem setDegLeft_mem (s : State) (n : Nat) : (s.setDegLeft n).mem = s.mem := rfl

@[simp] theorem failWindow_mem (s : State) (l : Lane) : (s.failWindow l).mem = s.mem := rfl

@[simp] theorem retire_mem (s : State) (l : Lane) : (s.retire l).mem = s.mem := by
  rw [(retire_frame s l).1]
  unfold State.retired
  dsimp only
  rw [flag_mem, mem_setLane]
  split <;> cases l <;> rfl

@[simp] theorem failedReadmission_mem (s : State) (l : Lane) (index : Nat) : (s.failedReadmission l index).mem = s.mem := by
  unfold State.failedReadmission
  dsimp only
  (repeat' split) <;> simp

@[simp] theorem lastMis_mem (s : State) (kind : RecKind) (lane index : Nat) : (s.lastMis kind lane index).mem = s.mem := by
  simp [State.lastMis]

@[simp] theorem noMajority_wf (s : State) (kind : RecKind) (index : Nat) (h : s.mem.wf = true) :
    (s.noMajority kind index).mem.wf = true := by
  simp [h, State.noMajority]

@[simp] theorem haltLane_mem (s : State) (l : Lane) (kind : RecKind) (index : Nat) :
    (s.haltLane l kind index).mem = s.mem := by
  simp [State.haltLane, apply_ite State.mem]

@[simp] theorem minority_wf (s : State) (l : Lane) (kind : RecKind) (index : Nat) (h : s.mem.wf = true) :
    (s.minority l kind index).mem.wf = true := by
  unfold State.minority
  (repeat' split) <;> simp [h]

@[simp] theorem verdictSplit_wf (s : State) (kind : RecKind) (index : Nat) (h : s.mem.wf = true) :
    (s.verdictSplit kind index).mem.wf = true := by
  simp [h, State.verdictSplit]

@[simp] theorem samplePathError_wf (s : State) (index : Nat) (h : s.mem.wf = true) :
    (s.samplePathError index).mem.wf = true := by
  simp [h, State.samplePathError]

@[simp] theorem readmit_mem (s : State) (l : Lane) : (s.readmit l).mem = s.mem :=
  (readmit_frame s l).1

@[simp] theorem voteGate_wf (s : State) (v : Vote) (index : Nat) (h : s.mem.wf = true) :
    (s.voteGate v index).1.mem.wf = true := by
  unfold State.voteGate
  dsimp only
  (repeat' split) <;> simp [h]

@[simp] theorem voteStall_mem (s : State) (v : Vote) (load : Bool) : (s.voteStall v load).mem = s.mem := by
  unfold State.voteStall
  dsimp only
  (repeat' split) <;> simp

@[simp] theorem addClocks_mem (s : State) (w : Who) (n : Nat) : (s.addClocks w n).mem = s.mem := rfl

end Sys2Proof.Machine

end

-- ==== Sys2Proof/Proofs/CanonicalRun.lean ====

section
-- In order, not in parallel: each parallel thread reserves its whole stack of the check's memory.
set_option Elab.async false

/-! SUPPORT. The canonical form of the memory under the machinery that runs Cycle Code, moves frames and joins modules. -/

namespace Sys2Proof.Machine

@[simp] theorem settle_wf (w : Who) (i : Nat) (r : CcRes) (h : r.state.mem.wf = true) : (settle w i r).mem.wf = true := by
  cases r with
  | gone u => exact dispatch_wf _ h
  | trap t n u => exact dispatch_wf _ (trap_wf _ _ _ _ (by rw [addClocks_mem]; exact h))
  | done c n u =>
    have hv : ((u.addClocks w n).modTask w (fun t => { t with ctx := c })).mem.wf = true := by
      rw [modTask_mem, addClocks_mem]
      exact h
    unfold settle
    dsimp only
    split
    · exact dispatch_wf _ (trap_wf _ _ _ _ hv)
    · exact hv

@[simp] theorem execCc_wf (s : State) (v : Vote) (k : Ctx → Recs) (op : Who → Ctx → State → CcRes) (hop : ∀ w c s, s.mem.wf
    = true → (op w c s).state.mem.wf = true) (h : s.mem.wf = true) : (s.execCc v k op).mem.wf = true := by
  unfold State.execCc
  split
  · exact h
  · next w _ =>
    extract_lets c f v g
    have hf : f.1.mem.wf = true := readWord_wf h _ _ _
    have hg : g.1.mem.wf = true := by unfold g; exact voteGate_wf _ _ _ (by rw [voteStall_mem]; exact hf)
    split
    · exact dispatch_wf _ (trap_wf _ _ _ _ (by rw [addClocks_mem]; exact hf))
    · split
      · exact settle_wf _ _ _ (hop _ _ _ hg)
      · exact hg

@[simp] theorem execReg_wf (s : State) (v : Vote) (k : Ctx → Recs) (n : Nat) (f : Ctx → Ctx) (h : s.mem.wf = true) :
    (s.execReg v k n f).mem.wf = true :=
  execCc_wf _ _ _ _ (fun _ _ _ h => h) h

@[simp] theorem takeMsg_mem (s : State) (m : NetMsg) (act : State → State) (h : ∀ x, (act x).mem = x.mem) :
    (s.takeMsg m act).mem = s.mem := by
  unfold State.takeMsg
  split <;> simp [h]

@[simp] theorem pdIn_wf (s : State) (t : PdTelegram) (h : s.mem.wf = true) : (s.pdIn t).mem.wf = true := by
  unfold State.pdIn
  dsimp only
  (repeat' split) <;> simp [h]

@[simp] theorem mdAnswer_mem (s : State) (kind : Nat) (m : MdMessage) : (s.mdAnswer kind m).mem = s.mem := by
  simp [State.mdAnswer]

@[simp] theorem mdIn_wf (s : State) (m : MdMessage) (h : s.mem.wf = true) : (s.mdIn m).mem.wf = true := by
  unfold State.mdIn
  dsimp only
  (repeat' split) <;> simp [h]

@[simp] theorem ttdpSend_mem (s : State) : s.ttdpSend.mem = s.mem := by
  simp [State.ttdpSend]

@[simp] theorem ttdpIn_mem (s : State) (m : NetMsg) : (s.ttdpIn m).mem = s.mem := by
  unfold State.ttdpIn
  split <;> simp

@[simp] theorem topoSignal_wf (s : State) (block : Nat) (x : Src) (v : Word) (h : s.mem.wf = true) :
    (s.topoSignal block x v).mem.wf = true := by
  unfold State.topoSignal
  split <;> simp [h]

@[simp] theorem timeSource_mem (s : State) : s.timeSource.mem = s.mem := rfl

@[simp] theorem setUtc_mem (s : State) (ns : Nat) : (s.setUtc ns).mem = s.mem := rfl

@[simp] theorem announceIn_mem (s : State) (off : Nat) (c : ClockData) : (s.announceIn off c).mem = s.mem := by
  simp [State.announceIn, apply_ite State.mem]

@[simp] theorem syncIn_mem (s : State) (tai : Nat) : (s.syncIn tai).mem = s.mem := by
  simp [State.syncIn, apply_ite State.mem]

@[simp] theorem lead_mem (s : State) : s.lead.mem = s.mem := by
  unfold State.lead
  split <;> simp

@[simp] theorem ppsEdge_mem (s : State) (n : Nat) : (s.ppsEdge n).mem = s.mem := by
  unfold State.ppsEdge
  extract_lets d t used u v w at_
  split
  · rfl
  · split
    · rfl
    · rw [timeSource_mem, setFld_mem, setFld_mem]
      unfold w
      split <;> rfl

@[simp] theorem rxLine_mem (s : State) (l cnt : Nat) (valid : LinkFrame → Bool) (a4 : Option LinkFrame) :
    (s.rxLine l cnt valid a4).1.mem = s.mem := by
  unfold State.rxLine
  split <;> simp

@[simp] theorem mvbPair_mem (s : State) (valid : LinkFrame → Bool) (a b : Option LinkFrame) :
    (s.mvbPair valid a b).1.mem = s.mem := by
  simp [State.mvbPair, apply_ite State.mem]

@[simp] theorem mvbAnswer_mem (s : State) (b : List Byte) : (s.mvbAnswer b).mem = s.mem := by
  simp [State.mvbAnswer]

@[simp] theorem mvbPort_wf (s : State) (i : Nat) (sa sb : Option LinkFrame) (h : s.mem.wf = true) :
    (s.mvbPort i sa sb).mem.wf = true := by
  unfold State.mvbPort State.mvbSlave
  split
  · dsimp only
    split <;> simp [h]
  · dsimp only
    (repeat' split) <;> simp [h]

@[simp] theorem mvbDevice_wf (s : State) (code addr : Nat) (sa sb : Option LinkFrame) (h : s.mem.wf = true) :
    (s.mvbDevice code addr sa sb).mem.wf = true := by
  unfold State.mvbDevice State.mvbSlave
  dsimp only
  (repeat' split) <;> simp [h]

@[simp] theorem wtbLose_wf (s : State) (a : Nat) (h : s.mem.wf = true) : (s.wtbLose a).mem.wf = true := by
  simp [h, State.wtbLose]

@[simp] theorem wtbFrame_wf (s : State) (f : LinkFrame) (h : s.mem.wf = true) : (s.wtbFrame f).mem.wf = true := by
  unfold State.wtbFrame
  dsimp only
  (repeat' split) <;> simp [h]

@[simp] theorem canBoundary_mem (s : State) (c : Nat) : (s.canBoundary c).mem = s.mem := by
  simp [State.canBoundary, apply_ite State.mem]

@[simp] theorem canErrors_mem (s : State) (c tec a3 : Nat) : (s.canErrors c tec a3).mem = s.mem := by
  simp [State.canErrors, apply_ite State.mem]

@[simp] theorem canIn_wf (s : State) (c : Nat) (g : LinkFrame) (h : s.mem.wf = true) : (s.canIn c g).mem.wf = true := by
  unfold State.canIn
  dsimp only
  (repeat' split) <;> simp [h]

@[simp] theorem endSend_wf (s : State) (l : Nat) (n : Option Nat) (st : DescStatus) (h : s.mem.wf = true) :
    (s.endSend l n st).mem.wf = true := by
  unfold State.endSend
  split <;> simp [h]

@[simp] theorem canRejoin_mem (s : State) (c : Nat) : (s.canRejoin c).mem = s.mem := by
  unfold State.canRejoin
  split <;> simp

@[simp] theorem serIn_wf (s : State) (c : Nat) (g : LinkFrame) (h : s.mem.wf = true) : (s.serIn c g).mem.wf = true := by
  unfold State.serIn
  dsimp only
  (repeat' split) <;> simp [h]

@[simp] theorem outLink_wf (s : State) (n : Nat) (ok : Bool) (h : s.mem.wf = true) : (s.outLink n ok).mem.wf = true := by
  unfold State.outLink
  split <;> simp [h]

@[simp] theorem outCan_wf (s : State) (n : Nat) (f : AgentFrame) (h : s.mem.wf = true) : (s.outCan n f).mem.wf = true := by
  simp [h, State.outCan]

@[simp] theorem outSer_wf (s : State) (n : Nat) (f : AgentFrame) (h : s.mem.wf = true) : (s.outSer n f).mem.wf = true := by
  simp [h, State.outSer]

@[simp] theorem outTunnel_wf (s : State) (n : Nat) (f : AgentFrame) (h : s.mem.wf = true) :
    (s.outTunnel n f).mem.wf = true := by
  unfold State.outTunnel
  dsimp only
  (repeat' split) <;> simp [h]

@[simp] theorem outBus_wf (s : State) (n : Nat) (f : AgentFrame) (h : s.mem.wf = true) : (s.outBus n f).mem.wf = true := by
  unfold State.outBus
  dsimp only
  (repeat' split) <;> simp [h]

@[simp] theorem outMd_wf (s : State) (n : Nat) (f : AgentFrame) (h : s.mem.wf = true) : (s.outMd n f).mem.wf = true := by
  unfold State.outMd
  dsimp only
  (repeat' split) <;> simp [h]

@[simp] theorem outRaw_wf (s : State) (n : Nat) (f : AgentFrame) (h : s.mem.wf = true) : (s.outRaw n f).mem.wf = true := by
  unfold State.outRaw
  split <;> simp [h]

@[simp] theorem outPacket_wf (s : State) (n : Nat) (f : AgentFrame) (h : s.mem.wf = true) :
    (s.outPacket n f).mem.wf = true := by
  simp [h, State.outPacket]

@[simp] theorem toAgent_wf (s : State) (n : Nat) (f : AgentFrame) (h : s.mem.wf = true) :
    (s.toAgent n f).mem.wf = true := by
  unfold State.toAgent
  split <;> simp [h]

@[simp] theorem processOut_wf (s : State) (n : Nat) (h : s.mem.wf = true) : (s.processOut n).mem.wf = true := by
  unfold State.processOut
  dsimp only
  (repeat' split) <;> simp [h]

@[simp] theorem processAll_wf (s : State) (n k : Nat) (h : s.mem.wf = true) : (s.processAll n k).mem.wf = true := by
  induction k generalizing s with
  | zero => exact h
  | succ k ih => exact ih _ (processOut_wf _ _ h)

@[simp] theorem wign_mem (s : State) (page : Nat) : (s.wign page).mem = s.mem := rfl

@[simp] theorem shuttingBit_mem (s : State) (i : Inst) (b : Bool) : (s.shuttingBit i b).mem = s.mem := by
  unfold State.shuttingBit
  split <;> simp

@[simp] theorem startInst_wf (s : State) (i : Inst) (h : s.mem.wf = true) : (s.startInst i).mem.wf = true := by
  unfold State.startInst
  dsimp only
  (repeat' split) <;> simp [h]

@[simp] theorem beginShutdown_mem (s : State) (i : Inst) : (s.beginShutdown i).mem = s.mem := by
  unfold State.beginShutdown
  split <;> simp

@[simp] theorem setEnable_wf (s : State) (i : Inst) (on : Bool) (h : s.mem.wf = true) :
    (s.setEnable i on).mem.wf = true := by
  unfold State.setEnable
  dsimp only
  (repeat' split) <;> simp [h]

@[simp] theorem stopInst_wf (s : State) (i : Inst) (h : s.mem.wf = true) : (s.stopInst i).mem.wf = true := by
  cases i with
  | fch n =>
    unfold State.stopInst
    dsimp only
    rw [foldl_mem (fun s k => by simp), unlatch_mem, setChan_mem]
    split <;> simp [h]
  | ridge =>
    unfold State.stopInst
    extract_lets s1 s2
    have h1 : s1.mem.wf = true := foldl_wf (fun s n h => by split <;> simp [h]) _ _ h
    have h2 : s2.mem.wf = true := by unfold s2; split <;> simp [h1]
    rw [setRdg_mem]
    exact h2
  | _ => simp [State.stopInst, h]

@[simp] theorem readEffect_mem (s : State) (page off : Nat) : (s.readEffect page off).mem = s.mem := by
  simp [State.readEffect, apply_ite State.mem]

@[simp] theorem readReg_mem (s : State) (page off : Nat) : (s.readReg page off).1.mem = s.mem := by
  simp [State.readReg]

@[simp] theorem snapshot_mem (s : State) : s.snapshot.mem = s.mem := rfl

@[simp] theorem settleInst_mem (s : State) (i : Inst) : (s.settleInst i).mem = s.mem := by
  unfold State.settleInst
  (repeat' split) <;> simp

@[simp] theorem settleTrav_mem (s : State) : s.settleTrav.mem = s.mem := by
  unfold State.settleTrav
  split <;> simp

@[simp] theorem writeRws_mem (s : State) (page k : Nat) (on : Option Bool) (v : Word) :
    (s.writeRws page k on v).mem = s.mem := by
  simp [State.writeRws, apply_ite State.mem]

@[simp] theorem actWo_wf (s : State) (src : WSrc) (page off : Nat) (v : Word) (h : s.mem.wf = true) :
    (s.actWo src page off v).mem.wf = true := by
  unfold State.actWo
  dsimp only
  (repeat' split) <;> simp [h]

@[simp] theorem applyWd_wf (s : State) (p o : Nat) (v : Word) (h : s.mem.wf = true) : (s.applyWd p o v).mem.wf = true := by
  unfold State.applyWd
  dsimp only
  split
  · exact enterSafe_wf _ _ (by rw [foldl_mem (fun s k => by simp)]; exact h)
  · rw [foldl_mem (fun s k => by simp)]
    exact h

@[simp] theorem writeField_wf (s : State) (page off : Nat) (on : Option Bool) (v m : Word) (f : Field) (h : s.mem.wf = true)
    : (s.writeField page off on v m f).mem.wf = true := by
  unfold State.writeField
  dsimp only
  (repeat' split) <;> simp [h]

@[simp] theorem writePrimary_wf (s : State) (src : WSrc) (page off : Nat) (v m : Word) (h : s.mem.wf = true) :
    (s.writePrimary src page off v m).mem.wf = true := by
  unfold State.writePrimary
  extract_lets fs on s1 s2 wo s3 s4
  split
  · simp [h]
  · split
    · exact h
    · have h1 : s1.mem.wf = true := foldl_wf (fun s f h => writeField_wf _ _ _ _ _ _ _ h) _ _ h
      have h2 : s2.mem.wf = true := foldl_wf (fun s f h => writeField_wf _ _ _ _ _ _ _ h) _ _ h1
      have h3 : s3.mem.wf = true := by unfold s3; split <;> simp [h2]
      have h4 : s4.mem.wf = true := by unfold s4; split <;> exact h3
      split
      · rw [settleInst_mem]
        exact h4
      · split <;> simp [h4]

@[simp] theorem judgeWd_wf (s : State) (src : WSrc) (page off : Nat) (a4 : Bool) (v : Word) (h : s.mem.wf = true) :
    (s.judgeWd src page off a4 v).1.mem.wf = true := by
  unfold State.judgeWd
  dsimp only
  (repeat' split) <;> simp [h]

@[simp] theorem regWrite_wf (s : State) (src : WSrc) (page off : Nat) (v : Word) (h : s.mem.wf = true) :
    (s.regWrite src page off v).mem.wf = true := by
  unfold State.regWrite
  dsimp only
  (repeat' split) <;> simp [h]

@[simp] theorem aliasWrite_wf (s : State) (src : WSrc) (page off bit : Nat) (v : Word) (h : s.mem.wf = true) :
    (s.aliasWrite src page off bit v).mem.wf = true := by
  unfold State.aliasWrite
  split <;> simp [h]

@[simp] theorem carryWord_wf (s : State) (a : Arr) (w : Nat) (e : Cls × DWord) (h : s.mem.wf = true) :
    (s.carryWord a w e).mem.wf = true := by
  unfold State.carryWord
  split <;> simp [h]

@[simp] theorem carryEntry_wf (s : State) (c : Carry) (h : s.mem.wf = true) : (s.carryEntry c).mem.wf = true := by
  unfold State.carryEntry
  dsimp only
  (repeat' split) <;> simp +contextual [h, foldl_wf]

@[simp] theorem carryAll_wf (s : State) (b : Option (List Byte)) (h : s.mem.wf = true) : (s.carryAll b).mem.wf = true := by
  unfold State.carryAll
  (repeat' split) <;> simp +contextual [h, foldl_wf]

@[simp] theorem checkForces_mem (s : State) (p : Image) : (s.checkForces p).mem = s.mem := by
  simp [State.checkForces, foldl_mem]

@[simp] theorem setSlot_mem (s : State) (n : Nat) (x : Slot) : (s.setSlot n x).mem = s.mem := rfl

@[simp] theorem makeActive_wf (s : State) (p : Image) (h : s.mem.wf = true) : (s.makeActive p).mem.wf = true := by
  unfold State.makeActive
  dsimp only
  refine foldl_wf (fun s x h => ?_) _ _ ?_ <;> simp [h]

@[simp] theorem joinWord_wf (s : State) (r w : Nat) (h : s.mem.wf = true) : (s.joinWord r w).1.mem.wf = true := by
  unfold State.joinWord
  dsimp only
  (repeat' split) <;> simp [h]

@[simp] theorem joinWords_wf (s : State) (r : Nat) (ws : List Nat) (h : s.mem.wf = true) :
    (s.joinWords r ws).1.mem.wf = true := by
  induction ws generalizing s with
  | nil => exact h
  | cons w t ih => exact ih _ (joinWord_wf _ _ _ h)

@[simp] theorem pagePayload_wf (s : State) (key : Nat) (h : s.mem.wf = true) : (s.pagePayload key).1.mem.wf = true := by
  unfold State.pagePayload
  dsimp only
  (repeat' split) <;> simp [h]

@[simp] theorem putJoinWord_wf (s : State) (r w : Nat) (bad : Bool) (v : Nat) (h : s.mem.wf = true) :
    (s.putJoinWord r w bad v).mem.wf = true := by
  unfold State.putJoinWord
  dsimp only
  (repeat' split) <;> simp [h]

@[simp] theorem putPage_wf (s : State) (tick : Nat) (p : List Byte) (h : s.mem.wf = true) :
    (s.putPage tick p).mem.wf = true := by
  unfold State.putPage
  dsimp only
  (repeat' split) <;> simp +contextual [h, foldl_wf]

@[simp] theorem rebaseAges_mem (s : State) (tick : Nat) : (s.rebaseAges tick).mem = s.mem := rfl

@[simp] theorem takeCut_mem (s : State) (p : List Byte) : (s.takeCut p).mem = s.mem := by
  unfold State.takeCut
  dsimp only
  rw [modTask_mem, foldl_mem (fun s e => by simp), foldl_mem (fun s n => by simp), setFld_mem, foldl_mem (fun s n => by simp), rebaseAges_mem]

@[simp] theorem syncImg_wf (k : Nat) (ws : List Nat) (s : State) (h : s.mem.wf = true) :
    (State.syncImg k ws s).mem.wf = true := by
  induction k generalizing s with
  | zero => exact h
  | succ k ih =>
    unfold State.syncImg
    split
    · exact ih _ (storeFront_wf _ h)
    · exact h

@[simp] theorem writeImg_wf (s : State) (p : Patch) (h : s.mem.wf = true) : (s.writeImg p).1.mem.wf = true := by
  unfold State.writeImg
  dsimp only
  simp +contextual [h, foldl_fst_wf]

@[simp] theorem readImg_wf (s : State) (w : Who) (ws : List Nat) (n : Nat) (k : Sparse DWord → State → CcRes) (hk : ∀ d s,
    s.mem.wf = true → (k d s).state.mem.wf = true) (h : s.mem.wf = true) : (s.readImg w ws n k).state.mem.wf = true := by
  unfold State.readImg
  extract_lets u r
  have hu : u.mem.wf = true := syncImg_wf _ _ _ h
  have hr : r.1.mem.wf = true := readMany_wf hu _ _ _
  split
  · exact hu
  · split
    · exact hr
    · exact hk _ _ hr

@[simp] theorem storeSig_wf (s : State) (w : Who) (c : Ctx) (p : Patch) (h : s.mem.wf = true) :
    (s.storeSig w c p).state.mem.wf = true := by
  unfold State.storeSig
  extract_lets u r
  have hu : u.mem.wf = true := syncImg_wf _ _ _ h
  have hr : r.1.mem.wf = true := writeImg_wf _ _ hu
  split
  · exact hu
  · split
    · exact trap_wf _ _ _ _ (by rw [addClocks_mem]; exact hr)
    · exact hr

@[simp] theorem bufferStore_wf (s : State) (w : Who) (c : Ctx) (a z : Nat) (d : DWord) (h : s.mem.wf = true) :
    (s.bufferStore w c a z d).state.mem.wf = true := by
  unfold State.bufferStore
  extract_lets full k s1 q s2 s3
  have h1 : s1.mem.wf = true := by unfold s1 k; split <;> simp [h]
  have h2 : s2.mem.wf = true := by unfold s2 q; split <;> simp [h1]
  have h3 : s3.mem.wf = true := by unfold s3; split <;> simp [h2]
  split <;> exact h3

@[simp] theorem bridgeLoad_wf (s : State) (c : Ctx) (n o a z : Nat) (rt : BitVec 4) (h : s.mem.wf = true) :
    (s.bridgeLoad c n o a z rt).state.mem.wf = true := by
  unfold State.bridgeLoad
  dsimp only
  (repeat' split) <;> simp [h, CcRes.state]

@[simp] theorem bridgeStore_wf (s : State) (c : Ctx) (n o a z : Nat) (d : DWord) (h : s.mem.wf = true) :
    (s.bridgeStore c n o a z d).state.mem.wf = true := by
  unfold State.bridgeStore
  dsimp only
  (repeat' split) <;> simp [h, CcRes.state]

@[simp] theorem load_wf (s : State) (v : Vote) (z : Nat) (o : MemOp) (h : s.mem.wf = true) :
    (s.load v z o).mem.wf = true := by
  unfold State.load
  refine execCc_wf _ _ _ _ (fun w c s h => ?_) h
  dsimp only
  split
  · exact h
  · split
    · split
      · exact h
      · have hr := readWord_wf h
        split <;> exact hr _ _ _
    · exact h
    · simp [CcRes.state, h]
    · simp [CcRes.state, h]
    · split
      · exact bridgeLoad_wf _ _ _ _ _ _ _ h
      · exact h
    · exact h

@[simp] theorem store_wf (s : State) (v : Vote) (z : Nat) (o : MemOp) (h : s.mem.wf = true) :
    (s.store v z o).mem.wf = true := by
  unfold State.store
  refine execCc_wf _ _ _ _ (fun w c s h => ?_) h
  dsimp only
  split
  · exact h
  · split
    · exact bufferStore_wf _ _ _ _ _ _ h
    · exact bufferStore_wf _ _ _ _ _ _ h
    · split <;> exact regWrite_wf _ _ _ _ _ h
    · split <;> exact aliasWrite_wf _ _ _ _ _ _ h
    · split
      · exact bridgeStore_wf _ _ _ _ _ _ _ h
      · exact h
    · exact h

@[simp] theorem spurRead_wf (s : State) (addr size : Nat) (h : s.mem.wf = true) :
    (s.spurRead addr size).1.mem.wf = true := by
  unfold State.spurRead
  dsimp only
  (repeat' split) <;> simp [h]

@[simp] theorem spurWrite_wf (s : State) (addr size : Nat) (d : DWord) (h : s.mem.wf = true) :
    (s.spurWrite addr size d).1.mem.wf = true := by
  unfold State.spurWrite
  dsimp only
  (repeat' split) <;> simp [h]

@[simp] theorem sendCompletion_mem (s : State) (tag status addr : Nat) (data : List Byte) :
    (s.sendCompletion tag status addr data).mem = s.mem := by
  simp [State.sendCompletion]

@[simp] theorem postedIn_wf (s : State) (p : List Byte) (h : s.mem.wf = true) : (s.postedIn p).mem.wf = true := by
  unfold State.postedIn
  dsimp only
  (repeat' split) <;> simp [h]

@[simp] theorem requestIn_mem (s : State) (p : List Byte) : (s.requestIn p).mem = s.mem := by
  unfold State.requestIn
  split <;> simp

@[simp] theorem readLine_wf (s : State) (b k : Nat) (h : s.mem.wf = true) : (s.readLine b k).1.mem.wf = true := by
  induction k with
  | zero => exact h
  | succ k ih => exact spurRead_wf _ _ _ ih

@[simp] theorem serveRequest_wf (s : State) (h : s.mem.wf = true) : s.serveRequest.mem.wf = true := by
  unfold State.serveRequest
  dsimp only
  (repeat' split) <;> simp [h]

@[simp] theorem completionIn_mem (s : State) (n : Nat) (p : List Byte) : (s.completionIn n p).mem = s.mem := by
  unfold State.completionIn
  dsimp only
  (repeat' split) <;> simp

@[simp] theorem tunnelIn_wf (s : State) (n : Nat) (p : List Byte) (h : s.mem.wf = true) :
    (s.tunnelIn n p).mem.wf = true := by
  unfold State.tunnelIn
  dsimp only
  (repeat' split) <;> simp [h]

@[simp] theorem irqIn_wf (s : State) (n : Nat) (p : List Byte) (h : s.mem.wf = true) : (s.irqIn n p).mem.wf = true := by
  simp [h, State.irqIn]

@[simp] theorem streamAct_wf (s : State) (n : Nat) (f : RidgeFrame) (h : s.mem.wf = true) :
    (s.streamAct n f).mem.wf = true := by
  unfold State.streamAct
  (repeat' split) <;> simp [h]

@[simp] theorem ridgeFrame_wf (s : State) (east late : Bool) (f : RidgeFrame) (h : s.mem.wf = true) :
    (s.ridgeFrame east late f).mem.wf = true := by
  unfold State.ridgeFrame
  dsimp only
  (repeat' split) <;> simp [h]

@[simp] theorem receive_wf (s : State) (l : Nat) (f : LinkFrame) (g : State → LinkFrame → State) (hg : ∀ s x, s.mem.wf =
    true → (g s x).mem.wf = true) (h : s.mem.wf = true) : (s.receive l f g).mem.wf = true := by
  unfold State.receive
  exact foldl_wf hg _ _ (by simp [h])

@[simp] theorem ridgeAt_wf (s : State) (east late : Bool) (g : LinkFrame) (h : s.mem.wf = true) :
    (s.ridgeAt east late g).mem.wf = true := by
  unfold State.ridgeAt
  dsimp only
  (repeat' split) <;> simp [h]

@[simp] theorem ridgeRx_wf (s : State) (rx : RidgeRx) (late st : Bool) (h : s.mem.wf = true) :
    (s.ridgeRx rx late st).mem.wf = true := by
  unfold State.ridgeRx
  split
  · exact receive_wf _ _ _ _ (fun s g h => ridgeAt_wf _ _ _ _ h) h
  · exact h

@[simp] theorem beginJoin_wf (s : State) (why : Trigger) (h : s.mem.wf = true) : (s.beginJoin why).mem.wf = true := by
  simp [h, State.beginJoin]

@[simp] theorem pairRoleGo_wf (s : State) (h : s.mem.wf = true) : s.pairRoleGo.mem.wf = true := by
  unfold State.pairRoleGo
  (repeat' split) <;> simp [h]

@[simp] theorem joinFailed_wf (s : State) (a : Answer) (h : s.mem.wf = true) : (s.joinFailed a).mem.wf = true := by
  simp [h, State.joinFailed]

@[simp] theorem backToJoining_wf (s : State) (h : s.mem.wf = true) : s.backToJoining.mem.wf = true := by
  unfold State.backToJoining
  dsimp only
  (repeat' split) <;> simp [h]

@[simp] theorem rejoin_wf (s : State) (h : s.mem.wf = true) : s.rejoin.mem.wf = true := by
  unfold State.rejoin
  split <;> simp [h]

@[simp] theorem streamGap_wf (s : State) (h : s.mem.wf = true) : s.streamGap.mem.wf = true := by
  unfold State.streamGap
  dsimp only
  (repeat' split) <;> simp [h]

@[simp] theorem takeOver_wf (s : State) (h : s.mem.wf = true) : s.takeOver.mem.wf = true := by
  unfold State.takeOver
  dsimp only
  (repeat' split) <;> simp [h]

@[simp] theorem partnerLost_wf (s : State) (h : s.mem.wf = true) : s.partnerLost.mem.wf = true := by
  unfold State.partnerLost
  dsimp only
  (repeat' split) <;> simp [h]

@[simp] theorem setUnit_mem (s : State) (h : Hello) : (s.setUnit h).mem = s.mem := rfl

@[simp] theorem waitMode_wf (s : State) (m : Mode) (why : Trigger) (h : s.mem.wf = true) :
    (s.waitMode m why).mem.wf = true := by
  simp [h, State.waitMode]

@[simp] theorem dualActive_wf (s : State) (h : s.mem.wf = true) : s.dualActive.mem.wf = true := by
  simp [h, State.dualActive]

@[simp] theorem helloIn_wf (s : State) (f : ColFrame) (h : s.mem.wf = true) : (s.helloIn f).mem.wf = true := by
  unfold State.helloIn
  dsimp only
  (repeat' split) <;> simp [h]

@[simp] theorem joinReqIn_mem (s : State) (f : ColFrame) (delay : Nat) : (s.joinReqIn f delay).mem = s.mem := by
  unfold State.joinReqIn
  dsimp only
  (repeat' split) <;> simp

@[simp] theorem joinAckIn_wf (s : State) (f : ColFrame) (delay : Nat) (h : s.mem.wf = true) :
    (s.joinAckIn f delay).mem.wf = true := by
  unfold State.joinAckIn
  (repeat' split) <;> simp [h]

@[simp] theorem markIn_wf (s : State) (f : ColFrame) (h : s.mem.wf = true) : (s.markIn f).mem.wf = true := by
  unfold State.markIn
  dsimp only
  (repeat' split) <;> simp +contextual [h, foldl_wf]

@[simp] theorem abortIn_wf (s : State) (f : ColFrame) (h : s.mem.wf = true) : (s.abortIn f).mem.wf = true := by
  unfold State.abortIn
  (repeat' split) <;> simp [h]

@[simp] theorem colAct_wf (s : State) (delay : Nat) (f : ColFrame) (h : s.mem.wf = true) :
    (s.colAct delay f).mem.wf = true := by
  unfold State.colAct
  dsimp only
  (repeat' split) <;> simp [h]

@[simp] theorem runAhead_wf (k d : Nat) (s : State) (h : s.mem.wf = true) : (State.runAhead k d s).mem.wf = true := by
  induction k generalizing s with
  | zero => exact h
  | succ k ih =>
    unfold State.runAhead
    split
    · exact ih _ (colAct_wf _ _ _ h)
    · exact h

@[simp] theorem colTake_wf (s : State) (delay : Nat) (f : ColFrame) (h : s.mem.wf = true) :
    (s.colTake delay f).mem.wf = true := by
  unfold State.colTake
  dsimp only
  (repeat' split) <;> simp [h]

@[simp] theorem colAt_wf (s : State) (delay : Nat) (g : LinkFrame) (h : s.mem.wf = true) :
    (s.colAt delay g).mem.wf = true := by
  unfold State.colAt
  split <;> simp [h]

@[simp] theorem colRx_wf (s : State) (rx : ColRx) (delay : Nat) (h : s.mem.wf = true) :
    (s.colRx rx delay).mem.wf = true := by
  unfold State.colRx
  (repeat' split) <;> simp +contextual [h]

@[simp] theorem sendPages_wf (s : State) (h : s.mem.wf = true) : s.sendPages.mem.wf = true := by
  unfold State.sendPages
  exact foldl_wf (fun s x h => by dsimp only; simp [h]) _ _ h

@[simp] theorem sendMark_mem (s : State) (k : Nat) (switch : Bool) : (s.sendMark k switch).mem = s.mem := by
  unfold State.sendMark
  split <;> simp

@[simp] theorem sendDeferred_wf (s : State) (h : s.mem.wf = true) : s.sendDeferred.mem.wf = true := by
  unfold State.sendDeferred
  exact foldl_wf (fun s x h => by (repeat' split) <;> simp [h]) _ _ h

@[simp] theorem setEnc_mem (s : State) (e : Nat) (c : EncRt) : (s.setEnc e c).mem = s.mem := rfl

@[simp] theorem encStat_mem (s : State) (e : Nat) : (s.encStat e).mem = s.mem := by
  simp [State.encStat]

@[simp] theorem encWire_mem (s : State) (e : Nat) (w : Bool) : (s.encWire e w).mem = s.mem := by
  unfold State.encWire
  split <;> simp

@[simp] theorem encZ_mem (s : State) (e : Nat) (z : Word) : (s.encZ e z).mem = s.mem := by
  simp [State.encZ, apply_ite State.mem]

@[simp] theorem encIn_wf (s : State) (e into : Nat) (f : LinkFrame) (h : s.mem.wf = true) :
    (s.encIn e into f).mem.wf = true := by
  simp [h, State.encIn]

@[simp] theorem encSample_wf (s : State) (e into : Nat) (count : Word) (h : s.mem.wf = true) :
    (s.encSample e into count).mem.wf = true := by
  unfold State.encSample
  refine foldl_wf (fun s x h => ?_) _ _ ?_ <;> simp [h]

@[simp] theorem encIncr_wf (s : State) (e into : Nat) (delta : Int) (z : Option Int) (wire quad : Bool) (h : s.mem.wf =
    true) : (s.encIncr e into delta z wire quad).mem.wf = true := by
  unfold State.encIncr
  dsimp only
  (repeat' split) <;> simp [h]

@[simp] theorem encSsi_wf (s : State) (e into : Nat) (raw : Word) (wire lineError : Bool) (h : s.mem.wf = true) :
    (s.encSsi e into raw wire lineError).mem.wf = true := by
  unfold State.encSsi
  dsimp only
  (repeat' split) <;> simp [h]

@[simp] theorem scanEncoder_wf (s : State) (e into : Nat) (r : EncRead) (h : s.mem.wf = true) :
    (s.scanEncoder e into r).mem.wf = true := by
  unfold State.scanEncoder
  dsimp only
  (repeat' split) <;> simp [h]

@[simp] theorem deliverOne_wf (s : State) (l : Nat) (f : LinkFrame) (h : s.mem.wf = true) :
    (s.deliverOne l f).mem.wf = true := by
  unfold State.deliverOne
  (repeat' split) <;> simp [h]

@[simp] theorem deliverReleased_wf (s : State) (h : s.mem.wf = true) : s.deliverReleased.mem.wf = true := by
  unfold State.deliverReleased
  exact foldl_wf (fun s x h => by simp [h]) _ _ h

@[simp] theorem advance_mem (s : State) : s.advance.mem = s.mem := rfl

@[simp] theorem joinComplete_wf (s : State) (h : s.mem.wf = true) : s.joinComplete.mem.wf = true := by
  unfold State.joinComplete
  split <;> simp [h]

@[simp] theorem digestMismatch_mem (s : State) : s.digestMismatch.mem = s.mem := by
  simp [State.digestMismatch]

@[simp] theorem dropHeld_mem (s : State) : s.dropHeld.mem = s.mem := rfl

@[simp] theorem enterRide_wf (s : State) (h : s.mem.wf = true) : s.enterRide.mem.wf = true := by
  unfold State.enterRide
  dsimp only
  (repeat' split) <;> simp [h]

@[simp] theorem laneStops_wf (s : State) (h : s.mem.wf = true) : s.laneStops.mem.wf = true := by
  simp [h, State.laneStops]

@[simp] theorem leaveRide_wf (s : State) (h : s.mem.wf = true) : s.leaveRide.mem.wf = true := by
  unfold State.leaveRide
  (repeat' split) <;> simp [h]

@[simp] theorem degrade_wf (s : State) (h : s.mem.wf = true) : s.degrade.mem.wf = true := by
  unfold State.degrade
  split <;> simp [h]

@[simp] theorem waitedMode_wf (s : State) (w : ModeWait) (h : s.mem.wf = true) : (s.waitedMode w).mem.wf = true := by
  unfold State.waitedMode
  dsimp only
  (repeat' split) <;> simp [h]

@[simp] theorem modeStep_wf (s : State) (h : s.mem.wf = true) : s.modeStep.mem.wf = true := by
  unfold State.modeStep
  dsimp only
  (repeat' split) <;> simp [h]

@[simp] theorem rejoinStep_wf (s : State) (h : s.mem.wf = true) : s.rejoinStep.mem.wf = true := by
  unfold State.rejoinStep
  split <;> simp [h]

@[simp] theorem injectionStep_mem (s : State) : s.injectionStep.mem = s.mem := by
  simp [State.injectionStep, apply_ite State.mem]

@[simp] theorem forceStep_mem (s : State) : s.forceStep.mem = s.mem := by
  unfold State.forceStep
  dsimp only
  (repeat' split) <;> simp

@[simp] theorem probe_wf (s : State) (v0 v1 : Verdict) (h : s.mem.wf = true) : (s.probe v0 v1).mem.wf = true := by
  unfold State.probe
  dsimp only
  (repeat' split) <;> simp [h]

@[simp] theorem boundaryLinks_wf (s : State) (h : s.mem.wf = true) : s.boundaryLinks.mem.wf = true := by
  unfold State.boundaryLinks
  extract_lets s1 s2 s3 s4 s5 s6 s7 s8
  have h6 : s6.mem.wf = true := by
    unfold s6 s5 s4 s3 s2 s1
    rw [foldl_mem (fun s i => by simp), foldl_mem (fun s i => by simp), foldl_mem (fun s i => by split <;> simp), foldl_mem (fun s i => by split <;> simp), applyStaged_mem, applyStaged_mem]
    exact h
  have h7 : s7.mem.wf = true := deliverReleased_wf _ h6
  have h8 : s8.mem.wf = true := by unfold s8; split <;> simp [h7]
  split <;> simp [h8]

@[simp] theorem commitHeld_wf (s : State) (h : s.mem.wf = true) : s.commitHeld.mem.wf = true := by
  unfold State.commitHeld
  exact foldl_wf (fun s x h => by dsimp only; (repeat' split) <;> simp [h]) _ _ h

@[simp] theorem countOverrun_mem (s : State) (w : Who) : (s.countOverrun w).mem = s.mem := by
  simp [State.countOverrun]

@[simp] theorem releaseTasks_wf (s : State) (h : s.mem.wf = true) : s.releaseTasks.mem.wf = true := by
  unfold State.releaseTasks
  dsimp only
  simp +contextual [h, foldl_wf]

@[simp] theorem cycleStep_wf (s : State) (b : Bool) (h : s.mem.wf = true) : (s.cycleStep b).mem.wf = true := by
  unfold State.cycleStep
  dsimp only
  have h1 : (if s.colState = colSyncStandby ∧ s.col.markMode = 0xA then s.dropHeld else s).mem.wf = true := by split <;> simp [h]
  generalize (if s.colState = colSyncStandby ∧ s.col.markMode = 0xA then s.dropHeld else s) = u at *
  split
  · split <;> exact h
  · split
    · exact drainAll_wf _ h1
    · exact dispatch_wf _ (releaseTasks_wf _ (commitHeld_wf _ h1))

@[simp] theorem boundary_wf (s : State) (a b : Verdict) (h : s.mem.wf = true) : (s.boundary a b).mem.wf = true := by
  unfold State.boundary
  extract_lets s1 s2 s3 s4 sw s5 _ s6 s7
  have h2 : s2.mem.wf = true := by unfold s2 s1; simp [h]
  have h3 : s3.mem.wf = true := by unfold s3; split <;> simp [h2]
  have h4 : s4.mem.wf = true := by unfold s4; simp [h3]
  have h5 : s5.mem.wf = true := by unfold s5; simp [h4]
  have h6 : s6.mem.wf = true := probe_wf _ _ _ h5
  have h7 : s7.mem.wf = true := cycleStep_wf _ _ (boundaryLinks_wf _ h6)
  simp [h7]

@[simp] theorem cmdStat_mem (s : State) : s.cmdStat.mem = s.mem := rfl

@[simp] theorem leaveUpdate_wf (s : State) (h : s.mem.wf = true) : s.leaveUpdate.mem.wf = true := by
  unfold State.leaveUpdate
  dsimp only
  (repeat' split) <;> simp [h]

@[simp] theorem endSession_wf (s : State) (trig : Bool) (num : Nat) (h : s.mem.wf = true) :
    (s.endSession trig num).mem.wf = true := by
  unfold State.endSession
  dsimp only
  (repeat' split) <;> simp [h]

@[simp] theorem deny_wf (s : State) (op : Nat) (r : Req) (d : Nat) (h : s.mem.wf = true) :
    (s.deny op r d).state.mem.wf = true :=
  refuse_wf _ _ _ _ h

@[simp] theorem tagGate_wf (s : State) (op : Nat) (r : Req) (kept : Option Kept) (last : Option (BitVec 16)) (other : State
    → State) (go : State → Gate) (ho : ∀ s, s.mem.wf = true → (other s).mem.wf = true) (hg : ∀ s, s.mem.wf = true → (go
    s).state.mem.wf = true) (h : s.mem.wf = true) : (s.tagGate op r kept last other go).state.mem.wf = true := by
  unfold State.tagGate
  dsimp only
  split
  · exact refuse_wf _ _ _ _ (ho _ h)
  · split
    · split
      · refine (?_ : (State.answered _ _ _).mem.wf = true)
        split <;> simp [h]
      · exact refuse_wf _ _ _ _ (ho _ h)
    · split
      · split
        · exact hg _ h
        · exact deny_wf _ _ _ _ (ho _ h)
      · exact hg _ h

@[simp] theorem openGate_wf (s : State) (r : Req) (g : Gate) (hg : g.state.mem.wf = true) (h : s.mem.wf = true) :
    (s.openGate r g).state.mem.wf = true := by
  unfold State.openGate
  dsimp only
  (repeat' split) <;> simp only [hg, deny_wf _ _ _ _ h]

@[simp] theorem gate_wf (s : State) (op : Nat) (r : Req) (h : s.mem.wf = true) : (s.gate op r).state.mem.wf = true := by
  unfold State.gate
  extract_lets d count kept
  have hc : ∀ s : State, s.mem.wf = true → (count s).mem.wf = true := fun s h => by unfold count; split <;> simp [h]
  split
  · split
    · split
      · exact deny_wf _ _ _ _ h
      · exact tagGate_wf _ _ _ _ _ _ _ (fun s h => h) hc h
    · split
      · exact deny_wf _ _ _ _ h
      · split
        · exact openGate_wf _ _ _ (tagGate_wf _ _ _ _ _ _ _ (fun s h => h) hc h) h
        · split
          · exact deny_wf _ _ _ _ h
          · exact tagGate_wf _ _ _ _ _ _ _ (fun s h => h) hc h
  · split
    · exact deny_wf _ _ _ _ h
    · next x _ =>
      split
      · exact deny_wf _ _ _ _ h
      · split
        · exact deny_wf _ _ _ _ h
        · extract_lets used tags
          have hu : ∀ t (s : State), s.mem.wf = true → (used t s).mem.wf = true := fun t s h => by
            unfold used
            dsimp only
            split <;> simp [h]
          have ht : tags.state.mem.wf = true := tagGate_wf _ _ _ _ _ _ _ (hu _) (fun s h => hc _ (hu _ _ h)) h
          split
          · exact openGate_wf _ _ _ ht h
          · split
            · exact deny_wf _ _ _ _ h
            · exact ht

@[simp] theorem forwardBytes_wf (s : State) (op : Nat) (r : Req) (b : List Byte) (h : s.mem.wf = true) :
    (s.forwardBytes op r b).mem.wf = true := by
  unfold State.forwardBytes
  dsimp only
  (repeat' split) <;> simp [h]

@[simp] theorem forwardPacket_wf (s : State) (op : Nat) (r : Req) (h : s.mem.wf = true) :
    (s.forwardPacket op r).mem.wf = true := by
  simp [h, State.forwardPacket]

@[simp] theorem arrival_wf (s : State) (transport source : Nat) (forwarded : Bool) (b : List Byte) (h : s.mem.wf = true) :
    (s.arrival transport source forwarded b).1.mem.wf = true := by
  unfold State.arrival
  dsimp only
  (repeat' split) <;> simp +contextual [h, foldl_wf]

end Sys2Proof.Machine

end

-- ==== Sys2Proof/Proofs/CanonicalServe.lean ====

section
-- In order, not in parallel: each parallel thread reserves its whole stack of the check's memory.
set_option Elab.async false

/-! SUPPORT. The canonical form of the memory under the gate of a request and what requests start. -/

namespace Sys2Proof.Machine

@[simp] theorem withPacket_wf (s : State) (op : Nat) (r : Req) (act : State → State) (h4 : ∀ x, x.mem.wf = true → (act
    x).mem.wf = true) (h : s.mem.wf = true) : (s.withPacket op r act).mem.wf = true := by
  unfold State.withPacket
  dsimp only
  (repeat' split) <;> simp [h, h4]

@[simp] theorem checked_wf (s : State) (c : CmdSpec) (r : Req) (role : Option Role) (act : State → State) (h5 : ∀ x,
    x.mem.wf = true → (act x).mem.wf = true) (h : s.mem.wf = true) : (s.checked c r role act).mem.wf = true := by
  unfold State.checked
  (repeat' split) <;> simp [h, h5]

@[simp] theorem sendAway_wf (s : State) (op : Nat) (r : Req) (h : s.mem.wf = true) : (s.sendAway op r).mem.wf = true := by
  unfold State.sendAway
  (repeat' split) <;> simp [h]

@[simp] theorem serveWith_wf (s : State) (c : CmdSpec) (r : Req) (act : Option Role → Option Armed → State → State) (ha : ∀
    y0 y1 x, x.mem.wf = true → (act y0 y1 x).mem.wf = true) (h : s.mem.wf = true) : (s.serveWith c r act).mem.wf = true :=
    by
  unfold State.serveWith
  refine withPacket_wf _ _ _ _ (fun s h => ?_) h
  split
  · simp [h]
  · split
    · simp [h]
    · have hg := gate_wf s c.op r h
      split <;> next e => (rw [e] at hg; simp_all [Gate.state])

@[simp] theorem serve_wf (s : State) (c : CmdSpec) (r : Req) (act : State → State) (h4 : ∀ x, x.mem.wf = true → (act
    x).mem.wf = true) (h : s.mem.wf = true) : (s.serve c r act).mem.wf = true := by
  unfold State.serve
  simp +contextual [h, h4]

@[simp] theorem serveAnswer_wf (s : State) (c : CmdSpec) (r : Req) (act : State → State × Answer) (ha : ∀ x, x.mem.wf = true
    → (act x).1.mem.wf = true) (h : s.mem.wf = true) : (s.serveAnswer c r act).mem.wf = true :=
  serve_wf _ _ _ _ (fun s h => finish_wf _ _ _ _ (ha s h)) h

@[simp] theorem arm_mem (s : State) (r : Req) (a : Armed) : (s.arm r a).mem = s.mem := by
  unfold State.arm
  split <;> simp

@[simp] theorem twoSteps_wf (s : State) (op : Nat) (r : Req) (armed : Option Armed) (chk : State → Option Answer × State)
    (go : State → State) (h5 : ∀ x, x.mem.wf = true → (chk x).2.mem.wf = true) (h6 : ∀ x, x.mem.wf = true → (go x).mem.wf =
    true) (h : s.mem.wf = true) : (s.twoSteps op r armed chk go).mem.wf = true := by
  unfold State.twoSteps
  dsimp only
  (repeat' split) <;> simp [h, h5, h6]

@[simp] theorem beginLong_mem (s : State) (op : Nat) (r : Req) (background : Bool) (a : Answer) :
    (s.beginLong op r background a).mem = s.mem := rfl

@[simp] theorem supersede_wf (s : State) (h : s.mem.wf = true) : s.supersede.mem.wf = true := by
  unfold State.supersede
  dsimp only
  (repeat' split) <;> simp [h]

@[simp] theorem setSi_mem (s : State) (i : Nat) (x : SiRt) : (s.setSi i x).mem = s.mem := rfl

@[simp] theorem setSo_mem (s : State) (k : Nat) (x : SoRt) : (s.setSo k x).mem = s.mem := rfl

@[simp] theorem setInst_mem (s : State) (i : Nat) (x : InstRt) : (s.setInst i x).mem = s.mem := rfl

@[simp] theorem setSs_mem (s : State) (i st : Nat) : (s.setSs i st).mem = s.mem := by
  simp [State.setSs]

@[simp] theorem soOff_mem (s : State) (k : Nat) : (s.soOff k).mem = s.mem := by
  unfold State.soOff
  split <;> simp

@[simp] theorem stoBit_mem (s : State) (i : Nat) : (s.stoBit i).mem = s.mem := rfl

@[simp] theorem lockOut_mem (s : State) (i : Nat) (c : LockCause) : (s.lockOut i c).mem = s.mem := by
  simp [State.lockOut]

@[simp] theorem faultLock_mem (s : State) (i : Nat) (c : LockCause) : (s.faultLock i c).mem = s.mem := by
  simp [State.faultLock, apply_ite State.mem]

@[simp] theorem siFault_mem (s : State) (i : Nat) : (s.siFault i).mem = s.mem := by
  simp [State.siFault]

@[simp] theorem scanSi_mem (s : State) (i : Nat) : (s.scanSi i).mem = s.mem := by
  simp [State.scanSi, apply_ite State.mem]

@[simp] theorem scanSpeed_mem (s : State) (i : Nat) : (s.scanSpeed i).mem = s.mem := by
  simp [State.scanSpeed, apply_ite State.mem]

@[simp] theorem soFail_mem (s : State) (k : Nat) : (s.soFail k).mem = s.mem := by
  unfold State.soFail
  dsimp only
  (repeat' split) <;> simp

@[simp] theorem soReport_mem (s : State) (n : Nat) : (s.soReport n).mem = s.mem := by
  unfold State.soReport
  (repeat' split) <;> simp

@[simp] theorem scanSo_mem (s : State) (k : Nat) : (s.scanSo k).mem = s.mem := by
  simp [State.scanSo, apply_ite State.mem]

@[simp] theorem driveSo_mem (s : State) (k : Nat) (before : Nat → Nat) : (s.driveSo k before).mem = s.mem := by
  simp [State.driveSo, apply_ite State.mem]

@[simp] theorem resetRefused_mem (s : State) : s.resetRefused.mem = s.mem := rfl

@[simp] theorem scanReset_mem (s : State) (i : Nat) : (s.scanReset i).mem = s.mem := by
  simp [State.scanReset, apply_ite State.mem]

@[simp] theorem scanInst_mem (s : State) (i : Nat) : (s.scanInst i).mem = s.mem := by
  unfold State.scanInst
  dsimp only
  (repeat' split) <;> simp

@[simp] theorem scanEval_mem (s : State) (mis : Bool) : (s.scanEval mis).mem = s.mem := by
  simp [State.scanEval, apply_ite State.mem, foldl_mem]

@[simp] theorem scanSafety_wf (s : State) (m : Bool) (h : s.mem.wf = true) : (s.scanSafety m).mem.wf = true := by
  unfold State.scanSafety
  refine acquire_wf _ _ _ ?_
  rw [foldl_mem (fun s i => by simp), foldl_mem (fun s i => by simp), foldl_mem (fun s i => by simp), scanEval_mem, foldl_mem (fun s i => by simp), foldl_mem (fun s i => by simp)]
  exact h

@[simp] theorem pendingEntry_mem (s : State) (op : Nat) (r : Req) (state : Nat) :
    (s.pendingEntry op r state).1.mem = s.mem := rfl

@[simp] theorem pendingBytes_mem (s : State) : s.pendingBytes.1.mem = s.mem := by
  unfold State.pendingBytes
  dsimp only
  (repeat' split) <;> simp

@[simp] theorem summaryNow_mem (s : State) : s.summaryNow.1.mem = s.mem := by
  simp [State.summaryNow]

@[simp] theorem takeSummary_mem (s : State) : s.takeSummary.mem = s.mem := by
  simp [State.takeSummary]

@[simp] theorem summary_mem (s : State) (r : Req) : (s.summary r).1.mem = s.mem := by
  unfold State.summary
  split <;> simp

@[simp] theorem restartT7_mem (s : State) : s.restartT7.mem = s.mem := by
  simp [State.restartT7]

@[simp] theorem beginReload_wf (s : State) (l : Lane) (h : s.mem.wf = true) : (s.beginReload l).mem.wf = true := by
  simp [h, State.beginReload]

@[simp] theorem endReload_wf (s : State) (l : Lane) (copies : Copies) (readback : Bool) (h : s.mem.wf = true) :
    (s.endReload l copies readback).mem.wf = true := by
  unfold State.endReload
  dsimp only
  (repeat' split) <;> simp [h]

@[simp] theorem lapEnd_wf (s : State) (h : s.mem.wf = true) : s.lapEnd.mem.wf = true := by
  unfold State.lapEnd
  dsimp only
  (repeat' split) <;> simp [h]

@[simp] theorem scrubStep_wf (s : State) (n first w : Nat) (h : s.mem.wf = true) :
    (s.scrubStep n first w).mem.wf = true := by
  unfold State.scrubStep
  dsimp only
  (repeat' split) <;> simp [h]

@[simp] theorem sessOpen_wf (s : State) (r : Req) (h : s.mem.wf = true) : (s.sessOpen r).mem.wf = true := by
  unfold State.sessOpen
  split
  · next t role e _ =>
    have ht : t.mem.wf = true := by
      unfold State.freeSlot at e
      dsimp only at e
      (repeat' split at e) <;> cases e <;> simp [h]
    dsimp only
    refine finishWith_wf _ _ _ _ _ _ ?_
    split <;> simp [ht]
  · simp [h]

@[simp] theorem sessClose_wf (s : State) (r : Req) (h : s.mem.wf = true) : (s.sessClose r).mem.wf = true := by
  simp [h, State.sessClose]

@[simp] theorem startInit_wf (s : State) (w : ModeWait) (h : s.mem.wf = true) : (s.startInit w).mem.wf = true := by
  simp [h, State.startInit]

@[simp] theorem modeGo_wf (s : State) (t : Mode) (r : Req) (h : s.mem.wf = true) : (s.modeGo t r).mem.wf = true := by
  unfold State.modeGo
  dsimp only
  have h1 : (if t = .run then { s with sup.startLoop := 0 } else s : State).mem.wf = true := by split <;> exact h
  generalize (if t = .run then { s with sup.startLoop := 0 } else s : State) = u at *
  split
  case h_7 => exact h1
  case h_4 => exact finish_wf _ _ _ _ (answerLong_wf _ _ _ (changeMode_wf _ _ _ h1))
  all_goals simp [h1]

@[simp] theorem modeReq_wf (s : State) (r : Req) (role : Option Role) (h : s.mem.wf = true) :
    (s.modeReq r role).mem.wf = true := by
  unfold State.modeReq
  dsimp only
  (repeat' split) <;> simp [h]

@[simp] theorem slotBytes_wf (s : State) (n len : Nat) (h : s.mem.wf = true) : (s.slotBytes n len).1.mem.wf = true := by
  unfold State.slotBytes
  dsimp only
  (repeat' split) <;> simp [h]

@[simp] theorem writePiece_wf (s : State) (n off : Nat) (b : List Byte) (h : s.mem.wf = true) :
    (s.writePiece n off b).1.mem.wf = true := by
  simp [h, State.writePiece]

@[simp] theorem writeSlot_wf (s : State) (n k off : Nat) (b : List Byte) (h : s.mem.wf = true) :
    (s.writeSlot n k off b).1.mem.wf = true := by
  induction k generalizing s off b with
  | zero => exact h
  | succ k ih => unfold State.writeSlot; dsimp only; (repeat' split) <;> simp [ih, h]

@[simp] theorem setResult_mem (s : State) (n : Nat) (x : Slot) : (s.setResult n x).mem = s.mem := rfl

@[simp] theorem verifySlot_wf (s : State) (id : Word) (p : Image) (h : s.mem.wf = true) :
    (s.verifySlot id p).1.mem.wf = true := by
  unfold State.verifySlot
  dsimp only
  (repeat' split) <;> simp [h]

@[simp] theorem switchNow_wf (s : State) (p : Image) (h : s.mem.wf = true) : (s.switchNow p).mem.wf = true := by
  simp [h, State.switchNow]

@[simp] theorem countErase_mem (s : State) (part : Nat) : (s.countErase part).mem = s.mem := rfl

@[simp] theorem setFlashSlot_mem (s : State) (k : Nat) (x : Option (Word × List Byte)) :
    (s.setFlashSlot k x).mem = s.mem := rfl

@[simp] theorem loadSlot_wf (s : State) (n : Nat) (id : Word) (b : List Byte) (h : s.mem.wf = true) :
    (s.loadSlot n id b).mem.wf = true := by
  simp [h, State.loadSlot]

@[simp] theorem waitForce_mem (s : State) (c : ForceChange) : (s.waitForce c).mem = s.mem := rfl

@[simp] theorem putConfirmed_mem (s : State) (c : Option (Word × Nat)) : (s.putConfirmed c).mem = s.mem := rfl

@[simp] theorem confRo_mem (s : State) (page off lo width : Nat) : (s.confRo page off lo width).mem = s.mem := rfl

@[simp] theorem stage_mem (s : State) (k : Nat) (v : Word) : (s.stage k v).mem = s.mem := by
  unfold State.stage
  split <;> simp

@[simp] theorem confWrite_wf (s : State) (page off block a4 : Nat) (h : s.mem.wf = true) :
    (s.confWrite page off block a4).mem.wf = true := by
  unfold State.confWrite
  dsimp only
  (repeat' split) <;> simp [h]

@[simp] theorem confPage_wf (s : State) (page : Nat) (h : s.mem.wf = true) : (s.confPage page).mem.wf = true := by
  unfold State.confPage
  exact foldl_wf (fun s x h => by simp [h]) _ _ h

@[simp] theorem confRole_wf (s : State) (h : s.mem.wf = true) : s.confRole.mem.wf = true := by
  unfold State.confRole
  extract_lets role st s1 s2
  split
  · exact h
  · have h1 : s1.mem.wf = true := foldl_wf (fun s n h => setEnable_wf _ _ _ h) _ _ h
    have h2 : s2.mem.wf = true := setEnable_wf _ _ _ h1
    rw [setFld_mem, setFld_mem]
    exact h2

@[simp] theorem confFields_mem (s : State) : s.confFields.mem = s.mem := by
  simp [State.confFields]

@[simp] theorem confAgents_mem (s : State) : s.confAgents.mem = s.mem := by
  unfold State.confAgents
  exact foldl_mem (fun _ _ => by simp) _ _

@[simp] theorem confChannel_wf (s : State) (n : Nat) (h : s.mem.wf = true) : (s.confChannel n).mem.wf = true := by
  unfold State.confChannel
  dsimp only
  (repeat' split) <;> simp [h]

@[simp] theorem confFieldUnit_wf (s : State) (h : s.mem.wf = true) : s.confFieldUnit.mem.wf = true := by
  unfold State.confFieldUnit
  refine foldl_wf (fun s t h => confWrite_wf _ _ _ _ _ h) _ _ ?_
  rw [flag_mem]
  exact foldl_wf (fun s t h => confChannel_wf _ _ h) _ _ h

@[simp] theorem confSafety_mem (s : State) : s.confSafety.mem = s.mem := by
  unfold State.confSafety
  dsimp only
  split
  · rw [putConfirmed_mem, setFld_mem, foldl_mem (fun s k => by simp)]
  · rw [setFld_mem, foldl_mem (fun s k => by simp)]

@[simp] theorem confMaps_mem (s : State) : s.confMaps.mem = s.mem := rfl

@[simp] theorem applyConfig_wf (s : State) (h : s.mem.wf = true) : s.applyConfig.mem.wf = true := by
  unfold State.applyConfig
  extract_lets s1 s2 s3 s4
  have h1 : s1.mem.wf = true := by unfold s1; simp [h]
  have h2 : s2.mem.wf = true := foldl_wf (fun s p h => by simp [h]) _ _ h1
  have h3 : s3.mem.wf = true := foldl_wf (fun s p h => confWrite_wf _ _ _ _ _ h) _ _ h2
  have h4 : s4.mem.wf = true := by unfold s4; rw [setFld_mem, setFld_mem]; exact h3
  rw [confMaps_mem, confSafety_mem]
  exact confFieldUnit_wf _ h4

@[simp] theorem closeRoles_wf (s : State) (rs : List Role) (h : s.mem.wf = true) : (s.closeRoles rs).mem.wf = true := by
  unfold State.closeRoles
  exact foldl_wf (fun s x h => by simp [h]) _ _ h

@[simp] theorem commitEdit_wf (s : State) (h : s.mem.wf = true) : s.commitEdit.mem.wf = true := by
  unfold State.commitEdit
  split
  · exact h
  · exact closeRoles_wf _ _ (changeMode_wf _ _ _ (applyConfig_wf _ (by rw [dropEdit_mem, countErase_mem]; exact h)))

@[simp] theorem cfgOpen_wf (s : State) (r : Req) (h : s.mem.wf = true) : (s.cfgOpen r).mem.wf = true := by
  unfold State.cfgOpen
  refine finish_wf _ _ _ _ (changeMode_wf _ _ _ ?_)
  rw [flag_mem]
  exact supersede_wf _ h

@[simp] theorem editBytes_mem (s : State) (block off : Nat) (b : List Byte) : (s.editBytes block off b).mem = s.mem := by
  unfold State.editBytes
  split <;> simp

@[simp] theorem setCairn_mem (s : State) (k : RecClass) (c : CairnClass) : (s.setCairn k c).mem = s.mem := by
  unfold State.setCairn
  split <;> simp

@[simp] theorem streamRecord_wf (s : State) (r : Record) (closed : Bool) (h : s.mem.wf = true) :
    (s.streamRecord r closed).mem.wf = true := by
  unfold State.streamRecord
  dsimp only
  (repeat' split) <;> simp [h]

@[simp] theorem closeOpen_wf (s : State) (k : RecClass) (h : s.mem.wf = true) : (s.closeOpen k).mem.wf = true := by
  unfold State.closeOpen
  dsimp only
  (repeat' split) <;> simp [h]

@[simp] theorem newRecord_wf (s : State) (r : Report) (h : s.mem.wf = true) : (s.newRecord r).mem.wf = true := by
  unfold State.newRecord
  dsimp only
  (repeat' split) <;> simp [h]

@[simp] theorem takeRecord_wf (s : State) (r : Report) (h : s.mem.wf = true) : (s.takeRecord r).mem.wf = true := by
  unfold State.takeRecord
  dsimp only
  (repeat' split) <;> simp [h]

@[simp] theorem intakeOne_wf (s : State) (h : s.mem.wf = true) : s.intakeOne.mem.wf = true := by
  unfold State.intakeOne
  split <;> simp [h]

@[simp] theorem intakeAll_wf (s : State) (h : s.mem.wf = true) : s.intakeAll.mem.wf = true := by
  unfold State.intakeAll
  generalize (s.cairn.intake.foldl (fun n e => n + e.2.length) 0) = n
  induction n with
  | zero => exact h
  | succ n ih => exact intakeOne_wf _ ih

@[simp] theorem activate_wf (s : State) (r : Req) (h : s.mem.wf = true) : (s.activate r).mem.wf = true := by
  unfold State.activate
  split <;> simp [h]

@[simp] theorem setSwap_mem (s : State) : s.setSwap.mem = s.mem := rfl

@[simp] theorem swapGo_mem (s : State) (r : Req) : (s.swapGo r).mem = s.mem := by
  simp [State.swapGo, apply_ite State.mem]

@[simp] theorem restoreLane_wf (s : State) (l : Lane) (h : s.mem.wf = true) : (s.restoreLane l).mem.wf = true := by
  simp [h, State.restoreLane]

@[simp] theorem bitOp_wf (s : State) (v : Vote) (o : SbOp) (f : Word → Word → Word) (h : s.mem.wf = true) :
    (s.bitOp v o f).mem.wf = true := by
  unfold State.bitOp
  refine execCc_wf _ _ _ _ (fun w c s h => ?_) h
  dsimp only
  split
  · exact h
  · exact readImg_wf _ _ _ _ _ (fun d s h => h) h

@[simp] theorem bitWrite_wf (s : State) (v : Vote) (o : SbOp) (m : Nat) (on b : Ctx → Nat → Bool) (h : s.mem.wf = true) :
    (s.bitWrite v o m on b).mem.wf = true := by
  unfold State.bitWrite
  refine execCc_wf _ _ _ _ (fun w c s h => ?_) h
  dsimp only
  split
  · exact h
  · exact storeSig_wf _ _ _ _ h

@[simp] theorem popOp_wf (s : State) (v : Vote) (b : Bool) (h : s.mem.wf = true) : (s.popOp v b).mem.wf = true := by
  unfold State.popOp
  refine execCc_wf _ _ _ _ (fun w c s h => ?_) h
  split <;> exact h

@[simp] theorem floatOp_wf (s : State) (v : Vote) (clocks : Nat) (f : Ctx → FpRes) (h : s.mem.wf = true) :
    (s.floatOp v clocks f).mem.wf = true := by
  simp [h, State.floatOp]

@[simp] theorem drainClocks_mem (s : State) : s.drainClocks.2.mem = s.mem := by
  unfold State.drainClocks
  split <;> simp

@[simp] theorem endClocks_mem (s : State) : s.endClocks.2.mem = s.mem := by
  unfold State.endClocks
  dsimp only
  (repeat' split) <;> simp

@[simp] theorem aluOp_wf (s : State) (v : Vote) (clocks : Nat) (o : RegOp) (f : Word → Word → Flags → Word × Flags) (h :
    s.mem.wf = true) : (s.aluOp v clocks o f).mem.wf = true := by
  simp [h, State.aluOp]

@[simp] theorem divOp_wf (s : State) (v : Vote) (o : RegOp) (f : Word → Word → Word × Bool) (h : s.mem.wf = true) :
    (s.divOp v o f).mem.wf = true := by
  unfold State.divOp
  refine execCc_wf _ _ _ _ (fun w c s h => ?_) h
  dsimp only
  split <;> exact h

@[simp] theorem immOp_wf (s : State) (v : Vote) (o : ImmOp) (b : Word) (f : Word → Word → Flags → Word × Flags) (h :
    s.mem.wf = true) : (s.immOp v o b f).mem.wf = true := by
  simp [h, State.immOp]

@[simp] theorem wordRead_wf (s : State) (v : Vote) (ix : BitVec 4) (sid : BitVec 18) (loc : Nat → Nat) (f : Ctx → Nat →
    Sparse DWord → Ctx) (h : s.mem.wf = true) : (s.wordRead v ix sid loc f).mem.wf = true := by
  unfold State.wordRead
  refine execCc_wf _ _ _ _ (fun w c s h => ?_) h
  dsimp only
  split
  · exact h
  · exact readImg_wf _ _ _ _ _ (fun d s h => h) h

@[simp] theorem wordWrite_wf (s : State) (v : Vote) (ix : BitVec 4) (sid : BitVec 18) (p : Ctx → Nat → Patch) (h : s.mem.wf
    = true) : (s.wordWrite v ix sid p).mem.wf = true := by
  unfold State.wordWrite
  refine execCc_wf _ _ _ _ (fun w c s h => ?_) h
  dsimp only
  split
  · exact h
  · exact storeSig_wf _ _ _ _ h

@[simp] theorem colType_wf (s : State) (type : Nat) (rx : ColRx) (delay : Nat) (h : s.mem.wf = true) :
    (s.colType type rx delay).mem.wf = true := by
  unfold State.colType
  split <;> simp [h]

@[simp] theorem laneDown_mem (s : State) (lane2 : Bool) : (s.laneDown lane2).mem = s.mem := by
  unfold State.laneDown
  split <;> simp

@[simp] theorem fiArm_mem (s : State) (l kind dir select npar apar : Nat) (seed : Word) (payload : List Byte) :
    (s.fiArm l kind dir select npar apar seed payload).mem = s.mem := by
  simp [State.fiArm]

@[simp] theorem fiPermit_mem (s : State) : s.fiPermit.mem = s.mem := by
  simp [State.fiPermit]

@[simp] theorem fiExpire_mem (s : State) (l : Nat) : (s.fiExpire l).mem = s.mem := by
  unfold State.fiExpire
  split <;> simp

@[simp] theorem shutInputs_wf (s : State) (h : s.mem.wf = true) : s.shutInputs.mem.wf = true := by
  unfold State.shutInputs
  exact foldl_wf (fun s x h => by (repeat' split) <;> simp [h]) _ _ h

@[simp] theorem diagnose_mem (s : State) (n : Nat) (c : Cond) (yes no : Nat) : (s.diagnose n c yes no).mem = s.mem := by
  simp [State.diagnose, apply_ite State.mem]

@[simp] theorem unassigned_wf (s : State) (op : Nat) (r : Req) (h : s.mem.wf = true) :
    (s.unassigned op r).mem.wf = true := by
  unfold State.unassigned
  have hg := gate_wf s op r h
  split
  · next e => rw [e] at hg; exact hg
  · next e => rw [e] at hg; exact finish_wf _ _ _ _ hg

@[simp] theorem putDesk_mem (s : State) (trig : Bool) (d : Desk) : (s.putDesk trig d).mem = s.mem := by
  unfold State.putDesk
  split <;> simp

@[simp] theorem trigPage_mem (s : State) : s.trigPage.mem = s.mem := by
  simp [State.trigPage]

@[simp] theorem onTrig_mem (s : State) (f : Trig → Trig) : (s.onTrig f).mem = s.mem := rfl

@[simp] theorem trigWindow_wf (s : State) (h : s.mem.wf = true) : s.trigWindow.mem.wf = true := by
  simp [h, State.trigWindow]

@[simp] theorem trigPeriod_wf (s : State) (flags : Nat) (h : s.mem.wf = true) : (s.trigPeriod flags).mem.wf = true := by
  unfold State.trigPeriod
  split <;> simp [h]

@[simp] theorem trigDue_wf (s : State) (h : s.mem.wf = true) : s.trigDue.mem.wf = true := by
  unfold State.trigDue
  dsimp only
  (repeat' split) <;> simp [h]

@[simp] theorem posSignal_wf (s : State) (off : Nat) (h : s.mem.wf = true) : (s.posSignal off).1.mem.wf = true := by
  unfold State.posSignal
  dsimp only
  (repeat' split) <;> simp [h]

@[simp] theorem trigServe_wf (s : State) (op : Nat) (roles : Roles) (len : Nat → Option Nat) (r : Req) (act : Option Armed →
    State → State) (ha : ∀ y0 x, x.mem.wf = true → (act y0 x).mem.wf = true) (h : s.mem.wf = true) : (s.trigServe op roles
    len r act).mem.wf = true := by
  unfold State.trigServe
  have hg := gate_wf s op r h
  split <;> next e => (rw [e] at hg; (repeat' split) <;> simp_all [Gate.state])

@[simp] theorem trigAnswer_wf (s : State) (op : Nat) (roles : Roles) (len : Nat → Option Nat) (r : Req) (act : State → State
    × Answer) (ha : ∀ x, x.mem.wf = true → (act x).1.mem.wf = true) (h : s.mem.wf = true) : (s.trigAnswer op roles len r
    act).mem.wf = true :=
  trigServe_wf _ _ _ _ _ _ (fun _ s h => finish_wf _ _ _ _ (ha s h)) h

@[simp] theorem sealed_mem (s : State) (go : State → State × Answer) (h : ∀ x, (go x).1.mem = x.mem) :
    (s.sealed go).1.mem = s.mem := by
  unfold State.sealed
  split <;> simp [h]

@[simp] theorem empStatus_wf (s : State) (r : Req) (h : s.mem.wf = true) : (s.empStatus r).mem.wf = true := by
  simp [h, State.empStatus]

@[simp] theorem empRead_wf (s : State) (r : Req) (h : s.mem.wf = true) : (s.empRead r).mem.wf = true := by
  simp [h, State.empRead]

@[simp] theorem empAck_wf (s : State) (r : Req) (h : s.mem.wf = true) : (s.empAck r).mem.wf = true := by
  refine trigAnswer_wf _ _ _ _ _ _ (fun s h => ?_) h
  split
  · exact h
  · dsimp only
    rw [trigPage_mem, onTrig_mem]
    exact h

@[simp] theorem empParamOp_mem (s : State) (r : Req) : (s.empParamOp r).1.mem = s.mem := by
  unfold State.empParamOp
  dsimp only
  split
  · rfl
  · rw [sealed_mem]
    intro s
    split <;> rfl
  · rw [sealed_mem]
    exact fun _ => rfl
  · rfl
  · rfl

@[simp] theorem empParam_wf (s : State) (r : Req) (h : s.mem.wf = true) : (s.empParam r).mem.wf = true := by
  simp [h, State.empParam]

@[simp] theorem empSwid_wf (s : State) (r : Req) (h : s.mem.wf = true) : (s.empSwid r).mem.wf = true := by
  simp [h, State.empSwid]

@[simp] theorem empUpdBegin_wf (s : State) (r : Req) (h : s.mem.wf = true) : (s.empUpdBegin r).mem.wf = true := by
  refine trigAnswer_wf _ _ _ _ _ _ (fun s h => ?_) h
  rw [sealed_mem]
  · exact h
  · intro s
    (repeat' split) <;> rfl

@[simp] theorem empUpdBlock_wf (s : State) (r : Req) (h : s.mem.wf = true) : (s.empUpdBlock r).mem.wf = true := by
  refine trigAnswer_wf _ _ _ _ _ _ (fun s h => ?_) h
  rw [sealed_mem]
  · exact h
  · intro s
    (repeat' split) <;> rfl

@[simp] theorem empUpdActivate_wf (s : State) (r : Req) (h : s.mem.wf = true) : (s.empUpdActivate r).mem.wf = true := by
  refine trigServe_wf _ _ _ _ _ _ (fun a s h => ?_) h
  dsimp only
  split
  · exact finish_wf _ _ _ _ h
  · split
    · exact finish_wf _ _ _ _ h
    · split
      · exact finish_wf _ _ _ _ h
      · refine twoSteps_wf _ _ _ _ _ _ (fun s h => h) (fun s h => ?_) h
        rw [trigPage_mem, onTrig_mem]
        exact finish_wf _ _ _ _ (by rw [onTrig_mem]; exact trigPeriod_wf _ _ (by rw [onTrig_mem]; exact h))

@[simp] theorem trigRequest_wf (s : State) (op : Nat) (r : Req) (h : s.mem.wf = true) :
    (s.trigRequest op r).mem.wf = true := by
  unfold State.trigRequest
  (repeat' split) <;> simp +contextual [h]

@[simp] theorem trigStart_wf (s : State) (go : Trig → Trig) (h : s.mem.wf = true) : (s.trigStart go).mem.wf = true := by
  unfold State.trigStart
  dsimp only
  (repeat' split) <;> simp +contextual [h, foldl_wf]

@[simp] theorem imageLost_mem (s : State) : s.imageLost.mem = s.mem := by
  unfold State.imageLost
  split <;> simp

@[simp] theorem cleared_wf (s : State) (b : Bool) (h : s.mem.wf = true) : (s.cleared b).mem.wf = true := by
  have hi : s.imageLost.intakeAll.mem.wf = true := intakeAll_wf _ (by simp [h])
  unfold State.cleared
  rw [wf_iff] at *
  intro a
  have ha := hi a
  cases a with
  | ps | rs => exact ha
  | prg | img | live | com => exact canonical_nil _

@[simp] theorem begin_mem (s : State) (x : Straps) : (s.begin x).mem = s.mem := rfl

@[simp] theorem restart_wf (s : State) (x : Straps) (h : s.mem.wf = true) : (s.restart x).mem.wf = true := by
  unfold State.restart
  extract_lets s1 s2 _ s3 s4
  have h1 : s1.mem.wf = true := by unfold s1; simp [h]
  have h2 : s2.mem.wf = true := by unfold s2; split <;> simp [h1]
  have h4 : s4.mem = s2.mem := by unfold s4 s3; rw [fiPermitEnd_mem, fiRemoveAll_mem, report_mem]
  rw [begin_mem]
  refine cleared_wf _ _ ?_
  rw [← h4] at h2
  clear_value s4
  exact h2

@[simp] theorem testLane_mem (s : State) (l : Lane) (fails : Bool) : (s.testLane l fails).mem = s.mem := by
  simp [State.testLane, apply_ite State.mem]

@[simp] theorem scanRetained_wf (s : State) (h : s.mem.wf = true) : s.scanRetained.mem.wf = true := by
  have each : (s.mem.rs.foldl (fun (s : State) e =>
    let c := s.mem.code .rs e.1
    let s := s.account .rs e.1 .supervisor
    match c.cls e.1 with
    | .clean => s
    | .ce => (s.fullWrite .rs e.1 (corrected e.1 c)).bump Reg.MS_SCANCE_CNT
    | .ue => (s.poison .rs e.1).bump Reg.MS_SCANUE_CNT
    | _ => s.bump Reg.MS_SCANUE_CNT) s).mem.wf = true := foldl_wf (fun s e h => by dsimp only; split <;> simp [h]) _ _ h
  unfold State.scanRetained
  extract_lets u bad v
  split
  · rw [report_mem]
    exact each
  · exact each

@[simp] theorem runFirmware_mem (s : State) : s.runFirmware.mem = s.mem := rfl

@[simp] theorem owedRecords_mem (s : State) : s.owedRecords.mem = s.mem := by
  unfold State.owedRecords
  dsimp only
  (repeat' split) <;> simp

@[simp] theorem slotCheck_mem (s : State) : s.slotCheck.mem = s.mem := by
  simp [State.slotCheck, apply_ite State.mem]

@[simp] theorem startStopped_wf (s : State) (why : Trigger) (auto : Bool) (h : s.mem.wf = true) :
    (s.startStopped why auto).mem.wf = true := by
  unfold State.startStopped
  extract_lets s1 s2 s3 s4 s5 _ s6
  have h2 : s2.mem.wf = true := by unfold s2 s1; rw [applyStaged_mem]; exact applyConfig_wf _ (scanRetained_wf _ h)
  have h5 : s5.mem.wf = true := by unfold s5 s4 s3; simp [h2]
  clear_value s5
  exact changeMode_wf _ _ _ h5

@[simp] theorem runTests_wf (s : State) (t : SelfTest) (h : s.mem.wf = true) : (s.runTests t).1.mem.wf = true := by
  unfold State.runTests
  extract_lets s1 s2 s3 q
  have h3 : q.1.mem.wf = true := testStores_wf (by unfold s3 s2 s1; simp [h]) _
  split
  · rw [report_mem]
    exact h3
  · exact h3

@[simp] theorem endSelftest_wf (s : State) (t : SelfTest) (h : s.mem.wf = true) : (s.endSelftest t).mem.wf = true := by
  unfold State.endSelftest
  dsimp only
  (repeat' split) <;> simp [h]

@[simp] theorem autoRead_wf (s : State) (p : Image) (h : s.mem.wf = true) : (s.autoRead p).mem.wf = true := by
  unfold State.autoRead
  split
  · simp [h]
  · split
    · simp [h]
    · next e =>
      unfold State.loadStart at e
      dsimp only at e
      (repeat' split at e) <;> cases e <;> simp [h]

@[simp] theorem autoGo_wf (s : State) (i : Image) (h : s.mem.wf = true) : (s.autoGo i).mem.wf = true := by
  unfold State.autoGo
  dsimp only
  (repeat' split) <;> simp [h]

@[simp] theorem autoStart_wf (s : State) (p : Image) (h : s.mem.wf = true) : (s.autoStart p).mem.wf = true := by
  unfold State.autoStart
  split <;> simp [h]

@[simp] theorem feedComes_mem (s : State) (feed2 : Bool) : (s.feedComes feed2).mem = s.mem := by
  unfold State.feedComes
  dsimp only
  (repeat' split) <;> simp

@[simp] theorem feedGoes_mem (s : State) (feed2 : Bool) : (s.feedGoes feed2).mem = s.mem := by
  simp [State.feedGoes, apply_ite State.mem]

@[simp] theorem linksOff_mem (s : State) : s.linksOff.mem = s.mem := by
  unfold State.linksOff
  dsimp only
  rw [foldl_mem (fun s k => by simp)]
  simp only [flag_mem, setFld_mem]
  rw [foldl_mem (fun s k => by simp)]

@[simp] theorem stopLevel_wf (s : State) (h : s.mem.wf = true) : s.stopLevel.mem.wf = true := by
  unfold State.stopLevel
  dsimp only
  have h1 : ((s.flag Reg.PWR_STAT_STOPPING true).outputsOff.leavePair 4).mem.wf = true := leavePair_wf _ _ (by rw [outputsOff_mem, flag_mem]; exact h)
  have h2 := abandonCycle_wf _ h1
  rw [← linksOff_mem] at h2
  generalize State.linksOff _ = u at *
  split
  · simp [h2]
  · exact h2

@[simp] theorem holdupMeasured_mem (s : State) (c : Nat) : (s.holdupMeasured c).mem = s.mem := by
  simp [State.holdupMeasured]

@[simp] theorem laneAhead_mem (s : State) (l : Nat) : (s.laneAhead l).mem = s.mem := by
  simp [State.laneAhead, apply_ite State.mem]

@[simp] theorem calendarSample_mem (s : State) : s.calendarSample.mem = s.mem := by
  unfold State.calendarSample
  split <;> simp

@[simp] theorem healthRegs_mem (s : State) (h : Health) : (s.healthRegs h).mem = s.mem := by
  simp [State.healthRegs]

@[simp] theorem permitLeft_mem (s : State) : s.permitLeft.mem = s.mem := by
  unfold State.permitLeft
  split
  · exact setFld_mem _ _ _
  · rfl

@[simp] theorem beginSlot_wf (s : State) (id : Word) (len : Nat) (h : s.mem.wf = true) :
    (s.beginSlot id len).mem.wf = true := by
  simp [h, State.beginSlot]

@[simp] theorem beginHost_wf (s : State) (id : Word) (len dst : Nat) (h : s.mem.wf = true) :
    (s.beginHost id len dst).mem.wf = true := by
  unfold State.beginHost
  split <;> simp [h]

@[simp] theorem beginFlash_wf (s : State) (id : Word) (len src dst : Nat) (h : s.mem.wf = true) :
    (s.beginFlash id len src dst).1.mem.wf = true := by
  unfold State.beginFlash
  dsimp only
  (repeat' split) <;> simp [h]

@[simp] theorem flashBlock_mem (s : State) (off : Nat) (b : List Byte) (f : Nat × Word × Nat × Sparse Byte) :
    (s.flashBlock off b f).1.mem = s.mem := by
  unfold State.flashBlock
  dsimp only
  (repeat' split) <;> simp

@[simp] theorem slotBlock_wf (s : State) (off : Nat) (b : List Byte) (h : s.mem.wf = true) :
    (s.slotBlock off b).1.mem.wf = true := by
  unfold State.slotBlock
  dsimp only
  (repeat' split) <;> simp [h]

@[simp] theorem srcWrite_wf (s : State) (src : WSrc) (page off : Nat) (v : Word) (h : s.mem.wf = true) :
    (s.srcWrite src page off v).mem.wf = true := by
  unfold State.srcWrite
  split <;> simp [h]

@[simp] theorem wdWrite_wf (s : State) (src : WSrc) (page off : Nat) (compl : Bool) (v : Word) (h : s.mem.wf = true) :
    (s.wdWrite src page off compl v).mem.wf = true := by
  simp [h, State.wdWrite]

@[simp] theorem ridgeType_wf (s : State) (type : Nat) (rx : RidgeRx) (late : Bool) (h : s.mem.wf = true) :
    (s.ridgeType type rx late).mem.wf = true := by
  unfold State.ridgeType
  split <;> simp [h]

@[simp] theorem empRow_wf (s : State) (op : Nat) (r : Req) (h : s.mem.wf = true) : (s.empRow op r).mem.wf = true := by
  unfold State.empRow
  refine withPacket_wf _ _ _ _ (fun s h => ?_) h
  (repeat' split) <;> simp [h]

end Sys2Proof.Machine

end

-- ==== Sys2Proof/Proofs/CanonicalRows.lean ====

section
-- In order, not in parallel: each parallel thread reserves its whole stack of the check's memory.
set_option Elab.async false

/-! SUPPORT. The canonical form of the memory under each command. -/

namespace Sys2Proof.Machine

theorem execBld_wf (v : Vote) (o : SbOp) (s : State) (h : s.mem.wf = true) : keepsWf (execBld v o s) :=
  keepsWf_next (by simp [h])

theorem execBand_wf (v : Vote) (o : SbOp) (s : State) (h : s.mem.wf = true) : keepsWf (execBand v o s) :=
  keepsWf_next (by simp [h])

theorem execBor_wf (v : Vote) (o : SbOp) (s : State) (h : s.mem.wf = true) : keepsWf (execBor v o s) :=
  keepsWf_next (by simp [h])

theorem execBxor_wf (v : Vote) (o : SbOp) (s : State) (h : s.mem.wf = true) : keepsWf (execBxor v o s) :=
  keepsWf_next (by simp [h])

theorem execBst_wf (v : Vote) (o : SbOp) (s : State) (h : s.mem.wf = true) : keepsWf (execBst v o s) :=
  keepsWf_next (by simp [h])

theorem execBsr_wf (v : Vote) (o : SbOp) (s : State) (h : s.mem.wf = true) : keepsWf (execBsr v o s) :=
  keepsWf_next (by simp [h])

theorem execPush_wf (v : Vote) (code : BitVec 4) (s : State) (h : s.mem.wf = true) : keepsWf (execPush v code s) := by
  refine keepsWf_next (execCc_wf _ _ _ _ (fun w c s h => ?_) h)
  (repeat' split) <;> simp [h, CcRes.state]

theorem execPop_wf (v : Vote) (s : State) (h : s.mem.wf = true) : keepsWf (execPop v s) :=
  keepsWf_next (by simp [h])

theorem execPops_wf (v : Vote) (s : State) (h : s.mem.wf = true) : keepsWf (execPops v s) :=
  keepsWf_next (by simp [h])

theorem execBnot_wf (v : Vote) (s : State) (h : s.mem.wf = true) : keepsWf (execBnot v s) :=
  keepsWf_next (by simp [h])

theorem execBnots_wf (v : Vote) (s : State) (h : s.mem.wf = true) : keepsWf (execBnots v s) :=
  keepsWf_next (by simp [h])

theorem execBone_wf (v : Vote) (s : State) (h : s.mem.wf = true) : keepsWf (execBone v s) :=
  keepsWf_next (by simp [h])

theorem execBzero_wf (v : Vote) (s : State) (h : s.mem.wf = true) : keepsWf (execBzero v s) :=
  keepsWf_next (by simp [h])

theorem execBany_wf (v : Vote) (s : State) (h : s.mem.wf = true) : keepsWf (execBany v s) :=
  keepsWf_next (by simp [h])

theorem execBall_wf (v : Vote) (s : State) (h : s.mem.wf = true) : keepsWf (execBall v s) :=
  keepsWf_next (by simp [h])

theorem execMfba_wf (v : Vote) (rd : BitVec 4) (s : State) (h : s.mem.wf = true) : keepsWf (execMfba v rd s) :=
  keepsWf_next (by simp [h])

theorem execMtba_wf (v : Vote) (ra : BitVec 4) (s : State) (h : s.mem.wf = true) : keepsWf (execMtba v ra s) :=
  keepsWf_next (by simp [h])

theorem execMfsm_wf (v : Vote) (rd : BitVec 4) (s : State) (h : s.mem.wf = true) : keepsWf (execMfsm v rd s) :=
  keepsWf_next (by simp [h])

theorem execMtsm_wf (v : Vote) (ra : BitVec 4) (s : State) (h : s.mem.wf = true) : keepsWf (execMtsm v ra s) :=
  keepsWf_next (by simp [h])

theorem execBcnt_wf (v : Vote) (rd : BitVec 4) (s : State) (h : s.mem.wf = true) : keepsWf (execBcnt v rd s) :=
  keepsWf_next (by simp [h])

theorem execBsplat_wf (v : Vote) (s : State) (h : s.mem.wf = true) : keepsWf (execBsplat v s) :=
  keepsWf_next (by simp [h])

theorem execWld_wf (v : Vote) (o : SwOp) (s : State) (h : s.mem.wf = true) : keepsWf (execWld v o s) :=
  keepsWf_next (by simp [h])

theorem execWst_wf (v : Vote) (o : SwOp) (s : State) (h : s.mem.wf = true) : keepsWf (execWst v o s) :=
  keepsWf_next (by simp [h])

theorem execSlds_wf (v : Vote) (o : SwOp) (s : State) (h : s.mem.wf = true) : keepsWf (execSlds v o s) :=
  keepsWf_next (by simp [h])

theorem execSsts_wf (v : Vote) (o : SwOp) (s : State) (h : s.mem.wf = true) : keepsWf (execSsts v o s) :=
  keepsWf_next (by simp [h])

theorem execSage_wf (v : Vote) (o : SwOp) (s : State) (h : s.mem.wf = true) : keepsWf (execSage v o s) := by
  refine keepsWf_next (execCc_wf _ _ _ _ (fun w c s h => ?_) h)
  dsimp only
  (repeat' split) <;> simp [h, CcRes.state]

theorem execWald_wf (v : Vote) (ix : BitVec 4) (sid : BitVec 18) (s : State) (h : s.mem.wf = true) :
    keepsWf (execWald v ix sid s) :=
  keepsWf_next (by simp [h])

theorem execWast_wf (v : Vote) (ix : BitVec 4) (sid : BitVec 18) (s : State) (h : s.mem.wf = true) :
    keepsWf (execWast v ix sid s) :=
  keepsWf_next (by simp [h])

theorem execAdd_wf (v : Vote) (o : RegOp) (s : State) (h : s.mem.wf = true) : keepsWf (execAdd v o s) :=
  keepsWf_next (by simp [h])

theorem execSub_wf (v : Vote) (o : RegOp) (s : State) (h : s.mem.wf = true) : keepsWf (execSub v o s) :=
  keepsWf_next (by simp [h])

theorem execAnd_wf (v : Vote) (o : RegOp) (s : State) (h : s.mem.wf = true) : keepsWf (execAnd v o s) :=
  keepsWf_next (by simp [h])

theorem execOr_wf (v : Vote) (o : RegOp) (s : State) (h : s.mem.wf = true) : keepsWf (execOr v o s) :=
  keepsWf_next (by simp [h])

theorem execXor_wf (v : Vote) (o : RegOp) (s : State) (h : s.mem.wf = true) : keepsWf (execXor v o s) :=
  keepsWf_next (by simp [h])

theorem execShl_wf (v : Vote) (o : RegOp) (s : State) (h : s.mem.wf = true) : keepsWf (execShl v o s) :=
  keepsWf_next (by simp [h])

theorem execShr_wf (v : Vote) (o : RegOp) (s : State) (h : s.mem.wf = true) : keepsWf (execShr v o s) :=
  keepsWf_next (by simp [h])

theorem execSar_wf (v : Vote) (o : RegOp) (s : State) (h : s.mem.wf = true) : keepsWf (execSar v o s) :=
  keepsWf_next (by simp [h])

theorem execMul_wf (v : Vote) (o : RegOp) (s : State) (h : s.mem.wf = true) : keepsWf (execMul v o s) :=
  keepsWf_next (by simp [h])

theorem execDiv_wf (v : Vote) (o : RegOp) (s : State) (h : s.mem.wf = true) : keepsWf (execDiv v o s) :=
  keepsWf_next (by simp [h])

theorem execDivu_wf (v : Vote) (o : RegOp) (s : State) (h : s.mem.wf = true) : keepsWf (execDivu v o s) :=
  keepsWf_next (by simp [h])

theorem execRem_wf (v : Vote) (o : RegOp) (s : State) (h : s.mem.wf = true) : keepsWf (execRem v o s) :=
  keepsWf_next (by simp [h])

theorem execRemu_wf (v : Vote) (o : RegOp) (s : State) (h : s.mem.wf = true) : keepsWf (execRemu v o s) :=
  keepsWf_next (by simp [h])

theorem execCmp_wf (v : Vote) (ra rb : BitVec 4) (s : State) (h : s.mem.wf = true) : keepsWf (execCmp v ra rb s) :=
  keepsWf_next (by simp [h])

theorem execMov_wf (v : Vote) (rd ra : BitVec 4) (s : State) (h : s.mem.wf = true) : keepsWf (execMov v rd ra s) :=
  keepsWf_next (by simp [h])

theorem execMtwa_wf (v : Vote) (ra : BitVec 4) (s : State) (h : s.mem.wf = true) : keepsWf (execMtwa v ra s) :=
  keepsWf_next (by simp [h])

theorem execMfwa_wf (v : Vote) (rd : BitVec 4) (s : State) (h : s.mem.wf = true) : keepsWf (execMfwa v rd s) :=
  keepsWf_next (by simp [h])

theorem execAddi_wf (v : Vote) (o : ImmOp) (s : State) (h : s.mem.wf = true) : keepsWf (execAddi v o s) :=
  keepsWf_next (by simp [h])

theorem execAndi_wf (v : Vote) (o : ImmOp) (s : State) (h : s.mem.wf = true) : keepsWf (execAndi v o s) :=
  keepsWf_next (by simp [h])

theorem execOri_wf (v : Vote) (o : ImmOp) (s : State) (h : s.mem.wf = true) : keepsWf (execOri v o s) :=
  keepsWf_next (by simp [h])

theorem execXori_wf (v : Vote) (o : ImmOp) (s : State) (h : s.mem.wf = true) : keepsWf (execXori v o s) :=
  keepsWf_next (by simp [h])

theorem execCmpi_wf (v : Vote) (ra : BitVec 4) (imm : BitVec 18) (s : State) (h : s.mem.wf = true) :
    keepsWf (execCmpi v ra imm s) :=
  keepsWf_next (by simp [h])

theorem execShi_wf (v : Vote) (o : ImmOp) (s : State) (h : s.mem.wf = true) : keepsWf (execShi v o s) := by
  refine keepsWf_next (execCc_wf _ _ _ _ (fun w c s h => ?_) h)
  dsimp only
  (repeat' split) <;> simp [h, CcRes.state]

theorem execLui_wf (v : Vote) (rd : BitVec 4) (imm : BitVec 22) (s : State) (h : s.mem.wf = true) :
    keepsWf (execLui v rd imm s) :=
  keepsWf_next (by simp [h])

theorem execFadd_wf (v : Vote) (ra : BitVec 4) (s : State) (h : s.mem.wf = true) : keepsWf (execFadd v ra s) :=
  keepsWf_next (by simp [h])

theorem execFsub_wf (v : Vote) (ra : BitVec 4) (s : State) (h : s.mem.wf = true) : keepsWf (execFsub v ra s) :=
  keepsWf_next (by simp [h])

theorem execFmul_wf (v : Vote) (ra : BitVec 4) (s : State) (h : s.mem.wf = true) : keepsWf (execFmul v ra s) :=
  keepsWf_next (by simp [h])

theorem execFdiv_wf (v : Vote) (ra : BitVec 4) (s : State) (h : s.mem.wf = true) : keepsWf (execFdiv v ra s) :=
  keepsWf_next (by simp [h])

theorem execFsqrt_wf (v : Vote) (s : State) (h : s.mem.wf = true) : keepsWf (execFsqrt v s) :=
  keepsWf_next (by simp [h])

theorem execFcmp_wf (v : Vote) (ra : BitVec 4) (s : State) (h : s.mem.wf = true) : keepsWf (execFcmp v ra s) :=
  keepsWf_next (by simp [h])

theorem execFitof_wf (v : Vote) (s : State) (h : s.mem.wf = true) : keepsWf (execFitof v s) :=
  keepsWf_next (by simp [h])

theorem execFutof_wf (v : Vote) (s : State) (h : s.mem.wf = true) : keepsWf (execFutof v s) :=
  keepsWf_next (by simp [h])

theorem execFftoi_wf (v : Vote) (s : State) (h : s.mem.wf = true) : keepsWf (execFftoi v s) :=
  keepsWf_next (by simp [h])

theorem execFftoir_wf (v : Vote) (s : State) (h : s.mem.wf = true) : keepsWf (execFftoir v s) :=
  keepsWf_next (by simp [h])

theorem execLdw_wf (v : Vote) (o : MemOp) (s : State) (h : s.mem.wf = true) : keepsWf (execLdw v o s) :=
  keepsWf_next (by simp [h])

theorem execLdh_wf (v : Vote) (o : MemOp) (s : State) (h : s.mem.wf = true) : keepsWf (execLdh v o s) :=
  keepsWf_next (by simp [h])

theorem execLdby_wf (v : Vote) (o : MemOp) (s : State) (h : s.mem.wf = true) : keepsWf (execLdby v o s) :=
  keepsWf_next (by simp [h])

theorem execLdp_wf (v : Vote) (o : MemOp) (s : State) (h : s.mem.wf = true) : keepsWf (execLdp v o s) :=
  keepsWf_next (by simp [h])

theorem execStw_wf (v : Vote) (o : MemOp) (s : State) (h : s.mem.wf = true) : keepsWf (execStw v o s) :=
  keepsWf_next (by simp [h])

theorem execSth_wf (v : Vote) (o : MemOp) (s : State) (h : s.mem.wf = true) : keepsWf (execSth v o s) :=
  keepsWf_next (by simp [h])

theorem execStby_wf (v : Vote) (o : MemOp) (s : State) (h : s.mem.wf = true) : keepsWf (execStby v o s) :=
  keepsWf_next (by simp [h])

theorem execStp_wf (v : Vote) (o : MemOp) (s : State) (h : s.mem.wf = true) : keepsWf (execStp v o s) :=
  keepsWf_next (by simp [h])

theorem execBr_wf (v : Vote) (cond : BitVec 4) (off : BitVec 22) (s : State) (h : s.mem.wf = true) :
    keepsWf (execBr v cond off s) := by
  refine keepsWf_next (execCc_wf _ _ _ _ (fun w c s h => ?_) h)
  (repeat' split) <;> simp [h, CcRes.state]

theorem execCall_wf (v : Vote) (off : BitVec 26) (s : State) (h : s.mem.wf = true) : keepsWf (execCall v off s) := by
  refine keepsWf_next (execCc_wf _ _ _ _ (fun w c s h => ?_) h)
  (repeat' split) <;> simp [h, CcRes.state]

theorem execRet_wf (v : Vote) (s : State) (h : s.mem.wf = true) : keepsWf (execRet v s) := by
  refine keepsWf_next (execCc_wf _ _ _ _ (fun w c s h => ?_) h)
  (repeat' split) <;> simp [h, CcRes.state]

theorem execLoop_wf (v : Vote) (rc : BitVec 4) (bound : BitVec 16) (s : State) (h : s.mem.wf = true) :
    keepsWf (execLoop v rc bound s) := by
  refine keepsWf_next (execCc_wf _ _ _ _ (fun w c s h => ?_) h)
  dsimp only
  (repeat' split) <;> simp [h, CcRes.state]

theorem execEndl_wf (v : Vote) (s : State) (h : s.mem.wf = true) : keepsWf (execEndl v s) := by
  refine keepsWf_next (execCc_wf _ _ _ _ (fun w c s h => ?_) h)
  (repeat' split) <;> simp [h, CcRes.state]

theorem execNop_wf (v : Vote) (s : State) (h : s.mem.wf = true) : keepsWf (execNop v s) :=
  keepsWf_next (by simp [h])

theorem execEndRelease_wf (v : Vote) (s : State) (h : s.mem.wf = true) : keepsWf (execEndRelease v s) := by
  refine keepsWf_next (execCc_wf _ _ _ _ (fun w c s h => ?_) h)
  dsimp only
  (repeat' split) <;> simp [h, CcRes.state]

theorem execClrf_wf (v : Vote) (s : State) (h : s.mem.wf = true) : keepsWf (execClrf v s) :=
  keepsWf_next (by simp [h])

theorem execMff_wf (v : Vote) (rd : BitVec 4) (s : State) (h : s.mem.wf = true) : keepsWf (execMff v rd s) :=
  keepsWf_next (by simp [h])

theorem execMtf_wf (v : Vote) (ra : BitVec 4) (s : State) (h : s.mem.wf = true) : keepsWf (execMtf v ra s) :=
  keepsWf_next (by simp [h])

theorem execIllegal_wf (v : Vote) (s : State) (h : s.mem.wf = true) : keepsWf (execIllegal v s) := by
  refine keepsWf_next (execCc_wf _ _ _ _ (fun w c s h => ?_) h)
  simp [h, CcRes.state]

theorem execStoreBufferWrite_wf (s : State) (h : s.mem.wf = true) : keepsWf (execStoreBufferWrite s) :=
  keepsWf_next (by simp [h])

theorem execBridgeFarError_wf (s : State) (h : s.mem.wf = true) : keepsWf (execBridgeFarError s) := by
  refine keepsWf_next ?_
  (repeat' split) <;> simp [h]

theorem execBudgetAbort_wf (s : State) (h : s.mem.wf = true) : keepsWf (execBudgetAbort s) := by
  refine keepsWf_next ?_
  (repeat' split) <;> simp [h]

theorem execTickBoundary_wf (cv0 cv1 : Verdict) (s : State) (h : s.mem.wf = true) :
    keepsWf (execTickBoundary cv0 cv1 s) := by
  refine keepsWf_next ?_
  (repeat' split) <;> simp [h]

theorem execOverrunLimit_wf (n : Fin 7) (s : State) (h : s.mem.wf = true) : keepsWf (execOverrunLimit n s) := by
  refine keepsWf_next ?_
  dsimp only
  (repeat' split) <;> simp [h]

theorem execSwitchTimeout_wf (s : State) (h : s.mem.wf = true) : keepsWf (execSwitchTimeout s) := by
  refine keepsWf_next ?_
  (repeat' split) <;> simp [h]

theorem execT7Start_wf (s : State) (h : s.mem.wf = true) : keepsWf (execT7Start s) := by
  refine keepsWf_next ?_
  dsimp only
  (repeat' split) <;> simp [h]

theorem execInitRoutineTimeout_wf (s : State) (h : s.mem.wf = true) : keepsWf (execInitRoutineTimeout s) := by
  refine keepsWf_next ?_
  (repeat' split) <;> simp [h]

theorem execLaneReadmission_wf (l : Lane) (copies : Copies) (readback : Bool) (s : State) (h : s.mem.wf = true) :
    keepsWf (execLaneReadmission l copies readback s) := by
  refine keepsWf_next ?_
  (repeat' split) <;> simp [h]

theorem execForcedReadmission_wf (l : Lane) (copies : Copies) (readback : Bool) (s : State) (h : s.mem.wf = true) :
    keepsWf (execForcedReadmission l copies readback s) := by
  refine keepsWf_next ?_
  (repeat' split) <;> simp [h]

theorem execDegleftCountdown_wf (s : State) (h : s.mem.wf = true) : keepsWf (execDegleftCountdown s) := by
  refine keepsWf_next ?_
  dsimp only
  (repeat' split) <;> simp [h]

theorem execCeWriteBack_wf (s : State) (h : s.mem.wf = true) : keepsWf (execCeWriteBack s) := by
  refine keepsWf_next ?_
  (repeat' split) <;> simp [h]

theorem execNopCmd_wf (r : Req) (s : State) (h : s.mem.wf = true) : keepsWf (execNopCmd r s) :=
  keepsWf_next (by simp [h])

theorem execIdent_wf (r : Req) (s : State) (h : s.mem.wf = true) : keepsWf (execIdent r s) :=
  keepsWf_next (by simp [h])

theorem execResync_wf (r : Req) (s : State) (h : s.mem.wf = true) : keepsWf (execResync r s) :=
  keepsWf_next (by simp [h])

theorem execSnap_wf (r : Req) (s : State) (h : s.mem.wf = true) : keepsWf (execSnap r s) := by
  refine keepsWf_next (serveAnswer_wf _ _ _ _ (fun s h => ?_) h)
  dsimp only
  simp [h]

theorem execTimeSet_wf (r : Req) (s : State) (h : s.mem.wf = true) : keepsWf (execTimeSet r s) := by
  refine keepsWf_next (serveAnswer_wf _ _ _ _ (fun s h => ?_) h)
  dsimp only
  (repeat' split) <;> simp [h]

theorem execSessOpen_wf (r : Req) (s : State) (h : s.mem.wf = true) : keepsWf (execSessOpen r s) := by
  refine keepsWf_next (serve_wf _ _ _ _ (fun s h => ?_) h)
  simp [h]

theorem execSessClose_wf (r : Req) (s : State) (h : s.mem.wf = true) : keepsWf (execSessClose r s) := by
  refine keepsWf_next (serve_wf _ _ _ _ (fun s h => ?_) h)
  simp [h]

theorem execModeReq_wf (r : Req) (s : State) (h : s.mem.wf = true) : keepsWf (execModeReq r s) := by
  refine keepsWf_next (serveWith_wf _ _ _ _ (fun role a s h => ?_) h)
  simp [h]

theorem execCfgOpen_wf (r : Req) (s : State) (h : s.mem.wf = true) : keepsWf (execCfgOpen r s) := by
  refine keepsWf_next (serve_wf _ _ _ _ (fun s h => ?_) h)
  (repeat' split) <;> simp [h]

theorem execCfgWrite_wf (r : Req) (s : State) (h : s.mem.wf = true) : keepsWf (execCfgWrite r s) := by
  refine keepsWf_next (serveWith_wf _ _ _ _ (fun role a s h => ?_) h)
  dsimp only
  (repeat' split) <;> simp [h]

theorem execCfgRead_wf (r : Req) (s : State) (h : s.mem.wf = true) : keepsWf (execCfgRead r s) := by
  refine keepsWf_next (serveAnswer_wf _ _ _ _ (fun s h => ?_) h)
  dsimp only
  (repeat' split) <;> simp [h]

theorem execCfgCommit_wf (r : Req) (flash : Bool) (s : State) (h : s.mem.wf = true) :
    keepsWf (execCfgCommit r flash s) := by
  refine keepsWf_next (serve_wf _ _ _ _ (fun s h => ?_) h)
  (repeat' split) <;> simp [h]

theorem execPrgBlock_wf (r : Req) (flash : Bool) (s : State) (h : s.mem.wf = true) : keepsWf (execPrgBlock r flash s) := by
  refine keepsWf_next (serve_wf _ _ _ _ (fun s h => ?_) h)
  dsimp only
  (repeat' split) <;> simp [h]

theorem execPrgVerify_wf (r : Req) (img : Image) (s : State) (h : s.mem.wf = true) : keepsWf (execPrgVerify r img s) := by
  refine keepsWf_next (serve_wf _ _ _ _ (fun s h => ?_) h)
  dsimp only
  simp [h]

theorem execPrgSwitch_wf (r : Req) (standby : Option Word) (s : State) (h : s.mem.wf = true) :
    keepsWf (execPrgSwitch r standby s) := by
  refine keepsWf_next (serve_wf _ _ _ _ (fun s h => ?_) h)
  dsimp only
  (repeat' split) <;> simp [h]

theorem execSigRead_wf (r : Req) (s : State) (h : s.mem.wf = true) : keepsWf (execSigRead r s) := by
  refine keepsWf_next (serveAnswer_wf _ _ _ _ (fun s h => ?_) h)
  dsimp only
  (repeat' split) <;> simp [h]

theorem execSigForce_wf (r : Req) (s : State) (h : s.mem.wf = true) : keepsWf (execSigForce r s) := by
  refine keepsWf_next (serveWith_wf _ _ _ _ (fun role a s h => ?_) h)
  dsimp only
  (repeat' split) <;> simp [h]

theorem execSigUnforce_wf (r : Req) (s : State) (h : s.mem.wf = true) : keepsWf (execSigUnforce r s) :=
  keepsWf_next (serveAnswer_wf _ _ _ _ (fun s h => by simp [h]) h)

theorem execForceList_wf (r : Req) (s : State) (h : s.mem.wf = true) : keepsWf (execForceList r s) := by
  refine keepsWf_next (serve_wf _ _ _ _ (fun s h => ?_) h)
  dsimp only
  simp [h]

theorem execSfCheckRead_wf (r : Req) (s : State) (h : s.mem.wf = true) : keepsWf (execSfCheckRead r s) :=
  keepsWf_next (by simp [h])

theorem execSfConfirm_wf (r : Req) (s : State) (h : s.mem.wf = true) : keepsWf (execSfConfirm r s) := by
  refine keepsWf_next (serveAnswer_wf _ _ _ _ (fun s h => ?_) h)
  dsimp only
  (repeat' split) <;> simp [h]

theorem execSfReset_wf (r : Req) (s : State) (h : s.mem.wf = true) : keepsWf (execSfReset r s) := by
  refine keepsWf_next (serveAnswer_wf _ _ _ _ (fun s h => ?_) h)
  dsimp only
  (repeat' split) <;> simp [h]

theorem execLogInfo_wf (r : Req) (s : State) (h : s.mem.wf = true) : keepsWf (execLogInfo r s) :=
  keepsWf_next (by simp [h])

theorem execLogRead_wf (r : Req) (s : State) (h : s.mem.wf = true) : keepsWf (execLogRead r s) := by
  refine keepsWf_next ?_
  dsimp only
  (repeat' split) <;> simp [h]

theorem execUpdBlock_wf (r : Req) (flash : Bool) (s : State) (h : s.mem.wf = true) : keepsWf (execUpdBlock r flash s) := by
  refine keepsWf_next (serve_wf _ _ _ _ (fun s h => ?_) h)
  dsimp only
  (repeat' split) <;> simp [h]

theorem execPairRole_wf (r : Req) (s : State) (h : s.mem.wf = true) : keepsWf (execPairRole r s) := by
  refine keepsWf_next (serve_wf _ _ _ _ (fun s h => ?_) h)
  dsimp only
  (repeat' split) <;> simp [h]

theorem execAgeReport_wf (r : Req) (s : State) (h : s.mem.wf = true) : keepsWf (execAgeReport r s) := by
  refine keepsWf_next (serve_wf _ _ _ _ (fun s h => ?_) h)
  simp [h]

theorem execMarginPlan_wf (r : Req) (s : State) (h : s.mem.wf = true) : keepsWf (execMarginPlan r s) :=
  keepsWf_next (by simp [h])

theorem execMarginStep_wf (r : Req) (s : State) (h : s.mem.wf = true) : keepsWf (execMarginStep r s) := by
  refine keepsWf_next (serve_wf _ _ _ _ (fun s h => ?_) h)
  dsimp only
  (repeat' split) <;> simp [h]

theorem execFiSet_wf (r : Req) (s : State) (h : s.mem.wf = true) : keepsWf (execFiSet r s) := by
  refine keepsWf_next (serve_wf _ _ _ _ (fun s h => ?_) h)
  dsimp only
  (repeat' split) <;> simp [h]

theorem execFiClear_wf (r : Req) (s : State) (h : s.mem.wf = true) : keepsWf (execFiClear r s) := by
  refine keepsWf_next (serve_wf _ _ _ _ (fun s h => ?_) h)
  dsimp only
  (repeat' split) <;> simp [h]

theorem execEmpStatus_wf (r : Req) (s : State) (h : s.mem.wf = true) : keepsWf (execEmpStatus r s) :=
  keepsWf_next (by simp [h])

theorem execEmpRead_wf (r : Req) (s : State) (h : s.mem.wf = true) : keepsWf (execEmpRead r s) :=
  keepsWf_next (by simp [h])

theorem execEmpAck_wf (r : Req) (s : State) (h : s.mem.wf = true) : keepsWf (execEmpAck r s) :=
  keepsWf_next (by simp [h])

theorem execEmpParam_wf (r : Req) (s : State) (h : s.mem.wf = true) : keepsWf (execEmpParam r s) :=
  keepsWf_next (by simp [h])

theorem execEmpSwid_wf (r : Req) (s : State) (h : s.mem.wf = true) : keepsWf (execEmpSwid r s) :=
  keepsWf_next (by simp [h])

theorem execEmpUpdBegin_wf (r : Req) (s : State) (h : s.mem.wf = true) : keepsWf (execEmpUpdBegin r s) :=
  keepsWf_next (by simp [h])

theorem execEmpUpdBlock_wf (r : Req) (s : State) (h : s.mem.wf = true) : keepsWf (execEmpUpdBlock r s) :=
  keepsWf_next (by simp [h])

theorem execEmpUpdActivate_wf (r : Req) (s : State) (h : s.mem.wf = true) : keepsWf (execEmpUpdActivate r s) :=
  keepsWf_next (by simp [h])

theorem execRdgInfo_wf (r : Req) (s : State) (h : s.mem.wf = true) : keepsWf (execRdgInfo r s) :=
  keepsWf_next (by simp [h])

theorem execPacketReject_wf (transport source : Nat) (forwarded : Bool) (bytes : List Byte) (s : State) (h : s.mem.wf =
    true) : keepsWf (execPacketReject transport source forwarded bytes s) := by
  refine keepsWf_next ?_
  dsimp only
  (repeat' split) <;> simp [h]

theorem execDangerousArmTimeout_wf (trig : Bool) (num : Nat) (s : State) (h : s.mem.wf = true) :
    keepsWf (execDangerousArmTimeout trig num s) := by
  refine keepsWf_next ?_
  dsimp only
  (repeat' split) <;> simp [h]

theorem execSessionIdleTimeout_wf (trig : Bool) (num : Nat) (s : State) (h : s.mem.wf = true) :
    keepsWf (execSessionIdleTimeout trig num s) := by
  refine keepsWf_next ?_
  (repeat' split) <;> simp [h]

theorem execAuthLockExpiry_wf (trig : Bool) (transport : Fin 8) (s : State) (h : s.mem.wf = true) :
    keepsWf (execAuthLockExpiry trig transport s) := by
  refine keepsWf_next ?_
  dsimp only
  (repeat' split) <;> simp [h]

theorem execCmdDoorbell_wf (src : WSrc) (v : Word) (s : State) (h : s.mem.wf = true) : keepsWf (execCmdDoorbell src v s) :=
  keepsWf_next (by simp [h])

theorem execSysSnap_wf (src : WSrc) (v : Word) (s : State) (h : s.mem.wf = true) : keepsWf (execSysSnap src v s) :=
  keepsWf_next (by simp [h])

theorem execSysSafereq_wf (src : WSrc) (compl : Bool) (v : Word) (s : State) (h : s.mem.wf = true) :
    keepsWf (execSysSafereq src compl v s) :=
  keepsWf_next (by simp [h])

theorem execSfStopreq_wf (src : WSrc) (compl : Bool) (v : Word) (s : State) (h : s.mem.wf = true) :
    keepsWf (execSfStopreq src compl v s) :=
  keepsWf_next (by simp [h])

theorem execRngPost_wf (src : WSrc) (n : Nat) (v : Word) (s : State) (h : s.mem.wf = true) :
    keepsWf (execRngPost src n v s) := by
  refine keepsWf_next ?_
  (repeat' split) <;> simp [h]

theorem execResume_wf (src : WSrc) (n : Nat) (s : State) (h : s.mem.wf = true) : keepsWf (execResume src n s) := by
  refine keepsWf_next ?_
  (repeat' split) <;> simp [h]

theorem execSkip_wf (src : WSrc) (n : Nat) (s : State) (h : s.mem.wf = true) : keepsWf (execSkip src n s) := by
  refine keepsWf_next ?_
  (repeat' split) <;> simp [h]

theorem execRdgIrq_wf (src : WSrc) (v : Word) (s : State) (h : s.mem.wf = true) : keepsWf (execRdgIrq src v s) :=
  keepsWf_next (by simp [h])

theorem execCanRecover_wf (src : WSrc) (c : Nat) (s : State) (h : s.mem.wf = true) : keepsWf (execCanRecover src c s) := by
  refine keepsWf_next ?_
  (repeat' split) <;> simp [h]

theorem execCeTickloRead_wf (s : State) (h : s.mem.wf = true) : keepsWf (execCeTickloRead s) :=
  keepsWf_next (by simp [h])

theorem execEncPpsinloRead_wf (s : State) (h : s.mem.wf = true) : keepsWf (execEncPpsinloRead s) :=
  keepsWf_next (by simp [h])

theorem execRingEnableWrite_wf (src : WSrc) (n : Nat) (v : Word) (s : State) (h : s.mem.wf = true) :
    keepsWf (execRingEnableWrite src n v s) := by
  refine keepsWf_next ?_
  (repeat' split) <;> simp [h]

theorem execBrgEnableWrite_wf (src : WSrc) (n : Nat) (v : Word) (s : State) (h : s.mem.wf = true) :
    keepsWf (execBrgEnableWrite src n v s) := by
  refine keepsWf_next ?_
  (repeat' split) <;> simp [h]

theorem execFchEnableWrite_wf (src : WSrc) (n : Nat) (v : Word) (s : State) (h : s.mem.wf = true) :
    keepsWf (execFchEnableWrite src n v s) := by
  refine keepsWf_next ?_
  (repeat' split) <;> simp [h]

theorem execRdgEnableWrite_wf (src : WSrc) (v : Word) (s : State) (h : s.mem.wf = true) :
    keepsWf (execRdgEnableWrite src v s) :=
  keepsWf_next (by simp [h])

theorem execCompatWrite_wf (src : WSrc) (page : Nat) (v : Word) (s : State) (h : s.mem.wf = true) :
    keepsWf (execCompatWrite src page v s) := by
  refine keepsWf_next ?_
  (repeat' split) <;> simp [h]

theorem execRegisterWrite_wf (src : WSrc) (page off : Nat) (v : Word) (s : State) (h : s.mem.wf = true) :
    keepsWf (execRegisterWrite src page off v s) := by
  refine keepsWf_next ?_
  (repeat' split) <;> simp [h]

theorem execShutdownComplete_wf (i : Inst) (s : State) (h : s.mem.wf = true) : keepsWf (execShutdownComplete i s) := by
  refine keepsWf_next ?_
  dsimp only
  (repeat' split) <;> simp [h]

theorem execSelftestEnd_wf (tests : SelfTest) (s : State) (h : s.mem.wf = true) : keepsWf (execSelftestEnd tests s) := by
  refine keepsWf_next ?_
  (repeat' split) <;> simp [h]

theorem execAutostart_wf (img : Image) (s : State) (h : s.mem.wf = true) : keepsWf (execAutostart img s) := by
  refine keepsWf_next ?_
  (repeat' split) <;> simp [h]

theorem execStartLoopGuardClear_wf (s : State) (h : s.mem.wf = true) : keepsWf (execStartLoopGuardClear s) := by
  refine keepsWf_next ?_
  (repeat' split) <;> simp [h]

theorem execResetPress_wf (ms : Nat) (straps : Straps) (s : State) (h : s.mem.wf = true) :
    keepsWf (execResetPress ms straps s) := by
  refine keepsWf_next ?_
  (repeat' split) <;> simp [h]

theorem execResetStuck_wf (s : State) (h : s.mem.wf = true) : keepsWf (execResetStuck s) := by
  refine keepsWf_next ?_
  (repeat' split) <;> simp [h]

theorem execResetArm_wf (s : State) (h : s.mem.wf = true) : keepsWf (execResetArm s) := by
  refine keepsWf_next ?_
  (repeat' split) <;> simp [h]

theorem execUpdRestart_wf (straps : Straps) (s : State) (h : s.mem.wf = true) : keepsWf (execUpdRestart straps s) := by
  refine keepsWf_next ?_
  (repeat' split) <;> simp [h]

theorem execSupervisorLockstepMismatch_wf (s : State) (h : s.mem.wf = true) :
    keepsWf (execSupervisorLockstepMismatch s) := by
  refine keepsWf_next ?_
  dsimp only
  (repeat' split) <;> simp [h]

theorem execFeedGood_wf (feed2 : Bool) (s : State) (h : s.mem.wf = true) : keepsWf (execFeedGood feed2 s) := by
  refine keepsWf_next ?_
  (repeat' split) <;> simp [h]

theorem execFeedLost_wf (feed2 : Bool) (s : State) (h : s.mem.wf = true) : keepsWf (execFeedLost feed2 s) := by
  refine keepsWf_next ?_
  (repeat' split) <;> simp [h]

theorem execFeedDip_wf (feed2 : Bool) (s : State) (h : s.mem.wf = true) : keepsWf (execFeedDip feed2 s) := by
  refine keepsWf_next ?_
  (repeat' split) <;> simp [h]

theorem execFeedStress_wf (feed2 : Bool) (s : State) (h : s.mem.wf = true) : keepsWf (execFeedStress feed2 s) := by
  refine keepsWf_next ?_
  (repeat' split) <;> simp [h]

theorem execFeedSurge_wf (feed2 : Bool) (s : State) (h : s.mem.wf = true) : keepsWf (execFeedSurge feed2 s) := by
  refine keepsWf_next ?_
  (repeat' split) <;> simp [h]

theorem execFeedOvervoltage_wf (feed2 : Bool) (s : State) (h : s.mem.wf = true) :
    keepsWf (execFeedOvervoltage feed2 s) := by
  refine keepsWf_next ?_
  dsimp only
  (repeat' split) <;> simp [h]

theorem execFeedReconnect_wf (feed2 : Bool) (s : State) (h : s.mem.wf = true) : keepsWf (execFeedReconnect feed2 s) := by
  refine keepsWf_next ?_
  (repeat' split) <;> simp [h]

theorem execStopLevel_wf (s : State) (h : s.mem.wf = true) : keepsWf (execStopLevel s) := by
  refine keepsWf_next ?_
  (repeat' split) <;> simp [h]

theorem execConverterStop_wf (s : State) (h : s.mem.wf = true) : keepsWf (execConverterStop s) := by
  refine keepsWf_next ?_
  (repeat' split) <;> simp [h]

theorem execHoldupCharged_wf (s : State) (h : s.mem.wf = true) : keepsWf (execHoldupCharged s) := by
  refine keepsWf_next ?_
  dsimp only
  (repeat' split) <;> simp [h]

theorem execHoldupTest_wf (cap : Option Nat) (s : State) (h : s.mem.wf = true) : keepsWf (execHoldupTest cap s) := by
  refine keepsWf_next ?_
  (repeat' split) <;> simp [h]

theorem execClockFault_wf (straps : Straps) (s : State) (h : s.mem.wf = true) : keepsWf (execClockFault straps s) := by
  refine keepsWf_next ?_
  (repeat' split) <;> simp [h]

theorem execAgeingSample_wf (canary : Vector Nat 12) (drift : Vector Int 3) (s : State) (h : s.mem.wf = true) :
    keepsWf (execAgeingSample canary drift s) := by
  refine keepsWf_next ?_
  (repeat' split) <;> simp [h]

theorem execThermalSample_wf (a0 : Health) (s : State) (h : s.mem.wf = true) : keepsWf (execThermalSample a0 s) := by
  refine keepsWf_next ?_
  (repeat' split) <;> simp [h]

theorem execMarginPlanUpdate_wf (s : State) (h : s.mem.wf = true) : keepsWf (execMarginPlanUpdate s) := by
  refine keepsWf_next ?_
  (repeat' split) <;> simp [h]

theorem execOutputOverload_wf (ch : Nat) (s : State) (h : s.mem.wf = true) : keepsWf (execOutputOverload ch s) := by
  refine keepsWf_next ?_
  (repeat' split) <;> simp [h]

theorem execOutputThermal_wf (ch : Nat) (s : State) (h : s.mem.wf = true) : keepsWf (execOutputThermal ch s) := by
  refine keepsWf_next ?_
  (repeat' split) <;> simp [h]

theorem execChannelDiagnostic_wf (ch : Nat) (s : State) (h : s.mem.wf = true) : keepsWf (execChannelDiagnostic ch s) := by
  refine keepsWf_next ?_
  (repeat' split) <;> simp [h]

theorem execLpLow_wf (g : Nat) (s : State) (h : s.mem.wf = true) : keepsWf (execLpLow g s) := by
  refine keepsWf_next ?_
  (repeat' split) <;> simp [h]

theorem execSs1TimeMax_wf (i : Nat) (s : State) (h : s.mem.wf = true) : keepsWf (execSs1TimeMax i s) := by
  refine keepsWf_next ?_
  (repeat' split) <;> simp [h]

theorem execSiDiscrepancyFault_wf (i : Nat) (s : State) (h : s.mem.wf = true) : keepsWf (execSiDiscrepancyFault i s) := by
  refine keepsWf_next ?_
  dsimp only
  (repeat' split) <;> simp [h]

theorem execSpeedDiscrepancyFault_wf (i : Nat) (s : State) (h : s.mem.wf = true) :
    keepsWf (execSpeedDiscrepancyFault i s) := by
  refine keepsWf_next ?_
  dsimp only
  (repeat' split) <;> simp [h]

theorem execSoFault_wf (k : Nat) (s : State) (h : s.mem.wf = true) : keepsWf (execSoFault k s) := by
  refine keepsWf_next ?_
  (repeat' split) <;> simp [h]

theorem execSoOffPulseTest_wf (k : Nat) (chB : Bool) (s : State) (h : s.mem.wf = true) :
    keepsWf (execSoOffPulseTest k chB s) := by
  refine keepsWf_next ?_
  dsimp only
  (repeat' split) <;> simp [h]

theorem execResetPairStuck_wf (i : Nat) (s : State) (h : s.mem.wf = true) : keepsWf (execResetPairStuck i s) := by
  refine keepsWf_next ?_
  dsimp only
  (repeat' split) <;> simp [h]

theorem execSfCheckRecompute_wf (s : State) (h : s.mem.wf = true) : keepsWf (execSfCheckRecompute s) := by
  refine keepsWf_next ?_
  (repeat' split) <;> simp [h]

theorem execRingDescriptorProcess_wf (n k : Nat) (s : State) (h : s.mem.wf = true) :
    keepsWf (execRingDescriptorProcess n k s) := by
  refine keepsWf_next ?_
  (repeat' split) <;> simp [h]

theorem execRingInFrame_wf (n : Nat) (f : AgentFrame) (s : State) (h : s.mem.wf = true) :
    keepsWf (execRingInFrame n f s) := by
  refine keepsWf_next ?_
  (repeat' split) <;> simp [h]

theorem execRingOverload_wf (n : Nat) (s : State) (h : s.mem.wf = true) : keepsWf (execRingOverload n s) := by
  refine keepsWf_next ?_
  dsimp only
  (repeat' split) <;> simp [h]

theorem execEthFrameReceive_wf (port : Nat) (frame : LinkFrame) (full : List (Nat × Nat)) (s : State) (h : s.mem.wf = true)
    : keepsWf (execEthFrameReceive port frame full s) := by
  refine keepsWf_next ?_
  dsimp only
  (repeat' split) <;> simp [h]

theorem execNodeTableExpiry_wf (s : State) (h : s.mem.wf = true) : keepsWf (execNodeTableExpiry s) :=
  keepsWf_next (by simp [h])

theorem execSupervisionFrame_wf (s : State) (h : s.mem.wf = true) : keepsWf (execSupervisionFrame s) := by
  refine keepsWf_next (foldl_wf (fun s x h => ?_) _ _ h)
  simp [h]

theorem execMdReplyTimeout_wf (session : Nat) (s : State) (h : s.mem.wf = true) : keepsWf (execMdReplyTimeout session s) :=
  keepsWf_next (by simp [h])

theorem execTtdpHello_wf (rx : Bool) (s : State) (h : s.mem.wf = true) : keepsWf (execTtdpHello rx s) := by
  refine keepsWf_next ?_
  (repeat' split) <;> simp [h]

theorem execTtdpNeighbourLost_wf (s : State) (h : s.mem.wf = true) : keepsWf (execTtdpNeighbourLost s) :=
  keepsWf_next (by simp [h])

theorem execEtbInauguration_wf (count pos : Nat) (topo : Word) (s : State) (h : s.mem.wf = true) :
    keepsWf (execEtbInauguration count pos topo s) := by
  refine keepsWf_next ?_
  (repeat' split) <;> simp [h]

theorem execPtpMessage_wf (m : PtpMsg) (s : State) (h : s.mem.wf = true) : keepsWf (execPtpMessage m s) := by
  refine keepsWf_next ?_
  (repeat' split) <;> simp [h]

theorem execPtpLockLost_wf (s : State) (h : s.mem.wf = true) : keepsWf (execPtpLockLost s) := by
  refine keepsWf_next ?_
  (repeat' split) <;> simp [h]

theorem execPpsInEdge_wf (into : Nat) (s : State) (h : s.mem.wf = true) : keepsWf (execPpsInEdge into s) := by
  refine keepsWf_next ?_
  (repeat' split) <;> simp [h]

theorem execWholeSecond_wf (s : State) (h : s.mem.wf = true) : keepsWf (execWholeSecond s) := by
  refine keepsWf_next ?_
  dsimp only
  (repeat' split) <;> simp [h]

theorem execMvbMasterFrame_wf (ma mb : Option LinkFrame) (slave : Option LinkFrame × Option LinkFrame) (first : Bool) (s :
    State) (h : s.mem.wf = true) : keepsWf (execMvbMasterFrame ma mb slave first s) := by
  refine keepsWf_next ?_
  dsimp only
  (repeat' split) <;> simp [h]

theorem execWtbPeriod_wf (s : State) (h : s.mem.wf = true) : keepsWf (execWtbPeriod s) := by
  refine keepsWf_next ?_
  dsimp only
  (repeat' split) <;> simp [h]

theorem execWtbNodeFrame_wf (a b : Option LinkFrame) (s : State) (h : s.mem.wf = true) :
    keepsWf (execWtbNodeFrame a b s) := by
  refine keepsWf_next ?_
  dsimp only
  (repeat' split) <;> simp [h]

theorem execCanFrameSent_wf (c : Nat) (s : State) (h : s.mem.wf = true) : keepsWf (execCanFrameSent c s) := by
  refine keepsWf_next ?_
  (repeat' split) <;> simp [h]

theorem execCanBusOff_wf (c : Nat) (s : State) (h : s.mem.wf = true) : keepsWf (execCanBusOff c s) := by
  refine keepsWf_next ?_
  dsimp only
  (repeat' split) <;> simp [h]

theorem execCanAutoRecover_wf (c : Nat) (s : State) (h : s.mem.wf = true) : keepsWf (execCanAutoRecover c s) := by
  refine keepsWf_next ?_
  (repeat' split) <;> simp [h]

theorem execSerialFrameSent_wf (c : Nat) (s : State) (h : s.mem.wf = true) : keepsWf (execSerialFrameSent c s) := by
  refine keepsWf_next ?_
  (repeat' split) <;> simp [h]

theorem execCycle_wf (rx : Option RidgeRx) (s : State) (h : s.mem.wf = true) : keepsWf (execCycle rx s) := by
  refine keepsWf_next ?_
  (repeat' split) <;> simp [h]

theorem execSlot_wf (rx : RidgeRx) (late : Bool) (s : State) (h : s.mem.wf = true) : keepsWf (execSlot rx late s) :=
  keepsWf_next (by simp [h])

theorem execDiscover_wf (rx : Option RidgeRx) (s : State) (h : s.mem.wf = true) : keepsWf (execDiscover rx s) := by
  refine keepsWf_next ?_
  (repeat' split) <;> simp [h]

theorem execRidgeLinkChange_wf (east up : Bool) (s : State) (h : s.mem.wf = true) :
    keepsWf (execRidgeLinkChange east up s) := by
  refine keepsWf_next ?_
  (repeat' split) <;> simp [h]

theorem execNoManager_wf (s : State) (h : s.mem.wf = true) : keepsWf (execNoManager s) := by
  refine keepsWf_next ?_
  dsimp only
  (repeat' split) <;> simp [h]

theorem execRidgeCrcError_wf (rx : RidgeRx) (stomped : Bool) (s : State) (h : s.mem.wf = true) :
    keepsWf (execRidgeCrcError rx stomped s) :=
  keepsWf_next (by simp [h])

theorem execPosted_wf (rx : RidgeRx) (s : State) (h : s.mem.wf = true) : keepsWf (execPosted rx s) :=
  keepsWf_next (by simp [h])

theorem execRequest_wf (rx : RidgeRx) (s : State) (h : s.mem.wf = true) : keepsWf (execRequest rx s) :=
  keepsWf_next (by simp [h])

theorem execRequestService_wf (s : State) (h : s.mem.wf = true) : keepsWf (execRequestService s) := by
  refine keepsWf_next ?_
  (repeat' split) <;> simp [h]

theorem execCompletion_wf (c : CompletionRx) (s : State) (h : s.mem.wf = true) : keepsWf (execCompletion c s) :=
  keepsWf_next (by simp [h])

theorem execRetryBackoff_wf (n : Nat) (s : State) (h : s.mem.wf = true) : keepsWf (execRetryBackoff n s) := by
  refine keepsWf_next ?_
  dsimp only
  (repeat' split) <;> simp [h]

theorem execCplTimeout_wf (s : State) (h : s.mem.wf = true) : keepsWf (execCplTimeout s) := by
  refine keepsWf_next (foldl_wf (fun s x h => ?_) _ _ h)
  (repeat' split) <;> simp [h]

theorem execTunnel_wf (rx : RidgeRx) (s : State) (h : s.mem.wf = true) : keepsWf (execTunnel rx s) :=
  keepsWf_next (by simp [h])

theorem execIrq_wf (rx : RidgeRx) (s : State) (h : s.mem.wf = true) : keepsWf (execIrq rx s) :=
  keepsWf_next (by simp [h])

theorem execMsg_wf (rx : MsgRx) (s : State) (h : s.mem.wf = true) : keepsWf (execMsg rx s) := by
  refine keepsWf_next ?_
  (repeat' split) <;> simp [h]

theorem execAck_wf (rx : RidgeRx) (s : State) (h : s.mem.wf = true) : keepsWf (execAck rx s) :=
  keepsWf_next (by simp [h])

theorem execAckDelay_wf (n : Nat) (s : State) (h : s.mem.wf = true) : keepsWf (execAckDelay n s) := by
  refine keepsWf_next ?_
  (repeat' split) <;> simp [h]

theorem execHello_wf (rx : Option ColRx) (s : State) (h : s.mem.wf = true) : keepsWf (execHello rx s) := by
  refine keepsWf_next ?_
  (repeat' split) <;> simp [h]

theorem execPartnerSeekTimeout_wf (s : State) (h : s.mem.wf = true) : keepsWf (execPartnerSeekTimeout s) := by
  refine keepsWf_next ?_
  (repeat' split) <;> simp [h]

theorem execJoinReq_wf (rx : ColRx) (delay : Nat) (s : State) (h : s.mem.wf = true) : keepsWf (execJoinReq rx delay s) :=
  keepsWf_next (by simp [h])

theorem execJoinAck_wf (rx : ColRx) (delay : Nat) (s : State) (h : s.mem.wf = true) : keepsWf (execJoinAck rx delay s) :=
  keepsWf_next (by simp [h])

theorem execPage_wf (rx : ColRx) (s : State) (h : s.mem.wf = true) : keepsWf (execPage rx s) :=
  keepsWf_next (by simp [h])

theorem execJoinCopyRound_wf (s : State) (h : s.mem.wf = true) : keepsWf (execJoinCopyRound s) := by
  refine keepsWf_next ?_
  (repeat' split) <;> simp [h]

theorem execFinalDelta_wf (s : State) (h : s.mem.wf = true) : keepsWf (execFinalDelta s) := by
  refine keepsWf_next ?_
  (repeat' split) <;> simp [h]

theorem execCut_wf (rx : ColRx) (s : State) (h : s.mem.wf = true) : keepsWf (execCut rx s) :=
  keepsWf_next (by simp [h])

theorem execJoinTimeout_wf (s : State) (h : s.mem.wf = true) : keepsWf (execJoinTimeout s) := by
  refine keepsWf_next ?_
  (repeat' split) <;> simp [h]

theorem execAbort_wf (rx : ColRx) (s : State) (h : s.mem.wf = true) : keepsWf (execAbort rx s) :=
  keepsWf_next (by simp [h])

theorem execGroup_wf (rx : ColRx) (s : State) (h : s.mem.wf = true) : keepsWf (execGroup rx s) :=
  keepsWf_next (by simp [h])

theorem execMark_wf (rx : ColRx) (s : State) (h : s.mem.wf = true) : keepsWf (execMark rx s) :=
  keepsWf_next (by simp [h])

theorem execStreamGap_wf (s : State) (h : s.mem.wf = true) : keepsWf (execStreamGap s) := by
  refine keepsWf_next ?_
  dsimp only
  (repeat' split) <;> simp [h]

theorem execBeat_wf (rx : Option ColRx) (s : State) (h : s.mem.wf = true) : keepsWf (execBeat rx s) := by
  refine keepsWf_next ?_
  (repeat' split) <;> simp [h]

theorem execLeave_wf (rx : ColRx) (s : State) (h : s.mem.wf = true) : keepsWf (execLeave rx s) :=
  keepsWf_next (by simp [h])

theorem execColSignalLoss_wf (s : State) (h : s.mem.wf = true) : keepsWf (execColSignalLoss s) := by
  refine keepsWf_next ?_
  (repeat' split) <;> simp [h]

theorem execColLaneDown_wf (lane2 : Bool) (s : State) (h : s.mem.wf = true) : keepsWf (execColLaneDown lane2 s) := by
  refine keepsWf_next ?_
  (repeat' split) <;> simp [h]

theorem execPartnerSilenceTimeout_wf (s : State) (h : s.mem.wf = true) : keepsWf (execPartnerSilenceTimeout s) := by
  refine keepsWf_next ?_
  (repeat' split) <;> simp [h]

theorem execCairnRecordIntake_wf (s : State) (h : s.mem.wf = true) : keepsWf (execCairnRecordIntake s) :=
  keepsWf_next (by simp [h])

theorem execLogSourceDrop_wf (s : State) (h : s.mem.wf = true) : keepsWf (execLogSourceDrop s) := by
  refine keepsWf_next (foldl_wf (fun s x h => ?_) _ _ h)
  simp [h]

theorem execFlashRefresh_wf (part : Nat) (ok : Bool) (s : State) (h : s.mem.wf = true) :
    keepsWf (execFlashRefresh part ok s) := by
  refine keepsWf_next ?_
  (repeat' split) <;> simp [h]

theorem execMetrologySample_wf (em1 em2 em3 em4 em5 em6 : Int) (s : State) (h : s.mem.wf = true) :
    keepsWf (execMetrologySample em1 em2 em3 em4 em5 em6 s) := by
  refine keepsWf_next ?_
  (repeat' split) <;> simp [h]

theorem execEnergyWindowEnd_wf (s : State) (h : s.mem.wf = true) : keepsWf (execEnergyWindowEnd s) := by
  refine keepsWf_next ?_
  (repeat' split) <;> simp [h]

theorem execSupplySystemClassify_wf (s : State) (h : s.mem.wf = true) : keepsWf (execSupplySystemClassify s) := by
  refine keepsWf_next ?_
  (repeat' split) <;> simp [h]

theorem execPeriodEnd_wf (s : State) (h : s.mem.wf = true) : keepsWf (execPeriodEnd s) := by
  refine keepsWf_next ?_
  (repeat' split) <;> simp [h]

theorem execSealOpened_wf (s : State) (h : s.mem.wf = true) : keepsWf (execSealOpened s) := by
  refine keepsWf_next ?_
  (repeat' split) <;> simp [h]

theorem execSealClosed_wf (s : State) (h : s.mem.wf = true) : keepsWf (execSealClosed s) := by
  refine keepsWf_next ?_
  (repeat' split) <;> simp [h]

theorem execTime_wf (message : List Byte) (s : State) (h : s.mem.wf = true) : keepsWf (execTime message s) := by
  refine keepsWf_next ?_
  (repeat' split) <;> simp [h]

theorem execPosition_wf (message : List Byte) (s : State) (h : s.mem.wf = true) : keepsWf (execPosition message s) := by
  refine keepsWf_next ?_
  dsimp only
  (repeat' split) <;> simp [h]

theorem execPacket_wf (message : List Byte) (s : State) (h : s.mem.wf = true) : keepsWf (execPacket message s) := by
  refine keepsWf_next ?_
  dsimp only
  (repeat' split) <;> simp [h]

theorem execTrigRestart_wf (s : State) (h : s.mem.wf = true) : keepsWf (execTrigRestart s) := by
  refine keepsWf_next ?_
  (repeat' split) <;> simp [h]

theorem execFiDelayExpiry_wf (l : Fin 48) (s : State) (h : s.mem.wf = true) : keepsWf (execFiDelayExpiry l s) := by
  refine keepsWf_next ?_
  (repeat' split) <;> simp [h]

theorem execFiPermitEnded_wf (s : State) (h : s.mem.wf = true) : keepsWf (execFiPermitEnded s) := by
  refine keepsWf_next ?_
  dsimp only
  (repeat' split) <;> simp [h]

theorem execLongOperationComplete_wf (s : State) (h : s.mem.wf = true) : keepsWf (execLongOperationComplete s) := by
  refine keepsWf_next ?_
  (repeat' split) <;> simp [h]

theorem execEthLinkChange_wf (port : Nat) (up : Bool) (speed : Nat) (s : State) (h : s.mem.wf = true) :
    keepsWf (execEthLinkChange port up speed s) := by
  refine keepsWf_next ?_
  (repeat' split) <;> simp [h]

theorem execColLaneUp_wf (lane2 : Bool) (s : State) (h : s.mem.wf = true) : keepsWf (execColLaneUp lane2 s) := by
  refine keepsWf_next ?_
  dsimp only
  (repeat' split) <;> simp [h]

theorem execMvbLineTimeout_wf (lineB : Bool) (s : State) (h : s.mem.wf = true) : keepsWf (execMvbLineTimeout lineB s) := by
  refine keepsWf_next ?_
  dsimp only
  (repeat' split) <;> simp [h]

theorem execPpsInTimeout_wf (s : State) (h : s.mem.wf = true) : keepsWf (execPpsInTimeout s) :=
  keepsWf_next (by simp [h])

theorem execFlashRetentionScan_wf (part bits : Nat) (near : Bool) (s : State) (h : s.mem.wf = true) :
    keepsWf (execFlashRetentionScan part bits near s) := by
  refine keepsWf_next ?_
  dsimp only
  (repeat' split) <;> simp [h]

theorem execTrigRestartDone_wf (s : State) (h : s.mem.wf = true) : keepsWf (execTrigRestartDone s) := by
  refine keepsWf_next ?_
  (repeat' split) <;> simp [h]

@[simp] theorem takeMsg_wf (s : State) (m : NetMsg) (g : State → State) (hg : ∀ s, s.mem.wf = true → (g s).mem.wf = true) (h
    : s.mem.wf = true) : (s.takeMsg m g).mem.wf = true := by
  unfold State.takeMsg
  split
  · exact hg _ h
  · exact h

theorem execPdReceive_wf (t : PdTelegram) (s : State) (h : s.mem.wf = true) : keepsWf (execPdReceive t s) :=
  keepsWf_next (takeMsg_wf _ _ _ (fun s h => pdIn_wf _ _ h) h)

theorem execMdReceive_wf (t : MdMessage) (s : State) (h : s.mem.wf = true) : keepsWf (execMdReceive t s) :=
  keepsWf_next (takeMsg_wf _ _ _ (fun s h => by simp [h]) h)

theorem execRawEthernetReceive_wf (t : Nat) (b : List Byte) (s : State) (h : s.mem.wf = true) :
    keepsWf (execRawEthernetReceive t b s) :=
  keepsWf_next (takeMsg_wf _ _ _ (fun s h => by simp [h]) h)

theorem execCanFrameReceive_wf (c : Nat) (f : CanFrame) (ok : Bool) (s : State) (h : s.mem.wf = true) :
    keepsWf (execCanFrameReceive c f ok s) := by
  refine keepsWf_next ?_
  split
  · have h1 := receive_wf s (canLink c) (f.link ok) (fun s g => s.canIn c g) (fun s g h => by simp [h]) h
    simp [h1]
  · exact h

theorem execSerialFrameReceive_wf (c : Nat) (f : LinkFrame) (s : State) (h : s.mem.wf = true) :
    keepsWf (execSerialFrameReceive c f s) := by
  refine keepsWf_next ?_
  split
  · have h1 := receive_wf s (serLink c) f (fun s g => s.serIn c g) (fun s g h => by simp [h]) h
    simp [h1]
  · exact h

theorem execStationLost_wf (s : State) (h : s.mem.wf = true) : keepsWf (execStationLost s) := by
  refine keepsWf_next ?_
  dsimp only
  split
  · refine foldl_wf (fun s n h => ?_) _ _ h
    split
    · exact loseStation_wf _ _ h
    · exact h
  · split
    · exact loseStation_wf _ _ h
    · exact h

theorem execStreamRetransmit_wf (n : Nat) (s : State) (h : s.mem.wf = true) : keepsWf (execStreamRetransmit n s) := by
  refine keepsWf_next ?_
  split
  · exact foldl_wf (fun s f h => by simp [h]) _ _ h
  · exact h

theorem execMailboxSend_wf (s : State) (h : s.mem.wf = true) : keepsWf (execMailboxSend s) := by
  refine keepsWf_next ?_
  extract_lets u a b
  have hu : u.mem.wf = true := by unfold u; split <;> simp [h]
  have ha : a.1.mem.wf = true := posSignal_wf _ _ hu
  have hb : b.1.mem.wf = true := posSignal_wf _ _ ha
  split
  · exact toTrig_wf _ _ _ hb
  · exact hb

theorem execPdTimeout_wf (s : State) (h : s.mem.wf = true) : keepsWf (execPdTimeout s) := by
  refine keepsWf_next ?_
  split
  · exact h
  · refine foldl_wf (fun s i h => ?_) _ _ h
    split
    · exact acquire_wf _ _ _ (by simp [h])
    · exact h

theorem execMvbSinkTimeout_wf (s : State) (h : s.mem.wf = true) : keepsWf (execMvbSinkTimeout s) := by
  refine keepsWf_next ?_
  split
  · exact h
  · refine foldl_wf (fun s i h => ?_) _ _ h
    split
    · exact acquire_wf _ _ _ (by simp [h])
    · exact h

theorem execWtbSinkTimeout_wf (s : State) (h : s.mem.wf = true) : keepsWf (execWtbSinkTimeout s) := by
  refine keepsWf_next ?_
  split
  · exact h
  · refine foldl_wf (fun s i h => ?_) _ _ h
    dsimp only
    split
    · exact wtbLose_wf _ _ (by simp [h])
    · exact h

theorem execWtbInauguration_wf (t : WtbTopo) (s : State) (h : s.mem.wf = true) : keepsWf (execWtbInauguration t s) := by
  refine keepsWf_next ?_
  split
  · exact h
  · dsimp only
    refine topoSignal_wf _ _ _ _ (foldl_wf (fun s i h => ?_) _ _ (by simp [h]))
    split
    · exact h
    · split
      · split
        · exact h
        · exact wtbLose_wf _ _ h
      · split <;> exact h

theorem execTraverseScrubRead_wf (s : State) (h : s.mem.wf = true) : keepsWf (execTraverseScrubRead s) := by
  refine keepsWf_next ?_
  split
  · exact h
  · extract_lets u
    have hu : u.mem.wf = true := by unfold u; split <;> simp [h]
    clear_value u
    split
    · exact hu
    · simp [hu]

theorem execProgramRamScrub_wf (s : State) (h : s.mem.wf = true) : keepsWf (execProgramRamScrub s) := by
  refine keepsWf_next ?_
  split
  · exact h
  · refine foldl_wf (fun s e h => ?_) _ _ h
    dsimp only
    split <;> simp [h]

theorem execPacketForward_wf (op : Nat) (r : Req) (s : State) (h : s.mem.wf = true) :
    keepsWf (execPacketForward op r s) := by
  refine keepsWf_next ?_
  split
  · exact h
  · exact withPacket_wf _ _ _ _ (fun s h => by simp [h]) h

theorem execRegRead_wf (r : Req) (s : State) (h : s.mem.wf = true) : keepsWf (execRegRead r s) := by
  refine keepsWf_next (serveAnswer_wf _ _ _ _ (fun s h => ?_) h)
  dsimp only
  split
  · exact h
  · exact foldl_fst_wf (fun s a h => by rw [readReg_mem]; exact h) _ _ h

theorem execRegWrite_wf (r : Req) (s : State) (h : s.mem.wf = true) : keepsWf (execRegWrite r s) := by
  refine keepsWf_next (serveAnswer_wf _ _ _ _ (fun s h => ?_) h)
  extract_lets ws go u
  have hgo : ∀ s : State, s.mem.wf = true → (go s).mem.wf = true := fun s h => foldl_wf (fun s w h => regWrite_wf _ _ _ _ _ h) _ _ h
  have hu : u.mem.wf = true := by
    unfold u
    split
    · exact hgo _ h
    · exact hgo _ (supersede_wf _ h)
  clear_value u go
  split
  · exact h
  · split
    · exact h
    · split
      · exact h
      · rw [abortWd_mem]
        exact hu

theorem execPrgBegin_wf (r : Req) (flash : Bool) (s : State) (h : s.mem.wf = true) : keepsWf (execPrgBegin r flash s) := by
  unfold execPrgBegin
  refine keepsWf_next (serve_wf _ _ _ _ (fun s h => ?_) h)
  dsimp only
  generalize r.nat 9 1 = src
  generalize r.nat 8 1 = dst
  generalize BitVec.ofNat 32 (r.nat 0 4) = id
  generalize r.nat 4 4 = len
  generalize (if dst = 0 then 8 * slotWords else 0x4000000) = cap
  have hq := beginFlash_wf s id len src dst h
  split
  · simp [h]
  · split
    · simp [h]
    · split
      · simp [h]
      · split
        · exact finish_wf _ _ _ _ (beginHost_wf _ _ _ _ (supersede_wf _ h))
        · split
          · rw [beginLong_mem]
            exact hq
          · exact finish_wf _ _ _ _ hq

theorem execUpdBegin_wf (r : Req) (s : State) (h : s.mem.wf = true) : keepsWf (execUpdBegin r s) := by
  refine keepsWf_next (serve_wf _ _ _ _ (fun s h => ?_) h)
  split
  · exact finish_wf _ _ _ _ h
  · split
    · exact finish_wf _ _ _ _ h
    · dsimp only
      refine finish_wf _ _ _ _ ?_
      have hv : s.supersede.mem.wf = true := supersede_wf _ h
      split
      · exact changeMode_wf _ _ _ hv
      · exact hv

theorem execUpdActivate_wf (r : Req) (flash : Bool) (s : State) (h : s.mem.wf = true) :
    keepsWf (execUpdActivate r flash s) := by
  refine keepsWf_next (serveWith_wf _ _ _ _ (fun role armed s h => ?_) h)
  split
  · next u _ _ =>
    extract_lets refused s'
    have hs' : s'.mem.wf = true := by
      refine twoSteps_wf _ _ _ _ _ _ (fun s h => h) (fun s h => ?_) h
      split
      · exact activate_wf _ _ h
      · exact finish_wf _ _ _ _ h
    clear_value s'
    split
    · exact leaveUpdate_wf _ hs'
    · exact hs'
  · exact finish_wf _ _ _ _ h

theorem execPairSwap_wf (r : Req) (s : State) (h : s.mem.wf = true) : keepsWf (execPairSwap r s) := by
  refine keepsWf_next ?_
  split
  · split <;> simp [h]
  · exact serveWith_wf _ _ _ _ (fun role armed s h => twoSteps_wf _ _ _ _ _ _ (fun s h => h) (fun s h => by simp [h]) h) h

theorem execLaneRestore_wf (r : Req) (s : State) (h : s.mem.wf = true) : keepsWf (execLaneRestore r s) := by
  refine keepsWf_next (serveWith_wf _ _ _ _ (fun role armed s h => twoSteps_wf _ _ _ _ _ _ (fun s h => h) (fun s h => ?_) h) h)
  split <;> simp [h]

theorem execFiPermit_wf (r : Req) (s : State) (h : s.mem.wf = true) : keepsWf (execFiPermit r s) :=
  keepsWf_next (serveWith_wf _ _ _ _ (fun role armed s h => twoSteps_wf _ _ _ _ _ _ (fun s h => h) (fun s h => by simp [h]) h) h)

theorem execGroupOverload_wf (g : Nat) (fast : Bool) (s : State) (h : s.mem.wf = true) :
    keepsWf (execGroupOverload g fast s) := by
  refine keepsWf_next ?_
  split
  · dsimp only
    refine foldl_wf (fun s n h => by simp [h]) _ _ ?_
    rw [setBit_mem, groupLatch_mem]
    refine foldl_wf (fun s n h => ?_) _ _ h
    split <;> simp [h]
  · exact h

theorem execFieldGroupMissing_wf (g : Nat) (s : State) (h : s.mem.wf = true) : keepsWf (execFieldGroupMissing g s) := by
  refine keepsWf_next ?_
  split
  · extract_lets a b c d
    have ha : a.mem.wf = true := foldl_wf (fun s n h => by simp [h]) _ _ h
    have hc : c.mem.wf = true := by unfold c b; simp [ha]
    have hd : d.mem.wf = true := foldl_wf (fun s n h => loseChan_wf _ _ h) _ _ hc
    exact foldl_wf (fun s n h => by simp [h]) _ _ (by simp [hd])
  · exact h

theorem execFieldGroupPresent_wf (g : Nat) (s : State) (h : s.mem.wf = true) : keepsWf (execFieldGroupPresent g s) := by
  refine keepsWf_next ?_
  split
  · dsimp only
    exact writeGroup_wf _ _ (foldl_wf (fun s n h => by simp [h]) _ _ (by simp [h]))
  · exact h

theorem execCfgReload_wf (s : State) (h : s.mem.wf = true) : keepsWf (execCfgReload s) := by
  refine keepsWf_next ?_
  split
  · exact h
  · exact foldl_wf (fun s k h => by simp [h]) _ _ h

theorem execSwapTick_wf (s : State) (h : s.mem.wf = true) : keepsWf (execSwapTick s) := by
  refine keepsWf_next ?_
  split
  · exact h
  · split
    · exact h
    · split
      · exact answerLong_wf _ _ _ (putOwn_wf _ (by simp [h]))
      · split <;> simp [h]

theorem execFieldScan_wf (scan : Scan) (s : State) (h : s.mem.wf = true) : keepsWf (execFieldScan scan s) := by
  unfold execFieldScan
  refine keepsWf_next ?_
  dsimp only
  refine scanSafety_wf _ _ ?_
  refine foldl_wf (fun s i h => by simp [h]) _ _ ?_
  refine foldl_wf (fun s i h => by simp [h]) _ _ ?_
  refine foldl_wf (fun s i h => writeGroup_wf _ _ h) _ _ ?_
  refine shutInputs_wf _ ?_
  refine foldl_wf (fun s i h => by simp [h]) _ _ ?_
  refine foldl_wf (fun s i h => by simp [h]) _ _ ?_
  refine foldl_wf (fun s i h => by simp [h]) _ _ ?_
  refine foldl_wf (fun s i h => by simp [h]) _ _ ?_
  simp [h]

theorem execProgramSwitch_wf (s : State) (h : s.mem.wf = true) : keepsWf (execProgramSwitch s) := by
  refine keepsWf_next ?_
  split
  · exact h
  · split
    · exact dispatch_wf _ h
    · extract_lets u r v w x _ y
      have hu : u.mem.wf = true := drainAll_wf _ (by rw [mem_killRelease]; exact h)
      have hr : r.2.mem.wf = true := by unfold r; rw [draw_mem]; exact hu
      clear_value r
      have hv : v.mem.wf = true := by unfold v; rw [restartT7_mem]; exact makeActive_wf _ _ hr
      clear_value v
      refine answerLong_wf _ _ _ (dispatch_wf _ (releaseTasks_wf _ ?_))
      simp [y, x, w, hv]

theorem execBridgeCompletion_wf (s : State) (h : s.mem.wf = true) : keepsWf (execBridgeCompletion s) := by
  refine keepsWf_next ?_
  dsimp only
  split
  · split
    · split
      · exact h
      · generalize hu : State.dispatch _ = u
        have hu : u.mem.wf = true := by rw [← hu]; exact dispatch_wf _ (by simp [h])
        split
        · exact settle_wf _ _ _ hu
        · exact settle_wf _ _ _ hu
    · exact h
  · exact h

theorem execBedge_wf (v : Vote) (o : SbOp) (s : State) (h : s.mem.wf = true) : keepsWf (execBedge v o s) := by
  refine keepsWf_next (execCc_wf _ _ _ _ (fun w c s h => ?_) h)
  dsimp only
  split
  · exact h
  · exact readImg_wf _ _ _ _ _ (fun d s h => storeSig_wf _ _ _ _ h) h

theorem execPowerUp_wf (feed2 : Bool) (straps : Straps) (s : State) (h : s.mem.wf = true) :
    keepsWf (execPowerUp feed2 straps s) := by
  refine keepsWf_next ?_
  split
  · exact h
  · refine trigStart_wf _ _ ?_
    rw [flag_mem, wf_iff]
    have hc := (wf_iff _).mp (show (State.begin (s.cleared false) straps).mem.wf = true by rw [begin_mem]; exact cleared_wf s false h)
    intro a
    cases a with
    | ps => exact rfl
    | img => exact hc .img
    | rs => exact hc .rs
    | prg => exact hc .prg
    | live => exact hc .live
    | com => exact hc .com

/-! ### Every command -/

theorem exec_wf (i : Instr) (s : State) (h : s.mem.wf = true) : keepsWf (exec i s) := by
  cases i with
  | bld v o => exact execBld_wf v o s h
  | band v o => exact execBand_wf v o s h
  | bor v o => exact execBor_wf v o s h
  | bxor v o => exact execBxor_wf v o s h
  | bst v o => exact execBst_wf v o s h
  | bsr v o => exact execBsr_wf v o s h
  | bedge v o => exact execBedge_wf v o s h
  | push v code => exact execPush_wf v code s h
  | pop v => exact execPop_wf v s h
  | pops v => exact execPops_wf v s h
  | bnot v => exact execBnot_wf v s h
  | bnots v => exact execBnots_wf v s h
  | bone v => exact execBone_wf v s h
  | bzero v => exact execBzero_wf v s h
  | bany v => exact execBany_wf v s h
  | ball v => exact execBall_wf v s h
  | mfba v rd => exact execMfba_wf v rd s h
  | mtba v ra => exact execMtba_wf v ra s h
  | mfsm v rd => exact execMfsm_wf v rd s h
  | mtsm v ra => exact execMtsm_wf v ra s h
  | bcnt v rd => exact execBcnt_wf v rd s h
  | bsplat v => exact execBsplat_wf v s h
  | wld v o => exact execWld_wf v o s h
  | wst v o => exact execWst_wf v o s h
  | slds v o => exact execSlds_wf v o s h
  | ssts v o => exact execSsts_wf v o s h
  | sage v o => exact execSage_wf v o s h
  | wald v ix sid => exact execWald_wf v ix sid s h
  | wast v ix sid => exact execWast_wf v ix sid s h
  | add v o => exact execAdd_wf v o s h
  | sub v o => exact execSub_wf v o s h
  | and v o => exact execAnd_wf v o s h
  | or v o => exact execOr_wf v o s h
  | xor v o => exact execXor_wf v o s h
  | shl v o => exact execShl_wf v o s h
  | shr v o => exact execShr_wf v o s h
  | sar v o => exact execSar_wf v o s h
  | mul v o => exact execMul_wf v o s h
  | div v o => exact execDiv_wf v o s h
  | divu v o => exact execDivu_wf v o s h
  | rem v o => exact execRem_wf v o s h
  | remu v o => exact execRemu_wf v o s h
  | cmp v ra rb => exact execCmp_wf v ra rb s h
  | mov v rd ra => exact execMov_wf v rd ra s h
  | mtwa v ra => exact execMtwa_wf v ra s h
  | mfwa v rd => exact execMfwa_wf v rd s h
  | addi v o => exact execAddi_wf v o s h
  | andi v o => exact execAndi_wf v o s h
  | ori v o => exact execOri_wf v o s h
  | xori v o => exact execXori_wf v o s h
  | cmpi v ra imm => exact execCmpi_wf v ra imm s h
  | shi v o => exact execShi_wf v o s h
  | lui v rd imm => exact execLui_wf v rd imm s h
  | fadd v ra => exact execFadd_wf v ra s h
  | fsub v ra => exact execFsub_wf v ra s h
  | fmul v ra => exact execFmul_wf v ra s h
  | fdiv v ra => exact execFdiv_wf v ra s h
  | fsqrt v => exact execFsqrt_wf v s h
  | fcmp v ra => exact execFcmp_wf v ra s h
  | fitof v => exact execFitof_wf v s h
  | futof v => exact execFutof_wf v s h
  | fftoi v => exact execFftoi_wf v s h
  | fftoir v => exact execFftoir_wf v s h
  | ldw v o => exact execLdw_wf v o s h
  | ldh v o => exact execLdh_wf v o s h
  | ldby v o => exact execLdby_wf v o s h
  | ldp v o => exact execLdp_wf v o s h
  | stw v o => exact execStw_wf v o s h
  | sth v o => exact execSth_wf v o s h
  | stby v o => exact execStby_wf v o s h
  | stp v o => exact execStp_wf v o s h
  | br v cond off => exact execBr_wf v cond off s h
  | call v off => exact execCall_wf v off s h
  | ret v => exact execRet_wf v s h
  | loop v rc bound => exact execLoop_wf v rc bound s h
  | endl v => exact execEndl_wf v s h
  | nop v => exact execNop_wf v s h
  | endRelease v => exact execEndRelease_wf v s h
  | clrf v => exact execClrf_wf v s h
  | mff v rd => exact execMff_wf v rd s h
  | mtf v ra => exact execMtf_wf v ra s h
  | illegal v => exact execIllegal_wf v s h
  | storeBufferWrite => exact execStoreBufferWrite_wf s h
  | bridgeCompletion => exact execBridgeCompletion_wf s h
  | bridgeFarError => exact execBridgeFarError_wf s h
  | budgetAbort => exact execBudgetAbort_wf s h
  | tickBoundary cv0 cv1 => exact execTickBoundary_wf cv0 cv1 s h
  | overrunLimit n => exact execOverrunLimit_wf n s h
  | programSwitch => exact execProgramSwitch_wf s h
  | switchTimeout => exact execSwitchTimeout_wf s h
  | t7Start => exact execT7Start_wf s h
  | initRoutineTimeout => exact execInitRoutineTimeout_wf s h
  | laneReadmission l copies readback => exact execLaneReadmission_wf l copies readback s h
  | forcedReadmission l copies readback => exact execForcedReadmission_wf l copies readback s h
  | degleftCountdown => exact execDegleftCountdown_wf s h
  | ceWriteBack => exact execCeWriteBack_wf s h
  | traverseScrubRead => exact execTraverseScrubRead_wf s h
  | programRamScrub => exact execProgramRamScrub_wf s h
  | nopCmd r => exact execNopCmd_wf r s h
  | ident r => exact execIdent_wf r s h
  | resync r => exact execResync_wf r s h
  | snap r => exact execSnap_wf r s h
  | timeSet r => exact execTimeSet_wf r s h
  | regRead r => exact execRegRead_wf r s h
  | regWrite r => exact execRegWrite_wf r s h
  | sessOpen r => exact execSessOpen_wf r s h
  | sessClose r => exact execSessClose_wf r s h
  | modeReq r => exact execModeReq_wf r s h
  | cfgOpen r => exact execCfgOpen_wf r s h
  | cfgWrite r => exact execCfgWrite_wf r s h
  | cfgRead r => exact execCfgRead_wf r s h
  | cfgCommit r flash => exact execCfgCommit_wf r flash s h
  | prgBegin r flash => exact execPrgBegin_wf r flash s h
  | prgBlock r flash => exact execPrgBlock_wf r flash s h
  | prgVerify r img => exact execPrgVerify_wf r img s h
  | prgSwitch r standby => exact execPrgSwitch_wf r standby s h
  | sigRead r => exact execSigRead_wf r s h
  | sigForce r => exact execSigForce_wf r s h
  | sigUnforce r => exact execSigUnforce_wf r s h
  | forceList r => exact execForceList_wf r s h
  | sfCheckRead r => exact execSfCheckRead_wf r s h
  | sfConfirm r => exact execSfConfirm_wf r s h
  | sfReset r => exact execSfReset_wf r s h
  | logInfo r => exact execLogInfo_wf r s h
  | logRead r => exact execLogRead_wf r s h
  | updBegin r => exact execUpdBegin_wf r s h
  | updBlock r flash => exact execUpdBlock_wf r flash s h
  | updActivate r flash => exact execUpdActivate_wf r flash s h
  | pairRole r => exact execPairRole_wf r s h
  | pairSwap r => exact execPairSwap_wf r s h
  | laneRestore r => exact execLaneRestore_wf r s h
  | ageReport r => exact execAgeReport_wf r s h
  | marginPlan r => exact execMarginPlan_wf r s h
  | marginStep r => exact execMarginStep_wf r s h
  | fiSet r => exact execFiSet_wf r s h
  | fiClear r => exact execFiClear_wf r s h
  | fiPermit r => exact execFiPermit_wf r s h
  | empStatus r => exact execEmpStatus_wf r s h
  | empRead r => exact execEmpRead_wf r s h
  | empAck r => exact execEmpAck_wf r s h
  | empParam r => exact execEmpParam_wf r s h
  | empSwid r => exact execEmpSwid_wf r s h
  | empUpdBegin r => exact execEmpUpdBegin_wf r s h
  | empUpdBlock r => exact execEmpUpdBlock_wf r s h
  | empUpdActivate r => exact execEmpUpdActivate_wf r s h
  | rdgInfo r => exact execRdgInfo_wf r s h
  | packetReject transport source forwarded bytes => exact execPacketReject_wf transport source forwarded bytes s h
  | packetForward op r => exact execPacketForward_wf op r s h
  | dangerousArmTimeout trig num => exact execDangerousArmTimeout_wf trig num s h
  | sessionIdleTimeout trig num => exact execSessionIdleTimeout_wf trig num s h
  | authLockExpiry trig transport => exact execAuthLockExpiry_wf trig transport s h
  | cmdDoorbell src v => exact execCmdDoorbell_wf src v s h
  | sysSnap src v => exact execSysSnap_wf src v s h
  | sysSafereq src compl v => exact execSysSafereq_wf src compl v s h
  | sfStopreq src compl v => exact execSfStopreq_wf src compl v s h
  | rngPost src n v => exact execRngPost_wf src n v s h
  | resume src n => exact execResume_wf src n s h
  | skip src n => exact execSkip_wf src n s h
  | rdgIrq src v => exact execRdgIrq_wf src v s h
  | canRecover src c => exact execCanRecover_wf src c s h
  | ceTickloRead => exact execCeTickloRead_wf s h
  | encPpsinloRead => exact execEncPpsinloRead_wf s h
  | ringEnableWrite src n v => exact execRingEnableWrite_wf src n v s h
  | brgEnableWrite src n v => exact execBrgEnableWrite_wf src n v s h
  | fchEnableWrite src n v => exact execFchEnableWrite_wf src n v s h
  | rdgEnableWrite src v => exact execRdgEnableWrite_wf src v s h
  | compatWrite src page v => exact execCompatWrite_wf src page v s h
  | registerWrite src page off v => exact execRegisterWrite_wf src page off v s h
  | shutdownComplete inst => exact execShutdownComplete_wf inst s h
  | powerUp feed2 straps => exact execPowerUp_wf feed2 straps s h
  | selftestEnd tests => exact execSelftestEnd_wf tests s h
  | autostart img => exact execAutostart_wf img s h
  | startLoopGuardClear => exact execStartLoopGuardClear_wf s h
  | resetPress ms straps => exact execResetPress_wf ms straps s h
  | resetStuck => exact execResetStuck_wf s h
  | resetArm => exact execResetArm_wf s h
  | updRestart straps => exact execUpdRestart_wf straps s h
  | supervisorLockstepMismatch => exact execSupervisorLockstepMismatch_wf s h
  | feedGood feed2 => exact execFeedGood_wf feed2 s h
  | feedLost feed2 => exact execFeedLost_wf feed2 s h
  | feedDip feed2 => exact execFeedDip_wf feed2 s h
  | feedStress feed2 => exact execFeedStress_wf feed2 s h
  | feedSurge feed2 => exact execFeedSurge_wf feed2 s h
  | feedOvervoltage feed2 => exact execFeedOvervoltage_wf feed2 s h
  | feedReconnect feed2 => exact execFeedReconnect_wf feed2 s h
  | stopLevel => exact execStopLevel_wf s h
  | converterStop => exact execConverterStop_wf s h
  | holdupCharged => exact execHoldupCharged_wf s h
  | holdupTest cap => exact execHoldupTest_wf cap s h
  | clockFault straps => exact execClockFault_wf straps s h
  | ageingSample canary drift => exact execAgeingSample_wf canary drift s h
  | thermalSample health => exact execThermalSample_wf health s h
  | marginPlanUpdate => exact execMarginPlanUpdate_wf s h
  | fieldScan scan => exact execFieldScan_wf scan s h
  | outputOverload ch => exact execOutputOverload_wf ch s h
  | outputThermal ch => exact execOutputThermal_wf ch s h
  | groupOverload g fast => exact execGroupOverload_wf g fast s h
  | channelDiagnostic ch => exact execChannelDiagnostic_wf ch s h
  | lpLow g => exact execLpLow_wf g s h
  | fieldGroupMissing g => exact execFieldGroupMissing_wf g s h
  | fieldGroupPresent g => exact execFieldGroupPresent_wf g s h
  | ss1TimeMax n => exact execSs1TimeMax_wf n s h
  | siDiscrepancyFault n => exact execSiDiscrepancyFault_wf n s h
  | speedDiscrepancyFault n => exact execSpeedDiscrepancyFault_wf n s h
  | soFault k => exact execSoFault_wf k s h
  | soOffPulseTest k chB => exact execSoOffPulseTest_wf k chB s h
  | resetPairStuck n => exact execResetPairStuck_wf n s h
  | sfCheckRecompute => exact execSfCheckRecompute_wf s h
  | cfgReload => exact execCfgReload_wf s h
  | ringDescriptorProcess n k => exact execRingDescriptorProcess_wf n k s h
  | ringInFrame n f => exact execRingInFrame_wf n f s h
  | ringOverload n => exact execRingOverload_wf n s h
  | ethFrameReceive port frame full => exact execEthFrameReceive_wf port frame full s h
  | nodeTableExpiry => exact execNodeTableExpiry_wf s h
  | supervisionFrame => exact execSupervisionFrame_wf s h
  | pdReceive t => exact execPdReceive_wf t s h
  | pdTimeout => exact execPdTimeout_wf s h
  | mdReceive m => exact execMdReceive_wf m s h
  | mdReplyTimeout session => exact execMdReplyTimeout_wf session s h
  | rawEthernetReceive link bytes => exact execRawEthernetReceive_wf link bytes s h
  | ttdpHello rx => exact execTtdpHello_wf rx s h
  | ttdpNeighbourLost => exact execTtdpNeighbourLost_wf s h
  | etbInauguration count pos topo => exact execEtbInauguration_wf count pos topo s h
  | ptpMessage m => exact execPtpMessage_wf m s h
  | ptpLockLost => exact execPtpLockLost_wf s h
  | ppsInEdge into => exact execPpsInEdge_wf into s h
  | wholeSecond => exact execWholeSecond_wf s h
  | mvbMasterFrame ma mb slave first => exact execMvbMasterFrame_wf ma mb slave first s h
  | mvbSinkTimeout => exact execMvbSinkTimeout_wf s h
  | wtbPeriod => exact execWtbPeriod_wf s h
  | wtbNodeFrame a b => exact execWtbNodeFrame_wf a b s h
  | wtbInauguration t => exact execWtbInauguration_wf t s h
  | wtbSinkTimeout => exact execWtbSinkTimeout_wf s h
  | canFrameReceive c f ok => exact execCanFrameReceive_wf c f ok s h
  | canFrameSent c => exact execCanFrameSent_wf c s h
  | canBusOff c => exact execCanBusOff_wf c s h
  | canAutoRecover c => exact execCanAutoRecover_wf c s h
  | serialFrameReceive c f => exact execSerialFrameReceive_wf c f s h
  | serialFrameSent c => exact execSerialFrameSent_wf c s h
  | cycle rx => exact execCycle_wf rx s h
  | slot rx late => exact execSlot_wf rx late s h
  | discover rx => exact execDiscover_wf rx s h
  | ridgeLinkChange east up => exact execRidgeLinkChange_wf east up s h
  | noManager => exact execNoManager_wf s h
  | stationLost => exact execStationLost_wf s h
  | ridgeCrcError rx stomped => exact execRidgeCrcError_wf rx stomped s h
  | posted rx => exact execPosted_wf rx s h
  | request rx => exact execRequest_wf rx s h
  | requestService => exact execRequestService_wf s h
  | completion c => exact execCompletion_wf c s h
  | retryBackoff n => exact execRetryBackoff_wf n s h
  | cplTimeout => exact execCplTimeout_wf s h
  | tunnel rx => exact execTunnel_wf rx s h
  | irq rx => exact execIrq_wf rx s h
  | msg rx => exact execMsg_wf rx s h
  | ack rx => exact execAck_wf rx s h
  | ackDelay n => exact execAckDelay_wf n s h
  | streamRetransmit n => exact execStreamRetransmit_wf n s h
  | hello rx => exact execHello_wf rx s h
  | partnerSeekTimeout => exact execPartnerSeekTimeout_wf s h
  | joinReq rx delay => exact execJoinReq_wf rx delay s h
  | joinAck rx delay => exact execJoinAck_wf rx delay s h
  | page rx => exact execPage_wf rx s h
  | joinCopyRound => exact execJoinCopyRound_wf s h
  | finalDelta => exact execFinalDelta_wf s h
  | cut rx => exact execCut_wf rx s h
  | joinTimeout => exact execJoinTimeout_wf s h
  | abort rx => exact execAbort_wf rx s h
  | group rx => exact execGroup_wf rx s h
  | mark rx => exact execMark_wf rx s h
  | streamGap => exact execStreamGap_wf s h
  | beat rx => exact execBeat_wf rx s h
  | leave rx => exact execLeave_wf rx s h
  | colSignalLoss => exact execColSignalLoss_wf s h
  | colLaneDown lane2 => exact execColLaneDown_wf lane2 s h
  | partnerSilenceTimeout => exact execPartnerSilenceTimeout_wf s h
  | swapTick => exact execSwapTick_wf s h
  | cairnRecordIntake => exact execCairnRecordIntake_wf s h
  | logSourceDrop => exact execLogSourceDrop_wf s h
  | flashRefresh part ok => exact execFlashRefresh_wf part ok s h
  | metrologySample em1 em2 em3 em4 em5 em6 => exact execMetrologySample_wf em1 em2 em3 em4 em5 em6 s h
  | energyWindowEnd => exact execEnergyWindowEnd_wf s h
  | supplySystemClassify => exact execSupplySystemClassify_wf s h
  | periodEnd => exact execPeriodEnd_wf s h
  | sealOpened => exact execSealOpened_wf s h
  | sealClosed => exact execSealClosed_wf s h
  | time message => exact execTime_wf message s h
  | position message => exact execPosition_wf message s h
  | packet message => exact execPacket_wf message s h
  | mailboxSend => exact execMailboxSend_wf s h
  | trigRestart => exact execTrigRestart_wf s h
  | fiDelayExpiry l => exact execFiDelayExpiry_wf l s h
  | fiPermitEnded => exact execFiPermitEnded_wf s h
  | longOperationComplete => exact execLongOperationComplete_wf s h
  | ethLinkChange port up speed => exact execEthLinkChange_wf port up speed s h
  | colLaneUp lane2 => exact execColLaneUp_wf lane2 s h
  | mvbLineTimeout lineB => exact execMvbLineTimeout_wf lineB s h
  | ppsInTimeout => exact execPpsInTimeout_wf s h
  | flashRetentionScan part bits near => exact execFlashRetentionScan_wf part bits near s h
  | trigRestartDone => exact execTrigRestartDone_wf s h

/-- Settles O3: each command is made of operations that keep the canonical form, most of them because they leave the memory alone. -/
theorem stepKeepsMemoryCanonical : Obligations.StepKeepsMemoryCanonical := by
  unfold Obligations.StepKeepsMemoryCanonical
  intro s t h e
  unfold step at e
  split at e
  · exact keepsWf_next h t e
  · next rest _ => exact exec_wf _ { s with pending := rest } h t e

end Sys2Proof.Machine

end

-- ==== Sys2Proof/Proofs/Rings.lean ====

section
-- In order, not in parallel: each parallel thread reserves its whole stack of the check's memory.
set_option Elab.async false

/-! SUPPORT. The Ring Engine: what a ring's registers, its holding queue, a completion and a drop leave. -/

namespace Sys2Proof.Machine

/-! ### Registers of one ring -/

theorem ringReg_ne {p i o b o' b' : Nat} (h : 32 * o + b ≠ 32 * o' + b') :
    fk p (o + 0x30 * i) b ≠ fk p (o' + 0x30 * i) b' := by
  unfold fk
  omega

theorem ringReg_ne_event {p i o b o' b' : Nat} (ho : o' < 0x40 := by decide) (hb : b' < 32 := by decide) (h : 0x40 ≤ o := by decide) :
    fk p (o + 0x30 * i) b ≠ fk p o' b' := by
  unfold fk
  omega

theorem ringReg_page {n o b : Nat} (ho : o < 0x70) (hb : b < 32) :
    keyPage (fk (0x06 + n / 16) (o + 0x30 * (n % 16)) b) = 0x06 + n / 16 := by
  unfold keyPage fk
  omega

theorem ringReg_not_log {n o b : Nat} (hn : n < 32) (ho : o < 0x70) (hb : b < 32) :
    logKey (fk (0x06 + n / 16) (o + 0x30 * (n % 16)) b) = false := by
  unfold logKey
  rw [ringReg_page ho hb]
  simp only [beq_eq_false_iff_ne]
  omega

theorem page_ne {j k : Nat} (h : keyPage j ≠ keyPage k) : j ≠ k := fun e => h (congrArg keyPage e)

theorem fld_bumpBy_same (s : State) (k n : Nat) : (s.bumpBy k n).fld k = satAdd (s.fld k) n := by
  rw [State.bumpBy, fld_setFld_same]

theorem fld_bumpBy_other {s : State} {k n j : Nat} (h : j ≠ k) : (s.bumpBy k n).fld j = s.fld j := by
  rw [State.bumpBy, fld_setFld_other h]

theorem fld_cancelWb {s : State} {a : Arr} {w j : Nat} (h : j ≠ wbCancelCounter a) : (s.cancelWb a w).fld j = s.fld j := by
  unfold State.cancelWb
  dsimp only
  split
  · rw [fld_bumpBy_other h]; rfl
  · rfl

theorem fld_dirtyPage {s : State} {p j : Nat} (h : j ≠ Reg.COL_DIRTY_PAGES) : (s.dirtyPage p).fld j = s.fld j := by
  unfold State.dirtyPage
  split
  · exact (fld_setFld_other h).trans rfl
  · rfl

theorem fld_fullWrite {s : State} {w j : Nat} {v : DWord} (h1 : j ≠ wbCancelCounter .ps) (h2 : j ≠ Reg.COL_DIRTY_PAGES) :
    (s.fullWrite .ps w v).fld j = s.fld j :=
  (fld_dirtyPage (s := s.cancelWb .ps w) h2).trans (fld_cancelWb h1)

/-- A ring's register keeps its value under a write of the Protected Store. -/
theorem ringReg_fullWrite {s : State} {n o b w : Nat} {v : DWord} (hn : n < 32) (ho : o < 0x70) (hb : b < 32) :
    (s.fullWrite .ps w v).fld (fk (0x06 + n / 16) (o + 0x30 * (n % 16)) b) = s.fld (fk (0x06 + n / 16) (o + 0x30 * (n % 16)) b) := by
  have hp := ringReg_page (n := n) ho hb
  have away : ∀ j, 8 ≤ keyPage j ∨ keyPage j < 6 → fk (0x06 + n / 16) (o + 0x30 * (n % 16)) b ≠ j := fun j hj e => by
    rw [← e, hp] at hj
    omega
  exact fld_fullWrite (away _ (by decide)) (away _ (by decide))

theorem ringReg_writeDesc {s : State} {n m o b time : Nat} {d : Desc} {st : DescStatus} (hn : n < 32) (ho : o < 0x70) (hb : b < 32) :
    (s.writeDesc m d st time).fld (fk (0x06 + n / 16) (o + 0x30 * (n % 16)) b) =
      s.fld (fk (0x06 + n / 16) (o + 0x30 * (n % 16)) b) := by
  unfold State.writeDesc
  dsimp only
  rw [ringReg_fullWrite hn ho hb, ringReg_fullWrite hn ho hb, ringReg_fullWrite hn ho hb, ringReg_fullWrite hn ho hb]

/-! ### A completion -/

/-- A descriptor has been written: HEAD, SEQ, DONECNT and DONE follow (R277, R282). -/
def State.completed (s : State) (n head seq : Nat) : State :=
  (((s.setFld (Reg.RNG_PTR_HEAD n) (BitVec.ofNat 32 head)).setFld (Reg.RNG_SEQ n) (BitVec.ofNat 32 seq)).bump
    (Reg.RNG_DONECNT n)).setBit (Reg.RNG_EVT_DONE (n / 16)) (ringBit n)

section Completion
variable {s : State} {n : Nat} {d : Desc} {st : DescStatus} {time : Nat}

theorem complete_unowned (h : s.ringOwned n = 0) : s.complete n d st time = s := if_pos h

/-- A completion writes the descriptor, where it lies in the Protected Store, and then moves the ring's registers. -/
theorem complete_owned (hn : n < 32) (h : s.ringOwned n ≠ 0) : s.complete n d st time =
    (if psBytes < s.descAddr n + 32 then s else s.writeDesc n d st time).completed n ((s.ringHead n + 1) % 65536)
      ((s.fld (Reg.RNG_SEQ n)).toNat + 1) := by
  unfold State.complete
  rw [if_neg h]
  have head : (if psBytes < s.descAddr n + 32 then s else s.writeDesc n d st time).ringHead n = s.ringHead n := by
    split
    · rfl
    · exact congrArg BitVec.toNat (ringReg_writeDesc hn (by decide) (by decide))
  dsimp only
  rw [head]
  rfl

variable {head seq : Nat}

theorem completed_mem : (s.completed n head seq).mem = s.mem := rfl
theorem completed_ring : (s.completed n head seq).ring = s.ring := rfl

theorem completed_head (h : head < 65536) : (s.completed n head seq).ringHead n = head := by
  unfold State.completed State.ringHead Reg.RNG_PTR_HEAD Reg.RNG_SEQ Reg.RNG_DONECNT Reg.RNG_EVT_DONE
  rw [fld_setBit_other (ringReg_ne_event), fld_bump_other (ringReg_ne (by decide)), fld_setFld_other (ringReg_ne (by decide)),
    fld_setFld_same, BitVec.toNat_ofNat]
  omega

theorem completed_seq : (s.completed n head seq).fld (Reg.RNG_SEQ n) = BitVec.ofNat 32 seq := by
  unfold State.completed Reg.RNG_PTR_HEAD Reg.RNG_SEQ Reg.RNG_DONECNT Reg.RNG_EVT_DONE
  rw [fld_setBit_other (ringReg_ne_event), fld_bump_other (ringReg_ne (by decide)), fld_setFld_same]

theorem completed_count : (s.completed n head seq).fld (Reg.RNG_DONECNT n) = satAdd (s.fld (Reg.RNG_DONECNT n)) 1 := by
  unfold State.completed Reg.RNG_PTR_HEAD Reg.RNG_SEQ Reg.RNG_DONECNT Reg.RNG_EVT_DONE
  rw [fld_setBit_other (ringReg_ne_event), fld_bump_same, fld_setFld_other (ringReg_ne (by decide)),
    fld_setFld_other (ringReg_ne (by decide))]

theorem completed_done : (s.completed n head seq).bit (Reg.RNG_EVT_DONE (n / 16)) (n % 16) = true :=
  bit_setBit_same _ _ (Nat.lt_trans (Nat.mod_lt _ (by decide)) (by decide : 16 < 32))

theorem completed_tail : (s.completed n head seq).ringTail n = s.ringTail n := by
  unfold State.completed State.ringTail Reg.RNG_PTR_HEAD Reg.RNG_PTR_TAIL Reg.RNG_SEQ Reg.RNG_DONECNT Reg.RNG_EVT_DONE
  rw [fld_setBit_other (ringReg_ne_event), fld_bump_other (ringReg_ne (by decide)), fld_setFld_other (ringReg_ne (by decide)),
    fld_setFld_other (ringReg_ne (by decide))]

/-- The four words of a descriptor, and no other (R277). -/
theorem writeDesc_code (hn : n < 32) (a : Arr) (w : Nat) : (s.writeDesc n d st time).mem.code a w =
    if (a, w) = (Arr.ps, s.descAddr n / 8 + 3) then
      encodeWord (s.descAddr n / 8 + 3) (BitVec.ofNat 64 ((s.fld (Reg.RNG_SEQ n)).toNat + d.meta2.toNat * 2 ^ 32))
    else if (a, w) = (Arr.ps, s.descAddr n / 8 + 2) then encodeWord (s.descAddr n / 8 + 2) (BitVec.ofNat 64 time)
    else if (a, w) = (Arr.ps, s.descAddr n / 8 + 1) then
      encodeWord (s.descAddr n / 8 + 1) (BitVec.ofNat 64 ((if st = .ok then 0 else 2) + st.code * 2 ^ 8 +
        d.port % 2 ^ 16 * 2 ^ 16 + d.meta1.toNat * 2 ^ 32))
    else if (a, w) = (Arr.ps, s.descAddr n / 8) then
      encodeWord (s.descAddr n / 8) (BitVec.ofNat 64 (d.buf + d.bufLen * 2 ^ 32 + d.dataLen * 2 ^ 48))
    else s.mem.code a w := by
  unfold State.writeDesc
  dsimp only
  rw [fullWrite_code, fullWrite_code, fullWrite_code, fullWrite_code, Reg.RNG_SEQ, ringReg_fullWrite hn (by decide) (by decide),
    ringReg_fullWrite hn (by decide) (by decide), ringReg_fullWrite hn (by decide) (by decide)]

end Completion

/-! ### Nothing staged, nothing held -/

theorem applyStaged_nil {s : State} (h : s.staged = []) (p : Nat → Bool) : s.applyStaged p = s := by
  cases s
  cases h
  rfl

theorem ringIdle_nil {s : State} (h : s.staged = []) (n : Nat) : s.ringIdle n = s := by
  unfold State.ringIdle
  rw [applyStaged_nil h]
  dsimp only
  rw [ite_self, h]
  simp

theorem pump_nil {s : State} {n : Nat} (h : s.holdOf n = []) (k : Nat) : s.pump n k = s := by
  cases k with
  | zero => rfl
  | succ k => rw [State.pump, h]

theorem pump_blocked {s : State} {n : Nat} (h : s.ringTakes n = false) (k : Nat) : s.pump n k = s := by
  cases k with
  | zero => rfl
  | succ k =>
    rw [State.pump]
    split
    · rfl
    · rw [h]
      rfl

/-- Where nothing is staged, no other ring holds a frame and this one takes none, nothing follows on a ring. -/
theorem ringGo_still {s : State} {n : Nat} (ht : s.ringTakes n = false) (hs : s.staged = [])
    (hh : ∀ m, m ≠ n → s.holdOf m = []) : s.ringGo n = s := by
  unfold State.ringGo
  rw [pump_blocked ht, ringIdle_nil hs]
  dsimp only
  split
  · next h7 =>
    have others : ∀ m ∈ (List.range 32).filter (fun m => s.agent m == 8), (s.pump m (s.ringOwned m)).ringIdle m = s := fun m hm => by
      have h8 : s.agent m = 8 := by simpa using (List.mem_filter.mp hm).2
      have hne : m ≠ n := fun e => by rw [e, h7] at h8; exact absurd h8 (by decide)
      rw [pump_nil (hh m hne), ringIdle_nil hs]
    generalize (List.range 32).filter (fun m => s.agent m == 8) = l at others
    induction l with
    | nil => rfl
    | cons m l ih =>
      rw [List.foldl_cons, others m (List.mem_cons_self ..)]
      exact ih fun k hk => others k (List.mem_cons_of_mem _ hk)
  · rfl

/-! ### Holding and dropping -/

section Holding
variable {s : State} {n : Nat} {q : List Arrival} {x : Arrival}

theorem holdOf_setHold (m : Nat) : (s.setHold n q).holdOf m = if m = n then q else s.holdOf m := by
  unfold State.setHold State.holdOf
  exact sgetD_ssetD ..

theorem fld_setHold {k : Nat} (h : k ≠ Reg.RNG_RSTAT_HOLD n) : (s.setHold n q).fld k = s.fld k := (fld_setFld_other h).trans rfl

theorem setHold_hold : (s.setHold n q).fld (Reg.RNG_RSTAT_HOLD n) = BitVec.ofNat 32 q.length := fld_setFld_same ..

/-- What a drop changes beside the registers it counts in (R283). -/
theorem ringDrop_one : s.ringDrop n 1 =
    { (s.bump (Reg.RNG_DROPCNT n)).setBit (Reg.RNG_EVT2_DROP (n / 16)) (ringBit n) with
      ring.minute := ssetD 0 s.ring.minute n (sgetD 0 s.ring.minute n + 1) } := rfl

theorem ringDrop_one_holdOf (m : Nat) : (s.ringDrop n 1).holdOf m = s.holdOf m := rfl
theorem ringDrop_one_mem : (s.ringDrop n 1).mem = s.mem := rfl
theorem ringDrop_one_staged : (s.ringDrop n 1).staged = s.staged := rfl

theorem fld_ringDrop_one {k : Nat} (h1 : k ≠ Reg.RNG_DROPCNT n) (h2 : k ≠ Reg.RNG_EVT2_DROP (n / 16)) :
    (s.ringDrop n 1).fld k = s.fld k := by
  rw [ringDrop_one, fld_with, fld_setBit_other h2, fld_bump_other h1]

theorem ringDrop_one_count : (s.ringDrop n 1).fld (Reg.RNG_DROPCNT n) = satAdd (s.fld (Reg.RNG_DROPCNT n)) 1 := by
  have h : Reg.RNG_DROPCNT n ≠ Reg.RNG_EVT2_DROP (n / 16) := ringReg_ne_event
  rw [ringDrop_one, fld_with, fld_setBit_other h, fld_bump_same]

theorem ringDrop_one_event : (s.ringDrop n 1).bit (Reg.RNG_EVT2_DROP (n / 16)) (n % 16) = true :=
  bit_setBit_same (s.bump (Reg.RNG_DROPCNT n)) _ (Nat.lt_trans (Nat.mod_lt _ (by decide)) (by decide : 16 < 32))

theorem holdFrame_room (h : (s.holdOf n).length < 4) : s.holdFrame n x = s.setHold n (s.holdOf n ++ [x]) := if_pos h

theorem holdFrame_full (h : (s.holdOf n).length = 4) : s.holdFrame n x =
    if s.fld (Reg.RNG_CFG_POLICY n) = 1 then (s.ringDrop n 1).setHold n ((s.holdOf n).drop 1 ++ [x]) else s.ringDrop n 1 := by
  have h1 : Reg.RNG_CFG_POLICY n ≠ Reg.RNG_DROPCNT n := ringReg_ne (by decide)
  have h2 : Reg.RNG_CFG_POLICY n ≠ Reg.RNG_EVT2_DROP (n / 16) := ringReg_ne_event
  unfold State.holdFrame
  dsimp only
  rw [if_neg (by omega), fld_ringDrop_one h1 h2]

/-- Whether a ring takes a frame is no matter of its counters or of what it holds. -/
theorem ringTakes_of_fld {t : State} (hk : ∀ o b, b < 32 ∧ (o = 0x40 ∨ o = 0x48 ∨ o = 0x50 ∧ b < 8) →
      t.fld (fk (0x06 + n / 16) (o + 0x30 * (n % 16)) b) = s.fld (fk (0x06 + n / 16) (o + 0x30 * (n % 16)) b))
    (h : s.ringHalted n = true ∨ s.ringOwned n = 0) : t.ringTakes n = false := by
  have halt : t.ringHalted n = s.ringHalted n := congrArg (· == 1) (hk 0x50 0 (by decide))
  have owned : t.ringOwned n = s.ringOwned n := by
    unfold State.ringOwned State.ringTail State.ringHead Reg.RNG_PTR_HEAD Reg.RNG_PTR_TAIL
    rw [hk 0x48 0 (by decide), hk 0x48 16 (by decide)]
  unfold State.ringTakes
  rw [halt, owned]
  rcases h with h | h <;> rw [h] <;> simp

end Holding

theorem holdFrame_frame {s : State} {n : Nat} {x : Arrival} : (s.holdFrame n x).mem = s.mem ∧ (s.holdFrame n x).staged = s.staged ∧
    (∀ m, m ≠ n → (s.holdFrame n x).holdOf m = s.holdOf m) ∧
    ∀ k, k ≠ Reg.RNG_RSTAT_HOLD n → k ≠ Reg.RNG_DROPCNT n → k ≠ Reg.RNG_EVT2_DROP (n / 16) →
      (s.holdFrame n x).fld k = s.fld k := by
  unfold State.holdFrame
  dsimp only
  split
  · exact ⟨rfl, rfl, fun m hm => by rw [holdOf_setHold, if_neg hm], fun k h _ _ => fld_setHold h⟩
  · split
    · exact ⟨rfl, rfl, fun m hm => by rw [holdOf_setHold, if_neg hm]; rfl, fun k h h1 h2 => by rw [fld_setHold h, fld_ringDrop_one h1 h2]⟩
    · exact ⟨rfl, rfl, fun m _ => rfl, fun k _ h1 h2 => fld_ringDrop_one h1 h2⟩

/-- A frame that waits on a ring that takes none leaves everything else still. -/
theorem holdFrame_still {s : State} {n : Nat} {x : Arrival} (h : s.ringHalted n = true ∨ s.ringOwned n = 0) (hs : s.staged = [])
    (hh : ∀ m, m ≠ n → s.holdOf m = []) : (s.holdFrame n x).ringGo n = s.holdFrame n x := by
  obtain ⟨_, staged, others, regs⟩ := holdFrame_frame (s := s) (n := n) (x := x)
  refine ringGo_still (ringTakes_of_fld (fun o b ho => ?_) h) (staged.trans hs) (fun m hm => (others m hm).trans (hh m hm))
  refine regs _ (ringReg_ne ?_) (ringReg_ne ?_) (ringReg_ne_event (h := ?_)) <;> omega

/-! ### A frame is placed -/

section Placing
variable {s : State} {n : Nat}

theorem fullWrite_ring (w : Nat) (v : DWord) : (s.fullWrite .ps w v).ring = s.ring := by
  unfold State.fullWrite State.putCode State.dirtyWord State.dirtyPage State.cancelWb
  dsimp only [Arr.region]
  split <;> split <;> rfl

theorem complete_ring {d : Desc} {st : DescStatus} {time : Nat} (hn : n < 32) : (s.complete n d st time).ring = s.ring := by
  by_cases h : s.ringOwned n = 0
  · rw [complete_unowned h]
  · rw [complete_owned hn h, completed_ring]
    split
    · rfl
    · unfold State.writeDesc
      dsimp only
      rw [fullWrite_ring, fullWrite_ring, fullWrite_ring, fullWrite_ring]

theorem setHold_inHand (q : List Arrival) : (s.setHold n q).ring.inHand = s.ring.inHand := rfl

theorem holdFrame_inHand (x : Arrival) : (s.holdFrame n x).ring.inHand = s.ring.inHand := by
  unfold State.holdFrame
  dsimp only
  split
  · rfl
  · split <;> rfl

theorem holdRest_inHand (x : Arrival) : (s.holdRest n x).ring.inHand = s.ring.inHand := by
  unfold State.holdRest
  dsimp only
  split
  · rfl
  · exact holdFrame_inHand x

theorem fld_holdRest {x : Arrival} {k : Nat} (h : k ≠ Reg.RNG_RSTAT_HOLD n) (h1 : k ≠ Reg.RNG_DROPCNT n)
    (h2 : k ≠ Reg.RNG_EVT2_DROP (n / 16)) : (s.holdRest n x).fld k = s.fld k := by
  unfold State.holdRest
  dsimp only
  split
  · exact fld_setHold h
  · exact holdFrame_frame.2.2.2 k h h1 h2

/-- What a completion in this state, and a rest that then waits, leave to the ring. -/
theorem completed_then {s : State} {n : Nat} {d : Desc} {st : DescStatus} {time : Nat} (hn : n < 32) (ho : s.ringOwned n ≠ 0) :
    (s.complete n d st time).ringHead n = (s.ringHead n + 1) % 65536 ∧
      (s.complete n d st time).bit (Reg.RNG_EVT_DONE (n / 16)) (n % 16) = true := by
  rw [complete_owned hn ho]
  exact ⟨completed_head (Nat.mod_lt _ (by decide)), completed_done⟩

theorem holdRest_progress (x : Arrival) : (s.holdRest n x).ringHead n = s.ringHead n ∧
    (s.holdRest n x).bit (Reg.RNG_EVT_DONE (n / 16)) (n % 16) = s.bit (Reg.RNG_EVT_DONE (n / 16)) (n % 16) := by
  constructor
  · refine congrArg BitVec.toNat (fld_holdRest ?_ ?_ ?_)
    · exact ringReg_ne (by decide)
    · exact ringReg_ne (by decide)
    · exact ringReg_ne_event
  · refine congrArg (BitVec.getLsbD · _) (fld_holdRest ?_ ?_ ?_)
    · exact (ringReg_ne_event : Reg.RNG_RSTAT_HOLD n ≠ Reg.RNG_EVT_DONE (n / 16)).symm
    · exact (ringReg_ne_event : Reg.RNG_DROPCNT n ≠ Reg.RNG_EVT_DONE (n / 16)).symm
    · unfold Reg.RNG_EVT_DONE Reg.RNG_EVT2_DROP fk
      omega

/-- A frame written into its buffer completes the descriptor and leaves the hand. -/
theorem placeFrame_written {x : Arrival} {u v : State} {d : Desc} (hn : n < 32) (hd : s.readDesc n = (u, some d))
    (hw : u.writeFrame d (x.frame.data.take d.bufLen) (((x.frame.data.take d.bufLen).length + 7) / 8) = (v, none))
    (ho : v.ringOwned n ≠ 0) : (s.placeFrame n x).ringHead n = (v.ringHead n + 1) % 65536 ∧
      sget (s.placeFrame n x).ring.inHand n = none ∧ (s.placeFrame n x).bit (Reg.RNG_EVT_DONE (n / 16)) (n % 16) = true := by
  unfold State.placeFrame
  rw [hd]
  dsimp only
  rw [hw]
  dsimp only
  generalize decide (d.bufLen < x.frame.data.length) = cut
  generalize hs : (if (cut && !x.chars) = true then v.bump (Reg.RNG_TRUNCCNT n) else v) = t
  have same : ∀ o b, o < 0x60 → b < 32 → t.fld (fk (0x06 + n / 16) (o + 0x30 * (n % 16)) b) =
      v.fld (fk (0x06 + n / 16) (o + 0x30 * (n % 16)) b) := fun o b ho hb => by
    rw [← hs]
    split
    · exact fld_bump_other (ringReg_ne (by omega))
    · rfl
  have head : t.ringHead n = v.ringHead n := congrArg BitVec.toNat (same 0x48 0 (by decide) (by decide))
  have tail : t.ringTail n = v.ringTail n := congrArg BitVec.toNat (same 0x48 16 (by decide) (by decide))
  generalize hw : { t with ring.inHand := serase t.ring.inHand n } = w
  have headw : w.ringHead n = v.ringHead n := by rw [← hw]; exact head
  have ow : w.ringOwned n ≠ 0 := by
    rw [← hw]
    show (t.ringTail n + 65536 - t.ringHead n) % 65536 ≠ 0
    rw [head, tail]
    exact ho
  have handw : sget w.ring.inHand n = none := by
    rw [← hw]
    exact (sget_serase ..).trans (if_pos rfl)
  split
  · rw [(holdRest_progress _).1, (holdRest_progress _).2, holdRest_inHand, complete_ring hn, ← headw]
    exact ⟨(completed_then hn ow).1, handw, (completed_then hn ow).2⟩
  · rw [complete_ring hn, ← headw]
    exact ⟨(completed_then hn ow).1, handw, (completed_then hn ow).2⟩

end Placing

/-! ### The commands of rings -/

section Commands
variable {s : State} {n : Nat}

theorem complete_writes {d : Desc} {st : DescStatus} {time : Nat} (hn : n < 32) (ho : s.ringOwned n ≠ 0)
    (hi : s.descAddr n + 32 ≤ psBytes) :
    let t := s.complete n d st time
    let a := s.descAddr n / 8
    t.ringHead n = (s.ringHead n + 1) % 65536 ∧ t.ringTail n = s.ringTail n ∧ t.fld (Reg.RNG_SEQ n) = s.fld (Reg.RNG_SEQ n) + 1 ∧
    t.fld (Reg.RNG_DONECNT n) = satAdd (s.fld (Reg.RNG_DONECNT n)) 1 ∧ t.bit (Reg.RNG_EVT_DONE (n / 16)) (n % 16) = true ∧
    t.mem.code .ps a = encodeWord a (BitVec.ofNat 64 (d.buf + d.bufLen * 2 ^ 32 + d.dataLen * 2 ^ 48)) ∧
    t.mem.code .ps (a + 2) = encodeWord (a + 2) (BitVec.ofNat 64 time) ∧
    t.mem.code .ps (a + 3) = encodeWord (a + 3) (BitVec.ofNat 64 ((s.fld (Reg.RNG_SEQ n)).toNat + d.meta2.toNat * 2 ^ 32)) ∧
    (∀ w, w < a ∨ a + 3 < w → t.mem.code .ps w = s.mem.code .ps w) ∧
    (∀ x w, x ≠ .ps → t.mem.code x w = s.mem.code x w) := by
  rw [complete_owned hn ho, if_neg (by omega)]
  dsimp only
  rw [completed_mem]
  refine ⟨completed_head (Nat.mod_lt _ (by decide)), completed_tail.trans ?_, completed_seq.trans ?_, completed_count.trans ?_,
    completed_done, ?_, ?_, ?_, fun w hw => ?_, fun x w hx => ?_⟩
  · exact congrArg BitVec.toNat (ringReg_writeDesc hn (by decide) (by decide))
  · rw [BitVec.ofNat_add, BitVec.ofNat_toNat, BitVec.setWidth_eq]
    rfl
  · exact congrArg (satAdd · 1) (ringReg_writeDesc hn (by decide) (by decide))
  all_goals rw [writeDesc_code hn]
  · simp
  · simp
  · simp
  · simp only [Prod.mk.injEq, true_and]
    rw [if_neg (by omega), if_neg (by omega), if_neg (by omega), if_neg (by omega)]
  · simp [hx]

/-- A frame that reaches a ring which takes none is held, or handled by POLICY (R283). -/
theorem ringInFrame_held {f : AgentFrame} (hn : n < 32) (ha : s.agent n ≠ 0) (on : s.ringOn n = true) (isIn : s.ringIsIn n = true)
    (hb : s.ringHalted n = true ∨ s.ringOwned n = 0) (hs : s.staged = []) (hh : ∀ m, m ≠ n → s.holdOf m = []) :
    exec (.ringInFrame n f) s = .next (State.holdFrame { s with ring.arrivals := s.ring.arrivals + 1 } n
      ⟨f, false, false, s.descTime, s.ring.arrivals⟩) := by
  have takes : State.ringTakes { s with ring.arrivals := s.ring.arrivals + 1 } n = false := ringTakes_of_fld (s := s) (fun _ _ _ => rfl) hb
  have still := holdFrame_still (s := { s with ring.arrivals := s.ring.arrivals + 1 }) (n := n)
    (x := ⟨f, false, false, s.descTime, s.ring.arrivals⟩) hb hs hh
  show Host.Outcome.next _ = _
  rw [if_pos ⟨hn, ha⟩, State.ringIn, if_pos rfl, State.arrive, on, isIn]
  dsimp only [Bool.not_true, Bool.or_false]
  rw [if_neg (by decide), takes]
  simp only [Bool.false_and, Bool.false_eq_true, if_false]
  rw [still]

/-- What the hold of a ring that takes none comes to (R283). -/
theorem holdFrame_holds {x : Arrival} (h : (s.holdOf n).length < 4) : (s.holdFrame n x).holdOf n = s.holdOf n ++ [x] ∧
    ((s.holdFrame n x).fld (Reg.RNG_RSTAT_HOLD n)).toNat = (s.holdOf n).length + 1 ∧ (s.holdFrame n x).mem = s.mem := by
  rw [holdFrame_room h]
  refine ⟨(holdOf_setHold n).trans (if_pos rfl), ?_, rfl⟩
  rw [setHold_hold, BitVec.toNat_ofNat, List.length_append, List.length_singleton]
  omega

theorem holdFrame_drops {x : Arrival} (h : (s.holdOf n).length = 4) :
    (s.holdFrame n x).fld (Reg.RNG_DROPCNT n) = satAdd (s.fld (Reg.RNG_DROPCNT n)) 1 ∧
    (s.holdFrame n x).bit (Reg.RNG_EVT2_DROP (n / 16)) (n % 16) = true ∧ (s.holdFrame n x).mem = s.mem ∧
    (s.fld (Reg.RNG_CFG_POLICY n) = 1 → (s.holdFrame n x).holdOf n = (s.holdOf n).drop 1 ++ [x]) ∧
    (s.fld (Reg.RNG_CFG_POLICY n) ≠ 1 → (s.holdFrame n x).holdOf n = s.holdOf n) := by
  have hc : Reg.RNG_DROPCNT n ≠ Reg.RNG_RSTAT_HOLD n := ringReg_ne (by decide)
  have he : Reg.RNG_EVT2_DROP (n / 16) ≠ Reg.RNG_RSTAT_HOLD n :=
    (ringReg_ne_event : Reg.RNG_RSTAT_HOLD n ≠ Reg.RNG_EVT2_DROP (n / 16)).symm
  rw [holdFrame_full h]
  split
  · next hp =>
    refine ⟨(fld_setHold hc).trans ringDrop_one_count, ?_, rfl, fun _ => (holdOf_setHold n).trans (if_pos rfl), fun c => absurd hp c⟩
    exact (congrArg (BitVec.getLsbD · _) (fld_setHold he)).trans ringDrop_one_event
  · next hp => exact ⟨ringDrop_one_count, ringDrop_one_event, rfl, fun c => absurd c hp, fun _ => rfl⟩

/-- A frame that finds a descriptor is placed at once (R278). -/
theorem ringInFrame_placed {f : AgentFrame} (hn : n < 32) (ha : s.agent n ≠ 0) (on : s.ringOn n = true) (isIn : s.ringIsIn n = true)
    (halt : s.ringHalted n = false) (hold : s.holdOf n = []) (own : 0 < s.ringOwned n) (up : s.fld Reg.PWR_STAT_STOPPING = 0)
    (free : s.fenced n ⟨f, false, false, s.descTime, s.ring.arrivals⟩ = false) : exec (.ringInFrame n f) s =
      .next ((State.placeFrame { s with ring.arrivals := s.ring.arrivals + 1 } n ⟨f, false, false, s.descTime, s.ring.arrivals⟩).ringGo n) := by
  have takes : State.ringTakes { s with ring.arrivals := s.ring.arrivals + 1 } n = true := by
    show (s.fld Reg.PWR_STAT_STOPPING == 0 && s.ringOn n && s.ringIsIn n && !s.ringHalted n && decide (0 < s.ringOwned n)) = true
    rw [up, on, isIn, halt]
    simpa using own
  have empty : State.holdOf { s with ring.arrivals := s.ring.arrivals + 1 } n = [] := hold
  have open_ : State.fenced { s with ring.arrivals := s.ring.arrivals + 1 } n ⟨f, false, false, s.descTime, s.ring.arrivals⟩ = false := free
  show Host.Outcome.next _ = _
  rw [if_pos ⟨hn, ha⟩, State.ringIn, if_pos rfl, State.arrive, on, isIn]
  dsimp only [Bool.not_true, Bool.or_false]
  rw [if_neg (by decide), takes, empty, open_]
  rfl

theorem ringInFrame_ignored {f : AgentFrame} (h : s.agent n = 0 ∨ s.ringOn n = false ∨ s.ringIsIn n = false) :
    exec (.ringInFrame n f) s = .next s := by
  show Host.Outcome.next _ = _
  split
  · next hc =>
    rw [State.ringIn, if_pos rfl, State.arrive, if_pos]
    rcases h with h | h | h
    · exact absurd h hc.2
    · rw [h]; rfl
    · rw [h, Bool.not_false, Bool.or_true]
  · rfl

theorem descriptorProcess_idle {k : Nat} (h : s.outReady n = false ∨ s.ringHead n ≠ k) :
    exec (.ringDescriptorProcess n k) s = .next s := by
  show Host.Outcome.next _ = _
  split
  · next hc =>
    rcases h with h | h
    · unfold State.processOut
      rw [h]
      rfl
    · exact absurd hc.2 h
  · rfl

theorem descriptorProcess_ready (hn : n < 32) (h : s.outReady n = true) :
    exec (.ringDescriptorProcess n (s.ringHead n)) s = .next (match (s.takeOut n).2 with
      | none => (s.takeOut n).1
      | some (d, data) => ((s.takeOut n).1.startOut n ⟨data, d.port, d.meta1, d.meta2⟩ d).toAgent n ⟨data, d.port, d.meta1, d.meta2⟩) := by
  show Host.Outcome.next _ = _
  rw [if_pos ⟨hn, rfl⟩, State.processOut, if_pos h] <;> rfl

/-- The agents that answer at once (R275). -/
theorem toAgent_answers (f : AgentFrame) :
    (s.agent n = 1 → s.toAgent n f = (s.packetWaits 0 0 f.data).completeOut n .ok) ∧
    (s.agent n = 2 → s.toAgent n f = s.completeOut n .ok) ∧
    (s.agent n = 4 → f.port < 15 ∨ 22 < f.port → s.toAgent n f = s.completeOut n .notSent) ∧
    (s.agent n = 5 → f.port < 23 ∨ 34 < f.port → s.toAgent n f = s.completeOut n .notSent) ∧
    (s.agent n = 0x0A → s.toAgent n f = (s.emit (.mailbox (leNat (f.data.take 1)) f.data)).completeOut n .ok) ∧
    (s.agent n = 0x0B → beAt f.data 6 6 ≠ s.unitMac → s.toAgent n f = s.completeOut n .notSent) := by
  unfold State.toAgent
  refine ⟨fun h => ?_, fun h => ?_, fun h hp => ?_, fun h hp => ?_, fun h => ?_, fun h hm => ?_⟩ <;> rw [h]
  · rfl
  · rfl
  · show s.outLink n _ = _
    rw [decide_eq_false (by omega : ¬(15 ≤ f.port ∧ f.port ≤ 22))]
    rfl
  · show s.outLink n _ = _
    rw [decide_eq_false (by omega : ¬(23 ≤ f.port ∧ f.port ≤ 34))]
    rfl
  · rfl
  · exact if_neg fun c => hm c.1

/-- The record of a minute with drops (R283). -/
theorem ringOverload_noted (hn : n < 32) (hk : sgetD 0 s.ring.minute n ≠ 0) : ∃ t, exec (.ringOverload n) s = .next t ∧
    sgetD 0 t.ring.minute n = 0 ∧ t.fld (Reg.RNG_DROPCNT n) = s.fld (Reg.RNG_DROPCNT n) ∧ t.mem = s.mem ∧ t.mode = s.mode := by
  refine ⟨_, congrArg Host.Outcome.next (if_pos ⟨hn, hk⟩), ?_, ?_, report_mem .., report_mode ..⟩
  · rw [report_ring]
    unfold sgetD
    rw [sget_serase, if_pos rfl]
    rfl
  · exact (fld_report _ _ _ _ _ _ _ (by decide) (ringReg_not_log hn (by decide) (by decide))).trans rfl

end Commands

/-- Settles O48: a completion is four words and four registers, and a frame that cannot be placed waits or is dropped. -/
theorem ringFrames : Obligations.RingFrames := by
  unfold Obligations.RingFrames
  refine ⟨fun s n d st time h => complete_unowned h, fun s n d st time hn ho hi => complete_writes hn ho hi,
    fun s n f hn ha on isIn => ⟨fun hb hs hh => ⟨fun hl => ?_, fun hl => ?_⟩,
      fun halt hold own up free => ringInFrame_placed hn ha on isIn halt hold own up free⟩,
    fun s n f h => ringInFrame_ignored h, fun s n x u v d hn hd hw ho => placeFrame_written hn hd hw ho,
    fun s n k h => descriptorProcess_idle h, fun s n u hn hr => ⟨fun hk => ?_, fun d data hk => ⟨?_, ?_⟩⟩,
    fun s n hn hk => ringOverload_noted hn hk⟩
  · exact ⟨_, ringInFrame_held hn ha on isIn hb hs hh,
      holdFrame_holds (s := { s with ring.arrivals := s.ring.arrivals + 1 }) hl⟩
  · exact ⟨_, ringInFrame_held hn ha on isIn hb hs hh,
      holdFrame_drops (s := { s with ring.arrivals := s.ring.arrivals + 1 }) hl⟩
  · rw [descriptorProcess_ready hn hr, hk]
  · rw [descriptorProcess_ready hn hr, hk]
  · exact toAgent_answers (s := u.startOut n ⟨data, d.port, d.meta1, d.meta2⟩ d) ⟨data, d.port, d.meta1, d.meta2⟩

end Sys2Proof.Machine

end

-- ==== Sys2Proof/Proofs/Sending.lean ====

section
-- In order, not in parallel: each parallel thread reserves its whole stack of the check's memory.
set_option Elab.async false

/-! SUPPORT. Sending a frame: what it leaves alone. The injector and the records that it makes stand in the last pages, the
counters and the settings of the ports behind the status of the switch. -/

namespace Sys2Proof.Machine

/-- The state without what sending a frame may change: registers, staged values, records, the injector, and what leaves. -/
def State.still (s : State) : State :=
  { s with regs := [], staged := [], cairn := State.reset.cairn, fi := State.reset.fi, out := [] }

/-- Sending has led from `s` to `t`: nothing else moved, and no register below `lim`. -/
structure Sent (lim : Nat) (s t : State) : Prop where
  still : t.still = s.still
  staged : s.staged = [] → t.staged = []
  fld : ∀ k, k < lim → t.fld k = s.fld k

/-- Where the pages of records, Trig and the injector begin. -/
def logBase : Nat := fk 0x17 0 0

/-- Where the settings and counters of the ports begin. -/
def portBase : Nat := fk 0x08 0x40 0

namespace Sent
variable {lim : Nat} {s t u : State}

theorem refl (s : State) : Sent lim s s := ⟨rfl, id, fun _ _ => rfl⟩

theorem trans (h : Sent lim s t) (g : Sent lim t u) : Sent lim s u :=
  ⟨g.still.trans h.still, fun e => g.staged (h.staged e), fun k hk => (g.fld k hk).trans (h.fld k hk)⟩

theorem mono {low : Nat} (h : Sent lim s t) (hl : low ≤ lim) : Sent low s t :=
  ⟨h.still, h.staged, fun k hk => h.fld k (Nat.lt_of_lt_of_le hk hl)⟩

theorem setFld (h : Sent lim s t) {k : Nat} (hk : lim ≤ k) (v : Word) : Sent lim s (t.setFld k v) :=
  ⟨h.still, h.staged, fun j hj => (fld_setFld_other (by omega)).trans (h.fld j hj)⟩

theorem flag (h : Sent lim s t) {k : Nat} (hk : lim ≤ k) (b : Bool) : Sent lim s (t.flag k b) := h.setFld hk _
theorem bump (h : Sent lim s t) {k : Nat} (hk : lim ≤ k) : Sent lim s (t.bump k) := h.setFld hk _
theorem bumpBy (h : Sent lim s t) {k : Nat} (hk : lim ≤ k) (n : Nat) : Sent lim s (t.bumpBy k n) := h.setFld hk _

theorem foldl {α : Type} {f : State → α → State} {l : List α} (h : Sent lim s t) (hf : ∀ t x, x ∈ l → Sent lim t (f t x)) :
    Sent lim s (l.foldl f t) := by
  induction l generalizing t with
  | nil => exact h
  | cons x l ih => exact ih (h.trans (hf t x (List.mem_cons_self ..))) fun t y hy => hf t y (List.mem_cons_of_mem _ hy)

theorem mode (h : Sent lim s t) : t.mode = s.mode := (congrArg State.mode h.still :)
theorem time (h : Sent lim s t) : t.time = s.time := (congrArg State.time h.still :)
theorem mem (h : Sent lim s t) : t.mem = s.mem := (congrArg State.mem h.still :)
theorem img (h : Sent lim s t) : t.img = s.img := (congrArg State.img h.still :)
theorem ce (h : Sent lim s t) : t.ce = s.ce := (congrArg State.ce h.still :)
theorem cmd (h : Sent lim s t) : t.cmd = s.cmd := (congrArg State.cmd h.still :)
theorem sup (h : Sent lim s t) : t.sup = s.sup := (congrArg State.sup h.still :)
theorem ring (h : Sent lim s t) : t.ring = s.ring := (congrArg State.ring h.still :)
theorem net (h : Sent lim s t) : t.net = s.net := (congrArg State.net h.still :)
theorem bus (h : Sent lim s t) : t.bus = s.bus := (congrArg State.bus h.still :)
theorem rdg (h : Sent lim s t) : t.rdg = s.rdg := (congrArg State.rdg h.still :)
theorem col (h : Sent lim s t) : t.col = s.col := (congrArg State.col h.still :)
theorem field (h : Sent lim s t) : t.field = s.field := (congrArg State.field h.still :)

end Sent

theorem logBase_le {p o b : Nat} (h : 0x17 ≤ p := by decide) : logBase ≤ fk p o b := by
  unfold logBase fk
  omega

theorem portBase_le {o b : Nat} (h : 0x40 ≤ o) : portBase ≤ fk 0x08 o b := by
  unfold portBase fk
  omega

theorem below_log {k : Nat} (h : k < logBase) : logKey k = false := by
  unfold logKey keyPage
  unfold logBase fk at h
  simp only [beq_eq_false_iff_ne]
  omega

section Injector
variable {s t : State}

theorem Sent.report (h : Sent logBase s t) {cls : RecClass} {sev : Severity} {code sub inst : Nat} {p : List Byte} (hs : sub ≤ 255 := by decide) :
    Sent logBase s (t.report cls sev code (srcNo sub inst) p) := by
  refine h.trans ⟨?_, fun e => (report_staged ..).trans e, fun k hk => fld_report _ _ _ _ _ _ _ hs (below_log hk)⟩
  unfold State.still
  simp

theorem Sent.fiInjected (h : Sent logBase s t) (l : Nat) : Sent logBase s (t.fiInjected l) := (h.bump logBase_le).report

theorem Sent.setHeld (h : Sent logBase s t) (l : Nat) (q : List Held) : Sent logBase s (t.setHeld l q) :=
  ((h.trans (u := { t with fi.held := ssetD [] t.fi.held l q }) ⟨rfl, id, fun _ _ => rfl⟩).flag logBase_le _).setFld logBase_le _

theorem Sent.fiLost (h : Sent logBase s t) (n : Nat) : Sent logBase s (t.fiLost n) := by
  unfold State.fiLost
  split
  · exact h
  · exact (h.bumpBy logBase_le _).flag logBase_le _

theorem Sent.fiSelected (h : Sent logBase s t) (l : Nat) (sel : Bool) :
    Sent logBase s (if sel = true then t.fiInjected l else t) := by
  split
  · exact h.fiInjected l
  · exact h

theorem Sent.fiReorder (h : Sent logBase s t) (l m : Nat) (rx sel : Bool) (f : LinkFrame) :
    Sent logBase s (t.fiReorder l m rx sel f).1 := by
  have hi := h.fiSelected l sel
  unfold State.fiReorder
  generalize (if sel = true then t.fiInjected l else t) = u at hi
  dsimp only
  split
  · split
    · exact hi.setHeld ..
    · exact hi
  · split
    · exact hi
    · split <;> exact hi.setHeld ..

theorem Sent.fiDelay (h : Sent logBase s t) (l d : Nat) (rx sel : Bool) (f : LinkFrame) :
    Sent logBase s (t.fiDelay l d rx sel f).1 := by
  have hi := h.fiSelected l sel
  unfold State.fiDelay
  generalize (if sel = true then t.fiInjected l else t) = u at hi
  dsimp only
  split
  · split
    · exact hi.fiLost 1
    · exact hi.setHeld ..
  · exact hi

theorem Sent.fiPass (h : Sent logBase s t) (l : Nat) (rx : Bool) (f : LinkFrame) : Sent logBase s (t.fiPass l rx f).1 := by
  have hs : Sent logBase s (t.fiSelect l).1 := h.trans ⟨rfl, id, fun _ _ => rfl⟩
  unfold State.fiPass
  split
  · exact h
  · dsimp only
    split
    · split
      · exact hs.fiInjected l
      · exact hs
    · split
      · split
        · exact hs.fiInjected l
        · exact hs
      · exact hs
    · exact hs.fiReorder ..
    · exact hs.fiDelay ..
    · exact hs

theorem Sent.transmit (h : Sent logBase s t) (l : Nat) (f : LinkFrame) : Sent logBase s (t.transmit l f) :=
  (h.fiPass l false f).trans ⟨rfl, id, fun _ _ => rfl⟩

end Injector

/-! ### Ports -/

section Ports
variable {s t : State}

theorem Sent.applyStaged {lim : Nat} (h : Sent lim s t) {p : Nat → Bool} (hp : ∀ k, p k = true → lim ≤ k) :
    Sent lim s (t.applyStaged p) := by
  unfold State.applyStaged
  refine (h.trans (u := { t with staged := t.staged.filter (fun e => !p e.1) }) ⟨rfl, fun e => ?_, fun _ _ => rfl⟩).foldl
    fun u e he => (Sent.refl u).setFld (hp _ ?_) _
  · show List.filter _ t.staged = []
    rw [e]
    rfl
  · simpa using (List.mem_filter.mp he).2

theorem portKey_base {n k : Nat} (h : (keyPage k == 0x08 && decide (0x40 + 0x20 * (n - 1) ≤ keyOff k ∧ keyOff k < 0x40 + 0x20 * n)) = true) :
    portBase ≤ k := by
  simp only [Bool.and_eq_true, beq_iff_eq, decide_eq_true_eq] at h
  unfold keyPage keyOff at h
  unfold portBase fk
  omega

theorem Sent.sendOne (h : Sent portBase s t) (e : Queued) : Sent portBase s (t.sendOne e) := by
  unfold State.sendOne
  split
  · exact h
  · split
    · exact h.bump (portBase_le (by omega))
    · have low : portBase ≤ logBase := by decide
      exact ((h.trans (((Sent.refl t).transmit _ _).mono low)).bump (portBase_le (by omega))).applyStaged fun k => portKey_base

theorem Sent.sendAll (h : Sent portBase s t) (l : List Queued) : Sent portBase s (t.sendAll l) :=
  h.foldl fun u _ _ => (Sent.refl u).foldl fun v e _ => (Sent.refl v).sendOne e

/-- A frame on ports that are down goes nowhere. -/
theorem sendOne_down {e : Queued} (h : s.portUp e.port = false) : s.sendOne e = s := by
  unfold State.sendOne
  rw [h]
  rfl

end Ports

end Sys2Proof.Machine

end

-- ==== Sys2Proof/Proofs/Ethernet.lean ====

section
-- In order, not in parallel: each parallel thread reserves its whole stack of the check's memory.
set_option Elab.async false

/-! SUPPORT. Ports of the Ethernet switch, redundancy supervision, and the sources of calendar time. -/

namespace Sys2Proof.Machine

section Frames
variable {s : State} {n : Nat} {f : LinkFrame}

/-- A frame on a link whose injection does not act reaches its subsystem as it is (R474). -/
theorem receive_idle {l : Nat} (h : s.fiActs l true = false) (f : LinkFrame) (g : State → LinkFrame → State) :
    s.receive l f g = g s f := by
  unfold State.receive State.fiPass
  rw [h]
  rfl

theorem ethFrameReceive_up {full : List (Nat × Nat)} (h1 : 1 ≤ n) (h2 : n ≤ 11) (up : s.portUp n = true)
    (hf : s.fiActs (ethLink n) true = false) :
    exec (.ethFrameReceive n f full) s = .next ((State.ethIn { s with net.full := full } n f).portBoundary n) := by
  have up' : State.portUp { s with net.full := full } n = true := up
  have idle : State.fiActs { s with net.full := full } (ethLink n) true = false := hf
  show Host.Outcome.next _ = _
  rw [if_pos ⟨h1, h2, up'⟩, receive_idle idle]

theorem ethIn_error (up : s.portUp n = true) (h : f.ok = false ∨ f.bytes.length < 14 ∨ 1522 < f.bytes.length) :
    s.ethIn n f = s.bump (Reg.ESW_RXERRCNT n) := by
  unfold State.ethIn
  dsimp only
  rw [if_neg (by rw [up]; decide), if_pos (by simpa using h)]

section Right
variable (up : s.portUp n = true) (ok : f.ok = true) (hmin : 14 ≤ f.bytes.length) (hmax : f.bytes.length ≤ 1522)
include up ok hmin hmax

theorem ethIn_foreign (h : foreign f.bytes = true) : s.ethIn n f = (s.bump (Reg.ESW_RXCNT n)).unsupported := by
  unfold State.ethIn
  dsimp only
  rw [if_neg (by rw [up]; decide), if_neg (by rw [ok]; simp; omega), if_pos h]

theorem ethIn_internal (h : foreign f.bytes = false) (hn : n = 11) (hg : isGroup (beAt f.bytes 6 6) = true)
    (ht : beAt f.bytes (payloadType f.bytes) 2 ≠ 0x0800) :
    s.ethIn n f = (s.bump (Reg.ESW_RXCNT n)).toModule n (dropTag f.bytes) := by
  have alone : ∀ u : State, u.redOf n = none := fun u => if_neg (by omega)
  have check : ∀ u : State, u.redCheck n f.bytes = (u, true) := fun u => by
    unfold State.redCheck
    rw [alone]
  have quiet : ∀ u : State, (u.learn (beAt f.bytes 6 6) n).snoop n f.bytes = u := fun u => by
    unfold State.learn State.snoop
    rw [if_pos hg]
    exact if_pos (.inl ht)
  have stays : ∀ u : State, u.forward n f.bytes = u := fun u => if_pos (.inl hn)
  unfold State.ethIn
  dsimp only
  rw [if_neg (by rw [up]; decide), if_neg (by rw [ok]; simp; omega), if_neg (by rw [h]; decide), check]
  dsimp only
  rw [if_pos rfl, alone, quiet, stays]
  rfl

end Right
end Frames

/-! ### Links -/

section Links
variable {s : State} {n speed : Nat}

/-- The status of a port follows its link. -/
def State.portShown (s : State) (n : Nat) (up : Bool) (speed : Word) : State :=
  ((s.flag (Reg.ESW_PORTSTAT_LINK n) up).setFld (Reg.ESW_PORTSTAT_SPEED n) speed).putBit Reg.ESW_STAT_LINK (n - 1) up

theorem portReg_ne {o b o' b' : Nat} (h : 32 * o + b ≠ 32 * o' + b' := by decide) :
    fk 0x08 (o + 0x20 * (n - 1)) b ≠ fk 0x08 (o' + 0x20 * (n - 1)) b' := by
  unfold fk
  omega

theorem portReg_ne_stat {o b : Nat} (h : 0x40 ≤ o := by decide) : fk 0x08 (o + 0x20 * (n - 1)) b ≠ Reg.ESW_STAT_LINK := by
  unfold Reg.ESW_STAT_LINK fk
  omega

theorem fld_putBit_other {s : State} {k j i : Nat} {b : Bool} (h : j ≠ k) : (s.putBit k i b).fld j = s.fld j := by
  unfold State.putBit
  split <;> exact fld_setFld_other h

theorem bit_putBit_same (s : State) (k : Nat) {i : Nat} (b : Bool) (h : i < 32) : (s.putBit k i b).bit k i = b := by
  unfold State.putBit
  cases b with
  | true => exact bit_setBit_same s k h
  | false => exact bit_clrBit_same s k h

theorem portShown_link {up : Bool} {v : Word} : (s.portShown n up v).fld (Reg.ESW_PORTSTAT_LINK n) = b2w up := by
  have h1 : Reg.ESW_PORTSTAT_LINK n ≠ Reg.ESW_STAT_LINK := portReg_ne_stat
  have h2 : Reg.ESW_PORTSTAT_LINK n ≠ Reg.ESW_PORTSTAT_SPEED n := portReg_ne
  rw [State.portShown, fld_putBit_other h1, fld_setFld_other h2, fld_flag_same]

theorem portShown_speed {up : Bool} {v : Word} : (s.portShown n up v).fld (Reg.ESW_PORTSTAT_SPEED n) = v := by
  have h1 : Reg.ESW_PORTSTAT_SPEED n ≠ Reg.ESW_STAT_LINK := portReg_ne_stat
  rw [State.portShown, fld_putBit_other h1, fld_setFld_same]

theorem portShown_stat {up : Bool} {v : Word} (hn : n ≤ 11) : (s.portShown n up v).bit Reg.ESW_STAT_LINK (n - 1) = up :=
  bit_putBit_same _ _ _ (by omega)

theorem portShown_mem {up : Bool} {v : Word} : (s.portShown n up v).mem = s.mem := by
  unfold State.portShown State.putBit
  split <;> rfl

theorem sent_fiLinkDown (s : State) (l : Nat) : Sent logBase s (s.fiLinkDown l) := by
  unfold State.fiLinkDown
  dsimp only
  split
  · exact .refl s
  · exact ((Sent.refl s).setHeld _ _).fiLost _

theorem fiLinkDown_held (s : State) (l : Nat) : sgetD [] (s.fiLinkDown l).fi.held l = [] := by
  unfold State.fiLinkDown
  dsimp only
  split
  · next h => simpa using h
  · have empty : sgetD [] (s.setHeld l []).fi.held l = [] := (sgetD_ssetD [] s.fi.held l l []).trans (if_pos rfl)
    unfold State.fiLost
    split <;> exact empty

theorem portReg_low {o b : Nat} (hn : n ≤ 11) (ho : o ≤ 0x60 := by decide) (hb : b < 32 := by decide) :
    fk 0x08 (o + 0x20 * (n - 1)) b < logBase := by
  unfold logBase fk
  omega

theorem ethLinkChange_up (h1 : 1 ≤ n) (h2 : n ≤ 11) : exec (.ethLinkChange n true speed) s =
    .next (s.portShown n true (if 9 ≤ n then 2 else BitVec.ofNat 32 (speed % 4))) := by
  show Host.Outcome.next _ = _
  rw [if_pos ⟨h1, h2⟩]
  rfl

theorem ethLinkChange_down (h1 : 1 ≤ n) (h2 : n ≤ 11) : exec (.ethLinkChange n false speed) s =
    .next ((s.portShown n false 0).fiLinkDown (ethLink n)) := by
  show Host.Outcome.next _ = _
  rw [if_pos ⟨h1, h2⟩]
  rfl

/-- A port that is down again shows no link and holds no frames (R293, R476). -/
theorem portDown_shows (h2 : n ≤ 11) :
    let t := (s.portShown n false 0).fiLinkDown (ethLink n)
    t.fld (Reg.ESW_PORTSTAT_LINK n) = 0 ∧ t.fld (Reg.ESW_PORTSTAT_SPEED n) = 0 ∧ t.bit Reg.ESW_STAT_LINK (n - 1) = false ∧
      sgetD [] t.fi.held (ethLink n) = [] ∧ t.mem = s.mem := by
  have down := sent_fiLinkDown (s.portShown n false 0) (ethLink n)
  refine ⟨(down.fld _ (portReg_low h2)).trans portShown_link, (down.fld _ (portReg_low h2)).trans portShown_speed, ?_,
    fiLinkDown_held _ _, down.mem.trans portShown_mem⟩
  exact (congrArg (BitVec.getLsbD · _) (down.fld _ (by decide))).trans (portShown_stat h2)

end Links

/-! ### Supervision -/

theorem supervise_other {s : State} {k : Nat} {pub : Bool} (h : s.pairRed k ≠ 1 ∧ s.pairRed k ≠ 2) : s.supervise k pub = s :=
  if_neg (by omega)

theorem supervisionFrame_none {s : State} (h : ∀ k, k < 4 → s.pairRed k ≠ 1 ∧ s.pairRed k ≠ 2) :
    exec .supervisionFrame s = .next s := by
  have still : ∀ l : List Nat, (∀ k ∈ l, k < 4) → l.foldl (fun s k => s.supervise k false) s = s := fun l hl => by
    induction l with
    | nil => rfl
    | cons k l ih =>
      rw [List.foldl_cons, supervise_other (h k (hl k (List.mem_cons_self ..)))]
      exact ih fun j hj => hl j (List.mem_cons_of_mem _ hj)
  exact congrArg Host.Outcome.next (still _ fun k hk => List.mem_range.mp hk)

/-- A supervision frame takes the next sequence number of its pair, whatever its ports do with it (R293). -/
theorem supervise_counts {s : State} {k : Nat} (hk : k < 4) (hr : s.pairRed k = 1 ∨ s.pairRed k = 2) :
    (s.supervise k false).unitSeqs k = (s.unitSeqs k + 1) % 65536 := by
  have kept : ∀ l, (s.sendAll l).net = s.net := fun l => ((Sent.refl s).sendAll l).net
  unfold State.supervise
  rw [if_pos hr]
  dsimp only
  rw [if_neg Bool.false_ne_true]
  unfold State.unitSeqs
  dsimp only
  rw [kept]
  simp [List.getD, hk]

/-! ### Calendar time -/

section Time
variable {s : State}

/-- A message of a user that is next goes to its handler, and leaves the inbox. -/
theorem takeMsg_next {m : NetMsg} {g : State → State} (h : s.nextMsg m = true) :
    s.takeMsg m g = g { s with net.inbox := s.net.inbox.erase m } := if_pos h

theorem timeSource_source : s.timeSource.fld Reg.ESW_PTPSTAT_SOURCE =
    if s.fld Reg.ESW_PTPSTAT_LOCKED = 1 then 3 else if s.ppsOk then 2 else if s.net.timeSet then 1 else 0 := fld_setFld_same ..

theorem fld_timeSource {k : Nat} (h : k ≠ Reg.ESW_PTPSTAT_SOURCE) : s.timeSource.fld k = s.fld k := fld_setFld_other h

theorem fld_setUtc {ns k : Nat} (h1 : k ≠ Reg.ESW_PTPSTAT_TIME_VALID) (h2 : k ≠ Reg.LOG_STAT_TIME_UNSET) :
    (s.setUtc ns).fld k = s.fld k := by
  rw [State.setUtc, fld_flag_other h2, fld_flag_other h1]
  rfl

theorem announceIn_outcome {off : Nat} {c : ClockData} (h : ∀ b, s.net.best = some b → b.better c = false) :
    (s.announceIn off c).net.utcOffset = (if c.better s.ownClock = true ∨ s.mayLead = false then off else 37) ∧
    (s.announceIn off c).fld Reg.ESW_PTPSTAT_GM = (if c.better s.ownClock = true ∨ s.mayLead = false then 0 else 1) ∧
    (s.announceIn off c).net.inbox = s.net.inbox ∧ (s.announceIn off c).time = s.time := by
  have none_better : s.net.best.any (fun b => b.better c) = false := by
    cases hb : s.net.best with
    | none => rfl
    | some b => exact h b hb
  unfold State.announceIn
  rw [if_neg (by rw [none_better]; decide)]
  by_cases hc : c.better s.ownClock = true ∨ s.mayLead = false
  · rw [if_pos (by simpa using hc), if_pos hc, if_pos hc]
    exact ⟨rfl, fld_flag_same .., rfl, rfl⟩
  · rw [if_neg (by simpa using hc), if_neg hc, if_neg hc]
    exact ⟨rfl, fld_flag_same .., rfl, rfl⟩

/-- The clock after a Sync, before calendar time follows it (R306). -/
def State.synced (s : State) (tai n : Nat) (ofs : Int) : State :=
  let s := State.setFld { s with net.tai := some tai, net.inRange := n } Reg.ESW_PTPOFS_OFFSET (satInt ofs)
  if n = 8 then s.flag Reg.ESW_PTPSTAT_LOCKED true else s

theorem syncIn_inRange {tai was : Nat} (gm : s.fld Reg.ESW_PTPSTAT_GM ≠ 1) (ht : s.net.tai = some was) (h1 : was ≤ tai + 1000)
    (h2 : tai ≤ was + 1000) : s.syncIn tai =
      (let t := s.synced tai (min 8 (s.net.inRange + 1)) ((was : Int) - tai)
       if t.fld Reg.ESW_PTPSTAT_LOCKED = 1 then (t.setUtc (tai - t.net.utcOffset * 1000000000)).timeSource else t) := by
  have near : s.net.tai.isSome = true ∧ ((was : Int) - tai).natAbs ≤ 1000 := ⟨by rw [ht]; rfl, by omega⟩
  unfold State.syncIn
  rw [if_neg gm, ht] at *
  dsimp only
  rw [if_pos near]
  rfl

theorem synced_net {tai n : Nat} {ofs : Int} : (s.synced tai n ofs).net = { s.net with tai := some tai, inRange := n } := by
  unfold State.synced
  dsimp only
  split <;> rfl

theorem synced_mem {tai n : Nat} {ofs : Int} : (s.synced tai n ofs).mem = s.mem := by
  unfold State.synced
  dsimp only
  split <;> rfl

theorem synced_locked {tai : Nat} {ofs : Int} : (s.synced tai 8 ofs).fld Reg.ESW_PTPSTAT_LOCKED = 1 := fld_flag_same ..

/-- Locked, the clock gives calendar time (R306). -/
theorem locked_time {ns : Nat} (h : s.fld Reg.ESW_PTPSTAT_LOCKED = 1) :
    (s.setUtc ns).timeSource.fld Reg.ESW_PTPSTAT_LOCKED = 1 ∧ (s.setUtc ns).timeSource.fld Reg.ESW_PTPSTAT_SOURCE = 3 := by
  have keeps : (s.setUtc ns).fld Reg.ESW_PTPSTAT_LOCKED = 1 := (fld_setUtc (by decide) (by decide)).trans h
  exact ⟨(fld_timeSource (by decide)).trans keeps, timeSource_source.trans (if_pos keeps)⟩

theorem syncIn_outcome {tai was : Nat} (gm : s.fld Reg.ESW_PTPSTAT_GM ≠ 1) (ht : s.net.tai = some was) (h1 : was ≤ tai + 1000)
    (h2 : tai ≤ was + 1000) : (s.syncIn tai).net.inbox = s.net.inbox ∧ (s.syncIn tai).net.tai = some tai ∧
      (s.syncIn tai).net.inRange = min 8 (s.net.inRange + 1) ∧
      (7 ≤ s.net.inRange → (s.syncIn tai).fld Reg.ESW_PTPSTAT_LOCKED = 1 ∧ (s.syncIn tai).fld Reg.ESW_PTPSTAT_SOURCE = 3 ∧
        (s.syncIn tai).time.utcValid = true ∧ (s.syncIn tai).time.utc = (tai - s.net.utcOffset * 1000000000) % 2 ^ 64) ∧
      (s.syncIn tai).mem = s.mem := by
  have same : (s.syncIn tai).net = { s.net with tai := some tai, inRange := min 8 (s.net.inRange + 1) } ∧ (s.syncIn tai).mem = s.mem := by
    rw [syncIn_inRange gm ht h1 h2]
    dsimp only
    split
    · exact ⟨synced_net, synced_mem⟩
    · exact ⟨synced_net, synced_mem⟩
  refine ⟨(congrArg Net.inbox same.1 :), (congrArg Net.tai same.1 :), (congrArg Net.inRange same.1 :), fun h7 => ?_, same.2⟩
  have eight : min 8 (s.net.inRange + 1) = 8 := by omega
  rw [syncIn_inRange gm ht h1 h2, eight]
  dsimp only
  rw [if_pos synced_locked]
  obtain ⟨locked, source⟩ := locked_time (ns := tai - (s.synced tai 8 ((was : Int) - tai)).net.utcOffset * 1000000000)
    (synced_locked (s := s) (tai := tai) (ofs := (was : Int) - tai))
  refine ⟨locked, source, rfl, ?_⟩
  rw [synced_net]
  rfl

theorem ptpLockLost_outcome (h : s.fld Reg.ESW_PTPSTAT_LOCKED = 1) : ∃ t, exec .ptpLockLost s = .next t ∧
    t.fld Reg.ESW_PTPSTAT_LOCKED = 0 ∧ t.fld Reg.ESW_EVT_PTP_LOCK_LOST = 1 ∧ t.net.inRange = 0 ∧ t.net.best = none ∧
    t.fld Reg.ESW_PTPSTAT_SOURCE = (if s.ppsOk = true then 2 else if s.net.timeSet = true then 1 else 0) ∧ t.time = s.time := by
  refine ⟨_, congrArg Host.Outcome.next (if_neg (by rw [h]; decide)), ?_, ?_, rfl, rfl, ?_, rfl⟩
  · rw [fld_timeSource (by decide), fld_flag_other (by decide), fld_flag_same]
    rfl
  · rw [fld_timeSource (by decide), fld_flag_same]
    rfl
  · rw [timeSource_source, fld_flag_other (by decide), fld_flag_same, if_neg (by decide)]
    unfold State.ppsOk
    rw [fld_flag_other (by decide), fld_flag_other (by decide)]
    rfl

/-- An edge of PPS-IN that is a second away from the last one (R307). -/
theorem ppsEdge_used {into p : Nat} (hp : s.net.ppsAt = some p) (h1 : p + 999000000 ≤ s.img.ageClock * 250000 + into / 8 * 8)
    (h2 : s.img.ageClock * 250000 + into / 8 * 8 ≤ p + 1001000000) (hv : s.time.utcValid = true)
    (hl : s.fld Reg.ESW_PTPSTAT_LOCKED = 0) (hu : s.time.utc + into / 8 * 8 < 2 ^ 63) :
    (s.ppsEdge into).fld Reg.ENC_STAT_PPS_IN_OK = 1 ∧
      (s.ppsEdge into).time.utc = (s.time.utc + into / 8 * 8 + 500000000) / 1000000000 * 1000000000 - into / 8 * 8 ∧
      (s.ppsEdge into).fld Reg.ESW_PTPSTAT_SOURCE = 2 ∧
      (s.ppsEdge into).net.ppsAt = some (s.img.ageClock * 250000 + into / 8 * 8) := by
  unfold State.ppsEdge
  dsimp only
  rw [if_neg (by rw [hp]; simp only [decide_eq_true (And.intro h1 h2)]; decide)]
  generalize hw : State.flag { s with net.ppsAt := some (s.img.ageClock * 250000 + into / 8 * 8) } Reg.ENC_STAT_PPS_IN_OK true = w
  have ok : w.fld Reg.ENC_STAT_PPS_IN_OK = 1 := by rw [← hw]; exact fld_flag_same ..
  have unlocked : w.fld Reg.ESW_PTPSTAT_LOCKED = 0 := by rw [← hw, fld_flag_other (by decide)]; exact hl
  have time : w.time = s.time := by rw [← hw]; rfl
  have seen : w.net.ppsAt = some (s.img.ageClock * 250000 + into / 8 * 8) := by rw [← hw]; rfl
  rw [if_neg (by rw [time, hv]; decide), if_neg (by rw [unlocked]; decide), time]
  generalize hx : w.setUtc ((s.time.utc + into / 8 * 8 + 500000000) / 1000000000 * 1000000000 - into / 8 * 8) = x
  have okx : x.fld Reg.ENC_STAT_PPS_IN_OK = 1 := by rw [← hx, fld_setUtc (by decide) (by decide), ok]
  have unlockedx : x.fld Reg.ESW_PTPSTAT_LOCKED = 0 := by rw [← hx, fld_setUtc (by decide) (by decide), unlocked]
  have valid : x.time.utcValid = true := by rw [← hx]; rfl
  have utc : x.time.utc = (s.time.utc + into / 8 * 8 + 500000000) / 1000000000 * 1000000000 - into / 8 * 8 := by
    rw [← hx]
    show _ % 2 ^ 64 = _
    exact Nat.mod_eq_of_lt (by omega)
  have seenx : x.net.ppsAt = some (s.img.ageClock * 250000 + into / 8 * 8) := by rw [← hx]; exact seen
  generalize BitVec.ofNat 32 (x.time.utc + into / 8 * 8) = lo
  generalize BitVec.ofNat 32 ((x.time.utc + into / 8 * 8) / 2 ^ 32) = hi
  refine ⟨?_, utc, ?_, seenx⟩
  · rw [fld_timeSource (by decide), fld_setFld_other (by decide), fld_setFld_other (by decide), okx]
  · have okAll : ((x.setFld Reg.ENC_PPSINLO_TIME lo).setFld Reg.ENC_PPSINHI_TIME hi).ppsOk = true := by
      unfold State.ppsOk
      rw [fld_setFld_other (by decide), fld_setFld_other (by decide), okx]
      exact valid
    rw [timeSource_source, fld_setFld_other (by decide), fld_setFld_other (by decide), unlockedx, if_neg (by decide), if_pos okAll]

theorem ppsEdge_ignored {into p : Nat} (hp : s.net.ppsAt = some p) (h : s.img.ageClock * 250000 + into / 8 * 8 < p + 999000000 ∨
    p + 1001000000 < s.img.ageClock * 250000 + into / 8 * 8) :
    s.ppsEdge into = { s with net.ppsIgnored := s.net.ppsIgnored + 1 } := by
  have far : ¬(p + 999000000 ≤ s.img.ageClock * 250000 + into / 8 * 8 ∧ s.img.ageClock * 250000 + into / 8 * 8 ≤ p + 1001000000) := by
    omega
  exact if_pos (by rw [hp]; simp only [decide_eq_false far]; decide)

theorem ppsInEdge_used {into : Nat} (on : s.fld Reg.ENC_CTRL_PPS_IN_EN = 1) (hf : s.fiActs linkPpsIn true = false) :
    exec (.ppsInEdge into) s = .next (s.ppsEdge into) := by
  show Host.Outcome.next _ = _
  rw [if_neg (by rw [on]; decide), receive_idle hf]

theorem ppsInTimeout_outcome (s : State) : ∃ t, exec .ppsInTimeout s = .next t ∧ t.net.ppsAt = none ∧
    t.fld Reg.ENC_STAT_PPS_IN_OK = 0 ∧ t.time = s.time ∧ t.mem = s.mem := by
  refine ⟨_, rfl, rfl, ?_, rfl, rfl⟩
  rw [fld_timeSource (by decide), fld_flag_same]
  rfl

/-! ### The whole second -/

theorem sent_unitSend (s : State) (b : List Byte) : (s.unitSend b).mode = s.mode ∧ (s.unitSend b).mem = s.mem ∧
    ∀ k, k < portBase → (s.unitSend b).fld k = s.fld k := by
  have sent := (Sent.refl s).sendAll (s.queued (tagQueue b) b s.unitSeqs)
  exact ⟨sent.mode, sent.mem, sent.fld⟩

theorem lead_leads (h1 : s.net.best = none) (h2 : s.mayLead = true) :
    s.lead.fld Reg.ESW_PTPSTAT_GM = 1 ∧ s.lead.mem = s.mem ∧ s.lead.mode = s.mode := by
  unfold State.lead
  rw [if_neg (by rw [h1, h2]; decide)]
  dsimp only
  have key : Reg.ESW_PTPSTAT_GM < portBase := by decide
  refine ⟨?_, ?_, ?_⟩
  · rw [(sent_unitSend _ _).2.2 _ key, (sent_unitSend _ _).2.2 _ key, fld_flag_same]
    rfl
  · rw [(sent_unitSend _ _).2.1, (sent_unitSend _ _).2.1]
    rfl
  · rw [(sent_unitSend _ _).1, (sent_unitSend _ _).1]
    rfl

theorem lead_follows (h : s.net.best.isSome = true ∨ s.mayLead = false) : s.lead = s := if_pos (by simpa using h)

theorem wholeSecond_eq (h : s.staged = []) : exec .wholeSecond s = .next (State.lead
    (if s.fld Reg.ENC_CTRL_PPS_OUT_SEL = 0 ∧ s.time.utcValid = true ∧ ¬ s.follows = true then s.transmit linkPpsOut ⟨[], true⟩ else s)) := by
  show Host.Outcome.next _ = _
  rw [applyStaged_nil h]

theorem wholeSecond_leads (h : s.staged = []) (h1 : s.net.best = none) (h2 : s.mayLead = true) :
    ∃ t, exec .wholeSecond s = .next t ∧ t.fld Reg.ESW_PTPSTAT_GM = 1 ∧ t.mem = s.mem ∧ t.mode = s.mode := by
  have sent : Sent logBase s (if s.fld Reg.ENC_CTRL_PPS_OUT_SEL = 0 ∧ s.time.utcValid = true ∧ ¬ s.follows = true then
      s.transmit linkPpsOut ⟨[], true⟩ else s) := by
    split
    · exact (Sent.refl s).transmit ..
    · exact .refl s
  rw [wholeSecond_eq h]
  generalize (if s.fld Reg.ENC_CTRL_PPS_OUT_SEL = 0 ∧ s.time.utcValid = true ∧ ¬ s.follows = true then
      s.transmit linkPpsOut ⟨[], true⟩ else s) = u at sent
  have best : u.net.best = none := by rw [sent.net, h1]
  have may : u.mayLead = true := by
    unfold State.mayLead State.ownClock State.unitMac State.cfg
    rw [sent.cmd]
    exact h2
  obtain ⟨gm, mem, mode⟩ := lead_leads best may
  exact ⟨_, rfl, gm, mem.trans sent.mem, mode.trans sent.mode⟩

theorem wholeSecond_pulse (h : s.staged = []) (hf : s.fiActs linkPpsOut false = false)
    (hb : s.net.best.isSome = true ∨ s.mayLead = false) (sel : s.fld Reg.ENC_CTRL_PPS_OUT_SEL = 0) (hv : s.time.utcValid = true)
    (hm : s.follows = false) :
    ∃ t, exec .wholeSecond s = .next t ∧ t.out = s.out ++ [.frame linkPpsOut ⟨[], true⟩] ∧ t.regs = s.regs := by
  have lead : (s.putOut linkPpsOut [⟨[], true⟩]).lead = s.putOut linkPpsOut [⟨[], true⟩] := lead_follows hb
  refine ⟨s.putOut linkPpsOut [⟨[], true⟩], ?_, rfl, rfl⟩
  rw [wholeSecond_eq h, if_pos ⟨sel, hv, by rw [hm]; decide⟩, transmit_idle hf, lead]

theorem wholeSecond_quiet (h : s.staged = []) (hb : s.net.best.isSome = true ∨ s.mayLead = false)
    (hn : s.fld Reg.ENC_CTRL_PPS_OUT_SEL ≠ 0 ∨ s.time.utcValid = false ∨ s.follows = true) : exec .wholeSecond s = .next s := by
  rw [wholeSecond_eq h, if_neg, lead_follows hb]
  rintro ⟨a, b, c⟩
  rcases hn with hn | hn | hn
  · exact hn a
  · exact absurd (hn.symm.trans b) (by decide)
  · exact c hn

end Time

/-- Settles O49: each event of a port or a clock by its own rule. -/
theorem ethernetAndTime : Obligations.EthernetAndTime := by
  unfold Obligations.EthernetAndTime
  refine ⟨fun s n f full h1 h2 up => ⟨fun hf => ethFrameReceive_up h1 h2 up hf, fun h => ethIn_error up h,
      fun ok h14 hmax => ⟨ethIn_foreign up ok h14 hmax, ethIn_internal up ok h14 hmax⟩⟩,
    fun s n speed h1 h2 hs1 hs3 => ⟨⟨_, ethLinkChange_up h1 h2, portShown_link, ?_, portShown_stat h2, portShown_mem⟩,
      ⟨_, ethLinkChange_down h1 h2, portDown_shows h2⟩⟩,
    fun s => ⟨_, rfl, fun e => ?_, rfl, rfl⟩,
    fun s => ⟨supervisionFrame_none, rfl⟩,
    fun s k pub hk hr _ _ hp => by rw [hp]; exact supervise_counts hk hr,
    fun s off c hn hb => ⟨_, congrArg Host.Outcome.next (takeMsg_next hn), ?_⟩,
    fun s tai was hn gm ht h1 h2 => ⟨_, congrArg Host.Outcome.next (takeMsg_next hn), ?_⟩,
    fun s h => ptpLockLost_outcome h,
    fun s into on hf => ⟨ppsInEdge_used on hf, fun p hp h1 h2 hv hl hu => ppsEdge_used hp h1 h2 hv hl hu,
      fun p hp h => ppsEdge_ignored hp h⟩,
    ppsInTimeout_outcome, fun s hs h1 h2 => wholeSecond_leads hs h1 h2,
    fun s hs hf hb => ⟨fun sel hv hm => wholeSecond_pulse hs hf hb sel hv hm, fun hn => wholeSecond_quiet hs hb hn⟩⟩
  · rw [portShown_speed]
    split
    · rfl
    · rw [BitVec.toNat_ofNat]
      omega
  · simp only [List.mem_filter, decide_eq_true_eq]
  · exact announceIn_outcome (s := { s with net.inbox := s.net.inbox.erase (.ptp (.announce off c)) }) hb
  · exact syncIn_outcome (s := { s with net.inbox := s.net.inbox.erase (.ptp (.sync tai)) }) gm ht h1 h2

end Sys2Proof.Machine

end

-- ==== Sys2Proof/Proofs/Acquiring.lean ====

section
-- In order, not in parallel: each parallel thread reserves its whole stack of the check's memory.
set_option Elab.async false

/-! SUPPORT. A group of a source: what it leaves alone. It writes the live image, or the pair's queues, or is streamed to the
standby; its registers are those of the process image, of the stores, of the pair, of records and of the injector. -/

namespace Sys2Proof.Machine

/-- The state without what a group may change: registers, memory, image, pair, records, the injector, and what leaves. -/
def State.aside (s : State) : State :=
  { s with regs := [], mem := .reset, img := { Images.reset with ageClock := s.img.ageClock }, col := .reset, cairn := .reset,
           fi := .reset, out := [] }

/-- The pages that a group leaves alone. -/
def asideKey (k : Nat) : Bool :=
  decide (keyPage k < 3 ∨ (5 < keyPage k ∧ keyPage k < 0x12) ∨ (0x12 < keyPage k ∧ keyPage k < 0x17))

/-- A group has led from `s` to `t`. -/
structure Acquired (s t : State) : Prop where
  aside : t.aside = s.aside
  fld : ∀ k, asideKey k = true → t.fld k = s.fld k

namespace Acquired
variable {s t u : State}

theorem refl (s : State) : Acquired s s := ⟨rfl, fun _ _ => rfl⟩

theorem trans (h : Acquired s t) (g : Acquired t u) : Acquired s u :=
  ⟨g.aside.trans h.aside, fun k hk => (g.fld k hk).trans (h.fld k hk)⟩

/-- A change that shows in nothing but what stands aside. -/
theorem same (h : Acquired s t) (hu : u.aside = t.aside) (hr : u.regs = t.regs) : Acquired s u :=
  h.trans ⟨hu, fun _ _ => fld_eq_of_regs hr⟩

theorem setFld (h : Acquired s t) {k : Nat} (hk : asideKey k = false) (v : Word) : Acquired s (t.setFld k v) :=
  ⟨h.aside, fun j hj => (fld_setFld_other fun e => by subst e; rw [hj] at hk; exact absurd hk (by decide)).trans (h.fld j hj)⟩

theorem flag (h : Acquired s t) {k : Nat} (hk : asideKey k = false) (b : Bool) : Acquired s (t.flag k b) := h.setFld hk _
theorem bump (h : Acquired s t) {k : Nat} (hk : asideKey k = false) : Acquired s (t.bump k) := h.setFld hk _
theorem bumpBy (h : Acquired s t) {k : Nat} (hk : asideKey k = false) (n : Nat) : Acquired s (t.bumpBy k n) := h.setFld hk _

theorem foldl {α : Type} {f : State → α → State} {l : List α} (h : Acquired s t) (hf : ∀ t x, Acquired t (f t x)) :
    Acquired s (l.foldl f t) := by
  induction l generalizing t with
  | nil => exact h
  | cons x l ih => exact ih (h.trans (hf t x))

theorem sent (h : Acquired s t) (g : Sent logBase t u) (hs : u.staged = t.staged) : Acquired s u := by
  refine h.trans ⟨?_, fun k hk => g.fld k ?_⟩
  · have still := g.still
    unfold State.still at still
    unfold State.aside
    simp only [State.mk.injEq] at still ⊢
    simp only [still, hs, and_self]
  · rw [asideKey, decide_eq_true_eq] at hk
    unfold keyPage at hk
    unfold logBase fk
    omega

theorem mode (h : Acquired s t) : t.mode = s.mode := (congrArg State.mode h.aside :)
theorem staged (h : Acquired s t) : t.staged = s.staged := (congrArg State.staged h.aside :)
theorem time (h : Acquired s t) : t.time = s.time := (congrArg State.time h.aside :)
theorem cmd (h : Acquired s t) : t.cmd = s.cmd := (congrArg State.cmd h.aside :)
theorem sup (h : Acquired s t) : t.sup = s.sup := (congrArg State.sup h.aside :)
theorem ring (h : Acquired s t) : t.ring = s.ring := (congrArg State.ring h.aside :)
theorem net (h : Acquired s t) : t.net = s.net := (congrArg State.net h.aside :)
theorem bus (h : Acquired s t) : t.bus = s.bus := (congrArg State.bus h.aside :)
theorem rdg (h : Acquired s t) : t.rdg = s.rdg := (congrArg State.rdg h.aside :)
theorem field (h : Acquired s t) : t.field = s.field := (congrArg State.field h.aside :)
theorem sf (h : Acquired s t) : t.sf = s.sf := (congrArg State.sf h.aside :)
theorem trig (h : Acquired s t) : t.trig = s.trig := (congrArg State.trig h.aside :)
theorem ageClock (h : Acquired s t) : t.img.ageClock = s.img.ageClock := (congrArg (fun x => x.img.ageClock) h.aside :)

end Acquired

theorem ueCounter_beside (a : Arr) (c : Cls) : asideKey (ueCounter a c) = false := by
  cases a <;> cases c <;> decide

theorem wbCancelCounter_beside (a : Arr) : asideKey (wbCancelCounter a) = false := by
  cases a <;> decide

section Memory
variable {s t : State} (h : Acquired s t)
include h

theorem Acquired.report {cls : RecClass} {sev : Severity} {code sub inst : Nat} {p : List Byte} (hs : sub ≤ 255 := by decide) :
    Acquired s (t.report cls sev code (srcNo sub inst) p) :=
  h.sent ((Sent.refl t).report hs) (report_staged ..)

theorem Acquired.countCe (a : Arr) (w : Nat) : Acquired s (t.countCe a w) := by
  unfold State.countCe
  cases a with
  | ps => exact (((h.bump (by decide)).setFld (by decide) _).flag (by decide) _).report
  | rs => exact (((h.bump (by decide)).setFld (by decide) _).flag (by decide) _).report
  | prg | img | live | com => exact ((h.bump (by decide)).setFld (by decide) _).flag (by decide) _

theorem Acquired.countUe (a : Arr) (w : Nat) (c : Cls) (syn : Byte) (m : Master) : Acquired s (t.countUe a w c syn m) := by
  unfold State.countUe
  dsimp only
  refine Acquired.report ?_
  have hb := h.bump (ueCounter_beside a c)
  split
  · split
    · exact (((hb.setFld (by decide) _).setFld (by decide) _).setFld (by decide) _).setFld (by decide) _
    · exact ((((hb.setFld (by decide) _).setFld (by decide) _).setFld (by decide) _).setFld (by decide) _).flag (by decide) _
  · split
    · exact ((((hb.setFld (by decide) _).setFld (by decide) _).setFld (by decide) _).setFld (by decide) _).setFld (by decide) _
    · exact (((((hb.setFld (by decide) _).setFld (by decide) _).setFld (by decide) _).setFld (by decide) _).setFld
        (by decide) _).flag (by decide) _

theorem Acquired.account (a : Arr) (w : Nat) (m : Master) : Acquired s (t.account a w m) := by
  unfold State.account
  dsimp only
  split
  · exact h
  · exact h.countCe a w
  · exact h.countUe ..

theorem Acquired.cancelWb (a : Arr) (w : Nat) : Acquired s (t.cancelWb a w) := by
  unfold State.cancelWb
  dsimp only
  split
  · refine Acquired.bumpBy (h.same ?_ ?_) (wbCancelCounter_beside a) _ <;> rfl
  · exact h

theorem Acquired.dirtyPage (key : Nat) : Acquired s (t.dirtyPage key) := by
  unfold State.dirtyPage
  split
  · refine Acquired.setFld (h.same ?_ ?_) (by decide) _ <;> rfl
  · exact h

theorem Acquired.putCode (a : Arr) (w : Nat) (c : Code) : Acquired s (t.putCode a w c) := by
  have hd : Acquired s ((t.cancelWb a w).dirtyWord a w) := by
    unfold State.dirtyWord
    split
    · exact (h.cancelWb a w).dirtyPage _
    · exact h.cancelWb a w
  exact hd.same rfl rfl

theorem Acquired.fullWrite (a : Arr) (w : Nat) (d : DWord) : Acquired s (t.fullWrite a w d) := h.putCode ..

end Memory

/-! ### The live image -/

section Live
variable {s t : State}

theorem Acquired.dirtyId (h : Acquired s t) (id : Nat) : Acquired s (t.dirtyId id) := ((h.dirtyPage _).dirtyPage _).dirtyPage _

theorem Acquired.sourceInvalid (h : Acquired s t) (a : Arr) (id : Nat) : Acquired s (t.sourceInvalid a id) := by
  unfold State.sourceInvalid
  split
  · refine Acquired.dirtyId (h.same ?_ ?_) id <;> rfl
  · exact h

theorem Acquired.markInvalid (h : Acquired s t) (a : Arr) (m : Master) (id : Nat) : Acquired s (t.markInvalid a m id) := by
  have ha := h.account a (statLoc id).1 m
  unfold State.markInvalid
  dsimp only
  split
  · exact (ha.fullWrite ..).sourceInvalid a id
  · exact (ha.fullWrite ..).sourceInvalid a id
  · exact (ha.fullWrite ..).foldl fun u i => (refl u).sourceInvalid a i
  · exact (ha.fullWrite ..).foldl fun u i => (refl u).sourceInvalid a i
  · exact ha.sourceInvalid a id

theorem Acquired.patchWord (h : Acquired s t) (a : Arr) (w : Nat) (data mask : DWord) (m : Master) :
    Acquired s (t.patchWord a w data mask m) := by
  have ha := h.account a w m
  unfold State.patchWord
  split
  · exact h.fullWrite ..
  · dsimp only
    split
    · exact ha.fullWrite ..
    · exact ha.fullWrite ..
    · exact (ha.fullWrite ..).foldl fun u i => (refl u).markInvalid a m i
    · exact (ha.fullWrite ..).foldl fun u i => (refl u).markInvalid a m i
    · exact ha

theorem Acquired.applyPatch (h : Acquired s t) (a : Arr) (p : Patch) (m : Master) : Acquired s (t.applyPatch a p m) :=
  h.foldl fun u _ => (refl u).patchWord ..

/-- The samples of a group mark when they came; the clock of the ages goes on with the ticks alone. -/
theorem mark_ageClock (xs : List Sample) (m : Images) : (xs.foldl Images.mark m).ageClock = m.ageClock := by
  induction xs generalizing m with
  | nil => rfl
  | cons x xs ih =>
    refine (ih _).trans ?_
    unfold Images.mark
    split <;> rfl

theorem Acquired.applyGroup (h : Acquired s t) (xs : List Sample) : Acquired s (t.applyGroup xs) := by
  unfold State.applyGroup
  refine Acquired.foldl ((h.applyPatch .live (xs.foldl (fun p x => x.patch p) []) .cycleEngine).same ?_ rfl)
    fun u x => (refl u).dirtyId _
  unfold State.aside
  rw [mark_ageClock]

theorem Acquired.countLost (h : Acquired s t) : Acquired s t.countLost := h.setFld (by decide) _

theorem Acquired.setLost (h : Acquired s t) (l : List Src) : Acquired s { t with img.lost := l } := h.same rfl rfl

theorem Acquired.loseSource (h : Acquired s t) (x : Src) : Acquired s (t.loseSource x) := by
  unfold State.loseSource
  split
  · exact h.countLost
  · exact ((h.applyPatch ..).setLost _).countLost.foldl fun u i => (refl u).dirtyId i

theorem Acquired.regainSource (h : Acquired s t) (x : Src) : Acquired s (t.regainSource x) := by
  unfold State.regainSource
  split
  · exact ((h.applyPatch ..).setLost _).countLost.foldl fun u i => (refl u).dirtyId i
  · exact h

theorem Acquired.putGroup (h : Acquired s t) (x : Src) (g : Group) : Acquired s (t.putGroup x g) := by
  cases g with
  | data xs => exact h.applyGroup xs
  | lost => exact h.loseSource x
  | regained xs => exact (h.regainSource x).applyGroup xs

/-! ### The pair -/

theorem fiPass_staged (s : State) (l : Nat) (rx : Bool) (f : LinkFrame) : (s.fiPass l rx f).1.staged = s.staged := by
  have injected : ∀ u : State, (u.fiInjected l).staged = u.staged := fun u => report_staged ..
  have lost : ∀ (u : State) (n : Nat), (u.fiLost n).staged = u.staged := fun u n => by
    unfold State.fiLost
    split <;> rfl
  have holds : ∀ (u : State) (q : List Held), (u.setHeld l q).staged = u.staged := fun _ _ => rfl
  unfold State.fiPass State.fiReorder State.fiDelay
  dsimp only
  repeat' split
  all_goals simp only [injected, lost, holds]
  all_goals rfl

theorem Acquired.transmit (h : Acquired s t) (l : Nat) (f : LinkFrame) : Acquired s (t.transmit l f) :=
  h.sent ((Sent.refl t).transmit l f) (fiPass_staged ..)

theorem Acquired.colSend (h : Acquired s t) (type : Nat) (p : List Byte) : Acquired s (t.colSend type p) := by
  unfold State.colSend
  split
  · exact h
  · refine Acquired.transmit (h.same ?_ ?_) _ _ <;> rfl

theorem Acquired.streamGroup (h : Acquired s t) (x : Src) (g : Group) : Acquired s (t.streamGroup x g) := by
  unfold State.streamGroup
  dsimp only
  split
  · refine Acquired.bump (Acquired.flag (h.same ?_ ?_) (by decide) _) (by decide) <;> rfl
  · have hn := h.same (u := { t with col.streamBytes := t.col.streamBytes + (groupPayload x g).length + 12,
                                     col.groupsSince := t.col.groupsSince + 1 }) rfl rfl
    refine (Acquired.colSend ?_ _ _).putGroup x g
    split
    · exact hn.setFld (by decide) _
    · exact hn

theorem Acquired.acquire (h : Acquired s t) (x : Src) (g : Group) : Acquired s (t.acquire x g) := by
  unfold State.acquire
  split
  · exact h
  · split
    · exact h.same rfl rfl
    · split
      · exact h.streamGroup x g
      · exact h.putGroup x g

theorem Acquired.deliver (h : Acquired s t) (x : Src) (xs : List Sample) : Acquired s (t.deliver x xs) := h.acquire ..

end Live

end Sys2Proof.Machine

end

-- ==== Sys2Proof/Proofs/Train.lean ====

section
-- In order, not in parallel: each parallel thread reserves its whole stack of the check's memory.
set_option Elab.async false

/-! SUPPORT. Process data and messages of the train network, and the train backbone. -/

namespace Sys2Proof.Machine

/-! ### Process data -/

section ProcessData
variable {s : State} {t : PdTelegram}

/-- A telegram is checked where process data is enabled and acquired. -/
theorem pdIn_checks (on : s.fld Reg.TPD_CTRL_ENABLE = 1) (acq : s.mode.acquires = true) :
    ¬(s.fld Reg.TPD_CTRL_ENABLE = 0 ∨ (!s.mode.acquires) = true) := by
  rw [on, acq]
  decide

theorem pdIn_malformed (on : s.fld Reg.TPD_CTRL_ENABLE = 1) (acq : s.mode.acquires = true)
    (h : t.fcsOk = false ∨ t.msgType ≠ 0x5064 ∨ t.version / 256 ≠ 1) : s.pdIn t = s.bump Reg.TPD_RXERRCNT := by
  unfold State.pdIn
  rw [if_neg (pdIn_checks on acq), if_pos (by simpa using h)]

/-- The first subscription that matches takes the telegram. -/
theorem pdIn_matched {i : Nat} (hi : i < s.subCount) (hm : s.subMatches i t = true) (first : ∀ j, j < i → s.subMatches j t = false) :
    (List.range s.subCount).find? (fun i => s.subMatches i t) = some i := by
  rw [List.find?_range_eq_some]
  exact ⟨hm, List.mem_range.mpr hi, fun j hj => by rw [first j hj]; rfl⟩

section Formed
variable (on : s.fld Reg.TPD_CTRL_ENABLE = 1) (acq : s.mode.acquires = true) (fcs : t.fcsOk = true)
  (type : t.msgType = 0x5064) (version : t.version / 256 = 1)
include on acq fcs type version

theorem pdIn_unknown (h : ∀ i, i < s.subCount → s.subMatches i t = false) : s.pdIn t = s.bump Reg.TPD_UNKCNT := by
  have nobody : (List.range s.subCount).find? (fun i => s.subMatches i t) = none :=
    List.find?_eq_none.mpr fun i hi => by rw [h i (List.mem_range.mp hi)]; decide
  unfold State.pdIn
  rw [if_neg (pdIn_checks on acq), if_neg (by simp [fcs, type, version]), nobody]

variable {i : Nat} (hi : i < s.subCount) (hm : s.subMatches i t = true) (first : ∀ j, j < i → s.subMatches j t = false)
include hi hm first

theorem pdIn_duplicate (hd : s.pdDuplicate i t = true) : s.pdIn t = s.bump Reg.TPD_DUPCNT := by
  unfold State.pdIn
  rw [if_neg (pdIn_checks on acq), if_neg (by simp [fcs, type, version]), pdIn_matched hi hm first]
  exact if_pos hd

theorem pdIn_otherTopology (hd : s.pdDuplicate i t = false) (h0 : t.topo ≠ 0) (ht : t.topo.toNat ≠ s.topoCnt) :
    s.pdIn t = (s.bump Reg.TPD_TOPODISCCNT).flag Reg.TPD_EVT_TOPO_DISC true := by
  unfold State.pdIn
  rw [if_neg (pdIn_checks on acq), if_neg (by simp [fcs, type, version]), pdIn_matched hi hm first]
  dsimp only
  rw [if_neg (by rw [hd]; decide), if_pos ⟨h0, ht⟩]

variable (hd : s.pdDuplicate i t = false) (ht : t.topo = 0 ∨ t.topo.toNat = s.topoCnt)
include hd ht

theorem pdIn_wrongLength (hl : t.length ≠ s.cfg 0x09 (pdSubscribeOff i + 0x12) 2) : s.pdIn t = s.bump Reg.TPD_LENERRCNT := by
  unfold State.pdIn
  rw [if_neg (pdIn_checks on acq), if_neg (by simp [fcs, type, version]), pdIn_matched hi hm first]
  dsimp only
  rw [if_neg (by rw [hd]; decide), if_neg (by tauto), if_pos hl]

theorem pdIn_delivered (hl : t.length = s.cfg 0x09 (pdSubscribeOff i + 0x12) 2) : s.pdIn t =
    ((State.bump { s with net.subs := sput s.net.subs i (t.seq, s.img.ageClock) } Reg.TPD_RXCNT).clrBit
      (Reg.TPD_SUBLOST (i / 32)) (i % 32)).deliver (.pdSub i) (parseData (confFields s.cmd.config 0x09 pdFieldsOff
        (s.cfg 0x09 (pdSubscribeOff i + 0x0E) 2) (s.cfg 0x09 (pdSubscribeOff i + 0x10) 2)) true t.data) := by
  unfold State.pdIn
  rw [if_neg (pdIn_checks on acq), if_neg (by simp [fcs, type, version]), pdIn_matched hi hm first]
  dsimp only
  rw [if_neg (by rw [hd]; decide), if_neg (by tauto), if_neg (by simpa using hl)]

end Formed

/-! ### Time-outs -/

theorem bit_setBit_other (s : State) (k : Nat) {i j : Nat} (h : i ≠ j) : (s.setBit k i).bit k j = s.bit k j := by
  unfold State.setBit State.bit
  rw [fld_setFld_same, BitVec.getLsbD_or, BitVec.getLsbD_ofNat, Nat.testBit_two_pow_of_ne h, Bool.and_false, Bool.or_false]

/-- The first of some indices acts, and nothing is left for the others. -/
theorem foldl_range_first {α : Type} {f : α → Nat → α} {a b : α} {n : Nat} (h0 : 0 < n) (hf : f a 0 = b)
    (hr : ∀ i, 1 ≤ i → i < n → f b i = b) : (List.range n).foldl f a = b := by
  obtain ⟨m, rfl⟩ : ∃ m, n = m + 1 := ⟨n - 1, by omega⟩
  rw [List.range_succ_eq_map, List.foldl_cons, hf, List.foldl_map]
  have rest : ∀ l : List Nat, (∀ i ∈ l, i < m) → l.foldl (fun x i => f x (i + 1)) b = b := fun l hl => by
    induction l with
    | nil => rfl
    | cons i l ih =>
      rw [List.foldl_cons, hr (i + 1) (by omega) (by have := hl i (List.mem_cons_self ..); omega)]
      exact ih fun j hj => hl j (List.mem_cons_of_mem _ hj)
  exact rest _ fun i hi => List.mem_range.mp hi

/-- A subscription of the process data is lost (R298). -/
def State.subTimedOut (s : State) (i : Nat) : State :=
  (((s.setBit (Reg.TPD_SUBLOST (i / 32)) (i % 32)).flag Reg.TPD_EVT_TIMEOUT true).bump Reg.TPD_TIMEOUTCNT).acquire (.pdSub i) .lost

theorem subLost_aside {i : Nat} (hi : i < 4096) : asideKey (Reg.TPD_SUBLOST (i / 32)) = true := by
  unfold asideKey keyPage Reg.TPD_SUBLOST fk
  rw [decide_eq_true_eq]
  omega

theorem subDue_timedOut {i : Nat} (h1 : 1 ≤ i) (hi : i < 4096) : (s.subTimedOut 0).subDue i = s.subDue i := by
  have got : Acquired _ (s.subTimedOut 0) := (Acquired.refl (((s.setBit (Reg.TPD_SUBLOST 0) 0).flag Reg.TPD_EVT_TIMEOUT true).bump
    Reg.TPD_TIMEOUTCNT)).acquire (.pdSub 0) .lost
  have lost : (s.subTimedOut 0).subLost i = s.subLost i := by
    have away : ∀ o b, o < 0x200 → b < 32 → Reg.TPD_SUBLOST (i / 32) ≠ fk 0x09 o b := fun o b ho hb => by
      unfold Reg.TPD_SUBLOST fk
      omega
    have away1 : Reg.TPD_SUBLOST (i / 32) ≠ Reg.TPD_TIMEOUTCNT := away 0x05c 0 (by decide) (by decide)
    have away2 : Reg.TPD_SUBLOST (i / 32) ≠ Reg.TPD_EVT_TIMEOUT := away 0x008 0 (by decide) (by decide)
    unfold State.subLost
    rw [State.bit, got.fld _ (subLost_aside hi), fld_bump_other away1, fld_flag_other away2]
    show (s.setBit (Reg.TPD_SUBLOST 0) 0).bit _ _ = _
    by_cases hw : i / 32 = 0
    · rw [hw]
      exact bit_setBit_other s _ (by omega)
    · unfold State.bit
      rw [fld_setBit_other]
      unfold Reg.TPD_SUBLOST fk
      omega
  unfold State.subDue State.cfg
  rw [lost, got.net, got.cmd, got.ageClock]
  rfl

theorem subCount_le : s.subCount ≤ 4096 := Nat.min_le_left ..

theorem pdTimeout_first (on : s.fld Reg.TPD_CTRL_ENABLE = 1) (acq : s.mode.acquires = true) (h0 : 0 < s.subCount)
    (due : s.subDue 0 = true) (rest : ∀ i, 1 ≤ i → i < s.subCount → s.subDue i = false) :
    exec .pdTimeout s = .next (s.subTimedOut 0) := by
  show Host.Outcome.next _ = _
  rw [if_neg (pdIn_checks on acq)]
  refine congrArg Host.Outcome.next (foldl_range_first h0 (if_pos due) fun i h1 hi => if_neg ?_)
  have none : (s.subTimedOut 0).subDue i = false :=
    (subDue_timedOut h1 (Nat.lt_of_lt_of_le hi subCount_le)).trans (rest i h1 hi)
  exact Bool.eq_false_iff.mp none

end ProcessData

/-! ### Messages -/

section Messages
variable {s : State} {m : MdMessage}

/-- What the ring of a message takes. -/
def MdMessage.frame (m : MdMessage) : AgentFrame := ⟨m.pdu, m.link, BitVec.ofNat 32 m.comId, BitVec.ofNat 32 m.peer⟩

theorem mdIn_request {n : Nat} (hn : (if m.comId ∈ s.mdList 0 then some 5 else if m.comId ∈ s.mdList 1 then some 7 else none) = some n)
    (hr : m.reply = false) : s.mdIn m = s.ringIn n 3 m.frame := by
  unfold State.mdIn
  rw [hn]
  dsimp only
  rw [hr]
  rfl

theorem mdIn_reply (h0 : m.comId ∈ s.mdList 0) (hr : m.reply = true) (hc : m.confirm = false) {k : Nat}
    (hk : sget s.net.md m.session = some k) :
    s.mdIn m = State.ringIn { s with net.md := serase s.net.md m.session } 5 3 m.frame := by
  unfold State.mdIn
  rw [if_pos h0]
  dsimp only
  rw [if_pos hr, hk]
  dsimp only
  rw [hc]
  rfl

theorem mdIn_lateReply (h0 : m.comId ∈ s.mdList 0) (hr : m.reply = true) (hk : sget s.net.md m.session = none) : s.mdIn m = s := by
  unfold State.mdIn
  rw [if_pos h0]
  dsimp only
  rw [if_pos hr, hk]

theorem mdIn_unknown (h0 : m.comId ∉ s.mdList 0) (h1 : m.comId ∉ s.mdList 1) :
    s.mdIn m = State.mdAnswer { s with net.meCount := s.net.meCount + 1 } 0x4D65 m := by
  unfold State.mdIn
  rw [if_neg h0, if_neg h1]

theorem takeMsg_waits {m : NetMsg} {g : State → State} (h : s.nextMsg m = false) : s.takeMsg m g = s :=
  if_neg (by rw [h]; decide)

/-- A link of a module that is no worker has no tunnel. -/
theorem tunnelled_off {l : Nat} (h : s.isWorker = false) : s.tunnelled l = false := by
  unfold State.tunnelled
  rw [h]
  rfl

theorem rawEthernet_in {link : Nat} {bytes : List Byte} (h : s.nextMsg (.raw link bytes) = true) (hw : s.isWorker = false) :
    exec (.rawEthernetReceive link bytes) s =
      .next (State.ringIn { s with net.inbox := s.net.inbox.erase (.raw link bytes) } 31 0x0B ⟨bytes, link, 0, 0⟩) := by
  have direct : State.tunnelled { s with net.inbox := s.net.inbox.erase (.raw link bytes) } link = false := tunnelled_off hw
  refine congrArg Host.Outcome.next ((takeMsg_next h).trans ?_)
  unfold State.linkIn
  rw [if_neg (by rw [direct]; decide)]
  rfl

theorem nextMsg_find {m : NetMsg} (h : s.nextMsg m = true) : s.net.inbox.find? (fun x => x.user == m.user) = some m := by
  simpa [State.nextMsg] using h

end Messages

/-! ### The train backbone -/

section Backbone
variable {s : State}

theorem ttdpHello_in {m : NetMsg} (on : s.etbn = true) (hu : m.user = 3) (h : s.nextMsg m = true) :
    exec (.ttdpHello true) s = .next (State.ttdpIn { s with net.inbox := s.net.inbox.erase m } m) := by
  have find := nextMsg_find h
  rw [hu] at find
  show Host.Outcome.next _ = _
  rw [if_neg (by rw [on]; decide), if_pos rfl, find]
  exact congrArg Host.Outcome.next (takeMsg_next h)

theorem ttdpHello_out (on : s.etbn = true) : ∃ t, exec (.ttdpHello false) s = .next t ∧
    t.net.neigh1 = s.net.neigh1.map (fun p => (p.1, p.2 + 1)) ∧ t.net.neigh2 = s.net.neigh2.map (fun p => (p.1, p.2 + 1)) := by
  have net : s.ttdpSend.net = s.net := ((Sent.refl s).sendAll _).net
  refine ⟨_, congrArg Host.Outcome.next ((if_neg (by rw [on]; decide)).trans (if_neg (by decide))), ?_, ?_⟩
  · dsimp only
    rw [net]
  · dsimp only
    rw [net]

theorem neighbourLost_outcome {n m : Nat} (h : s.net.neigh1 = some (n, m)) : ∃ t, exec .ttdpNeighbourLost s = .next t ∧
    t.net.neigh1 = (if m < 3 then some (n, m) else none) ∧ t.regs = s.regs ∧ t.mem = s.mem := by
  refine ⟨_, rfl, ?_, rfl, rfl⟩
  show s.net.neigh1.filter (fun p => decide (p.2 < 3)) = _
  rw [h, Option.filter_some]
  simp only [decide_eq_true_eq]

theorem etbInauguration_oversize {pos : Nat} {topo : Word} (on : s.etbn = true) (h : 32 < s.etbLine.length) :
    ∃ t, exec (.etbInauguration s.etbLine.length pos topo) s = .next t ∧ t.fld Reg.ESW_ETBSTAT_OVERSIZE = 1 ∧
      t.fld Reg.ESW_ETBTOPO_TOPO = s.fld Reg.ESW_ETBTOPO_TOPO ∧ t.net.trainDir = s.net.trainDir ∧ t.mem = s.mem := by
  refine ⟨_, congrArg Host.Outcome.next ((if_neg (by rw [on]; simp)).trans (if_pos h)), ?_, ?_, ?_, ?_⟩
  · rw [fld_report _ _ _ _ _ _ _ (by decide) (by decide), fld_flag_same]
    rfl
  · rw [fld_report _ _ _ _ _ _ _ (by decide) (by decide), fld_flag_other (by decide)]
  · rw [report_net]
    rfl
  · rw [report_mem]
    rfl

/-- A train directory has come into force (R302, R303). -/
def State.inaugurated (s : State) (count pos : Nat) (topo : Word) (dir : List Nat) : State :=
  let s := { s with net.trainDir := dir, net.networkDir := dir.mapIdx (fun i m => (i + 1, m)) }
  let s := ((s.flag Reg.ESW_ETBSTAT_OVERSIZE false).flag Reg.ESW_ETBSTAT_INAUG true).setFld Reg.ESW_ETBSTAT_POS (BitVec.ofNat 32 pos)
  let s := (s.setFld Reg.ESW_ETBSTAT_COUNT (BitVec.ofNat 32 count)).setFld Reg.ESW_ETBTOPO_TOPO topo
  (s.flag Reg.ESW_EVT_INAUG true).report .o .info (evCode 7 303 0) (srcNo 7 0) [BitVec.ofNat 8 count, BitVec.ofNat 8 pos]

theorem fld_inaugurated {count pos k : Nat} {topo : Word} {dir : List Nat} (hk : logKey k = false) :
    (s.inaugurated count pos topo dir).fld k =
      if k = Reg.ESW_EVT_INAUG then 1 else if k = Reg.ESW_ETBTOPO_TOPO then topo
      else if k = Reg.ESW_ETBSTAT_COUNT then BitVec.ofNat 32 count else if k = Reg.ESW_ETBSTAT_POS then BitVec.ofNat 32 pos
      else if k = Reg.ESW_ETBSTAT_INAUG then 1 else if k = Reg.ESW_ETBSTAT_OVERSIZE then 0 else s.fld k := by
  unfold State.inaugurated
  dsimp only
  rw [fld_report _ _ _ _ _ _ _ (by decide) hk, fld_flag, fld_setFld, fld_setFld, fld_setFld, fld_flag, fld_flag]
  rfl

theorem topoSignal_acquired (block : Nat) (x : Src) (v : Word) : Acquired s (s.topoSignal block x v) := by
  unfold State.topoSignal
  split
  · exact (Acquired.refl s).deliver ..
  · exact .refl s

theorem directory_position {pos : Nat} {dir : List Nat} (h : s.directory pos = some dir) :
    dir[pos - 1]? = some s.unitMac ∧ pos ≤ s.etbLine.length := by
  have found := List.find?_some h
  simp only [Bool.and_eq_true, bne_iff_ne, beq_iff_eq] at found
  refine ⟨found.2, ?_⟩
  have len : dir.length = s.etbLine.length := by
    have mem := List.mem_of_find?_eq_some h
    simp only [List.mem_cons, List.not_mem_nil, or_false] at mem
    rcases mem with e | e <;> rw [e]
    exact List.length_reverse
  have := (List.getElem?_eq_some_iff.mp found.2).1
  omega

theorem etbInauguration_inForce {pos : Nat} {topo : Word} {dir : List Nat} (on : s.etbn = true) (h : s.etbLine.length ≤ 32)
    (hd : s.directory pos = some dir) : ∃ t, exec (.etbInauguration s.etbLine.length pos topo) s = .next t ∧
      t.net.trainDir = dir ∧ dir[pos - 1]? = some s.unitMac ∧ t.fld Reg.ESW_ETBSTAT_INAUG = 1 ∧
      t.fld Reg.ESW_ETBSTAT_OVERSIZE = 0 ∧ (t.fld Reg.ESW_ETBSTAT_COUNT).toNat = s.etbLine.length ∧
      (t.fld Reg.ESW_ETBSTAT_POS).toNat = pos ∧ t.fld Reg.ESW_ETBTOPO_TOPO = topo ∧ t.fld Reg.ESW_EVT_INAUG = 1 := by
  obtain ⟨own, le⟩ := directory_position hd
  have step : exec (.etbInauguration s.etbLine.length pos topo) s =
      .next ((s.inaugurated s.etbLine.length pos topo dir).topoSignal 0x09 .status topo) := by
    show Host.Outcome.next _ = _
    rw [if_neg (by rw [on]; simp), if_neg (by omega), hd]
    rfl
  generalize hu : s.inaugurated s.etbLine.length pos topo dir = u at step
  have got := topoSignal_acquired (s := u) 0x09 .status topo
  refine ⟨_, step, ?_, own, ?_, ?_, ?_, ?_, ?_, ?_⟩
  · rw [got.net, ← hu]
    unfold State.inaugurated
    dsimp only
    rw [report_net]
    rfl
  · rw [got.fld _ (by decide), ← hu, fld_inaugurated (by decide)]
    rfl
  · rw [got.fld _ (by decide), ← hu, fld_inaugurated (by decide)]
    rfl
  · rw [got.fld _ (by decide), ← hu, fld_inaugurated (by decide), if_neg (by decide), if_neg (by decide), if_pos rfl,
      BitVec.toNat_ofNat]
    omega
  · rw [got.fld _ (by decide), ← hu, fld_inaugurated (by decide), if_neg (by decide), if_neg (by decide), if_neg (by decide),
      if_pos rfl, BitVec.toNat_ofNat]
    omega
  · rw [got.fld _ (by decide), ← hu, fld_inaugurated (by decide)]
    rfl
  · rw [got.fld _ (by decide), ← hu, fld_inaugurated (by decide)]
    rfl

end Backbone

/-- Settles O50: the checks of a telegram one by one, and each event of the train by its rule. -/
theorem trainNetwork : Obligations.TrainNetwork := by
  unfold Obligations.TrainNetwork
  refine ⟨fun s t => ⟨fun h => congrArg Host.Outcome.next (takeMsg_next h), fun h => congrArg Host.Outcome.next (takeMsg_waits h)⟩,
    fun s t on acq => ⟨pdIn_malformed on acq, fun fcs type version => ⟨pdIn_unknown on acq fcs type version,
      fun i hi hm first => ⟨pdIn_duplicate on acq fcs type version hi hm first,
        pdIn_otherTopology on acq fcs type version hi hm first,
        fun hd ht => ⟨pdIn_wrongLength on acq fcs type version hi hm first hd ht,
          pdIn_delivered on acq fcs type version hi hm first hd ht⟩⟩⟩⟩,
    fun s on acq h0 due rest => pdTimeout_first on acq h0 due rest,
    fun s m => ⟨fun h => congrArg Host.Outcome.next (takeMsg_next h), fun h => congrArg Host.Outcome.next (takeMsg_waits h)⟩,
    fun s m => ⟨fun h0 hr => mdIn_request (if_pos h0) hr, fun h0 h1 hr => mdIn_request ((if_neg h0).trans (if_pos h1)) hr,
      fun h0 hr hc k hk => mdIn_reply h0 hr hc hk, mdIn_lateReply, mdIn_unknown⟩,
    fun s k => ⟨_, rfl, (sget_serase ..).trans (if_pos rfl), fun j hj => (sget_serase ..).trans (if_neg hj), rfl, rfl⟩,
    fun s link bytes => ⟨rawEthernet_in, fun h => congrArg Host.Outcome.next (takeMsg_waits h)⟩,
    fun s on => ⟨fun n h => ⟨_, ttdpHello_in on rfl h, rfl, rfl, rfl⟩, fun n h => ⟨_, ttdpHello_in on rfl h, rfl, rfl, rfl⟩,
      fun n a b h => ⟨_, ttdpHello_in on rfl h, rfl, rfl, rfl⟩, ttdpHello_out on⟩,
    fun s n m h => neighbourLost_outcome h,
    fun s pos topo on => ⟨etbInauguration_oversize on, fun h dir hd => etbInauguration_inForce on h hd⟩⟩

end Sys2Proof.Machine

end

-- ==== Sys2Proof/Proofs/Buses.lean ====

section
-- In order, not in parallel: each parallel thread reserves its whole stack of the check's memory.
set_option Elab.async false

/-! SUPPORT. MVB, WTB, CAN and the serial links. -/

namespace Sys2Proof.Machine

/-! ### A frame on one of two lines -/

section Lines
variable {s : State} {l cnt : Nat} {valid : LinkFrame → Bool} {f : LinkFrame}

/-- A valid frame on a line whose injection does not act counts no error. -/
theorem rxLine_valid (h : s.fiActs l true = false) (hv : valid f = true) : s.rxLine l cnt valid (some f) = (s.bumpBy cnt 0, [f]) := by
  unfold State.rxLine State.fiPass
  dsimp only
  rw [if_pos (by rw [h]; rfl)]
  simp [hv]

theorem satAdd_nothing (v : Word) : satAdd v 0 = v := by
  unfold satAdd
  rw [Nat.add_zero, if_pos v.isLt, BitVec.ofNat_toNat, BitVec.setWidth_eq]

theorem fld_bumpBy_zero (s : State) (k j : Nat) : (s.bumpBy k 0).fld j = s.fld j := by
  unfold State.bumpBy
  rw [fld_setFld, satAdd_nothing]
  split
  · next h => rw [h]
  · rfl

end Lines

/-- A group is acquired: nothing shows in a register of another unit, and in nothing that stands aside. -/
theorem acquire_acquired (s : State) (x : Src) (g : Group) : Acquired s (s.acquire x g) := (Acquired.refl s).acquire x g

/-- The bit of a later entry in a table of lost bits stays when the first one is set. -/
theorem bit_firstLost (s : State) {p o i : Nat} (h : 1 ≤ i) :
    (s.setBit (fk p (o + 0x4 * 0) 0) 0).bit (fk p (o + 0x4 * (i / 32)) 0) (i % 32) = s.bit (fk p (o + 0x4 * (i / 32)) 0) (i % 32) := by
  by_cases hw : i / 32 = 0
  · rw [hw]
    exact bit_setBit_other s _ (by omega)
  · unfold State.bit
    rw [fld_setBit_other]
    unfold fk
    omega

/-! ### MVB -/

section Mvb
variable {s : State}

/-- A valid master frame on line A (R308). -/
theorem mvbPair_lineA {f : LinkFrame} {valid : LinkFrame → Bool} (h : s.fiActs linkMvbA true = false) (hv : valid f = true) :
    s.mvbPair valid (some f) none = ((s.bumpBy Reg.MVB_ERRACNT 0).flag Reg.MVB_STAT_LINE_A true, some f) := by
  unfold State.mvbPair
  rw [rxLine_valid h hv]
  rfl

/-- A master frame has been seen (R308). -/
def State.mvbHeard (s : State) : State :=
  let s := (s.bumpBy Reg.MVB_ERRACNT 0).flag Reg.MVB_STAT_LINE_A true
  State.flag { s with bus.mvbSeen := s.img.ageClock } Reg.MVB_STAT_MASTER_SEEN true

theorem fld_mvbHeard {k : Nat} (h1 : k ≠ Reg.MVB_STAT_LINE_A) (h2 : k ≠ Reg.MVB_STAT_MASTER_SEEN) : s.mvbHeard.fld k = s.fld k := by
  unfold State.mvbHeard
  dsimp only
  rw [fld_flag_other h2, fld_with, fld_flag_other h1, fld_bumpBy_zero]

theorem mvbHeard_lineA : s.mvbHeard.fld Reg.MVB_STAT_LINE_A = 1 := by
  unfold State.mvbHeard
  dsimp only
  rw [fld_flag_other (by decide), fld_with, fld_flag_same]
  rfl

theorem mvbHeard_seen : s.mvbHeard.fld Reg.MVB_STAT_MASTER_SEEN = 1 := fld_flag_same ..

theorem mvbCode_lt (i : Nat) : s.mvbCode i < 8 := by
  unfold State.mvbCode bitsAt
  exact Nat.mod_lt _ (by decide)

/-- The port that a master frame asks. -/
theorem mvbMasterFrame_port {f : LinkFrame} {slave : Option LinkFrame × Option LinkFrame} {first : Bool} {i : Nat}
    (hs : s.staged = []) (hf : s.fiActs linkMvbA true = false) (ok : f.ok = true) (len : f.bytes.length = 2) (hi : i < s.mvbPorts)
    (ha : s.mvbAddr i = beAt f.bytes 0 2 % 4096) (hc : s.mvbCode i = beAt f.bytes 0 2 / 4096)
    (hj : ∀ j, j < i → s.mvbAddr j ≠ s.mvbAddr i ∨ s.mvbCode j ≠ s.mvbCode i) :
    exec (.mvbMasterFrame (some f) none slave first) s = .next (s.mvbHeard.mvbPort i slave.1 slave.2) := by
  have begun : (if first = true then s.applyStaged (fun k => keyPage k == 0x0A) else s) = s := by
    rw [applyStaged_nil hs, ite_self]
  have valid : (fun f : LinkFrame => f.ok && f.bytes.length == 2) f = true := by
    dsimp only
    rw [ok, len]
    rfl
  have code := mvbCode_lt (s := s) i
  have found : (List.range s.mvbHeard.mvbPorts).find? (fun i => s.mvbHeard.mvbAddr i == beAt f.bytes 0 2 % 4096 &&
      s.mvbHeard.mvbCode i == beAt f.bytes 0 2 / 4096) = some i := by
    rw [List.find?_range_eq_some]
    refine ⟨?_, List.mem_range.mpr hi, fun j hlt => ?_⟩
    · show (s.mvbAddr i == beAt f.bytes 0 2 % 4096 && s.mvbCode i == beAt f.bytes 0 2 / 4096) = true
      rw [ha, hc, beq_self_eq_true, beq_self_eq_true, Bool.and_self]
    · show (!(s.mvbAddr j == beAt f.bytes 0 2 % 4096 && s.mvbCode j == beAt f.bytes 0 2 / 4096)) = true
      rw [← ha, ← hc]
      rcases hj j hlt with h | h <;> simp [h]
  show Host.Outcome.next _ = _
  have pair : s.mvbPair (fun f => f.ok && f.bytes.length == 2) (some f) none = _ := mvbPair_lineA hf valid
  rw [begun]
  dsimp only
  rw [pair]
  dsimp only
  rw [if_neg (by omega)]
  exact congrArg Host.Outcome.next (by rw [State.mvbHeard] at found; rw [found]; rfl)

theorem mvbAnswer_idle {b : List Byte} (ha : s.fiActs linkMvbA false = false) (hb : s.fiActs linkMvbB false = false) :
    s.mvbAnswer b = ((s.putOut linkMvbA [⟨b, true⟩]).putOut linkMvbB [⟨b, true⟩]).bump Reg.MVB_SFCNT := by
  unfold State.mvbAnswer
  rw [transmit_idle ha]
  exact congrArg (State.bump · _) (transmit_idle (s := s.putOut linkMvbA [⟨b, true⟩]) hb _)

theorem fiActs_of_fld {t : State} {l : Nat} {rx : Bool} (h1 : t.fld (Reg.FI_CFG_ARMED l) = s.fld (Reg.FI_CFG_ARMED l))
    (h2 : t.fld (Reg.FI_CFG_DIR l) = s.fld (Reg.FI_CFG_DIR l)) : t.fiActs l rx = s.fiActs l rx := by
  unfold State.fiActs State.fiArmed
  rw [h1, h2]

/-- A source port answers from its buffer (R310, R311). -/
theorem mvbPort_source {i : Nat} {sa sb : Option LinkFrame} (src : s.mvbIsSink i = false) (on : s.mvbOn = true)
    (sends : s.sendsData = true) : s.mvbPort i sa sb =
      (s.bump Reg.MVB_MFCNT).mvbAnswer (sgetD (List.replicate (s.mvbSize i) 0) s.bus.mvbSrc i) := by
  have sends' : (s.bump Reg.MVB_MFCNT).sendsData = true := by
    unfold State.sendsData
    rw [fld_bump_other (by decide)]
    exact sends
  unfold State.mvbPort
  rw [if_neg (by rw [src]; decide), if_pos on]
  dsimp only
  rw [if_pos sends']
  rfl

/-- The master frame counted and the slave frame out on both lines (R308). -/
def State.mvbSpoken (s : State) (d : LinkFrame) : State :=
  (((s.bump Reg.MVB_MFCNT).putOut linkMvbA [d]).putOut linkMvbB [d]).bump Reg.MVB_SFCNT

theorem mvbSpoken_out (d : LinkFrame) : (s.mvbSpoken d).out = s.out ++ [.frame linkMvbA d, .frame linkMvbB d] := by
  show (s.out ++ [_]) ++ [_] = _
  rw [List.append_assoc]
  rfl

theorem mvbSpoken_mem (d : LinkFrame) : (s.mvbSpoken d).mem = s.mem := rfl

theorem fld_mvbSpoken (d : LinkFrame) {k : Nat} (hk : k ≠ Reg.MVB_SFCNT) : (s.mvbSpoken d).fld k = (s.bump Reg.MVB_MFCNT).fld k := by
  unfold State.mvbSpoken
  rw [fld_bump_other hk]
  rfl

theorem mvbSpoken_count (d : LinkFrame) : (s.mvbSpoken d).fld Reg.MVB_SFCNT = satAdd (s.fld Reg.MVB_SFCNT) 1 := by
  unfold State.mvbSpoken
  rw [fld_bump_same]
  exact congrArg (satAdd · 1) (fld_bump_other (s := s) (by decide))

theorem mvbHeard_out : s.mvbHeard.out = s.out := rfl
theorem mvbHeard_mem : s.mvbHeard.mem = s.mem := rfl

theorem mvbMasterFrame_answered {f : LinkFrame} {slave : Option LinkFrame × Option LinkFrame} {first : Bool} {i : Nat}
    (hs : s.staged = []) (hf : s.fiActs linkMvbA true = false) (hA : s.fiActs linkMvbA false = false)
    (hB : s.fiActs linkMvbB false = false) (ok : f.ok = true) (len : f.bytes.length = 2) (hi : i < s.mvbPorts)
    (ha : s.mvbAddr i = beAt f.bytes 0 2 % 4096) (hc : s.mvbCode i = beAt f.bytes 0 2 / 4096)
    (hj : ∀ j, j < i → s.mvbAddr j ≠ s.mvbAddr i ∨ s.mvbCode j ≠ s.mvbCode i) (src : s.mvbIsSink i = false)
    (on : s.mvbOn = true) (sends : s.sendsData = true) :
    ∃ t, exec (.mvbMasterFrame (some f) none slave first) s = .next t ∧ t.fld Reg.MVB_STAT_MASTER_SEEN = 1 ∧
      t.fld Reg.MVB_STAT_LINE_A = 1 ∧ t.fld Reg.MVB_MFCNT = satAdd (s.fld Reg.MVB_MFCNT) 1 ∧
      t.fld Reg.MVB_SFCNT = satAdd (s.fld Reg.MVB_SFCNT) 1 ∧
      (let d : LinkFrame := ⟨sgetD (List.replicate (s.mvbSize i) 0) s.bus.mvbSrc i, true⟩
       t.out = s.out ++ [.frame linkMvbA d, .frame linkMvbB d]) ∧ t.mem = s.mem := by
  have onHeard : s.mvbHeard.mvbOn = true := by
    unfold State.mvbOn
    rw [fld_mvbHeard (by decide) (by decide)]
    exact on
  have sendsHeard : s.mvbHeard.sendsData = true := by
    unfold State.sendsData
    rw [fld_mvbHeard (by decide) (by decide)]
    exact sends
  have actsA : (s.mvbHeard.bump Reg.MVB_MFCNT).fiActs linkMvbA false = false := by
    rw [fiActs_of_fld (s := s), hA] <;> rw [fld_bump_other (by decide), fld_mvbHeard (by decide) (by decide)]
  have actsB : (s.mvbHeard.bump Reg.MVB_MFCNT).fiActs linkMvbB false = false := by
    rw [fiActs_of_fld (s := s), hB] <;> rw [fld_bump_other (by decide), fld_mvbHeard (by decide) (by decide)]
  have port : s.mvbHeard.mvbPort i slave.1 slave.2 = (s.mvbHeard.bump Reg.MVB_MFCNT).mvbAnswer
      (sgetD (List.replicate (s.mvbSize i) 0) s.bus.mvbSrc i) := mvbPort_source src onHeard sendsHeard
  generalize sgetD (List.replicate (s.mvbSize i) 0) s.bus.mvbSrc i = d at port ⊢
  rw [mvbAnswer_idle actsA actsB] at port
  refine ⟨s.mvbHeard.mvbSpoken ⟨d, true⟩, ?_, ?_, ?_, ?_, ?_, ?_, ?_⟩
  · rw [mvbMasterFrame_port hs hf ok len hi ha hc hj, port]
    rfl
  · rw [fld_mvbSpoken _ (by decide), fld_bump_other (by decide), mvbHeard_seen]
  · rw [fld_mvbSpoken _ (by decide), fld_bump_other (by decide), mvbHeard_lineA]
  · rw [fld_mvbSpoken _ (by decide), fld_bump_same, fld_mvbHeard (by decide) (by decide)]
  · rw [mvbSpoken_count, fld_mvbHeard (by decide) (by decide)]
  · rw [mvbSpoken_out, mvbHeard_out]
  · rw [mvbSpoken_mem, mvbHeard_mem]

/-- A sink of the MVB is lost (R310). -/
def State.mvbTimedOut (s : State) (i : Nat) : State :=
  (((s.setBit (Reg.MVB_SINKLOST (i / 32)) (i % 32)).flag Reg.MVB_EVT_SINK_TIMEOUT true).bump Reg.MVB_TIMEOUTCNT).acquire
    (.mvbSink i) .lost

theorem mvbPorts_le : s.mvbPorts ≤ 1024 := Nat.min_le_left ..

theorem mvbDue_timedOut {i : Nat} (h1 : 1 ≤ i) (hi : i < 1024) : (s.mvbTimedOut 0).mvbDue i = s.mvbDue i := by
  have got : Acquired _ (s.mvbTimedOut 0) := acquire_acquired (((s.setBit (Reg.MVB_SINKLOST 0) 0).flag Reg.MVB_EVT_SINK_TIMEOUT true).bump
    Reg.MVB_TIMEOUTCNT) (.mvbSink 0) .lost
  have lost : (s.mvbTimedOut 0).bit (Reg.MVB_SINKLOST (i / 32)) (i % 32) = s.bit (Reg.MVB_SINKLOST (i / 32)) (i % 32) := by
    have away1 : Reg.MVB_SINKLOST (i / 32) ≠ Reg.MVB_TIMEOUTCNT := by
      unfold Reg.MVB_SINKLOST Reg.MVB_TIMEOUTCNT fk
      omega
    have away2 : Reg.MVB_SINKLOST (i / 32) ≠ Reg.MVB_EVT_SINK_TIMEOUT := by
      unfold Reg.MVB_SINKLOST Reg.MVB_EVT_SINK_TIMEOUT fk
      omega
    have beside : asideKey (Reg.MVB_SINKLOST (i / 32)) = true := by
      unfold asideKey keyPage Reg.MVB_SINKLOST fk
      rw [decide_eq_true_eq]
      omega
    rw [State.bit, got.fld _ beside, fld_bump_other away1, fld_flag_other away2]
    exact bit_firstLost s h1
  unfold State.mvbDue State.mvbIsSink State.cfg
  rw [lost, got.cmd, got.ageClock, got.bus]
  rfl

theorem mvbSinkTimeout_first (acq : s.mode.acquires = true) (h0 : 0 < s.mvbPorts) (due : s.mvbDue 0 = true)
    (rest : ∀ i, 1 ≤ i → i < s.mvbPorts → s.mvbDue i = false) : exec .mvbSinkTimeout s = .next (s.mvbTimedOut 0) := by
  show Host.Outcome.next _ = _
  rw [if_neg (by rw [acq]; decide)]
  refine congrArg Host.Outcome.next (foldl_range_first h0 (if_pos due) fun i h1 hi => if_neg ?_)
  have none : (s.mvbTimedOut 0).mvbDue i = false :=
    (mvbDue_timedOut h1 (Nat.lt_of_lt_of_le hi mvbPorts_le)).trans (rest i h1 hi)
  exact Bool.eq_false_iff.mp none

theorem mvbLineTimeout_fault {b : Bool} (h : s.fld (if b = true then Reg.MVB_STAT_LINE_B else Reg.MVB_STAT_LINE_A) = 1) :
    ∃ t, exec (.mvbLineTimeout b) s = .next t ∧
      t.fld (if b = true then Reg.MVB_STAT_LINE_B else Reg.MVB_STAT_LINE_A) = 0 ∧ t.fld Reg.MVB_EVT_LINE_FAULT = 1 ∧
      t.mem = s.mem := by
  have other : (if b = true then Reg.MVB_STAT_LINE_B else Reg.MVB_STAT_LINE_A) ≠ Reg.MVB_EVT_LINE_FAULT := by
    cases b <;> decide
  refine ⟨_, congrArg Host.Outcome.next (if_pos h), ?_, fld_flag_same .., rfl⟩
  rw [fld_flag_other other, fld_flag_same]
  rfl

end Mvb

/-! ### Registers that a change keeps -/

/-- The registers that `p` selects keep their values from `s` to `t`. -/
def Keeps (p : Nat → Bool) (s t : State) : Prop := ∀ k, p k = true → t.fld k = s.fld k

namespace Keeps
variable {p : Nat → Bool} {s t u : State}

theorem refl (s : State) : Keeps p s s := fun _ _ => rfl
theorem trans (h : Keeps p s t) (g : Keeps p t u) : Keeps p s u := fun k hk => (g k hk).trans (h k hk)
theorem same (h : Keeps p s t) (hr : u.regs = t.regs) : Keeps p s u := h.trans fun _ _ => fld_eq_of_regs hr

theorem setFld (h : Keeps p s t) {k : Nat} (hk : p k = false) (v : Word) : Keeps p s (t.setFld k v) :=
  fun j hj => (fld_setFld_other fun e => by subst e; rw [hj] at hk; exact absurd hk (by decide)).trans (h j hj)

theorem flag (h : Keeps p s t) {k : Nat} (hk : p k = false) (b : Bool) : Keeps p s (t.flag k b) := h.setFld hk _
theorem bump (h : Keeps p s t) {k : Nat} (hk : p k = false) : Keeps p s (t.bump k) := h.setFld hk _
theorem bumpBy (h : Keeps p s t) {k : Nat} (hk : p k = false) (n : Nat) : Keeps p s (t.bumpBy k n) := h.setFld hk _
theorem setBit (h : Keeps p s t) {k : Nat} (hk : p k = false) (i : Nat) : Keeps p s (t.setBit k i) := h.setFld hk _
theorem clrBit (h : Keeps p s t) {k : Nat} (hk : p k = false) (i : Nat) : Keeps p s (t.clrBit k i) := h.setFld hk _

theorem foldl {α : Type} {f : State → α → State} {l : List α} (h : Keeps p s t) (hf : ∀ t x, Keeps p t (f t x)) :
    Keeps p s (l.foldl f t) := by
  induction l generalizing t with
  | nil => exact h
  | cons x l ih => exact ih (h.trans (hf t x))

theorem report (h : Keeps p s t) (hp : ∀ k, p k = true → logKey k = false) {cls : RecClass} {sev : Severity} {code sub inst : Nat}
    {b : List Byte} (hs : sub ≤ 255 := by decide) : Keeps p s (t.report cls sev code (srcNo sub inst) b) :=
  fun k hk => (fld_report _ _ _ _ _ _ _ hs (hp k hk)).trans (h k hk)

end Keeps

/-- The registers that reading the memory leaves alone: all but those of the stores and of the records. -/
def readKey (k : Nat) : Bool := decide (keyPage k ≠ 4 ∧ keyPage k ≠ 5) && !logKey k

theorem readKey_not_log (k : Nat) (h : readKey k = true) : logKey k = false := by
  simp only [readKey, Bool.and_eq_true, Bool.not_eq_true'] at h
  exact h.2

section Reads
variable {s t : State} (h : Keeps readKey s t)
include h

theorem Keeps.countCe (a : Arr) (w : Nat) : Keeps readKey s (t.countCe a w) := by
  unfold State.countCe
  cases a with
  | ps => exact (((h.bump (by decide)).setFld (by decide) _).flag (by decide) _).report readKey_not_log
  | rs => exact (((h.bump (by decide)).setFld (by decide) _).flag (by decide) _).report readKey_not_log
  | prg | img | live | com => exact ((h.bump (by decide)).setFld (by decide) _).flag (by decide) _

theorem Keeps.countUe (a : Arr) (w : Nat) (c : Cls) (syn : Byte) (m : Master) : Keeps readKey s (t.countUe a w c syn m) := by
  unfold State.countUe
  dsimp only
  refine Keeps.report ?_ readKey_not_log
  have hb : Keeps readKey s (t.bump (ueCounter a c)) := h.bump (by cases a <;> cases c <;> decide)
  split
  · split
    · exact (((hb.setFld (by decide) _).setFld (by decide) _).setFld (by decide) _).setFld (by decide) _
    · exact ((((hb.setFld (by decide) _).setFld (by decide) _).setFld (by decide) _).setFld (by decide) _).flag (by decide) _
  · split
    · exact ((((hb.setFld (by decide) _).setFld (by decide) _).setFld (by decide) _).setFld (by decide) _).setFld (by decide) _
    · exact (((((hb.setFld (by decide) _).setFld (by decide) _).setFld (by decide) _).setFld (by decide) _).setFld
        (by decide) _).flag (by decide) _

theorem Keeps.readWord (a : Arr) (w : Nat) (m : Master) : Keeps readKey s (t.readWord a w m).1 := by
  have ha : Keeps readKey s (t.account a w m) := by
    unfold State.account
    dsimp only
    split
    · exact h
    · exact h.countCe a w
    · exact h.countUe a w _ _ m
  unfold State.readWord
  dsimp only
  split
  · exact ha.same rfl
  · exact ha

theorem Keeps.readMany (a : Arr) (m : Master) (ws : List Nat) : Keeps readKey s (t.readMany a m ws).1 := by
  induction ws generalizing t with
  | nil => exact h
  | cons w ws ih => exact ih (h.readWord a w m)

end Reads

theorem Acquired.readWord {s t : State} (h : Acquired s t) (a : Arr) (w : Nat) (m : Master) : Acquired s (t.readWord a w m).1 := by
  unfold State.readWord
  dsimp only
  split
  · exact (h.account a w m).same rfl rfl
  · exact h.account a w m

theorem Acquired.readMany {s t : State} (h : Acquired s t) (a : Arr) (m : Master) (ws : List Nat) :
    Acquired s (t.readMany a m ws).1 := by
  induction ws generalizing t with
  | nil => exact h
  | cons w ws ih => exact ih (h.readWord a w m)

theorem buildData_read (s : State) (fs : List FieldEntry) (len : Nat) (big off : Bool) :
    Acquired s (s.buildData fs len big off).1 ∧ Keeps readKey s (s.buildData fs len big off).1 := by
  unfold State.buildData
  dsimp only
  split
  · exact ⟨.refl s, .refl s⟩
  · exact ⟨(Acquired.refl s).readMany .., (Keeps.refl s).readMany _ _ _⟩

/-! ### WTB -/

section Wtb
variable {s : State}

/-- One more period of the WTB (R313). -/
def State.wtbCounted (s : State) : State := { s with bus.wtbPeriod := s.bus.wtbPeriod + 1 }

/-- A node that is inserted sends its process data, as built, on both lines (R313). -/
theorem wtbPeriod_eq (hs : s.staged = []) (inserted : s.wtbIn = true) (sends : s.sendsData = true)
    (done : s.fld Reg.WTB_STAT_INAUG_DONE = 1) {v : State} {d : List Byte}
    (built : s.wtbCounted.buildData (s.wtbCounted.wtbFields (s.wtbCounted.cfg 0x0B 0x06 2) (s.wtbCounted.cfg 0x0B 0x08 2))
      (min 128 (s.wtbCounted.cfg 0x0B 0x04 2)) true false = (v, d)) :
    exec .wtbPeriod s = .next (((v.transmit linkWtbA ⟨BitVec.ofNat 8 (v.fld Reg.WTB_STAT_NODE).toNat :: d, true⟩).transmit linkWtbB
      ⟨BitVec.ofNat 8 (v.fld Reg.WTB_STAT_NODE).toNat :: d, true⟩).bump Reg.WTB_PDTXCNT) := by
  show Host.Outcome.next _ = _
  rw [applyStaged_nil hs, if_pos ⟨inserted, sends, done⟩]
  unfold State.wtbCounted at built
  dsimp only
  rw [built]

theorem transmit_both {v : State} {a b : Nat} (hA : v.fiActs a false = false) (hB : v.fiActs b false = false) (f : LinkFrame) :
    (v.transmit a f).transmit b f = (v.putOut a [f]).putOut b [f] := by
  rw [transmit_idle hA]
  exact transmit_idle (s := v.putOut a [f]) hB f

/-- The node sends its process data on both lines (R313). -/
theorem wtbPeriod_sends (hs : s.staged = []) (inserted : s.wtbIn = true) (sends : s.sendsData = true)
    (done : s.fld Reg.WTB_STAT_INAUG_DONE = 1) (hA : s.fiActs linkWtbA false = false) (hB : s.fiActs linkWtbB false = false)
    {v : State} {d : List Byte}
    (built : s.wtbCounted.buildData (s.wtbCounted.wtbFields (s.wtbCounted.cfg 0x0B 0x06 2) (s.wtbCounted.cfg 0x0B 0x08 2))
      (min 128 (s.wtbCounted.cfg 0x0B 0x04 2)) true false = (v, d)) :
    let f : LinkFrame := ⟨BitVec.ofNat 8 (s.fld Reg.WTB_STAT_NODE).toNat :: d, true⟩
    ∃ t, exec .wtbPeriod s = .next t ∧ t.out = v.out ++ [.frame linkWtbA f, .frame linkWtbB f] ∧
      t.fld Reg.WTB_PDTXCNT = satAdd (v.fld Reg.WTB_PDTXCNT) 1 ∧ t.bus.wtbPeriod = s.bus.wtbPeriod + 1 := by
  obtain ⟨got, kept⟩ := buildData_read s.wtbCounted
    (s.wtbCounted.wtbFields (s.wtbCounted.cfg 0x0B 0x06 2) (s.wtbCounted.cfg 0x0B 0x08 2)) (min 128 (s.wtbCounted.cfg 0x0B 0x04 2)) true false
  rw [built] at got kept
  have fldKept (k : Nat) (hk : readKey k = true) : v.fld k = s.fld k := kept k hk
  have node : v.fld Reg.WTB_STAT_NODE = s.fld Reg.WTB_STAT_NODE := fldKept _ (by decide)
  have actsA : v.fiActs linkWtbA false = false :=
    (fiActs_of_fld (fldKept _ (by decide)) (fldKept _ (by decide))).trans hA
  have actsB : v.fiActs linkWtbB false = false :=
    (fiActs_of_fld (fldKept _ (by decide)) (fldKept _ (by decide))).trans hB
  refine ⟨_, wtbPeriod_eq hs inserted sends done built, ?_, ?_, ?_⟩
  · rw [node, transmit_both actsA actsB]
    show (v.out ++ [_]) ++ [_] = _
    rw [List.append_assoc]
    rfl
  · rw [node, transmit_both actsA actsB, fld_bump_same]
    rfl
  · rw [node, transmit_both actsA actsB]
    show v.bus.wtbPeriod = _
    rw [got.bus]
    rfl

theorem wtbNodeFrame_lineA {f : LinkFrame} (inserted : s.wtbIn = true) (done : s.fld Reg.WTB_STAT_INAUG_DONE = 1)
    (hA : s.fiActs linkWtbA true = false) (ok : f.ok = true) :
    exec (.wtbNodeFrame (some f) none) s = .next ((s.bumpBy Reg.WTB_ERRACNT 0).wtbFrame f) := by
  show Host.Outcome.next _ = _
  rw [if_neg (by rw [inserted, done]; decide), rxLine_valid (valid := (·.ok)) hA ok]
  rfl

/-- The registers of the topography, which no sink's loss touches (R312, R314). -/
def wtbTopoKey (k : Nat) : Bool := keyPage k == 0x0B && decide (keyOff k < 0x0C) && (k != Reg.WTB_EVT_NODE_LOST)

theorem Keeps.wtbLose {s t : State} (h : Keeps wtbTopoKey s t) (a : Nat) : Keeps wtbTopoKey s (t.wtbLose a) := by
  have lost : wtbTopoKey (wtbLostKey a) = false := by
    unfold wtbLostKey
    split <;> decide
  refine ((h.setBit lost (a % 32)).flag (by decide) true).trans fun k hk => (acquire_acquired _ _ _).fld k ?_
  simp only [wtbTopoKey, Bool.and_eq_true, beq_iff_eq] at hk
  rw [asideKey, hk.1.1]
  rfl

theorem wtbLose_nodes (a : Nat) : (s.wtbLose a).bus = s.bus := (acquire_acquired _ _ _).bus

/-- What an inauguration does with the sink of one node address (R314). -/
def State.wtbSinkTopo (s : State) (t : WtbTopo) (a : Nat) : State :=
  if s.wtbSinkLen a = 0 ∨ a = t.own then s
  else if a ∉ t.nodes then (if s.wtbLost a then s else s.wtbLose a)
  else match sget s.bus.wtbAt a with
    | some _ => s
    | none => { s with bus.wtbAt := sput s.bus.wtbAt a s.bus.wtbPeriod }

theorem wtbSinkTopo_frame (t : WtbTopo) (a : Nat) : Keeps wtbTopoKey s (s.wtbSinkTopo t a) ∧
    (s.wtbSinkTopo t a).bus.wtbNodes = s.bus.wtbNodes := by
  unfold State.wtbSinkTopo
  split
  · exact ⟨.refl s, rfl⟩
  · split
    · split
      · exact ⟨.refl s, rfl⟩
      · exact ⟨(Keeps.refl s).wtbLose a, congrArg Bus.wtbNodes (wtbLose_nodes a)⟩
    · split
      · exact ⟨.refl s, rfl⟩
      · exact ⟨fun _ _ => rfl, rfl⟩

theorem wtbSinks_frame (t : WtbTopo) (l : List Nat) : Keeps wtbTopoKey s (l.foldl (fun s i => s.wtbSinkTopo t (i + 1)) s) ∧
    (l.foldl (fun s i => s.wtbSinkTopo t (i + 1)) s).bus.wtbNodes = s.bus.wtbNodes := by
  induction l generalizing s with
  | nil => exact ⟨.refl s, rfl⟩
  | cons i l ih =>
    obtain ⟨regs, nodes⟩ := wtbSinkTopo_frame (s := s) t (i + 1)
    obtain ⟨regs', nodes'⟩ := ih (s := s.wtbSinkTopo t (i + 1))
    exact ⟨regs.trans regs', nodes'.trans nodes⟩

/-- The topography as the registers show it (R312). -/
def State.wtbShown (s : State) (t : WtbTopo) : State :=
  let w := fun (n : Nat) => BitVec.ofNat 32 n
  let master := t.master && s.fld Reg.WTB_CTRL_MASTER_OK == 1 && (s.fld Reg.WTB_CTRL_STRONG == 1 || !t.strong)
  let s := (((s.flag Reg.WTB_STAT_INAUG_DONE true).flag Reg.WTB_STAT_MASTER master).setFld Reg.WTB_STAT_NODE
    (w (t.own % 64))).setFld Reg.WTB_STAT_NODES (w (t.nodes.length % 64))
  let s := (s.flag Reg.WTB_STAT_END_NODE t.endNode).setFld Reg.WTB_STAT_TOPO (w (t.topo % 64))
  let s := (s.flag Reg.WTB_EVT_INAUG true).bump Reg.WTB_INAUGCNT
  { s with bus.wtbNodes := t.nodes }

theorem wtbInauguration_eq {t : WtbTopo} (inserted : s.wtbIn = true) (h : t.nodes.length ≤ 32) : exec (.wtbInauguration t) s =
    .next (((List.range 63).foldl (fun s i => s.wtbSinkTopo t (i + 1)) (s.wtbShown t)).topoSignal 0x0B .status
      (BitVec.ofNat 32 (t.topo % 64))) := by
  show Host.Outcome.next _ = _
  rw [if_neg (by rw [inserted]; simp; omega)]
  rfl

theorem wtbShown_fields (t : WtbTopo) : (s.wtbShown t).fld Reg.WTB_STAT_INAUG_DONE = 1 ∧
    (s.wtbShown t).fld Reg.WTB_STAT_NODE = BitVec.ofNat 32 (t.own % 64) ∧
    (s.wtbShown t).fld Reg.WTB_STAT_NODES = BitVec.ofNat 32 (t.nodes.length % 64) ∧
    (s.wtbShown t).fld Reg.WTB_EVT_INAUG = 1 ∧ (s.wtbShown t).fld Reg.WTB_STAT_MASTER =
      b2w (t.master && s.fld Reg.WTB_CTRL_MASTER_OK == 1 && (s.fld Reg.WTB_CTRL_STRONG == 1 || !t.strong)) := by
  unfold State.wtbShown
  dsimp only
  refine ⟨?_, ?_, ?_, ?_, ?_⟩ <;> simp only [fld_with, fld_bump, fld_flag, fld_setFld] <;> rfl

theorem wtbInauguration_outcome {t : WtbTopo} (inserted : s.wtbIn = true) (h : t.nodes.length ≤ 32) (ho : t.own < 64) :
    ∃ u, exec (.wtbInauguration t) s = .next u ∧ u.fld Reg.WTB_STAT_INAUG_DONE = 1 ∧ (u.fld Reg.WTB_STAT_NODE).toNat = t.own ∧
      (u.fld Reg.WTB_STAT_NODES).toNat = t.nodes.length ∧ u.fld Reg.WTB_EVT_INAUG = 1 ∧ u.bus.wtbNodes = t.nodes ∧
      u.fld Reg.WTB_STAT_MASTER =
        b2w (t.master && s.fld Reg.WTB_CTRL_MASTER_OK == 1 && (s.fld Reg.WTB_CTRL_STRONG == 1 || !t.strong)) := by
  obtain ⟨regs, nodes⟩ := wtbSinks_frame (s := s.wtbShown t) t (List.range 63)
  obtain ⟨done, node, count, event, master⟩ := wtbShown_fields (s := s) t
  have step := wtbInauguration_eq inserted h
  generalize (List.range 63).foldl (fun s i => s.wtbSinkTopo t (i + 1)) (s.wtbShown t) = v at step regs nodes
  have got := topoSignal_acquired (s := v) 0x0B .status (BitVec.ofNat 32 (t.topo % 64))
  refine ⟨_, step, ?_, ?_, ?_, ?_, ?_, ?_⟩
  · rw [got.fld _ (by decide), regs _ (by decide), done]
  · rw [got.fld _ (by decide), regs _ (by decide), node, BitVec.toNat_ofNat]
    omega
  · rw [got.fld _ (by decide), regs _ (by decide), count, BitVec.toNat_ofNat]
    omega
  · rw [got.fld _ (by decide), regs _ (by decide), event]
  · rw [got.bus, nodes]
    rfl
  · rw [got.fld _ (by decide), regs _ (by decide), master]

/-- One of some indices acts, and it leaves nothing for the others. -/
theorem foldl_range_one {α : Type} {f : α → Nat → α} {a b : α} {n m : Nat} (hm : m < n) (before : ∀ i, i < m → f a i = a)
    (hf : f a m = b) (after : ∀ i, m < i → i < n → f b i = b) : (List.range n).foldl f a = b := by
  have still : ∀ (c : α) (l : List Nat), (∀ i ∈ l, f c i = c) → l.foldl f c = c := fun c l hl => by
    induction l with
    | nil => rfl
    | cons i l ih => rw [List.foldl_cons, hl i (List.mem_cons_self ..)]; exact ih fun j hj => hl j (List.mem_cons_of_mem _ hj)
  obtain ⟨k, rfl⟩ : ∃ k, n = m + 1 + k := ⟨n - (m + 1), by omega⟩
  rw [List.range_add, List.range_succ, List.foldl_append, List.foldl_append,
    still a _ fun i hi => before i (List.mem_range.mp hi), List.foldl_cons, List.foldl_nil, hf]
  refine still b _ fun i hi => ?_
  obtain ⟨j, hj, rfl⟩ := List.mem_map.mp hi
  exact after _ (by omega) (by have := List.mem_range.mp hj; omega)

theorem wtbSinkTimeout_one {a : Nat} (inserted : s.wtbIn = true) (done : s.fld Reg.WTB_STAT_INAUG_DONE = 1) (h1 : 1 ≤ a) (h63 : a ≤ 63)
    (len : s.wtbSinkLen a ≠ 0) (others : ∀ b, 1 ≤ b → b ≤ 63 → b ≠ a → s.wtbSinkLen b = 0) (node : a ∈ s.bus.wtbNodes)
    (lost : s.wtbLost a = false) (lim : s.cfg 0x0B (wtbSinkOff a + 2) 2 ≠ 0)
    (due : s.cfg 0x0B (wtbSinkOff a + 2) 2 ≤ s.bus.wtbPeriod - sgetD 0 s.bus.wtbAt a) :
    exec .wtbSinkTimeout s = .next ((s.bump Reg.WTB_TIMEOUTCNT).wtbLose a) := by
  obtain ⟨m, rfl⟩ : ∃ m, a = m + 1 := ⟨a - 1, by omega⟩
  have cmd : ((s.bump Reg.WTB_TIMEOUTCNT).wtbLose (m + 1)).cmd = s.cmd := (acquire_acquired _ _ _).cmd
  show Host.Outcome.next _ = _
  rw [if_neg (by rw [inserted, done]; decide)]
  have still (i : Nat) (hn : i + 1 ≤ 63) (hi : i + 1 ≠ m + 1) : ((s.bump Reg.WTB_TIMEOUTCNT).wtbLose (m + 1)).wtbSinkLen (i + 1) = 0 := by
    unfold State.wtbSinkLen State.cfg
    rw [cmd]
    exact others (i + 1) (by omega) hn hi
  exact congrArg Host.Outcome.next (foldl_range_one (m := m) (by omega)
    (fun i hi => if_neg fun c => c.1 (others (i + 1) (by omega) (by omega) (by omega)))
    (if_pos ⟨len, node, by rw [lost]; rfl, lim, due⟩)
    fun i hi hn => if_neg fun c => c.1 (still i (by omega) (by omega)))

end Wtb

/-! ### CAN -/

section Can
variable {s : State} {c : Nat}

theorem canBoundary_nil (h : s.staged = []) (c : Nat) : s.canBoundary c = s := by
  have rest : State.applyStaged { s with staged := [] } (canKey c) = s := by
    rw [applyStaged_nil rfl, ← h]
  unfold State.canBoundary
  rw [h]
  simp [rest]

theorem canErrors_counts (h1 : 1 ≤ c) (h8 : c ≤ 8) {tec rec' : Nat} {k : Nat} (hk : k < Reg.CAN_ECR_TEC c ∨ Reg.CAN_ECR_STATE c < k) :
    (s.canErrors c tec rec').fld k = s.fld k := by
  have away : k ≠ Reg.CAN_ECR_TEC c ∧ k ≠ Reg.CAN_ECR_REC c ∧ k ≠ Reg.CAN_ECR_STATE c := by
    unfold Reg.CAN_ECR_TEC Reg.CAN_ECR_STATE fk at hk
    unfold Reg.CAN_ECR_TEC Reg.CAN_ECR_REC Reg.CAN_ECR_STATE fk
    omega
  obtain ⟨tecK, recK, stateK⟩ := away
  unfold State.canErrors
  dsimp only
  split
  · rw [fld_setFld_other recK, fld_setFld_other tecK]
  · rw [fld_setFld_other stateK, fld_setFld_other recK, fld_setFld_other tecK]

theorem canErrors_rec (tec rec' : Nat) : (s.canErrors c tec rec').recCount c = min 255 rec' := by
  have states : Reg.CAN_ECR_REC c ≠ Reg.CAN_ECR_STATE c := by
    unfold Reg.CAN_ECR_REC Reg.CAN_ECR_STATE fk
    omega
  have shown : (s.canErrors c tec rec').fld (Reg.CAN_ECR_REC c) = BitVec.ofNat 32 (min 255 rec') := by
    unfold State.canErrors
    dsimp only
    split
    · exact fld_setFld_same ..
    · rw [fld_setFld_other states, fld_setFld_same]
  rw [State.recCount, shown, BitVec.toNat_ofNat]
  omega

theorem canErrors_tec (tec rec' : Nat) :
    (s.canErrors c tec rec').fld (Reg.CAN_ECR_TEC c) = BitVec.ofNat 32 (min 255 tec) := by
  have recs : Reg.CAN_ECR_TEC c ≠ Reg.CAN_ECR_REC c ∧ Reg.CAN_ECR_TEC c ≠ Reg.CAN_ECR_STATE c := by
    unfold Reg.CAN_ECR_TEC Reg.CAN_ECR_REC Reg.CAN_ECR_STATE fk
    omega
  unfold State.canErrors
  dsimp only
  split
  · rw [fld_setFld_other recs.1, fld_setFld_same]
  · rw [fld_setFld_other recs.2, fld_setFld_other recs.1, fld_setFld_same]

theorem canFrameReceive_idle (h1 : 1 ≤ c) (h8 : c ≤ 8) {f : CanFrame} {ok : Bool} (idle : s.fiActs (canLink c) true = false) :
    exec (.canFrameReceive c f ok) s = .next ((s.canIn c (f.link ok)).canBoundary c) :=
  congrArg Host.Outcome.next ((if_pos ⟨h1, h8⟩).trans (by rw [receive_idle idle]))

/-- A frame with an error is counted (R317). -/
theorem canIn_wrong (on : s.canOn c = true) (off : s.canOff c = false) (f : CanFrame) :
    s.canIn c (f.link false) = (s.bump (Reg.CAN_ERRCNT c)).canErrors c (s.tec c) (s.recCount c + 1) := by
  unfold State.canIn
  dsimp only
  rw [if_neg (by rw [on, off]; decide), if_pos (.inl rfl)]

theorem canIn_wrong_counts (h1 : 1 ≤ c) (h8 : c ≤ 8) (on : s.canOn c = true) (off : s.canOff c = false) (f : CanFrame) :
    (s.canIn c (f.link false)).fld (Reg.CAN_ERRCNT c) = satAdd (s.fld (Reg.CAN_ERRCNT c)) 1 ∧
      (s.canIn c (f.link false)).recCount c = min 255 (s.recCount c + 1) := by
  rw [canIn_wrong on off]
  refine ⟨?_, canErrors_rec ..⟩
  rw [canErrors_counts h1 h8 (.inr (by unfold Reg.CAN_ECR_STATE Reg.CAN_ERRCNT fk; omega)), fld_bump_same]

theorem canFrameSent_listening (h1 : 1 ≤ c) (h8 : c ≤ 8) {n : Option Nat} {f : AgentFrame}
    (sending : s.sending (canLink c) [8, 10] = some (n, f)) (listens : s.canListens c = true) :
    exec (.canFrameSent c) s = .next ((s.endSend (canLink c) n .notSent).canBoundary c) := by
  show Host.Outcome.next _ = _
  rw [sending]
  exact congrArg Host.Outcome.next (if_pos ⟨h1, h8, listens⟩)

theorem canFrameSent_sent (h1 : 1 ≤ c) (h8 : c ≤ 8) {n : Option Nat} {f : AgentFrame}
    (sending : s.sending (canLink c) [8, 10] = some (n, f)) (listens : s.canListens c = false) (off : s.canOff c = false)
    (idle : s.fiActs (canLink c) false = false) :
    exec (.canFrameSent c) s = .next (((((s.putOut (canLink c) [(canOf f.meta1 f.meta2 f.data).link true]).bump
      (Reg.CAN_TXCNT c)).canErrors c (s.tec c - 1) (s.recCount c)).endSend (canLink c) n .ok).canBoundary c) := by
  show Host.Outcome.next _ = _
  rw [sending]
  dsimp only
  rw [if_neg (by rw [listens]; simp), if_pos ⟨h1, h8, by rw [off]; rfl⟩, transmit_idle idle]
  rfl

theorem canOff_of_fld {t : State} (h : t.fld Reg.CAN_STAT_BUSOFF = s.fld Reg.CAN_STAT_BUSOFF) : t.canOff c = s.canOff c := by
  unfold State.canOff State.bit
  rw [h]

theorem canBusOff_shown (h1 : 1 ≤ c) (h8 : c ≤ 8) (sending : s.sending (canLink c) [8, 10] = none) (hs : s.staged = [])
    (on : s.canOn c = true) (off : s.canOff c = false) :
    exec (.canBusOff c) s = .next ((((s.setBit Reg.CAN_STAT_BUSOFF (c - 1)).bump (Reg.CAN_BUSOFFCNT c)).setFld
      (Reg.CAN_ECR_TEC c) 255).setFld (Reg.CAN_ECR_STATE c) 2) := by
  have none : (((((s.setBit Reg.CAN_STAT_BUSOFF (c - 1)).bump (Reg.CAN_BUSOFFCNT c)).setFld (Reg.CAN_ECR_TEC c) 255).setFld
      (Reg.CAN_ECR_STATE c) 2).sending (canLink c) [8, 10]) = none := sending
  show Host.Outcome.next _ = _
  rw [if_pos ⟨h1, h8, on, by rw [off]; rfl⟩]
  dsimp only
  rw [none]
  exact congrArg Host.Outcome.next (canBoundary_nil (by exact hs) c)

theorem canBusOff_outcome (h1 : 1 ≤ c) (h8 : c ≤ 8) (sending : s.sending (canLink c) [8, 10] = none) (hs : s.staged = [])
    (on : s.canOn c = true) (off : s.canOff c = false) :
    ∃ t, exec (.canBusOff c) s = .next t ∧ t.canOff c = true ∧
      t.fld (Reg.CAN_BUSOFFCNT c) = satAdd (s.fld (Reg.CAN_BUSOFFCNT c)) 1 ∧ t.fld (Reg.CAN_ECR_STATE c) = 2 ∧
      t.fld (Reg.CAN_ECR_TEC c) = 255 ∧ t.mem = s.mem := by
  have offKeys : Reg.CAN_STAT_BUSOFF ≠ Reg.CAN_ECR_STATE c ∧ Reg.CAN_STAT_BUSOFF ≠ Reg.CAN_ECR_TEC c ∧
      Reg.CAN_STAT_BUSOFF ≠ Reg.CAN_BUSOFFCNT c := by
    unfold Reg.CAN_STAT_BUSOFF Reg.CAN_ECR_STATE Reg.CAN_ECR_TEC Reg.CAN_BUSOFFCNT fk
    omega
  have cntKeys : Reg.CAN_BUSOFFCNT c ≠ Reg.CAN_ECR_STATE c ∧ Reg.CAN_BUSOFFCNT c ≠ Reg.CAN_ECR_TEC c := by
    unfold Reg.CAN_BUSOFFCNT Reg.CAN_ECR_STATE Reg.CAN_ECR_TEC fk
    omega
  have tecKey : Reg.CAN_ECR_TEC c ≠ Reg.CAN_ECR_STATE c := by
    unfold Reg.CAN_ECR_TEC Reg.CAN_ECR_STATE fk
    omega
  refine ⟨_, canBusOff_shown h1 h8 sending hs on off, ?_, ?_, fld_setFld_same .., ?_, rfl⟩
  · unfold State.canOff State.bit
    rw [fld_setFld_other offKeys.1, fld_setFld_other offKeys.2.1, fld_bump_other offKeys.2.2]
    exact bit_setBit_same s _ (by omega)
  · rw [fld_setFld_other cntKeys.1, fld_setFld_other cntKeys.2, fld_bump_same]
    exact congrArg (satAdd · 1) (fld_setFld_other offKeys.2.2.symm)
  · rw [fld_setFld_other tecKey, fld_setFld_same]

theorem canAutoRecover_outcome (h1 : 1 ≤ c) (h8 : c ≤ 8) (auto : s.fld (Reg.CAN_CFG_AUTO_RECOVER c) = 1) (off : s.canOff c = true) :
    ∃ t, exec (.canAutoRecover c) s = .next t ∧ t.canOff c = false ∧ t.fld (Reg.CAN_ECR_TEC c) = 0 ∧
      t.fld (Reg.CAN_ECR_REC c) = 0 ∧ t.mem = s.mem := by
  have rejoin : exec (.canAutoRecover c) s = .next ((s.clrBit Reg.CAN_STAT_BUSOFF (c - 1)).canErrors c 0 0) :=
    congrArg Host.Outcome.next ((if_pos ⟨h1, h8, auto⟩).trans (if_pos off))
  refine ⟨_, rejoin, ?_, canErrors_tec .., ?_, canErrors_mem ..⟩
  · rw [canOff_of_fld (canErrors_counts h1 h8 (.inl (by unfold Reg.CAN_STAT_BUSOFF Reg.CAN_ECR_TEC fk; omega)))]
    exact bit_clrBit_same s _ (by omega)
  · exact BitVec.eq_of_toNat_eq (canErrors_rec ..)

end Can

/-! ### The serial links -/

section Serial
variable {s : State} {c : Nat}

theorem serialFrameReceive_idle (h1 : 1 ≤ c) (h12 : c ≤ 12) {f : LinkFrame} (idle : s.fiActs (serLink c) true = false) :
    exec (.serialFrameReceive c f) s = .next ((s.serIn c f).applyStaged (serKey c)) :=
  congrArg Host.Outcome.next ((if_pos ⟨h1, h12⟩).trans (by rw [receive_idle idle]))

theorem serIn_wrong {f : LinkFrame} (on : s.serOn c = true) (hdlc : s.serHdlc c = true)
    (free : s.fld (Reg.SER_CFG_DUPLEX c) = 1 ∨ s.serBusy c = false) (wrong : (s.serData c f).2 = false) :
    s.serIn c f = s.bump (Reg.SER_ERRCNT c) := by
  have takes : ¬(!s.serOn c ∨ (s.fld (Reg.SER_CFG_DUPLEX c) = 0 ∧ s.serBusy c)) := by
    rcases free with h | h <;> simp [on, h]
  unfold State.serIn
  dsimp only
  rw [if_neg takes, if_pos ⟨hdlc, by rw [wrong]; rfl⟩]

theorem serialFrameSent_following (h1 : 1 ≤ c) (h12 : c ≤ 12) {n : Option Nat} {f : AgentFrame}
    (sending : s.sending (serLink c) [12, 14] = some (n, f)) (follows : s.follows = true) :
    exec (.serialFrameSent c) s = .next ((s.endSend (serLink c) n .notSent).applyStaged (serKey c)) := by
  show Host.Outcome.next _ = _
  rw [sending]
  exact congrArg Host.Outcome.next (if_pos ⟨h1, h12, follows⟩)

theorem serialFrameSent_sent (h1 : 1 ≤ c) (h12 : c ≤ 12) {n : Option Nat} {f : AgentFrame}
    (sending : s.sending (serLink c) [12, 14] = some (n, f)) (follows : s.follows = false)
    (idle : s.fiActs (serLink c) false = false) :
    exec (.serialFrameSent c) s = .next ((((s.putOut (serLink c) [⟨s.serWire c f.data, true⟩]).bump (Reg.SER_TXCNT c)).endSend
      (serLink c) n .ok).applyStaged (serKey c)) := by
  show Host.Outcome.next _ = _
  rw [sending]
  dsimp only
  rw [if_neg (by rw [follows]; simp), if_pos ⟨h1, h12⟩, transmit_idle idle]

end Serial

/-- Settles O51: each command of a bus, command by command; what another group's acquisition changes stands aside. -/
theorem fieldbuses : Obligations.Fieldbuses := by
  unfold Obligations.Fieldbuses
  refine ⟨?_, ?_, ?_, ?_, ?_, ?_, ?_, ?_, ?_⟩
  · intro s f slave first i hs hf hA hB ok len hi ha hc hj src on sends
    exact mvbMasterFrame_answered hs hf hA hB ok len hi ha hc hj src on sends
  · exact fun s acq h0 due rest => mvbSinkTimeout_first acq h0 due rest
  · exact fun s b h => mvbLineTimeout_fault h
  · exact fun s hs inserted sends done hA hB => wtbPeriod_sends hs inserted sends done hA hB rfl
  · exact fun s f inserted done hA ok => wtbNodeFrame_lineA inserted done hA ok
  · exact fun s t inserted h ho => wtbInauguration_outcome inserted h ho
  · exact fun s a inserted done h1 h63 len others node lost lim due =>
      wtbSinkTimeout_one inserted done h1 h63 len others node lost lim due
  · intro s c h1 h8
    refine ⟨fun f ok idle => ⟨canFrameReceive_idle h1 h8 idle, fun on off wrong => ?_⟩,
      fun n f sending listens => canFrameSent_listening h1 h8 sending listens,
      fun n f sending listens off idle => canFrameSent_sent h1 h8 sending listens off idle,
      fun sending hs on off => canBusOff_outcome h1 h8 sending hs on off,
      fun auto off => canAutoRecover_outcome h1 h8 auto off⟩
    subst wrong
    exact canIn_wrong_counts h1 h8 on off f
  · intro s c h1 h12
    exact ⟨fun f idle => ⟨serialFrameReceive_idle h1 h12 idle, fun on hdlc free wrong => serIn_wrong on hdlc free wrong⟩,
      fun n f sending follows => serialFrameSent_following h1 h12 sending follows,
      fun n f sending follows idle => serialFrameSent_sent h1 h12 sending follows idle⟩

end Sys2Proof.Machine

end

-- ==== Sys2Proof/Proofs/Records.lean ====

section
-- In order, not in parallel: each parallel thread reserves its whole stack of the check's memory.
set_option Elab.async false

/-! SUPPORT. Cairn: what it stores, and what a record streamed to a ring leaves alone. -/

namespace Sys2Proof.Machine

/-! ### The stored records stay -/

/-- The stored records of the two classes, with their numbers. -/
def State.logs (s : State) : CairnClass × CairnClass := (s.cairn.d, s.cairn.o)

/-- Other parts of the state. -/
@[simp] theorem logs_with (x : State) (a0 : List Instr) (a1 : Mode) (a2 a3 a4 : Sparse Word) (a5 : List WdWrite) (a6 : Nat)
    (a7 : Time) (a8 : Mem) (a9 : Images) (a10 : Ce) (a11 : Saddle) (a13 : Cmd) (a14 : Sup) (a15 : Rings) (a16 : Fi) (a17 : Net)
    (a18 : Bus) (a19 : Ridge) (a20 : Col) (a21 : FieldUnit) (a22 : SafetyUnit) (a23 : Pwr) (a24 : Trig) (a25 : List Emit)
    (i : Sparse (List Report)) (n : Sparse Nat) :
    State.logs ⟨a0, a1, a2, a3, a4, a5, a6, a7, a8, a9, a10, a11, { x.cairn with intake := i, dropped := n }, a13, a14, a15, a16,
      a17, a18, a19, a20, a21, a22, a23, a24, a25⟩ = x.logs := rfl

@[simp] theorem logs_with' (x : State) (a0 : List Instr) (a1 : Mode) (a2 a3 a4 : Sparse Word) (a5 : List WdWrite) (a6 : Nat)
    (a7 : Time) (a8 : Mem) (a9 : Images) (a10 : Ce) (a11 : Saddle) (a13 : Cmd) (a14 : Sup) (a15 : Rings) (a16 : Fi) (a17 : Net)
    (a18 : Bus) (a19 : Ridge) (a20 : Col) (a21 : FieldUnit) (a22 : SafetyUnit) (a23 : Pwr) (a24 : Trig) (a25 : List Emit) :
    State.logs ⟨a0, a1, a2, a3, a4, a5, a6, a7, a8, a9, a10, a11, x.cairn, a13, a14, a15, a16,
      a17, a18, a19, a20, a21, a22, a23, a24, a25⟩ = x.logs := rfl
@[simp] theorem dropRecord_logs (s : State) (k : RecClass) : (s.dropRecord k).logs = s.logs := by cases k <;> rfl
@[simp] theorem report_logs (s : State) (cls : RecClass) (sev : Severity) (code src : Nat) (p : List Byte) :
    (s.report cls sev code src p).logs = s.logs := by
  unfold State.report State.enqueue
  dsimp only
  split
  · rfl
  · exact dropRecord_logs ..
@[simp] theorem setFld_logs (s : State) (k : Nat) (v : Word) : (s.setFld k v).logs = s.logs := rfl
@[simp] theorem setBit_logs (s : State) (k i : Nat) : (s.setBit k i).logs = s.logs := rfl
@[simp] theorem bump_logs (s : State) (k : Nat) : (s.bump k).logs = s.logs := rfl
@[simp] theorem bumpBy_logs (s : State) (k n : Nat) : (s.bumpBy k n).logs = s.logs := rfl
@[simp] theorem flag_logs (s : State) (k : Nat) (b : Bool) : (s.flag k b).logs = s.logs := rfl

theorem foldl_logs {α : Type} {f : State → α → State} (h : ∀ s x, (f s x).logs = s.logs) (l : List α) (s : State) :
    (l.foldl f s).logs = s.logs := by
  induction l generalizing s with
  | nil => rfl
  | cons x l ih => rw [List.foldl_cons, ih, h]

@[simp] theorem applyStaged_logs (s : State) (p : Nat → Bool) : (s.applyStaged p).logs = s.logs := by
  unfold State.applyStaged
  exact foldl_logs (fun _ _ => setFld_logs ..) _ _
@[simp] theorem countCe_logs (s : State) (a : Arr) (w : Nat) : (s.countCe a w).logs = s.logs := by
  unfold State.countCe
  split <;> simp
@[simp] theorem countUe_logs (s : State) (a : Arr) (w : Nat) (c : Cls) (syn : Byte) (m : Master) : (s.countUe a w c
    syn m).logs = s.logs := by
  simp [State.countUe, apply_ite State.logs]
@[simp] theorem account_logs (s : State) (a : Arr) (w : Nat) (m : Master) : (s.account a w m).logs = s.logs := by
  unfold State.account
  dsimp only
  (repeat' split) <;> simp
@[simp] theorem cancelWb_logs (s : State) (a : Arr) (w : Nat) : (s.cancelWb a w).logs = s.logs := by
  simp [State.cancelWb, apply_ite State.logs]
@[simp] theorem setDirty_logs (s : State) (ps : List Nat) : (s.setDirty ps).logs = s.logs := rfl
@[simp] theorem dirtyPage_logs (s : State) (key : Nat) : (s.dirtyPage key).logs = s.logs := by
  unfold State.dirtyPage
  split <;> simp
@[simp] theorem dirtyWord_logs (s : State) (a : Arr) (w : Nat) : (s.dirtyWord a w).logs = s.logs := by
  unfold State.dirtyWord
  split <;> simp
@[simp] theorem putCode_logs (s : State) (a : Arr) (w : Nat) (c : Code) : (s.putCode a w c).logs = s.logs := by
  simp [State.putCode]
@[simp] theorem fullWrite_logs (s : State) (a : Arr) (w : Nat) (data : DWord) : (s.fullWrite a w data).logs = s.logs := by
  simp [State.fullWrite]
@[simp] theorem poison_logs (s : State) (a : Arr) (w : Nat) : (s.poison a w).logs = s.logs := by
  unfold State.poison
  split <;> simp
@[simp] theorem readWord_logs (s : State) (a : Arr) (w : Nat) (m : Master) : (s.readWord a w m).1.logs = s.logs := by
  unfold State.readWord
  dsimp only
  (repeat' split) <;> simp
@[simp] theorem partialWrite_logs (s : State) (a : Arr) (w : Nat) (data mask : DWord) (m : Master) : (s.partialWrite a
    w data mask m).1.logs = s.logs := by
  unfold State.partialWrite
  dsimp only
  (repeat' split) <;> simp
@[simp] theorem writeWord_logs (s : State) (a : Arr) (w : Nat) (data mask : DWord) (m : Master) : (s.writeWord a w
    data mask m).1.logs = s.logs := by
  unfold State.writeWord
  split <;> simp
@[simp] theorem readMany_logs : ∀ (s : State) (a : Arr) (m : Master) (a3 : List Nat), (s.readMany a m a3).1.logs =
    s.logs := by
  intro s a m ws
  induction ws generalizing s with
    | nil => rfl
    | cons w t ih => simp [State.readMany, ih]
@[simp] theorem ringHalt_logs (s : State) (n : Nat) (c : HaltCause) (addr : Nat) : (s.ringHalt n c addr).logs = s.logs := by
  simp [State.ringHalt]
@[simp] theorem readDesc_logs (s : State) (n : Nat) : (s.readDesc n).1.logs = s.logs := by
  unfold State.readDesc
  dsimp only
  (repeat' split) <;> simp
@[simp] theorem writeDesc_logs (s : State) (n : Nat) (d : Desc) (st : DescStatus) (time : Nat) : (s.writeDesc n d st
    time).logs = s.logs := by
  simp [State.writeDesc]
@[simp] theorem complete_logs (s : State) (n : Nat) (d : Desc) (st : DescStatus) (time : Nat) : (s.complete n d st
    time).logs = s.logs := by
  simp [State.complete, apply_ite State.logs]
@[simp] theorem setHold_logs (s : State) (n : Nat) (q : List Arrival) : (s.setHold n q).logs = s.logs := rfl
@[simp] theorem ringDrop_logs (s : State) (n k : Nat) : (s.ringDrop n k).logs = s.logs := by
  unfold State.ringDrop
  split <;> simp
@[simp] theorem holdFrame_logs (s : State) (n : Nat) (f : Arrival) : (s.holdFrame n f).logs = s.logs := by
  simp [State.holdFrame, apply_ite State.logs]
@[simp] theorem writeFrame_logs : ∀ (s : State) (d : Desc) (data : List Byte) (a3 : Nat), (s.writeFrame d data
    a3).1.logs = s.logs := by
  intro s d data k
  induction k with
    | zero => rfl
    | succ k ih => unfold State.writeFrame; dsimp only; (repeat' split) <;> simp [ih]
@[simp] theorem holdRest_logs (s : State) (n : Nat) (f : Arrival) : (s.holdRest n f).logs = s.logs := by
  simp [State.holdRest, apply_ite State.logs]
@[simp] theorem placeFrame_logs (s : State) (n : Nat) (x : Arrival) : (s.placeFrame n x).logs = s.logs := by
  unfold State.placeFrame
  dsimp only
  (repeat' split) <;> simp
@[simp] theorem pump_logs : ∀ (s : State) (n a2 : Nat), (s.pump n a2).logs = s.logs := by
  intro s n k
  induction k generalizing s with
    | zero => rfl
    | succ k ih => unfold State.pump; split <;> (try split) <;> simp [ih]
@[simp] theorem dropHold_logs (s : State) (n : Nat) : (s.dropHold n).logs = s.logs := by
  simp [State.dropHold]
@[simp] theorem dropHand_logs (s : State) (n : Nat) : (s.dropHand n).logs = s.logs := by
  unfold State.dropHand
  split <;> simp
@[simp] theorem ringRestart_logs (s : State) (n : Nat) : (s.ringRestart n).logs = s.logs := by
  simp [State.ringRestart]
@[simp] theorem ringIdle_logs (s : State) (n : Nat) : (s.ringIdle n).logs = s.logs := by
  simp [State.ringIdle, apply_ite State.logs]
@[simp] theorem ringGo_logs (s : State) (n : Nat) : (s.ringGo n).logs = s.logs := by
  simp [State.ringGo, apply_ite State.logs, foldl_logs]
@[simp] theorem arrive_logs (s : State) (n : Nat) (f : AgentFrame) (err chars : Bool) (time : Nat) : (s.arrive n f err
    chars time).logs = s.logs := by
  simp [State.arrive, apply_ite State.logs]
@[simp] theorem ringIn_logs (s : State) (n agent : Nat) (f : AgentFrame) : (s.ringIn n agent f).logs = s.logs := by
  unfold State.ringIn
  split <;> simp

/-! ### A class of records -/

section Classes
variable {s : State} {r : Report}

theorem cairnOf_logs {s t : State} (h : t.logs = s.logs) (k : RecClass) : t.cairnOf k = s.cairnOf k := by
  cases k
  · exact congrArg Prod.fst h
  · exact congrArg Prod.snd h

@[simp] theorem cairnOf_setCairn (s : State) (k : RecClass) (c : CairnClass) : (s.setCairn k c).cairnOf k = c := by
  cases k <;> rfl

theorem fld_setCairn_repcnt (s : State) (k : RecClass) (c : CairnClass) :
    (s.setCairn k c).fld Reg.LOG_REPCNT = s.fld Reg.LOG_REPCNT := by
  cases k <;> (unfold State.setCairn; dsimp only; rw [fld_flag_other (by decide), fld_setFld_other (by decide),
    fld_setFld_other (by decide), fld_with])

theorem streamRecord_logs (s : State) (x : Record) (closed : Bool) : (s.streamRecord x closed).logs = s.logs := by
  unfold State.streamRecord
  dsimp only
  split
  · exact (apply_ite State.logs ..).trans (by rw [ringIn_logs, ite_self])
  · rfl

theorem takeRecord_merged {o : Record} (ho : (s.cairnOf r.cls).openRec = some o) (hm : o.merges r = true) :
    s.takeRecord r = (s.setCairn r.cls { s.cairnOf r.cls with stored := (s.cairnOf r.cls).stored.dropLast ++ [o.again r] }).bump
      Reg.LOG_REPCNT := by
  unfold State.takeRecord
  dsimp only
  rw [ho]
  exact if_pos hm

theorem takeRecord_merged_outcome {o : Record} (ho : (s.cairnOf r.cls).openRec = some o) (hm : o.merges r = true) :
    ((s.takeRecord r).cairnOf r.cls).stored = (s.cairnOf r.cls).stored.dropLast ++ [o.again r] ∧
      ((s.takeRecord r).cairnOf r.cls).next = (s.cairnOf r.cls).next ∧
      (s.takeRecord r).fld Reg.LOG_REPCNT = satAdd (s.fld Reg.LOG_REPCNT) 1 ∧ (s.takeRecord r).mem = s.mem := by
  rw [takeRecord_merged ho hm, cairnOf_logs (bump_logs ..), cairnOf_setCairn, fld_bump_same, fld_setCairn_repcnt]
  exact ⟨rfl, rfl, rfl, setCairn_mem ..⟩

/-- A report that opens a record where there is room (R432, R434). -/
theorem takeRecord_new (ho : (s.cairnOf r.cls).openRec = none) (room : (s.cairnOf r.cls).stored.length < r.cls.capacity) :
    (s.takeRecord r).cairnOf r.cls = { s.cairnOf r.cls with
      next := (s.cairnOf r.cls).next + 1, isOpen := true
      stored := (s.cairnOf r.cls).stored ++ [⟨(s.cairnOf r.cls).next, r, 0, false, r.time, r.payload⟩] } := by
  have closed : s.closeOpen r.cls = s.setCairn r.cls { s.cairnOf r.cls with isOpen := false } := by
    unfold State.closeOpen
    dsimp only
    rw [ho]
  unfold State.takeRecord
  dsimp only
  rw [ho]
  dsimp only
  unfold State.newRecord
  rw [closed]
  dsimp only
  rw [cairnOf_setCairn, if_pos room, cairnOf_logs (streamRecord_logs ..), cairnOf_setCairn]

theorem cairnRecordIntake_first {sub : Nat} {rest : List Report}
    (h : s.cairn.intake.find? (fun e => !e.2.isEmpty) = some (sub, r :: rest)) :
    exec .cairnRecordIntake s = .next (State.takeRecord { s with cairn.intake := ssetD [] s.cairn.intake sub rest } r) := by
  show Host.Outcome.next (State.intakeOne s) = _
  unfold State.intakeOne
  rw [h]

end Classes

/-! ### Drops, refreshes and scans -/

section Partitions
variable {s : State}

theorem enqueue_room {r : Report} (h : (sgetD [] s.cairn.intake (r.source / 256)).length < 256) : s.enqueue r =
    { s with cairn.intake := ssetD [] s.cairn.intake (r.source / 256) (sgetD [] s.cairn.intake (r.source / 256) ++ [r]) } :=
  if_pos h

theorem logSourceDrop_one {sub n : Nat} (hd : s.cairn.dropped = [(sub, n)]) (room : (sgetD [] s.cairn.intake 14).length < 256) :
    ∃ t, exec .logSourceDrop s = .next t ∧ t.cairn.dropped = [] ∧ sgetD [] t.cairn.intake 14 = sgetD [] s.cairn.intake 14 ++
      [s.mkReport .d .warn 0x0E01 (srcNo 14 sub) (leBytes 4 n)] ∧ t.regs = s.regs ∧ t.mem = s.mem := by
  have queue : srcNo 14 sub / 256 = 14 := by
    unfold srcNo
    omega
  have step : exec .logSourceDrop s = .next (State.report { s with cairn.dropped := [] } .d .warn 0x0E01 (srcNo 14 sub)
      (leBytes 4 n)) := by
    show Host.Outcome.next _ = _
    rw [hd]
    rfl
  have taken : State.report { s with cairn.dropped := [] } .d .warn 0x0E01 (srcNo 14 sub) (leBytes 4 n) = { s with
      cairn.dropped := []
      cairn.intake := ssetD [] s.cairn.intake 14 (sgetD [] s.cairn.intake 14 ++
        [s.mkReport .d .warn 0x0E01 (srcNo 14 sub) (leBytes 4 n)]) } := by
    unfold State.report
    rw [enqueue_room (by show (sgetD [] s.cairn.intake (srcNo 14 sub / 256)).length < 256; rw [queue]; exact room)]
    show ({ s with cairn.dropped := [], cairn.intake := ssetD [] s.cairn.intake (srcNo 14 sub / 256) (sgetD [] s.cairn.intake
      (srcNo 14 sub / 256) ++ [s.mkReport .d .warn 0x0E01 (srcNo 14 sub) (leBytes 4 n)]) } : State) = _
    rw [queue]
  refine ⟨_, step.trans (congrArg Host.Outcome.next taken), rfl, ?_, rfl, rfl⟩
  exact (sgetD_ssetD ..).trans (if_pos rfl)

/-- A partition has been refreshed (R440, R441). -/
def State.refreshDone (s : State) (part : Nat) : State :=
  let s := s.setFld Reg.LOG_STAT_REFRESH_PART (BitVec.ofNat 32 part)
  let c := { s.cairn with refreshed := sput s.cairn.refreshed part s.opSec, lastRefresh := s.opSec,
                          dueNow := s.cairn.dueNow.filter (· != part),
                          refreshedUtc := if s.time.utcValid then sput s.cairn.refreshedUtc part s.time.utc else s.cairn.refreshedUtc }
  ((State.countErase (State.countErase { s with cairn := c } part) 6).bump Reg.LOG_REFRESHCNT).flag Reg.LOG_EVT_REFRESH_DONE true

/-- The refresh of a partition has failed (R441). -/
def State.refreshFailed (s : State) (part : Nat) : State :=
  ((s.setFld Reg.LOG_STAT_REFRESH_PART (BitVec.ofNat 32 part)).flag Reg.LOG_EVT_REFRESH_ERR true).report .o .fault
    (evCode 14 441 0) (srcNo 14 part) [BitVec.ofNat 8 part]

theorem flashRefresh_eq {part : Nat} (able : s.refreshable part = true) (due : s.refreshDue part = true) (ok : Bool) :
    exec (.flashRefresh part ok) s = .next (if ok then s.refreshDone part else s.refreshFailed part) :=
  congrArg Host.Outcome.next (if_neg (by rw [able, due]; decide))

theorem refreshDone_count (part : Nat) :
    (s.refreshDone part).fld Reg.LOG_REFRESHCNT = satAdd (s.fld Reg.LOG_REFRESHCNT) 1 := by
  unfold State.refreshDone
  dsimp only
  rw [fld_flag_other (by decide), fld_bump_same]
  exact congrArg (satAdd · 1) (fld_setFld_other (by decide))

theorem refreshDone_second (part : Nat) : sget (s.refreshDone part).cairn.refreshed part = some s.opSec := by
  have now : (s.setFld Reg.LOG_STAT_REFRESH_PART (BitVec.ofNat 32 part)).opSec = s.opSec :=
    congrArg BitVec.toNat (fld_setFld_other (by decide))
  show sget (sput s.cairn.refreshed part (s.setFld Reg.LOG_STAT_REFRESH_PART (BitVec.ofNat 32 part)).opSec) part = _
  rw [now]
  exact (sget_sput ..).trans (if_pos rfl)

theorem refreshDone_notDue (part : Nat) : part ∉ (s.refreshDone part).cairn.dueNow := by
  show part ∉ s.cairn.dueNow.filter (· != part)
  simp

/-- A report may drop a record; the event of a failed refresh stays. -/
theorem fld_report_refreshErr (cls : RecClass) (sev : Severity) (code inst : Nat) (p : List Byte) :
    (s.report cls sev code (srcNo 14 inst) p).fld Reg.LOG_EVT_REFRESH_ERR = s.fld Reg.LOG_EVT_REFRESH_ERR := by
  have queue : srcNo 14 inst / 256 = 14 := by
    unfold srcNo
    omega
  unfold State.report State.enqueue
  dsimp only
  rw [show (s.mkReport cls sev code (srcNo 14 inst) p).source = srcNo 14 inst from rfl, queue]
  split
  · rfl
  · rw [fld_with, fld_flag_other (by decide), fld_bump_other (by decide)]
    cases cls <;> exact (fld_flag_other (by decide)).trans (fld_bump_other (by decide))

theorem refreshFailed_event (part : Nat) : (s.refreshFailed part).fld Reg.LOG_EVT_REFRESH_ERR = 1 :=
  (fld_report_refreshErr ..).trans (fld_flag_same ..)

theorem report_refreshed (cls : RecClass) (sev : Severity) (code src : Nat) (p : List Byte) :
    (s.report cls sev code src p).cairn.refreshed = s.cairn.refreshed := by
  unfold State.report State.enqueue
  dsimp only
  split
  · rfl
  · cases cls <;> rfl

theorem flashRetentionScan_near (part bits : Nat) : ∃ t, exec (.flashRetentionScan part bits true) s = .next t ∧
    sgetD 0 t.cairn.corrected part = bits ∧ part ∈ t.cairn.dueNow ∧ t.regs = s.regs ∧ t.mem = s.mem := by
  have noted : sgetD 0 (ssetD 0 s.cairn.corrected part bits) part = bits := (sgetD_ssetD ..).trans (if_pos rfl)
  by_cases due : s.cairn.dueNow.contains part = true
  · refine ⟨_, congrArg Host.Outcome.next (if_neg fun c => ?_), noted, List.contains_iff_mem.mp due, rfl, rfl⟩
    have h : (!s.cairn.dueNow.contains part) = true := c.2
    rw [due] at h
    exact absurd h (by decide)
  · refine ⟨_, congrArg Host.Outcome.next (if_pos ⟨rfl, ?_⟩), noted, List.mem_append_right _ (List.mem_singleton_self part), rfl, rfl⟩
    show (!s.cairn.dueNow.contains part) = true
    rw [Bool.not_eq_true] at due
    rw [due]
    rfl

end Partitions

/-- Settles O57: a report merges or is stored, whatever the ring does that streams it. -/
theorem cairnRecords : Obligations.CairnRecords := by
  unfold Obligations.CairnRecords
  refine ⟨fun s sub r rest h => cairnRecordIntake_first h, fun s r o ho hm => takeRecord_merged_outcome ho hm, ?_, ?_,
    fun s sub n hd room => logSourceDrop_one hd room, ?_, fun s part bits => flashRetentionScan_near part bits⟩
  · intro s r ho room
    dsimp only
    rw [takeRecord_new ho room]
    exact ⟨rfl, rfl, rfl⟩
  · intro o r h
    refine ⟨Nat.min_eq_right h, rfl, rfl, rfl, ?_⟩
    show (o.sat || decide (0xFFFF ≤ o.rep)) = o.sat
    rw [decide_eq_false (by omega), Bool.or_false]
  · intro s part able due
    exact ⟨⟨_, flashRefresh_eq able due true, fld_flag_same .., refreshDone_count part, refreshDone_second part,
        refreshDone_notDue part, rfl, rfl⟩,
      ⟨_, flashRefresh_eq able due false, refreshFailed_event part, report_refreshed .., report_mem .., report_mode ..⟩⟩

end Sys2Proof.Machine

end

-- ==== Sys2Proof/Proofs/Injector.lean ====

section
-- In order, not in parallel: each parallel thread reserves its whole stack of the check's memory.
set_option Elab.async false

/-! SUPPORT. The Link Fault Injector. -/

namespace Sys2Proof.Machine

/-! ### A frame that passes an injection -/

section Passing
variable {s : State} {l : Nat} {rx : Bool} {f : LinkFrame}

theorem fiPass_idle (h : s.fiActs l rx = false) : s.fiPass l rx f = (s, [f]) := if_pos (by rw [h]; rfl)

/-- EVERY_N selects every N-th frame (R476). -/
theorem fiSelect_everyN (h : s.fld (Reg.FI_CFG_SELECT l) = 0) :
    (s.fiSelect l).2 = decide ((sgetD 0 s.fi.seen l + 1) % (s.fld (Reg.FI_NPAR l)).toNat = 0) := if_pos h

section Kinds
variable (acts : s.fiActs l rx = true)
include acts

theorem fiPass_drop (kind : s.fld (Reg.FI_CFG_KIND l) = 1) : s.fiPass l rx f =
    if (s.fiSelect l).2 then ((s.fiSelect l).1.fiInjected l, []) else ((s.fiSelect l).1, [f]) := by
  have one : ((s.fiSelect l).1.fld (Reg.FI_CFG_KIND l)).toNat = 1 := congrArg BitVec.toNat kind
  unfold State.fiPass
  dsimp only
  rw [if_neg (by rw [acts]; decide), one]
  rfl

theorem fiPass_corrupt (kind : s.fld (Reg.FI_CFG_KIND l) = 2) (hit : (s.fiSelect l).2 = true) : s.fiPass l rx f =
    ((s.corruptFrame l f (s.fld (Reg.FI_APAR l)).toNat (s.linkChecked l)).elim ((s.fiSelect l).1, [f])
      fun g => ((s.fiSelect l).1.fiInjected l, [g])) := by
  have two : ((s.fiSelect l).1.fld (Reg.FI_CFG_KIND l)).toNat = 2 := congrArg BitVec.toNat kind
  have same : (s.fiSelect l).1.corruptFrame l f ((s.fiSelect l).1.fld (Reg.FI_APAR l)).toNat ((s.fiSelect l).1.linkChecked l) =
      s.corruptFrame l f (s.fld (Reg.FI_APAR l)).toNat (s.linkChecked l) := rfl
  unfold State.fiPass
  dsimp only
  rw [if_neg (by rw [acts]; decide), two, same, hit]
  cases s.corruptFrame l f (s.fld (Reg.FI_APAR l)).toNat (s.linkChecked l) <;> rfl

theorem fiPass_delay (kind : s.fld (Reg.FI_CFG_KIND l) = 4) : s.fiPass l rx f =
    (s.fiSelect l).1.fiDelay l (bitsAt (s.fld (Reg.FI_APAR l)).toNat 0 17) rx (s.fiSelect l).2 f := by
  have four : ((s.fiSelect l).1.fld (Reg.FI_CFG_KIND l)).toNat = 4 := congrArg BitVec.toNat kind
  unfold State.fiPass
  dsimp only
  rw [if_neg (by rw [acts]; decide), four]
  rfl

end Kinds

/-! What the steps of an injection do to the frames it has seen and holds. -/

theorem fiInjected_fi (s : State) (l : Nat) : (s.fiInjected l).fi = s.fi := report_fi ..

theorem setHeld_seen (s : State) (l : Nat) (q : List Held) : (s.setHeld l q).fi.seen = s.fi.seen := rfl

theorem setHeld_held (s : State) (l : Nat) (q : List Held) : sgetD [] (s.setHeld l q).fi.held l = q :=
  (sgetD_ssetD ..).trans (if_pos rfl)

theorem fiLost_fi (s : State) (n : Nat) : (s.fiLost n).fi = s.fi := by
  unfold State.fiLost
  split <;> rfl

theorem fiMarked_fi (s : State) (l : Nat) (sel : Bool) : (if sel = true then s.fiInjected l else s).fi = s.fi := by
  cases sel
  · rfl
  · exact fiInjected_fi ..

theorem fiReorder_seen (s : State) (m : Nat) (sel : Bool) : (s.fiReorder l m rx sel f).1.fi.seen = s.fi.seen := by
  have marked := fiMarked_fi s l sel
  unfold State.fiReorder
  dsimp only
  generalize (if sel = true then s.fiInjected l else s) = u at marked ⊢
  rw [← marked]
  split
  · split <;> rfl
  · split
    · rfl
    · split <;> rfl

theorem fiDelay_seen (s : State) (d : Nat) (sel : Bool) : (s.fiDelay l d rx sel f).1.fi.seen = s.fi.seen := by
  have marked := fiMarked_fi s l sel
  unfold State.fiDelay
  dsimp only
  generalize (if sel = true then s.fiInjected l else s) = u at marked ⊢
  rw [← marked]
  split
  · split
    · exact congrArg Fi.seen (fiLost_fi ..)
    · rfl
  · rfl

theorem fiPass_seen (acts : s.fiActs l rx = true) : sgetD 0 (s.fiPass l rx f).1.fi.seen l = sgetD 0 s.fi.seen l + 1 := by
  have seen : sgetD 0 (s.fiSelect l).1.fi.seen l = sgetD 0 s.fi.seen l + 1 := by
    show sgetD 0 (ssetD 0 s.fi.seen l (sgetD 0 s.fi.seen l + 1)) l = _
    rw [sgetD_ssetD, if_pos rfl]
  rw [← seen]
  unfold State.fiPass
  rw [if_neg (by rw [acts]; decide)]
  dsimp only
  generalize (s.fiSelect l).1 = q
  generalize (s.fiSelect l).2 = sel
  split
  · split
    · rw [fiInjected_fi]
    · rfl
  · split
    · split
      · rw [fiInjected_fi]
      · rfl
    · rfl
  · rw [fiReorder_seen]
  · rw [fiDelay_seen]
  · rfl

/-- An injection that passes a frame moves nothing of the memory or the mode. -/
theorem fiPass_still (l : Nat) (rx : Bool) (f : LinkFrame) :
    (s.fiPass l rx f).1.mem = s.mem ∧ (s.fiPass l rx f).1.mode = s.mode :=
  have sent := (Sent.refl s).fiPass l rx f
  ⟨sent.mem, sent.mode⟩

theorem fiInjected_count (h : l < 48) : (s.fiInjected l).fld (Reg.FI_INJCNT l) = satAdd (s.fld (Reg.FI_INJCNT l)) 1 := by
  have notLog : logKey (Reg.FI_INJCNT l) = false := by
    unfold logKey keyPage Reg.FI_INJCNT fk
    rw [beq_eq_false_iff_ne]
    omega
  exact (fld_report _ _ _ _ _ _ _ (by decide) notLog).trans (fld_bump_same ..)

theorem fiDelay_room {d : Nat} (room : (sgetD [] s.fi.held l).length < 16) : s.fiDelay l d rx true f =
    ((s.fiInjected l).setHeld l (sgetD [] s.fi.held l ++ [⟨rx, f, d, true⟩]), []) := by
  have held : sgetD [] (s.fiInjected l).fi.held l = sgetD [] s.fi.held l := by rw [fiInjected_fi]
  unfold State.fiDelay
  dsimp only
  rw [if_pos rfl, held, if_pos (.inl rfl), if_neg (by omega)]
  rfl

theorem fiDelay_full {d : Nat} (full : (sgetD [] s.fi.held l).length = 16) : s.fiDelay l d rx true f =
    ((s.fiInjected l).fiLost 1, []) := by
  have held : sgetD [] (s.fiInjected l).fi.held l = sgetD [] s.fi.held l := by rw [fiInjected_fi]
  unfold State.fiDelay
  dsimp only
  rw [if_pos rfl, held, if_pos (.inl rfl), if_pos (by omega)]

theorem fiLost_counted (h : l < 48) : ((s.fiInjected l).fiLost 1).fld Reg.FI_EVT_HELD_LOST = 1 ∧
    ((s.fiInjected l).fiLost 1).fld Reg.FI_HELDLOSTCNT = satAdd (s.fld Reg.FI_HELDLOSTCNT) 1 := by
  have count : Reg.FI_HELDLOSTCNT ≠ Reg.FI_INJCNT l := by
    unfold Reg.FI_HELDLOSTCNT Reg.FI_INJCNT fk
    omega
  refine ⟨fld_flag_same .., ?_⟩
  show (((s.fiInjected l).bumpBy Reg.FI_HELDLOSTCNT 1).flag Reg.FI_EVT_HELD_LOST true).fld _ = _
  rw [fld_flag_other (by decide), fld_bumpBy_same]
  refine congrArg (satAdd · 1) ?_
  exact (fld_report _ _ _ _ _ _ _ (by decide) (by decide)).trans (fld_bump_other count)

/-- What CORRUPT makes of a frame (R477). -/
theorem corruptFrame_short {apar : Nat} {checked : Bool} (h : f.bytes.length ≤ bitsAt apar 0 12) :
    s.corruptFrame l f apar checked = none := if_pos h

theorem corruptFrame_checked {apar : Nat} (h : bitsAt apar 0 12 < f.bytes.length) : s.corruptFrame l f apar true =
    (let bs := f.bytes.set (bitsAt apar 0 12) (f.bytes.getD (bitsAt apar 0 12) 0 ^^^ BitVec.ofNat 8 (2 ^ bitsAt apar 12 3))
     some ⟨if (bitAt apar 15 == 1) = true then s.recheck l bs else bs, bitAt apar 15 == 1⟩) := by
  unfold State.corruptFrame
  dsimp only
  rw [if_neg (by omega)]
  simp

end Passing

/-! ### The end of an injection -/

section Ending
variable {s : State} {l : Nat}

/-- The registers of an injection that a removal clears, and what it puts out (R474, R475). -/
theorem fiRelease_out (s : State) (l : Nat) (hs : List Held) : (s.fiRelease l hs).out =
    s.out ++ (((hs.filter (fun h => !h.rx)).map (·.frame))).map (fun f => Emit.frame l f) := rfl

theorem fiArmBit_fi (s : State) (l : Nat) (b : Bool) : (s.fiArmBit l b).fi = s.fi := by
  unfold State.fiArmBit State.putBit
  cases b <;> (split <;> rfl)

theorem fiArmBit_parts (s : State) (l : Nat) (b : Bool) :
    (s.fiArmBit l b).mem = s.mem ∧ (s.fiArmBit l b).mode = s.mode ∧ (s.fiArmBit l b).out = s.out := by
  unfold State.fiArmBit State.putBit
  cases b <;> (split <;> exact ⟨rfl, rfl, rfl⟩)

theorem fld_fiArmBit (s : State) (l : Nat) (b : Bool) {k : Nat} (hk : fk 0x19 0x100 0 ≤ k) : (s.fiArmBit l b).fld k = s.fld k := by
  have keys : k ≠ Reg.FI_ARMLO_ARMED ∧ k ≠ Reg.FI_ARMHI_ARMED ∧ k ≠ Reg.FI_STAT_ANY_ARMED := by
    unfold fk at hk
    unfold Reg.FI_ARMLO_ARMED Reg.FI_ARMHI_ARMED Reg.FI_STAT_ANY_ARMED fk
    omega
  obtain ⟨lo, hi, any⟩ := keys
  unfold State.fiArmBit State.fiAny
  rw [fld_flag_other any]
  split
  · exact fld_putBit_other lo
  · exact fld_putBit_other hi

theorem fi_key_ne {k : Nat} (hk : fk 0x19 0x100 0 ≤ k) {i : Nat} (hi : i < fk 0x19 0x100 0) : k ≠ i := by omega

/-- An injection taken out of its link: what it holds is out or waits, and its registers are cleared (R474). -/
def State.fiCleared (s : State) (l : Nat) : State :=
  ((((s.setHeld l []).fiRelease l (sgetD [] s.fi.held l)).flag (Reg.FI_CFG_ARMED l) false).fiConfig l 0 0 0 0 0)

theorem fiRemove_armed (armed : s.fiArmed l = true) (c : Nat) : s.fiRemove l c = State.report
    { (s.fiCleared l).fiArmBit l false with
      fi.lfsr := serase ((s.fiCleared l).fiArmBit l false).fi.lfsr l
      fi.seen := serase ((s.fiCleared l).fiArmBit l false).fi.seen l }
    .o .info 0x1002 (srcNo 0x10 l) [BitVec.ofNat 8 c] := if_neg (by rw [armed]; decide)

theorem fld_fiConfig_zero (l : Nat) : (s.fiConfig l 0 0 0 0 0).fld (Reg.FI_CFG_KIND l) = 0 ∧
    (s.fiConfig l 0 0 0 0 0).fld (Reg.FI_CFG_ARMED l) = s.fld (Reg.FI_CFG_ARMED l) := by
  have kind : Reg.FI_CFG_KIND l ≠ Reg.FI_APAR l ∧ Reg.FI_CFG_KIND l ≠ Reg.FI_NPAR l ∧ Reg.FI_CFG_KIND l ≠ Reg.FI_CFG_SELECT l ∧
      Reg.FI_CFG_KIND l ≠ Reg.FI_CFG_DIR l := by
    unfold Reg.FI_CFG_KIND Reg.FI_APAR Reg.FI_NPAR Reg.FI_CFG_SELECT Reg.FI_CFG_DIR fk
    omega
  have armed : Reg.FI_CFG_ARMED l ≠ Reg.FI_APAR l ∧ Reg.FI_CFG_ARMED l ≠ Reg.FI_NPAR l ∧
      Reg.FI_CFG_ARMED l ≠ Reg.FI_CFG_SELECT l ∧ Reg.FI_CFG_ARMED l ≠ Reg.FI_CFG_DIR l ∧ Reg.FI_CFG_ARMED l ≠ Reg.FI_CFG_KIND l := by
    unfold Reg.FI_CFG_ARMED Reg.FI_CFG_KIND Reg.FI_APAR Reg.FI_NPAR Reg.FI_CFG_SELECT Reg.FI_CFG_DIR fk
    omega
  obtain ⟨k1, k2, k3, k4⟩ := kind
  obtain ⟨a1, a2, a3, a4, a5⟩ := armed
  unfold State.fiConfig
  dsimp only
  refine ⟨?_, ?_⟩
  · rw [fld_setFld_other k1, fld_setFld_other k2, fld_setFld_other k3, fld_setFld_other k4, fld_setFld_same]
    rfl
  · rw [fld_setFld_other a1, fld_setFld_other a2, fld_setFld_other a3, fld_setFld_other a4, fld_setFld_other a5]

/-- A register of an injection survives the notes of its removal. -/
theorem fld_fiRemove (armed : s.fiArmed l = true) (c : Nat) {k : Nat} (hk : fk 0x19 0x100 0 ≤ k) :
    (s.fiRemove l c).fld k = (s.fiCleared l).fld k := by
  have notLog : logKey k = false := by
    unfold logKey keyPage
    unfold fk at hk
    rw [beq_eq_false_iff_ne]
    omega
  rw [fiRemove_armed armed]
  exact (fld_report _ _ _ _ _ _ _ (by decide) notLog).trans (fld_fiArmBit _ _ _ hk)

theorem fiRemove_fields (armed : s.fiArmed l = true) (c : Nat) :
    (s.fiRemove l c).fiArmed l = false ∧ (s.fiRemove l c).fld (Reg.FI_CFG_KIND l) = 0 := by
  have low (o b : Nat) : fk 0x19 0x100 0 ≤ fk 0x19 (0x100 + o) b := by
    unfold fk
    omega
  obtain ⟨kind, arm⟩ := fld_fiConfig_zero (s := ((s.setHeld l []).fiRelease l (sgetD [] s.fi.held l)).flag (Reg.FI_CFG_ARMED l) false) l
  refine ⟨?_, ?_⟩
  · unfold State.fiArmed
    rw [fld_fiRemove armed c (k := Reg.FI_CFG_ARMED l) (low _ _)]
    unfold State.fiCleared
    rw [arm, fld_flag_same]
    rfl
  · rw [fld_fiRemove armed c (k := Reg.FI_CFG_KIND l) (low _ _)]
    exact kind

theorem fiConfig_parts (l : Nat) : (s.fiConfig l 0 0 0 0 0).fi = s.fi ∧ (s.fiConfig l 0 0 0 0 0).mem = s.mem ∧
    (s.fiConfig l 0 0 0 0 0).mode = s.mode ∧ (s.fiConfig l 0 0 0 0 0).out = s.out := ⟨rfl, rfl, rfl, rfl⟩

theorem fiRelease_parts (l : Nat) (hs : List Held) : (s.fiRelease l hs).fi.held = s.fi.held ∧ (s.fiRelease l hs).mem = s.mem ∧
    (s.fiRelease l hs).mode = s.mode := ⟨rfl, rfl, rfl⟩

theorem setHeld_parts (q : List Held) : (s.setHeld l q).mem = s.mem ∧ (s.setHeld l q).mode = s.mode ∧ (s.setHeld l q).out = s.out :=
  ⟨rfl, rfl, rfl⟩

theorem fiCleared_parts (l : Nat) : sgetD [] (s.fiCleared l).fi.held l = [] ∧ (s.fiCleared l).mem = s.mem ∧
    (s.fiCleared l).mode = s.mode ∧ (s.fiCleared l).out =
      s.out ++ (((sgetD [] s.fi.held l).filter (fun h => !h.rx)).map (·.frame)).map (fun f => Emit.frame l f) := by
  obtain ⟨fi, mem, mode, out⟩ :=
    fiConfig_parts (s := ((s.setHeld l []).fiRelease l (sgetD [] s.fi.held l)).flag (Reg.FI_CFG_ARMED l) false) l
  obtain ⟨held', mem', mode'⟩ := fiRelease_parts (s := s.setHeld l []) l (sgetD [] s.fi.held l)
  obtain ⟨mem'', mode'', out''⟩ := setHeld_parts (s := s) (l := l) []
  unfold State.fiCleared
  rw [fi, mem, mode, out]
  refine ⟨?_, mem'.trans mem'', mode'.trans mode'', ?_⟩
  · show sgetD [] ((s.setHeld l []).fiRelease l (sgetD [] s.fi.held l)).fi.held l = []
    rw [held']
    exact setHeld_held ..
  · exact (fiRelease_out ..).trans (by rw [out''])

theorem fiRemove_parts (armed : s.fiArmed l = true) (c : Nat) : sgetD [] (s.fiRemove l c).fi.held l = [] ∧
    (s.fiRemove l c).mem = s.mem ∧ (s.fiRemove l c).mode = s.mode ∧ (s.fiRemove l c).out =
      s.out ++ (((sgetD [] s.fi.held l).filter (fun h => !h.rx)).map (·.frame)).map (fun f => Emit.frame l f) := by
  obtain ⟨held, mem, mode, out⟩ := fiCleared_parts (s := s) l
  rw [fiRemove_armed armed, report_fi, report_mem, report_mode, report_out]
  generalize s.fiCleared l = u at *
  obtain ⟨mem', mode', out'⟩ := fiArmBit_parts u l false
  refine ⟨?_, mem'.trans mem, mode'.trans mode, out'.trans out⟩
  show sgetD [] (u.fiArmBit l false).fi.held l = []
  rw [fiArmBit_fi]
  exact held

theorem fiExpire_one {h : Held} (held : sgetD [] s.fi.held l = [h]) : s.fiExpire l = (s.setHeld l []).fiRelease l [h] := by
  unfold State.fiExpire
  rw [held]
  rfl

theorem fiDelayExpiry_sent {l : Fin 48} {h : Held} (kind : s.fld (Reg.FI_CFG_KIND l.val) = 4)
    (held : sgetD [] s.fi.held l.val = [h]) (tx : h.rx = false) (none : s.fi.released = []) :
    ∃ t, exec (.fiDelayExpiry l) s = .next t ∧ sgetD [] t.fi.held l.val = [] ∧
      t.out = s.out ++ [.frame l.val h.frame] ∧ t.mem = s.mem ∧ t.mode = s.mode := by
  have step : exec (.fiDelayExpiry l) s = .next (((s.setHeld l.val []).fiRelease l.val [h]).deliverReleased) :=
    congrArg Host.Outcome.next ((if_pos kind).trans (by rw [fiExpire_one held]))
  have waits : ((s.setHeld l.val []).fiRelease l.val [h]).fi.released = [] := by
    show s.fi.released ++ ([h].filter (·.rx)).map (fun h => (l.val, h.frame)) = []
    rw [none, List.filter_cons_of_neg (by rw [tx]; decide)]
    rfl
  have delivered : ((s.setHeld l.val []).fiRelease l.val [h]).deliverReleased =
      { (s.setHeld l.val []).fiRelease l.val [h] with fi.released := [] } := by
    unfold State.deliverReleased
    rw [waits]
    rfl
  rw [step, delivered]
  obtain ⟨held', mem, mode⟩ := fiRelease_parts (s := s.setHeld l.val []) l.val [h]
  refine ⟨_, rfl, ?_, ?_, mem, mode⟩
  · show sgetD [] ((s.setHeld l.val []).fiRelease l.val [h]).fi.held l.val = []
    rw [held']
    exact setHeld_held ..
  show s.out ++ (([h].filter (fun h => !h.rx)).map (·.frame)).map (fun f => Emit.frame l.val f) = _
  rw [List.filter_cons_of_pos (by rw [tx]; rfl)]
  rfl

/-! ### The end of a permit -/

theorem fiPermitEnd_some {e : Nat} (h : s.fi.permitEnd = some e) : s.fiPermitEnd =
    ((((State.flag { s with fi.permitEnd := none } Reg.FI_STAT_PERMIT false).setFld Reg.FI_STAT_PERMIT_LEFT 0).flag
      Reg.FI_EVT_PERMIT_ENDED true).report .o .info 0x1005 (srcNo 0x10 0) []) := if_neg (by rw [h]; exact nofun)

theorem fiPermitEnd_outcome {e : Nat} (h : s.fi.permitEnd = some e) : s.fiPermitEnd.fi.permitEnd = none ∧
    s.fiPermitEnd.fld Reg.FI_STAT_PERMIT = 0 ∧ s.fiPermitEnd.fld Reg.FI_EVT_PERMIT_ENDED = 1 ∧ s.fiPermitEnd.mode = s.mode := by
  have shown (k : Nat) (hk : logKey k = false) : s.fiPermitEnd.fld k = ((((State.flag { s with fi.permitEnd := none }
      Reg.FI_STAT_PERMIT false).setFld Reg.FI_STAT_PERMIT_LEFT 0).flag Reg.FI_EVT_PERMIT_ENDED true)).fld k := by
    rw [fiPermitEnd_some h]
    exact fld_report _ _ _ _ _ _ _ (by decide) hk
  rw [shown _ (by decide), shown _ (by decide), fiPermitEnd_some h, report_fi, report_mode]
  refine ⟨rfl, ?_, fld_flag_same .., rfl⟩
  rw [fld_flag_other (by decide), fld_setFld_other (by decide), fld_flag_same]
  rfl

theorem fiPermitEnded_due {e : Nat} (h : s.fi.permitEnd = some e) (due : e ≤ s.opNs) : exec .fiPermitEnded s = .next
    (if s.fiPermitEnd.mode = .run then (s.fiPermitEnd.fiRemoveAll 2).deliverReleased else s.fiPermitEnd) := by
  show Host.Outcome.next _ = _
  rw [h]
  exact congrArg Host.Outcome.next (if_neg (by omega))

end Ending

/-- Settles O60: every command of the injector by its kind and its choice; EVERY_N chooses by the count of frames seen. -/
theorem faultInjection : Obligations.FaultInjection := by
  unfold Obligations.FaultInjection
  refine ⟨fun s l rx f h => fiPass_idle h, ?_, ?_, fun s l h kind held tx none => fiDelayExpiry_sent kind held tx none, ?_⟩
  · intro s l rx f hl acts select
    obtain ⟨mem, mode⟩ := fiPass_still (s := s) l rx f
    have sel := fiSelect_everyN select
    refine ⟨fiPass_seen acts, mem, mode, fun kind hit => ?_, fun kind miss => ?_, fun kind hit => ⟨fun short => ?_, fun long checked => ?_⟩,
      fun kind hit room => ?_, fun kind hit full => ?_⟩
    · rw [fiPass_drop acts kind, sel, if_pos (decide_eq_true hit)]
      exact ⟨rfl, fiInjected_count hl⟩
    · rw [fiPass_drop acts kind, sel, if_neg (by rw [decide_eq_false miss]; decide)]
      exact ⟨rfl, rfl⟩
    · rw [fiPass_corrupt acts kind (sel.trans (decide_eq_true hit)), corruptFrame_short short]
      rfl
    · rw [fiPass_corrupt acts kind (sel.trans (decide_eq_true hit)), checked, corruptFrame_checked long]
      rfl
    · rw [fiPass_delay acts kind, sel, decide_eq_true hit, fiDelay_room (s := (s.fiSelect l).1) room]
      exact ⟨rfl, setHeld_held ..⟩
    · rw [fiPass_delay acts kind, sel, decide_eq_true hit, fiDelay_full (s := (s.fiSelect l).1) full]
      exact ⟨rfl, fiLost_counted hl⟩
  · intro s l c hl armed
    obtain ⟨off, kind⟩ := fiRemove_fields armed c
    obtain ⟨held, mem, mode, out⟩ := fiRemove_parts armed c
    exact ⟨off, held, kind, mem, mode, out⟩
  · intro s e h due
    obtain ⟨none, permit, event, mode⟩ := fiPermitEnd_outcome h
    refine ⟨none, permit, event, fun run => ?_, fun run => ?_⟩
    · rw [fiPermitEnded_due h due, mode, if_pos run]
    · rw [fiPermitEnded_due h due, mode, if_neg run]

end Sys2Proof.Machine

end

-- ==== Sys2Proof/Proofs/Mailbox.lean ====

section
-- In order, not in parallel: each parallel thread reserves its whole stack of the check's memory.
set_option Elab.async false

/-! SUPPORT. Trig: its page, its events, and its mailbox. -/

namespace Sys2Proof.Machine

/-! ### The page of Trig -/

section Page
variable (s : State)

theorem trigPage_trig : s.trigPage.trig = s.trig := by simp [State.trigPage]

theorem trigPage_mode : s.trigPage.mode = s.mode := by simp [State.trigPage]

theorem fld_trigPage_running : s.trigPage.fld Reg.EMP_STAT_RUNNING = b2w s.trig.running := by
  unfold State.trigPage
  simp only [fld_setFld, fld_flag]
  rfl

theorem fld_trigPage_fault : s.trigPage.fld Reg.EMP_STAT_FAULT = b2w s.trig.fault := by
  unfold State.trigPage
  simp only [fld_setFld, fld_flag]
  rfl

theorem fld_trigPage_seal : s.trigPage.fld Reg.EMP_STAT_SEAL_OPEN = b2w s.trig.sealOpen := by
  unfold State.trigPage
  simp only [fld_setFld, fld_flag]
  rfl

end Page

/-! ### Events -/

/-- An event record changes the log alone (R420). -/
theorem trigEvent_parts (t : Trig) (code : Nat) (p : List Byte) : (t.event code p).utc = t.utc ∧
    (t.event code p).utcValid = t.utcValid ∧ (t.event code p).opNs = t.opNs ∧ (t.event code p).cumCons = t.cumCons ∧
    (t.event code p).ms1 = t.ms1 ∧ (t.event code p).sealOpen = t.sealOpen ∧ (t.event code p).sealCnt = t.sealCnt ∧
    (t.event code p).period = t.period ∧ (t.event code p).update = t.update := by
  unfold Trig.event
  split <;> exact ⟨rfl, rfl, rfl, rfl, rfl, rfl, rfl, rfl, rfl⟩

theorem trigEvent_numbered {t : Trig} (room : t.hasRoom = true) (code : Nat) (p : List Byte) :
    (t.event code p).nextSeq = t.nextSeq + 1 := by
  unfold Trig.event
  rw [if_pos room]
  rfl

/-! ### TIME and POSITION -/

/-- The time is taken; the first one, or a step, ends the period (R417, R421). -/
theorem setTime_taken (t : Trig) (ns : Nat) : (t.setTime ns).utc = ns ∧ (t.setTime ns).utcValid = true ∧
    (t.setTime ns).opNs = t.opNs ∧ (t.utcValid = false → (t.setTime ns).ending.isSome = true) := by
  unfold Trig.setTime
  dsimp only
  generalize (if t.utcValid = true then t.utc else 0) = old
  obtain ⟨utc, valid, op, _⟩ := trigEvent_parts { t with utc := ns, utcValid := true } 5 (leBytes 8 old ++ leBytes 8 ns)
  split
  · exact ⟨utc, valid, op, fun _ => rfl⟩
  · next calm =>
    refine ⟨rfl, rfl, rfl, fun unset => ?_⟩
    rw [unset] at calm
    exact absurd rfl calm

section Messages
variable {s : State} {m p : List Byte}

theorem time_taken (running : s.trig.running = true) (pay : mailPayload 0x01 m = some p) (len : p.length = 12)
    (lo : 1 ≤ fieldAt p 8 1) (hi : fieldAt p 8 1 ≤ 3) :
    exec (.time m) s = .next (s.onTrig (fun t => t.setTime (fieldAt p 0 8))) := by
  show Host.Outcome.next _ = _
  rw [if_neg (by rw [running]; decide), pay]
  exact congrArg Host.Outcome.next (if_pos ⟨len, lo, hi⟩)

theorem time_discarded (running : s.trig.running = true) (pay : mailPayload 0x01 m = some p) (len : p.length ≠ 12) :
    exec (.time m) s = .next (s.onTrig Trig.discard) := by
  show Host.Outcome.next _ = _
  rw [if_neg (by rw [running]; decide), pay]
  exact congrArg Host.Outcome.next (if_neg fun c => len c.1)

theorem position_eq (running : s.trig.running = true) (pay : mailPayload 0x02 m = some p) (len : p.length = 8) :
    exec (.position m) s = .next (if positionOk (BitVec.ofNat 32 (fieldAt p 0 4)) (BitVec.ofNat 32 (fieldAt p 4 4)) = true then
      s.onTrig (fun t => { t with pos := some (BitVec.ofNat 32 (fieldAt p 0 4), BitVec.ofNat 32 (fieldAt p 4 4), t.opNs) })
      else s.onTrig Trig.discard) := by
  show Host.Outcome.next _ = _
  rw [if_neg (by rw [running]; decide), pay]
  dsimp only
  rw [len]
  simp only [true_and]

theorem positionOk_iff (lat lon : Word) :
    positionOk lat lon = true ↔ lat.toInt.natAbs ≤ 900000000 ∧ lon.toInt.natAbs ≤ 1800000000 := by
  simp [positionOk]

theorem packet_served {b : List Byte} {e : Nat × Req} {op : Nat} {r : Req} (pay : mailPayload 0x03 m = some b)
    (asked : s.cmd.forwarded.find? (fun e => e.1 == fieldAt b 4 2 && e.2.target == 1 && e.2.tag == (reqOf 0 0 false b).tag &&
      e.2.session == (reqOf 0 0 false b).session) = some e) (framed : framing e.2.transport e.2.source false b = .passed op r)
    (plain : headerFault b = none) : exec (.packet m) s = .next (s.trigRequest op r) := by
  show Host.Outcome.next _ = _
  rw [pay]
  dsimp only
  rw [asked]
  dsimp only
  rw [framed]
  dsimp only
  rw [plain]

theorem packet_unasked {b : List Byte} (pay : mailPayload 0x03 m = some b) (none : s.cmd.forwarded = []) :
    exec (.packet m) s = .next (s.onTrig Trig.discard) := by
  show Host.Outcome.next _ = _
  rw [pay]
  dsimp only
  rw [none]
  rfl

end Messages

/-! ### The supervisor sends -/

section Sends
variable (s : State)

@[simp] theorem completeOut_cmd (n : Nat) (st : DescStatus) : (s.completeOut n st).cmd = s.cmd := by
  unfold State.completeOut
  split
  · rw [ringGo_cmd, complete_cmd]
  · rfl

@[simp] theorem takeOut_cmd (n : Nat) : (s.takeOut n).1.cmd = s.cmd := by
  unfold State.takeOut
  dsimp only
  split
  · exact readDesc_cmd ..
  · split
    · rw [ringHalt_cmd, readMany_cmd, readDesc_cmd]
    · rw [readMany_cmd, readDesc_cmd]

@[simp] theorem startOut_cmd (n : Nat) (f : AgentFrame) (d : Desc) : (s.startOut n f d).cmd = s.cmd := rfl

@[simp] theorem emit_cmd (e : Emit) : (s.emit e).cmd = s.cmd := rfl

@[simp] theorem mailPost_cmd (n len : Nat) : (s.mailPost n len).cmd = s.cmd := by
  unfold State.mailPost State.post
  dsimp only
  split
  · rw [setBit_cmd, fullWrite_cmd, fullWrite_cmd]
  · rw [ringGo_cmd, setFld_cmd, fullWrite_cmd, fullWrite_cmd]

@[simp] theorem toTrig_cmd (type : Nat) (p : List Byte) : (s.toTrig type p).cmd = s.cmd := by
  unfold State.toTrig
  dsimp only
  split
  · split
    · rw [takeOut_cmd, mailPost_cmd, writeFrame_cmd]
    · rw [completeOut_cmd, emit_cmd, startOut_cmd, takeOut_cmd, mailPost_cmd, writeFrame_cmd]
  · rfl

theorem posSignal_unmapped {s : State} {off : Nat} (h : bitAt (s.cfg 0x16 off 4) 31 = 0) : s.posSignal off = (s, none) :=
  if_pos h

theorem mailboxSend_eq {s : State} (lat : bitAt (s.cfg 0x16 0x00 4) 31 = 0) (lon : bitAt (s.cfg 0x16 0x04 4) 31 = 0) :
    exec .mailboxSend s = .next (if s.time.utcValid then s.toTrig 0x01 (leBytes 8 s.time.utc ++
      [BitVec.ofNat 8 (s.fld Reg.ESW_PTPSTAT_SOURCE).toNat, 0, 0, 0]) else s) := by
  have unmapped (u : State) (hu : u.cmd = s.cmd) : u.posSignal 0x00 = (u, none) ∧ u.posSignal 0x04 = (u, none) :=
    ⟨posSignal_unmapped (by unfold State.cfg at lat ⊢; rw [hu]; exact lat),
      posSignal_unmapped (by unfold State.cfg at lon ⊢; rw [hu]; exact lon)⟩
  show Host.Outcome.next _ = _
  obtain ⟨first, second⟩ := unmapped (if s.time.utcValid then s.toTrig 0x01 (leBytes 8 s.time.utc ++
      [BitVec.ofNat 8 (s.fld Reg.ESW_PTPSTAT_SOURCE).toNat, 0, 0, 0]) else s) (by split <;> simp)
  dsimp only
  rw [first]
  dsimp only
  rw [second]

theorem toTrig_unready {s : State} (off : s.ringOn 28 = false) (p : List Byte) :
    s.toTrig 0x01 p = s.emit (.mailbox 0x01 (mailMessage 0x01 p)) := by
  have unready (len : Nat) : s.mailReady 28 len = false := by
    unfold State.mailReady
    rw [off]
    rfl
  unfold State.toTrig
  dsimp only
  rw [unready]
  rfl

end Sends

/-! ### Restarts -/

section Restarts
variable {s : State}

/-- Trig's parts after it stops with a fault (R411). -/
theorem trigRestart_stops (running : s.trig.running = true) : ∃ t, exec .trigRestart s = .next t ∧ t.trig.running = false ∧
    t.trig.fault = true ∧ t.trig.pos = none ∧ t.trig.winN = 0 ∧ t.trig.cumCons = s.trig.cumCons ∧ t.trig.ms1 = s.trig.ms1 ∧
    t.fld Reg.EMP_STAT_FAULT = 1 ∧ t.fld Reg.EMP_STAT_RUNNING = 0 ∧ t.mem = s.mem ∧ t.mode = s.mode := by
  obtain ⟨_, _, _, cons, ms1, _⟩ := trigEvent_parts s.trig 6 []
  refine ⟨_, congrArg Host.Outcome.next (if_neg (by rw [running]; decide)), ?_⟩
  rw [trigPage_trig, fld_trigPage_fault, fld_trigPage_running, trigPage_mem, trigPage_mode]
  exact ⟨rfl, rfl, rfl, rfl, cons, ms1, rfl, rfl, rfl, rfl⟩

theorem transmit_parts (l : Nat) (f : LinkFrame) : (s.transmit l f).trig = s.trig ∧ (s.transmit l f).mem = s.mem ∧
    (s.transmit l f).mode = s.mode :=
  have sent : Sent logBase s (s.transmit l f) := (Sent.refl s).transmit l f
  ⟨(congrArg State.trig sent.still :), sent.mem, sent.mode⟩

/-- A bank that passes runs as the active one, and the rest of Trig stays. -/
theorem runBank_parts {t : Trig} {one : Bool} (ok : t.bankOk one = true) : (t.runBank one).active1 = one ∧
    (t.runBank one).opNs = t.opNs ∧ (t.runBank one).inbox = t.inbox := by
  unfold Trig.bankOk at ok
  unfold Trig.runBank
  cases hb : t.bank one with
  | image h b => exact ⟨rfl, rfl, rfl⟩
  | delivered v svn => exact ⟨rfl, rfl, rfl⟩
  | erased =>
    rw [hb] at ok
    exact absurd ok Bool.false_ne_true

theorem startBank_ok {t : Trig} {one : Bool} (h : t.startBank = some one) : t.bankOk one = true := by
  unfold Trig.startBank at h
  split at h
  · next ok => rwa [← Option.some.inj h]
  · split at h
    · next ok => rwa [← Option.some.inj h]
    · exact absurd h nofun

theorem trigStart_bank {one : Bool} {go : Trig → Trig} (bank : s.trig.startBank = some one)
    (idle : (go { s.trig.runBank one with running := true, fault := false }).inbox = []) : ∃ f, s.trigStart go =
      (State.trigPage { s with trig := { go { s.trig.runBank one with running := true, fault := false } with inbox := [] } }).transmit
        linkConsole f := by
  unfold State.trigStart
  rw [bank]
  exact ⟨_, congrArg (List.foldl _ _) idle⟩

theorem trigRestartDone_runs {one : Bool} (stopped : s.trig.running = false) (powered : s.sup.powered = true)
    (bank : s.trig.startBank = some one) (idle : s.trig.inbox = []) :
    ∃ t, exec .trigRestartDone s = .next t ∧ t.trig.running = true ∧ t.trig.fault = false ∧ t.trig.active1 = one ∧
      t.trig.period.flags.testBit 10 = true ∧ t.trig.opNs = s.trig.opNs ∧ t.mem = s.mem ∧ t.mode = s.mode := by
  obtain ⟨active, op, inbox⟩ := runBank_parts (startBank_ok bank)
  obtain ⟨f, start⟩ := trigStart_bank (go := fun t => t.mark fInterrupted) bank (inbox.trans idle)
  have step : exec .trigRestartDone s = .next (s.trigStart (fun t => t.mark fInterrupted)) :=
    congrArg Host.Outcome.next (if_neg (by rw [stopped, powered]; decide))
  obtain ⟨trig, mem, mode⟩ := transmit_parts (s := State.trigPage { s with trig := { ({ s.trig.runBank one with running := true, fault := false } : Trig).mark fInterrupted with inbox := [] } }) linkConsole f
  refine ⟨_, step.trans (congrArg Host.Outcome.next start), ?_⟩
  rw [trig, mem, mode, trigPage_trig, trigPage_mem, trigPage_mode]
  refine ⟨rfl, rfl, active, ?_, op, rfl, rfl⟩
  show ((s.trig.runBank one).period.flags ||| fInterrupted).testBit 10 = true
  rw [Nat.testBit_or, show fInterrupted.testBit 10 = true from rfl, Bool.or_true]

end Restarts

/-- Settles O59: each message by what the mailbox makes of it, and what a restart of Trig leaves. -/
theorem trigMailbox : Obligations.TrigMailbox := by
  unfold Obligations.TrigMailbox
  refine ⟨?_, ?_, ?_, ?_, fun s running => trigRestart_stops running,
    fun s one stopped powered bank idle => trigRestartDone_runs stopped powered bank idle⟩
  · intro s m p running pay
    refine ⟨fun len lo hi => ?_, fun len => time_discarded running pay len⟩
    obtain ⟨utc, valid, op, first⟩ := setTime_taken s.trig (fieldAt p 0 8)
    exact ⟨_, time_taken running pay len lo hi, utc, valid, op, rfl, rfl, first⟩
  · intro s m p running pay len
    refine ⟨fun lat lon => ?_, fun far => ?_⟩
    · rw [position_eq running pay len, if_pos ((positionOk_iff _ _).mpr ⟨lat, lon⟩)]
    · rw [position_eq running pay len, if_neg fun ok => ?_]
      obtain ⟨lat, lon⟩ := (positionOk_iff _ _).mp ok
      omega
  · exact fun s m b pay => ⟨fun e op r asked framed plain => packet_served pay asked framed plain,
      fun none => packet_unasked pay none⟩
  · intro s lat lon
    refine ⟨fun valid => ?_, fun off p => toTrig_unready off p, fun unset => ?_⟩
    · rw [mailboxSend_eq lat lon, if_pos valid]
    · rw [mailboxSend_eq lat lon, if_neg (by rw [unset]; decide)]

end Sys2Proof.Machine

end

-- ==== Sys2Proof/Proofs/Measuring.lean ====

section
-- In order, not in parallel: each parallel thread reserves its whole stack of the check's memory.
set_option Elab.async false

/-! SUPPORT. Trig measures: samples, windows, seconds, periods and the seal. -/

namespace Sys2Proof.Machine

/-! ### Samples -/

section Samples
variable {s : State}

theorem trigDue_nothing (sec : s.trig.sec.n < 8000) (period : s.trig.periodDue = false) (window : s.trig.windowDue = false) :
    s.trigDue = s := by
  unfold State.trigDue
  rw [if_neg (by omega : ¬8000 ≤ s.trig.sec.n)]
  dsimp only
  rw [if_neg (Bool.eq_false_iff.mp period), if_neg (Bool.eq_false_iff.mp window)]

theorem metrologySample_eq (running : s.trig.running = true) (sec : s.trig.sec.n < 8000) (period : s.trig.periodDue = false)
    (window : s.trig.windowDue = false) (a b c d e f : Int) :
    exec (.metrologySample a b c d e f) s = .next (s.onTrig (fun t => t.sample [a, b, c, d, e, f])) :=
  congrArg Host.Outcome.next ((if_neg (by rw [running]; decide)).trans (by rw [trigDue_nothing sec period window]))

/-- A sample counts the second, the window and the time (R413). -/
theorem sample_counts (t : Trig) (xs : List Int) : (t.sample xs).winN = t.winN + 1 ∧ (t.sample xs).sec.n = t.sec.n + 1 ∧
    (t.sample xs).opNs = t.opNs + 125000 ∧
    (t.sample xs).utc = (if t.utcValid = true then t.utc + 125000 else t.utc) := by
  unfold Trig.sample
  dsimp only
  split <;> exact ⟨rfl, rfl, rfl, rfl⟩

/-- With the system's own inputs, voltage is input 1 and current input 3. -/
theorem sample_window (t : Trig) {a b c d e f : Int} (hu : t.uInput 1 = 1) (hi : t.iInput 1 = 3) :
    (t.sample [a, b, c, d, e, f]).win1 = ⟨t.win1.ui + clip a * clip c, t.win1.uu + (clip a).natAbs ^ 2,
      t.win1.ii + (clip c).natAbs ^ 2⟩ := by
  have inputs (v : Trig) (h : v.params = t.params) : v.uInput 1 = 1 ∧ v.iInput 1 = 3 := by
    unfold Trig.uInput Trig.par at hu ⊢
    unfold Trig.iInput Trig.par at hi ⊢
    rw [h]
    exact ⟨hu, hi⟩
  unfold Trig.sample
  dsimp only
  split
  · obtain ⟨u, i⟩ := inputs { t.mark fOverrange with overSec := true } rfl
    rw [u, i]
    rfl
  · rw [hu, hi]
    rfl

theorem sample_overrange (t : Trig) {a b c d e f : Int} (h : a > clipLimit) :
    (t.sample [a, b, c, d, e, f]).overSec = true ∧ (t.sample [a, b, c, d, e, f]).period.flags.testBit 9 = true := by
  have beyond : [a, b, c, d, e, f].any (fun x => decide (x < -clipLimit ∨ clipLimit < x)) = true := by
    rw [List.any_cons, decide_eq_true (.inr h), Bool.true_or]
  unfold Trig.sample
  dsimp only
  rw [if_pos beyond]
  refine ⟨rfl, ?_⟩
  show (t.period.flags ||| fOverrange).testBit 9 = true
  rw [Nat.testBit_or, show fOverrange.testBit 9 = true from rfl, Bool.or_true]

end Samples

/-! ### Windows and seconds -/

section Windows
variable {s : State}

/-- The view of Trig with the values of a window (R424). -/
def State.windowShown (s : State) (a b : Word × Word × Word) : State :=
  let s := ((s.setFld Reg.EMP_P1 a.1).setFld Reg.EMP_U1 a.2.1).setFld Reg.EMP_I1 a.2.2
  (((s.setFld Reg.EMP_P2 b.1).setFld Reg.EMP_U2 b.2.1).setFld Reg.EMP_I2 b.2.2).trigPage

theorem windowShown_fields (a b : Word × Word × Word) : (s.windowShown a b).fld Reg.EMP_P1 = a.1 ∧
    (s.windowShown a b).fld Reg.EMP_U1 = a.2.1 ∧ (s.windowShown a b).fld Reg.EMP_I1 = a.2.2 ∧ (s.windowShown a b).trig = s.trig := by
  unfold State.windowShown
  refine ⟨?_, ?_, ?_, trigPage_trig _⟩ <;> rw [fld_trigPage (by decide)] <;> simp only [fld_setFld] <;> rfl

theorem trigWindow_eq : s.trigWindow = State.onTrig
    (((s.onTrig Trig.endWindow).windowShown (s.trig.view 1 s.trig.win1) (s.trig.view 2 s.trig.win2)).deliver .trig
      ((s.onTrig Trig.endWindow).windowShown (s.trig.view 1 s.trig.win1) (s.trig.view 2 s.trig.win2)).trigSamples)
    (fun t => { t with overSec := false }) := rfl

theorem trigWindow_outcome : s.trigWindow.trig = { s.trig.endWindow with overSec := false } ∧
    s.trigWindow.fld Reg.EMP_P1 = (s.trig.view 1 s.trig.win1).1 ∧ s.trigWindow.fld Reg.EMP_U1 = (s.trig.view 1 s.trig.win1).2.1 ∧
    s.trigWindow.fld Reg.EMP_I1 = (s.trig.view 1 s.trig.win1).2.2 := by
  obtain ⟨p, u, i, trig⟩ := windowShown_fields (s := s.onTrig Trig.endWindow) (s.trig.view 1 s.trig.win1) (s.trig.view 2 s.trig.win2)
  rw [trigWindow_eq]
  generalize (s.onTrig Trig.endWindow).windowShown (s.trig.view 1 s.trig.win1) (s.trig.view 2 s.trig.win2) = v at p u i trig ⊢
  have got : Acquired v (v.deliver .trig v.trigSamples) := (Acquired.refl v).deliver ..
  refine ⟨?_, (got.fld _ (by decide)).trans p, (got.fld _ (by decide)).trans u, (got.fld _ (by decide)).trans i⟩
  show ({ (v.deliver .trig v.trigSamples).trig with overSec := false } : Trig) = _
  rw [got.trig, trig]
  rfl

theorem endWindow_consumes {t : Trig} (one : t.used 1 = true) (two : t.used 2 = false) (pos : (t.energy 1 t.win1).1 = false) :
    t.endWindow.ms1.cons = t.ms1.cons + (t.energy 1 t.win1).2 ∧ t.endWindow.cumCons = t.cumCons + (t.energy 1 t.win1).2 ∧
      t.endWindow.ms1.regen = t.ms1.regen ∧ t.endWindow.cumRegen = t.cumRegen ∧ t.endWindow.winN = 0 := by
  unfold Trig.endWindow MsAcc.add
  simp [one, two, pos]

/-- A second is classified; the third in a row that shows another system ends the period (R414). -/
theorem endSecond_parts (t : Trig) : t.endSecond.sec = ⟨0, 0, 0, 0⟩ ∧ t.endSecond.sysNew = t.classify ∧
    t.endSecond.system = t.system ∧ t.endSecond.sysCount = (if t.classify = t.system then 0
      else if t.classify = t.sysNew then t.sysCount + 1 else 1) := by
  unfold Trig.endSecond
  dsimp only
  generalize (if t.classify = t.system then 0 else if t.classify = t.sysNew then t.sysCount + 1 else 1) = n
  split <;> exact ⟨rfl, rfl, rfl, rfl⟩

theorem endSecond_third {t : Trig} (other : t.classify ≠ t.system) (held : t.classify = t.sysNew) (two : t.sysCount = 2) :
    t.endSecond.ending.isSome = true := by
  unfold Trig.endSecond
  dsimp only
  rw [if_neg other, if_pos held, two]
  rfl

end Windows

/-! ### Periods and the seal -/

section Periods
variable {s : State}

theorem periodEnd_eq (running : s.trig.running = true) (due : s.trig.periodDue = true) (win : s.trig.winN = 0) :
    exec .periodEnd s = .next (State.trigPage (s.onTrig (fun t => t.endPeriod 0))) :=
  congrArg Host.Outcome.next ((if_pos ⟨running, due⟩).trans (by unfold State.trigPeriod; rw [if_pos win]))

/-- What the end of a period does beside its record. -/
theorem endPeriod_parts (t : Trig) (flags : Nat) : (t.endPeriod flags).nextSeq = t.record.nextSeq ∧
    (t.endPeriod flags).log = t.record.log ∧ (t.endPeriod flags).deferred = t.record.deferred ∧
    (t.endPeriod flags).ms1 = t.record.ms1 ∧ (t.endPeriod flags).ending = none := by
  unfold Trig.endPeriod
  dsimp only
  split <;> exact ⟨rfl, rfl, rfl, rfl, rfl⟩

theorem record_stored {t : Trig} (room : t.hasRoom = true) : t.record.nextSeq = t.nextSeq + 1 ∧
    t.record.log.getLast? = some (t.nextSeq, t.signed t.periodRecord) ∧ t.record.deferred = 0 ∧
    t.record.ms1 = ⟨t.ms1.cons % 3600000, t.ms1.regen % 3600000⟩ := by
  unfold Trig.record
  rw [if_pos room]
  exact ⟨rfl, List.getLast?_concat, rfl, rfl⟩

theorem record_deferred {t : Trig} (full : t.hasRoom = false) : t.record.nextSeq = t.nextSeq ∧ t.record.log = t.log ∧
    t.record.deferred = t.deferred + 1 ∧ t.record.ms1 = t.ms1 := by
  unfold Trig.record
  rw [if_neg (by rw [full]; decide)]
  exact ⟨rfl, rfl, rfl, rfl⟩

/-- Trig with its seal open: counted, and noted in the period (R425). -/
def Trig.unsealed (t : Trig) : Trig := { t with sealOpen := true, sealCnt := min 0xFFFFFFFF (t.sealCnt + 1) }.mark fSealOpen

theorem sealOpened_outcome (running : s.trig.running = true) (closed : s.trig.sealOpen = false) :
    ∃ t, exec .sealOpened s = .next t ∧ t.trig.sealOpen = true ∧
      t.trig.sealCnt = min 0xFFFFFFFF (s.trig.sealCnt + 1) ∧ t.fld Reg.EMP_STAT_SEAL_OPEN = 1 ∧
      t.trig.period.flags.testBit 12 = true ∧ (s.trig.hasRoom = true → t.trig.nextSeq = s.trig.nextSeq + 1) ∧ t.mem = s.mem := by
  have step : exec .sealOpened s = .next (State.trigPage (s.onTrig (fun t => t.unsealed.event 1 t.unsealed.sealPayload))) :=
    congrArg Host.Outcome.next (if_neg (by rw [running, closed]; decide))
  obtain ⟨_, _, _, _, _, isOpen, count, period, _⟩ := trigEvent_parts s.trig.unsealed 1 s.trig.unsealed.sealPayload
  refine ⟨_, step, ?_⟩
  rw [trigPage_trig, fld_trigPage_seal, trigPage_mem]
  refine ⟨isOpen, count, congrArg b2w isOpen, ?_, fun room => trigEvent_numbered (t := s.trig.unsealed) room .., rfl⟩
  refine (congrArg (fun p : Period => p.flags.testBit 12) period).trans ?_
  show (s.trig.period.flags ||| fSealOpen).testBit 12 = true
  rw [Nat.testBit_or, show fSealOpen.testBit 12 = true from rfl, Bool.or_true]

theorem sealClosed_outcome (running : s.trig.running = true) (opened : s.trig.sealOpen = true) :
    ∃ t, exec .sealClosed s = .next t ∧ t.trig.sealOpen = false ∧ t.trig.sealCnt = s.trig.sealCnt ∧
      t.trig.update = none ∧ t.fld Reg.EMP_STAT_SEAL_OPEN = 0 ∧ t.mem = s.mem := by
  obtain ⟨_, _, _, _, _, closed, count, _, update⟩ :=
    trigEvent_parts { s.trig with sealOpen := false, update := none } 2 s.trig.sealPayload
  refine ⟨_, congrArg Host.Outcome.next (if_neg (by rw [running, opened]; decide)), ?_⟩
  rw [trigPage_trig, fld_trigPage_seal, trigPage_mem]
  exact ⟨closed, count, update, congrArg b2w closed, rfl⟩

end Periods

/-- Settles O58: each of Trig's events through what it does to Trig, and to the page that shows it. -/
theorem trigMeasurement : Obligations.TrigMeasurement := by
  unfold Obligations.TrigMeasurement
  refine ⟨?_, ?_, fun t one two pos => endWindow_consumes one two pos, ?_, ?_, ?_⟩
  · intro s a b c d e f running sec period window
    obtain ⟨win, second, op, utc⟩ := sample_counts s.trig [a, b, c, d, e, f]
    refine ⟨_, metrologySample_eq running sec period window a b c d e f, win, second, op, utc, fun u i hu hi ha hc => ?_,
      fun h => sample_overrange s.trig h, rfl, rfl⟩
    rw [← ha, ← hc]
    exact sample_window s.trig hu hi
  · exact fun s running due => ⟨_, congrArg Host.Outcome.next (if_pos ⟨running, due⟩), trigWindow_outcome⟩
  · intro s running full
    obtain ⟨sec, new, system, count⟩ := endSecond_parts s.trig
    exact ⟨s.onTrig Trig.endSecond, congrArg Host.Outcome.next (if_pos ⟨running, full⟩), sec, new, system, count,
      fun other held two => endSecond_third other held two, rfl, rfl⟩
  · intro s running due win
    obtain ⟨seq, log, deferred, ms1, ending⟩ := endPeriod_parts s.trig 0
    refine ⟨fun room => ?_, fun full => ?_⟩
    · obtain ⟨seq', log', deferred', ms1'⟩ := record_stored room
      refine ⟨_, periodEnd_eq running due win, ?_⟩
      rw [trigPage_trig, trigPage_mem]
      exact ⟨seq.trans seq', (congrArg List.getLast? log).trans log', deferred.trans deferred', ms1.trans ms1', ending, rfl⟩
    · obtain ⟨seq', log', deferred', ms1'⟩ := record_deferred full
      refine ⟨_, periodEnd_eq running due win, ?_⟩
      rw [trigPage_trig, trigPage_mem]
      exact ⟨seq.trans seq', log.trans log', deferred.trans deferred', ms1.trans ms1', ending, rfl⟩
  · exact fun s running => ⟨fun closed => sealOpened_outcome running closed, fun opened => sealClosed_outcome running opened⟩

end Sys2Proof.Machine

end

-- ==== Sys2Proof/Proofs/LinkFrames.lean ====

section
-- In order, not in parallel: each parallel thread reserves its whole stack of the check's memory.
set_option Elab.async false

/-! SUPPORT. The bytes of Ridge and Col frames, and what receives them. -/

namespace Sys2Proof.Machine

/-! ### Numbers in bytes -/

theorem leNat_leBytes {n v : Nat} (h : v < 256 ^ n) : leNat (leBytes n v) = v := by
  induction n generalizing v with
  | zero =>
    rw [pow_zero] at h
    exact (by omega : 0 = v)
  | succ n ih =>
    rw [pow_succ] at h
    show (BitVec.ofNat 8 v).toNat + 256 * leNat (leBytes n (v / 256)) = v
    rw [ih (by omega), BitVec.toNat_ofNat]
    omega

theorem leBytes_length (n v : Nat) : (leBytes n v).length = n := by
  induction n generalizing v with
  | zero => rfl
  | succ n ih => exact congrArg (· + 1) (ih _)

/-- Four bytes tell the words apart. -/
theorem leBytes_word {a b : Word} : leBytes 4 a.toNat = leBytes 4 b.toNat ↔ a = b := by
  refine ⟨fun h => BitVec.eq_of_toNat_eq ?_, fun h => by rw [h]⟩
  have := congrArg leNat h
  rwa [leNat_leBytes (by have := a.isLt; omega), leNat_leBytes (by have := b.isLt; omega)] at this

theorem leNat_byte {v : Nat} (h : v < 256) : leNat [BitVec.ofNat 8 v] = v := leNat_leBytes (n := 1) (by omega)

/-! ### Ridge frames -/

section Ridge
variable {f : RidgeFrame}

theorem ridgeBytes_length (f : RidgeFrame) : f.bytes.length = f.payload.length + 12 := by
  simp [RidgeFrame.bytes, leBytes]

/-- The fields of a frame stand in its bytes, whatever follows them (R332). -/
theorem ridgeOf_bytes (type : f.type < 256) (hops : f.hops < 256) (src : f.src < 64) (unit : f.unit < 2) (dst : f.dst < 64)
    (seq : f.seq < 65536) (ack : f.ack < 65536) (len : f.payload.length ≤ 4096) (tail : List Byte) :
    ridgeOf (f.bytes ++ tail) = f := by
  have byte2 : leNat [BitVec.ofNat 8 (f.src % 64 + 64 * f.unit)] = f.src + 64 * f.unit := by
    rw [leNat_byte (by omega)]
    omega
  have bcast : b2n f.bcast < 2 := by cases f.bcast <;> decide
  have byte3 : leNat [BitVec.ofNat 8 (f.dst % 64 + 128 * b2n f.bcast)] = f.dst + 128 * b2n f.bcast := by
    rw [leNat_byte (by omega)]
    omega
  have flags : leNat (leBytes 2 (b2n f.sync + 2 * b2n f.ackv)) = b2n f.sync + 2 * b2n f.ackv := by
    cases f.sync <;> cases f.ackv <;> rfl
  have payload : ((f.bytes ++ tail).drop 12).take (leNat (leBytes 2 f.payload.length)) = f.payload := by
    rw [leNat_leBytes (by omega)]
    show (f.payload ++ tail).take f.payload.length = f.payload
    simp
  have at0 : leNat (((f.bytes ++ tail).drop 0).take 1) = f.type := leNat_byte type
  have at1 : leNat (((f.bytes ++ tail).drop 1).take 1) = f.hops := leNat_byte hops
  have at2 : leNat (((f.bytes ++ tail).drop 2).take 1) = f.src + 64 * f.unit := byte2
  have at3 : leNat (((f.bytes ++ tail).drop 3).take 1) = f.dst + 128 * b2n f.bcast := byte3
  have at4 : leNat (((f.bytes ++ tail).drop 4).take 2) = f.seq := leNat_leBytes (n := 2) (by omega)
  have at8 : leNat (((f.bytes ++ tail).drop 8).take 2) = f.ack := leNat_leBytes (n := 2) (by omega)
  have at10 : leNat (((f.bytes ++ tail).drop 10).take 2) = b2n f.sync + 2 * b2n f.ackv := flags
  have at12 : ((f.bytes ++ tail).drop 12).take (leNat (((f.bytes ++ tail).drop 6).take 2)) = f.payload := payload
  unfold ridgeOf
  simp only [at0, at1, at2, at3, at4, at8, at10, at12]
  clear at0 at1 at2 at3 at4 at8 at10 at12 byte2 byte3 flags payload bcast
  cases f with
  | mk type hops src unit dst bcast seq ack sync ackv payload =>
    dsimp only at *
    rw [RidgeFrame.mk.injEq]
    refine ⟨rfl, rfl, by omega, by omega, ?_, ?_, rfl, rfl, ?_, ?_, rfl⟩
    · cases bcast <;> simp [b2n] <;> omega
    · cases bcast <;> simp [b2n]
      omega
    · cases sync <;> cases ackv <;> rfl
    · cases sync <;> cases ackv <;> rfl

/-- How a frame ended shows in its check (R332, R334). -/
theorem frameEnd_wire (len : f.payload.length ≤ 4096) (e : FrameEnd) : frameEnd (f.wire e).bytes = e := by
  have shape (c : Word) : (f.bytes ++ leBytes 4 c.toNat).take ((f.bytes ++ leBytes 4 c.toNat).length - 4) = f.bytes ∧
      (f.bytes ++ leBytes 4 c.toNat).drop ((f.bytes ++ leBytes 4 c.toNat).length - 4) = leBytes 4 c.toNat := by
    rw [List.length_append, leBytes_length, Nat.add_sub_cancel]
    exact ⟨List.take_left .., List.drop_left ..⟩
  have counted (c : Word) : leNat (((f.bytes ++ leBytes 4 c.toNat).drop 6).take 2) = f.payload.length :=
    leNat_leBytes (n := 2) (by omega)
  have whole (c : Word) : ¬((f.bytes ++ leBytes 4 c.toNat).length ≠
      leNat (((f.bytes ++ leBytes 4 c.toNat).drop 6).take 2) + 16 ∨ 4096 < leNat (((f.bytes ++ leBytes 4 c.toNat).drop 6).take 2)) := by
    rw [counted, List.length_append, leBytes_length, ridgeBytes_length]
    omega
  have zeroed : f.bytes.set 1 0 = { f with hops := 0 }.bytes := rfl
  have stomped : ~~~f.crc ≠ f.crc := by bv_omega
  have wrong : f.crc ^^^ 1 ≠ f.crc := fun h => by simpa using congrArg (·.getLsbD 0) h
  have neither : f.crc ^^^ 1 ≠ ~~~f.crc := fun h => by simpa using congrArg (·.getLsbD 1) h
  unfold frameEnd RidgeFrame.wire
  dsimp only
  rw [if_neg (whole _), (shape _).1, (shape _).2, zeroed]
  show (if leBytes 4 _ = leBytes 4 f.crc.toNat then _ else if leBytes 4 _ = leBytes 4 (~~~f.crc).toNat then _ else _) = e
  simp only [leBytes_word]
  cases e with
  | right => exact if_pos rfl
  | stomped => exact (if_neg stomped).trans (if_pos rfl)
  | wrong => exact (if_neg wrong).trans (if_neg neither)

/-! ### A frame at a port -/

section Port
variable {s : State} {rx : RidgeRx} {t : Nat}

theorem ridgeRx_received {e : FrameEnd} {stomped : Bool} (ending : rx.ending stomped = e) (port : s.rdgPort rx.east = true)
    (idle : s.fiActs (if rx.east = true then linkRidgeE else linkRidgeW) true = false) (late : Bool) :
    s.ridgeRx rx late stomped = s.ridgeAt rx.east late (rx.frame.wire e) := by
  unfold State.ridgeRx
  rw [if_pos port, receive_idle idle, ending]

/-- A frame whose fields fit reads back, with its end (R332). -/
structure RidgeFrame.Fits (f : RidgeFrame) : Prop where
  type : f.type < 256
  hops : f.hops < 256
  src : f.src < 64
  unit : f.unit < 2
  dst : f.dst < 64
  seq : f.seq < 65536
  ack : f.ack < 65536
  len : f.payload.length ≤ 4096

theorem ridgeOf_wire (h : f.Fits) (e : FrameEnd) : ridgeOf (f.wire e).bytes = f :=
  ridgeOf_bytes h.type h.hops h.src h.unit h.dst h.seq h.ack h.len _

theorem ridgeAt_right (h : f.Fits) (east late : Bool) : s.ridgeAt east late (f.wire .right) =
    (if f.type = 3 then s else s.rdgForward east true f).ridgeFrame east late f := by
  unfold State.ridgeAt
  rw [ridgeOf_wire h, frameEnd_wire h.len]

theorem ridgeAt_wrong (h : f.Fits) (east late : Bool) : s.ridgeAt east late (f.wire .wrong) =
    (s.bump (if east then Reg.RDG_CRCERRECNT else Reg.RDG_CRCERRWCNT)).rdgForward east false f := by
  unfold State.ridgeAt
  rw [ridgeOf_wire h, frameEnd_wire h.len]

theorem ridgeAt_stomped (h : f.Fits) (east late : Bool) : s.ridgeAt east late (f.wire .stomped) =
    (s.bump Reg.RDG_STOMPCNT).rdgForward east false f := by
  unfold State.ridgeAt
  rw [ridgeOf_wire h, frameEnd_wire h.len]

/-- A frame forwarded is a frame sent, or nothing. -/
theorem rdgForward_sent (east ok : Bool) (f : RidgeFrame) : Sent logBase s (s.rdgForward east ok f) := by
  unfold State.rdgForward State.rdgEmit
  dsimp only
  generalize (if f.type = 3 then 63 else s.positions) = limit
  split
  · exact .refl s
  · split
    · exact (Sent.refl s).transmit ..
    · exact .refl s

/-- A right frame at an open port is forwarded and used; every command takes frames of its own type (R333). -/
theorem ridgeType_right (fits : rx.frame.Fits) (h : rx.frame.type = t) (ok : rx.ok = true) (port : s.rdgPort rx.east = true)
    (idle : s.fiActs (if rx.east = true then linkRidgeE else linkRidgeW) true = false) (late : Bool) :
    s.ridgeType t rx late =
      (if rx.frame.type = 3 then s else s.rdgForward rx.east true rx.frame).ridgeFrame rx.east late rx.frame := by
  unfold State.ridgeType
  rw [if_pos h, ridgeRx_received (if_pos ok) port idle, ridgeAt_right fits]

theorem ridgeCrcError_wrong (fits : rx.frame.Fits) (port : s.rdgPort rx.east = true)
    (idle : s.fiActs (if rx.east = true then linkRidgeE else linkRidgeW) true = false) :
    ∃ u, exec (.ridgeCrcError rx false) s = .next u ∧ u.mem = s.mem ∧ u.rdg = s.rdg ∧
      u.fld (if rx.east = true then Reg.RDG_CRCERRECNT else Reg.RDG_CRCERRWCNT) =
        satAdd (s.fld (if rx.east = true then Reg.RDG_CRCERRECNT else Reg.RDG_CRCERRWCNT)) 1 := by
  have step : exec (.ridgeCrcError rx false) s = .next ((s.bump (if rx.east = true then Reg.RDG_CRCERRECNT
      else Reg.RDG_CRCERRWCNT)).rdgForward rx.east false rx.frame) := by
    refine congrArg Host.Outcome.next ?_
    rw [ridgeRx_received (rx := { rx with ok := false }) (e := .wrong) rfl port idle, ridgeAt_wrong fits]
  have low : (if rx.east = true then Reg.RDG_CRCERRECNT else Reg.RDG_CRCERRWCNT) < logBase := by
    cases rx.east <;> decide
  generalize (if rx.east = true then Reg.RDG_CRCERRECNT else Reg.RDG_CRCERRWCNT) = k at step low ⊢
  have sent := rdgForward_sent (s := s.bump k) rx.east false rx.frame
  exact ⟨_, step, sent.mem, sent.rdg, (sent.fld k low).trans (fld_bump_same ..)⟩

theorem ridgeCrcError_stomped (fits : rx.frame.Fits) (port : s.rdgPort rx.east = true)
    (idle : s.fiActs (if rx.east = true then linkRidgeE else linkRidgeW) true = false) :
    ∃ u, exec (.ridgeCrcError rx true) s = .next u ∧ u.mem = s.mem ∧ u.rdg = s.rdg ∧
      u.fld Reg.RDG_STOMPCNT = satAdd (s.fld Reg.RDG_STOMPCNT) 1 := by
  have step : exec (.ridgeCrcError rx true) s = .next ((s.bump Reg.RDG_STOMPCNT).rdgForward rx.east false rx.frame) := by
    refine congrArg Host.Outcome.next ?_
    rw [ridgeRx_received (rx := { rx with ok := false }) (e := .stomped) rfl port idle, ridgeAt_stomped fits]
  have sent := rdgForward_sent (s := s.bump Reg.RDG_STOMPCNT) rx.east false rx.frame
  exact ⟨_, step, sent.mem, sent.rdg, (sent.fld _ (by decide)).trans (fld_bump_same ..)⟩

end Port

end Ridge

/-! ### Col frames -/

section Col
variable {f : ColFrame}

theorem colOf_bytes (type : f.type < 256) (seq : f.seq < 65536) (epoch : f.epoch < 65536) (tick : f.tick < 2 ^ 32)
    (len : f.payload.length < 65536) (tail : List Byte) : colOf (f.bytes ++ tail) = f := by
  have at0 : leAt (f.bytes ++ tail) 0 1 = f.type := leNat_byte type
  have at1 : leAt (f.bytes ++ tail) 1 1 = b2n f.active := leNat_byte (by cases f.active <;> decide)
  have at2 : leAt (f.bytes ++ tail) 2 2 = f.seq := leNat_leBytes (n := 2) (by omega)
  have at4 : leAt (f.bytes ++ tail) 4 2 = f.payload.length := leNat_leBytes (n := 2) (by omega)
  have at6 : leAt (f.bytes ++ tail) 6 2 = f.epoch := leNat_leBytes (n := 2) (by omega)
  have at8 : leAt (f.bytes ++ tail) 8 4 = f.tick := leNat_leBytes (n := 4) (by omega)
  have at12 : ((f.bytes ++ tail).drop 12).take f.payload.length = f.payload := by
    show (f.payload ++ tail).take f.payload.length = f.payload
    simp
  have active : (bitAt (b2n f.active) 0 == 1) = f.active := by cases f.active <;> rfl
  unfold colOf
  rw [at0, at1, at2, at4, at6, at8, at12, active]

theorem colBytes_length (f : ColFrame) : f.bytes.length = f.payload.length + 12 := by
  simp [ColFrame.bytes, leBytes]

theorem colChecks_wire (f : ColFrame) (ok : Bool) : colChecks (f.wire ok).bytes = ok := by
  have shape (c : Word) : (f.bytes ++ leBytes 4 c.toNat).take ((f.bytes ++ leBytes 4 c.toNat).length - 4) = f.bytes ∧
      (f.bytes ++ leBytes 4 c.toNat).drop ((f.bytes ++ leBytes 4 c.toNat).length - 4) = leBytes 4 c.toNat := by
    rw [List.length_append, leBytes_length, Nat.add_sub_cancel]
    exact ⟨List.take_left .., List.drop_left ..⟩
  have long (c : Word) : 16 ≤ (f.bytes ++ leBytes 4 c.toNat).length := by
    rw [List.length_append, leBytes_length, colBytes_length]
    omega
  have wrong : crc32c f.bytes ^^^ 1 ≠ crc32c f.bytes := fun h => by simpa using congrArg (·.getLsbD 0) h
  unfold colChecks ColFrame.wire
  dsimp only
  rw [decide_eq_true (long _), (shape _).1, (shape _).2, Bool.true_and]
  cases ok with
  | true => simp
  | false => exact beq_eq_false_iff_ne.mpr fun h => wrong (leBytes_word.mp h)

section Lane
variable {s : State} {rx : ColRx} {delay t : Nat}

theorem colRx_received (enabled : s.fld Reg.COL_CTRL_ENABLE = 1) (up : s.fld (laneBit rx.lane2) = 1) (m1 : s.mode ≠ .selftest)
    (m2 : s.mode ≠ .recovery) (idle : s.fiActs (laneLink rx.lane2) true = false) :
    s.colRx rx delay = s.colAt delay (rx.frame.wire rx.ok) := by
  unfold State.colRx
  rw [if_pos ⟨enabled, up, m1, m2⟩, receive_idle idle]

end Lane

/-! ### The order of SEQ (R355) -/

section Order
variable {s : State} {delay : Nat}

theorem runAhead_nothing (n : Nat) (h : s.col.ahead = []) : State.runAhead n delay s = s := by
  cases n with
  | zero => rfl
  | succ n =>
    unfold State.runAhead
    rw [h]
    rfl

theorem colTake_expected (h : s.col.rxSeq = some f.seq ∨ s.col.rxSeq = none)
    (none : (State.colAct { s with col.rxSeq := some ((f.seq + 1) % 65536) } delay f).col.ahead = []) :
    s.colTake delay f = State.colAct { s with col.rxSeq := some ((f.seq + 1) % 65536) } delay f := by
  have expected : s.col.rxSeq.getD f.seq = f.seq := by rcases h with h | h <;> rw [h] <;> rfl
  unfold State.colTake
  dsimp only
  rw [expected, if_pos (by omega)]
  exact runAhead_nothing _ none

theorem colTake_later {e : Nat} (h : s.col.rxSeq = some e) (pos : 0 < (f.seq + 65536 - e) % 65536)
    (half : (f.seq + 65536 - e) % 65536 < 32768) (fresh : s.col.ahead.any (fun g => g.seq == f.seq) = false) :
    s.colTake delay f = { s with col.ahead := s.col.ahead ++ [f] } := by
  unfold State.colTake
  rw [h]
  exact (if_neg (Nat.pos_iff_ne_zero.mp pos)).trans (if_pos ⟨half, by rw [fresh]; rfl⟩)

theorem colTake_earlier {e : Nat} (h : s.col.rxSeq = some e) (half : 32768 ≤ (f.seq + 65536 - e) % 65536) :
    s.colTake delay f = s := by
  unfold State.colTake
  rw [h]
  exact (if_neg (by omega : ¬(f.seq + 65536 - e) % 65536 = 0)).trans (if_neg fun c => absurd c.1 (Nat.not_lt.mpr half))

end Order

end Col

/-- Settles O52: the bytes spell the frame, so that what arrives is the frame that was sent. -/
theorem ridgeAndColFrames : Obligations.RidgeAndColFrames := by
  unfold Obligations.RidgeAndColFrames
  refine ⟨⟨?_, ?_⟩, ?_, ?_, ?_⟩
  · intro f e type hops src unit dst seq ack len
    exact ⟨ridgeOf_wire ⟨type, hops, src, unit, dst, seq, ack, len⟩ e, frameEnd_wire len e⟩
  · intro s rx port idle f type hops src unit dst seq ack len
    have fits : rx.frame.Fits := ⟨type, hops, src, unit, dst, seq, ack, len⟩
    refine ⟨fun ok => ?_, ridgeCrcError_wrong fits port idle, ridgeCrcError_stomped fits port idle⟩
    have right {n : Nat} (h : f.type = n) (late : Bool) : (Host.Outcome.next (s.ridgeType n rx late) : Out) =
        .next ((if f.type = 3 then s else s.rdgForward rx.east true f).ridgeFrame rx.east late f) :=
      congrArg Host.Outcome.next (ridgeType_right fits h ok port idle late)
    refine ⟨fun h => right h false, fun h late => right h late, fun h => right h false, fun h => right h false,
      fun h => right h false, fun h words => ?_, fun h => right h false, fun h => right h false, fun h => ?_,
      fun h => right h false⟩
    · exact congrArg Host.Outcome.next
        (ridgeType_right (s := { s with rdg.words := sput s.rdg.words rx.frame.src words }) fits h ok port idle false)
    · refine congrArg Host.Outcome.next ((if_pos h).trans ?_)
      rw [ridgeRx_received (if_pos ok) port idle, ridgeAt_right fits]
  · exact fun f type seq epoch tick len ok => ⟨colOf_bytes type seq epoch tick len _, colChecks_wire f ok⟩
  · intro s rx delay enabled up m1 m2 idle type seq epoch tick len t
    have arrived (d : Nat) : s.colRx rx d = s.colAt d (rx.frame.wire rx.ok) := colRx_received enabled up m1 m2 idle
    have read : colOf (rx.frame.wire rx.ok).bytes = rx.frame := colOf_bytes type seq epoch tick len _
    refine ⟨fun ok => ?_, fun wrong h => ?_⟩
    · have taken {n : Nat} (h : rx.frame.type = n) (d : Nat) : (Host.Outcome.next (s.colType n rx d) : Out) = .next (t d) := by
        refine congrArg Host.Outcome.next ((if_pos h).trans ?_)
        rw [arrived]
        unfold State.colAt
        rw [colChecks_wire, if_pos ok, read]
      exact ⟨fun h => taken h 0, fun h => taken h delay, fun h => taken h delay, fun h => taken h 0, fun h => taken h 0,
        fun h => taken h 0, fun h => taken h 0, fun h => taken h 0, fun h => taken h 0, fun h => taken h 0, fun h => taken h 0⟩
    · refine congrArg Host.Outcome.next ((if_pos h).trans ?_)
      rw [arrived]
      unfold State.colAt
      rw [colChecks_wire, if_neg (by rw [wrong]; decide)]
  · exact fun s delay f seq => ⟨fun h none => colTake_expected h none, fun e h pos half fresh => colTake_later h pos half fresh,
      fun e h half => colTake_earlier h half⟩

end Sys2Proof.Machine

end

-- ==== Sys2Proof/Proofs/LostStation.lean ====

section
-- In order, not in parallel: each parallel thread reserves its whole stack of the check's memory.
set_option Elab.async false

/-! SUPPORT. A station is lost while a frame to it stands for a ring number beyond the 32 rings: O53 asks the outcome of every
state, and the registers of ring 161 lie where the Ridge has its own. -/

namespace Sys2Proof.Machine

/-- A POSTED frame to station 1 waits for its acknowledgement, and completes a descriptor of ring 161. -/
def strayFrame : State := { State.reset with
  regs := [(Reg.RNG_PTR_TAIL 161, 1)]
  ring.started := [(161, ⟨⟨[], 0, 0, 0⟩, ⟨0, 0, 0, true, 0, 0, 0⟩⟩)]
  rdg.streams := [(1, { Stream.zero with unacked := [⟨0, 4, true, [], some 161, 0⟩] })] }

/-- The DONE bit of ring 161 joins the event of the lost station. -/
theorem strayFrame_event : (strayFrame.loseStation 1).fld Reg.RDG_EVT_STATION_LOST = 3 := by decide +kernel

/-- Refutes O53: the loss of a station ends its stream's frames, and in `strayFrame` the ring that one of them stands for
writes its DONE bit over the event. -/
theorem not_ridgeProcessData : ¬ Obligations.RidgeProcessData := by
  rintro ⟨-, -, -, -, -, -, -, -, lost, -⟩
  obtain ⟨-, -, event⟩ := lost strayFrame 1 (by decide)
  exact absurd event (by rw [strayFrame_event]; decide)

end Sys2Proof.Machine

end

-- ==== Sys2Proof/Proofs/RidgeStreams.lean ====

section
-- In order, not in parallel: each parallel thread reserves its whole stack of the check's memory.
set_option Elab.async false

/-! SUPPORT. The streams of the Ridge and the bridge over them. -/

namespace Sys2Proof.Machine

/-! ### Streams and contexts -/

section Parts
variable {s : State} {n m : Nat}

theorem stream_setStream (s : State) (n m : Nat) (x : Stream) : (s.setStream n x).stream m = if m = n then x else s.stream m :=
  sgetD_ssetD Stream.zero s.rdg.streams m n x

theorem stream_setStream_same (s : State) (n : Nat) (x : Stream) : (s.setStream n x).stream n = x :=
  (stream_setStream ..).trans (if_pos rfl)

theorem stream_bump (s : State) (k n : Nat) : (s.bump k).stream n = s.stream n := rfl

theorem ctxStat_rdg (s : State) (n : Nat) : (s.ctxStat n).rdg = s.rdg := by
  unfold State.ctxStat
  split <;> rfl

theorem setBctx_streams (s : State) (n : Nat) (x : BridgeCtx) (m : Nat) : (s.setBctx n x).stream m = s.stream m :=
  (congrArg (fun r : Ridge => sgetD Stream.zero r.streams m)
    (ctxStat_rdg { s with rdg.ctx := ssetD BridgeCtx.zero s.rdg.ctx n x } n) :)

theorem bctx_setBctx (s : State) (n m : Nat) (x : BridgeCtx) : (s.setBctx n x).bctx m = if m = n then x else s.bctx m := by
  have kept : (s.setBctx n x).bctx m = sgetD BridgeCtx.zero (ssetD BridgeCtx.zero s.rdg.ctx n x) m :=
    congrArg (fun r : Ridge => sgetD BridgeCtx.zero r.ctx m)
      (ctxStat_rdg { s with rdg.ctx := ssetD BridgeCtx.zero s.rdg.ctx n x } n)
  rw [kept, sgetD_ssetD]
  rfl

theorem bctx_setBctx_same (s : State) (n : Nat) (x : BridgeCtx) : (s.setBctx n x).bctx n = x :=
  (bctx_setBctx ..).trans (if_pos rfl)

/-- Sending on the Ridge moves nothing but the acknowledgement owed. -/
theorem rdgBoth_sent (s : State) (f : RidgeFrame) : Sent logBase s (s.rdgBoth f) := by
  have emit {t : State} (h : Sent logBase s t) (east : Bool) : Sent logBase s (t.rdgEmit east true f) := by
    unfold State.rdgEmit
    split
    · exact h.transmit ..
    · exact h
  exact emit (emit (.refl s) true) false

theorem rdgTo_stream (s : State) (type n seq : Nat) (sync : Bool) (p : List Byte) :
    (s.rdgTo type n seq sync p).stream n = { s.stream n with ackDue := false } := by
  have sent := rdgBoth_sent s (s.rdgFrame type n seq sync p)
  unfold State.rdgTo
  rw [stream_setStream_same]
  unfold State.stream
  rw [sent.rdg]

theorem rdgTo_bctx (s : State) (type n seq : Nat) (sync : Bool) (p : List Byte) (m : Nat) :
    (s.rdgTo type n seq sync p).bctx m = s.bctx m := by
  have sent := rdgBoth_sent s (s.rdgFrame type n seq sync p)
  exact (congrArg (fun r : Ridge => sgetD BridgeCtx.zero r.ctx m) sent.rdg :)

theorem fld_rdgTo (s : State) (type n seq : Nat) (sync : Bool) (p : List Byte) {k : Nat} (hk : k < logBase) :
    (s.rdgTo type n seq sync p).fld k = s.fld k :=
  (rdgBoth_sent s (s.rdgFrame type n seq sync p)).fld k hk

theorem streamSend_unacked (s : State) (n type : Nat) (p : List Byte) (ring : Option Nat) (offset : Nat) :
    ((s.streamSend n type p ring offset).stream n).unacked.length = (s.stream n).unacked.length + 1 := by
  unfold State.streamSend
  dsimp only
  rw [rdgTo_stream, stream_setStream_same]
  exact List.length_append

theorem streamSend_bctx (s : State) (n type : Nat) (p : List Byte) (ring : Option Nat) (offset m : Nat) :
    (s.streamSend n type p ring offset).bctx m = s.bctx m := rdgTo_bctx ..

end Parts

/-! ### Frames received -/

section Received
variable {s : State} {f : RidgeFrame} {n : Nat}

theorem ridgeFrame_stream {east late : Bool} (lo : 4 ≤ f.type) (hi : f.type ≤ 9) (own : s.rdgOwn f = false)
    (peer : s.streamPeer f = true) (still : (s.streamAck f.src f).streamPeer f = true) : s.ridgeFrame east late f =
      if ((s.streamAck f.src f).streamTake f.src f).2 = true then
        ((s.streamAck f.src f).streamTake f.src f).1.streamAct f.src f
      else ((s.streamAck f.src f).streamTake f.src f).1 := by
  unfold State.ridgeFrame
  rw [if_neg (by omega), if_neg (fun c => by omega), if_neg (by rw [own]; decide), if_neg (by omega)]
  dsimp only
  rw [if_pos peer, if_neg (by omega), if_pos ⟨lo, hi, still⟩]

theorem ridgeFrame_ack {east late : Bool} (type : f.type = 10) (own : s.rdgOwn f = false) (peer : s.streamPeer f = true) :
    s.ridgeFrame east late f = s.streamAck f.src f := by
  unfold State.ridgeFrame
  rw [if_neg (by omega), if_neg (fun c => by omega), if_neg (by rw [own]; decide), if_neg (by omega)]
  dsimp only
  rw [if_pos peer, if_neg (by omega), if_neg (fun c => by omega)]

theorem streamAck_none (h : f.ackv = false) : s.streamAck n f = s := if_pos (by rw [h]; rfl)

theorem streamTake_inOrder (h : (s.stream n).expect = some f.seq ∨ (f.sync = true ∧ (s.stream n).opened ≠ some f.seq)) :
    s.streamTake n f = ((s.setStream n { s.stream n with
      expect := some ((f.seq + 1) % 65536), last := some f.seq, ackDue := true
      opened := if f.sync = true then some f.seq else (s.stream n).opened }).bump Reg.RDG_RXCNT, true) := if_pos h

theorem streamTake_repeat (h : ¬((s.stream n).expect = some f.seq ∨ (f.sync = true ∧ (s.stream n).opened ≠ some f.seq))) :
    s.streamTake n f = (s.bump Reg.RDG_DUPCNT, false) := if_neg h

theorem streamAct_spur (h : s.isManager = false) : (f.type = 4 → s.streamAct n f = s.postedIn f.payload) ∧
    (f.type = 5 → s.streamAct n f = s.requestIn f.payload) ∧ (f.type = 7 → s.streamAct n f = s.tunnelIn n f.payload) := by
  unfold State.streamAct
  rw [h]
  refine ⟨fun e => ?_, fun e => ?_, fun e => ?_⟩ <;> rw [e] <;> rfl

theorem streamAct_summit (h : s.isManager = true) : (f.type = 6 → s.streamAct n f = s.completionIn n f.payload) ∧
    (f.type = 7 → s.streamAct n f = s.tunnelIn n f.payload) ∧ (f.type = 8 → s.streamAct n f = s.irqIn n f.payload) := by
  unfold State.streamAct
  rw [h]
  refine ⟨fun e => ?_, fun e => ?_, fun e => ?_⟩ <;> rw [e] <;> rfl

theorem streamAct_msg (h : f.type = 9) : s.streamAct n f = s.relayReply f.payload := by
  unfold State.streamAct
  cases s.isManager <;> rw [h] <;> rfl

end Received

/-! ### A Spur performs -/

section Spur
variable {s : State}

theorem requestService_word {q : QueuedRequest} {rest : List QueuedRequest} (worker : s.isWorker = true) (on : s.rdgOn = true)
    (asked : s.rdg.requests = q :: rest) (word : q.line = false) :
    let u : State := { s with rdg.requests := rest }
    let r := u.spurRead q.addr (codeSize q.size)
    exec .requestService s =
      .next (r.1.sendCompletion q.tag r.2.1 q.addr (if r.2.1 = 0 then leBytes 8 r.2.2.toNat else [])) := by
  refine congrArg Host.Outcome.next ((if_pos (by rw [worker, on]; rfl)).trans ?_)
  unfold State.serveRequest
  rw [asked]
  exact if_neg (by rw [word]; decide)

theorem requestIn_room (room : s.rdg.requests.length < 16) (p : List Byte) : (s.requestIn p).rdg.requests =
    s.rdg.requests ++ [⟨leAt p 0 4, leAt p 4 1, leAt p 5 1, bitAt (leAt p 6 1) 0 == 1⟩] ∧ (s.requestIn p).regs = s.regs := by
  unfold State.requestIn
  dsimp only
  rw [if_pos room]
  exact ⟨rfl, rfl⟩

theorem spur_misaligned {addr size w : Nat} {a : Arr} (at_ : decodeAddr s.slotNo addr true = .mem a w) (odd : addr % size ≠ 0) :
    s.spurRead addr size = (s, 4, 0) ∧ ∀ d, s.spurWrite addr size d = (s, 4) := by
  refine ⟨?_, fun d => ?_⟩
  · unfold State.spurRead
    dsimp only
    rw [at_]
    exact if_pos odd
  · unfold State.spurWrite
    rw [at_]
    exact if_pos odd

theorem readWord_cls (a : Arr) (w : Nat) (m : Master) : (s.readWord a w m).2.1 = (s.mem.code a w).cls w := by
  unfold State.readWord
  dsimp only
  split <;> rfl

theorem spurRead_word {addr size w : Nat} {a : Arr} (at_ : decodeAddr s.slotNo addr true = .mem a w) (even : addr % size = 0)
    (ok : ((s.mem.code a w).cls w).ok = true) :
    (s.spurRead addr size).2 = (0, byteLane (s.readWord a w .bridge).2.2 addr size) := by
  unfold State.spurRead
  dsimp only
  rw [at_]
  dsimp only
  rw [if_neg (by omega), readWord_cls, if_pos ok]

end Spur

/-! ### The Summit's loads -/

section Loads
variable {s : State} {n : Nat} {l : BridgeLoad}

/-- A completion that answers the outstanding load (R346). -/
theorem completionIn_load {p : List Byte} (load : (s.bctx n).load = some l) (tag : l.tag = leAt p 0 1) (mine : l.tag ≠ 0xFF)
    (waits : l.done = none) :
    (leAt p 1 1 = 0 → l.line = false → s.completionIn n p = s.endLoad n 0 (BitVec.ofNat 64 (leAt p 8 8))) ∧
    (leAt p 1 1 = 0x80 → l.retries < s.retryLimit → ((s.completionIn n p).bctx n).load =
      some { l with retries := l.retries + 1, backoff := true }) ∧
    (leAt p 1 1 = 0x80 → s.retryLimit ≤ l.retries → s.completionIn n p = (s.bump Reg.BRG_RETRYCNT).endLoad n 6 0) ∧
    (leAt p 1 1 ≠ 0x80 → leAt p 1 1 ≠ 0 → s.completionIn n p = s.endLoad n (leAt p 1 1) 0) := by
  have asked : (s.bctx n).load.filter (fun l => decide (l.tag = leAt p 0 1) && l.done.isNone) = some l := by
    rw [load]
    exact Option.filter_some_pos (by rw [decide_eq_true tag, waits]; rfl)
  have limit : (s.bump Reg.BRG_RETRYCNT).retryLimit = s.retryLimit := congrArg BitVec.toNat (fld_bump_other (by decide))
  unfold State.completionIn
  dsimp only
  rw [if_neg (by rw [← tag]; exact mine), asked]
  dsimp only
  rw [limit]
  refine ⟨fun st word => ?_, fun st more => ?_, fun st none => ?_, fun retry st => ?_⟩
  · rw [if_neg (by omega), if_neg (by omega), if_neg (by rw [word]; decide)]
  · rw [if_pos st, if_pos more, bctx_setBctx_same]
  · rw [if_pos st, if_neg (by omega)]
  · rw [if_neg retry, if_pos st]

theorem endLoad_waiting (load : (s.bctx n).load = some l) (waits : l.done = none) (st : Nat) (d : DWord) : s.endLoad n st d =
    (if st = 0 then s.setBctx n { s.bctx n with load := some { l with done := some (st, d), backoff := false } }
     else (s.setBctx n { s.bctx n with load := some { l with done := some (st, d), backoff := false } }).farError n l.offset st
       false) := by
  unfold State.endLoad
  rw [load]
  exact if_neg (by rw [waits]; decide)

theorem farError_rdg (off code : Nat) : (s.farError n off code false).rdg = s.rdg := report_rdg ..

theorem endLoad_done (load : (s.bctx n).load = some l) (waits : l.done = none) (st : Nat) (d : DWord) :
    ((s.endLoad n st d).bctx n).load = some { l with done := some (st, d), backoff := false } := by
  rw [endLoad_waiting load waits]
  split
  · rw [bctx_setBctx_same]
  · unfold State.bctx
    rw [farError_rdg]
    exact congrArg BridgeCtx.load (bctx_setBctx_same ..)

/-- The registers of the pending counts lie apart from those of the far errors. -/
theorem fld_setBctx (x : BridgeCtx) {k : Nat} (h1 : k ≠ Reg.BRG_STAT_NP_OUT n) (h2 : k ≠ Reg.BRG_STAT_POSTED_OUT n)
    (h3 : k ≠ Reg.BRG_STAT_LINE_VALID n) : (s.setBctx n x).fld k = s.fld k := by
  unfold State.setBctx State.ctxStat
  split
  · dsimp only
    rw [fld_flag_other h3, fld_setFld_other h2, fld_setFld_other h1, fld_with]
  · rfl

theorem farError_shown (h1 : 1 ≤ n) (h63 : n ≤ 63) (off code : Nat) :
    (s.farError n off code false).fld (Reg.BRG_FAR_CODE n) = BitVec.ofNat 32 code ∧
      (s.farError n off code false).fld (Reg.BRG_FAR_WRITE n) = 0 ∧
      (s.farError n off code false).fld (Reg.BRG_FARCNT n) = satAdd (s.fld (Reg.BRG_FARCNT n)) 1 ∧
      (s.farError n off code false).fld Reg.BRG_EVT_FAR = 1 := by
  have notLog (o b : Nat) (ho : o < 0x1000) (hb : b < 32) : logKey (fk 0x11 o b) = false := by
    unfold logKey
    rw [fk_page _ _ _ ho hb]
    rfl
  have code1 : Reg.BRG_FAR_CODE n ≠ Reg.BRG_EVT_FAR ∧ Reg.BRG_FAR_CODE n ≠ Reg.BRG_FARCNT n ∧ Reg.BRG_FAR_CODE n ≠ Reg.BRG_FAR_WRITE n := by
    unfold Reg.BRG_FAR_CODE Reg.BRG_EVT_FAR Reg.BRG_FARCNT Reg.BRG_FAR_WRITE fk
    omega
  have write1 : Reg.BRG_FAR_WRITE n ≠ Reg.BRG_EVT_FAR ∧ Reg.BRG_FAR_WRITE n ≠ Reg.BRG_FARCNT n := by
    unfold Reg.BRG_FAR_WRITE Reg.BRG_EVT_FAR Reg.BRG_FARCNT fk
    omega
  have count1 : Reg.BRG_FARCNT n ≠ Reg.BRG_EVT_FAR ∧ Reg.BRG_FARCNT n ≠ Reg.BRG_FAR_WRITE n ∧ Reg.BRG_FARCNT n ≠ Reg.BRG_FAR_CODE n ∧
      Reg.BRG_FARCNT n ≠ Reg.BRG_FAR_OFFSET n := by
    unfold Reg.BRG_FARCNT Reg.BRG_EVT_FAR Reg.BRG_FAR_WRITE Reg.BRG_FAR_CODE Reg.BRG_FAR_OFFSET fk
    omega
  have shown (k : Nat) (hk : logKey k = false) : (s.farError n off code false).fld k = ((((((s.setFld (Reg.BRG_FAR_OFFSET n)
      (BitVec.ofNat 32 (off % 2 ^ 24))).setFld (Reg.BRG_FAR_CODE n) (BitVec.ofNat 32 code)).flag (Reg.BRG_FAR_WRITE n) false).bump
      (Reg.BRG_FARCNT n)).flag Reg.BRG_EVT_FAR true)).fld k := fld_report _ _ _ _ _ _ _ (by decide) hk
  refine ⟨?_, ?_, ?_, ?_⟩
  · rw [shown (Reg.BRG_FAR_CODE n) (notLog _ _ (by omega) (by decide)), fld_flag_other code1.1, fld_bump_other code1.2.1, fld_flag_other code1.2.2,
      fld_setFld_same]
  · rw [shown (Reg.BRG_FAR_WRITE n) (notLog _ _ (by omega) (by decide)), fld_flag_other write1.1, fld_bump_other write1.2, fld_flag_same]
    rfl
  · rw [shown (Reg.BRG_FARCNT n) (notLog _ _ (by omega) (by decide)), fld_flag_other count1.1, fld_bump_same, fld_flag_other count1.2.1,
      fld_setFld_other count1.2.2.1, fld_setFld_other count1.2.2.2]
  · rw [shown _ (by decide), fld_flag_same]
    rfl

theorem endLoad_far (h1 : 1 ≤ n) (h63 : n ≤ 63) (load : (s.bctx n).load = some l) (waits : l.done = none) {st : Nat} (d : DWord)
    (bad : st ≠ 0) : (s.endLoad n st d).fld (Reg.BRG_FAR_CODE n) = BitVec.ofNat 32 st ∧
      (s.endLoad n st d).fld (Reg.BRG_FAR_WRITE n) = 0 ∧
      (s.endLoad n st d).fld (Reg.BRG_FARCNT n) = satAdd (s.fld (Reg.BRG_FARCNT n)) 1 ∧
      (s.endLoad n st d).fld Reg.BRG_EVT_FAR = 1 := by
  have keys : Reg.BRG_FARCNT n ≠ Reg.BRG_STAT_NP_OUT n ∧ Reg.BRG_FARCNT n ≠ Reg.BRG_STAT_POSTED_OUT n ∧
      Reg.BRG_FARCNT n ≠ Reg.BRG_STAT_LINE_VALID n := by
    unfold Reg.BRG_FARCNT Reg.BRG_STAT_NP_OUT Reg.BRG_STAT_POSTED_OUT Reg.BRG_STAT_LINE_VALID fk
    omega
  rw [endLoad_waiting load waits, if_neg bad]
  obtain ⟨code, write, count, event⟩ := farError_shown
    (s := s.setBctx n { s.bctx n with load := some { l with done := some (st, d), backoff := false } }) h1 h63 l.offset st
  exact ⟨code, write, count.trans (by rw [fld_setBctx _ keys.1 keys.2.1 keys.2.2]), event⟩

theorem endLoad_others {m : Nat} (hm : m ≠ n) (st : Nat) (d : DWord) : (s.endLoad n st d).bctx m = s.bctx m := by
  unfold State.endLoad
  split
  · split
    · rfl
    · dsimp only
      split
      · exact (bctx_setBctx ..).trans (if_neg hm)
      · unfold State.bctx
        rw [farError_rdg]
        exact (bctx_setBctx ..).trans (if_neg hm)
  · rfl

theorem retryBackoff_resends (load : (s.bctx n).load = some l) (backoff : l.backoff = true) (reach : s.reach n = true) :
    ∃ t, exec (.retryBackoff n) s = .next t ∧ (t.bctx n).load = some { l with backoff := false } ∧
      (t.stream n).unacked.length = (s.stream n).unacked.length + 1 ∧ t.mem = s.mem := by
  have due : (s.bctx n).load.filter (·.backoff) = some l := by
    rw [load]
    exact Option.filter_some_pos backoff
  have step : exec (.retryBackoff n) s = .next ((s.setBctx n { s.bctx n with load := some { l with backoff := false } }).streamSend n 5
      (leBytes 4 l.addr ++ [BitVec.ofNat 8 l.size, BitVec.ofNat 8 l.tag, BitVec.ofNat 8 (b2n l.line), 0]) none l.offset) := by
    show Host.Outcome.next _ = _
    dsimp only
    rw [due]
    exact congrArg Host.Outcome.next (if_pos reach)
  refine ⟨_, step, ?_, ?_, ?_⟩
  · rw [streamSend_bctx, bctx_setBctx_same]
  · rw [streamSend_unacked, setBctx_streams]
  · rw [streamSend_mem, setBctx_mem]

/-- A load that has waited too long ends (R346). -/
def State.cplDue (s : State) (i : Nat) : State :=
  match (s.bctx (i + 1)).load with
  | some l => if l.done.isNone ∧ l.since + s.cplTimeout ≤ s.time.tick then s.endLoad (i + 1) 7 0 else s
  | none => s

theorem cplDue_none {i : Nat} (h : (s.bctx (i + 1)).load = none) : s.cplDue i = s := by
  unfold State.cplDue
  rw [h]

theorem cplTimeout_fold : exec .cplTimeout s = .next ((List.range 63).foldl State.cplDue s) := rfl

theorem cplTimeout_due (h1 : 1 ≤ n) (h63 : n ≤ 63) (load : (s.bctx n).load = some l) (waits : l.done = none)
    (due : l.since + s.cplTimeout ≤ s.time.tick) (others : ∀ m, m ≠ n → (s.bctx m).load = none) :
    exec .cplTimeout s = .next (s.endLoad n 7 0) := by
  obtain ⟨m, rfl⟩ : ∃ m, n = m + 1 := ⟨n - 1, by omega⟩
  have ends : s.cplDue m = s.endLoad (m + 1) 7 0 := by
    unfold State.cplDue
    rw [load]
    exact if_pos ⟨by rw [waits]; rfl, due⟩
  rw [cplTimeout_fold]
  refine congrArg Host.Outcome.next (foldl_range_one (m := m) (by omega) (fun i hi => cplDue_none (others _ (by omega))) ends
    fun i hi hn => cplDue_none ?_)
  rw [endLoad_others (by omega)]
  exact others _ (by omega)

theorem cplTimeout_early (load : (s.bctx n).load = some l) (early : s.time.tick < l.since + s.cplTimeout)
    (others : ∀ m, m ≠ n → (s.bctx m).load = none) : exec .cplTimeout s = .next s := by
  have still (i : Nat) : s.cplDue i = s := by
    by_cases h : i + 1 = n
    · unfold State.cplDue
      rw [h, load]
      exact if_neg fun c => absurd c.2 (by omega)
    · exact cplDue_none (others _ h)
  rw [cplTimeout_fold]
  exact congrArg Host.Outcome.next (List.foldl_fixed' still _)

end Loads

/-! ### Acknowledgement, repetition, interrupts and tunnels -/

section Traffic
variable {s : State} {n : Nat}

theorem ackDelay_sent (hn : n < 64) (due : (s.stream n).ackDue = true) (on : s.rdgOn = true) :
    ∃ t, exec (.ackDelay n) s = .next t ∧ (t.stream n).ackDue = false ∧ t.mem = s.mem :=
  ⟨_, congrArg Host.Outcome.next (if_pos ⟨hn, due, on⟩), by rw [rdgTo_stream], rdgTo_mem ..⟩

theorem streamRetransmit_one (hn : n < 64) {f : SentFrame} (reach : s.reach n = true) (one : (s.stream n).unacked = [f]) :
    ∃ t, exec (.streamRetransmit n) s = .next t ∧ t.fld Reg.RDG_RTXCNT = satAdd (s.fld Reg.RDG_RTXCNT) 1 ∧
      (t.stream n).unacked = [f] ∧ t.mem = s.mem := by
  have step : exec (.streamRetransmit n) s = .next ((s.rdgTo f.type n f.seq f.sync f.payload).bump Reg.RDG_RTXCNT) := by
    refine congrArg Host.Outcome.next ((if_pos ⟨hn, reach⟩).trans ?_)
    rw [one]
    rfl
  refine ⟨_, step, ?_, ?_, (bump_mem ..).trans (rdgTo_mem ..)⟩
  · rw [fld_bump_same, fld_rdgTo _ _ _ _ _ _ (by decide)]
  · rw [stream_bump, rdgTo_stream]
    exact one

theorem tunnelIn_unready {p : List Byte} (spur : s.isManager = false) (unready : s.tunnelReady (leAt p 0 2) = false) :
    s.tunnelIn n p = s.bump Reg.RDG_TUNDROPCNT := by
  unfold State.tunnelIn
  dsimp only
  rw [if_neg (by rw [spur]; decide), if_pos (.inl (by rw [unready]; rfl))]

end Traffic

/-! ### T7 takes the end -/

section Taken
variable {s : State}

theorem bridgeCompletion_taken {n off size st : Nat} {rt : BitVec 4} {d : DWord} {l : BridgeLoad} (cyclic : s.bestCyclic = none)
    (t8 : (s.ce.task 8).ready = false) (waits : (s.ce.task 7).waiting = some (.load n off rt size))
    (load : (s.bctx n).load = some l) (done : l.done = some (st, d)) {u : State}
    (hu : u = ((s.setBctx n { s.bctx n with load := none }).modTask 7 (fun t => { t with waiting := none })).dispatch) :
    (st = 0 → exec .bridgeCompletion s = .next (settle 7 (s.ce.task 7).ctx.pc
      (.done ((s.ce.task 7).ctx.loaded rt size d).next 6 u))) ∧
    (st ≠ 0 → exec .bridgeCompletion s = .next (settle 7 (s.ce.task 7).ctx.pc (.trap .bus 6 u))) := by
  have ended : (s.bctx n).load.bind (·.done) = some (st, d) := by
    rw [load]
    exact done
  have step : exec .bridgeCompletion s = .next (if st = 0 then settle 7 (s.ce.task 7).ctx.pc
      (.done ((s.ce.task 7).ctx.loaded rt size d).next 6 u) else settle 7 (s.ce.task 7).ctx.pc (.trap .bus 6 u)) := by
    show Host.Outcome.next _ = _
    dsimp only
    rw [waits]
    dsimp only
    rw [ended, hu]
    exact congrArg Host.Outcome.next (if_neg (by rw [cyclic, t8]; decide))
  exact ⟨fun h => step.trans (congrArg Host.Outcome.next (if_pos h)), fun h => step.trans (congrArg Host.Outcome.next (if_neg h))⟩

theorem bridgeFarError_taken (far : s.rdg.farPending = true) (cur : s.ce.cur = some 7) (free : s.bridgeWaits = false) :
    exec .bridgeFarError s = .next ((State.trap { s with rdg.farPending := false } 7 .storeError (s.ce.task 7).ctx.pc).dispatch) :=
  congrArg Host.Outcome.next (if_pos ⟨far, cur, by rw [free]; rfl⟩)

end Taken

/-- Settles O54: streams through their order, loads through the context they wait in. -/
theorem ridgeStreams : Obligations.RidgeStreams := by
  unfold Obligations.RidgeStreams
  refine ⟨?_, ?_, ?_, ?_, ?_, ?_, ?_, ?_, ?_, ?_, ?_, ?_, ?_⟩
  · intro s east late f lo hi own peer u still
    refine ⟨fun taken => ⟨?_, ?_⟩, fun again => ?_⟩
    · rw [ridgeFrame_stream lo hi own peer still, streamTake_inOrder taken]
      rfl
    · exact congrArg Stream.expect (stream_setStream_same ..)
    · rw [ridgeFrame_stream lo hi own peer still, streamTake_repeat again]
      rfl
  · exact fun s f n => ⟨fun h => streamAct_spur h, fun h => streamAct_summit h, fun h => streamAct_msg h⟩
  · refine fun s n f => ⟨fun h => streamAck_none h, fun type own peer east late => ?_⟩
    rw [ridgeFrame_ack type own peer]
    split
    · rfl
    · next h => exact streamAck_none (Bool.not_eq_true _ ▸ h)
  · exact fun s p => ⟨⟨fun h => if_pos h, fun h => if_neg h⟩,
      fun room => requestIn_room room p, fun full => if_neg (Nat.not_lt.mpr full)⟩
  · exact fun s q rest worker on asked word => requestService_word worker on asked word
  · exact fun s addr size a w at_ => ⟨fun odd => spur_misaligned at_ odd, fun even ok => spurRead_word at_ even ok⟩
  · exact fun s n p l load tag mine waits => completionIn_load load tag mine waits
  · exact fun s n st d l h1 h63 hst load waits =>
      ⟨endLoad_done load waits st d, endLoad_mem .., fun bad => endLoad_far h1 h63 load waits d bad⟩
  · exact fun s n l h1 h63 load => ⟨fun backoff reach => retryBackoff_resends load backoff reach,
      fun waits due others => cplTimeout_due h1 h63 load waits due others, fun early others => cplTimeout_early load early others⟩
  · exact fun s n hn => ⟨fun due on => ackDelay_sent hn due on, fun f reach one => streamRetransmit_one hn reach one⟩
  · exact fun s n p => ⟨rfl, fun spur unready => tunnelIn_unready spur unready⟩
  · exact fun s n off size st rt d cyclic t8 l waits load done => bridgeCompletion_taken cyclic t8 waits load done rfl
  · exact fun s far cur free => bridgeFarError_taken far cur free

end Sys2Proof.Machine

end

-- ==== Sys2Proof/Proofs/SwapInStep.lean ====

section
-- In order, not in parallel: each parallel thread reserves its whole stack of the check's memory.
set_option Elab.async false

/-! SUPPORT. A swap of the roles in a state that no run reaches: a mode change that waits ends on the way, and with it the store
buffer is emptied, behind which a post to a ring beyond the 32 rings waits; the halt bits of ring 193 lie where the pair has
its state (R284, R354, R373). -/

namespace Sys2Proof.Machine

/-- The standby at the tick of its swap, with a mode change that waits, one buffered store, and behind it a post to ring 193,
for which a frame waits and whose descriptors lie beyond the Protected Store. -/
def straySwap : State := { State.reset with
  mode := .standby
  regs := [(Reg.COL_STAT_STATE, colSyncStandby), (Reg.RNG_CFG_ENABLE 193, 1), (Reg.RNG_CFG_DIR 193, 1),
    (Reg.RNG_BASE_BASE 193, 0x200000)]
  ce.store := [⟨0x04400000, 4, 0, none⟩]
  ring.deferred := [(1, .post 193 1)]
  ring.hold := [(193, [⟨⟨[], 0, 0, 0⟩, false, false, 0, 0⟩])]
  sup.modeWait := some ⟨.run, none, false, .pair⟩
  col.swapAt := some 0 }

/-- The pair state that a step leaves. -/
def pairStateOf : Out → Nat
  | .next t => t.colState
  | _ => 0

/-- The halt bit of ring 193 joins the pair state 5. -/
theorem straySwap_pairState : pairStateOf (exec .swapTick straySwap) = 7 := by decide +kernel

/-- Refutes O56: in `straySwap` the swap ends the mode change that waits, the post behind the store halts ring 193, and the
pair is not shown as in step. -/
theorem not_pairInStep : ¬ Obligations.PairInStep := by
  rintro ⟨-, -, -, -, -, -, -, -, -, -, -, -, swap⟩
  obtain ⟨standby, -⟩ := swap straySwap (by decide) (by decide)
  obtain ⟨t, next, -, -, state, -⟩ := standby (by decide) (by decide) (by decide)
  have shown : pairStateOf (exec .swapTick straySwap) = colSyncActive := by rw [next]; exact state
  exact absurd (straySwap_pairState.symm.trans shown) (by decide)

end Sys2Proof.Machine

end

-- ==== Sys2Proof/Proofs/PairJoining.lean ====

section
-- In order, not in parallel: each parallel thread reserves its whole stack of the check's memory.
set_option Elab.async false

/-! SUPPORT. Finding a partner and joining it: what a Col frame that leaves changes, the registers of the pair that copying a page
keeps, and the ends of an epoch (R356 to R360, R365 to R368). -/

namespace Sys2Proof.Machine

/-- A part of the state that every step of a walk keeps, the walk keeps. -/
theorem foldl_part {α β : Type} (part : State → β) {f : State → α → State} (h : ∀ s x, part (f s x) = part s) (l : List α)
    (s : State) : part (l.foldl f s) = part s := by
  induction l generalizing s with
  | nil => rfl
  | cons x l ih => exact (ih _).trans (h s x)

/-! ### Frames that leave (R354, R356) -/

section Frames
variable {s : State}

/-- A frame on a Col link counts, changes lane, and is sent. -/
theorem colSend_sent (s : State) (type : Nat) (p : List Byte) :
    ∃ n l, Sent logBase { s with col.txSeq := n, col.lane := l } (s.colSend type p) := by
  unfold State.colSend
  split
  · exact ⟨s.col.txSeq, s.col.lane, Sent.refl s⟩
  · exact ⟨_, _, (Sent.refl _).transmit _ _⟩

theorem colSend_fld (type : Nat) (p : List Byte) {k : Nat} (hk : k < logBase) : (s.colSend type p).fld k = s.fld k := by
  obtain ⟨n, l, sent⟩ := colSend_sent s type p
  exact sent.fld k hk

theorem colSend_mode (type : Nat) (p : List Byte) : (s.colSend type p).mode = s.mode := by
  obtain ⟨n, l, sent⟩ := colSend_sent s type p
  exact sent.mode

theorem colSend_dirty (type : Nat) (p : List Byte) : (s.colSend type p).col.dirty = s.col.dirty := by
  obtain ⟨n, l, sent⟩ := colSend_sent s type p
  exact (congrArg Col.dirty sent.col :)

theorem colSend_joinSince (type : Nat) (p : List Byte) : (s.colSend type p).col.joinSince = s.col.joinSince := by
  obtain ⟨n, l, sent⟩ := colSend_sent s type p
  exact (congrArg Col.joinSince sent.col :)

/-- On a link that is up and holds no injection, the frame leaves as it was made. -/
theorem colSend_out {type : Nat} {p : List Byte} (up : s.colUp = true)
    (idle : s.fiActs (if s.colLane = true then linkCol2 else linkCol1) false = false) :
    ∃ f, (s.colSend type p).out = s.out ++ [.frame (if s.colLane = true then linkCol2 else linkCol1) (ColFrame.wire f true)] ∧
      f.type = type ∧ f.payload = p ∧ f.seq = s.col.txSeq ∧ f.active = (s.pairRole == 1) ∧
      (s.colSend type p).col.txSeq = (s.col.txSeq + 1) % 65536 ∧ (s.colSend type p).mem = s.mem := by
  have sends : s.colSend type p = _ := if_neg (by rw [up]; decide)
  have still (c : Col) : State.fiActs { s with col := c } (if s.colLane = true then linkCol2 else linkCol1) false = false := idle
  rw [sends]
  dsimp only
  rw [transmit_idle (still _)]
  exact ⟨_, rfl, rfl, rfl, rfl, rfl, rfl, rfl⟩

end Frames

/-! ### HELLO, and the search for a partner (R356, R358, R360) -/

section Partner
variable {s : State}

theorem pairRoleGo_idle (h : s.cmd.longOp = none) : s.pairRoleGo = s := by
  unfold State.pairRoleGo
  rw [h]

theorem helloIn_inactive {f : ColFrame} (op : s.cmd.longOp = none) (inactive : (helloOf f).active = false) :
    ∃ t, s.helloIn f = t ∧ t.col.partner = some (helloOf f) ∧
      t.fld Reg.COL_PARTNER_SERIAL = BitVec.ofNat 32 (helloOf f).serial ∧
      t.fld Reg.RDG_STAT_UNIT = b2w (decide ((helloOf f).serial < s.serial)) ∧ t.mode = s.mode ∧ t.mem = s.mem := by
  refine ⟨_, rfl, ?_⟩
  have taken : s.helloIn f = _ := if_neg (by rw [inactive]; exact fun h => absurd h.1 Bool.false_ne_true)
  rw [taken, pairRoleGo_idle (by exact op)]
  unfold State.setUnit
  refine ⟨rfl, ?_, ?_, rfl, rfl⟩
  · rw [fld_flag_other (by decide)]
    exact fld_setFld_same ..
  · have serial : State.serial ({ s with col.partner := some (helloOf f) }.setFld Reg.COL_PARTNER_SERIAL
        (BitVec.ofNat 32 (helloOf f).serial)) = s.serial := congrArg BitVec.toNat (fld_setFld_other (by decide))
    rw [fld_flag_same, serial]

theorem answerLong_mode (op : Nat) (a : Answer) : (s.answerLong op a).mode = s.mode := by
  unfold State.answerLong
  split
  · split
    · exact (shown_mode (finish_shown ..)).trans rfl
    · rfl
  · rfl

theorem setColState_colState (n : Nat) (h : n < 2 ^ 32 := by decide) : (s.setColState n).colState = n := by
  unfold State.colState State.setColState
  rw [fld_setFld_same, BitVec.toNat_ofNat, Nat.mod_eq_of_lt h]

theorem partnerSeekTimeout_alone (none : s.col.partner = none) (seeking : s.colState = colSeeking) :
    ∃ t, exec .partnerSeekTimeout s = .next t ∧ t.colState = colAlone ∧ t.mode = s.mode := by
  refine ⟨_, congrArg Host.Outcome.next (if_neg ?_), setColState_colState colAlone, answerLong_mode ..⟩
  rw [none, seeking]
  decide

end Partner

/-! ### The join at the active (R365, R367, R368) -/

section Serving
variable {s : State}

theorem epochOver_fld {record : Bool} {k : Nat} (count : k ≠ Reg.COL_JOINFAILCNT) (event : k ≠ Reg.COL_EVT_JOIN_ABORT)
    (dirty : k ≠ Reg.COL_DIRTY_PAGES) (log : logKey k = false) : (s.epochOver record).fld k = s.fld k := by
  have ends (t : State) (h : t.fld k = s.fld k) : (t.setDirty []).fld k = s.fld k := (fld_setFld_other dirty).trans h
  have flagged : ((s.bump Reg.COL_JOINFAILCNT).flag Reg.COL_EVT_JOIN_ABORT true).fld k = s.fld k :=
    (fld_flag_other event).trans (fld_bump_other count)
  unfold State.epochOver
  dsimp only
  split
  · exact (fld_report _ _ _ _ _ _ _ (by decide) log).trans (ends _ flagged)
  · exact ends _ flagged

/-- An epoch that ends is counted, sets its event, and no page waits any longer. -/
theorem epochOver_counts (record : Bool) : (s.epochOver record).fld Reg.COL_JOINFAILCNT = satAdd (s.fld Reg.COL_JOINFAILCNT) 1 ∧
    (s.epochOver record).fld Reg.COL_EVT_JOIN_ABORT = 1 ∧ (s.epochOver record).col.dirty = [] ∧
    (s.epochOver record).mem = s.mem ∧ (s.epochOver record).mode = s.mode := by
  let t := ((s.bump Reg.COL_JOINFAILCNT).flag Reg.COL_EVT_JOIN_ABORT true).setDirty []
  have dirty {k : Nat} (h : k ≠ Reg.COL_DIRTY_PAGES) :
      t.fld k = ((s.bump Reg.COL_JOINFAILCNT).flag Reg.COL_EVT_JOIN_ABORT true).fld k := fld_setFld_other h
  have count : t.fld Reg.COL_JOINFAILCNT = satAdd (s.fld Reg.COL_JOINFAILCNT) 1 := by
    rw [dirty (by decide), fld_flag_other (by decide), fld_bump_same]
  have event : t.fld Reg.COL_EVT_JOIN_ABORT = 1 := by
    rw [dirty (by decide), fld_flag_same]
    rfl
  refine ⟨?_, ?_, ?_, epochOver_mem s record, ?_⟩ <;> unfold State.epochOver <;> dsimp only <;> split
  · exact (fld_report _ _ _ _ _ _ _ (by decide) (by decide)).trans count
  · exact count
  · exact (fld_report _ _ _ _ _ _ _ (by decide) (by decide)).trans event
  · exact event
  · rw [report_col]
    rfl
  · rfl
  · rw [report_mode]
    rfl
  · rfl

/-- What the active leaves at the end of an epoch without a join. -/
theorem epochOver_alone (record : Bool) : ((s.epochOver record).setColState colAlone).colState = colAlone ∧
    ((s.epochOver record).setColState colAlone).fld Reg.COL_JOINFAILCNT = satAdd (s.fld Reg.COL_JOINFAILCNT) 1 ∧
    ((s.epochOver record).setColState colAlone).fld Reg.COL_EVT_JOIN_ABORT = 1 ∧
    ((s.epochOver record).setColState colAlone).col.dirty = [] ∧ ((s.epochOver record).setColState colAlone).mem = s.mem ∧
    ((s.epochOver record).setColState colAlone).mode = s.mode := by
  obtain ⟨count, event, dirty, mem, mode⟩ := epochOver_counts (s := s) record
  exact ⟨setColState_colState colAlone, (fld_setFld_other (by decide)).trans count, (fld_setFld_other (by decide)).trans event,
    dirty, mem, mode⟩

theorem joinTimeout_alone (serving : s.colState = colServing) (late : s.col.joinSince + s.joinTimeout * 1000000000 ≤ s.opNs) :
    ∃ t, exec .joinTimeout s = .next t ∧ t.colState = colAlone ∧ t.fld Reg.COL_JOINFAILCNT = satAdd (s.fld Reg.COL_JOINFAILCNT) 1 ∧
      t.fld Reg.COL_EVT_JOIN_ABORT = 1 ∧ t.col.dirty = [] ∧ t.mem = s.mem ∧ t.mode = s.mode := by
  refine ⟨_, congrArg Host.Outcome.next (if_pos ⟨serving, late⟩), ?_⟩
  obtain ⟨state, count, event, dirty, mem, mode⟩ := epochOver_alone (s := s.colSend 0x0B (leBytes 2 0x0800)) true
  refine ⟨state, count.trans ?_, event, dirty, mem.trans (colSend_mem ..), mode.trans (colSend_mode ..)⟩
  rw [colSend_fld _ _ (by decide)]

theorem abortIn_serving {f : ColFrame} (other : s.mode ≠ .joining) (serving : s.colState = colServing) :
    (s.abortIn f).colState = colAlone ∧ (s.abortIn f).fld Reg.COL_JOINFAILCNT = satAdd (s.fld Reg.COL_JOINFAILCNT) 1 ∧
    (s.abortIn f).mem = s.mem ∧ (s.abortIn f).mode = s.mode := by
  have ends : s.abortIn f = (s.epochOver true).setColState colAlone := (if_neg other).trans (if_pos serving)
  obtain ⟨state, count, -, -, mem, mode⟩ := epochOver_alone (s := s) true
  rw [ends]
  exact ⟨state, count, mem, mode⟩

/-- A new epoch, before its pages are listed. -/
def State.newEpoch (s : State) (delay : Nat) : State :=
  let t := ((s.dropStream.setFld Reg.COL_STAT_EPOCH (BitVec.ofNat 32 ((s.epoch + 1) % 65536))).setFld Reg.COL_STAT_ROUND 0).setFld
    Reg.COL_DELAY_DELAY (BitVec.ofNat 32 (delay % 65536))
  { t.setColState colServing with col.joinSince := t.opNs }

/-- A request to join begins a new epoch, in which every page is to be copied. -/
def State.beginEpoch (s : State) (delay : Nat) : State := (s.newEpoch delay).setDirty allPages

theorem fld_dropStream {k : Nat} (h : k ≠ Reg.COL_STAT_SWAP_PENDING) : s.dropStream.fld k = s.fld k := by
  have flagged : s.dropStream.fld k = s.cancelSwap.fld k := fld_eq_of_regs rfl
  exact flagged.trans (fld_flag_other h)

/-- The counts that a new epoch begins with. -/
theorem beginEpoch_shows (delay : Nat) : (s.beginEpoch delay).colState = colServing ∧
    (s.beginEpoch delay).epoch = (s.epoch + 1) % 65536 ∧ (s.beginEpoch delay).round = 0 ∧
    ((s.beginEpoch delay).fld Reg.COL_DELAY_DELAY).toNat = delay % 65536 := by
  have small (n : Nat) : (BitVec.ofNat 32 (n % 65536)).toNat = n % 65536 := by
    rw [BitVec.toNat_ofNat, Nat.mod_eq_of_lt (by omega)]
  unfold State.beginEpoch State.newEpoch State.setDirty State.setColState State.colState State.epoch State.round
  dsimp only
  refine ⟨?_, ?_, ?_, ?_⟩ <;> simp (disch := decide) only [fld_setFld_other, fld_setFld_same, fld_with, small] <;> rfl

theorem beginEpoch_opNs (delay : Nat) : (s.beginEpoch delay).col.joinSince = s.opNs := by
  have since (t : State) (ps : List Nat) : (t.setDirty ps).col.joinSince = t.col.joinSince := rfl
  unfold State.beginEpoch
  rw [since]
  unfold State.newEpoch State.opNs
  dsimp only
  simp (disch := decide) only [fld_setFld_other, fld_dropStream]
  rfl

theorem setDirty_dirty (t : State) (ps : List Nat) : (t.setDirty ps).col.dirty = ps := rfl

theorem setDirty_mode (t : State) (ps : List Nat) : (t.setDirty ps).mode = t.mode := rfl

theorem beginEpoch_mem (delay : Nat) : (s.beginEpoch delay).mem = s.mem := setDirty_mem (s.newEpoch delay) allPages
theorem beginEpoch_mode (delay : Nat) : (s.beginEpoch delay).mode = s.mode := setDirty_mode (s.newEpoch delay) allPages
theorem beginEpoch_dirty (delay : Nat) : (s.beginEpoch delay).col.dirty = allPages := setDirty_dirty ..

theorem joinReqIn_serves {f : ColFrame} {delay : Nat} (active : s.pairRole = 1) (serves : s.mode.serves = true)
    (free : s.colInjected = none) (serving : s.colState ≠ colServing) (small : delay < 65536) :
    (s.joinReqIn f delay).colState = colServing ∧ (s.joinReqIn f delay).epoch = (s.epoch + 1) % 65536 ∧
      (s.joinReqIn f delay).round = 0 ∧ (s.joinReqIn f delay).col.dirty = allPages ∧
      (s.joinReqIn f delay).col.joinSince = s.opNs ∧ ((s.joinReqIn f delay).fld Reg.COL_DELAY_DELAY).toNat = delay ∧
      (s.joinReqIn f delay).mem = s.mem ∧ (s.joinReqIn f delay).mode = s.mode := by
  let u := State.setUnit { s with col.partner := some (helloOf f) } (helloOf f)
  have same {k : Nat} (h : k ≠ Reg.RDG_STAT_UNIT) : u.fld k = s.fld k := fld_flag_other h
  have role : u.pairRole = s.pairRole := congrArg BitVec.toNat (same (by decide))
  have state : u.colState = s.colState := congrArg BitVec.toNat (same (by decide))
  have epoch : u.epoch = s.epoch := congrArg BitVec.toNat (same (by decide))
  have inject : u.colInjected = s.colInjected := by
    unfold State.colInjected State.fiArmed
    rw [same (by decide), same (by decide)]
  have time : u.opNs = s.opNs := by
    unfold State.opNs
    rw [same (by decide)]
    rfl
  have begins : s.joinReqIn f delay = (u.beginEpoch delay).colSend 0x03 (leBytes 4 0) := by
    unfold State.joinReqIn
    dsimp only
    rw [if_neg, show State.colInjected _ = none from inject.trans free]
    · dsimp only
      rw [if_neg (by exact state ▸ serving)]
      rfl
    · rw [show State.pairRole _ = 1 from role.trans active, show u.mode.serves = true from serves]
      decide
  obtain ⟨hstate, hepoch, hround, hdelay⟩ := beginEpoch_shows (s := u) delay
  rw [begins, colSend_mem, colSend_mode, colSend_dirty, colSend_joinSince, colSend_fld _ _ (by decide), hdelay,
    beginEpoch_opNs, beginEpoch_mem, beginEpoch_mode, beginEpoch_dirty, time, Nat.mod_eq_of_lt small]
  refine ⟨?_, ?_, ?_, rfl, rfl, rfl, rfl, rfl⟩
  · rw [← hstate]
    exact congrArg BitVec.toNat (colSend_fld _ _ (by decide))
  · rw [← epoch, ← hepoch]
    exact congrArg BitVec.toNat (colSend_fld _ _ (by decide))
  · rw [← hround]
    exact congrArg BitVec.toNat (colSend_fld _ _ (by decide))

end Serving

/-! ### The join at the joining unit (R365, R366) -/

section Joining
variable {s : State}

theorem joinAckIn_follows {f : ColFrame} {delay : Nat} (joining : s.mode = .joining) (ok : leAt f.payload 0 2 = 0)
    (he : f.epoch < 65536) (hd : delay < 65536) : (s.joinAckIn f delay).epoch = f.epoch ∧
      ((s.joinAckIn f delay).fld Reg.COL_DELAY_DELAY).toNat = delay ∧ (s.joinAckIn f delay).mem = s.mem ∧
      (s.joinAckIn f delay).mode = s.mode := by
  have taken : s.joinAckIn f delay = _ := (if_neg (not_not_intro joining)).trans (if_pos ok)
  rw [taken]
  unfold State.epoch
  refine ⟨?_, ?_, rfl, rfl⟩
  · rw [fld_setFld_other (by decide), fld_setFld_same, BitVec.toNat_ofNat]
    omega
  · rw [fld_setFld_same, BitVec.toNat_ofNat]
    omega

theorem colAct_copy {f : ColFrame} {delay : Nat} (epoch : f.epoch = s.epoch) (joining : s.mode = .joining) :
    (f.type = 4 → s.colAct delay f = s.putPage f.tick f.payload) ∧ (f.type = 5 → s.colAct delay f = s.takeCut f.payload) := by
  constructor <;> intro type <;> unfold State.colAct <;> rw [type] <;> exact if_pos ⟨beq_iff_eq.mpr epoch, joining⟩

/-- A word of the Protected Store that a page brings. -/
theorem putJoinWord_store (w : Nat) (bad : Bool) (v : Nat) :
    (s.putJoinWord 0 w bad v).mem.code .ps w = (if bad = true then poisonWord w else encodeWord w (BitVec.ofNat 64 v)) ∧
    ∀ x, x ≠ w → (s.putJoinWord 0 w bad v).mem.code .ps x = s.mem.code .ps x := by
  have written : s.putJoinWord 0 w bad v = if bad then s.poison .ps w else s.fullWrite .ps w (BitVec.ofNat 64 v) := rfl
  rw [written]
  cases bad with
  | true => exact ⟨(poison_code s .ps .ps w w).trans (if_pos rfl), fun x h => (poison_code s .ps .ps w x).trans (if_neg (by simpa using h))⟩
  | false => exact ⟨(fullWrite_code s .ps .ps w w _).trans (if_pos rfl),
      fun x h => (fullWrite_code s .ps .ps w x _).trans (if_neg (by simpa using h))⟩

/-- The tick and the publication count. -/
def State.ticksPub (s : State) : Nat × Nat := (s.time.tick, s.net.pubCount)

theorem setFld_ticksPub (k : Nat) (v : Word) : (s.setFld k v).ticksPub = s.ticksPub := rfl
theorem flag_ticksPub (k : Nat) (b : Bool) : (s.flag k b).ticksPub = s.ticksPub := rfl
theorem modTask_ticksPub (w : Who) (f : TaskRt → TaskRt) : (s.modTask w f).ticksPub = s.ticksPub := rfl
theorem cutTaken_ticksPub : State.ticksPub { s with col.cutTaken := true } = s.ticksPub := rfl
theorem rebaseAges_ticksPub (n : Nat) : (s.rebaseAges n).ticksPub = s.ticksPub := rfl

theorem takeCut_ticksPub (p : List Byte) : (s.takeCut p).ticksPub = (leAt p 0 8, leAt p 8 4) := by
  unfold State.takeCut
  dsimp only
  rw [cutTaken_ticksPub, modTask_ticksPub, foldl_part State.ticksPub fun _ _ => setFld_ticksPub .., foldl_part State.ticksPub
    fun _ _ => modTask_ticksPub .., setFld_ticksPub, foldl_part State.ticksPub fun _ _ => flag_ticksPub .., rebaseAges_ticksPub]
  rfl

theorem takeCut_takes (p : List Byte) : (s.takeCut p).time.tick = leAt p 0 8 ∧ (s.takeCut p).col.cutTaken = true ∧
    (s.takeCut p).net.pubCount = leAt p 8 4 ∧ (s.takeCut p).mem = s.mem :=
  ⟨(congrArg Prod.fst (takeCut_ticksPub (s := s) p) :), rfl, (congrArg Prod.snd (takeCut_ticksPub (s := s) p) :), takeCut_mem s p⟩

end Joining

/-! ### Copying (R365, R366) -/

/-- The registers of the pair other than the count of its dirty pages. -/
def pairKey (k : Nat) : Bool := decide (keyPage k = 0x12 ∧ k ≠ Reg.COL_DIRTY_PAGES)

theorem pairKey_page {k : Nat} (h : pairKey k = true) : keyPage k = 0x12 ∧ k ≠ Reg.COL_DIRTY_PAGES := of_decide_eq_true h

theorem pairKey_below {k : Nat} (h : pairKey k = true) : k < logBase := by
  obtain ⟨page, -⟩ := pairKey_page h
  unfold keyPage at page
  unfold logBase fk
  omega

theorem pairKey_read {k : Nat} (h : pairKey k = true) : readKey k = true := by
  obtain ⟨page, -⟩ := pairKey_page h
  unfold readKey
  rw [below_log (pairKey_below h), page]
  rfl

/-- Copying has led from `s` to `t`: the mode, the pages that wait, what the memory stores, and the registers of the pair. -/
structure Copied (s t : State) : Prop where
  mode : t.mode = s.mode
  dirty : t.col.dirty = s.col.dirty
  code : ∀ a w, t.mem.code a w = s.mem.code a w
  regs : Keeps pairKey s t

namespace Copied
variable {s t : State}

theorem refl (s : State) : Copied s s := ⟨rfl, rfl, fun _ _ => rfl, Keeps.refl s⟩

theorem trans {u : State} (h : Copied s t) (g : Copied t u) : Copied s u :=
  ⟨g.mode.trans h.mode, g.dirty.trans h.dirty, fun a w => (g.code a w).trans (h.code a w), h.regs.trans g.regs⟩

end Copied

section Copying
variable {s : State}

theorem countCe_col (a : Arr) (w : Nat) : (s.countCe a w).col = s.col := by
  unfold State.countCe
  cases a <;> simp

theorem countUe_col (a : Arr) (w : Nat) (c : Cls) (syn : Byte) (m : Master) : (s.countUe a w c syn m).col = s.col := by
  unfold State.countUe
  dsimp only
  (repeat' split) <;> simp

theorem account_col (a : Arr) (w : Nat) (m : Master) : (s.account a w m).col = s.col := by
  unfold State.account
  dsimp only
  split
  · rfl
  · exact countCe_col ..
  · exact countUe_col ..

theorem readWord_copied (a : Arr) (w : Nat) (m : Master) : Copied s (s.readWord a w m).1 where
  mode := ((Acquired.refl s).readWord a w m).mode
  dirty := by
    unfold State.readWord
    dsimp only
    split <;> exact congrArg Col.dirty (account_col a w m)
  code b x := readWord_code s a b w x m
  regs k hk := (Keeps.refl s).readWord a w m k (pairKey_read hk)

theorem joinWord_copied (r w : Nat) : Copied s (s.joinWord r w).1 := by
  unfold State.joinWord
  split
  · exact Copied.refl s
  · split
    · exact Copied.refl s
    · exact readWord_copied ..

theorem joinWords_copied (r : Nat) (ws : List Nat) : Copied s (s.joinWords r ws).1 := by
  induction ws generalizing s with
  | nil => exact Copied.refl s
  | cons w ws ih => exact (joinWord_copied r w).trans ih

theorem pagePayload_copied (key : Nat) : Copied s (s.pagePayload key).1 := by
  unfold State.pagePayload
  dsimp only
  split
  · exact Copied.refl s
  · split
    · exact Copied.refl s
    · generalize (List.range 512).map _ = ws
      exact joinWords_copied _ ws

theorem colSend_copied (type : Nat) (p : List Byte) : Copied s (s.colSend type p) where
  mode := colSend_mode ..
  dirty := colSend_dirty ..
  code a w := by rw [colSend_mem]
  regs k hk := colSend_fld type p (pairKey_below hk)

/-- One dirty page is sent, its mark cleared before it is read. -/
def State.sendPage (s : State) (k : Nat) : State :=
  let s := s.setDirty (s.col.dirty.filter (· != k))
  let q := s.pagePayload k
  q.1.colSend 0x04 q.2

theorem sendPage_copied (k : Nat) : Copied (s.setDirty (s.col.dirty.filter (· != k))) (s.sendPage k) :=
  (pagePayload_copied k).trans (colSend_copied ..)

theorem sendPage_dirty (k : Nat) : (s.sendPage k).col.dirty = s.col.dirty.filter (· != k) := (sendPage_copied k).dirty

theorem setDirty_pairKey {k : Nat} (h : pairKey k = true) (ps : List Nat) : (s.setDirty ps).fld k = s.fld k :=
  fld_setFld_other (pairKey_page h).2

/-- Sending some pages keeps the mode, the memory and the registers of the pair. -/
theorem sendPage_fold (ps : List Nat) : (ps.foldl State.sendPage s).mode = s.mode ∧
    (∀ a w, (ps.foldl State.sendPage s).mem.code a w = s.mem.code a w) ∧ Keeps pairKey s (ps.foldl State.sendPage s) := by
  induction ps generalizing s with
  | nil => exact ⟨rfl, fun _ _ => rfl, Keeps.refl s⟩
  | cons k ps ih =>
    obtain ⟨mode, code, regs⟩ := ih (s := s.sendPage k)
    obtain ⟨mode1, -, code1, regs1⟩ := sendPage_copied (s := s) k
    exact ⟨mode.trans mode1, fun a w => (code a w).trans (code1 a w),
      fun j hj => (regs j hj).trans ((regs1 j hj).trans (setDirty_pairKey hj _))⟩

/-- Pages that are not among those sent stay marked. -/
theorem sendPage_fold_dirty (ps : List Nat) : (ps.foldl State.sendPage s).col.dirty = s.col.dirty.filter (· ∉ ps) := by
  induction ps generalizing s with
  | nil => simp
  | cons k ps ih =>
    rw [List.foldl_cons, ih, sendPage_dirty, List.filter_filter]
    refine List.filter_congr fun x _ => ?_
    by_cases hx : x = k <;> simp [hx]

theorem sendPages_fold : s.sendPages = s.col.dirty.foldl State.sendPage s := rfl

theorem sendPages_dirty : s.sendPages.col.dirty = [] := by
  rw [sendPages_fold, sendPage_fold_dirty, List.filter_eq_nil_iff]
  simp

theorem joinCopyRound_sends (serving : s.colState = colServing) (more : s.round = 0 ∨ s.deltaPages < s.col.dirty.length) :
    ∃ t, exec .joinCopyRound s = .next t ∧ t.col.dirty = [] ∧ t.round = min 255 (s.round + 1) ∧
      ∀ a w, t.mem.code a w = s.mem.code a w := by
  obtain ⟨-, code, -⟩ := sendPage_fold (s := s) s.col.dirty
  refine ⟨_, congrArg Host.Outcome.next (if_pos ⟨serving, more⟩), sendPages_dirty, ?_, code⟩
  unfold State.round
  rw [fld_setFld_same, BitVec.toNat_ofNat, Nat.mod_eq_of_lt (by omega)]

/-- The last pages and the cut leave, and the pair is in step. -/
theorem finalDelta_inStep (serving : s.colState = colServing) (serves : s.mode.serves = true) (round : 1 ≤ s.round)
    (few : s.col.dirty.length ≤ s.deltaPages) (idle : s.bestCyclic = none) (free : (s.ce.task 7).waiting = none)
    (stays : s.ce.switchNow = false) (store : s.ce.store = []) :
    ∃ t, exec .finalDelta s = .next t ∧ t.colState = colSyncActive ∧ t.col.dirty = [] ∧ t.fld Reg.COL_EVT_JOIN_DONE = 1 ∧
      t.fld Reg.COL_JOINCNT = satAdd (s.fld Reg.COL_JOINCNT) 1 ∧ (∀ a w, t.mem.code a w = s.mem.code a w) ∧ t.mode = s.mode := by
  refine ⟨_, congrArg Host.Outcome.next (if_pos ⟨serving, serves, round, few, idle, free, stays⟩), ?_⟩
  rw [drainAll_nil store, sendPages_fold]
  dsimp only
  obtain ⟨mode, code, regs⟩ := sendPage_fold (s := s) s.col.dirty
  generalize s.col.dirty.foldl State.sendPage s = u at mode code regs
  obtain ⟨mode1, -, code1, regs1⟩ := colSend_copied (s := u) 0x05 u.cutPayload
  generalize u.colSend 0x05 u.cutPayload = v at mode1 code1 regs1
  have count : v.fld Reg.COL_JOINCNT = s.fld Reg.COL_JOINCNT := (regs1 _ (by decide)).trans (regs _ (by decide))
  unfold State.setColState State.colState State.setDirty
  refine ⟨?_, rfl, ?_, ?_, fun a w => (code1 a w).trans (code a w), mode1.trans mode⟩
  · rw [fld_flag_other (by decide), fld_bump_other (by decide), fld_setFld_same]
    rfl
  · rw [fld_flag_same]
    rfl
  · rw [fld_flag_other (by decide), fld_bump_same, fld_setFld_other (by decide), fld_setFld_other (by decide), fld_with,
      fld_dropStream (by decide), count]

end Copying

/-- Settles O55: each frame and each end of a join shows its registers and counts, and copying a page only reads it. -/
theorem pairJoin : Obligations.PairJoin := by
  unfold Obligations.PairJoin
  refine ⟨?_, ?_, ?_, ?_, ?_, ?_, ?_, ?_, ?_, ?_, ?_, ?_, ?_⟩
  · exact fun s test recovery apart => congrArg Host.Outcome.next (if_pos ⟨apart, test, recovery⟩)
  · exact fun s type p up idle => colSend_out up idle
  · exact fun s f op inactive => helloIn_inactive op inactive
  · exact fun s none seeking => partnerSeekTimeout_alone none seeking
  · exact fun s f delay active serves free serving small _ => joinReqIn_serves active serves free serving small
  · exact fun s f delay joining ok he hd => joinAckIn_follows joining ok he hd
  · exact fun s f delay epoch joining => colAct_copy epoch joining
  · exact fun s w bad v => putJoinWord_store w bad v
  · exact fun s p => takeCut_takes p
  · exact fun s serving more => joinCopyRound_sends serving more
  · exact fun s serving serves round few idle free stays store =>
      finalDelta_inStep serving serves round few idle free stays store
  · exact fun s serving late => joinTimeout_alone serving late
  · exact fun s f other serving => abortIn_serving other serving

end Sys2Proof.Machine

end

-- ==== Sys2Proof/Proofs/SafetyActions.lean ====

section
-- In order, not in parallel: each parallel thread reserves its whole stack of the check's memory.
set_option Elab.async false

/-! SUPPORT. What the safety functions do: a pair is switched off, an instance locks out, a pair or an input becomes faulty. Each
switches channels off and none on, writes the registers of its own page, and leaves the rest (R397 to R401). -/

namespace Sys2Proof.Machine

/-! ### Channels that are switched -/

/-- A key of the DRIVE bit of a channel, 1 to 256. -/
def driveKey (k : Nat) : Bool := decide (keyPage k = 0x13 ∧ keyOff k % 16 = 4 ∧ k % 32 = 1)

theorem driveKey_drive {n : Nat} (h : n ≤ 256) : driveKey (Reg.FCH_STAT_DRIVE n) = true := by
  unfold driveKey keyPage keyOff Reg.FCH_STAT_DRIVE fk
  exact decide_eq_true (by omega)

theorem ne_drive {k n : Nat} (hk : driveKey k = false) (h : n ≤ 256) : k ≠ Reg.FCH_STAT_DRIVE n := fun e => by
  rw [e, driveKey_drive h] at hk
  exact absurd hk (by decide)

theorem drive_inj {n m : Nat} (hn : 1 ≤ n) (hm : 1 ≤ m) (h : n ≠ m) : Reg.FCH_STAT_DRIVE n ≠ Reg.FCH_STAT_DRIVE m := by
  unfold Reg.FCH_STAT_DRIVE fk
  omega

section Drives
variable {s : State} {n : Nat}

/-- A switched channel shows how it is switched, and no other register changes. -/
theorem fld_drive (s : State) (n : Nat) (on : Bool) (k : Nat) :
    (s.drive n on).fld k = if k = Reg.FCH_STAT_DRIVE n then b2w on else s.fld k := by
  unfold State.drive
  split
  · next same => split <;> simp_all
  · exact fld_flag ..

theorem fld_drive_same (on : Bool) : (s.drive n on).fld (Reg.FCH_STAT_DRIVE n) = b2w on := by
  rw [fld_drive, if_pos rfl]

theorem fld_drive_other {on : Bool} {k : Nat} (h : k ≠ Reg.FCH_STAT_DRIVE n) : (s.drive n on).fld k = s.fld k := by
  rw [fld_drive, if_neg h]

theorem fld_drive_off {m : Nat} (h : s.fld (Reg.FCH_STAT_DRIVE m) = 0) : (s.drive n false).fld (Reg.FCH_STAT_DRIVE m) = 0 := by
  rw [fld_drive, h, show b2w false = 0 from rfl, ite_self]

theorem drive_mode (on : Bool) : (s.drive n on).mode = s.mode := by
  unfold State.drive
  split <;> rfl

theorem drive_sf (on : Bool) : (s.drive n on).sf = s.sf := by
  unfold State.drive
  split <;> rfl

end Drives

theorem leNat_single (b : Byte) : leNat [b] ≤ 255 := by
  have := b.isLt
  simp only [leNat]
  omega

/-- A byte of the safety parameters. -/
theorem sfp_byte (s : State) (off : Nat) : s.sfp off 1 ≤ 255 := leNat_single _

theorem soA_le (s : State) (k : Nat) : s.soA k ≤ 256 := (sfp_byte ..).trans (by decide)
theorem soB_le (s : State) (k : Nat) : s.soB k ≤ 256 := (sfp_byte ..).trans (by decide)

/-! ### What a safety action leaves -/

/-- The state without what a safety action may change: registers, records, the waits of channels, pairs, and lock numbers. -/
def State.sfAside (s : State) : State :=
  { s with regs := [], cairn := State.reset.cairn, field.chan := [], sf.so := [], sf.lockSeq := State.reset.sf.lockSeq }

/-- The registers that a safety action leaves: all but the DRIVE bits, the unit's own page, and the records. -/
def unitKey (k : Nat) : Bool := !driveKey k && keyPage k != 0x15 && !logKey k

/-- A safety action has led from `s` to `t`: it switched nothing on, and no pair lost its fault. -/
structure Stopped (s t : State) : Prop where
  aside : t.sfAside = s.sfAside
  regs : Keeps unitKey s t
  off : ∀ n, n ≤ 256 → s.fld (Reg.FCH_STAT_DRIVE n) = 0 → t.fld (Reg.FCH_STAT_DRIVE n) = 0
  fault : ∀ k, (s.so k).fault = true → (t.so k).fault = true

theorem unitKey_log (k : Nat) (h : unitKey k = true) : logKey k = false := by
  simp only [unitKey, Bool.and_eq_true, Bool.not_eq_true'] at h
  exact h.2

theorem unitKey_drive {k : Nat} (h : unitKey k = true) : driveKey k = false := by
  simp only [unitKey, Bool.and_eq_true, Bool.not_eq_true'] at h
  exact h.1.1

theorem unitKey_own {k : Nat} (h : keyPage k = 0x15) : unitKey k = false := by
  unfold unitKey
  simp [h]

theorem drive_ne_own {n k : Nat} (h : keyPage k = 0x15) (hn : n ≤ 256) : Reg.FCH_STAT_DRIVE n ≠ k := by
  have page := of_decide_eq_true (driveKey_drive hn)
  intro e
  rw [e, h] at page
  exact absurd page.1 (by decide)

namespace Stopped
variable {s t u : State}

theorem refl (s : State) : Stopped s s := ⟨rfl, Keeps.refl s, fun _ _ h => h, fun _ h => h⟩

theorem trans (h : Stopped s t) (g : Stopped t u) : Stopped s u :=
  ⟨g.aside.trans h.aside, h.regs.trans g.regs, fun n hn e => g.off n hn (h.off n hn e), fun k e => g.fault k (h.fault k e)⟩

theorem mode (h : Stopped s t) : t.mode = s.mode := (congrArg State.mode h.aside :)
theorem mem (h : Stopped s t) : t.mem = s.mem := (congrArg State.mem h.aside :)
theorem img (h : Stopped s t) : t.img = s.img := (congrArg State.img h.aside :)
theorem bus (h : Stopped s t) : t.bus = s.bus := (congrArg State.bus h.aside :)
theorem inst (h : Stopped s t) (i : Nat) : t.inst i = s.inst i := (congrArg (fun x => x.inst i) h.aside :)
theorem si (h : Stopped s t) (i : Nat) : t.si i = s.si i := (congrArg (fun x => x.si i) h.aside :)
theorem sfp (h : Stopped s t) (o n : Nat) : t.sfp o n = s.sfp o n := (congrArg (fun x => x.sfp o n) h.aside :)
theorem soA (h : Stopped s t) (k : Nat) : t.soA k = s.soA k := h.sfp ..
theorem soB (h : Stopped s t) (k : Nat) : t.soB k = s.soB k := h.sfp ..

theorem soOwner (h : Stopped s t) (k : Nat) : t.soOwner k = s.soOwner k := by
  unfold State.soOwner State.ssUsed State.ssOut State.ss
  simp only [h.sfp]

/-- A register of the unit's own page. -/
theorem own (h : Stopped s t) {k : Nat} (hk : keyPage k = 0x15) (v : Word) : Stopped s (t.setFld k v) :=
  h.trans ⟨rfl, (Keeps.refl t).setFld (unitKey_own hk) v, fun _ hn e => (fld_setFld_other (drive_ne_own hk hn)).trans e, fun _ e => e⟩

theorem flag (h : Stopped s t) {k : Nat} (hk : keyPage k = 0x15) (b : Bool) : Stopped s (t.flag k b) := h.own hk _
theorem bump (h : Stopped s t) {k : Nat} (hk : keyPage k = 0x15) : Stopped s (t.bump k) := h.own hk _

theorem putBit (h : Stopped s t) {k : Nat} (hk : keyPage k = 0x15) (i : Nat) (b : Bool) : Stopped s (t.putBit k i b) := by
  unfold State.putBit
  split <;> exact h.own hk _

theorem report (h : Stopped s t) {cls : RecClass} {sev : Severity} {code sub inst : Nat} {p : List Byte} (hs : sub ≤ 255 := by decide) :
    Stopped s (t.report cls sev code (srcNo sub inst) p) := by
  refine h.trans ⟨?_, (Keeps.refl t).report unitKey_log hs, fun n hn e => ?_, fun k e => ?_⟩
  · unfold State.sfAside
    simp
  · have page := of_decide_eq_true (driveKey_drive hn)
    rw [fld_report _ _ _ _ _ _ _ hs (by unfold logKey; rw [page.1]; rfl), e]
  · unfold State.so at e ⊢
    rwa [report_sf]

theorem drive (h : Stopped s t) {n : Nat} (hn : n ≤ 256) : Stopped s (t.drive n false) := by
  refine h.trans ⟨?_, fun k hk => fld_drive_other (ne_drive (unitKey_drive hk) hn), fun m _ e => fld_drive_off e, fun k e => ?_⟩
  · unfold State.drive
    split <;> rfl
  · unfold State.so at e ⊢
    rwa [drive_sf]

/-- A change of a pair that keeps its fault. -/
theorem setSo (h : Stopped s t) (k : Nat) {x : SoRt} (hx : (t.so k).fault = true → x.fault = true) : Stopped s (t.setSo k x) := by
  refine h.trans ⟨rfl, Keeps.refl t, fun _ _ e => e, fun j e => ?_⟩
  show (sgetD SoRt.zero (ssetD SoRt.zero t.sf.so k x) j).fault = true
  rw [sgetD_ssetD]
  split
  · next same => exact hx (same ▸ e)
  · exact e

theorem soOff (h : Stopped s t) (k : Nat) : Stopped s (t.soOff k) := by
  unfold State.soOff
  split
  · exact h
  · exact ((h.setSo k (x := { t.so k with on := false, test := none, lowA := 0, lowB := 0 }) id).drive (soA_le ..)).drive (soB_le ..)

end Stopped

theorem sfState_page {i o l : Nat} (hi : i ≤ 200) (ho : o ≤ 0x100) (hl : l < 32) : keyPage (fk 0x15 (o + 0x10 * (i - 1)) l) = 0x15 := by
  unfold keyPage fk
  omega

section Locks
variable {s t : State} {i : Nat} (hi : i ≤ 4)
include hi

theorem Stopped.setSs (h : Stopped s t) (st : Nat) : Stopped s (t.setSs i st) :=
  ((h.own (sfState_page (by omega) (by decide) (by decide)) _).putBit (by decide) ..).putBit (by decide) ..

theorem Stopped.stoBit (h : Stopped s t) : Stopped s (t.stoBit i) := h.flag (sfState_page (by omega) (by decide) (by decide)) _

theorem Stopped.lockOut (h : Stopped s t) (c : LockCause) : Stopped s (t.lockOut i c) := by
  have cause {u : State} (h : Stopped s u) (v : Word) : Stopped s (u.setFld (Reg.SF_STATE_CAUSE i) v) :=
    h.own (sfState_page (by omega) (by decide) (by decide)) v
  have number {u : State} (h : Stopped s u) (x : Vector Nat 4) (v : Word) :
      Stopped s (State.setFld { u with sf.lockSeq := x } (Reg.SF_LOCKSEQ i) v) :=
    (h.trans ⟨rfl, Keeps.refl u, fun _ _ e => e, fun _ e => e⟩ : Stopped s { u with sf.lockSeq := x }).own
      (sfState_page (by omega) (by decide) (by decide)) v
  exact (((number (cause ((h.soOff _).setSs hi _) _) _ _).bump (by decide)).report).stoBit hi

theorem Stopped.faultLock (h : Stopped s t) (c : LockCause) : Stopped s (t.faultLock i c) := by
  unfold State.faultLock
  split
  · exact h.lockOut hi c
  · split
    · dsimp only
      split
      · exact (h.soOff _).own (sfState_page (by omega) (by decide) (by decide)) _
      · exact h.soOff _
    · exact h

end Locks

theorem soOwner_range {s : State} {k i : Nat} (h : s.soOwner k = some i) : 1 ≤ i ∧ i ≤ 4 ∧ s.ssOut i = k := by
  have mem := List.mem_of_find?_eq_some h
  have owns := List.find?_some h
  simp only [Bool.and_eq_true, beq_iff_eq] at owns
  simp only [List.mem_cons, List.not_mem_nil, or_false] at mem
  exact ⟨by omega, by omega, owns.2⟩

theorem Stopped.soFail {s t : State} (h : Stopped s t) (k : Nat) : Stopped s (t.soFail k) := by
  have off : Stopped s ((((t.setSo k { t.so k with fault := true }).soOff k).flag Reg.SF_EVT_SO_FAULT true).report .o .fault
      (evCode 12 399 0) (srcNo 12 k) [BitVec.ofNat 8 k]) := (((h.setSo k fun _ => rfl).soOff k).flag (by decide) _).report
  unfold State.soFail
  dsimp only
  split
  · next i owner =>
    obtain ⟨-, hi, -⟩ := soOwner_range owner
    exact (off.faultLock hi _).flag (sfState_page (by omega) (by decide) (by decide)) _
  · exact off

theorem Stopped.soReport {s t : State} (h : Stopped s t) (n : Nat) : Stopped s (t.soReport n) := by
  unfold State.soReport
  split
  · split
    · exact h.soFail _
    · exact h
  · exact h

end Sys2Proof.Machine

end

-- ==== Sys2Proof/Proofs/SafetyEvents.lean ====

section
-- In order, not in parallel: each parallel thread reserves its whole stack of the check's memory.
set_option Elab.async false

/-! SUPPORT. The events of the safety functions: what a lock-out shows, and the faults of pairs, inputs and speeds
(R397 to R401, R406). -/

namespace Sys2Proof.Machine

/-! ### A pair goes off -/

section Pairs
variable {s : State} {k : Nat}

theorem soOff_used (hk : k ≠ 0) (ha : s.soA k ≠ 0) : s.soOff k =
    ((s.setSo k { s.so k with on := false, test := none, lowA := 0, lowB := 0 }).drive (s.soA k) false).drive (s.soB k) false :=
  if_neg (by tauto)

theorem soOff_drive (hk : k ≠ 0) (ha : s.soA k ≠ 0) : (s.soOff k).fld (Reg.FCH_STAT_DRIVE (s.soA k)) = 0 ∧
    (s.soOff k).fld (Reg.FCH_STAT_DRIVE (s.soB k)) = 0 := by
  rw [soOff_used hk ha]
  exact ⟨fld_drive_off (fld_drive_same false), fld_drive_same false⟩

theorem soOff_fld {j : Nat} (hj : driveKey j = false) : (s.soOff k).fld j = s.fld j := by
  unfold State.soOff
  split
  · rfl
  · dsimp only
    rw [fld_drive_other (ne_drive hj (soB_le ..)), fld_drive_other (ne_drive hj (soA_le ..))]
    rfl

end Pairs

/-! ### A lock-out -/

/-- The registers that a lock-out writes, beside the records and the DRIVE bits. -/
def lockKeys (i : Nat) : List Nat := [Reg.SF_STATE_STATE i, Reg.SF_STATE_CAUSE i, Reg.SF_STATE_STO i, Reg.SF_LOCKSEQ i,
  Reg.SF_LOCKCNT, Reg.SF_STAT_LOCKED, Reg.SF_STAT_STOPPING]

theorem own_not_drive {k : Nat} (h : keyPage k = 0x15) : driveKey k = false := decide_eq_false fun e => by
  rw [h] at e
  exact absurd e.1 (by decide)

theorem own_not_log {k : Nat} (h : keyPage k = 0x15) : logKey k = false := by
  unfold logKey
  rw [h]
  rfl

section Lock
variable {s : State} {i : Nat} {c : LockCause}

theorem fld_stoBit {j : Nat} (h : j ≠ Reg.SF_STATE_STO i) : (s.stoBit i).fld j = s.fld j := fld_flag_other h

theorem fld_setSs {st j : Nat} (h1 : j ≠ Reg.SF_STATE_STATE i) (h2 : j ≠ Reg.SF_STAT_LOCKED) (h3 : j ≠ Reg.SF_STAT_STOPPING) :
    (s.setSs i st).fld j = s.fld j := by
  unfold State.setSs
  dsimp only
  rw [fld_putBit_other h3, fld_putBit_other h2, fld_setFld_other h1]

/-- The registers of an instance before it is counted and recorded as locked. -/
def State.locked (s : State) (i : Nat) (c : LockCause) : State :=
  let s := ((s.soOff (s.ssOut i)).setSs i stLocked).setFld (Reg.SF_STATE_CAUSE i) (BitVec.ofNat 32 c.code)
  let n := BitVec.ofNat 32 ((s.fld (Reg.SF_LOCKSEQ i)).toNat + 1)
  (State.setFld { s with sf.lockSeq := s.sf.lockSeq.setIfInBounds (i - 1) n.toNat } (Reg.SF_LOCKSEQ i) n).bump Reg.SF_LOCKCNT

theorem fld_lockOut {j : Nat} (hj : j ≠ Reg.SF_STATE_STO i) (hl : logKey j = false) : (s.lockOut i c).fld j = (s.locked i c).fld j := by
  unfold State.lockOut State.locked
  dsimp only
  rw [fld_stoBit hj, fld_report _ _ _ _ _ _ _ (by decide) hl]

theorem fld_locked {j : Nat} (count : j ≠ Reg.SF_LOCKCNT) (seq : j ≠ Reg.SF_LOCKSEQ i) (cause : j ≠ Reg.SF_STATE_CAUSE i) :
    (s.locked i c).fld j = ((s.soOff (s.ssOut i)).setSs i stLocked).fld j := by
  unfold State.locked
  dsimp only
  rw [fld_bump_other count, fld_setFld_other seq, fld_with, fld_setFld_other cause]

/-- What a lock-out does not write keeps its value. -/
theorem lockOut_keeps {j : Nat} (hj : j ∉ lockKeys i) (page : keyPage j = 0x15) : (s.lockOut i c).fld j = s.fld j := by
  simp only [lockKeys, List.mem_cons, List.not_mem_nil, or_false, not_or] at hj
  obtain ⟨state, cause, sto, seq, cnt, locked, stopping⟩ := hj
  rw [fld_lockOut sto (own_not_log page)]
  rw [fld_locked cnt seq cause, fld_setSs state locked stopping, soOff_fld (own_not_drive page)]

/-- The registers of an instance lie apart from each other and from those of the unit. -/
theorem lockKeys_apart (hi : 1 ≤ i) (hi4 : i ≤ 4) :
    (Reg.SF_STATE_STATE i ≠ Reg.SF_STATE_STO i ∧ Reg.SF_STATE_CAUSE i ≠ Reg.SF_STATE_STO i ∧ Reg.SF_LOCKSEQ i ≠ Reg.SF_STATE_STO i ∧
      Reg.SF_LOCKCNT ≠ Reg.SF_STATE_STO i ∧ Reg.SF_STAT_LOCKED ≠ Reg.SF_STATE_STO i ∧ Reg.SF_STAT_STOPPING ≠ Reg.SF_STATE_STO i) ∧
    (Reg.SF_STATE_STATE i ≠ Reg.SF_LOCKCNT ∧ Reg.SF_STATE_CAUSE i ≠ Reg.SF_LOCKCNT ∧ Reg.SF_LOCKSEQ i ≠ Reg.SF_LOCKCNT ∧
      Reg.SF_STATE_STATE i ≠ Reg.SF_LOCKSEQ i ∧ Reg.SF_STATE_CAUSE i ≠ Reg.SF_LOCKSEQ i ∧ Reg.SF_STAT_LOCKED ≠ Reg.SF_LOCKSEQ i ∧
      Reg.SF_STAT_STOPPING ≠ Reg.SF_LOCKSEQ i) ∧
    (Reg.SF_STATE_STATE i ≠ Reg.SF_STATE_CAUSE i ∧ Reg.SF_LOCKSEQ i ≠ Reg.SF_STATE_CAUSE i ∧ Reg.SF_STAT_LOCKED ≠ Reg.SF_STATE_CAUSE i ∧
      Reg.SF_STAT_STOPPING ≠ Reg.SF_STATE_CAUSE i ∧ Reg.SF_STATE_STATE i ≠ Reg.SF_STAT_LOCKED ∧
      Reg.SF_STATE_STATE i ≠ Reg.SF_STAT_STOPPING) := by
  unfold Reg.SF_STATE_STATE Reg.SF_STATE_CAUSE Reg.SF_STATE_STO Reg.SF_LOCKSEQ Reg.SF_LOCKCNT Reg.SF_STAT_LOCKED
    Reg.SF_STAT_STOPPING fk
  omega

/-- An instance put into LOCKED shows it. -/
theorem setSs_locked (hi : 1 ≤ i) (hi4 : i ≤ 4) : (s.setSs i stLocked).fld (Reg.SF_STATE_STATE i) = BitVec.ofNat 32 stLocked ∧
    (s.setSs i stLocked).bit Reg.SF_STAT_LOCKED (i - 1) = true ∧ (s.setSs i stLocked).bit Reg.SF_STAT_STOPPING (i - 1) = false := by
  obtain ⟨-, -, -, -, -, -, locked, stopping⟩ := lockKeys_apart hi hi4
  have small : i - 1 < 32 := by omega
  unfold State.setSs
  dsimp only
  refine ⟨?_, ?_, bit_putBit_same _ _ _ small⟩
  · rw [fld_putBit_other stopping, fld_putBit_other locked, fld_setFld_same]
  · have kept {t : State} {b : Bool} : (t.putBit Reg.SF_STAT_STOPPING (i - 1) b).bit Reg.SF_STAT_LOCKED (i - 1) =
        t.bit Reg.SF_STAT_LOCKED (i - 1) := congrArg (BitVec.getLsbD · _) (fld_putBit_other (by decide))
    rw [kept, bit_putBit_same _ _ _ small]
    rfl

/-- A lock-out numbers itself, counts, and shows the instance as locked with its cause. -/
theorem lockOut_shows (hi : 1 ≤ i) (hi4 : i ≤ 4) : (s.lockOut i c).ssState i = stLocked ∧
    (s.lockOut i c).fld (Reg.SF_STATE_CAUSE i) = BitVec.ofNat 32 c.code ∧
    (s.lockOut i c).fld (Reg.SF_LOCKSEQ i) = s.fld (Reg.SF_LOCKSEQ i) + 1 ∧
    (s.lockOut i c).fld Reg.SF_LOCKCNT = satAdd (s.fld Reg.SF_LOCKCNT) 1 ∧
    (s.lockOut i c).bit Reg.SF_STAT_LOCKED (i - 1) = true ∧ (s.lockOut i c).bit Reg.SF_STAT_STOPPING (i - 1) = false := by
  obtain ⟨⟨sto1, sto2, sto3, sto4, sto5, sto6⟩, ⟨cnt1, cnt2, cnt3, seq1, seq2, seq3, seq4⟩, cause1, cause4, cause2, cause3, -, -⟩ :=
    lockKeys_apart hi hi4
  obtain ⟨state, locked, stopping⟩ := setSs_locked (s := s.soOff (s.ssOut i)) hi hi4
  have own {o l : Nat} (ho : o ≤ 0x100) (hl : l < 32) : keyPage (fk 0x15 (o + 0x10 * (i - 1)) l) = 0x15 :=
    sfState_page (by omega) ho hl
  have seq {j : Nat} (hj : keyPage j = 0x15) (h1 : j ≠ Reg.SF_STATE_STATE i) (h2 : j ≠ Reg.SF_STAT_LOCKED)
      (h3 : j ≠ Reg.SF_STAT_STOPPING) : ((s.soOff (s.ssOut i)).setSs i stLocked).fld j = s.fld j := by
    rw [fld_setSs h1 h2 h3, soOff_fld (own_not_drive hj)]
  refine ⟨?_, ?_, ?_, ?_, ?_, ?_⟩
  · unfold State.ssState
    rw [fld_lockOut sto1 (own_not_log (own (by decide) (by decide))), fld_locked cnt1 seq1 cause1, state]
    rfl
  · rw [fld_lockOut sto2 (own_not_log (own (by decide) (by decide)))]
    unfold State.locked
    dsimp only
    rw [fld_bump_other cnt2, fld_setFld_other seq2, fld_with, fld_setFld_same]
  · rw [fld_lockOut sto3 (own_not_log (own (by decide) (by decide)))]
    unfold State.locked
    dsimp only
    rw [fld_bump_other cnt3, fld_setFld_same, fld_setFld_other cause4,
      seq (j := Reg.SF_LOCKSEQ i) (own (by decide) (by decide)) seq1.symm seq3.symm seq4.symm]
    bv_omega
  · rw [fld_lockOut sto4 (by decide)]
    unfold State.locked
    dsimp only
    rw [fld_bump_same, fld_setFld_other cnt3.symm, fld_with, fld_setFld_other cnt2.symm, seq (by decide) cnt1.symm (by decide) (by decide)]
  · unfold State.bit at locked ⊢
    rw [fld_lockOut sto5 (by decide), fld_locked (by decide) seq3 cause2, locked]
  · unfold State.bit at stopping ⊢
    rw [fld_lockOut sto6 (by decide), fld_locked (by decide) seq4 cause3, stopping]

theorem lockOut_stopped (hi4 : i ≤ 4) : Stopped s (s.lockOut i c) := (Stopped.refl s).lockOut hi4 c

/-- The pair of an instance that locks out goes off. -/
theorem lockOut_drive (hi4 : i ≤ 4) (pair : s.ssOut i ≠ 0) (used : s.soA (s.ssOut i) ≠ 0) :
    (s.lockOut i c).fld (Reg.FCH_STAT_DRIVE (s.soA (s.ssOut i))) = 0 ∧
      (s.lockOut i c).fld (Reg.FCH_STAT_DRIVE (s.soB (s.ssOut i))) = 0 := by
  have kept {n : Nat} (hn : n ≤ 256) :
      (s.lockOut i c).fld (Reg.FCH_STAT_DRIVE n) = (s.soOff (s.ssOut i)).fld (Reg.FCH_STAT_DRIVE n) := by
    have apart {k : Nat} (hk : keyPage k = 0x15) : Reg.FCH_STAT_DRIVE n ≠ k := drive_ne_own hk hn
    have page := (of_decide_eq_true (driveKey_drive hn)).1
    have own {o l : Nat} (ho : o ≤ 0x100) (hl : l < 32) : keyPage (fk 0x15 (o + 0x10 * (i - 1)) l) = 0x15 :=
      sfState_page (by omega) ho hl
    rw [fld_lockOut (apart (own (by decide) (by decide))) (by unfold logKey; rw [page]; rfl),
      fld_locked (apart (by decide)) (apart (own (by decide) (by decide))) (apart (own (by decide) (by decide))),
      fld_setSs (apart (own (by decide) (by decide))) (apart (by decide)) (apart (by decide))]
  obtain ⟨a, b⟩ := soOff_drive pair used
  exact ⟨(kept (soA_le ..)).trans a, (kept (soB_le ..)).trans b⟩

end Lock

/-! ### Faults of pairs (R399) -/

section SafeOutputs
variable {s : State} {k : Nat}

theorem setSo_so (x : SoRt) : (s.setSo k x).so k = x := by
  unfold State.so State.setSo
  dsimp only
  rw [sgetD_ssetD, if_pos rfl]

theorem soOff_fault (x : SoRt) (hx : x.fault = true) : (((s.setSo k x).soOff k).so k).fault = true :=
  ((Stopped.refl _).soOff k).fault k (by rw [setSo_so, hx])

/-- A pair that fails, before its instance meets the fault. -/
def State.soOut (s : State) (k : Nat) : State :=
  (((s.setSo k { s.so k with fault := true }).soOff k).flag Reg.SF_EVT_SO_FAULT true).report .o .fault (evCode 12 399 0) (srcNo 12 k)
    [BitVec.ofNat 8 k]

theorem soOut_stopped : Stopped s (s.soOut k) :=
  ((((Stopped.refl s).setSo k fun _ => rfl).soOff k).flag (by decide) _).report

theorem soFail_eq : s.soFail k = match s.soOwner k with
    | some i => ((s.soOut k).faultLock i .outputFault).flag (Reg.SF_STATE_FAULT i) true
    | none => s.soOut k := by
  have owner : (s.soOut k).soOwner k = s.soOwner k := soOut_stopped.soOwner k
  rw [← owner]
  rfl

theorem soOut_shows (hk : k ≠ 0) (ha : s.soA k ≠ 0) : ((s.soOut k).so k).fault = true ∧ (s.soOut k).fld Reg.SF_EVT_SO_FAULT = 1 ∧
    (s.soOut k).fld (Reg.FCH_STAT_DRIVE (s.soA k)) = 0 ∧ (s.soOut k).fld (Reg.FCH_STAT_DRIVE (s.soB k)) = 0 := by
  obtain ⟨a, b⟩ := soOff_drive (s := s.setSo k { s.so k with fault := true }) hk ha
  have after : Stopped ((s.setSo k { s.so k with fault := true }).soOff k) (s.soOut k) := ((Stopped.refl _).flag (by decide) _).report
  refine ⟨after.fault k (soOff_fault _ rfl), ?_, after.off _ (soA_le ..) a, after.off _ (soB_le ..) b⟩
  unfold State.soOut
  rw [fld_report _ _ _ _ _ _ _ (by decide) (by decide), fld_flag_same]
  rfl

theorem soOut_ssState {i : Nat} (hi : 1 ≤ i) (hi4 : i ≤ 4) : (s.soOut k).ssState i = s.ssState i := by
  have own : keyPage (Reg.SF_STATE_STATE i) = 0x15 := sfState_page (by omega) (by decide) (by decide)
  have apart : Reg.SF_STATE_STATE i ≠ Reg.SF_EVT_SO_FAULT := by
    unfold Reg.SF_STATE_STATE Reg.SF_EVT_SO_FAULT fk
    omega
  unfold State.ssState State.soOut
  rw [fld_report _ _ _ _ _ _ _ (by decide) (own_not_log own), fld_flag_other apart, soOff_fld (own_not_drive own)]
  rfl

theorem soFail_stopped : Stopped (s.soOut k) (s.soFail k) := by
  rw [soFail_eq]
  cases owner : s.soOwner k with
  | none => exact Stopped.refl _
  | some i =>
    obtain ⟨-, hi4, -⟩ := soOwner_range owner
    exact ((Stopped.refl _).faultLock hi4 _).flag (sfState_page (by omega) (by decide) (by decide)) _

theorem fld_faultLock_event {t : State} {i : Nat} (c : LockCause) :
    (t.faultLock i c).fld Reg.SF_EVT_SO_FAULT = t.fld Reg.SF_EVT_SO_FAULT := by
  have apart : Reg.SF_EVT_SO_FAULT ∉ lockKeys i := by
    simp only [lockKeys, List.mem_cons, List.not_mem_nil, or_false, not_or]
    unfold Reg.SF_STATE_STATE Reg.SF_STATE_CAUSE Reg.SF_STATE_STO Reg.SF_LOCKSEQ Reg.SF_LOCKCNT Reg.SF_STAT_LOCKED
      Reg.SF_STAT_STOPPING Reg.SF_EVT_SO_FAULT fk
    omega
  have cause : Reg.SF_EVT_SO_FAULT ≠ Reg.SF_STATE_CAUSE i := fun e => apart (by simp [lockKeys, e])
  unfold State.faultLock
  split
  · exact lockOut_keeps apart (by decide)
  · split
    · dsimp only
      split
      · rw [fld_setFld_other cause, soOff_fld (by decide)]
      · exact soOff_fld (by decide)
    · rfl

/-- A pair that fails is off, shows the event, and locks out the instance that drives it. -/
theorem soFail_shows (hk : k ≠ 0) (ha : s.soA k ≠ 0) : ((s.soFail k).so k).fault = true ∧ (s.soFail k).fld Reg.SF_EVT_SO_FAULT = 1 ∧
    (s.soFail k).fld (Reg.FCH_STAT_DRIVE (s.soA k)) = 0 ∧ (s.soFail k).fld (Reg.FCH_STAT_DRIVE (s.soB k)) = 0 := by
  obtain ⟨fault, event, a, b⟩ := soOut_shows hk ha
  refine ⟨soFail_stopped.fault k fault, ?_, soFail_stopped.off _ (soA_le ..) a, soFail_stopped.off _ (soB_le ..) b⟩
  rw [soFail_eq]
  cases owner : s.soOwner k with
  | none => exact event
  | some i =>
    obtain ⟨hi, hi4, -⟩ := soOwner_range owner
    have apart : Reg.SF_EVT_SO_FAULT ≠ Reg.SF_STATE_FAULT i := by
      unfold Reg.SF_STATE_FAULT Reg.SF_EVT_SO_FAULT fk
      omega
    exact (fld_flag_other apart).trans ((fld_faultLock_event _).trans event)

theorem soFail_owner {i : Nat} (owner : s.soOwner k = some i) : (s.soFail k).fld (Reg.SF_STATE_FAULT i) = 1 ∧
    (ssDrives (s.ssState i) = true → (s.soFail k).ssState i = stLocked ∧ (s.soFail k).fld (Reg.SF_STATE_CAUSE i) = 5) := by
  obtain ⟨hi, hi4, -⟩ := soOwner_range owner
  have apart : Reg.SF_STATE_STATE i ≠ Reg.SF_STATE_FAULT i ∧ Reg.SF_STATE_CAUSE i ≠ Reg.SF_STATE_FAULT i := by
    unfold Reg.SF_STATE_STATE Reg.SF_STATE_CAUSE Reg.SF_STATE_FAULT fk
    omega
  rw [soFail_eq, owner]
  dsimp only
  refine ⟨fld_flag_same .., fun drives => ?_⟩
  have locks : (s.soOut k).faultLock i .outputFault = (s.soOut k).lockOut i .outputFault :=
    if_pos (by rw [soOut_ssState hi hi4]; exact drives)
  obtain ⟨state, cause, -⟩ := lockOut_shows (s := s.soOut k) (c := .outputFault) hi hi4
  rw [locks]
  unfold State.ssState at state ⊢
  rw [fld_flag_other apart.1, fld_flag_other apart.2]
  exact ⟨state, cause⟩

theorem soBad_used (bad : s.soBad k = true) : s.soA k ≠ 0 := by
  simp only [State.soBad, Bool.and_eq_true, bne_iff_ne] at bad
  exact bad.1

end SafeOutputs

/-! ### Discrepancies, stuck pairs and off-pulses (R397 to R400, R406) -/

section Events
variable {s : State}

theorem setInst_inst (i : Nat) (x : InstRt) : (s.setInst i x).inst i = x := by
  unfold State.inst State.setInst
  dsimp only
  rw [sgetD_ssetD, if_pos rfl]

theorem setSi_si (i : Nat) (x : SiRt) : (s.setSi i x).si i = x := by
  unfold State.si State.setSi
  dsimp only
  rw [sgetD_ssetD, if_pos rfl]

/-- A speed that differs too long is a fault of its instance, and locks it out where it drives its pair. -/
theorem speedDiscrepancy_faults {i n : Nat} (hi : 1 ≤ i) (hi4 : i ≤ 4) (differ : (s.inst i).differ = some n) (used : s.ssUsed i = true)
    (long : 10 * s.ss i 0x0E 2 < n) (fresh : (s.inst i).disc = false) :
    ∃ t, exec (.speedDiscrepancyFault i) s = .next t ∧ t.fld Reg.SF_EVT_SPEED_FAULT = 1 ∧ t.fld (Reg.SF_STATE_FAULT i) = 1 ∧
      (t.inst i).speedFault = true ∧ (ssDrives (s.ssState i) = true → t.ssState i = stLocked ∧
        t.fld (Reg.SF_STATE_CAUSE i) = 4) ∧ (ssDrives (s.ssState i) = false → t.ssState i = s.ssState i) := by
  let u := (s.setInst i { s.inst i with disc := true, speedFault := true }).flag Reg.SF_EVT_SPEED_FAULT true
  let v := if ssDrives (s.ssState i) then u.lockOut i .speedFault else u
  have apart : Reg.SF_STATE_STATE i ≠ Reg.SF_STATE_FAULT i ∧ Reg.SF_STATE_CAUSE i ≠ Reg.SF_STATE_FAULT i ∧
      Reg.SF_EVT_SPEED_FAULT ≠ Reg.SF_STATE_FAULT i ∧ Reg.SF_STATE_STATE i ≠ Reg.SF_EVT_SPEED_FAULT := by
    unfold Reg.SF_STATE_STATE Reg.SF_STATE_CAUSE Reg.SF_STATE_FAULT Reg.SF_EVT_SPEED_FAULT fk
    omega
  obtain ⟨state, cause, event, evState⟩ := apart
  have same : u.ssState i = s.ssState i := congrArg BitVec.toNat (fld_flag_other evState)
  have acts : exec (.speedDiscrepancyFault i) s = .next (v.flag (Reg.SF_STATE_FAULT i) true) := by
    have range : inRange i 4 = true := decide_eq_true ⟨hi, hi4⟩
    show execSpeedDiscrepancyFault i s = _
    unfold execSpeedDiscrepancyFault
    dsimp only
    split
    · next m hm =>
      obtain rfl : n = m := Option.some.inj (differ.symm.trans hm)
      rw [if_pos (by rw [range, used, fresh, decide_eq_true long]; decide)]
      show Host.Outcome.next ((if ssDrives (u.ssState i) then u.lockOut i .speedFault else u).flag (Reg.SF_STATE_FAULT i) true) = _
      rw [same]
    · next none => exact absurd (differ.symm.trans none) (by simp)
  have raised : u.fld Reg.SF_EVT_SPEED_FAULT = 1 := fld_flag_same ..
  have shown : (u.inst i).speedFault = true := congrArg InstRt.speedFault (setInst_inst i _)
  have keys : Reg.SF_EVT_SPEED_FAULT ∉ lockKeys i := by
    simp only [lockKeys, List.mem_cons, List.not_mem_nil, or_false, not_or]
    unfold Reg.SF_STATE_STATE Reg.SF_STATE_CAUSE Reg.SF_STATE_STO Reg.SF_LOCKSEQ Reg.SF_LOCKCNT Reg.SF_STAT_LOCKED
      Reg.SF_STAT_STOPPING Reg.SF_EVT_SPEED_FAULT fk
    omega
  refine ⟨_, acts, ?_, fld_flag_same .., ?_, fun drives => ?_, fun rests => ?_⟩
  · rw [fld_flag_other event]
    show State.fld (if _ then _ else _) _ = _
    split
    · exact (lockOut_keeps keys (by decide)).trans raised
    · exact raised
  · show (State.inst (if _ then _ else _) i).speedFault = _
    split
    · rw [(lockOut_stopped hi4).inst i]
      exact shown
    · exact shown
  · have locks : v = u.lockOut i .speedFault := if_pos drives
    obtain ⟨locked, shows, -⟩ := lockOut_shows (s := u) (c := .speedFault) hi hi4
    unfold State.ssState at locked ⊢
    rw [locks, fld_flag_other state, fld_flag_other cause]
    exact ⟨locked, shows⟩
  · have stays : v = u := if_neg (by rw [rests]; decide)
    unfold State.ssState at same ⊢
    rw [stays, fld_flag_other state, same]

theorem resetPairStuck_records {i : Nat} (hi : 1 ≤ i) (hi4 : i ≤ 4) (long : 30000 < (s.inst i).pressed) (fresh : (s.inst i).stuck = false) :
    ∃ t, exec (.resetPairStuck i) s = .next t ∧ (t.inst i).stuck = true ∧ t.ssState i = s.ssState i ∧ t.mem = s.mem ∧ t.mode = s.mode := by
  have own : keyPage (Reg.SF_STATE_STATE i) = 0x15 := sfState_page (by omega) (by decide) (by decide)
  refine ⟨_, congrArg Host.Outcome.next (if_pos ?_), ?_, ?_, ?_, ?_⟩
  · rw [show inRange i 4 = true from decide_eq_true ⟨hi, hi4⟩, fresh, decide_eq_true long]
    decide
  · have kept := (((Stopped.refl (s.setInst i { s.inst i with stuck := true })).report (by decide) :
      Stopped _ (State.report _ .o .warn 0x0C01 (srcNo 12 (s.ss i 0x05 1)) [BitVec.ofNat 8 i])).inst i)
    rw [kept, setInst_inst]
  · exact congrArg BitVec.toNat (fld_report _ _ _ _ _ _ _ (by decide) (own_not_log own))
  · rw [report_mem]
    rfl
  · rw [report_mode]
    rfl

/-- A safe input that becomes faulty. -/
theorem siFault_shows {i : Nat} (hi : 1 ≤ i) (h16 : i ≤ 16) (u : State) : (u.siFault i).si i = { u.si i with fault := true } ∧
    (u.siFault i).bit Reg.SF_STAT_SI_FAULT (i - 1) = true ∧ (u.siFault i).siValue i = false ∧ (u.siFault i).mem = u.mem ∧
    ∀ k, k ≠ Reg.SF_STAT_SI_FAULT → k ≠ Reg.SF_SIVAL_VALUE → logKey k = false → (u.siFault i).fld k = u.fld k := by
  have fld {k : Nat} (h2 : k ≠ Reg.SF_SIVAL_VALUE) (hl : logKey k = false) : (u.siFault i).fld k =
      ((u.setSi i { u.si i with fault := true }).setBit Reg.SF_STAT_SI_FAULT (i - 1)).fld k := by
    unfold State.siFault
    dsimp only
    rw [fld_report _ _ _ _ _ _ _ (by decide) hl]
    exact fld_setFld_other h2
  refine ⟨?_, ?_, ?_, ?_, fun k h1 h2 hl => ?_⟩
  · rw [← setSi_si (s := u) i { u.si i with fault := true }]
    unfold State.siFault State.si
    dsimp only
    rw [report_sf]
    rfl
  · unfold State.bit
    rw [fld (by decide) (by decide)]
    exact bit_setBit_same _ _ (by omega)
  · unfold State.siValue State.bit State.siFault
    dsimp only
    rw [fld_report _ _ _ _ _ _ _ (by decide) (by decide)]
    exact bit_clrBit_same _ _ (by omega)
  · unfold State.siFault
    dsimp only
    rw [report_mem]
    rfl
  · rw [fld h2 hl, fld_setBit_other h1]
    rfl

theorem siDiscrepancy_faults {i n : Nat} (hi : 1 ≤ i) (h16 : i ≤ 16) (differ : (s.si i).differ = some n) (used : s.siA i ≠ 0)
    (long : 10 * s.siDisc i < n) (fresh : (s.si i).disc = false) (sound : (s.si i).fault = false) :
    ∃ t, exec (.siDiscrepancyFault i) s = .next t ∧ (t.si i).disc = true ∧ (t.si i).fault = true ∧
      t.fld Reg.SF_EVT_DISC_FAULT = 1 ∧ t.fld Reg.SF_DISCFLT_CNT = satAdd (s.fld Reg.SF_DISCFLT_CNT) 1 ∧
      t.bit Reg.SF_STAT_SI_FAULT (i - 1) = true ∧ t.siValue i = false ∧ t.mem = s.mem := by
  let u := ((s.setSi i { s.si i with disc := true }).bump Reg.SF_DISCFLT_CNT).flag Reg.SF_EVT_DISC_FAULT true
  have acts : exec (.siDiscrepancyFault i) s = .next (u.siFault i) := by
    have range : inRange i 16 = true := decide_eq_true ⟨hi, h16⟩
    show execSiDiscrepancyFault i s = _
    unfold execSiDiscrepancyFault
    dsimp only
    split
    · next m hm =>
      obtain rfl : n = m := Option.some.inj (differ.symm.trans hm)
      rw [if_pos (by rw [range, fresh, decide_eq_true long, bne_iff_ne.mpr used]; decide), if_neg (by rw [sound]; decide)]
    · next none => exact absurd (differ.symm.trans none) (by simp)
  obtain ⟨rt, bit, value, mem, fld⟩ := siFault_shows hi h16 u
  have disc : u.si i = { s.si i with disc := true } := setSi_si i _
  refine ⟨_, acts, ?_, ?_, ?_, ?_, bit, value, mem⟩
  · rw [rt, disc]
  · rw [rt]
  · rw [fld _ (by decide) (by decide) (by decide)]
    exact fld_flag_same ..
  · rw [fld _ (by decide) (by decide) (by decide)]
    exact (fld_flag_other (by decide)).trans (fld_bump_same ..)

theorem soFault_fails {k : Nat} (hk : 1 ≤ k) (h8 : k ≤ 8) (bad : s.soBad k = true) (sound : (s.so k).fault = false) :
    exec (.soFault k) s = .next (s.soFail k) := by
  refine congrArg Host.Outcome.next (if_pos ?_)
  rw [show inRange k 8 = true from decide_eq_true ⟨hk, h8⟩, bad, sound]
  decide

theorem soOffPulse_switches {k : Nat} {chB : Bool} (hk : 1 ≤ k) (h8 : k ≤ 8) (a : s.soA k ≠ 0) (b : s.soB k ≠ 0) (test : s.soTest k ≠ 0)
    (on : (s.so k).on = true) (free : (s.so k).test = none) :
    ∃ t, exec (.soOffPulseTest k chB) s = .next t ∧ (t.so k).test = some (chB, 0) ∧
        t.fld (Reg.FCH_STAT_DRIVE (if chB = true then s.soB k else s.soA k)) = 0 ∧
        (∀ n, n ≠ (if chB = true then s.soB k else s.soA k) → 1 ≤ n →
          t.fld (Reg.FCH_STAT_DRIVE n) = s.fld (Reg.FCH_STAT_DRIVE n)) ∧ t.mem = s.mem ∧ t.mode = s.mode := by
  have named : 1 ≤ (if chB = true then s.soB k else s.soA k) := by split <;> omega
  refine ⟨_, congrArg Host.Outcome.next (if_pos ?_), ?_, ?_, fun n hn h1 => ?_, drive_mem .., drive_mode ..⟩
  · rw [show inRange k 8 = true from decide_eq_true ⟨hk, h8⟩, bne_iff_ne.mpr a, bne_iff_ne.mpr test, on, free]
    decide
  · unfold State.so
    rw [drive_sf]
    exact congrArg SoRt.test (setSo_so _)
  · exact fld_drive_same false
  · exact fld_drive_other (drive_inj h1 named hn)

end Events

/-- Settles O47: a lock-out writes the registers of its instance and switches its pair off, and every event of the unit is one
of its faults or a switched channel. -/
theorem safetyFunctions : Obligations.SafetyFunctions := by
  unfold Obligations.SafetyFunctions
  refine ⟨?_, ?_, ?_, ?_⟩
  · intro s i c hi hi4
    obtain ⟨state, cause, seq, count, locked, stopping⟩ := lockOut_shows (s := s) (c := c) hi hi4
    have stopped : Stopped s (s.lockOut i c) := lockOut_stopped hi4
    refine ⟨state, ?_, seq, count, locked, stopping, stopped.mem, stopped.mode, fun pair used => lockOut_drive hi4 pair used⟩
    rw [cause]
    cases c <;> rfl
  · intro s i hi hi4
    refine ⟨fun stopping late => ?_, fun n differ used long fresh => speedDiscrepancy_faults hi hi4 differ used long fresh,
      fun long fresh => resetPairStuck_records hi hi4 long fresh⟩
    refine congrArg Host.Outcome.next (if_pos ?_)
    rw [show inRange i 4 = true from decide_eq_true ⟨hi, hi4⟩, stopping, decide_eq_true late]
    decide
  · exact fun s i n hi h16 differ used long fresh sound => siDiscrepancy_faults hi h16 differ used long fresh sound
  · intro s k hk h8
    refine ⟨fun bad sound => ?_, fun chB a b test on free => soOffPulse_switches hk h8 a b test on free⟩
    obtain ⟨fault, event, a, b⟩ := soFail_shows (s := s) (k := k) (by omega) (soBad_used bad)
    exact ⟨_, soFault_fails hk h8 bad sound, fault, event, a, b, fun i owner => soFail_owner owner⟩

end Sys2Proof.Machine

end

-- ==== Sys2Proof/Proofs/FieldEvents.lean ====

section
-- In order, not in parallel: each parallel thread reserves its whole stack of the check's memory.
set_option Elab.async false

/-! SUPPORT. The field scan and the events of channels and groups: conditions and latches at their onset, the pairs that meet
them, and the walks over the channels of a group (R379, R381 to R384, R386 to R388, R399). -/

namespace Sys2Proof.Machine

/-! ### Registers of a channel -/

theorem chanKey_page {n o l : Nat} (hn : n ≤ 64) (ho : o < 16) (hl : l < 32) : keyPage (fk 0x13 (o + 0x10 * (n - 1)) l) = 0x13 := by
  unfold keyPage fk
  omega

/-- Two kinds of register lie apart, at whatever channels. -/
theorem chanKey_ne {n m o p l j : Nat} (h : o ≠ p ∨ l ≠ j) (ho : o < 16 := by decide) (hp : p < 16 := by decide)
    (hl : l < 32 := by decide) (hj : j < 32 := by decide) : fk 0x13 (o + 0x10 * (n - 1)) l ≠ fk 0x13 (p + 0x10 * (m - 1)) j := by
  unfold fk
  omega

/-- One kind of register lies apart at two channels. -/
theorem chanKey_far {n m o l : Nat} (hn : 1 ≤ n) (hm : 1 ≤ m) (h : n ≠ m) :
    fk 0x13 (o + 0x10 * (n - 1)) l ≠ fk 0x13 (o + 0x10 * (m - 1)) l := by
  unfold fk
  omega

/-- A register of another page lies apart from a channel's. -/
theorem chanKey_beside {n o l k : Nat} (hk : keyPage k ≠ 0x13) (hn : n ≤ 64) (ho : o < 16 := by decide) (hl : l < 32 := by decide) :
    k ≠ fk 0x13 (o + 0x10 * (n - 1)) l := fun e => hk (e ▸ chanKey_page hn ho hl)

theorem chanKey_log {n o l : Nat} (hn : n ≤ 64) (ho : o < 16 := by decide) (hl : l < 32 := by decide) :
    logKey (fk 0x13 (o + 0x10 * (n - 1)) l) = false := by
  unfold logKey
  rw [chanKey_page hn ho hl]
  rfl

/-- A register of a channel other than DRIVE is none that a safety action writes. -/
theorem chanKey_unit {n o l : Nat} (hn : n ≤ 64) (h : o ≠ 4 ∨ l ≠ 1) (ho : o < 16 := by decide) (hl : l < 32 := by decide) :
    unitKey (fk 0x13 (o + 0x10 * (n - 1)) l) = true := by
  have drive : driveKey (fk 0x13 (o + 0x10 * (n - 1)) l) = false := by
    refine decide_eq_false fun e => ?_
    unfold keyOff fk at e
    omega
  unfold unitKey logKey
  rw [chanKey_page hn ho hl, drive]
  rfl

/-! ### Conditions (R382 to R384) -/

section Conditions
variable {s : State} {n : Nat} {c : Cond}

theorem Cond.stat_ne_sticky (c d : Cond) (n m : Nat) : c.stat n ≠ d.sticky m := by
  cases c <;> cases d <;> exact chanKey_ne (by decide)

theorem Cond.stat_ne_count (c : Cond) (n : Nat) : c.stat n ≠ Reg.FCH_FLTCNT n := by
  cases c <;> exact chanKey_ne (by decide)

theorem Cond.sticky_ne_count (c : Cond) (n : Nat) : c.sticky n ≠ Reg.FCH_FLTCNT n := by
  cases c <;> exact chanKey_ne (by decide)

theorem Cond.stat_log (c : Cond) (hn : n ≤ 64) : logKey (c.stat n) = false := by
  cases c <;> exact chanKey_log hn

theorem Cond.sticky_log (c : Cond) (hn : n ≤ 64) : logKey (c.sticky n) = false := by
  cases c <;> exact chanKey_log hn

theorem Cond.stat_unit (c : Cond) (hn : n ≤ 64) : unitKey (c.stat n) = true := by
  cases c <;> exact chanKey_unit hn (by decide)

theorem Cond.sticky_unit (c : Cond) (hn : n ≤ 64) : unitKey (c.sticky n) = true := by
  cases c <;> exact chanKey_unit hn (by decide)

theorem fld_onset {k : Nat} (hk : logKey k = false) : (s.onset n c).fld k =
    (((s.flag (c.stat n) true).flag (c.sticky n) true).bump (Reg.FCH_FLTCNT n)).fld k := by
  unfold State.onset
  exact fld_report _ _ _ _ _ _ _ (by decide) hk

/-- Its status, its sticky bit and its count show a condition at its onset. -/
theorem onset_shows (hn : n ≤ 64) : (s.onset n c).fld (c.stat n) = 1 ∧ (s.onset n c).fld (c.sticky n) = 1 ∧
    (s.onset n c).fld (Reg.FCH_FLTCNT n) = satAdd (s.fld (Reg.FCH_FLTCNT n)) 1 := by
  rw [fld_onset (c.stat_log hn), fld_onset (c.sticky_log hn), fld_onset (k := Reg.FCH_FLTCNT n) (chanKey_log hn), fld_bump_other (c.stat_ne_count n),
    fld_bump_other (c.sticky_ne_count n), fld_bump_same, fld_flag_other (c.stat_ne_sticky c n n), fld_flag_same, fld_flag_same,
    fld_flag_other (c.sticky_ne_count n).symm, fld_flag_other (c.stat_ne_count n).symm]
  exact ⟨rfl, rfl, rfl⟩

theorem fld_onset_other {k : Nat} (stat : k ≠ c.stat n) (sticky : k ≠ c.sticky n) (count : k ≠ Reg.FCH_FLTCNT n) (hk : logKey k = false) :
    (s.onset n c).fld k = s.fld k := by
  rw [fld_onset hk, fld_bump_other count, fld_flag_other sticky, fld_flag_other stat]

theorem onset_sf : (s.onset n c).sf = s.sf := report_sf ..
theorem onset_mode : (s.onset n c).mode = s.mode := report_mode ..
theorem onset_field : (s.onset n c).field = s.field := report_field ..

theorem onset_drive {m : Nat} (hm : m ≤ 64) : (s.onset n c).fld (Reg.FCH_STAT_DRIVE m) = s.fld (Reg.FCH_STAT_DRIVE m) :=
  fld_onset_other (by cases c <;> exact chanKey_ne (by decide)) (by cases c <;> exact chanKey_ne (by decide)) (chanKey_ne (by decide))
    (chanKey_log hm)

end Conditions

/-! ### Pairs that meet a condition (R399) -/

section Reports
variable {s : State} {n k : Nat}

/-- Where one element alone satisfies a test, it is the one that is found. -/
theorem find?_only {α : Type} {p : α → Bool} {l : List α} {a : α} (ha : a ∈ l) (hp : p a = true) (only : ∀ b ∈ l, p b = true → b = a) :
    l.find? p = some a := by
  cases found : l.find? p with
  | none => exact absurd hp (List.find?_eq_none.mp found a ha)
  | some b => rw [only b (List.mem_of_find?_eq_some found) (List.find?_some found)]

/-- A channel of no pair concerns none. -/
theorem soReport_none (none : ∀ k ∈ upTo 8, s.soA k = 0 ∨ (s.soA k ≠ n ∧ s.soB k ≠ n)) : s.soReport n = s := by
  have missed : [1, 2, 3, 4, 5, 6, 7, 8].find? (fun k => s.soA k != 0 && (s.soA k == n || s.soB k == n)) = .none := by
    refine List.find?_eq_none.mpr fun k hk => ?_
    have := none k hk
    simp only [Bool.and_eq_true, bne_iff_ne, Bool.or_eq_true, beq_iff_eq]
    tauto
  unfold State.soReport
  rw [missed]

/-- The one pair of a channel is faulty once a condition or a missing group is reported there. -/
theorem soReport_fault (hk : k ∈ upTo 8) (used : s.soA k ≠ 0) (hit : s.soA k = n ∨ s.soB k = n)
    (only : ∀ j ∈ upTo 8, j ≠ k → s.soA j = 0 ∨ (s.soA j ≠ n ∧ s.soB j ≠ n)) (cause : (s.soCond k || s.soMissing k) = true) :
    ((s.soReport n).so k).fault = true := by
  have found : [1, 2, 3, 4, 5, 6, 7, 8].find? (fun k => s.soA k != 0 && (s.soA k == n || s.soB k == n)) = some k := by
    refine find?_only hk ?_ fun j hj h => ?_
    · simp only [Bool.and_eq_true, bne_iff_ne, Bool.or_eq_true, beq_iff_eq]
      exact ⟨used, hit⟩
    · simp only [Bool.and_eq_true, bne_iff_ne, Bool.or_eq_true, beq_iff_eq] at h
      by_contra other
      have := only j hj other
      tauto
  have range : k ≠ 0 := by
    rintro rfl
    exact absurd hk (by decide)
  unfold State.soReport
  rw [found]
  dsimp only
  cases fault : (s.so k).fault with
  | true => rw [if_neg (by simp)]; exact fault
  | false =>
    rw [if_pos (by simp [cause])]
    exact (soFail_shows range used).1

theorem soReport_stopped : Stopped s (s.soReport n) := (Stopped.refl s).soReport n

theorem soCond_of_overload (hit : s.soA k = n ∨ s.soB k = n) (h : s.has n .overload = true) : s.soCond k = true := by
  unfold State.soCond
  obtain rfl | rfl := hit <;> simp [h]

end Reports

/-! ### Events of one channel (R382, R383) -/

section Channels
variable {s : State} {n : Nat}

theorem outputOverload_reports (h1 : 1 ≤ n) (hn : n ≤ 64) (output : modeIsOutput (s.chanMode n) = true) (long : 10 ≤ (s.chan n).limit)
    (fresh : s.has n .overload = false) :
    ∃ t, exec (.outputOverload n) s = .next t ∧ t.fld (Reg.FCH_STAT_OVERLOAD n) = 1 ∧ t.fld (Reg.FCH_DIAG_OVERLOAD n) = 1 ∧
      t.fld (Reg.FCH_FLTCNT n) = satAdd (s.fld (Reg.FCH_FLTCNT n)) 1 ∧ t.mem = s.mem ∧ t.mode = s.mode ∧
      ((∀ k ∈ upTo 8, s.soA k = 0 ∨ (s.soA k ≠ n ∧ s.soB k ≠ n)) →
        t.fld (Reg.FCH_STAT_DRIVE n) = s.fld (Reg.FCH_STAT_DRIVE n)) ∧
      (∀ k ∈ upTo 8, s.soA k ≠ 0 → s.soA k = n ∨ s.soB k = n →
        (∀ j ∈ upTo 8, j ≠ k → s.soA j = 0 ∨ (s.soA j ≠ n ∧ s.soB j ≠ n)) → (t.so k).fault = true) := by
  have acts : exec (.outputOverload n) s = .next ((s.onset n .overload).soReport n) := by
    refine congrArg Host.Outcome.next (if_pos ?_)
    rw [show inRange n 64 = true from decide_eq_true ⟨h1, hn⟩, output, decide_eq_true long, fresh]
    decide
  obtain ⟨stat, sticky, count⟩ := onset_shows (s := s) (c := .overload) hn
  have stopped : Stopped (s.onset n .overload) ((s.onset n .overload).soReport n) := soReport_stopped
  have pairs (k : Nat) : (s.onset n .overload).soA k = s.soA k ∧ (s.onset n .overload).soB k = s.soB k := by
    unfold State.soA State.soB State.sfp
    rw [onset_sf]
    exact ⟨rfl, rfl⟩
  refine ⟨_, acts, ?_, ?_, ?_, ?_, ?_, fun none => ?_, fun k hk used hit only => ?_⟩
  · exact (stopped.regs _ (chanKey_unit hn (by decide))).trans stat
  · exact (stopped.regs _ (chanKey_unit hn (by decide))).trans sticky
  · exact (stopped.regs _ (chanKey_unit hn (by decide))).trans count
  · rw [stopped.mem, onset_mem]
  · rw [stopped.mode, onset_mode]
  · rw [soReport_none fun k hk => ?_, onset_drive hn]
    rw [(pairs k).1, (pairs k).2]
    exact none k hk
  · rw [← (pairs k).1] at used hit
    rw [← (pairs k).2] at hit
    refine soReport_fault hk used hit (fun j hj h => ?_) ?_
    · rw [(pairs j).1, (pairs j).2]
      exact only j hj h
    · rw [soCond_of_overload hit (beq_iff_eq.mpr stat), Bool.true_or]

theorem outputThermal_latches (h1 : 1 ≤ n) (hn : n ≤ 64) (output : modeIsOutput (s.chanMode n) = true)
    (driven : s.fld (Reg.FCH_STAT_DRIVE n) = 1) :
    ∃ t, exec (.outputThermal n) s = .next t ∧ t.fld (Reg.FCH_STAT_DRIVE n) = 0 ∧ t.fld (Reg.FCH_STAT_THERMAL n) = 1 ∧
      t.fld (Reg.FCH_DIAG_THERMAL n) = 1 ∧ t.fld (Reg.FCH_FLTCNT n) = satAdd (s.fld (Reg.FCH_FLTCNT n)) 1 ∧
      t.mem = s.mem ∧ t.mode = s.mode := by
  have acts : exec (.outputThermal n) s = .next (((s.drive n false).onset n .thermal).soReport n) := by
    refine congrArg Host.Outcome.next (if_pos ?_)
    rw [show inRange n 64 = true from decide_eq_true ⟨h1, hn⟩, output, driven]
    decide
  obtain ⟨stat, sticky, count⟩ := onset_shows (s := s.drive n false) (c := .thermal) hn
  have stopped : Stopped ((s.drive n false).onset n .thermal) (((s.drive n false).onset n .thermal).soReport n) := soReport_stopped
  refine ⟨_, acts, ?_, ?_, ?_, ?_, ?_, ?_⟩
  · exact stopped.off n (by omega) ((onset_drive hn).trans (fld_drive_same false))
  · exact (stopped.regs _ (chanKey_unit hn (by decide))).trans stat
  · exact (stopped.regs _ (chanKey_unit hn (by decide))).trans sticky
  · rw [stopped.regs (Reg.FCH_FLTCNT n) (chanKey_unit hn (by decide)), count]
    exact congrArg (satAdd · 1) (fld_drive_other (chanKey_ne (by decide)))
  · rw [stopped.mem, onset_mem, drive_mem]
  · rw [stopped.mode, onset_mode, drive_mode]

/-! A condition of R383 by its counts. -/

theorem diagnose_onset {c : Cond} {yes no : Nat} (long : 10 ≤ yes) (fresh : s.has n c = false) : s.diagnose n c yes no = s.onset n c :=
  if_pos ⟨long, by rw [fresh]; decide⟩

theorem diagnose_clear {c : Cond} {yes no : Nat} (short : yes < 10) (long : 10 ≤ no) (has : s.has n c = true) :
    s.diagnose n c yes no = s.flag (c.stat n) false :=
  (if_neg (by omega)).trans (if_pos ⟨long, has⟩)

theorem fld_diagnose_other {c : Cond} {yes no k : Nat} (stat : k ≠ c.stat n) (sticky : k ≠ c.sticky n) (count : k ≠ Reg.FCH_FLTCNT n)
    (hk : logKey k = false) : (s.diagnose n c yes no).fld k = s.fld k := by
  unfold State.diagnose
  split
  · exact fld_onset_other stat sticky count hk
  · split
    · exact fld_flag_other stat
    · rfl

/-- The diagnosis of a channel leaves alone what its conditions and pairs do not touch. -/
theorem channelDiagnostic_acts (h1 : 1 ≤ n) (hn : n ≤ 64) : exec (.channelDiagnostic n) s = .next
    (((s.diagnose n .opens (s.chan n).opens (s.chan n).noOpen).diagnose n .ext (s.chan n).ext (s.chan n).noExt).soReport n) :=
  congrArg Host.Outcome.next (if_pos (decide_eq_true ⟨h1, hn⟩))

/-- The second condition and the pairs leave what the first has shown. -/
theorem channelDiagnostic_first {yes no k : Nat} (unit : unitKey k = true) (stat : k ≠ Reg.FCH_STAT_EXT_VOLTAGE n)
    (sticky : k ≠ Reg.FCH_DIAG_EXT_VOLTAGE n) (count : k ≠ Reg.FCH_FLTCNT n) :
    ((s.diagnose n .ext yes no).soReport n).fld k = s.fld k :=
  (soReport_stopped.regs k unit).trans (fld_diagnose_other stat sticky count (unitKey_log k unit))

theorem channelDiagnostic_stat (hn : n ≤ 64) {yes no : Nat} :
    ((s.diagnose n .ext yes no).soReport n).fld (Reg.FCH_STAT_OPEN n) = s.fld (Reg.FCH_STAT_OPEN n) ∧
      ((s.diagnose n .ext yes no).soReport n).fld (Reg.FCH_DIAG_OPEN n) = s.fld (Reg.FCH_DIAG_OPEN n) :=
  ⟨channelDiagnostic_first (chanKey_unit hn (by decide)) (chanKey_ne (by decide)) (chanKey_ne (by decide)) (chanKey_ne (by decide)),
    channelDiagnostic_first (chanKey_unit hn (by decide)) (chanKey_ne (by decide)) (chanKey_ne (by decide)) (chanKey_ne (by decide))⟩

theorem channelDiagnostic_open (h1 : 1 ≤ n) (hn : n ≤ 64) (long : 10 ≤ (s.chan n).opens) (fresh : s.has n .opens = false) :
    ∃ t, exec (.channelDiagnostic n) s = .next t ∧ t.fld (Reg.FCH_STAT_OPEN n) = 1 ∧ t.fld (Reg.FCH_DIAG_OPEN n) = 1 ∧
      t.mem = s.mem := by
  obtain ⟨stat, sticky, -⟩ := onset_shows (s := s) (c := .opens) hn
  obtain ⟨keepsStat, keepsSticky⟩ := channelDiagnostic_stat (s := s.diagnose n .opens (s.chan n).opens (s.chan n).noOpen) hn
  refine ⟨_, channelDiagnostic_acts h1 hn, keepsStat.trans ?_, keepsSticky.trans ?_, by simp⟩
  · rw [diagnose_onset long fresh]
    exact stat
  · rw [diagnose_onset long fresh]
    exact sticky

theorem channelDiagnostic_closed (h1 : 1 ≤ n) (hn : n ≤ 64) (short : (s.chan n).opens < 10) (long : 10 ≤ (s.chan n).noOpen)
    (has : s.has n .opens = true) :
    ∃ t, exec (.channelDiagnostic n) s = .next t ∧ t.fld (Reg.FCH_STAT_OPEN n) = 0 ∧
      t.fld (Reg.FCH_DIAG_OPEN n) = s.fld (Reg.FCH_DIAG_OPEN n) := by
  obtain ⟨keepsStat, keepsSticky⟩ := channelDiagnostic_stat (s := s.diagnose n .opens (s.chan n).opens (s.chan n).noOpen) hn
  refine ⟨_, channelDiagnostic_acts h1 hn, keepsStat.trans ?_, keepsSticky.trans ?_⟩
  · rw [diagnose_clear short long has]
    exact fld_flag_same ..
  · rw [diagnose_clear short long has]
    exact fld_flag_other (chanKey_ne (by decide))

theorem channelDiagnostic_ext (h1 : 1 ≤ n) (hn : n ≤ 64) (long : 10 ≤ (s.chan n).ext) (fresh : s.has n .ext = false) :
    ∃ t, exec (.channelDiagnostic n) s = .next t ∧ t.fld (Reg.FCH_STAT_EXT_VOLTAGE n) = 1 ∧ t.fld (Reg.FCH_DIAG_EXT_VOLTAGE n) = 1 ∧
      t.mem = s.mem := by
  let u := s.diagnose n .opens (s.chan n).opens (s.chan n).noOpen
  have fresh1 : u.has n .ext = false := by
    have kept : u.fld (Reg.FCH_STAT_EXT_VOLTAGE n) = s.fld (Reg.FCH_STAT_EXT_VOLTAGE n) :=
      fld_diagnose_other (chanKey_ne (by decide)) (chanKey_ne (by decide)) (chanKey_ne (by decide)) (chanKey_log hn)
    exact (congrArg (· == 1) kept).trans fresh
  obtain ⟨stat, sticky, -⟩ := onset_shows (s := u) (c := .ext) hn
  refine ⟨_, channelDiagnostic_acts h1 hn, (soReport_stopped.regs (Reg.FCH_STAT_EXT_VOLTAGE n) (chanKey_unit hn (by decide))).trans ?_,
    (soReport_stopped.regs (Reg.FCH_DIAG_EXT_VOLTAGE n) (chanKey_unit hn (by decide))).trans ?_, by simp⟩
  · rw [diagnose_onset long fresh1]
    exact stat
  · rw [diagnose_onset long fresh1]
    exact sticky

end Channels

end Sys2Proof.Machine

end

-- ==== Sys2Proof/Proofs/FieldGroups.lean ====

section
-- In order, not in parallel: each parallel thread reserves its whole stack of the check's memory.
set_option Elab.async false

/-! SUPPORT. The events of groups, and an output driven by its committed command: each walk over the channels of a group changes the
registers of the channel it is at (R381, R382, R386, R387). -/

namespace Sys2Proof.Machine

/-! ### Walks over the channels of a group -/

/-- What a walk shows of one element it passes once: what its own step shows, from a state that shows what the first did. -/
theorem foldl_own {α β : Type} {f : α → Nat → α} (part : α → β) {l : List Nat} (nodup : l.Nodup) {n : Nat} (hn : n ∈ l)
    (other : ∀ s, ∀ m ∈ l, m ≠ n → part (f s m) = part s) (s : α) : ∃ u, part u = part s ∧ part (l.foldl f s) = part (f u n) := by
  have rest : ∀ (l' : List Nat) (s : α), (∀ m ∈ l', m ∈ l ∧ m ≠ n) → part (l'.foldl f s) = part s := fun l' => by
    induction l' with
    | nil => exact fun _ _ => rfl
    | cons m l' ih =>
      intro s h
      obtain ⟨hm, ne⟩ := h m (List.mem_cons_self ..)
      exact (ih _ fun j hj => h j (List.mem_cons_of_mem _ hj)).trans (other s m hm ne)
  obtain ⟨a, b, rfl⟩ := List.append_of_mem hn
  rw [List.nodup_append] at nodup
  obtain ⟨-, hb, apart⟩ := nodup
  refine ⟨a.foldl f s, rest a s fun m hm => ⟨List.mem_append_left _ hm, fun e => apart m hm n (List.mem_cons_self ..) e⟩, ?_⟩
  rw [List.foldl_append, List.foldl_cons]
  exact rest b _ fun m hm => ⟨List.mem_append_right _ (List.mem_cons_of_mem _ hm),
    fun e => (List.nodup_cons.mp hb).1 (e ▸ hm)⟩

theorem chansOf_mem {g n : Nat} (hg : 1 ≤ g) (h8 : g ≤ 8) (hn : n ∈ chansOf g) : 1 ≤ n ∧ n ≤ 64 ∧ groupOfChan n = g := by
  unfold chansOf at hn
  obtain ⟨i, hi, rfl⟩ := List.mem_map.mp hn
  have := List.mem_range.mp hi
  unfold groupOfChan
  omega

theorem chansOf_nodup (g : Nat) : (chansOf g).Nodup :=
  List.nodup_range.map fun i j h => by
    omega

/-- A register beside those of channels that every step keeps. -/
theorem foldl_fld {f : State → Nat → State} {k : Nat} {l : List Nat} (hf : ∀ s, ∀ n ∈ l, (f s n).fld k = s.fld k) (s : State) :
    (l.foldl f s).fld k = s.fld k := by
  induction l generalizing s with
  | nil => rfl
  | cons n l ih =>
    exact (ih (fun s m hm => hf s m (List.mem_cons_of_mem _ hm)) _).trans (hf s n (List.mem_cons_self ..))

/-- GROUP_LOW and GROUP_MISSING of one channel. -/
def State.groupBit (s : State) (g n : Nat) : State :=
  (s.flag (Reg.FCH_STAT_GROUP_LOW n) (decide (1 ≤ s.chanDiag n) && s.lpLow g)).flag (Reg.FCH_STAT_GROUP_MISSING n)
    (decide (1 ≤ s.chanDiag n) && s.missing g)

theorem groupBits_walk (s : State) (g : Nat) : s.groupBits g = (chansOf g).foldl (fun s n => s.groupBit g n) s := rfl

theorem fld_groupBit {s : State} {g n k : Nat} (low : k ≠ Reg.FCH_STAT_GROUP_LOW n) (missing : k ≠ Reg.FCH_STAT_GROUP_MISSING n) :
    (s.groupBit g n).fld k = s.fld k := (fld_flag_other missing).trans (fld_flag_other low)

/-- GROUP_LOW of a channel and what it follows. -/
def State.lowPart (g n : Nat) (s : State) : Word × Nat × Bool := (s.fld (Reg.FCH_STAT_GROUP_LOW n), s.chanDiag n, s.lpLow g)

section Groups
variable {s : State} {g : Nat} (hg : 1 ≤ g) (h8 : g ≤ 8)
include hg h8

/-- GROUP_LOW and GROUP_MISSING alone change. -/
theorem groupBits_fld {k : Nat} (low : ∀ n, n ≤ 64 → k ≠ Reg.FCH_STAT_GROUP_LOW n) (missing : ∀ n, n ≤ 64 → k ≠ Reg.FCH_STAT_GROUP_MISSING n) :
    (s.groupBits g).fld k = s.fld k :=
  foldl_fld (fun _ n hn => fld_groupBit (low n (chansOf_mem hg h8 hn).2.1) (missing n (chansOf_mem hg h8 hn).2.1)) s

theorem groupBits_beside {k : Nat} (hk : keyPage k ≠ 0x13) : (s.groupBits g).fld k = s.fld k :=
  groupBits_fld hg h8 (fun _ hn => chanKey_beside hk hn) fun _ hn => chanKey_beside hk hn

/-- Its group and its DIAG, for GROUP_LOW of a channel. -/
theorem groupBit_sources {m : Nat} (n : Nat) (hm : m ∈ chansOf g) : (s.groupBit g m).chanDiag n = s.chanDiag n ∧
    (s.groupBit g m).lpLow g = s.lpLow g := by
  obtain ⟨-, h64, -⟩ := chansOf_mem hg h8 hm
  constructor
  · unfold State.chanDiag State.claimed
    rw [fld_groupBit (k := Reg.FCH_CFG_DIAG n) (chanKey_ne (by decide)) (chanKey_ne (by decide)),
      fld_groupBit (k := Reg.FCH_STAT_SF_CLAIMED n) (chanKey_ne (by decide)) (chanKey_ne (by decide))]
  · unfold State.lpLow State.bit
    rw [fld_groupBit (chanKey_beside (by decide) h64) (chanKey_beside (by decide) h64)]

/-- GROUP_LOW of a channel follows its group and its DIAG. -/
theorem groupBits_low {n : Nat} (hn : n ∈ chansOf g) :
    (s.groupBits g).fld (Reg.FCH_STAT_GROUP_LOW n) = b2w (decide (1 ≤ s.chanDiag n) && s.lpLow g) := by
  obtain ⟨u, same, own⟩ := foldl_own (State.lowPart g n) (chansOf_nodup g) hn (f := fun s n => s.groupBit g n) (fun s m hm other => by
      obtain ⟨diag, low⟩ := groupBit_sources (s := s) hg h8 n hm
      have far : Reg.FCH_STAT_GROUP_LOW n ≠ Reg.FCH_STAT_GROUP_LOW m :=
        chanKey_far (chansOf_mem hg h8 hn).1 (chansOf_mem hg h8 hm).1 (Ne.symm other)
      unfold State.lowPart
      rw [diag, low, fld_groupBit far (chanKey_ne (by decide))]) s
  unfold State.lowPart at same own
  simp only [Prod.mk.injEq] at same own
  obtain ⟨-, diag, low⟩ := same
  rw [groupBits_walk, own.1, ← diag, ← low]
  exact (fld_flag_other (chanKey_ne (by decide))).trans (fld_flag_same ..)

/-! ### The events of a group (R382, R386) -/

theorem inGroup : inRange g 8 = true := decide_eq_true ⟨hg, h8⟩

/-- A supply that is low is shown, recorded, and shown by its channels. -/
theorem lpLow_shows (long : 10 ≤ (sgetD SupplyRt.zero s.field.supply g).low) (fresh : s.lpLow g = false) :
    ∃ t, exec (.lpLow g) s = .next t ∧ t.lpLow g = true ∧ t.bit Reg.TLI_FGEVT_LOW_SEEN (g - 1) = true ∧ t.mem = s.mem ∧
      ∀ n ∈ chansOf g, t.fld (Reg.FCH_STAT_GROUP_LOW n) = b2w (decide (1 ≤ s.chanDiag n)) := by
  have small : g - 1 < 32 := by omega
  let u := (s.setBit Reg.TLI_FGSTAT_LP_LOW (g - 1)).setBit Reg.TLI_FGEVT_LOW_SEEN (g - 1)
  have low : u.lpLow g = true := by
    have kept : u.fld Reg.TLI_FGSTAT_LP_LOW = (s.setBit Reg.TLI_FGSTAT_LP_LOW (g - 1)).fld Reg.TLI_FGSTAT_LP_LOW :=
      fld_setBit_other (by decide)
    exact (congrArg (BitVec.getLsbD · (g - 1)) kept).trans (bit_setBit_same s _ small)
  have same {k : Nat} (hk : keyPage k = 0x13) : u.fld k = s.fld k := by
    have beside {j : Nat} (hj : keyPage j = 0x14) : k ≠ j := fun e => by
      rw [e, hj] at hk
      exact absurd hk (by decide)
    exact (fld_setBit_other (beside (by decide))).trans (fld_setBit_other (beside (by decide)))
  refine ⟨_, congrArg Host.Outcome.next (if_pos ?_), ?_, ?_, ?_, fun n hn => ?_⟩
  · rw [inGroup hg h8, decide_eq_true long, fresh]
    decide
  · unfold State.lpLow State.bit
    rw [fld_report _ _ _ _ _ _ _ (by decide) (by decide), groupBits_beside hg h8 (by decide)]
    exact low
  · unfold State.bit
    rw [fld_report _ _ _ _ _ _ _ (by decide) (by decide), groupBits_beside hg h8 (by decide)]
    exact bit_setBit_same _ _ small
  · rw [report_mem, groupBits_mem]
    rfl
  · obtain ⟨-, h64, -⟩ := chansOf_mem hg h8 hn
    have diag : u.chanDiag n = s.chanDiag n := by
      unfold State.chanDiag State.claimed
      rw [same (k := Reg.FCH_CFG_DIAG n) (chanKey_page h64 (by decide) (by decide)),
        same (k := Reg.FCH_STAT_SF_CLAIMED n) (chanKey_page h64 (by decide) (by decide))]
    refine (fld_report _ _ _ _ _ _ _ (by decide) (chanKey_log h64)).trans ((groupBits_low hg h8 hn).trans ?_)
    rw [show State.chanDiag _ n = s.chanDiag n from diag, show State.lpLow _ g = true from low, Bool.and_true]

end Groups

/-- An overloaded group switches one of its channels off. -/
def State.overloadChan (s : State) (n : Nat) : State :=
  if s.fld (Reg.FCH_STAT_DRIVE n) = 1 then (s.drive n false).onset n .groupOverload else s

/-- DRIVE and GROUP_OVERLOAD of a channel. -/
def State.overloadPart (n : Nat) (s : State) : Word × Word :=
  (s.fld (Reg.FCH_STAT_DRIVE n), s.fld (Reg.FCH_STAT_GROUP_OVERLOAD n))

section Overload
variable {s : State} {n m : Nat}

theorem overloadChan_other (h1 : 1 ≤ n) (hn : n ≤ 64) (hm : 1 ≤ m) (h : m ≠ n) :
    (s.overloadChan m).overloadPart n = s.overloadPart n := by
  have drive : (s.drive m false).fld (Reg.FCH_STAT_DRIVE n) = s.fld (Reg.FCH_STAT_DRIVE n) :=
    fld_drive_other (drive_inj h1 hm (Ne.symm h))
  have over_ : ((s.drive m false).onset m .groupOverload).fld (Reg.FCH_STAT_GROUP_OVERLOAD n) = s.fld (Reg.FCH_STAT_GROUP_OVERLOAD n) :=
    (fld_onset_other (chanKey_far h1 hm (Ne.symm h)) (chanKey_ne (by decide)) (chanKey_ne (by decide)) (chanKey_log hn)).trans
      (fld_drive_other (chanKey_ne (by decide)))
  unfold State.overloadChan State.overloadPart
  split
  · rw [onset_drive hn, drive, over_]
  · rfl

theorem overloadChan_own (hn : n ≤ 64) (driven : s.fld (Reg.FCH_STAT_DRIVE n) = 1) : (s.overloadChan n).overloadPart n = (0, 1) := by
  obtain ⟨stat, -, -⟩ := onset_shows (s := s.drive n false) (c := .groupOverload) hn
  unfold State.overloadChan State.overloadPart
  rw [if_pos driven, onset_drive hn, fld_drive_same]
  exact Prod.ext rfl stat

theorem overloadChan_mem : (s.overloadChan n).mem = s.mem := by
  unfold State.overloadChan
  split
  · rw [onset_mem, drive_mem]
  · rfl

theorem overloadChans_mem (l : List Nat) : (l.foldl (fun s n => s.overloadChan n) s).mem = s.mem :=
  foldl_mem (f := fun s n => s.overloadChan n) (fun _ _ => overloadChan_mem) l s

theorem Stopped.reports {t : State} (h : Stopped s t) (l : List Nat) : Stopped s (l.foldl (fun s n => s.soReport n) t) := by
  induction l generalizing t with
  | nil => exact h
  | cons n l ih => exact ih (h.soReport n)

end Overload

section Groups
variable {s : State} {g : Nat} (hg : 1 ≤ g) (h8 : g ≤ 8)
include hg h8

/-- An overloaded group is shown, and every channel of it that was driven goes off with its latch. -/
theorem groupOverload_switches {fast : Bool} (long : fast = true ∨ 200 ≤ (sgetD SupplyRt.zero s.field.supply g).excess) :
    ∃ t, exec (.groupOverload g fast) s = .next t ∧ t.bit Reg.TLI_FGEVT_OVERLOAD_SEEN (g - 1) = true ∧ t.mem = s.mem ∧
      ∀ n ∈ chansOf g, s.fld (Reg.FCH_STAT_DRIVE n) = 1 → t.fld (Reg.FCH_STAT_DRIVE n) = 0 ∧
        t.fld (Reg.FCH_STAT_GROUP_OVERLOAD n) = 1 := by
  have acts : exec (.groupOverload g fast) s = .next ((chansOf g).foldl (fun s n => s.soReport n)
      ((((chansOf g).foldl (fun s n => s.overloadChan n) s).groupLatch g).setBit Reg.TLI_FGEVT_OVERLOAD_SEEN (g - 1))) := by
    refine congrArg Host.Outcome.next (if_pos ?_)
    rw [inGroup hg h8, Bool.true_and, Bool.or_eq_true, decide_eq_true_eq]
    exact long
  have mem := overloadChans_mem (s := s) (chansOf g)
  have off (n : Nat) (hn : n ∈ chansOf g) (driven : s.fld (Reg.FCH_STAT_DRIVE n) = 1) :
      ((chansOf g).foldl (fun s n => s.overloadChan n) s).overloadPart n = (0, 1) := by
    obtain ⟨h1, h64, -⟩ := chansOf_mem hg h8 hn
    obtain ⟨w, before, own⟩ := foldl_own (State.overloadPart n) (chansOf_nodup g) hn (f := fun s n => s.overloadChan n)
      (fun s m hm other => overloadChan_other h1 h64 (chansOf_mem hg h8 hm).1 other) s
    exact own.trans (overloadChan_own h64 ((congrArg Prod.fst before).trans driven))
  rw [acts]
  generalize (chansOf g).foldl (fun s n => s.overloadChan n) s = u at mem off
  let v := (u.groupLatch g).setBit Reg.TLI_FGEVT_OVERLOAD_SEEN (g - 1)
  have same {k : Nat} (hk : keyPage k = 0x13) : v.fld k = u.fld k := by
    have beside {j : Nat} (hj : keyPage j = 0x14) : k ≠ j := fun e => by
      rw [e, hj] at hk
      exact absurd hk (by decide)
    exact (fld_setBit_other (beside (by decide))).trans (fld_putBit_other (beside (by decide)))
  have stopped : Stopped v ((chansOf g).foldl (fun s n => s.soReport n) v) := (Stopped.refl v).reports _
  refine ⟨_, rfl, ?_, stopped.mem.trans ((groupLatch_mem u g).trans mem), fun n hn driven => ?_⟩
  · unfold State.bit
    rw [stopped.regs _ (by decide)]
    exact bit_setBit_same _ _ (by omega)
  · obtain ⟨-, h64, -⟩ := chansOf_mem hg h8 hn
    have part := Prod.mk.inj (off n hn driven)
    refine ⟨stopped.off n (by omega) ((same (chanKey_page h64 (by decide) (by decide))).trans part.1), ?_⟩
    exact (stopped.regs _ (chanKey_unit h64 (by decide))).trans ((same (chanKey_page h64 (by decide) (by decide))).trans part.2)

end Groups

/-! ### A group goes missing, and is present again (R386, R387) -/

/-- A missing group switches one of its channels off. -/
def State.missChan (s : State) (n : Nat) : State :=
  let s := s.drive n false
  s.setChan n { s.chan n with waits := true, live := false }

theorem Acquired.loseChan {s t : State} (h : Acquired s t) (n : Nat) : Acquired s (t.loseChan n) := by
  unfold State.loseChan
  split
  · exact h.acquire ..
  · exact h

theorem Acquired.writeGroup {s t : State} (h : Acquired s t) (g : Nat) : Acquired s (t.writeGroup g) := by
  unfold State.writeGroup
  dsimp only
  exact (h.foldl fun _ _ => (Acquired.refl _).acquire ..).acquire ..

section Missing
variable {s : State} {g : Nat}

/-- A group is shown as missing, and counted. -/
def State.groupGone (s : State) (g : Nat) : State :=
  ((s.setBit Reg.TLI_FGSTAT_MISSING (g - 1)).setBit Reg.TLI_FGEVT_MISSING_SEEN (g - 1)).bump (Reg.TLI_FGMISSCNT g)

/-- The channels of a group that goes missing, before their pairs meet it. -/
def State.groupLost (s : State) (g : Nat) : State :=
  ((chansOf g).foldl (fun s n => s.loseChan n) ((((chansOf g).foldl (fun s n => s.missChan n) s).groupGone g).groupBits g)).report .o
    .fault (evCode 11 386 1) (srcNo 11 g) []

theorem groupGone_sf : (s.groupGone g).sf = s.sf := rfl

theorem missChan_sf (n : Nat) : (s.missChan n).sf = s.sf := drive_sf false

theorem groupBits_sf : (s.groupBits g).sf = s.sf := by
  rw [groupBits_walk]
  exact foldl_part State.sf (f := fun s n => s.groupBit g n) (fun _ _ => rfl) (chansOf g) s

theorem missChans_sf (l : List Nat) : (l.foldl (fun s n => s.missChan n) s).sf = s.sf :=
  foldl_part State.sf (f := fun s n => s.missChan n) (fun _ n => missChan_sf n) l s

/-- Channels of a group that lose their signals. -/
theorem loseChans_acquired (l : List Nat) : Acquired s (l.foldl (fun s n => s.loseChan n) s) :=
  (Acquired.refl s).foldl (f := fun s n => s.loseChan n) fun t n => (Acquired.refl t).loseChan n

theorem groupLost_sf : (s.groupLost g).sf = s.sf := by
  unfold State.groupLost
  rw [report_sf]
  refine (loseChans_acquired (chansOf g)).sf.trans ?_
  rw [groupBits_sf, groupGone_sf]
  exact missChans_sf (chansOf g)

theorem missChan_off {n m : Nat} (h : s.fld (Reg.FCH_STAT_DRIVE n) = 0) : (s.missChan m).fld (Reg.FCH_STAT_DRIVE n) = 0 :=
  fld_drive_off h

theorem missChans_off {n : Nat} {l : List Nat} (hn : n ∈ l) : (l.foldl (fun s n => s.missChan n) s).fld (Reg.FCH_STAT_DRIVE n) = 0 := by
  have stays (l : List Nat) (s : State) (h : s.fld (Reg.FCH_STAT_DRIVE n) = 0) :
      (l.foldl (fun s n => s.missChan n) s).fld (Reg.FCH_STAT_DRIVE n) = 0 := by
    induction l generalizing s with
    | nil => exact h
    | cons m l ih => exact ih _ (missChan_off h)
  obtain ⟨a, b, rfl⟩ := List.append_of_mem hn
  rw [List.foldl_append, List.foldl_cons]
  exact stays b _ (fld_drive_same false)

theorem missChan_beside {k m : Nat} (hk : keyPage k ≠ 0x13) (hm : m ≤ 64) : (s.missChan m).fld k = s.fld k :=
  fld_drive_other (chanKey_beside hk hm)

theorem fld_groupLost {k : Nat} (page : asideKey k = true) (log : logKey k = false) : (s.groupLost g).fld k =
    ((((chansOf g).foldl (fun s n => s.missChan n) s).groupGone g).groupBits g).fld k := by
  unfold State.groupLost
  rw [fld_report _ _ _ _ _ _ _ (by decide) log]
  exact (loseChans_acquired (chansOf g)).fld k page

theorem groupGone_missing (hg : 1 ≤ g) (h8 : g ≤ 8) : (s.groupGone g).missing g = true := by
  have count : Reg.TLI_FGSTAT_MISSING ≠ Reg.TLI_FGMISSCNT g := by
    unfold Reg.TLI_FGSTAT_MISSING Reg.TLI_FGMISSCNT fk
    omega
  unfold State.missing State.groupGone State.bit
  rw [fld_bump_other count, fld_setBit_other (by decide)]
  exact bit_setBit_same _ _ (by omega)

theorem groupGone_count : (s.groupGone g).fld (Reg.TLI_FGMISSCNT g) = satAdd (s.fld (Reg.TLI_FGMISSCNT g)) 1 := by
  have apart : Reg.TLI_FGMISSCNT g ≠ Reg.TLI_FGSTAT_MISSING ∧ Reg.TLI_FGMISSCNT g ≠ Reg.TLI_FGEVT_MISSING_SEEN := by
    unfold Reg.TLI_FGSTAT_MISSING Reg.TLI_FGEVT_MISSING_SEEN Reg.TLI_FGMISSCNT fk
    omega
  unfold State.groupGone
  rw [fld_bump_same, fld_setBit_other apart.2, fld_setBit_other apart.1]

theorem missCount_page (hg : 1 ≤ g) (h8 : g ≤ 8) : keyPage (Reg.TLI_FGMISSCNT g) = 0x14 := by
  unfold keyPage Reg.TLI_FGMISSCNT fk
  omega

theorem asideKey_of_page {k p : Nat} (h : keyPage k = p) (hp : p = 0x13 ∨ p = 0x14) : asideKey k = true ∧ logKey k = false := by
  unfold asideKey logKey
  rw [h]
  obtain rfl | rfl := hp <;> decide

/-- What a group that goes missing leaves: it is shown and counted, and its channels are off. -/
theorem groupLost_shows (hg : 1 ≤ g) (h8 : g ≤ 8) : (s.groupLost g).missing g = true ∧
    (s.groupLost g).fld (Reg.TLI_FGMISSCNT g) = satAdd (s.fld (Reg.TLI_FGMISSCNT g)) 1 ∧
    ∀ n ∈ chansOf g, (s.groupLost g).fld (Reg.FCH_STAT_DRIVE n) = 0 := by
  have page := missCount_page hg h8
  have aside := asideKey_of_page page (.inr rfl)
  refine ⟨?_, ?_, fun n hn => ?_⟩
  · have gone := groupGone_missing (s := (chansOf g).foldl (fun s n => s.missChan n) s) hg h8
    unfold State.missing State.bit at gone ⊢
    rw [fld_groupLost (by decide) (by decide), groupBits_beside hg h8 (by decide), gone]
  · rw [fld_groupLost aside.1 aside.2, groupBits_beside hg h8 (by rw [page]; decide), groupGone_count]
    refine congrArg (satAdd · 1) (foldl_fld (f := fun s n => s.missChan n) (fun s m hm => ?_) s)
    exact missChan_beside (by rw [page]; decide) (chansOf_mem hg h8 hm).2.1
  · obtain ⟨h1, h64, -⟩ := chansOf_mem hg h8 hn
    have chan : keyPage (Reg.FCH_STAT_DRIVE n) = 0x13 := chanKey_page h64 (by decide) (by decide)
    have beside {j : Nat} (hj : keyPage j = 0x14) : Reg.FCH_STAT_DRIVE n ≠ j := fun e => by
      rw [e, hj] at chan
      exact absurd chan (by decide)
    rw [fld_groupLost (asideKey_of_page chan (.inl rfl)).1 (asideKey_of_page chan (.inl rfl)).2,
      groupBits_fld (k := Reg.FCH_STAT_DRIVE n) hg h8 (fun _ _ => chanKey_ne (by decide)) fun _ _ => chanKey_ne (by decide)]
    unfold State.groupGone
    rw [fld_bump_other (beside page), fld_setBit_other (beside (by decide)), fld_setBit_other (beside (by decide))]
    exact missChans_off hn

/-- The pair of a channel of a missing group is faulty once the channel is reported. -/
theorem reports_fault {k n : Nat} {l : List Nat} (hn : n ∈ l) (gone : s.missing (groupOfChan n) = true) (hk : k ∈ upTo 8)
    (first : s.soA k = n) (used : n ≠ 0) (only : ∀ j ∈ upTo 8, j ≠ k → s.soA j = 0 ∨ (s.soA j ≠ n ∧ s.soB j ≠ n)) :
    ((l.foldl (fun s n => s.soReport n) s).so k).fault = true := by
  obtain ⟨a, b, rfl⟩ := List.append_of_mem hn
  rw [List.foldl_append, List.foldl_cons]
  have before : Stopped s (a.foldl (fun s n => s.soReport n) s) := (Stopped.refl s).reports a
  generalize a.foldl (fun s n => s.soReport n) s = u at before
  refine ((Stopped.refl (u.soReport n)).reports b).fault k (soReport_fault hk ?_ (.inl ?_) (fun j hj h => ?_) ?_)
  · rwa [before.soA, first]
  · rw [before.soA, first]
  · rw [before.soA, before.soB]
    exact only j hj h
  · have missing : u.missing (groupOfChan n) = s.missing (groupOfChan n) :=
      congrArg (BitVec.getLsbD · _) (before.regs _ (by decide))
    rw [Bool.or_eq_true]
    refine .inr ?_
    unfold State.soMissing
    rw [before.soA, first, missing, gone, Bool.true_or]

theorem fieldGroupMissing_loses (hg : 1 ≤ g) (h8 : g ≤ 8) (present : s.missing g = false) :
    ∃ t, exec (.fieldGroupMissing g) s = .next t ∧ t.missing g = true ∧
      t.fld (Reg.TLI_FGMISSCNT g) = satAdd (s.fld (Reg.TLI_FGMISSCNT g)) 1 ∧
      (∀ n ∈ chansOf g, t.fld (Reg.FCH_STAT_DRIVE n) = 0) ∧
      ∀ k ∈ upTo 8, s.soA k ∈ chansOf g →
        (∀ j ∈ upTo 8, j ≠ k → s.soA j = 0 ∨ (s.soA j ≠ s.soA k ∧ s.soB j ≠ s.soA k)) → (t.so k).fault = true := by
  have acts : exec (.fieldGroupMissing g) s = .next ((chansOf g).foldl (fun s n => s.soReport n) (s.groupLost g)) := by
    refine congrArg Host.Outcome.next (if_pos ?_)
    rw [inGroup hg h8, present]
    decide
  obtain ⟨missing, count, off⟩ := groupLost_shows (s := s) hg h8
  have pairs (k : Nat) : (s.groupLost g).soA k = s.soA k ∧ (s.groupLost g).soB k = s.soB k := by
    unfold State.soA State.soB State.sfp
    rw [groupLost_sf]
    exact ⟨rfl, rfl⟩
  rw [acts]
  generalize s.groupLost g = u at missing count off pairs
  have stopped : Stopped u ((chansOf g).foldl (fun s n => s.soReport n) u) := (Stopped.refl u).reports _
  have page := missCount_page hg h8
  refine ⟨_, rfl, ?_, ?_, fun n hn => ?_, fun k hk hit only => ?_⟩
  · unfold State.missing State.bit at missing ⊢
    rw [stopped.regs Reg.TLI_FGSTAT_MISSING (by decide), missing]
  · have unit : unitKey (Reg.TLI_FGMISSCNT g) = true := by
      unfold unitKey driveKey logKey
      rw [page]
      rfl
    rw [stopped.regs (Reg.TLI_FGMISSCNT g) unit, count]
  · obtain ⟨-, h64, -⟩ := chansOf_mem hg h8 hn
    exact stopped.off n (by omega) (off n hn)
  · obtain ⟨h1, -, group⟩ := chansOf_mem hg h8 hit
    refine reports_fault hit (by rw [group]; exact missing) hk (pairs k).1 (by omega) fun j hj h => ?_
    rw [(pairs j).1, (pairs j).2]
    exact only j hj h

end Missing

section Present
variable {s : State} {g n m : Nat}

/-- A channel of a group that is present again begins with its last sample. -/
def State.presentChan (s : State) (n : Nat) : State :=
  let c := s.chan n
  let input := modeIsInput (s.chanMode n) && s.chanOn n
  (s.setChan n { c with filt := if input then c.raw else c.filt, run := 1, live := input }).flag (Reg.FCH_STAT_LEVEL n)
    (s.chanOn n && (if input then c.raw else c.back))

/-- A channel, whether it works as an input, and its level. -/
def State.inputPart (n : Nat) (s : State) : ChanRt × Bool × Bool × Word :=
  (s.chan n, modeIsInput (s.chanMode n), s.chanOn n, s.fld (Reg.FCH_STAT_LEVEL n))

theorem setChan_chan (n m : Nat) (c : ChanRt) : (s.setChan m c).chan n = if n = m then c else s.chan n := by
  unfold State.chan State.setChan
  dsimp only
  rw [sgetD_ssetD]

theorem chanMode_of_fld {s t : State} {n : Nat} (h : t.fld (Reg.FCH_CFG_MODE n) = s.fld (Reg.FCH_CFG_MODE n)) : t.chanMode n = s.chanMode n := by
  unfold State.chanMode
  rw [h]

/-- Whether a channel works follows its mode, its owner, its ENABLE and a shutdown. -/
theorem chanOn_of_fld {s t : State} {n : Nat} (mode : t.fld (Reg.FCH_CFG_MODE n) = s.fld (Reg.FCH_CFG_MODE n))
    (claim : t.fld (Reg.FCH_STAT_SF_CLAIMED n) = s.fld (Reg.FCH_STAT_SF_CLAIMED n))
    (enable : t.fld (Reg.FCH_CFG_ENABLE n) = s.fld (Reg.FCH_CFG_ENABLE n)) (bus : t.bus = s.bus) : t.chanOn n = s.chanOn n := by
  unfold State.chanOn State.claimed
  rw [chanMode_of_fld mode, claim, enable, bus]

theorem presentChan_other (h1 : 1 ≤ n) (hm : 1 ≤ m) (h : m ≠ n) : (s.presentChan m).inputPart n = s.inputPart n := by
  have keeps {k : Nat} (hk : k ≠ Reg.FCH_STAT_LEVEL m) : (s.presentChan m).fld k = s.fld k := fld_flag_other hk
  have chan : (s.presentChan m).chan n = s.chan n := (setChan_chan n m _).trans (if_neg (Ne.symm h))
  have mode := keeps (k := Reg.FCH_CFG_MODE n) (chanKey_ne (by decide))
  have on : (s.presentChan m).chanOn n = s.chanOn n :=
    chanOn_of_fld mode (keeps (chanKey_ne (by decide))) (keeps (chanKey_ne (by decide))) rfl
  unfold State.inputPart
  rw [chan, chanMode_of_fld mode, on, keeps (k := Reg.FCH_STAT_LEVEL n) (chanKey_far h1 hm (Ne.symm h))]

theorem presentChan_own (input : modeIsInput (s.chanMode n) = true) (on : s.chanOn n = true) :
    ((s.presentChan n).chan n).filt = (s.chan n).raw ∧ (s.presentChan n).fld (Reg.FCH_STAT_LEVEL n) = b2w (s.chan n).raw := by
  have chan : (s.presentChan n).chan n = _ := (setChan_chan n n _).trans (if_pos rfl)
  have level : (s.presentChan n).fld (Reg.FCH_STAT_LEVEL n) = _ := fld_flag_same ..
  rw [chan, level, input, on]
  exact ⟨rfl, rfl⟩

theorem presentChan_beside {k : Nat} (hk : keyPage k ≠ 0x13) (hm : m ≤ 64) : (s.presentChan m).fld k = s.fld k :=
  fld_flag_other (chanKey_beside hk hm)

/-- The group is shown as present, before its channels begin. -/
def State.groupBack (s : State) (g : Nat) : State := (s.clrBit Reg.TLI_FGSTAT_MISSING (g - 1)).groupBits g

theorem groupBack_part (hg : 1 ≤ g) (h8 : g ≤ 8) (hn : n ≤ 64) : (s.groupBack g).chan n = s.chan n ∧
    (s.groupBack g).chanMode n = s.chanMode n ∧ (s.groupBack g).chanOn n = s.chanOn n := by
  have keeps {k : Nat} (page : keyPage k = 0x13) (low : ∀ m, m ≤ 64 → k ≠ Reg.FCH_STAT_GROUP_LOW m)
      (miss : ∀ m, m ≤ 64 → k ≠ Reg.FCH_STAT_GROUP_MISSING m) : (s.groupBack g).fld k = s.fld k :=
    (groupBits_fld hg h8 low miss).trans (fld_setFld_other fun e => by
      rw [e] at page
      exact absurd page (by decide))
  have rest : (s.groupBack g).field = s.field ∧ (s.groupBack g).bus = s.bus := by
    unfold State.groupBack
    rw [groupBits_walk]
    exact ⟨foldl_part State.field (f := fun s n => s.groupBit g n) (fun _ _ => rfl) _ _,
      foldl_part State.bus (f := fun s n => s.groupBit g n) (fun _ _ => rfl) _ _⟩
  have mode := keeps (k := Reg.FCH_CFG_MODE n) (chanKey_page hn (by decide) (by decide)) (fun _ _ => chanKey_ne (by decide))
    fun _ _ => chanKey_ne (by decide)
  have claim := keeps (k := Reg.FCH_STAT_SF_CLAIMED n) (chanKey_page hn (by decide) (by decide)) (fun _ _ => chanKey_ne (by decide))
    fun _ _ => chanKey_ne (by decide)
  have enable := keeps (k := Reg.FCH_CFG_ENABLE n) (chanKey_page hn (by decide) (by decide)) (fun _ _ => chanKey_ne (by decide))
    fun _ _ => chanKey_ne (by decide)
  refine ⟨?_, chanMode_of_fld mode, chanOn_of_fld mode claim enable rest.2⟩
  unfold State.chan
  rw [rest.1]

theorem fieldGroupPresent_begins (hg : 1 ≤ g) (h8 : g ≤ 8) (missing : s.missing g = true)
    (long : 200 ≤ (sgetD SupplyRt.zero s.field.supply g).high) :
    ∃ t, exec (.fieldGroupPresent g) s = .next t ∧ t.missing g = false ∧
      ∀ n ∈ chansOf g, modeIsInput (s.chanMode n) = true → s.chanOn n = true →
        (t.chan n).filt = (s.chan n).raw ∧ t.fld (Reg.FCH_STAT_LEVEL n) = b2w (s.chan n).raw := by
  have acts : exec (.fieldGroupPresent g) s = .next (((chansOf g).foldl (fun s n => s.presentChan n) (s.groupBack g)).writeGroup g) := by
    refine congrArg Host.Outcome.next (if_pos ?_)
    rw [inGroup hg h8, missing, decide_eq_true long]
    decide
  have acquired : Acquired ((chansOf g).foldl (fun s n => s.presentChan n) (s.groupBack g))
      (((chansOf g).foldl (fun s n => s.presentChan n) (s.groupBack g)).writeGroup g) := (Acquired.refl _).writeGroup g
  have back (n : Nat) (hn : n ∈ chansOf g) (input : modeIsInput (s.chanMode n) = true) (on : s.chanOn n = true) :
      let u := (chansOf g).foldl (fun s n => s.presentChan n) (s.groupBack g)
      (u.chan n).filt = (s.chan n).raw ∧ u.fld (Reg.FCH_STAT_LEVEL n) = b2w (s.chan n).raw := by
    obtain ⟨h1, h64, -⟩ := chansOf_mem hg h8 hn
    obtain ⟨chan, mode, works⟩ := groupBack_part (s := s) hg h8 h64
    obtain ⟨w, before, own⟩ := foldl_own (State.inputPart n) (chansOf_nodup g) hn (f := fun s n => s.presentChan n)
      (fun s m hm other => presentChan_other h1 (chansOf_mem hg h8 hm).1 other) (s.groupBack g)
    simp only [State.inputPart, Prod.mk.injEq, chan, mode, works] at before own
    obtain ⟨sameChan, sameMode, sameOn, -⟩ := before
    obtain ⟨ownChan, -, -, ownLevel⟩ := own
    obtain ⟨filt, level⟩ := presentChan_own (s := w) (sameMode.trans input) (sameOn.trans on)
    dsimp only
    rw [ownChan, ownLevel, filt, level, sameChan]
    exact ⟨rfl, rfl⟩
  have present : ((chansOf g).foldl (fun s n => s.presentChan n) (s.groupBack g)).missing g = false := by
    have kept := foldl_fld (f := fun s n => s.presentChan n) (k := Reg.TLI_FGSTAT_MISSING) (l := chansOf g)
      (fun s m hm => presentChan_beside (by decide) (chansOf_mem hg h8 hm).2.1) (s.groupBack g)
    unfold State.missing State.bit
    rw [kept]
    unfold State.groupBack
    rw [groupBits_beside hg h8 (by decide)]
    exact bit_clrBit_same _ _ (by omega)
  rw [acts]
  dsimp only at back
  generalize (chansOf g).foldl (fun s n => s.presentChan n) (s.groupBack g) = u at acquired back present
  refine ⟨_, rfl, ?_, fun n hn input on => ?_⟩
  · unfold State.missing State.bit at present ⊢
    rw [acquired.fld Reg.TLI_FGSTAT_MISSING (by decide), present]
  · obtain ⟨-, h64, -⟩ := chansOf_mem hg h8 hn
    obtain ⟨filt, level⟩ := back n hn input on
    have page : keyPage (Reg.FCH_STAT_LEVEL n) = 0x13 := chanKey_page h64 (by decide) (by decide)
    refine ⟨?_, (acquired.fld _ (asideKey_of_page page (.inl rfl)).1).trans level⟩
    unfold State.chan at filt ⊢
    rw [acquired.field, filt]

end Present

/-! ### An output (R381, R382, R388) and a filtered input (R379) -/

section Outputs
variable {s : State} {n : Nat}

theorem unlatch_drive (hn : n ≤ 64) : (s.unlatch n).fld (Reg.FCH_STAT_DRIVE n) = s.fld (Reg.FCH_STAT_DRIVE n) := by
  have page : keyPage (Reg.FCH_STAT_DRIVE n) = 0x13 := chanKey_page hn (by decide) (by decide)
  have beside : Reg.FCH_STAT_DRIVE n ≠ Reg.TLI_FGSTAT_OVERLOAD := fun e => by
    rw [e] at page
    exact absurd page (by decide)
  unfold State.unlatch
  split
  · exact (fld_putBit_other beside).trans ((fld_flag_other (chanKey_ne (by decide))).trans (fld_flag_other (chanKey_ne (by decide))))
  · rfl

theorem driveChan_off (hn : n ≤ 64) (free : s.chanMode n = 3 ∨ s.chanMode n = 4) (off : s.chanOn n = false) :
    (s.driveChan n).fld (Reg.FCH_STAT_DRIVE n) = 0 := by
  unfold State.driveChan
  dsimp only
  rw [if_neg (by omega), if_pos (.inr (by rw [off]; decide))]
  exact (fld_flag_other (chanKey_ne (by decide))).trans ((unlatch_drive hn).trans (fld_drive_same false))

/-- An output without a latch is driven by its valid committed command. -/
theorem driveChan_on (output : s.chanMode n = 3 ∨ s.chanMode n = 4) (on : s.chanOn n = true)
    (free : ((s.outputCmd n).1.flag (Reg.FCH_STAT_INVALID_CMD n) (!(s.outputCmd n).2.2)).latched n = false) :
    let r := s.outputCmd n
    let u := r.1.flag (Reg.FCH_STAT_INVALID_CMD n) (!r.2.2)
    (s.driveChan n).fld (Reg.FCH_STAT_DRIVE n) =
      b2w (u.drives && r.2.1 && r.2.2 && !u.missing (groupOfChan n) && !(u.chan n).waits) := by
  have works : ¬ ((s.chanMode n ≠ 3 ∧ s.chanMode n ≠ 4) ∨ (!s.chanOn n) = true) := by
    rw [on]
    simp only [Bool.not_true, Bool.false_eq_true, or_false]
    omega
  unfold State.driveChan
  dsimp only
  rw [if_neg (by omega), if_neg works, if_neg (by rw [free]; decide)]
  exact fld_drive_same _

theorem filterLen_le (n : Nat) : filterLen n ≤ 200 := by
  unfold filterLen
  split <;> omega

theorem filterStep_follows (len : Nat) (x raw filt : Bool) (run : Nat) : (filterStep len x raw filt run).1 = x ∧
    (x = raw → run + 1 < filterLen len → (filterStep len x raw filt run).2.1 = filt) ∧
    (x = raw → filterLen len ≤ run + 1 → (filterStep len x raw filt run).2.1 = x) ∧
    (x ≠ raw → 1 < filterLen len → (filterStep len x raw filt run).2 = (filt, 1)) := by
  have cap := filterLen_le len
  unfold filterStep
  refine ⟨rfl, fun same short => ?_, fun same long => ?_, fun other long => ?_⟩
  · simp only [if_pos same]
    exact if_neg (by omega)
  · simp only [if_pos same]
    exact if_pos (by omega)
  · simp only [if_neg other]
    rw [if_neg (by omega)]

end Outputs

/-- Settles O46: the scan is its parts in order, an output follows its command, and each event shows its condition at the channels
it meets and at their pairs. -/
theorem fieldChannels : Obligations.FieldChannels := by
  unfold Obligations.FieldChannels
  refine ⟨filterStep_follows, fun s scan => rfl, ?_, ?_, ?_⟩
  · exact fun s n _ h64 output => ⟨fun on free => driveChan_on output on free, driveChan_off h64 output⟩
  · intro s n h1 h64
    exact ⟨outputOverload_reports h1 h64, outputThermal_latches h1 h64, channelDiagnostic_open h1 h64, channelDiagnostic_closed h1 h64,
      channelDiagnostic_ext h1 h64⟩
  · intro s g h1 h8
    exact ⟨fun fast => groupOverload_switches h1 h8, lpLow_shows h1 h8, fieldGroupMissing_loses h1 h8,
      fieldGroupPresent_begins h1 h8⟩

end Sys2Proof.Machine

end

-- ==== Sys2Proof/Proofs/Staging.lean ====

section
-- In order, not in parallel: each parallel thread reserves its whole stack of the check's memory.
set_option Elab.async false

/-! SUPPORT. Staged values: what applying them leaves, what a write to a register of an instance stages, and the idle point of a
ring without frames (R258, R263, R265, R287). -/

namespace Sys2Proof.Machine

/-! ### Applying staged values -/

/-- The state without its registers and what is staged. -/
def State.unstaged (s : State) : State := { s with regs := [], staged := [] }

theorem sget_none_mem {α : Type} {m : Sparse α} {k : Nat} (h : sget m k = none) : ∀ e ∈ m, e.1 ≠ k := by
  induction m with
  | nil => exact fun _ he => absurd he (by simp)
  | cons p m ih =>
    obtain ⟨j, v⟩ := p
    rw [sget] at h
    split at h
    · exact absurd h (by simp)
    · next ne =>
      intro e he
      obtain rfl | he := List.mem_cons.mp he
      · exact ne
      · exact ih h e he

section Staged
variable {s : State} {p : Nat → Bool}

theorem setFlds_unstaged (l : List (Nat × Word)) (s : State) : (l.foldl (fun s e => s.setFld e.1 e.2) s).unstaged = s.unstaged :=
  foldl_part State.unstaged (f := fun s e => s.setFld e.1 e.2) (fun _ _ => rfl) l s

theorem setFlds_staged (l : List (Nat × Word)) (s : State) : (l.foldl (fun s e => s.setFld e.1 e.2) s).staged = s.staged :=
  foldl_part State.staged (f := fun s e => s.setFld e.1 e.2) (fun _ _ => rfl) l s

theorem setFlds_fld {l : List (Nat × Word)} {k : Nat} (h : ∀ e ∈ l, e.1 ≠ k) (s : State) :
    (l.foldl (fun s e => s.setFld e.1 e.2) s).fld k = s.fld k := by
  induction l generalizing s with
  | nil => rfl
  | cons e l ih =>
    exact (ih (fun e he => h e (List.mem_cons_of_mem _ he)) _).trans (fld_setFld_other (h e (List.mem_cons_self ..)).symm)

theorem applyStaged_unstaged : (s.applyStaged p).unstaged = s.unstaged := (setFlds_unstaged _ _).trans rfl

theorem applyStaged_staged (k : Nat) : sget (s.applyStaged p).staged k = if p k then none else sget s.staged k := by
  have left : (s.applyStaged p).staged = s.staged.filter (fun e => !p e.1) := setFlds_staged _ _
  rw [left, sget_filter s.staged (fun k => !p k) k]
  cases p k <;> rfl

/-- A register with nothing staged keeps its value. -/
theorem applyStaged_fld {k : Nat} (h : sget s.staged k = none) : (s.applyStaged p).fld k = s.fld k := by
  have all := sget_none_mem h
  exact (setFlds_fld (fun e he => all e (List.mem_filter.mp he).1) _).trans rfl

theorem applyStaged_none {k : Nat} (h : sget s.staged k = none) : sget (s.applyStaged p).staged k = none := by
  rw [applyStaged_staged, h, ite_self]

end Staged

/-! ### Idle points of rings without frames (R287) -/

/-- The registers of a ring that its idle point leaves: ENABLE, and the bits of RSTAT but HOLD. -/
def ringKeptKey (k : Nat) : Bool := decide ((keyOff k - 0x40) % 0x30 = 0 ∧ 0x40 ≤ keyOff k ∧ k % 32 = 0 ∨
  (keyOff k - 0x40) % 0x30 = 0x10 ∧ 0x50 ≤ keyOff k ∧ k % 32 < 8)

/-- Idle points have led from `s` to `t`: no ring has got a frame, and what was not staged keeps its value. -/
structure Idled (s t : State) : Prop where
  hold : (∀ m, s.holdOf m = []) → ∀ m, t.holdOf m = []
  staged : ∀ k, sget s.staged k = none → sget t.staged k = none
  fld : ∀ k, ringKeptKey k = true → sget s.staged k = none → t.fld k = s.fld k
  mem : t.mem = s.mem
  bus : t.bus = s.bus

namespace Idled
variable {s t u : State}

theorem refl (s : State) : Idled s s := ⟨fun h => h, fun _ h => h, fun _ _ _ => rfl, rfl, rfl⟩

theorem trans (h : Idled s t) (g : Idled t u) : Idled s u :=
  ⟨fun e => g.hold (h.hold e), fun k e => g.staged k (h.staged k e), fun k hk e => (g.fld k hk (h.staged k e)).trans (h.fld k hk e),
    g.mem.trans h.mem, g.bus.trans h.bus⟩

theorem setFld (h : Idled s t) {k : Nat} (hk : ringKeptKey k = false) (v : Word) : Idled s (t.setFld k v) :=
  h.trans ⟨fun e => e, fun _ e => e, fun j hj _ => fld_setFld_other fun e => by rw [e, hk] at hj; exact absurd hj (by decide), rfl, rfl⟩

theorem applyStaged (h : Idled s t) (p : Nat → Bool) : Idled s (t.applyStaged p) := by
  have rest : (t.applyStaged p).unstaged = t.unstaged := applyStaged_unstaged
  refine h.trans ⟨fun e m => ?_, fun _ e => applyStaged_none e, fun _ _ e => applyStaged_fld e, (congrArg State.mem rest :),
    (congrArg State.bus rest :)⟩
  exact ((congrArg (fun x => x.holdOf m) rest :) : (t.applyStaged p).holdOf m = t.holdOf m).trans (e m)

/-- A change of a ring's frames in hand and of its minute. -/
theorem same (h : Idled s t) {r : Rings} (hr : r.hold = t.ring.hold) : Idled s { t with ring := r } :=
  h.trans ⟨fun e m => (congrArg (fun x => sgetD [] x m) hr).trans (e m), fun _ e => e, fun _ _ _ => rfl, rfl, rfl⟩

section Rings
variable {n : Nat}

theorem ptr (h : Idled s t) (n : Nat) {l : Nat} (hl : l < 32) (v : Word) :
    Idled s (t.setFld (fk (0x06 + n / 16) (0x048 + 0x30 * (n % 16)) l) v) := by
  refine h.setFld (decide_eq_false ?_) v
  unfold keyOff fk
  omega

theorem ringDrop (h : Idled s t) (n k : Nat) : Idled s (t.ringDrop n k) := by
  have count : ringKeptKey (Reg.RNG_DROPCNT n) = false := decide_eq_false (by unfold keyOff Reg.RNG_DROPCNT fk; omega)
  have event : ringKeptKey (Reg.RNG_EVT2_DROP (n / 16)) = false := decide_eq_false (by unfold keyOff Reg.RNG_EVT2_DROP fk; omega)
  unfold State.ringDrop
  split
  · exact h
  · exact ((h.setFld count _).setFld event _).same rfl

theorem dropHold (h : Idled s t) (n : Nat) : Idled s (t.dropHold n) := by
  have hold : ringKeptKey (Reg.RNG_RSTAT_HOLD n) = false := decide_eq_false (by unfold keyOff Reg.RNG_RSTAT_HOLD fk; omega)
  have dropped : Idled s (t.ringDrop n (t.holdOf n).length) := h.ringDrop ..
  refine dropped.trans ⟨fun e m => ?_, fun _ e => e, fun j hj _ => fld_setHold fun e => ?_, rfl, rfl⟩
  · exact (holdOf_setHold m).trans (by split <;> simp [e])
  · rw [e, hold] at hj
    exact absurd hj (by decide)

theorem dropHand (h : Idled s t) (n : Nat) : Idled s (t.dropHand n) := by
  unfold State.dropHand
  split
  · exact (h.same (r := { t.ring with inHand := serase t.ring.inHand n }) rfl).ringDrop ..
  · exact h

theorem ringRestart (h : Idled s t) (n : Nat) : Idled s (t.ringRestart n) :=
  (((h.ptr n (by decide) _).ptr n (by decide) _).dropHold n).dropHand n

theorem ringIdle (h : Idled s t) (n : Nat) : Idled s (t.ringIdle n) := by
  have first : Idled s (if (sget t.ring.inHand n).isSome then t else t.applyStaged (fun k => ringKey n k && !ringShape k)) := by
    split
    · exact h
    · exact h.applyStaged _
  unfold State.ringIdle
  dsimp only
  split
  · exact h
  · generalize (if (sget t.ring.inHand n).isSome = true then t else t.applyStaged _) = u at first
    split
    · exact (first.applyStaged _).ringRestart n
    · exact first

/-- Where no ring holds a frame, only idle points follow on a ring. -/
theorem ringGo (h : Idled s t) (none : ∀ m, s.holdOf m = []) (n : Nat) : Idled s (t.ringGo n) := by
  have idle {v : State} (g : Idled s v) (m : Nat) : Idled s ((v.pump m (v.ringOwned m)).ringIdle m) := by
    rw [pump_nil (g.hold none m)]
    exact g.ringIdle m
  unfold State.ringGo
  dsimp only
  split
  · have walk (l : List Nat) (v : State) (g : Idled s v) :
        Idled s (l.foldl (fun (s : State) m => (s.pump m (s.ringOwned m)).ringIdle m) v) := by
      induction l generalizing v with
      | nil => exact g
      | cons m l ih => exact ih _ (idle g m)
    exact walk _ _ (idle h n)
  · exact idle h n

end Rings

end Idled

end Sys2Proof.Machine

end

-- ==== Sys2Proof/Proofs/Enabling.lean ====

section
-- In order, not in parallel: each parallel thread reserves its whole stack of the check's memory.
set_option Elab.async false

/-! SUPPORT. A write to the register that holds the ENABLE of an instance, COMPAT, and the end of a shutdown (R265, R271, R286, R301,
R327, R344, R347, R388). -/

namespace Sys2Proof.Machine

/-! ### What the staged fields of a write leave -/

/-- Writing staged fields, with the keys `ks`, has led from `s` to `t` on `page`, which is not that of Traverse. -/
structure Staging (page : Nat) (ks : List Nat) (s t : State) : Prop where
  rest : t.unstaged = s.unstaged
  fld : ∀ k, k ≠ fk page 4 31 → t.fld k = s.fld k
  staged : ∀ k, k ∉ ks → sget s.staged k = none → sget t.staged k = none

namespace Staging
variable {page : Nat} {ks : List Nat} {s t u : State}

theorem refl (s : State) : Staging page ks s s := ⟨rfl, fun _ _ => rfl, fun _ _ e => e⟩

theorem trans (h : Staging page ks s t) (g : Staging page ks t u) : Staging page ks s u :=
  ⟨g.rest.trans h.rest, fun k hk => (g.fld k hk).trans (h.fld k hk), fun k hk e => g.staged k hk (h.staged k hk e)⟩

theorem mode (h : Staging page ks s t) : t.mode = s.mode := (congrArg State.mode h.rest :)
theorem mem (h : Staging page ks s t) : t.mem = s.mem := (congrArg State.mem h.rest :)
theorem bus (h : Staging page ks s t) : t.bus = s.bus := (congrArg State.bus h.rest :)
theorem ring (h : Staging page ks s t) : t.ring = s.ring := (congrArg State.ring h.rest :)

theorem writeRws (h : Staging page ks s t) (other : page ≠ 4) {k : Nat} (hk : k ∈ ks) (on : Option Bool) (v : Word) :
    Staging page ks s (t.writeRws page k on v) := by
  unfold State.writeRws
  dsimp only
  split
  · exact h.trans ⟨rfl, fun j hj => fld_flag_other hj, fun _ _ e => e⟩
  · split
    · refine h.trans ⟨rfl, fun _ _ => rfl, fun j _ e => ?_⟩
      show sget (serase t.staged k) j = none
      rw [sget_serase, e, ite_self]
    · refine h.trans ⟨rfl, fun _ _ => rfl, fun j hj e => ?_⟩
      show sget (sput t.staged k v) j = none
      rw [sget_sput_other _ _ fun same => hj (by rw [same]; exact hk), e]

end Staging

section Fields
variable {s : State} {page off : Nat} {v m : Word} {on : Option Bool} {f : Field}

/-- The keys of some fields. -/
def fieldKeys (page off : Nat) (fs : List Field) : List Nat := fs.map (fun f => fk page off f.lo)

theorem writeField_rws (other : page ≠ 4) (rws : f.acc = .rws) {ks : List Nat} (hk : fk page off f.lo ∈ ks) :
    Staging page ks s (s.writeField page off on v m f) := by
  unfold State.writeField
  dsimp only
  split
  · exact Staging.refl s
  · split
    · exact Staging.refl s
    · rw [rws]
      exact (Staging.refl s).writeRws other hk on _

theorem writeFields_rws (other : page ≠ 4) {fs : List Field} (rws : ∀ f ∈ fs, f.acc = .rws) :
    Staging page (fieldKeys page off fs) s (fs.foldl (fun s f => s.writeField page off on v m f) s) := by
  have walk (l : List Field) (t : State) (hl : ∀ f ∈ l, f ∈ fs) (h : Staging page (fieldKeys page off fs) s t) :
      Staging page (fieldKeys page off fs) s (l.foldl (fun s f => s.writeField page off on v m f) t) := by
    induction l generalizing t with
    | nil => exact h
    | cons f l ih =>
      have hf := hl f (List.mem_cons_self ..)
      exact ih _ (fun g hg => hl g (List.mem_cons_of_mem _ hg))
        (h.trans (writeField_rws other (rws f hf) (List.mem_map.mpr ⟨f, hf, rfl⟩)))
  exact walk fs s (fun _ h => h) (Staging.refl s)

theorem writeField_ro (ro : f.acc = .ro) : s.writeField page off on v m f = s := by
  unfold State.writeField
  simp [ro]

/-- A field of one bit takes its bit of the word written. -/
theorem bit_of_shift (v : Word) (l : Nat) : (v >>> l) &&& 1 = b2w (v.getLsbD l) := by
  apply BitVec.eq_of_getLsbD_eq
  intro i hi
  rw [BitVec.getLsbD_and, BitVec.getLsbD_ushiftRight]
  cases i with
  | zero => cases v.getLsbD l <;> simp [b2w]
  | succ i =>
    have one : (1 : Word).getLsbD (i + 1) = false := by simp
    rw [one, Bool.and_false]
    cases v.getLsbD l <;> simp [b2w]

theorem bitMerge_bit (old : Bool) (v : Word) {l : Nat} (one : f.width = 1) (lo : f.lo = l)
    (mask : (0xFFFFFFFF : Word) >>> l &&& 1 = 1) : bitMerge f (b2w old) v 0xFFFFFFFF = b2w (v.getLsbD l) := by
  unfold bitMerge
  rw [one, lo]
  dsimp only
  rw [show (BitVec.ofNat 32 (2 ^ 1 - 1) : Word) = 1 from rfl, mask, bit_of_shift]
  cases old <;> simp [b2w]

theorem touched_bit {l : Nat} (one : f.width = 1) (lo : f.lo = l) (mask : (0xFFFFFFFF : Word) >>> l &&& 1 = 1) :
    touched f 0xFFFFFFFF = true := by
  unfold touched
  rw [one, lo, show (BitVec.ofNat 32 (2 ^ 1 - 1) : Word) = 1 from rfl, mask]
  decide

/-- The field at bit 0 of an instance's register, where it is the ENABLE. -/
theorem writeField_enable {i : Inst} (hi : instOf page off = some i) (key : i.enable = fk page off 0) (rw_ : f.acc = .rw)
    (one : f.width = 1) (lo : f.lo = 0) : s.writeField page off on v 0xFFFFFFFF f = s.setEnable i (v.getLsbD 0) := by
  have bits : bitsOf f v 0xFFFFFFFF = b2w (v.getLsbD 0) := bitMerge_bit false v one lo (by decide)
  unfold State.writeField
  dsimp only
  rw [touched_bit one lo (by decide), rw_, hi, lo, bits]
  cases v.getLsbD 0 <;> simp [b2w, key]

/-- A bit of an instance's register that is not its ENABLE takes its bit of the word written. -/
theorem writeField_bit {l : Nat} (rw_ : f.acc = .rw) (one : f.width = 1) (lo : f.lo = l) (mask : (0xFFFFFFFF : Word) >>> l &&& 1 = 1)
    (other : ∀ i, instOf page off = some i → fk page off l ≠ i.enable) :
    s.writeField page off on v 0xFFFFFFFF f = s.setFld (fk page off l) (bitMerge f (s.fld (fk page off l)) v 0xFFFFFFFF) := by
  unfold State.writeField
  dsimp only
  rw [touched_bit one lo mask, rw_, lo]
  cases inst : instOf page off with
  | none => rfl
  | some i => simp [other i inst]

end Fields

/-! ### A write to the register of an instance -/

/-- Some fields of a register, written in order. -/
def State.writeFields (s : State) (page off : Nat) (on : Option Bool) (v : Word) (fs : List Field) : State :=
  fs.foldl (fun s f => s.writeField page off on v 0xFFFFFFFF f) s

section Registers
variable {s : State} {src : WSrc} {page off : Nat} {v : Word} {fs ws others : List Field}

/-- Staged fields are written first, then the others; nothing else is in the register. -/
theorem writePrimary_fields (hf : fieldsAt page off = fs) (hw : fs.filter (fun f => decide (f.acc = .rws)) = ws)
    (ho : fs.filter (fun f => decide (f.acc ≠ .rws)) = others) (wo : hasAcc fs .wo = false) (wd : hasAcc fs .wd = false)
    (bad : s.badCompat page off v 0xFFFFFFFF = false) (claim : s.ringClaim page off v 0xFFFFFFFF = none) (other : page ≠ 4) :
    s.writePrimary src page off v 0xFFFFFFFF = (instOf page off).elim id (fun i t => t.settleInst i)
      ((s.writeFields page off ((instOf page off).map s.enabled) v ws).writeFields page off ((instOf page off).map s.enabled) v
        others) := by
  unfold State.writePrimary
  dsimp only
  rw [hf, hw, ho, bad, claim, wo, wd]
  cases instOf page off with
  | none => simp [other, State.writeFields]
  | some i => simp [State.writeFields]

/-- Where the register is an instance's, its staged values settle after the write. -/
theorem writePrimary_inst {i : Inst} (hi : instOf page off = some i) (hf : fieldsAt page off = fs)
    (hw : fs.filter (fun f => decide (f.acc = .rws)) = ws) (rws : ∀ f ∈ ws, f.acc = .rws)
    (ho : fs.filter (fun f => decide (f.acc ≠ .rws)) = others) (wo : hasAcc fs .wo = false) (wd : hasAcc fs .wd = false)
    (bad : s.badCompat page off v 0xFFFFFFFF = false) (claim : s.ringClaim page off v 0xFFFFFFFF = none) (other : page ≠ 4) :
    ∃ u, Staging page (fieldKeys page off ws) s u ∧ s.writePrimary src page off v 0xFFFFFFFF =
      (u.writeFields page off (some (s.enabled i)) v others).settleInst i := by
  refine ⟨_, writeFields_rws (on := some (s.enabled i)) (v := v) (m := 0xFFFFFFFF) other rws, ?_⟩
  rw [writePrimary_fields hf hw ho wo wd bad claim other, hi]
  rfl

/-- A source with no dangerous write pending writes an open page. -/
theorem srcWrite_primary (hp : (pageRows page).isSome = true) (hs : sealedPage page = false) (h : s.wd = []) (ho : off < 0x400) :
    s.srcWrite src page off v = s.writePrimary src page off v 0xFFFFFFFF := by
  rw [srcWrite_allowed (mayWrite_open hp hs), regWrite_primary h ho]

/-- Only the registers of a CAN channel and of a serial channel claim rings (R274). -/
theorem ringClaim_beside (h : ∀ c, instOf page off ≠ some (.can c) ∧ instOf page off ≠ some (.ser c)) (m : Word) :
    s.ringClaim page off v m = none := by
  unfold State.ringClaim
  split
  · next c e => exact absurd e (h c).1
  · next c e => exact absurd e (h c).2
  · rfl

theorem badCompat_beside (h : off ≠ 0) : s.badCompat page off v 0xFFFFFFFF = false := by
  unfold State.badCompat
  simp [h]

end Registers

section Enables
variable {s : State} {i : Inst}

theorem enabled_of_zero (h : s.fld i.enable = 0) : s.enabled i = false := by
  unfold State.enabled
  rw [h]
  rfl

theorem enabled_of_one (h : s.fld i.enable = 1) : s.enabled i = true := by
  unfold State.enabled
  rw [h]
  rfl

theorem setEnable_denied (h : s.mayEnable i = false) (b : Bool) : s.setEnable i b = s := if_pos (.inl (by rw [h]; rfl))

theorem setEnable_on (may : s.mayEnable i = true) (off : s.enabled i = false) (free : i ∉ s.bus.shutting) :
    s.setEnable i true = (s.flag i.enable true).startInst i := by
  have quiet : decide (i ∈ (s.flag i.enable true).bus.shutting) = false := decide_eq_false free
  unfold State.setEnable
  rw [if_neg (by rw [may, off]; decide)]
  dsimp only
  rw [if_neg (by rw [quiet]; decide), if_pos rfl]

theorem setEnable_off (may : s.mayEnable i = true) (on : s.enabled i = true) (free : i ∉ s.bus.shutting) :
    s.setEnable i false = (s.flag i.enable false).beginShutdown i := by
  have quiet : decide (i ∈ (s.flag i.enable false).bus.shutting) = false := decide_eq_false free
  unfold State.setEnable
  rw [if_neg (by rw [may, on]; decide)]
  dsimp only
  rw [if_neg (by rw [quiet]; decide), if_neg (by decide)]

end Enables

/-! ### Rings (R286) -/

/-- RNG_CFGn. -/
def ringCfg : List Field := [⟨0, 1, .rw, 0⟩, ⟨1, 1, .rws, 0⟩, ⟨2, 1, .rws, 0⟩, ⟨3, 4, .rws, 4⟩, ⟨8, 8, .ro, 0⟩]

theorem ringCfg_fields : ∀ n ∈ List.range 32, fieldsAt (ringPage n) (ringReg n 0) = ringCfg ∧
    instOf (ringPage n) (ringReg n 0) = some (.ring n) ∧ (pageRows (ringPage n)).isSome = true ∧
    sealedPage (ringPage n) = false := by
  decide

section RingEnable
variable {s : State} {src : WSrc} {n : Nat} {v : Word}

/-- A write of RNG_CFGn stages what it stages, sets ENABLE, and comes to the ring's idle point. -/
theorem ringEnableWrite_sets (hn : n < 32) (wd : s.wd = []) :
    ∃ u, Staging (ringPage n) [Reg.RNG_CFG_DIR n, Reg.RNG_CFG_POLICY n, Reg.RNG_CFG_SIZE n] s u ∧
      exec (.ringEnableWrite src n v) s = .next ((u.setEnable (.ring n) (v.getLsbD 0)).ringIdle n) := by
  obtain ⟨fields, inst, rows, open_⟩ := ringCfg_fields n (List.mem_range.mpr hn)
  have low : ringReg n 0 < 0x400 := by
    unfold ringReg
    omega
  have other : ringPage n ≠ 4 := by
    unfold ringPage
    omega
  have claim : s.ringClaim (ringPage n) (ringReg n 0) v 0xFFFFFFFF = none := ringClaim_beside (fun c => by simp [inst]) _
  obtain ⟨u, staging, written⟩ := writePrimary_inst (src := src) (s := s) (v := v) inst fields (ws := [⟨1, 1, .rws, 0⟩, ⟨2, 1, .rws, 0⟩, ⟨3, 4, .rws, 4⟩])
    rfl (by decide) (others := [⟨0, 1, .rw, 0⟩, ⟨8, 8, .ro, 0⟩]) rfl rfl rfl
    (badCompat_beside (by unfold ringReg; omega)) claim other
  refine ⟨u, staging, (congrArg Host.Outcome.next (if_pos hn)).trans ?_⟩
  have enables : u.writeFields (ringPage n) (ringReg n 0) (some (s.enabled (.ring n))) v [⟨0, 1, .rw, 0⟩, ⟨8, 8, .ro, 0⟩] =
      u.setEnable (.ring n) (v.getLsbD 0) := by
    unfold State.writeFields
    rw [List.foldl_cons, List.foldl_cons, List.foldl_nil, writeField_enable (f := ⟨0, 1, .rw, 0⟩) inst rfl rfl rfl rfl, writeField_ro rfl]
  rw [srcWrite_primary rows open_ wd low, written, enables]
  rfl

end RingEnable

section RingEnds
variable {s u : State} {src : WSrc} {n : Nat} {v : Word}

theorem keyOff_fk {p o l : Nat} (ho : o < 0x1000) (hl : l < 32) : keyOff (fk p o l) = o := by
  unfold keyOff fk
  omega

/-- ENABLE, and the shutting-down and idle bits: what an idle point leaves, and a write of RNG_CFGn does not stage. -/
theorem ringKept_keys (n : Nat) : (ringKeptKey (Reg.RNG_CFG_ENABLE n) = true ∧ ringKeptKey (Reg.RNG_RSTAT_IDLE n) = true ∧
    ringKeptKey (Reg.RNG_RSTAT_SHUTTING n) = true) ∧ ∀ k ∈ [Reg.RNG_CFG_ENABLE n, Reg.RNG_RSTAT_IDLE n, Reg.RNG_RSTAT_SHUTTING n],
      k ∉ [Reg.RNG_CFG_DIR n, Reg.RNG_CFG_POLICY n, Reg.RNG_CFG_SIZE n] ∧ k ≠ fk (ringPage n) 4 31 := by
  refine ⟨⟨decide_eq_true ?_, decide_eq_true ?_, decide_eq_true ?_⟩, fun k hk => ?_⟩
  · unfold Reg.RNG_CFG_ENABLE
    rw [keyOff_fk (by omega) (by decide)]
    unfold fk
    omega
  · unfold Reg.RNG_RSTAT_IDLE
    rw [keyOff_fk (by omega) (by decide)]
    unfold fk
    omega
  · unfold Reg.RNG_RSTAT_SHUTTING
    rw [keyOff_fk (by omega) (by decide)]
    unfold fk
    omega
  · simp only [List.mem_cons, List.not_mem_nil, or_false, not_or] at hk ⊢
    unfold Reg.RNG_CFG_ENABLE Reg.RNG_RSTAT_IDLE Reg.RNG_RSTAT_SHUTTING fk at hk
    unfold Reg.RNG_CFG_DIR Reg.RNG_CFG_POLICY Reg.RNG_CFG_SIZE ringPage fk
    omega

theorem ringEnable_apart (n : Nat) : Reg.RNG_CFG_ENABLE n ≠ Reg.RNG_RSTAT_IDLE n ∧ Reg.RNG_CFG_ENABLE n ≠ Reg.RNG_RSTAT_SHUTTING n := by
  unfold Reg.RNG_CFG_ENABLE Reg.RNG_RSTAT_IDLE Reg.RNG_RSTAT_SHUTTING fk
  omega

variable (hn : n < 32) (wd : s.wd = []) (none : s.staged = []) (free : Inst.ring n ∉ s.bus.shutting) (empty : ∀ m, s.holdOf m = [])
include hn wd none free empty

/-- An enabled ring is no longer idle. -/
theorem ringEnable_starts (off : s.fld (Reg.RNG_CFG_ENABLE n) = 0) (on : v.getLsbD 0 = true) :
    ∃ t, exec (.ringEnableWrite src n v) s = .next t ∧ t.fld (Reg.RNG_CFG_ENABLE n) = 1 ∧ t.fld (Reg.RNG_RSTAT_IDLE n) = 0 ∧
      t.mem = s.mem := by
  obtain ⟨u, staging, acts⟩ := ringEnableWrite_sets (src := src) (v := v) hn wd
  obtain ⟨⟨keptEnable, keptIdle, -⟩, keys⟩ := ringKept_keys n
  have key {k : Nat} (hk : k ∈ [Reg.RNG_CFG_ENABLE n, Reg.RNG_RSTAT_IDLE n, Reg.RNG_RSTAT_SHUTTING n]) : sget u.staged k = .none :=
    staging.staged k (keys k hk).1 (by rw [none]; rfl)
  have was : u.enabled (.ring n) = false := enabled_of_zero ((staging.fld _ (keys (Reg.RNG_CFG_ENABLE n) (by simp)).2).trans off)
  let w := (u.flag (Reg.RNG_CFG_ENABLE n) true).flag (Reg.RNG_RSTAT_IDLE n) false
  have starts : u.setEnable (.ring n) true = w.ringGo n := setEnable_on rfl was (by rw [staging.bus]; exact free)
  have noHold : ∀ m, w.holdOf m = [] := fun m => (congrArg (fun r : Rings => sgetD [] r.hold m) staging.ring).trans (empty m)
  have idled : Idled w ((w.ringGo n).ringIdle n) := ((Idled.refl w).ringGo noHold n).ringIdle n
  refine ⟨_, acts, ?_, ?_, ?_⟩
  · rw [on, starts, idled.fld _ keptEnable (key (by simp))]
    exact (fld_flag_other (ringEnable_apart n).1).trans (fld_flag_same ..)
  · rw [on, starts, idled.fld _ keptIdle (key (by simp))]
    exact fld_flag_same ..
  · rw [on, starts, idled.mem]
    exact staging.mem

/-- A disabled ring begins to shut down. -/
theorem ringEnable_shuts (on : s.fld (Reg.RNG_CFG_ENABLE n) = 1) (off : v.getLsbD 0 = false) :
    ∃ t, exec (.ringEnableWrite src n v) s = .next t ∧ t.fld (Reg.RNG_CFG_ENABLE n) = 0 ∧ t.fld (Reg.RNG_RSTAT_SHUTTING n) = 1 ∧
      Inst.ring n ∈ t.bus.shutting ∧ t.holdOf n = [] ∧ t.mem = s.mem := by
  obtain ⟨u, staging, acts⟩ := ringEnableWrite_sets (src := src) (v := v) hn wd
  obtain ⟨⟨keptEnable, -, keptShutting⟩, keys⟩ := ringKept_keys n
  have key {k : Nat} (hk : k ∈ [Reg.RNG_CFG_ENABLE n, Reg.RNG_RSTAT_IDLE n, Reg.RNG_RSTAT_SHUTTING n]) : sget u.staged k = .none :=
    staging.staged k (keys k hk).1 (by rw [none]; rfl)
  have was : u.enabled (.ring n) = true := enabled_of_one ((staging.fld _ (keys (Reg.RNG_CFG_ENABLE n) (by simp)).2).trans on)
  let x := u.flag (Reg.RNG_CFG_ENABLE n) false
  let w := { x with bus.shutting := x.bus.shutting ++ [Inst.ring n] }.flag (Reg.RNG_RSTAT_SHUTTING n) true
  have shuts : u.setEnable (.ring n) false = w.dropHold n := setEnable_off rfl was (by rw [staging.bus]; exact free)
  have noHold : ∀ m, w.holdOf m = [] := fun m => (congrArg (fun r : Rings => sgetD [] r.hold m) staging.ring).trans (empty m)
  have idled : Idled w ((w.dropHold n).ringIdle n) := ((Idled.refl w).dropHold n).ringIdle n
  refine ⟨_, acts, ?_, ?_, ?_, ?_, ?_⟩
  · rw [off, shuts, idled.fld _ keptEnable (key (by simp))]
    exact (fld_flag_other (ringEnable_apart n).2).trans (fld_flag_same ..)
  · rw [off, shuts, idled.fld _ keptShutting (key (by simp))]
    exact fld_flag_same ..
  · rw [off, shuts, idled.bus]
    exact List.mem_append_right _ (List.mem_singleton_self _)
  · rw [off, shuts]
    exact idled.hold noHold n
  · rw [off, shuts, idled.mem]
    exact staging.mem

end RingEnds

/-! ### Instances that settle all their staged values (R344, R347, R388, R327) -/

/-- The instances whose staged values all settle while they are disabled. -/
def Inst.plain : Inst → Bool
  | .ring _ | .can _ | .ser _ => false
  | _ => true

section Settling
variable {s : State} {i : Inst} (hi : i.plain = true)
include hi

theorem settleInst_plain : s.settleInst i = if s.enabled i then s else s.applyStaged (fun k => instOf (keyPage k) (keyOff k) = some i) := by
  cases i with
  | ring n => exact absurd hi (by simp [Inst.plain])
  | can n => exact absurd hi (by simp [Inst.plain])
  | ser n => exact absurd hi (by simp [Inst.plain])
  | port | mvb | wtb | enc | ridge | brg | fch | tli | pd => rfl

theorem settle_fld {k : Nat} (hk : sget s.staged k = none) : (s.settleInst i).fld k = s.fld k := by
  rw [settleInst_plain hi]
  split
  · rfl
  · exact applyStaged_fld hk

theorem settle_rest : (s.settleInst i).unstaged = s.unstaged := by
  rw [settleInst_plain hi]
  split
  · rfl
  · exact applyStaged_unstaged

theorem settle_enabled (on : s.enabled i = true) : s.settleInst i = s := by
  rw [settleInst_plain hi, if_pos on]

end Settling

/-! ### Bridge contexts (R344, R347) -/

theorem brgCfg_fields : ∀ n ∈ upTo 63, fieldsAt 0x11 (0x10 * (n - 1)) = [⟨0, 1, .rw, 0⟩, ⟨1, 1, .rws, 0⟩, ⟨20, 12, .rws, 0⟩] ∧
    instOf 0x11 (0x10 * (n - 1)) = some (.brg n) := by
  decide

theorem mem_upTo {n k : Nat} (h1 : 1 ≤ n) (hk : n ≤ k) : n ∈ upTo k :=
  List.mem_map.mpr ⟨n - 1, List.mem_range.mpr (by omega), by omega⟩

section BridgeKeys
variable {s : State} {n : Nat}

/-- What a write of BRG_CFGn stages beside its own keys. -/
theorem brg_staging {u : State} (staging : Staging 0x11 [Reg.BRG_CFG_PREFETCH n, Reg.BRG_CFG_BASE n] s u)
    (none : sget s.staged (Reg.BRG_CFG_ENABLE n) = none) :
    u.fld (Reg.BRG_CFG_ENABLE n) = s.fld (Reg.BRG_CFG_ENABLE n) ∧ sget u.staged (Reg.BRG_CFG_ENABLE n) = .none ∧
      u.isManager = s.isManager ∧ u.online n = s.online n := by
  refine ⟨staging.fld _ ?_, staging.staged _ ?_ none, ?_, ?_⟩
  · unfold Reg.BRG_CFG_ENABLE fk
    omega
  · simp only [List.mem_cons, List.not_mem_nil, or_false, not_or]
    unfold Reg.BRG_CFG_ENABLE Reg.BRG_CFG_PREFETCH Reg.BRG_CFG_BASE fk
    omega
  · unfold State.isManager State.role
    rw [staging.fld _ (by decide)]
  · unfold State.online State.mapBit State.bit
    rw [staging.fld _ (by decide), staging.fld _ (by decide)]

theorem setBctx_rest (t : State) (x : BridgeCtx) : (t.setBctx n x).staged = t.staged ∧ (t.setBctx n x).bus = t.bus := by
  unfold State.setBctx State.ctxStat
  split <;> exact ⟨rfl, rfl⟩

/-- Dropping a line changes its context's own status, and nothing of the enables. -/
theorem dropLine_frame (t : State) : (t.dropLine n).staged = t.staged ∧ (t.dropLine n).bus = t.bus ∧
    ((t.dropLine n).bctx n).line = none := by
  obtain ⟨staged, bus⟩ := setBctx_rest (n := n) t { t.bctx n with line := none }
  have line : ((t.setBctx n { t.bctx n with line := none }).bctx n).line = none := by rw [bctx_setBctx_same]
  unfold State.dropLine
  dsimp only
  split
  · split
    · exact ⟨staged, bus, line⟩
    · exact ⟨staged, bus, line⟩
  · next empty => exact ⟨rfl, rfl, empty⟩

theorem dropLine_enable (t : State) : (t.dropLine n).fld (Reg.BRG_CFG_ENABLE n) = t.fld (Reg.BRG_CFG_ENABLE n) := by
  have apart : Reg.BRG_CFG_ENABLE n ≠ Reg.BRG_STAT_NP_OUT n ∧ Reg.BRG_CFG_ENABLE n ≠ Reg.BRG_STAT_POSTED_OUT n ∧
      Reg.BRG_CFG_ENABLE n ≠ Reg.BRG_STAT_LINE_VALID n ∧ Reg.BRG_CFG_ENABLE n ≠ Reg.BRG_PREFDISCCNT := by
    unfold Reg.BRG_CFG_ENABLE Reg.BRG_STAT_NP_OUT Reg.BRG_STAT_POSTED_OUT Reg.BRG_STAT_LINE_VALID Reg.BRG_PREFDISCCNT fk
    omega
  obtain ⟨np, posted, line, disc⟩ := apart
  unfold State.dropLine
  dsimp only
  split
  · split
    · exact (fld_bump_other disc).trans (fld_setBctx _ np posted line)
    · exact fld_setBctx _ np posted line
  · rfl

end BridgeKeys

section Bridges
variable {s : State} {src : WSrc} {n : Nat} {v : Word} (h1 : 1 ≤ n) (hn : n ≤ 63) (wd : s.wd = [])
include h1 hn wd

theorem brgEnableWrite_sets : ∃ u, Staging 0x11 [Reg.BRG_CFG_PREFETCH n, Reg.BRG_CFG_BASE n] s u ∧
    exec (.brgEnableWrite src n v) s = .next ((u.setEnable (.brg n) (v.getLsbD 0)).settleInst (.brg n)) := by
  obtain ⟨fields, inst⟩ := brgCfg_fields n (mem_upTo h1 hn)
  have claim : s.ringClaim 0x11 (0x10 * (n - 1)) v 0xFFFFFFFF = none := ringClaim_beside (fun c => by simp [inst]) _
  have key : fk 0x11 (0x10 * (n - 1)) 0 = Reg.BRG_CFG_ENABLE n ∧ fieldKeys 0x11 (0x10 * (n - 1)) [⟨1, 1, .rws, 0⟩, ⟨20, 12, .rws, 0⟩] =
      [Reg.BRG_CFG_PREFETCH n, Reg.BRG_CFG_BASE n] := by
    unfold fieldKeys Reg.BRG_CFG_ENABLE Reg.BRG_CFG_PREFETCH Reg.BRG_CFG_BASE
    simp only [Nat.zero_add, List.map_cons, List.map_nil, and_self]
  obtain ⟨u, staging, written⟩ := writePrimary_inst (src := src) (s := s) (v := v) inst fields (ws := [⟨1, 1, .rws, 0⟩, ⟨20, 12, .rws, 0⟩])
    rfl (by decide) (others := [⟨0, 1, .rw, 0⟩]) rfl rfl rfl
    (badCompat_plain (by decide) _) claim (by decide)
  refine ⟨u, key.2 ▸ staging, (congrArg Host.Outcome.next (if_pos ⟨h1, hn⟩)).trans ?_⟩
  have enables : u.writeFields 0x11 (0x10 * (n - 1)) (some (s.enabled (.brg n))) v [⟨0, 1, .rw, 0⟩] = u.setEnable (.brg n) (v.getLsbD 0) :=
    writeField_enable (f := ⟨0, 1, .rw, 0⟩) (on := some (s.enabled (.brg n))) inst key.1.symm rfl rfl rfl
  rw [srcWrite_primary rfl rfl wd (by omega), written, enables]

variable (none : sget s.staged (Reg.BRG_CFG_ENABLE n) = none)
include none

/-- Without the right, a write leaves ENABLE and starts no shutdown. -/
theorem brgEnable_denied (other : s.isManager = false) : ∃ t, exec (.brgEnableWrite src n v) s = .next t ∧
    t.fld (Reg.BRG_CFG_ENABLE n) = s.fld (Reg.BRG_CFG_ENABLE n) ∧ t.bus.shutting = s.bus.shutting := by
  obtain ⟨u, staging, acts⟩ := brgEnableWrite_sets (src := src) (v := v) h1 hn wd
  obtain ⟨enable, unstaged, manager, -⟩ := brg_staging staging none
  have denied : u.setEnable (.brg n) (v.getLsbD 0) = u :=
    setEnable_denied (i := .brg n) (manager.trans other) _
  refine ⟨_, acts, ?_, ?_⟩
  · rw [denied, settle_fld rfl unstaged, enable]
  · have rest : (u.settleInst (.brg n)).bus = u.bus := (congrArg State.bus (settle_rest (i := .brg n) rfl) :)
    rw [denied, rest, staging.bus]

variable (manager : s.isManager = true) (free : Inst.brg n ∉ s.bus.shutting)
include manager free

theorem brgEnable_starts (off : s.fld (Reg.BRG_CFG_ENABLE n) = 0) (on : v.getLsbD 0 = true) :
    ∃ t, exec (.brgEnableWrite src n v) s = .next t ∧ t.fld (Reg.BRG_CFG_ENABLE n) = 1 ∧
      t.fld (Reg.BRG_STAT_STATE n) = (if s.online n = true then 1 else 2) ∧ t.mem = s.mem := by
  obtain ⟨u, staging, acts⟩ := brgEnableWrite_sets (src := src) (v := v) h1 hn wd
  obtain ⟨enable, -, manages, online⟩ := brg_staging staging none
  have was : u.enabled (.brg n) = false := enabled_of_zero (enable.trans off)
  let w := u.flag (Reg.BRG_CFG_ENABLE n) true
  have starts : u.setEnable (.brg n) true = w.setFld (Reg.BRG_STAT_STATE n) (if w.online n then 1 else 2) :=
    setEnable_on (manages.trans manager) was (by rw [staging.bus]; exact free)
  have apart : Reg.BRG_CFG_ENABLE n ≠ Reg.BRG_STAT_STATE n ∧ Reg.RDG_ONLINELO_MAP ≠ Reg.BRG_CFG_ENABLE n ∧
      Reg.RDG_ONLINEHI_MAP ≠ Reg.BRG_CFG_ENABLE n := by
    unfold Reg.BRG_CFG_ENABLE Reg.BRG_STAT_STATE Reg.RDG_ONLINELO_MAP Reg.RDG_ONLINEHI_MAP fk
    omega
  have same : w.online n = u.online n := by
    unfold State.online State.mapBit State.bit
    rw [fld_flag_other apart.2.1, fld_flag_other apart.2.2]
  have shown : (w.setFld (Reg.BRG_STAT_STATE n) (if w.online n then 1 else 2)).fld (Reg.BRG_CFG_ENABLE n) = 1 :=
    (fld_setFld_other apart.1).trans (fld_flag_same ..)
  have ends : (u.setEnable (.brg n) true).settleInst (.brg n) = w.setFld (Reg.BRG_STAT_STATE n) (if w.online n then 1 else 2) := by
    rw [starts]
    exact settle_enabled rfl (enabled_of_one shown)
  refine ⟨_, acts, ?_, ?_, ?_⟩
  · rw [on, ends]
    exact shown
  · rw [on, ends, fld_setFld_same, same, online]
  · rw [on, ends]
    exact staging.mem

theorem brgEnable_shuts (on : s.fld (Reg.BRG_CFG_ENABLE n) = 1) (off : v.getLsbD 0 = false) :
    ∃ t, exec (.brgEnableWrite src n v) s = .next t ∧ t.fld (Reg.BRG_CFG_ENABLE n) = 0 ∧ Inst.brg n ∈ t.bus.shutting ∧
      (t.bctx n).line = .none ∧ t.mem = s.mem := by
  obtain ⟨u, staging, acts⟩ := brgEnableWrite_sets (src := src) (v := v) h1 hn wd
  obtain ⟨enable, unstaged, manages, -⟩ := brg_staging staging none
  have was : u.enabled (.brg n) = true := enabled_of_one (enable.trans on)
  let x := u.flag (Reg.BRG_CFG_ENABLE n) false
  let w := { x with bus.shutting := x.bus.shutting ++ [Inst.brg n] }.flag (Reg.BRG_STAT_SHUTTING n) true
  have shuts : u.setEnable (.brg n) false = w.dropLine n :=
    setEnable_off (manages.trans manager) was (by rw [staging.bus]; exact free)
  obtain ⟨staged, bus, line⟩ := dropLine_frame (n := n) w
  have apart : Reg.BRG_CFG_ENABLE n ≠ Reg.BRG_STAT_SHUTTING n := by
    unfold Reg.BRG_CFG_ENABLE Reg.BRG_STAT_SHUTTING fk
    omega
  have rest := settle_rest (s := w.dropLine n) (i := .brg n) rfl
  have restBus : ((w.dropLine n).settleInst (.brg n)).bus = (w.dropLine n).bus := (congrArg State.bus rest :)
  have restCtx : ((w.dropLine n).settleInst (.brg n)).bctx n = (w.dropLine n).bctx n := (congrArg (fun x => x.bctx n) rest :)
  have restMem : ((w.dropLine n).settleInst (.brg n)).mem = (w.dropLine n).mem := (congrArg State.mem rest :)
  refine ⟨_, acts, ?_, ?_, ?_, ?_⟩
  · rw [off, shuts, settle_fld rfl (by rw [staged]; exact unstaged), dropLine_enable]
    exact (fld_flag_other apart).trans (fld_flag_same ..)
  · rw [off, shuts, restBus, bus]
    exact List.mem_append_right _ (List.mem_singleton_self _)
  · rw [off, shuts, restCtx, line]
  · rw [off, shuts, restMem, dropLine_mem]
    exact staging.mem

end Bridges

/-! ### Field channels, MVB and WTB (R388, R308, R313) -/

/-- The instances that start at once, and that shut down without an act of their own. -/
def Inst.simple : Inst → Bool
  | .mvb | .wtb | .fch _ => true
  | _ => false

/-- Where such an instance shows that it is shutting down. -/
def Inst.shutKey : Inst → Nat
  | .mvb => Reg.MVB_STAT_SHUTTING
  | .wtb => Reg.WTB_STAT_SHUTTING
  | .fch n => Reg.FCH_STAT_SHUTTING n
  | _ => 0

section Simple
variable {s : State} {i : Inst} (hi : i.simple = true)
include hi

theorem plain_of_simple : i.plain = true := by
  cases i with
  | mvb | wtb | fch => rfl
  | ring | port | can | ser | enc | ridge | brg | tli | pd => exact absurd hi (by simp [Inst.simple])

theorem enable_ne_shutKey : i.enable ≠ i.shutKey := by
  cases i with
  | mvb | wtb => decide
  | fch n =>
    show Reg.FCH_CFG_ENABLE n ≠ Reg.FCH_STAT_SHUTTING n
    unfold Reg.FCH_CFG_ENABLE Reg.FCH_STAT_SHUTTING fk
    omega
  | ring | port | can | ser | enc | ridge | brg | tli | pd => exact absurd hi (by simp [Inst.simple])

theorem startInst_simple : (s.startInst i).fld = s.fld ∧ (s.startInst i).staged = s.staged ∧ (s.startInst i).mem = s.mem := by
  cases i with
  | mvb | wtb | fch => exact ⟨rfl, rfl, rfl⟩
  | ring | port | can | ser | enc | ridge | brg | tli | pd => exact absurd hi (by simp [Inst.simple])

theorem beginShutdown_simple : s.beginShutdown i = { s with bus.shutting := s.bus.shutting ++ [i] }.flag i.shutKey true := by
  cases i with
  | mvb | wtb | fch => rfl
  | ring | port | can | ser | enc | ridge | brg | tli | pd => exact absurd hi (by simp [Inst.simple])

theorem setEnable_beside (b : Bool) : (s.setEnable i b).staged = s.staged ∧ (s.setEnable i b).mem = s.mem := by
  obtain ⟨-, staged, mem⟩ := startInst_simple (s := s.flag i.enable b) hi
  unfold State.setEnable
  split
  · exact ⟨rfl, rfl⟩
  · dsimp only
    split
    · exact ⟨rfl, rfl⟩
    · split
      · exact ⟨staged, mem⟩
      · rw [beginShutdown_simple hi]
        exact ⟨rfl, rfl⟩

theorem setEnable_fld {k : Nat} (enable : k ≠ i.enable) (shut : k ≠ i.shutKey) (b : Bool) : (s.setEnable i b).fld k = s.fld k := by
  unfold State.setEnable
  split
  · rfl
  · dsimp only
    split
    · exact fld_flag_other enable
    · split
      · rw [(startInst_simple hi).1]
        exact fld_flag_other enable
      · rw [beginShutdown_simple hi]
        exact (fld_flag_other shut).trans (fld_flag_other enable)

variable (may : s.mayEnable i = true) (free : i ∉ s.bus.shutting)
include may free

theorem setEnable_starts (off : s.fld i.enable = 0) : (s.setEnable i true).fld i.enable = 1 := by
  rw [setEnable_on may (enabled_of_zero off) free, (startInst_simple hi).1]
  exact fld_flag_same ..

theorem setEnable_shuts (on : s.fld i.enable = 1) : (s.setEnable i false).fld i.enable = 0 ∧ i ∈ (s.setEnable i false).bus.shutting := by
  rw [setEnable_off may (enabled_of_one on) free, beginShutdown_simple hi]
  exact ⟨(fld_flag_other (enable_ne_shutKey hi)).trans (fld_flag_same ..), List.mem_append_right _ (List.mem_singleton_self _)⟩

end Simple

/-- FCH_CFGn; the register of channel 1 holds the COMPAT of the page too. -/
theorem fchCfg_fields : ∀ n ∈ upTo 64, fieldsAt 0x13 (0x10 * (n - 1)) = [⟨0, 1, .rw, 0⟩, ⟨1, 3, .ro, 0⟩, ⟨4, 8, .rws, 30⟩,
    ⟨12, 2, .rws, 1⟩, ⟨14, 6, .ro, 0⟩] ++ (if n = 1 then [⟨31, 1, .rw, 0⟩] else []) := by
  decide

section Channels
variable {s : State} {src : WSrc} {n : Nat} {v : Word} (h1 : 1 ≤ n) (hn : n ≤ 64) (wd : s.wd = [])
  (compat : s.badCompat 0x13 (0x10 * (n - 1)) v 0xFFFFFFFF = false)
include h1 hn wd compat

/-- A write of FCH_CFGn stages what it stages, sets ENABLE and, for channel 1, COMPAT. -/
theorem fchEnableWrite_sets : ∃ u w : State, Staging 0x13 [Reg.FCH_CFG_FILTER n, Reg.FCH_CFG_DIAG n] s u ∧
    exec (.fchEnableWrite src n v) s = .next (w.settleInst (.fch n)) ∧
    w.fld (Reg.FCH_CFG_ENABLE n) = (u.setEnable (.fch n) (v.getLsbD 0)).fld (Reg.FCH_CFG_ENABLE n) ∧
    w.staged = u.staged ∧ w.bus = (u.setEnable (.fch n) (v.getLsbD 0)).bus ∧ w.mem = s.mem := by
  have fields := fchCfg_fields n (mem_upTo h1 hn)
  have inst : instOf 0x13 (0x10 * (n - 1)) = some (.fch n) := by
    show some (Inst.fch (0x10 * (n - 1) / 0x10 + 1)) = _
    rw [show 0x10 * (n - 1) / 0x10 + 1 = n by omega]
  have key : fk 0x13 (0x10 * (n - 1)) 0 = Reg.FCH_CFG_ENABLE n ∧ fieldKeys 0x13 (0x10 * (n - 1)) [⟨4, 8, .rws, 30⟩, ⟨12, 2, .rws, 1⟩] =
      [Reg.FCH_CFG_FILTER n, Reg.FCH_CFG_DIAG n] := by
    unfold fieldKeys Reg.FCH_CFG_ENABLE Reg.FCH_CFG_FILTER Reg.FCH_CFG_DIAG
    simp only [Nat.zero_add, List.map_cons, List.map_nil, and_self]
  let last : List Field := if n = 1 then [⟨31, 1, .rw, 0⟩] else []
  obtain ⟨u, staging, written⟩ := writePrimary_inst (src := src) (s := s) (v := v) inst fields (ws := [⟨4, 8, .rws, 30⟩, ⟨12, 2, .rws, 1⟩])
    (by split <;> rfl) (by decide) (others := [⟨0, 1, .rw, 0⟩, ⟨1, 3, .ro, 0⟩, ⟨14, 6, .ro, 0⟩] ++ last) (by dsimp only [last]; split <;> rfl)
    (by split <;> rfl) (by split <;> rfl) compat (ringClaim_beside (fun c => by simp [inst]) _) (by decide)
  let x := u.setEnable (.fch n) (v.getLsbD 0)
  obtain ⟨staged, mem⟩ := setEnable_beside (s := u) (i := .fch n) rfl (v.getLsbD 0)
  have enables : u.writeFields 0x13 (0x10 * (n - 1)) (some (s.enabled (.fch n))) v
      ([⟨0, 1, .rw, 0⟩, ⟨1, 3, .ro, 0⟩, ⟨14, 6, .ro, 0⟩] ++ last) =
      x.writeFields 0x13 (0x10 * (n - 1)) (some (s.enabled (.fch n))) v last := by
    unfold State.writeFields
    rw [List.foldl_append, List.foldl_cons, List.foldl_cons, List.foldl_cons, List.foldl_nil,
      writeField_enable (f := ⟨0, 1, .rw, 0⟩) inst key.1.symm rfl rfl rfl, writeField_ro rfl, writeField_ro rfl]
  refine ⟨u, x.writeFields 0x13 (0x10 * (n - 1)) (some (s.enabled (.fch n))) v last, key.2 ▸ staging,
    (congrArg Host.Outcome.next (if_pos ⟨h1, hn⟩)).trans ?_, ?_⟩
  · rw [srcWrite_primary rfl rfl wd (by omega), written, enables]
  · by_cases first : n = 1
    · have ne : Reg.FCH_CFG_ENABLE n ≠ fk 0x13 (0x10 * (n - 1)) 31 := by
        rw [← key.1]
        unfold fk
        omega
      have apart : ∀ i, instOf 0x13 (0x10 * (n - 1)) = some i → fk 0x13 (0x10 * (n - 1)) 31 ≠ i.enable := by
        intro i hi
        obtain rfl : Inst.fch n = i := Option.some.inj (inst.symm.trans hi)
        exact ne.symm
      have only : last = [⟨31, 1, .rw, 0⟩] := if_pos first
      have compats := writeField_bit (s := x) (f := ⟨31, 1, .rw, 0⟩) (v := v) (on := some (s.enabled (.fch n))) rfl rfl rfl (by decide) apart
      rw [only]
      exact ⟨(congrArg (fun t => t.fld (Reg.FCH_CFG_ENABLE n)) compats).trans (fld_setFld_other ne),
        (congrArg State.staged compats).trans staged, (congrArg State.bus compats).trans rfl,
        (congrArg State.mem compats).trans (mem.trans staging.mem)⟩
    · have nothing : last = [] := if_neg first
      rw [nothing]
      exact ⟨rfl, staged, rfl, mem.trans staging.mem⟩

variable (none : sget s.staged (Reg.FCH_CFG_ENABLE n) = none)
include none

/-- What a write of FCH_CFGn leaves, beside ENABLE, once its staged values have settled. -/
theorem fchEnableWrite_ends : ∃ u t, Staging 0x13 [Reg.FCH_CFG_FILTER n, Reg.FCH_CFG_DIAG n] s u ∧
    u.fld (Reg.FCH_CFG_ENABLE n) = s.fld (Reg.FCH_CFG_ENABLE n) ∧ u.claimed n = s.claimed n ∧
    exec (.fchEnableWrite src n v) s = .next t ∧
    t.fld (Reg.FCH_CFG_ENABLE n) = (u.setEnable (.fch n) (v.getLsbD 0)).fld (Reg.FCH_CFG_ENABLE n) ∧
    t.bus = (u.setEnable (.fch n) (v.getLsbD 0)).bus ∧ t.mem = s.mem := by
  obtain ⟨u, w, staging, acts, enable, staged, bus, mem⟩ := fchEnableWrite_sets (src := src) h1 hn wd compat
  have apart : Reg.FCH_CFG_ENABLE n ≠ fk 0x13 4 31 ∧ Reg.FCH_STAT_SF_CLAIMED n ≠ fk 0x13 4 31 ∧
      Reg.FCH_CFG_ENABLE n ∉ [Reg.FCH_CFG_FILTER n, Reg.FCH_CFG_DIAG n] := by
    simp only [List.mem_cons, List.not_mem_nil, or_false, not_or]
    unfold Reg.FCH_CFG_ENABLE Reg.FCH_STAT_SF_CLAIMED Reg.FCH_CFG_FILTER Reg.FCH_CFG_DIAG fk
    omega
  have unstaged : sget w.staged (Reg.FCH_CFG_ENABLE n) = .none := by
    rw [staged]
    exact staging.staged _ apart.2.2 none
  have rest := settle_rest (s := w) (i := .fch n) rfl
  refine ⟨u, _, staging, staging.fld _ apart.1, ?_, acts, (settle_fld rfl unstaged).trans enable, ?_, ?_⟩
  · unfold State.claimed
    rw [staging.fld _ apart.2.1]
  · exact (congrArg State.bus rest :).trans bus
  · exact (congrArg State.mem rest :).trans mem

/-- The ENABLE of a claimed channel belongs to its safety function. -/
theorem fchEnable_denied (claimed : s.claimed n = true) : ∃ t, exec (.fchEnableWrite src n v) s = .next t ∧
    t.fld (Reg.FCH_CFG_ENABLE n) = s.fld (Reg.FCH_CFG_ENABLE n) ∧ t.bus.shutting = s.bus.shutting := by
  obtain ⟨u, t, staging, was, claim, acts, enable, bus, -⟩ := fchEnableWrite_ends (src := src) h1 hn wd compat none
  have denied : u.setEnable (.fch n) (v.getLsbD 0) = u := by
    refine setEnable_denied ?_ _
    show (!u.claimed n) = false
    rw [claim, claimed]
    rfl
  rw [denied] at enable bus
  exact ⟨t, acts, enable.trans was, by rw [bus, staging.bus]⟩

variable (open_ : s.claimed n = false) (free : Inst.fch n ∉ s.bus.shutting)
include open_ free

theorem fchEnable_sets : ∃ u t : State, u.mayEnable (.fch n) = true ∧ Inst.fch n ∉ u.bus.shutting ∧
    u.fld (Reg.FCH_CFG_ENABLE n) = s.fld (Reg.FCH_CFG_ENABLE n) ∧ exec (.fchEnableWrite src n v) s = .next t ∧
    t.fld (Reg.FCH_CFG_ENABLE n) = (u.setEnable (.fch n) (v.getLsbD 0)).fld (Reg.FCH_CFG_ENABLE n) ∧
    t.bus = (u.setEnable (.fch n) (v.getLsbD 0)).bus ∧ t.mem = s.mem := by
  obtain ⟨u, t, staging, was, claim, acts, ends⟩ := fchEnableWrite_ends (src := src) h1 hn wd compat none
  refine ⟨u, t, ?_, by rw [staging.bus]; exact free, was, acts, ends⟩
  show (!u.claimed n) = true
  rw [claim, open_]
  rfl

theorem fchEnable_starts (off : s.fld (Reg.FCH_CFG_ENABLE n) = 0) (on : v.getLsbD 0 = true) :
    ∃ t, exec (.fchEnableWrite src n v) s = .next t ∧ t.fld (Reg.FCH_CFG_ENABLE n) = 1 ∧ t.mem = s.mem := by
  obtain ⟨u, t, may, free', was, acts, enable, -, mem⟩ := fchEnable_sets (src := src) h1 hn wd compat none open_ free
  rw [on] at enable
  exact ⟨t, acts, enable.trans (setEnable_starts rfl may free' (was.trans off)), mem⟩

theorem fchEnable_shuts (on : s.fld (Reg.FCH_CFG_ENABLE n) = 1) (off : v.getLsbD 0 = false) :
    ∃ t, exec (.fchEnableWrite src n v) s = .next t ∧ t.fld (Reg.FCH_CFG_ENABLE n) = 0 ∧ Inst.fch n ∈ t.bus.shutting ∧
      t.mem = s.mem := by
  obtain ⟨u, t, may, free', was, acts, enable, bus, mem⟩ := fchEnable_sets (src := src) h1 hn wd compat none open_ free
  rw [off] at enable bus
  obtain ⟨zero, shutting⟩ := setEnable_shuts rfl may free' (was.trans on)
  exact ⟨t, acts, enable.trans zero, by rw [bus]; exact shutting, mem⟩

end Channels

/-! ### The Ridge (R327) -/

/-- RDG_CTRL. -/
def rdgCtrl : List Field := [⟨0, 1, .rw, 0⟩, ⟨8, 8, .ro, 200⟩, ⟨16, 3, .ro, 0⟩, ⟨19, 5, .ro, 8⟩, ⟨24, 8, .ro, 4⟩]

section RidgeEnable
variable {s : State} {src : WSrc} {v : Word}

/-- Looking for the stations of the ring leaves its ENABLE and its state. -/
theorem sendDiscover_kept (starts : s.rdgState = 1) : s.sendDiscover.fld Reg.RDG_CTRL_ENABLE = s.fld Reg.RDG_CTRL_ENABLE ∧
    s.sendDiscover.rdgState = 1 := by
  let x : State := if (s.rdg.backE.isNone || s.rdg.backW.isNone) = true ∧ s.fld Reg.RDG_STAT_RING_CLOSED = 1 then
    (s.flag Reg.RDG_STAT_RING_CLOSED false).flag Reg.RDG_EVT_RING_OPEN true else s
  have opens {k : Nat} (closed : k ≠ Reg.RDG_STAT_RING_CLOSED) (event : k ≠ Reg.RDG_EVT_RING_OPEN) : x.fld k = s.fld k := by
    dsimp only [x]
    split
    · exact (fld_flag_other event).trans (fld_flag_other closed)
    · rfl
  have state : x.rdgState = 1 := (congrArg BitVec.toNat (opens (by decide) (by decide))).trans starts
  have still : (if x.rdgState = 0 then x.setRdg 1 else x) = x := if_neg (by rw [state]; decide)
  unfold State.sendDiscover
  split
  · exact ⟨rfl, starts⟩
  · show (State.rdgBoth { (if x.rdgState = 0 then x.setRdg 1 else x) with rdg.backE := none, rdg.backW := none } _).fld _ = _ ∧
      (State.rdgBoth { (if x.rdgState = 0 then x.setRdg 1 else x) with rdg.backE := none, rdg.backW := none } _).rdgState = 1
    have sent := rdgBoth_sent { x with rdg.backE := none, rdg.backW := none }
    simp only [still]
    exact ⟨((sent _).fld _ (by decide)).trans (opens (by decide) (by decide)),
      (congrArg BitVec.toNat ((sent _).fld _ (by decide))).trans state⟩

variable (wd : s.wd = [])
include wd

theorem rdgEnableWrite_sets : exec (.rdgEnableWrite src v) s = .next ((s.setEnable .ridge (v.getLsbD 0)).settleInst .ridge) := by
  have fields : fieldsAt 0x10 0 = rdgCtrl := by decide
  have written := writePrimary_fields (src := src) (s := s) (v := v) fields (ws := []) rfl (others := rdgCtrl) rfl rfl rfl
    (badCompat_plain (by decide) _) (ringClaim_beside (fun c => by simp [instOf]) _) (by decide)
  have enables : s.writeFields 0x10 0 (some (s.enabled .ridge)) v rdgCtrl = s.setEnable .ridge (v.getLsbD 0) := by
    unfold State.writeFields rdgCtrl
    rw [List.foldl_cons, List.foldl_cons, List.foldl_cons, List.foldl_cons, List.foldl_cons, List.foldl_nil,
      writeField_enable (f := ⟨0, 1, .rw, 0⟩) (i := .ridge) rfl rfl rfl rfl rfl, writeField_ro rfl, writeField_ro rfl, writeField_ro rfl,
      writeField_ro rfl]
  show Host.Outcome.next (s.srcWrite src 0x10 0 v) = _
  rw [srcWrite_primary rfl rfl wd (by decide), written]
  exact congrArg (fun t : State => Host.Outcome.next (t.settleInst .ridge)) enables

variable (none : sget s.staged Reg.RDG_CTRL_ENABLE = none)
include none

theorem rdgEnable_denied (state : sget s.staged Reg.RDG_STAT_STATE = .none) (manager : s.isManager = false) (worker : s.isWorker = false) :
    ∃ t, exec (.rdgEnableWrite src v) s = .next t ∧ t.fld Reg.RDG_CTRL_ENABLE = s.fld Reg.RDG_CTRL_ENABLE ∧
      t.rdgState = s.rdgState := by
  have may : s.mayEnable .ridge = false := by
    show (s.isManager || s.isWorker) = false
    rw [manager, worker]
    rfl
  refine ⟨_, rdgEnableWrite_sets wd, ?_, ?_⟩
  · rw [setEnable_denied may, settle_fld rfl none]
  · rw [setEnable_denied may]
    exact congrArg BitVec.toNat (settle_fld rfl state)

variable (role : s.isManager = true ∨ s.isWorker = true) (free : Inst.ridge ∉ s.bus.shutting)
include role free

omit none in
theorem rdgEnable_starts (off : s.fld Reg.RDG_CTRL_ENABLE = 0) (on : v.getLsbD 0 = true) :
    ∃ t, exec (.rdgEnableWrite src v) s = .next t ∧ t.fld Reg.RDG_CTRL_ENABLE = 1 ∧ t.rdgState = 1 := by
  let w := (s.flag Reg.RDG_CTRL_ENABLE true).setRdg 1
  have starts : s.setEnable .ridge true = if w.isManager then w.sendDiscover else w :=
    setEnable_on (Bool.or_eq_true_iff.mpr role) (enabled_of_zero off) free
  have enable : w.fld Reg.RDG_CTRL_ENABLE = 1 := (fld_setFld_other (by decide)).trans (fld_flag_same ..)
  have state : w.rdgState = 1 := congrArg BitVec.toNat (fld_setFld_same ..)
  have shown : (s.setEnable .ridge true).fld Reg.RDG_CTRL_ENABLE = 1 ∧ (s.setEnable .ridge true).rdgState = 1 := by
    rw [starts]
    split
    · exact ⟨(sendDiscover_kept state).1.trans enable, (sendDiscover_kept state).2⟩
    · exact ⟨enable, state⟩
  refine ⟨_, rdgEnableWrite_sets wd, ?_⟩
  rw [on, settle_enabled rfl (enabled_of_one shown.1)]
  exact shown

theorem rdgEnable_shuts (on : s.fld Reg.RDG_CTRL_ENABLE = 1) (off : v.getLsbD 0 = false) :
    ∃ t, exec (.rdgEnableWrite src v) s = .next t ∧ t.fld Reg.RDG_CTRL_ENABLE = 0 ∧ Inst.ridge ∈ t.bus.shutting := by
  let x := s.flag Reg.RDG_CTRL_ENABLE false
  let w := { x with bus.shutting := x.bus.shutting ++ [Inst.ridge] }.flag Reg.RDG_STAT_SHUTTING true
  have shuts : s.setEnable .ridge false = w := setEnable_off (Bool.or_eq_true_iff.mpr role) (enabled_of_one on) free
  have rest : (w.settleInst .ridge).bus = w.bus := (congrArg State.bus (settle_rest (i := .ridge) rfl) :)
  refine ⟨_, rdgEnableWrite_sets wd, ?_, ?_⟩
  · rw [off, shuts]
    exact (settle_fld (s := w) (i := .ridge) rfl none).trans
      ((fld_flag_other (by decide)).trans (fld_flag_same s Reg.RDG_CTRL_ENABLE false))
  · rw [off, shuts, rest]
    exact List.mem_append_right _ (List.mem_singleton_self _)

end RidgeEnable

/-! ### COMPAT (R265) -/

/-- The fields of a page's first register that a write takes at once, without COMPAT, which is the last. -/
def compatOthers (page : Nat) : List Field := ((fieldsAt page 0).filter (fun f => decide (f.acc ≠ .rws))).dropLast

/-- An instance whose register holds the COMPAT of a page starts and shuts down without an act, and has its keys beside it. -/
def besideCompat (page : Nat) (i : Inst) : Bool := i.simple && i.enable != fk page 0 31 && i.shutKey != fk page 0 31

theorem compat_pages : ∀ page ∈ [0x06, 0x07, 0x08, 0x0A, 0x0B, 0x0C, 0x0D, 0x0E, 0x13, 0x14],
    (fieldsAt page 0).filter (fun f => decide (f.acc ≠ .rws)) = compatOthers page ++ [⟨31, 1, .rw, 0⟩] ∧
    (∀ f ∈ compatOthers page, f.lo < 31 ∧ (f.acc = .rw ∨ f.acc = .ro)) ∧
    (∀ f ∈ (fieldsAt page 0).filter (fun f => decide (f.acc = .rws)), f.lo < 31) ∧
    (hasAcc (fieldsAt page 0) .wo = false ∧ hasAcc (fieldsAt page 0) .wd = false) ∧
    ((pageRows page).isSome = true ∧ sealedPage page = false) ∧ (instOf page 0).all (besideCompat page) = true := by
  decide

section Compat
variable {s : State} {src : WSrc} {page : Nat} {v : Word} {on : Option Bool} {f : Field}
  (beside : (instOf page 0).all (besideCompat page) = true)

theorem fk_ne {page off l m : Nat} (h : l ≠ m) : fk page off l ≠ fk page off m := by
  unfold fk
  omega

include beside in
theorem compatInst {i : Inst} (hi : instOf page 0 = some i) : i.simple = true ∧ fk page 0 31 ≠ i.enable ∧ fk page 0 31 ≠ i.shutKey := by
  rw [hi] at beside
  obtain ⟨⟨simple, enable⟩, shut⟩ : (i.simple = true ∧ (i.enable != fk page 0 31) = true) ∧ (i.shutKey != fk page 0 31) = true := by
    simpa [besideCompat] using beside
  exact ⟨simple, Ne.symm (by simpa using enable), Ne.symm (by simpa using shut)⟩

include beside in
/-- A field below COMPAT leaves it, and what is staged for it. -/
theorem writeField_besideCompat (lo : f.lo < 31) (acc : f.acc = .rw ∨ f.acc = .ro) :
    (s.writeField page 0 on v 0xFFFFFFFF f).fld (fk page 0 31) = s.fld (fk page 0 31) ∧
    (s.writeField page 0 on v 0xFFFFFFFF f).staged = s.staged := by
  have apart : fk page 0 31 ≠ fk page 0 f.lo := fk_ne (by omega)
  obtain rw_ | ro := acc
  · unfold State.writeField
    dsimp only
    rw [rw_]
    split
    · exact ⟨rfl, rfl⟩
    · split
      · exact ⟨rfl, rfl⟩
      · dsimp only
        split
        · next i hi =>
          obtain ⟨simple, enable, shut⟩ := compatInst beside hi
          split
          · exact ⟨setEnable_fld simple enable shut _, (setEnable_beside simple _).1⟩
          · exact ⟨fld_setFld_other apart, rfl⟩
        · exact ⟨fld_setFld_other apart, rfl⟩
  · rw [writeField_ro ro]
    exact ⟨rfl, rfl⟩

include beside in
theorem writeFields_besideCompat {l : List Field} (hl : ∀ f ∈ l, f.lo < 31 ∧ (f.acc = .rw ∨ f.acc = .ro)) :
    (s.writeFields page 0 on v l).fld (fk page 0 31) = s.fld (fk page 0 31) ∧ (s.writeFields page 0 on v l).staged = s.staged := by
  induction l generalizing s with
  | nil => exact ⟨rfl, rfl⟩
  | cons f l ih =>
    obtain ⟨lo, acc⟩ := hl f (List.mem_cons_self ..)
    obtain ⟨fld, staged⟩ := writeField_besideCompat (s := s) (on := on) (v := v) beside lo acc
    obtain ⟨fld', staged'⟩ := ih (s := s.writeField page 0 on v 0xFFFFFFFF f) fun g hg => hl g (List.mem_cons_of_mem _ hg)
    exact ⟨fld'.trans fld, staged'.trans staged⟩

variable (hp : compatPage page = true) (wd : s.wd = [])
include hp wd

theorem compatWrite_primary : exec (.compatWrite src page v) s = .next (s.writePrimary src page 0 v 0xFFFFFFFF) := by
  obtain ⟨-, -, -, -, ⟨rows, open_⟩, -⟩ := compat_pages page (by simpa [compatPage] using hp)
  refine (congrArg Host.Outcome.next (if_pos hp)).trans ?_
  rw [srcWrite_primary rows open_ wd (by decide)]

/-- While an instance of the page is enabled, a write that would change COMPAT only sets WIGN. -/
theorem compatWrite_ignored (enabled : (instsOf page).any s.enabled = true) (differs : v.getLsbD 31 ≠ s.compat page) :
    exec (.compatWrite src page v) s = .next (s.wign page) := by
  have bad : s.badCompat page 0 v 0xFFFFFFFF = true := by
    unfold State.badCompat
    rw [hp, enabled]
    simpa using differs
  rw [compatWrite_primary hp wd]
  unfold State.writePrimary
  exact congrArg Host.Outcome.next (if_pos bad)

/-- With every instance of the page disabled, COMPAT takes its bit. -/
theorem compatWrite_takes (none : sget s.staged (fk page 0 31) = none) (was : s.fld (fk page 0 31) = b2w (s.compat page))
    (disabled : (instsOf page).any s.enabled = false) :
    ∃ t, exec (.compatWrite src page v) s = .next t ∧ t.fld (fk page 0 31) = b2w (v.getLsbD 31) := by
  obtain ⟨fields, lows, staging, ⟨wo, wd'⟩, -, beside⟩ := compat_pages page (by simpa [compatPage] using hp)
  have other : page ≠ 4 := by
    rintro rfl
    exact absurd hp (by decide)
  have bad : s.badCompat page 0 v 0xFFFFFFFF = false := by
    unfold State.badCompat
    rw [disabled, Bool.and_false]
  have claim : s.ringClaim page 0 v 0xFFFFFFFF = .none := by
    refine ringClaim_beside (fun c => ⟨fun e => ?_, fun e => ?_⟩) _
    · exact absurd (compatInst beside e).1 (by simp [Inst.simple])
    · exact absurd (compatInst beside e).1 (by simp [Inst.simple])
  have written := writePrimary_fields (src := src) (s := s) (v := v) rfl rfl fields wo wd' bad claim other
  generalize (instOf page 0).map s.enabled = on at written
  let ws := (fieldsAt page 0).filter (fun f => decide (f.acc = .rws))
  let u := s.writeFields page 0 on v ws
  have staged : Staging page (fieldKeys page 0 ws) s u :=
    writeFields_rws other fun f hf => of_decide_eq_true (List.mem_filter.mp hf).2
  have apart : fk page 0 31 ∉ fieldKeys page 0 ws := by
    intro h
    obtain ⟨f, hf, e⟩ := List.mem_map.mp h
    exact fk_ne (Nat.ne_of_lt (staging f hf)) e
  have ne : fk page 0 31 ≠ fk page 4 31 := by
    unfold fk
    omega
  obtain ⟨kept, same⟩ := writeFields_besideCompat (s := u) (on := on) (v := v) beside lows
  let w := u.writeFields page 0 on v (compatOthers page)
  have old : w.fld (fk page 0 31) = b2w (s.compat page) := kept.trans ((staged.fld _ ne).trans was)
  have takes : u.writeFields page 0 on v (compatOthers page ++ [⟨31, 1, .rw, 0⟩]) = w.setFld (fk page 0 31) (b2w (v.getLsbD 31)) := by
    unfold State.writeFields
    rw [List.foldl_append]
    refine (writeField_bit (s := w) (on := on) (f := ⟨31, 1, .rw, 0⟩) rfl rfl rfl (by decide) fun i hi => (compatInst beside hi).2.1).trans ?_
    rw [old, bitMerge_bit _ _ rfl rfl (by decide)]
  have free : sget (w.setFld (fk page 0 31) (b2w (v.getLsbD 31))).staged (fk page 0 31) = .none := by
    show sget w.staged _ = _
    rw [same]
    exact staged.staged _ apart none
  refine ⟨_, (compatWrite_primary hp wd).trans (congrArg Host.Outcome.next written), ?_⟩
  rw [takes]
  cases inst : instOf page 0 with
  | none => exact fld_setFld_same ..
  | some i => exact (settle_fld (plain_of_simple (compatInst beside inst).1) free).trans (fld_setFld_same ..)

end Compat

/-! ### The end of a shutdown (R271) -/

/-- An instance that may end its shutdown is taken off the list first. -/
def State.offList (s : State) (i : Inst) : State :=
  (State.shuttingBit { s with bus.shutting := s.bus.shutting.filter (fun j => decide (j ≠ i)) } i false).stopInst i

section Ends
variable {s : State} {i : Inst}

theorem shutdownComplete_ring {n : Nat} (shutting : .ring n ∈ s.bus.shutting) (may : s.mayEnd (.ring n) = true) :
    exec (.shutdownComplete (.ring n)) s = .next ((if (s.offList (.ring n)).enabled (.ring n) then
      (s.offList (.ring n)).startInst (.ring n) else s.offList (.ring n)).ringIdle n) :=
  congrArg Host.Outcome.next (if_pos (by rw [may, decide_eq_true shutting]; rfl))

theorem shutdownComplete_other (ring : ∀ n, i ≠ .ring n) (shutting : i ∈ s.bus.shutting) (may : s.mayEnd i = true) :
    exec (.shutdownComplete i) s = .next (if (s.offList i).enabled i then (s.offList i).startInst i else s.offList i) := by
  refine (congrArg Host.Outcome.next (if_pos (by rw [may, decide_eq_true shutting]; rfl))).trans ?_
  cases i with
  | ring n => exact absurd rfl (ring n)
  | port | mvb | wtb | can | ser | enc | ridge | brg | fch | tli | pd => rfl

theorem putBit_bus (k m : Nat) (b : Bool) : (s.putBit k m b).bus = s.bus := by
  unfold State.putBit
  split
  · rfl
  · rfl

theorem shuttingBit_bus (b : Bool) : (s.shuttingBit i b).bus = s.bus := by
  cases i with
  | ser | tli => exact putBit_bus ..
  | ring | port | mvb | wtb | can | enc | ridge | brg | fch | pd => rfl

theorem unlatch_bus (n : Nat) : (s.unlatch n).bus = s.bus := by
  unfold State.unlatch
  split
  · exact putBit_bus ..
  · rfl

/-- Stopping an instance that is not the Ridge leaves the fieldbuses and the shutdowns. -/
theorem stopInst_bus (other : i ≠ .ridge) : (s.stopInst i).bus = s.bus := by
  cases i with
  | ridge => exact absurd rfl other
  | ring | port | mvb | wtb | can | ser | enc | brg | tli | pd => rfl
  | fch n =>
    have lost : (if modeIsInput (s.chanMode n) ∧ !s.ownLost (.channel n) then s.loseChan n else s).bus = s.bus := by
      split
      · exact (congrArg State.bus ((Acquired.refl s).loseChan n).aside :)
      · rfl
    unfold State.stopInst
    dsimp only
    rw [foldl_part State.bus (f := fun s k => s.flag k false) (fun _ _ => rfl), unlatch_bus]
    exact lost

theorem offList_free (other : i ≠ .ridge) : i ∉ (s.offList i).bus.shutting := by
  unfold State.offList
  rw [stopInst_bus other, shuttingBit_bus]
  simp

theorem startInst_shutting (other : i ≠ .ridge) (ring : ∀ n, i ≠ .ring n) : (s.startInst i).bus.shutting = s.bus.shutting := by
  cases i with
  | ridge => exact absurd rfl other
  | ring n => exact absurd rfl (ring n)
  | port | mvb | wtb | can | ser | enc | brg | fch | tli | pd => rfl

/-- A disabled ring stays disabled while its shutdown ends. -/
theorem offList_ring_enabled {n : Nat} : (s.offList (.ring n)).enabled (.ring n) = s.enabled (.ring n) := by
  have fld : (s.offList (.ring n)).fld (Reg.RNG_CFG_ENABLE n) = s.fld (Reg.RNG_CFG_ENABLE n) :=
    (fld_flag_other (ringEnable_apart n).1).trans (fld_flag_other (ringEnable_apart n).2)
  exact congrArg (· == 1) fld

theorem shutdownComplete_free (shutting : i ∈ s.bus.shutting) (may : s.mayEnd i = true) (other : i ≠ .ridge)
    (off : s.enabled i = false) : ∃ t, exec (.shutdownComplete i) s = .next t ∧ i ∉ t.bus.shutting := by
  by_cases ring : ∃ n, i = .ring n
  · obtain ⟨n, rfl⟩ := ring
    refine ⟨_, shutdownComplete_ring shutting may, ?_⟩
    rw [offList_ring_enabled, off, if_neg (by decide), ((Idled.refl (s.offList (.ring n))).ringIdle n).bus]
    exact offList_free other
  · have noRing : ∀ n, i ≠ .ring n := fun n e => ring ⟨n, e⟩
    refine ⟨_, shutdownComplete_other noRing shutting may, ?_⟩
    split
    · rw [startInst_shutting other noRing]
      exact offList_free other
    · exact offList_free other

end Ends

section BridgeEnd
variable {s : State} {n : Nat}

theorem brgStat_apart (n : Nat) : Reg.BRG_CFG_ENABLE n ≠ Reg.BRG_STAT_SHUTTING n ∧ Reg.BRG_CFG_ENABLE n ≠ Reg.BRG_STAT_STATE n ∧
    Reg.BRG_STAT_SHUTTING n ≠ Reg.BRG_STAT_STATE n ∧ ∀ k, k < fk 0x11 0 0 → k ≠ Reg.BRG_STAT_SHUTTING n ∧ k ≠ Reg.BRG_STAT_STATE n := by
  unfold Reg.BRG_CFG_ENABLE Reg.BRG_STAT_SHUTTING Reg.BRG_STAT_STATE fk
  refine ⟨by omega, by omega, by omega, fun k hk => by omega⟩

theorem offList_brg {k : Nat} (shutting : k ≠ Reg.BRG_STAT_SHUTTING n) (state : k ≠ Reg.BRG_STAT_STATE n) :
    (s.offList (.brg n)).fld k = s.fld k :=
  (fld_setFld_other state).trans (fld_flag_other shutting)

theorem brgShutdown_ends (shutting : Inst.brg n ∈ s.bus.shutting) (may : s.mayEnd (.brg n) = true) :
    ∃ t, exec (.shutdownComplete (.brg n)) s = .next t ∧ Inst.brg n ∉ t.bus.shutting ∧ t.fld (Reg.BRG_STAT_SHUTTING n) = 0 ∧
      t.fld (Reg.BRG_STAT_STATE n) = (if s.enabled (.brg n) = true then (if s.online n = true then 1 else 2) else 0) := by
  obtain ⟨enableShut, enableState, shutState, low⟩ := brgStat_apart n
  have free : Inst.brg n ∉ (s.offList (.brg n)).bus.shutting := offList_free nofun
  have enabled : (s.offList (.brg n)).enabled (.brg n) = s.enabled (.brg n) := congrArg (· == 1) (offList_brg enableShut enableState)
  have online : (s.offList (.brg n)).online n = s.online n := by
    unfold State.online State.mapBit State.bit
    rw [offList_brg (low _ (by decide)).1 (low _ (by decide)).2, offList_brg (low _ (by decide)).1 (low _ (by decide)).2]
  have shut : (s.offList (.brg n)).fld (Reg.BRG_STAT_SHUTTING n) = 0 := (fld_setFld_other shutState).trans (fld_flag_same ..)
  refine ⟨_, shutdownComplete_other nofun shutting may, ?_⟩
  rw [enabled]
  split
  · refine ⟨free, (fld_setFld_other shutState).trans shut, ?_⟩
    rw [← online]
    exact fld_setFld_same ..
  · exact ⟨free, shut, fld_setFld_same ..⟩

end BridgeEnd

section RidgeEnd
variable {s : State}

theorem loseOnline_none {l : List Nat} (h : ∀ n ∈ l, s.online n = false) :
    l.foldl (fun s n => if s.online n then s.loseStation n else s) s = s := by
  induction l with
  | nil => rfl
  | cons n l ih =>
    rw [List.foldl_cons, h n (List.mem_cons_self ..)]
    exact ih fun m hm => h m (List.mem_cons_of_mem _ hm)

/-- At the Summit, with no station online, the Ridge's shutdown only shows its end. -/
theorem ridgeShutdown_ends (shutting : Inst.ridge ∈ s.bus.shutting) (manager : s.isManager = true) (off : s.enabled .ridge = false)
    (none : ∀ n, n < 64 → s.online n = false) :
    ∃ t, exec (.shutdownComplete .ridge) s = .next t ∧ Inst.ridge ∉ t.bus.shutting ∧ t.fld Reg.RDG_STAT_SHUTTING = 0 ∧
      t.rdgState = 0 := by
  let x := { s with bus.shutting := s.bus.shutting.filter (fun j => decide (j ≠ Inst.ridge)) }.flag Reg.RDG_STAT_SHUTTING false
  have online (n : Nat) (h : n < 64) : x.online n = false := by
    rw [← none n h]
    unfold State.online State.mapBit State.bit
    rw [fld_flag_other (by decide), fld_flag_other (by decide)]
    rfl
  have role : x.isWorker = false := by
    have same : x.role = s.role := congrArg BitVec.toNat (fld_flag_other (by decide))
    have one : s.role = 1 := by simpa [State.isManager] using manager
    unfold State.isWorker
    rw [same, one]
    rfl
  have ends : s.offList .ridge = x.setRdg 0 := by
    show State.stopInst x .ridge = _
    unfold State.stopInst
    dsimp only
    rw [loseOnline_none fun n hn => online n (List.mem_range.mp hn), role, if_neg (by simp)]
  have free : Inst.ridge ∉ (x.setRdg 0).bus.shutting := by
    show Inst.ridge ∉ s.bus.shutting.filter (fun j => decide (j ≠ Inst.ridge))
    simp
  have enabled : (x.setRdg 0).enabled .ridge = false := by
    rw [← off]
    exact congrArg (· == 1) ((fld_setFld_other (by decide)).trans (fld_flag_other (by decide)))
  refine ⟨_, shutdownComplete_other nofun shutting rfl, ?_⟩
  rw [ends, enabled, if_neg (by decide)]
  exact ⟨free, (fld_setFld_other (by decide)).trans (fld_flag_same ..), congrArg BitVec.toNat (fld_setFld_same ..)⟩

end RidgeEnd

/-- Settles O45: a write of an instance's register stages its fields, sets or clears ENABLE and settles; the end of a shutdown
takes the instance off the list and shows it stopped. -/
theorem enablesAndShutdown : Obligations.EnablesAndShutdown :=
  ⟨fun _ _ _ _ hn wd none free empty => ⟨ringEnable_starts hn wd none free empty, ringEnable_shuts hn wd none free empty⟩,
    fun _ _ _ _ h1 hn wd free none =>
      ⟨fun manager => brgEnable_starts h1 hn wd none manager free, fun manager => brgEnable_shuts h1 hn wd none manager free,
        brgEnable_denied h1 hn wd none⟩,
    fun _ _ _ _ h1 hn wd free none compat =>
      ⟨fun claimed => fchEnable_starts h1 hn wd compat none claimed free,
        fun claimed => fchEnable_shuts h1 hn wd compat none claimed free, fchEnable_denied h1 hn wd compat none⟩,
    fun _ _ _ wd free none state =>
      ⟨fun role => rdgEnable_starts wd role free, fun role => rdgEnable_shuts wd none role free, rdgEnable_denied wd none state⟩,
    fun _ _ _ _ hp wd none was => ⟨compatWrite_takes hp wd none was, compatWrite_ignored hp wd⟩,
    fun _ _ => shutdownComplete_free,
    fun _ _ => brgShutdown_ends,
    fun _ => ridgeShutdown_ends⟩

end Sys2Proof.Machine

end
